-- ==== Sys2Proof/Word.lean ====
section
/-! DEFINITION. The word types of the Zelaskior Z9 (01_notation.md R14, R15): 64-bit registers and
addresses, 32-bit instruction words, lanes and FP32 encodings, and bytes. -/

namespace Sys2Proof

/-- A 64-bit x register, program counter or address (R61). -/
abbrev Word := BitVec 64

/-- A 32-bit sequencer word, VX op-word, lane or FP32 encoding (R82, R90, R68). -/
abbrev Word32 := BitVec 32

/-- One byte of memory or of a cell payload. -/
abbrev Byte := BitVec 8

end Sys2Proof
end

