-- ==== Sys2Proof/Syntax.lean ====
section
/-! DEFINITION. The Z9's instructions as data: ONE inductive `Instr` with one constructor per row of the
opcode table. Sequencer instructions carry the fields of R82, VX op-words those of R90. Engine operations
(R93) carry the bent, and the egress where several engines share an operation, whose input they consume.
The whole steps of units, links and the host (spec/95) carry the place they happen at and what the outside
world supplies. -/

namespace Sys2Proof

abbrev XReg := BitVec 5
abbrev FReg := BitVec 4
abbrev CReg := BitVec 3
/-- An operand code of R68: 0-63 v, 64-71 o, 72-73 l, 74-81 t, 82-89 in, 90-97 out. -/
abbrev VCode := BitVec 7

/-- Integer type tokens, codes 0-6 of R83. -/
inductive ITy where
  | b | bu | h | hu | w | wu | d
  deriving DecidableEq, Repr, Inhabited

/-- Memory scopes of R16. -/
inductive Scope where
  | strand | bent | region | device | system
  deriving DecidableEq, Repr, Inhabited

/-- Order tokens of R83. -/
inductive Order where
  | rlx | acq | rel | acqrel
  deriving DecidableEq, Repr, Inhabited

/-- Rounding codes of R30. -/
inductive Rnd where
  | rne | rtz | rup | rdn | rna | dyn
  deriving DecidableEq, Repr, Inhabited

/-- The type field of an op-word, R90. -/
inductive VTy where
  | f32 | f16 | bf16 | i32
  deriving DecidableEq, Repr, Inhabited

/-- The levels of a reduction or scan, R91. -/
inductive VLvl where
  | reg | row | tile | round
  deriving DecidableEq, Repr, Inhabited

/-- Which head of an ingress R253 speaks of: a class's head in the virtual output queue towards an egress, or
the multicast head. -/
inductive HeadId where
  | uni (e c : Nat)
  | multi
  deriving DecidableEq, Repr, Inhabited

/-- A unit of storage that meets an error, R365. -/
inductive ErrUnit where
  /-- the HBM unit or scratchpad granule that holds a storage address -/
  | mem (addr : Nat)
  /-- state of the engine at an egress of a bent, or of the queues before it -/
  | engine (bent egress : Nat)
  /-- the header of the oldest cell in flight in an egress input buffer -/
  | header (bent egress : Nat)
  deriving DecidableEq, Repr, Inhabited

/-- A Scarf message of R360: data or an acknowledgement (R391), with its identity. -/
structure ScarfMsg where
  collid : Nat
  gen : Nat
  step : Nat
  rank : Nat
  ack : Bool
  /-- the elements it carries: the rank that contributed them, or NRANKS for reduced ones, and the chunk -/
  parts : List (Nat × Nat × List Nat)
  deriving DecidableEq, Repr, Inhabited

/-- R360, R362, R363: whose abort it is, by rank, and whether it is of the switch's kind. -/
structure AbortBy where
  sender : Nat
  bySwitch : Bool
  deriving DecidableEq, Repr, Inhabited

/-- Which window a register write of the host goes to (R319, R380). -/
inductive Window where
  | partition (p : Nat)
  | device
  deriving DecidableEq, Repr, Inhabited

inductive Instr where
  -- integer register group, R108-R110
  | add (d a b : XReg) (t : ITy)
  | sub (d a b : XReg) (t : ITy)
  | mul (d a b : XReg) (t : ITy)
  | mulh (d a b : XReg) (t : ITy)
  | div (d a b : XReg) (t : ITy)
  | rem (d a b : XReg) (t : ITy)
  | and (d a b : XReg) (t : ITy)
  | or (d a b : XReg) (t : ITy)
  | xor (d a b : XReg) (t : ITy)
  | sll (d a b : XReg) (t : ITy)
  | srl (d a b : XReg) (t : ITy)
  | sra (d a b : XReg) (t : ITy)
  | min (d a b : XReg) (t : ITy)
  | max (d a b : XReg) (t : ITy)
  | clz (d a : XReg) (t : ITy)
  | ctz (d a : XReg) (t : ITy)
  | popc (d a : XReg) (t : ITy)
  | sext (d a : XReg) (t : ITy)
  | zext (d a : XReg) (t : ITy)
  -- immediates and bit fields, R111-R113
  | addi (d a : XReg) (imm : BitVec 15)
  | andi (d a : XReg) (imm : BitVec 15)
  | ori (d a : XReg) (imm : BitVec 15)
  | xori (d a : XReg) (imm : BitVec 15)
  | slli (d a : XReg) (n : BitVec 6)
  | srli (d a : XReg) (n : BitVec 6)
  | srai (d a : XReg) (n : BitVec 6)
  | liZ (d : XReg) (h : BitVec 2) (imm : BitVec 16)
  | liK (d : XReg) (h : BitVec 2) (imm : BitVec 16)
  | bfx (d a : XReg) (pos wm1 : BitVec 6)
  | bfi (d a : XReg) (pos wm1 : BitVec 6)
  -- compare and select, R114-R115
  | cmpEq (d : CReg) (a b : XReg)
  | cmpNe (d : CReg) (a b : XReg)
  | cmpLt (d : CReg) (a b : XReg)
  | cmpGe (d : CReg) (a b : XReg)
  | cmpLtu (d : CReg) (a b : XReg)
  | cmpGeu (d : CReg) (a b : XReg)
  | cselX (d : XReg) (c : CReg) (a b : XReg)
  | cselF (d : FReg) (c : CReg) (a b : FReg)
  | lea (d : XReg) (off : BitVec 20)
  | widf (d : XReg) (k : BitVec 3)
  | widNext (d : XReg)
  -- branches, jumps and loops, R117-R120
  | brEq (a b : XReg) (off : BitVec 12)
  | brNe (a b : XReg) (off : BitVec 12)
  | brLt (a b : XReg) (off : BitVec 12)
  | brGe (a b : XReg) (off : BitVec 12)
  | brLtu (a b : XReg) (off : BitVec 12)
  | brGeu (a b : XReg) (off : BitVec 12)
  | bcS (c : CReg) (off : BitVec 12)
  | bcC (c : CReg) (off : BitVec 12)
  | bsigLt (a : FReg) (n : BitVec 5) (off : BitVec 12)
  | bsigGe (a : FReg) (n : BitVec 5) (off : BitVec 12)
  | jal (d : XReg) (off : BitVec 20)
  | jr (d a : XReg) (imm : BitVec 15)
  | lbeg (lv : BitVec 1) (a : XReg) (off : BitVec 12)
  | lend (lv : BitVec 1)
  -- scalar floating point, R122-R130
  | fadd (d a b : FReg) (r : Rnd)
  | fsub (d a b : FReg) (r : Rnd)
  | fmul (d a b : FReg) (r : Rnd)
  | fdiv (d a b : FReg) (r : Rnd)
  | fsqrt (d a : FReg) (r : Rnd)
  | fmin (d a b : FReg)
  | fmax (d a b : FReg)
  | fabs (d a : FReg)
  | fneg (d a : FReg)
  | fcmpEq (d : CReg) (a b : FReg)
  | fcmpLt (d : CReg) (a b : FReg)
  | fcmpLe (d : CReg) (a b : FReg)
  | fcmpNe (d : CReg) (a b : FReg)
  | fclass (d : XReg) (a : FReg)
  | fmov (d a : FReg)
  | fmovXf (d : FReg) (a : XReg)
  | fmovFx (d : XReg) (a : FReg)
  | fcvtFx (d : XReg) (a : FReg) (fmt : BitVec 5) (r : Rnd)
  | fcvtXf (d : FReg) (a : XReg) (fmt : BitVec 5) (r : Rnd)
  | fcvtFf (d a : FReg) (fmt : BitVec 5) (r : Rnd)
  | fsig (d : XReg) (a : FReg)
  | fsigset (d : FReg) (a : XReg)
  | fma (d a b c : FReg) (r : Rnd)
  -- memory, R140-R149
  | ld (d a : XReg) (sc : Scope) (o : Order) (t : ITy) (off : BitVec 7)
  | st (d a : XReg) (sc : Scope) (o : Order) (t : ITy) (off : BitVec 7)
  | ldt (d : FReg) (a : XReg) (sc : Scope) (o : Order) (off : BitVec 7)
  | stt (d : FReg) (a : XReg) (sc : Scope) (o : Order) (off : BitVec 7)
  | ldfe (d a : XReg) (sc : Scope) (t : ITy) (off : BitVec 7)
  | stfe (d a : XReg) (sc : Scope) (t : ITy) (off : BitVec 7)
  | ldnb (d a : XReg) (sc : Scope) (t : ITy) (off : BitVec 7)
  -- atomics, R150; w is the W field
  | amoSwap (d a b : XReg) (sc : Scope) (o : Order) (w : Bool)
  | amoCas (d a b : XReg) (sc : Scope) (o : Order) (w : Bool)
  | amoAdd (d a b : XReg) (sc : Scope) (o : Order) (w : Bool)
  | amoFadd (d a b : XReg) (sc : Scope) (o : Order)
  | amoAnd (d a b : XReg) (sc : Scope) (o : Order) (w : Bool)
  | amoOr (d a b : XReg) (sc : Scope) (o : Order) (w : Bool)
  | amoXor (d a b : XReg) (sc : Scope) (o : Order) (w : Bool)
  | amoMin (d a b : XReg) (sc : Scope) (o : Order) (w : Bool)
  | amoMax (d a b : XReg) (sc : Scope) (o : Order) (w : Bool)
  | amoMinu (d a b : XReg) (sc : Scope) (o : Order) (w : Bool)
  | amoMaxu (d a b : XReg) (sc : Scope) (o : Order) (w : Bool)
  -- fences, barriers, publish, R156-R160
  | fence (sc : Scope)
  | barInit (a : XReg) (sc : Scope) (h : BitVec 8)
  | barArrive (d : XReg) (sc : Scope) (h : BitVec 8)
  | barWait (a : XReg) (sc : Scope) (h : BitVec 8)
  | barTest (d a : XReg) (sc : Scope) (h : BitVec 8)
  | publish (h : BitVec 8)
  | publishComplete (launch bt : Nat)
  -- cells, rendezvous, sink, R163-R171; cl is the CL field 0-4
  | cell (d a b : XReg) (cl : BitVec 3)
  | cellm (d a b : XReg) (cl : BitVec 3)
  | cellv (d a b : XReg) (cl : BitVec 3)
  | inj (d a b : XReg) (cl : BitVec 3)
  | rvres (d : XReg) (e : BitVec 4)
  | rvrel (a : XReg) (e : BitVec 4)
  | sinkX (d : XReg) (n : BitVec 4)
  | sinkF (d : FReg) (n : BitVec 4)
  -- walks, engine configuration, incremental queues, rounds, R172-R182
  | walk (d a b : XReg) (cl : BitVec 3)
  | walkb (d a b : XReg) (cl : BitVec 3)
  | wlst (d a b : XReg)
  | mxGang (a : XReg)
  | sxCfg (a : XReg)
  | iqPush (a : XReg) (h : BitVec 8)
  | iqTest (d : XReg) (h : BitVec 8)
  | rmark (a : XReg)
  -- channels, R183-R185
  | chopen (a : XReg) (h : BitVec 8)
  | rld (d a : XReg) (h : BitVec 8)
  | rst (d a : XReg) (h : BitVec 8)
  | chsend (a : XReg) (h : BitVec 8)
  | chrecv (a : XReg) (h : BitVec 8)
  -- strands, Scarf, traps, system, R187-R196, R131
  | split (d a : XReg)
  | yield (d : XReg)
  | scarf (a : XReg) (h : BitVec 8)
  | scarfWait (d : XReg) (h : BitVec 8)
  | rankmap (a : XReg) (h : BitVec 8)
  | trap (d : XReg) (code : BitVec 10)
  | ident (d : XReg) (sel : BitVec 10)
  | ctlRd (d : XReg) (n : BitVec 10)
  | ctlWr (a : XReg) (n : BitVec 10)
  | evqRead (d : XReg)
  | votelogRead (d : XReg)
  -- VX element-wise arithmetic, R206-R208; rtz is m[2], y and x are m[1] and m[0]
  | vadd (t : VTy) (d a b : VCode) (rtz y x : Bool)
  | vaddSat (d a b : VCode) (y x : Bool)
  | vsub (t : VTy) (d a b : VCode) (rtz y x : Bool)
  | vsubSat (d a b : VCode) (y x : Bool)
  | vmul (t : VTy) (d a b : VCode) (rtz y x : Bool)
  | vmulSat (d a b : VCode) (y x : Bool)
  | vfma (t : VTy) (d a b : VCode) (rtz y x : Bool)
  | vmin (t : VTy) (d a b : VCode) (y x : Bool)
  | vmax (t : VTy) (d a b : VCode) (y x : Bool)
  | vabs (t : VTy) (d a : VCode) (x : Bool)
  | vneg (t : VTy) (d a : VCode) (x : Bool)
  | vdiv (d a b : VCode) (rtz y x : Bool)
  | vrcp (d a : VCode) (x : Bool)
  | vrsqrt (d a : VCode) (x : Bool)
  | vsqrt (d a : VCode) (rtz x : Bool)
  | vexp2 (d a : VCode) (x : Bool)
  | vlog2 (d a : VCode) (x : Bool)
  -- VX compare, select, logic, shifts, R209
  | vcmpEq (t : VTy) (d a b : VCode) (y x : Bool)
  | vcmpLt (t : VTy) (d a b : VCode) (y x : Bool)
  | vcmpLe (t : VTy) (d a b : VCode) (y x : Bool)
  | vcmpNe (t : VTy) (d a b : VCode) (y x : Bool)
  | vselL0 (d a b : VCode) (y x : Bool)
  | vselL1 (d a b : VCode) (y x : Bool)
  | vand (d a b : VCode) (y x : Bool)
  | vor (d a b : VCode) (y x : Bool)
  | vxor (d a b : VCode) (y x : Bool)
  | vnot (d a : VCode) (x : Bool)
  | vshl (d a b : VCode) (y x : Bool)
  | vshrL (d a b : VCode) (y x : Bool)
  | vshrA (d a b : VCode) (y x : Bool)
  -- VX conversions, reductions, scans, permutes, significance, R210-R214
  | vcvt (t : VTy) (d a f : VCode) (rtz x : Bool)
  | vquant (t : VTy) (d a f : VCode) (x : Bool)
  | vdequant (t : VTy) (d a f : VCode) (x : Bool)
  | vredAdd (t : VTy) (d a : VCode) (l : VLvl) (rtz x : Bool)
  | vredMin (t : VTy) (d a : VCode) (l : VLvl) (rtz x : Bool)
  | vredMax (t : VTy) (d a : VCode) (l : VLvl) (rtz x : Bool)
  | vscanAdd (t : VTy) (d a : VCode) (l : VLvl) (rtz x : Bool)
  | vscanMin (t : VTy) (d a : VCode) (l : VLvl) (rtz x : Bool)
  | vscanMax (t : VTy) (d a : VCode) (l : VLvl) (rtz x : Bool)
  | vperm (d a b : VCode) (y x : Bool)
  | vbcast (d a : VCode) (n : BitVec 6) (x : Bool)
  | vsigLt (t : VTy) (d a : VCode) (n : BitVec 5) (x : Bool)
  | vsigGe (t : VTy) (d a : VCode) (n : BitVec 5) (x : Bool)
  | vsigCnt (t : VTy) (d a : VCode) (n : BitVec 5) (x : Bool)
  -- VX cells, tiles and control, R215-R224
  | cin (d a : VCode) (x : Bool)
  | cout (d a : VCode) (x : Bool)
  | cfwd (a : VCode) (e : BitVec 4) (x : Bool)
  | tcfg (d : VCode) (q : BitVec 17)
  | tcfgDiscard (d : VCode) (q : BitVec 17)
  | vloop (n : BitVec 14) (l : BitVec 7)
  | vbrAll (a : VCode) (off : BitVec 14) (x : Bool)
  | vbrAny (a : VCode) (off : BitVec 14) (x : Bool)
  | vrec (d a b : VCode) (y x : Bool)
  -- engine operations, R227
  | mxWload (b e : Nat)
  | mxFire (b e : Nat)
  | mxFireStrict (b e : Nat)
  | mxFireSp (b e : Nat)
  | mxFireSpStrict (b e : Nat)
  | mxRowFire (b e k : Nat)
  | mxDrain (b e : Nat)
  | mxClear (b e : Nat)
  | sxSort (b : Nat)
  | sxMerge (b : Nat)
  | sxTopk (b : Nat)
  | cnIngest (b : Nat)
  | cnCons (b : Nat)
  | cnJoin (b : Nat)
  | cnFlush (b : Nat)
  | vtVote (b : Nat)
  | atSwap (b : Nat)
  | atCas (b : Nat)
  | atAdd (b : Nat)
  | atFadd (b : Nat)
  | atAnd (b : Nat)
  | atOr (b : Nat)
  | atXor (b : Nat)
  | atMin (b : Nat)
  | atMax (b : Nat)
  | atMinu (b : Nat)
  | atMaxu (b : Nat)
  -- steps of strands and engines that follow from their own state, R58 to R358
  | strandWake (b k : Nat)
  | strandDone (b k : Nat)
  | loadReturn (b k id : Nat)
  | storeCompletion (b k id : Nat)
  | pendingTrapDelivery (b k : Nat)
  | continuationReady (launch k : Nat)
  | continuationResume (b k : Nat)
  | rendezvousOperand (b e : Nat)
  | markerReceipt (b e : Nat)
  | vxCellDelivery (b e : Nat)
  | longLatencyComplete (b t r : Nat)
  | partialCombine (b t r : Nat)
  | routineEnd (b t r : Nat)
  | firingLanded (b e k : Nat)
  | sinkData (b : Nat)
  | writeback (b e : Nat)
  | girtSend (b : Nat)
  | mortiseSlot (b : Nat)
  | feedbackAccept (b e : Nat)
  | roundEntry (b e : Nat)
  | hbmAtomicRoundClose (launch channel : Nat)
  | grReservation (b : Nat)
  | grEnqueue (b k : Nat)
  | walkBegin (b w : Nat)
  | walkCellEmit (b w : Nat)
  | walkbCounterRead (b w : Nat)
  | walkCompletion (b w : Nat)
  | launchCompletion (launch : Nat)
  | scarfStepComplete (launch bt : Nat)
  | scarfStepTimeout (launch bt : Nat)
  -- the Mortise and rounds, R250-R273
  | headAged (b i : Nat) (h : HeadId)
  | deadlockDetection (b k : Nat)
  -- sinks, writeback, girt, R170, R293-R396
  | remoteRequest (k : Nat)
  | remoteResponse (k : Nat)
  | goldenEpoch (die : Nat)
  -- strand completions, R138-R271
  | fenceComplete (b k : Nat)
  -- walks, R174-R177, R337
  | faultackResume (p : Nat) (token : BitVec 32)
  | faultackEnd (p : Nat) (token : BitVec 32)
  -- translation, R335-R343
  | tableWalk (die : Nat)
  | tlbMissRetry (die : Nat)
  | pageScrub (page : Nat)
  -- command queues and placement, R319-R338
  | append (p q : Nat) (cmd : List Byte)
  | dispatchDecision (p : Nat)
  | placement (p : Nat)
  | qcbEnable (p q : Nat)
  | qcbDisable (p q : Nat)
  | contextEnable (p c : Nat)
  | contextDisable (p c : Nat)
  | contextResidencyEnd (p c : Nat)
  | tlbinvPage (p : Nat) (v : Word)
  | tlbinvAll (p : Nat) (v : Word)
  | tlbinvComplete (p : Nat)
  -- pre-emption, drain and service, R344-R350
  | preemptRequest (p : Nat) (v : Word)
  | abortRequest (p : Nat) (v : Word)
  | preemptQuiescent (p : Nat)
  | preemptTimeout (p : Nat)
  | hangDetected (launch : Nat)
  | regionDrain (launch : Nat)
  | psvcServe (p : Nat)
  | psvcStopDispatch (p : Nat)
  | psvcPreemptAll (p : Nat)
  | psvcDrainAll (p : Nat)
  | partitionOffline (p : Nat)
  -- errors and repair, R365-R376
  | correctedError (p : Nat) (u : ErrUnit)
  | uncorrectableError (p : Nat) (u : ErrUnit)
  | patrolScrub (p addr : Nat)
  | eccstatClear (p : Nat)
  | regionRollback (launch : Nat)
  | repairMap (p : Nat) (v : Word)
  | repairUnmap (p : Nat) (v : Word)
  | laneLoss (link : Nat)
  | laneRestore (link : Nat)
  | flitReplay (link : Nat)
  | hostWindowWrite (p c : Nat) (addr : Word) (bytes : List Byte)
  -- Scarf steps, R357-R363, R391
  | scarfMessage (launch bt : Nat) (m : ScarfMsg)
  | scarfAbort (launch bt collid gen step rank : Nat) (by_ : AbortBy)
  | scarfResend (launch bt : Nat)
  -- security, bring-up, power, R381-R398
  | firmwareReplace (p kind version : Nat) (image : List Byte)
  | attestationRequest (nonce : List Byte)
  | keyLoad (v : Word)
  | keyClear (v : Word)
  | debugUnlock (token : List Byte)
  | supplyOutOfRange (rail : Nat)
  | fabidWrite (v : Word)
  | powerMeasurement (watts tj : Nat)
  | registerWrite (w : Window) (off : Nat) (v : Word)
  -- completions of long operations, R234, R375, R383, R384, R354
  | repairMappingDone (p : Nat)
  | linkFailure (link : Nat)
  -- without operands: strands, traps, system, VX (R188 to R224), bring-up, power and long operations
  | exit
  | exitAbandon
  | nop
  | rft
  | vend
  | resetRelease
  | thermalShutdown
  | illegalInstruction
  | instructionFetchFault
  | keycmdDone
  | attestationReportDone
  deriving DecidableEq, Repr, Inhabited

end Sys2Proof
end

