-- ==== Sys2Proof/Machine/Maps.lean ====
section
/-! DEFINITION. Finite maps from numbers, as lists of pairs in rising order of key, and small list helpers. -/

namespace Sys2Proof.Machine

/-- A finite map with numbers as keys, kept in rising order. -/
abbrev NMap (α : Type) := List (Nat × α)

def NMap.get? {α : Type} : NMap α → Nat → Option α
  | [], _ => none
  | (k, v) :: m, n => if k = n then some v else NMap.get? m n

def NMap.getD {α : Type} (m : NMap α) (n : Nat) (d : α) : α := (NMap.get? m n).getD d

def NMap.set {α : Type} : NMap α → Nat → α → NMap α
  | [], n, a => [(n, a)]
  | (k, v) :: m, n, a =>
    if n < k then (n, a) :: (k, v) :: m
    else if n = k then (n, a) :: m
    else (k, v) :: NMap.set m n a

def NMap.erase {α : Type} (m : NMap α) (n : Nat) : NMap α := m.filter (fun p => p.1 != n)

def NMap.has {α : Type} (m : NMap α) (n : Nat) : Bool := (NMap.get? m n).isSome

/-- Change the value at a key, starting from a default. -/
def NMap.modify {α : Type} (m : NMap α) (n : Nat) (d : α) (f : α → α) : NMap α := NMap.set m n (f (NMap.getD m n d))

def NMap.keys {α : Type} (m : NMap α) : List Nat := m.map Prod.fst

def NMap.vals {α : Type} (m : NMap α) : List α := m.map Prod.snd

/-- The first n elements replaced or the list padded: a list made exactly n long. -/
def padTo {α : Type} (n : Nat) (d : α) (l : List α) : List α := l.take n ++ List.replicate (n - l.length) d

/-- Remove the first element that satisfies a test. -/
def removeFirst {α : Type} (p : α → Bool) : List α → List α
  | [] => []
  | x :: l => if p x then l else x :: removeFirst p l

/-- Insert into a list ordered by a strict comparison, after equal elements. -/
def insertBy {α : Type} (lt : α → α → Bool) (a : α) (l : List α) : List α :=
  l.takeWhile (fun x => !lt a x) ++ a :: l.dropWhile (fun x => !lt a x)

/-- Insertion sort, stable. -/
def sortBy {α : Type} (lt : α → α → Bool) (l : List α) : List α := l.foldl (fun acc a => insertBy lt a acc) []

/-- The numbers k with lo ≤ k < lo + n, starting from `start` and wrapping modulo n. -/
def rotate (start n : Nat) : List Nat := (List.range n).map (fun k => (start + k) % n)

/-- The bit n of a mask. -/
def bit {w : Nat} (m : BitVec w) (n : Nat) : Bool := m.getLsbD n

/-- The set bits of a 16-bit mask, rising. -/
def bitsOf (m : BitVec 16) : List Nat := (List.range 16).filter (fun n => m.getLsbD n)

/-- The mask with one bit. -/
def oneHot (n : Nat) : BitVec 16 := BitVec.ofNat 16 (2 ^ n)

/-- Cut a list into pieces of n elements; `fuel` at least the number of pieces. -/
def chunks {α : Type} (n : Nat) : Nat → List α → List (List α)
  | 0, _ => []
  | _ + 1, [] => []
  | fuel + 1, x :: l => (x :: l).take n :: chunks n fuel ((x :: l).drop n)

end Sys2Proof.Machine
end

