-- ==== Sys2Proof/Config.lean ====
section
/-! DEFINITION. What the manual leaves to the implementation, as constants WITHOUT A BODY: nothing in
Lean can evaluate one or prove a value of one, so a statement about the machine holds whatever they are.
Each is named in a row of notes/assumptions. -/

namespace Sys2Proof.Config

/-- R208, R36: whether `vrcp` of these input bits takes the upper of the two FP32 values bracketing 1/x
(log entry 5). -/
opaque vrcpUpper : Word32 → Bool

/-- R208, R36: whether `vrsqrt` of these input bits takes the upper of the two bracketing values (log entry 5). -/
opaque vrsqrtUpper : Word32 → Bool

/-- R208, R36: the FP32 value that `vexp2` of these input bits returns, where it lies within the bound of 2^x
(log entry 5). -/
opaque vexp2Pick : Word32 → Word32

/-- R208, R36: the FP32 value that `vlog2` of these input bits returns, where it lies within the bound of log2 x
(log entry 5). -/
opaque vlog2Pick : Word32 → Word32

/-- R335: which entry a full TLB gives up; the manual names no replacement policy (log entry 6). -/
opaque tlbVictim : Nat → Nat

/-- R361: the order in which a collective with DET = 0 folds the ranks' contributions, as places in a list
(log entry 7). -/
opaque foldPick : Nat → Nat → Nat

/-- R364: a byte of a shadow backing after a collective that did not end DONE (log entry 7). -/
opaque abortedByte : Nat → Nat → Byte

/-- R174: the ticket a walk receives; a nonzero 16-bit value the manual does not fix (log entry 8). -/
opaque ticketOf : Nat → BitVec 16

/-- R337: the token of a parked walk; a 32-bit value the manual does not fix (log entry 8). -/
opaque tokenOf : Nat → BitVec 32

/-- R176: a payload byte of a cell that an aborted walk still sends with POISON (log entry 5). -/
opaque poisonByte : Nat → Nat → Byte

/-- R380: an image that Krealmya has signed, and the verdict on every other image (log entry 9). -/
opaque signedImage : List Byte
opaque signatureVerdict : List Byte → Bool

/-- R380, R381: whether a firmware image's signature verifies (log entry 9). -/
def firmwareSignatureOk (image : List Byte) : Bool := image == signedImage || signatureVerdict image

/-- R383: the 132 signature bytes of an attestation report (log entry 9). -/
opaque attestationSignature : List Byte → List Byte

/-- R384: whether a key blob unwraps for a slot, that is, its key and tag are valid (log entry 9). -/
opaque keyBlobOk : Nat → List Byte → Bool

/-- R339: byte i of a 64-byte unit of HBM, stored under one key and read under another: from the two keys, the unit's physical
address, which is the tweak, and the bytes that were written (log entry 9). -/
opaque otherKeyByte : List Byte → List Byte → Nat → List Byte → Nat → Byte

/-- R385: whether a debug token is signed by the Krealmya key and bound to the device and nonce (log entry 9). -/
opaque debugTokenOk : List Byte → Bool

/-- R375: whether a spare bent of a die is faulty (log entry 10). -/
opaque spareFaulty : Nat → Nat → Bool

/-- R375: the spare that the maps held in fuses put in place of a bent, if they replace it (log entry 10). -/
opaque fusedMap : Nat → Option Nat

/-- R380, R387: the firmware images the device boots from; whether they verify decides whether partitions
serve (log entry 9). -/
opaque bootImage : Nat → List Byte

/-- R301: the flags of a joined record, of which the manual states only SAT, from those of the change and of the entry
(log entry 5). -/
opaque joinFlags : Nat → Nat → Nat

/-- R376: the full-width send window, arbiter weight and routing cost of a link, which the manual does not
number (log entry 11). -/
opaque linkWindow : Nat → Nat
opaque linkWeight : Nat → Nat
opaque linkCost : Nat → Nat

/-- R354: the link on which messages to a device travel, a number below 24 when taken modulo 24, and how many of the last
messages of a link that fails are not delivered (log entry 11). -/
opaque linkOf : Nat → Nat
opaque undelivered : Nat → Nat

/-- R344: the HBM bytes that the saved state of a launch of so many bents takes (log entry 6). -/
opaque saveBytes : Nat → Nat

/-- R356: whether an element of a contribution is read again when it is first sent (log entry 41). -/
opaque srcLate : Nat → Nat → Bool

/-- R382: Krealmya's certificate for the identity key, and the public key-wrap key signed by the identity key, which the device
window holds (log entry 9). -/
opaque identityCertificate : List Byte
opaque signedKeyWrapKey : List Byte

/-- R388: the core voltage in mV that the power manager sets from its critical-path monitors (log entry 11). -/
opaque coreMillivolts : Nat → Nat

/-- R388: how many of every 16 slots the power manager gates for a measured power, cap and temperature
(log entry 11). -/
opaque gatedSlots : Nat → Nat → Nat → Nat

end Sys2Proof.Config
end

