-- ==== Sys2Proof/Machine/Num.lean ====
section
/-! DEFINITION. Numbers: exact values, the floating formats and their roundings (R26 to R32), integer
conversions (R25), shared-exponent blocks (R33 to R35), plumb counts (R43 to R48) and the approximating
op-words (R208). Every function is structural recursion over Nat and Int arithmetic. -/

namespace Sys2Proof.Machine

/-- A value before rounding: a NaN, an infinity, or (-1)^neg × (m + δ) × 2^e, where 0 < δ < 1 exactly when
`st` holds (the remainder of a quotient or root). -/
inductive Ex where
  | nan
  | inf (neg : Bool)
  | fin (neg : Bool) (m : Nat) (e : Int) (st : Bool)
  deriving DecidableEq, Repr, Inhabited

/-- The five rounding modes that R30 names. -/
inductive Mode where
  | rne | rtz | rup | rdn | rna
  deriving DecidableEq, Repr, Inhabited

/-- The floating formats of R26. -/
inductive FFmt where
  | fp32 | fp16 | bf16 | e4m3 | e5m2
  deriving DecidableEq, Repr, Inhabited

/-- The integer formats of R24. -/
inductive IFmt where
  | int8 | uint8 | int16 | int32 | int64
  deriving DecidableEq, Repr, Inhabited

/-- A scalar payload format of R73, codes 1 to 10. -/
inductive SFmt where
  | int (f : IFmt)
  | flt (f : FFmt)
  deriving DecidableEq, Repr, Inhabited

def SFmt.ofCode (c : Nat) : Option SFmt :=
  match c with
  | 1 => some (.int .int8)
  | 2 => some (.int .uint8)
  | 3 => some (.int .int16)
  | 4 => some (.int .int32)
  | 5 => some (.int .int64)
  | 6 => some (.flt .fp32)
  | 7 => some (.flt .fp16)
  | 8 => some (.flt .bf16)
  | 9 => some (.flt .e4m3)
  | 10 => some (.flt .e5m2)
  | _ => none

/-- R26: width of the fraction field. -/
def FFmt.frac : FFmt → Nat
  | .fp32 => 23 | .fp16 => 10 | .bf16 => 7 | .e4m3 => 3 | .e5m2 => 2

/-- R26: width of the exponent field. -/
def FFmt.expBits : FFmt → Nat
  | .fp32 => 8 | .fp16 => 5 | .bf16 => 8 | .e4m3 => 4 | .e5m2 => 5

/-- R26: the exponent bias. -/
def FFmt.bias : FFmt → Nat
  | .fp32 => 127 | .fp16 => 15 | .bf16 => 127 | .e4m3 => 7 | .e5m2 => 15

/-- R21: the full plumb count of a format. -/
def FFmt.p (f : FFmt) : Nat := f.frac + 1

/-- Bits of an encoding. -/
def FFmt.bits (f : FFmt) : Nat := 1 + f.expBits + f.frac

/-- Bytes of an encoding. -/
def FFmt.size (f : FFmt) : Nat := f.bits / 8

/-- R26, R27: the encoding of the largest finite value, without its sign. -/
def FFmt.maxBits : FFmt → Nat
  | .fp32 => 0x7F7FFFFF | .fp16 => 0x7BFF | .bf16 => 0x7F7F | .e4m3 => 0x7E | .e5m2 => 0x7B

/-- R28: the canonical NaN. -/
def FFmt.nanBits : FFmt → Nat
  | .fp32 => 0x7FC00000 | .fp16 => 0x7E00 | .bf16 => 0x7FC0 | .e4m3 => 0x7F | .e5m2 => 0x7E

/-- The sign bit's weight. -/
def FFmt.signWeight (f : FFmt) : Nat := 2 ^ (f.expBits + f.frac)

/-- R31: an infinite result: an infinity, but ±448 in E4M3. -/
def FFmt.infBits : FFmt → Nat
  | .fp32 => 0x7F800000 | .fp16 => 0x7C00 | .bf16 => 0x7F80 | .e4m3 => 0x7E | .e5m2 => 0x7C

def IFmt.width : IFmt → Nat
  | .int8 => 8 | .uint8 => 8 | .int16 => 16 | .int32 => 32 | .int64 => 64

def IFmt.lo : IFmt → Int
  | .int8 => -128 | .uint8 => 0 | .int16 => -32768 | .int32 => -2147483648 | .int64 => -9223372036854775808

def IFmt.hi : IFmt → Int
  | .int8 => 127 | .uint8 => 255 | .int16 => 32767 | .int32 => 2147483647 | .int64 => 9223372036854775807

/-- The integer an encoding stands for. -/
def IFmt.decode (f : IFmt) (bits : Nat) : Int :=
  let w := f.width
  let v := bits % 2 ^ w
  match f with
  | .uint8 => v
  | _ => if v < 2 ^ (w - 1) then v else (v : Int) - 2 ^ w

/-- The encoding of an integer, modulo 2^width. -/
def IFmt.encode (f : IFmt) (v : Int) : Nat := (v % (2 ^ f.width : Int)).toNat

/-- R22: Sat. -/
def sat (x lo hi : Int) : Int := if x < lo then lo else if hi < x then hi else x

/-- R25: saturation into an integer format. -/
def IFmt.sat (f : IFmt) (x : Int) : Int := Machine.sat x f.lo f.hi

def SFmt.size : SFmt → Nat
  | .int f => f.width / 8
  | .flt f => f.size

/-! ### Exact values -/

def Ex.zero (neg : Bool) : Ex := .fin neg 0 0 false

/-- An exact integer. -/
def Ex.ofInt (v : Int) : Ex := .fin (decide (v < 0)) v.natAbs 0 false

def Ex.isNan : Ex → Bool
  | .nan => true
  | _ => false

def Ex.isFinite : Ex → Bool
  | .fin _ _ _ _ => true
  | _ => false

def Ex.isInf : Ex → Bool
  | .inf _ => true
  | _ => false

/-- An exact zero. -/
def Ex.isZero : Ex → Bool
  | .fin _ m _ st => m == 0 && !st
  | _ => false

def Ex.neg? : Ex → Bool
  | .nan => false
  | .inf n => n
  | .fin n _ _ _ => n

def Ex.negate : Ex → Ex
  | .nan => .nan
  | .inf n => .inf (!n)
  | .fin n m e st => .fin (!n) m e st

/-- R22: Exp(x), for a finite non-zero x. -/
def Ex.exp? : Ex → Option Int
  | .fin _ m e _ => if m = 0 then none else some ((Nat.log2 m : Int) + e)
  | _ => none

/-- R27: the value of an encoding. -/
def FFmt.decode (f : FFmt) (bits : Nat) : Ex :=
  let F := f.frac
  let s := decide (bits / f.signWeight % 2 = 1)
  let e := bits / 2 ^ F % 2 ^ f.expBits
  let fr := bits % 2 ^ F
  let top := 2 ^ f.expBits - 1
  if e = 0 then .fin s fr (1 - (f.bias : Int) - F) false
  else if e = top ∧ f ≠ .e4m3 then (if fr = 0 then .inf s else .nan)
  else if e = top ∧ fr = 7 then .nan
  else .fin s (2 ^ F + fr) ((e : Int) - f.bias - F) false

/-- The magnitude m × 2^-s rounded to an integer (R30); `st` says that something lies below the last bit of m. -/
def roundShift (mode : Mode) (neg : Bool) (m s : Nat) (st : Bool) : Nat :=
  let q := m / 2 ^ s
  let r := m % 2 ^ s
  let exact := r == 0 && !st
  let above := decide (2 ^ s < 2 * r) || (decide (2 * r = 2 ^ s) && st && decide (r ≠ 0))
  let tie := decide (2 * r = 2 ^ s) && !st && decide (r ≠ 0)
  let up : Bool :=
    match mode with
    | .rne => above || (tie && decide (q % 2 = 1))
    | .rna => above || tie
    | .rtz => false
    | .rup => !exact && !neg
    | .rdn => !exact && neg
  if up then q + 1 else q

/-- R31: the magnitude encoding on overflow. -/
def FFmt.overflow (f : FFmt) (mode : Mode) (neg : Bool) : Nat :=
  match f with
  | .e4m3 => f.maxBits
  | .e5m2 => f.maxBits
  | _ =>
    match mode with
    | .rne => f.infBits
    | .rna => f.infBits
    | .rtz => f.maxBits
    | .rup => if neg then f.maxBits else f.infBits
    | .rdn => if neg then f.infBits else f.maxBits

/-- R31, step 1: the magnitude encoding with the exponent unbounded above, for m ≠ 0. -/
def FFmt.roundMag (f : FFmt) (n : Bool) (m : Nat) (e : Int) (st : Bool) (mode : Mode) : Nat :=
  let F := f.frac
  let E : Int := (Nat.log2 m : Int) + e
  let qmin : Int := 1 - (f.bias : Int) - F
  let q : Int := if E - F < qmin then qmin else E - F
  let r : Nat := if q ≤ e then m * 2 ^ (e - q).toNat else roundShift mode n m (q - e).toNat st
  (q - qmin).toNat * 2 ^ F + r

/-- R31: whether a finite value overflows the format after rounding. -/
def FFmt.overflows (f : FFmt) (x : Ex) (mode : Mode) : Bool :=
  match x with
  | .fin n m e st => decide (m ≠ 0) && decide (f.maxBits < f.roundMag n m e st mode)
  | _ => false

/-- R31: RoundTo, as an encoding. -/
def FFmt.round (f : FFmt) (x : Ex) (mode : Mode) : Nat :=
  match x with
  | .nan => f.nanBits
  | .inf n => f.infBits + (if n then f.signWeight else 0)
  | .fin n m e st =>
    let sgn := if n then f.signWeight else 0
    if m = 0 then sgn
    else
      let enc := f.roundMag n m e st mode
      (if f.maxBits < enc then f.overflow mode n else enc) + sgn

/-- R31: RoundTo, as a value. -/
def FFmt.roundEx (f : FFmt) (x : Ex) (mode : Mode) : Ex := f.decode (f.round x mode)

/-- An FP32 encoding (R68: every register holds one). -/
def f32 (x : Ex) (mode : Mode) : Word32 := BitVec.ofNat 32 (FFmt.fp32.round x mode)

/-- The value of an FP32 encoding. -/
def val32 (v : Word32) : Ex := FFmt.fp32.decode v.toNat

/-- R25: rounding to an integer; infinities are handled by the caller. -/
def Ex.toInt (x : Ex) (mode : Mode) : Int :=
  match x with
  | .nan => 0
  | .inf _ => 0
  | .fin n m e st =>
    let a : Nat := if 0 ≤ e then m * 2 ^ e.toNat else roundShift mode n m (-e).toNat st
    if n then -(a : Int) else (a : Int)

/-- R25: conversion into an integer format. -/
def IFmt.ofEx (f : IFmt) (x : Ex) (mode : Mode) : Int :=
  match x with
  | .nan => 0
  | .inf n => if n then f.lo else f.hi
  | .fin _ _ _ _ => f.sat (x.toInt mode)

/-! ### Exact arithmetic (R29) -/

/-- The sum of two finite values as sign and magnitude at one exponent. -/
def addFin (n1 : Bool) (m1 : Nat) (e1 : Int) (n2 : Bool) (m2 : Nat) (e2 : Int) (mode : Mode) : Ex :=
  let e := if e1 ≤ e2 then e1 else e2
  let a : Int := (m1 * 2 ^ (e1 - e).toNat : Nat)
  let b : Int := (m2 * 2 ^ (e2 - e).toNat : Nat)
  let s := (if n1 then -a else a) + (if n2 then -b else b)
  if s = 0 then
    if n1 = n2 then .fin n1 0 0 false else .fin (decide (mode = .rdn)) 0 0 false
  else .fin (decide (s < 0)) s.natAbs e false

/-- R29: exact addition; the mode decides the sign of an exact zero sum of opposite signs. -/
def Ex.add (x y : Ex) (mode : Mode) : Ex :=
  match x, y with
  | .nan, _ => .nan
  | _, .nan => .nan
  | .inf a, .inf b => if a = b then .inf a else .nan
  | .inf a, _ => .inf a
  | _, .inf b => .inf b
  | .fin n1 m1 e1 _, .fin n2 m2 e2 _ => addFin n1 m1 e1 n2 m2 e2 mode

/-- R29: exact multiplication. -/
def Ex.mul (x y : Ex) : Ex :=
  match x, y with
  | .nan, _ => .nan
  | _, .nan => .nan
  | .inf a, .inf b => .inf (a != b)
  | .inf a, .fin b m _ _ => if m = 0 then .nan else .inf (a != b)
  | .fin a m _ _, .inf b => if m = 0 then .nan else .inf (a != b)
  | .fin n1 m1 e1 _, .fin n2 m2 e2 _ => .fin (n1 != n2) (m1 * m2) (e1 + e2) false

/-- R29: division, with the remainder kept in `st`. -/
def Ex.div (x y : Ex) : Ex :=
  match x, y with
  | .nan, _ => .nan
  | _, .nan => .nan
  | .inf _, .inf _ => .nan
  | .inf a, .fin b _ _ _ => .inf (a != b)
  | .fin a _ _ _, .inf b => .fin (a != b) 0 0 false
  | .fin n1 m1 e1 _, .fin n2 m2 e2 _ =>
    if m2 = 0 then (if m1 = 0 then .nan else .inf (n1 != n2))
    else if m1 = 0 then .fin (n1 != n2) 0 0 false
    else
      let k := 64 + Nat.log2 m2
      let num := m1 * 2 ^ k
      .fin (n1 != n2) (num / m2) (e1 - e2 - k) (decide (num % m2 ≠ 0))

/-- Integer square root by bits, the highest first. -/
def sqrtBits (n : Nat) : Nat → Nat → Nat
  | 0, r => r
  | k + 1, r => let c := r + 2 ^ k; if c * c ≤ n then sqrtBits n k c else sqrtBits n k r

/-- R29: square root. -/
def Ex.sqrt (x : Ex) : Ex :=
  match x with
  | .nan => .nan
  | .inf n => if n then .nan else .inf false
  | .fin n m e st =>
    if m = 0 then .fin n 0 0 false
    else if n then .nan
    else
      let odd := decide (e % 2 ≠ 0)
      let m' := if odd then m * 2 else m
      let e' := if odd then e - 1 else e
      let big := m' * 2 ^ 128
      let r := sqrtBits big (Nat.log2 big / 2 + 1) 0
      .fin false r (e' / 2 - 64) (st || decide (r * r ≠ big))

/-- Exact comparison of two finite values as integers at one exponent. -/
def cmpKey (n : Bool) (m : Nat) (e e0 : Int) : Int :=
  let a : Int := (m * 2 ^ (e - e0).toNat : Nat)
  if n then -a else a

/-- x < y; false with a NaN. -/
def Ex.lt (x y : Ex) : Bool :=
  match x, y with
  | .nan, _ => false
  | _, .nan => false
  | .inf a, .inf b => a && !b
  | .inf a, .fin _ _ _ _ => a
  | .fin _ _ _ _, .inf b => !b
  | .fin n1 m1 e1 _, .fin n2 m2 e2 _ =>
    let e := if e1 ≤ e2 then e1 else e2
    decide (cmpKey n1 m1 e1 e < cmpKey n2 m2 e2 e)

/-- x = y in value, −0 equal to +0; false with a NaN (R127). -/
def Ex.eqv (x y : Ex) : Bool := !x.isNan && !y.isNan && !x.lt y && !y.lt x

/-! ### Plumb counts (R22, R46, R47) -/

/-- A floating value held in a register: its FP32 encoding and its plumb count (R43). -/
structure FVal where
  v : Word32
  c : BitVec 5
  deriving DecidableEq, Repr, Inhabited

/-- +0.0 with count 24 (R61, R68). -/
def FVal.zero : FVal := ⟨0, 24⟩

/-- R22: PlumbAdd over operands given as value and count; `full` is p(fmt). -/
def plumbAdd (ops : List (Ex × Nat)) (res : Ex) (full : Nat) : Nat :=
  if ops.any (fun o => !o.1.isFinite) || !res.isFinite then 0
  else if ops.all (fun o => o.1.isZero) then full
  else
    match res.exp? with
    | none => 0
    | some er =>
      let ws := ops.filterMap (fun o => o.1.exp?.map (fun x => x - (o.2 : Int) + 1))
      let w := ws.foldl (fun (m : Option Int) x => some (match m with | none => x | some y => if y < x then x else y)) none
      match w with
      | none => full
      | some w => (sat (er - w + 1) 0 full).toNat

/-- R22: PlumbMul; `pa` and `pb` are the p of the operands' own formats. -/
def plumbMul (ca pa cb pb full : Nat) : Nat :=
  if ca = pa ∨ cb = pb then Nat.min (Nat.min ca cb) full else Nat.min ca cb - 1

/-- R46: multiply. -/
def countMul (a : Ex) (ca pa : Nat) (b : Ex) (cb pb : Nat) (res : Ex) (full : Nat) : Nat :=
  if !res.isFinite then 0
  else if res.isZero && ((a.isZero && ca == pa) || (b.isZero && cb == pb)) then full
  else plumbMul ca pa cb pb full

/-- R46: divide: only the dividend's full zero counts. -/
def countDiv (a : Ex) (ca pa cb pb : Nat) (res : Ex) (full : Nat) : Nat :=
  if !res.isFinite then 0
  else if res.isZero && a.isZero && ca == pa then full
  else plumbMul ca pa cb pb full

/-- R46: square root, reciprocal and reciprocal square root; `root` for the square root, whose full zero
is full. -/
def countRoot (root : Bool) (a : Ex) (ca pa : Nat) (res : Ex) (full : Nat) : Nat :=
  if !res.isFinite then 0
  else if root && a.isZero && ca == pa then full
  else Nat.min ca full

/-- R46: base-2 exponential; `a` in FP32. -/
def countExp2 (a : Ex) (ca : Nat) (res : Ex) : Nat :=
  if !res.isFinite then 0
  else
    match a with
    | .nan => 0
    | .inf _ => 0
    | .fin _ _ _ _ =>
      match a.exp? with
      | none => if ca = 24 then 24 else 0
      | some x => (sat ((ca : Int) - x - 1) 0 23).toNat

/-- R46: base-2 logarithm. -/
def countLog2 (ca : Nat) (res : Ex) : Nat :=
  if !res.isFinite then 0
  else
    match res.exp? with
    | none => if ca = 24 then 24 else 0
    | some x => (sat (x + (ca : Int) - 1) 0 23).toNat

/-- R46, R129: conversion between floating formats in a mode: `src` the exact source with count `ca`. -/
def countCvt (src : Ex) (ca : Nat) (f : FFmt) (mode : Mode) : Nat :=
  let res := f.roundEx src mode
  if !res.isFinite || !src.isFinite then 0
  else if !src.isZero && (res.isZero || f.overflows src mode) then 0
  else Nat.min ca f.p

/-- R45: the count of an untagged value. -/
def untaggedCount (x : Ex) (full : Nat) : Nat := if x.isFinite then full else 0

/-- R45: an FP32 pattern from an untagged source. -/
def FVal.ofBits (v : Word32) : FVal := ⟨v, BitVec.ofNat 5 (untaggedCount (val32 v) 24)⟩

/-- The value of a register. -/
def FVal.ex (x : FVal) : Ex := val32 x.v

/-- A result with its count. -/
def FVal.mk' (v : Word32) (c : Nat) : FVal := ⟨v, BitVec.ofNat 5 c⟩

/-! ### Shared-exponent blocks (R33 to R35) -/

inductive SebFmt where
  | seb2 | seb4 | seb7
  deriving DecidableEq, Repr, Inhabited

def SebFmt.ofCode (c : Nat) : Option SebFmt :=
  match c with
  | 11 => some .seb2
  | 12 => some .seb4
  | 13 => some .seb7
  | _ => none

/-- R33: width of an element's magnitude. -/
def SebFmt.m : SebFmt → Nat
  | .seb2 => 2 | .seb4 => 4 | .seb7 => 7

/-- R33: bytes of a block. -/
def SebFmt.blockBytes : SebFmt → Nat
  | .seb2 => 8 | .seb4 => 12 | .seb7 => 18

/-- A little-endian number from its bytes (R15). -/
def leNat : List Byte → Nat
  | [] => 0
  | b :: bs => b.toNat + 256 * leNat bs

/-- The n bytes of a number, little-endian (R15). -/
def leBytes : Nat → Nat → List Byte
  | 0, _ => []
  | n + 1, v => BitVec.ofNat 8 v :: leBytes n (v / 256)

/-- R34, R45: element k of a block, with its count. -/
def SebFmt.element (f : SebFmt) (block : List Byte) (k : Nat) : Ex × Nat :=
  let E := (block.getD 0 0).toNat
  if E = 255 then (.nan, 0)
  else
    let d := (block.getD 1 0).toNat / 2 ^ (k / 2) % 2
    let slot := leNat (block.drop 2) / 2 ^ (k * (f.m + 1)) % 2 ^ (f.m + 1)
    let M := slot % 2 ^ f.m
    let s := decide (slot / 2 ^ f.m = 1)
    (.fin s M ((E : Int) - 127 - d - (f.m - 1)) false, if M = 0 then 24 else Nat.log2 M + 1)

/-- The 16 elements of a block. -/
def SebFmt.decodeBlock (f : SebFmt) (block : List Byte) : List (Ex × Nat) :=
  (List.range 16).map (f.element block)

/-- R35: RNI(|x| / 2^q), for finite x. -/
def rniAt (x : Ex) (q : Int) : Nat :=
  match x with
  | .fin _ m e st => if q ≤ e then m * 2 ^ (e - q).toNat else roundShift .rne false m (q - e).toNat st
  | _ => 0

/-- R35: the shared exponent of a block whose largest magnitude is the finite non-zero X. -/
def SebFmt.sharedExp (f : SebFmt) (X : Ex) : Nat :=
  match X.exp? with
  | none => 0
  | some x =>
    let E := x + 127
    let E := if rniAt X (E - 127 - (f.m - 1)) = 2 ^ f.m then E + 1 else E
    (sat E 0 254).toNat

/-- R35: whether a pair takes the micro-exponent. -/
def SebFmt.micro (f : SebFmt) (E : Nat) (a b : Ex) : Bool :=
  let h : Int := (E : Int) - 127 - 1 - (f.m - 1)
  (!a.isZero || !b.isZero) && a.isFinite && b.isFinite
    && decide (rniAt a h ≤ 2 ^ f.m - 1) && decide (rniAt b h ≤ 2 ^ f.m - 1)

/-- R35: the slot of one element. -/
def SebFmt.slot (f : SebFmt) (E : Nat) (d : Bool) (y : Ex) : Nat :=
  let top := 2 ^ f.m - 1
  let M := if y.isInf then top else Nat.min top (rniAt y ((E : Int) - 127 - (if d then 1 else 0) - (f.m - 1)))
  if M = 0 then 0 else M + (if y.neg? then 2 ^ f.m else 0)

/-- The magnitude of a value. -/
def Ex.abs : Ex → Ex
  | .nan => .nan
  | .inf _ => .inf false
  | .fin _ m e st => .fin false m e st

/-- R35: Quantise. -/
def SebFmt.quantise (f : SebFmt) (xs : List Ex) : List Byte :=
  if xs.any Ex.isNan then (255 : Byte) :: List.replicate (f.blockBytes - 1) 0
  else
    let X := xs.foldl (fun m x => if m.lt x.abs then x.abs else m) (Ex.zero false)
    if X.isZero then List.replicate f.blockBytes 0
    else
      let E := if X.isInf then 254 else f.sharedExp X
      let ds := (List.range 8).map (fun j => f.micro E (xs.getD (2 * j) (Ex.zero false)) (xs.getD (2 * j + 1) (Ex.zero false)))
      let slots := (List.range 16).map (fun k => f.slot E (ds.getD (k / 2) false) (xs.getD k (Ex.zero false)))
      if slots.all (fun s => s % 2 ^ f.m == 0) then List.replicate f.blockBytes 0
      else
        let dByte := (List.range 8).foldl (fun n j => n + (if ds.getD j false then 2 ^ j else 0)) 0
        let field := (List.range 16).foldl (fun n k => n + slots.getD k 0 * 2 ^ (k * (f.m + 1))) 0
        BitVec.ofNat 8 E :: BitVec.ofNat 8 dByte :: leBytes (f.blockBytes - 2) field

/-! ### The approximating op-words (R208)

The manual bounds their results and fixes the special values. Where a bound admits several FP32 values, which one
is a free value of Config (log entry 5). -/

/-- One of the two FP32 values that bracket x. -/
def bracket (x : Ex) (upper : Bool) : Word32 := if upper then f32 x .rup else f32 x .rdn

/-- R208: `vrcp`. -/
def rcp32 (v : Word32) : Word32 :=
  bracket (Ex.div (.fin false 1 0 false) (val32 v)) (Config.vrcpUpper v)

/-- R208: `vrsqrt`; ±0 gives the infinity of its sign. -/
def rsqrt32 (v : Word32) : Word32 :=
  match val32 v with
  | .nan => f32 .nan .rne
  | .inf n => if n then f32 .nan .rne else 0
  | .fin n m e st =>
    if m = 0 then f32 (.inf n) .rne
    else if n then f32 .nan .rne
    else bracket (Ex.sqrt (Ex.div (.fin false 1 0 false) (.fin n m e st))) (Config.vrsqrtUpper v)

/-- Fixed-point places of the reference values below. -/
def fixPlaces : Nat := 96

/-- ln 2 × 2^96, rounded down: the sum over n of 1 / (n 2^n). -/
def ln2Fix : Nat := (List.range 100).foldl (fun s n => s + 2 ^ fixPlaces / ((n + 1) * 2 ^ (n + 1))) 0

/-- 2^f × 2^96 for a fixed-point fraction f in [0, 1): the exponential series of f ln 2. -/
def exp2Series (fr : Nat) : Nat → Nat → Nat → Nat
  | 0, _, acc => acc
  | k + 1, term, acc =>
    let n := 40 - (k + 1) + 1
    let t := term * fr / 2 ^ fixPlaces * ln2Fix / 2 ^ fixPlaces / n
    exp2Series fr k t (acc + t)

/-- floor(x × 2^96) for a finite x. -/
def fixOf (x : Ex) : Int :=
  match x with
  | .fin n m e _ =>
    let s := e + (fixPlaces : Int)
    let a : Int := if 0 ≤ s then ((m * 2 ^ s.toNat : Nat) : Int) else ((m / 2 ^ (-s).toNat : Nat) : Int)
    if n then -a else a
  | _ => 0

/-- 2^x to about 90 places, for |x| < 256. -/
def exp2Ref (x : Ex) : Ex :=
  let q := fixOf x
  let one : Int := (2 ^ fixPlaces : Nat)
  let ip := q / one
  let fr := (q % one).toNat
  .fin false (exp2Series fr 40 (2 ^ fixPlaces) (2 ^ fixPlaces)) (ip - fixPlaces) true

/-- Bits of log2 of y in [1, 2), y held with 96 places, by repeated squaring. -/
def log2Bits : Nat → Nat → Nat → Nat
  | 0, _, acc => acc
  | k + 1, y, acc =>
    let y2 := y * y / 2 ^ fixPlaces
    if 2 * 2 ^ fixPlaces ≤ y2 then log2Bits k (y2 / 2) (2 * acc + 1) else log2Bits k y2 (2 * acc)

/-- log2 x to about 60 places, for a finite positive x. -/
def log2Ref (x : Ex) : Ex :=
  match x with
  | .fin _ m e _ =>
    let L := Nat.log2 m
    let y := m * 2 ^ fixPlaces / 2 ^ L
    let frac := log2Bits 64 y 0
    let v : Int := ((L : Int) + e) * (2 ^ 64 : Nat) + frac
    .fin (decide (v < 0)) v.natAbs (-64) false
  | _ => .nan

/-- |a − b| ≤ 2^q for finite a and b. -/
def within (a b : Ex) (q : Int) : Bool :=
  let d := Ex.add a b.negate .rne
  d.isFinite && !(Ex.fin false 1 q false).lt d.abs

/-- The spacing of FP32 at a value's magnitude, as an exponent. -/
def ulpExp (x : Ex) : Int :=
  match x.exp? with
  | none => -149
  | some e => if e - 23 < -149 then -149 else e - 23

/-- The proposed encoding where it lies within 2^q of the reference, else the nearest. -/
def pickWithin (proposal : Word32) (ref : Ex) (q : Int) : Word32 :=
  if within (val32 proposal) ref q then proposal else f32 ref .rne

/-- Whether a finite value is an integer. -/
def Ex.isIntegral (x : Ex) : Bool :=
  match x with
  | .fin _ m e st => !st && (decide (0 ≤ e) || decide (m % 2 ^ (-e).toNat = 0))
  | _ => false

/-- R208: `vexp2`. -/
def exp2_32 (v : Word32) : Word32 :=
  let x := val32 v
  match x with
  | .nan => f32 .nan .rne
  | .inf n => if n then 0 else f32 (.inf false) .rne
  | .fin _ _ _ _ =>
    let k := x.toInt .rdn
    if 128 ≤ k then f32 (.inf false) .rne
    else if x.isIntegral ∧ -149 ≤ k then f32 (.fin false 1 k false) .rne
    else
      let ref := if k < -200 then Ex.fin false 1 (-200) true else exp2Ref x
      pickWithin (Config.vexp2Pick v) ref (ulpExp ref + 1)

/-- R208: `vlog2`. -/
def log2_32 (v : Word32) : Word32 :=
  let x := val32 v
  match x with
  | .nan => f32 .nan .rne
  | .inf n => if n then f32 .nan .rne else f32 (.inf false) .rne
  | .fin n m e _ =>
    if m = 0 then f32 (.inf true) .rne
    else if n then f32 .nan .rne
    else
      let L := Nat.log2 m
      if m = 2 ^ L then f32 (Ex.ofInt ((L : Int) + e)) .rne
      else
        let ref := log2Ref x
        let small := ref.abs.lt (.fin false 1 (-1) false)
        pickWithin (Config.vlog2Pick v) ref (if small then -24 else ulpExp ref + 1)

end Sys2Proof.Machine
end

