-- ==== Sys2Proof/Machine/State.lean ====
section
/-! DEFINITION. The state of the Z9 as plain data: strands, cells and the Mortise, the engines of a bent, launches,
partitions, dies, links and the device, with what the outside supplies in `agenda`. -/

namespace Sys2Proof.Machine

/-! ### Cells (R74, R75) -/

/-- A cell: the header fields of R75 and 256 payload bytes. -/
structure Cell where
  dest : BitVec 16 := 0
  kind : BitVec 4 := 0
  code : BitVec 8 := 0
  rvt : BitVec 5 := 0
  opix : BitVec 2 := 0
  opcnt : BitVec 2 := 0
  cls : BitVec 2 := 0
  vote : Bool := false
  eor : Bool := false
  eot : Bool := false
  rmk : Bool := false
  round : BitVec 16 := 0
  bent : BitVec 8 := 0
  strand : BitVec 4 := 0
  seq : BitVec 16 := 0
  seqp : BitVec 16 := 0
  seqs : BitVec 16 := 0
  fmt : BitVec 5 := 0
  tag : Bool := false
  len : BitVec 9 := 0
  ctx : BitVec 6 := 0
  iqrec : Bool := false
  poison : Bool := false
  arg : BitVec 32 := 0
  addr : BitVec 48 := 0
  modes : BitVec 11 := 0
  hcrc : BitVec 16 := 0
  payload : List Byte := []
  deriving DecidableEq, Repr, Inhabited

/-- R281, R286, R394: what an agent knows to have happened before it, as the time of each agent up to which it knows its acts:
what counts towards every agent of the region, towards those of its bent too, and towards its strand alone with the engine work
that it has enqueued; each holds the one before. The agents are strands by ordering key, walks and collectives one by one, and the
engines' work for a strand (`ownAgent`, `engAgent`). -/
structure Clock where
  wide : NMap Nat := []
  near : NMap Nat := []
  own : NMap Nat := []
  deriving DecidableEq, Repr, Inhabited

/-- R139, R281: a release: its strand by key and bent, its scope, its clock and its round. -/
structure Release where
  key : Nat := 0
  bent : Nat := 0
  scope : Scope := .strand
  clock : Clock := {}
  round : BitVec 16 := 0
  deriving DecidableEq, Repr, Inhabited

/-- Who put a cell into the Mortise: a strand's instruction, a walk engine, an egress engine, GR or the command
processor. -/
inductive Src where
  | strand | walk (w : Nat) | engine (e : Nat) | gr | cp
  deriving DecidableEq, Repr, Inhabited

/-- What hardware carries beside a cell, outside its header: its launch, the OWNER of the strand it acts for (R56,
R264), its source (R244), the load entry of the
`amo` it came from (R245), the provenance mark of R341, the shadow buffer it writes (R229),
the incremental queue whose output it is (R302), and the pair of the bent it came from through GR (R395). -/
structure Side where
  lid : Nat := 0
  ownerBent : Nat := 0
  ownerSlot : Nat := 0
  src : Src := .strand
  amo : Option (Nat × Nat × Nat) := none
  prov : Option Nat := none
  shadow : Option Nat := none
  iq : Option Nat := none
  via : Option Nat := none
  drain : Bool := false
  clock : Clock := {}
  epoch : Nat := 0
  deriving DecidableEq, Repr, Inhabited

/-- A cell in an ingress queue: when it was enqueued, its age and the slot in which it became aged (R253), and for a
multicast cell its residue (R252). -/
structure QCell where
  cell : Cell
  side : Side
  stamp : Nat := 0
  age : Nat := 0
  agedAt : Option Nat := none
  residue : BitVec 16 := 0
  deriving DecidableEq, Repr, Inhabited

/-- A cell in an egress input buffer, with the ingress it came through. -/
structure InCell where
  cell : Cell
  side : Side
  ing : Nat
  deriving DecidableEq, Repr, Inhabited

/-! ### Strands -/

/-- One hardware loop level (R120). -/
structure Loop where
  start : Word := 0
  stop : Word := 0
  remaining : Word := 0
  active : Bool := false
  deriving DecidableEq, Repr, Inhabited

/-- Where the data of a load entry goes. -/
inductive Dest where
  | none
  | x (d : XReg) (ext : ITy)
  | f (d : FReg)
  deriving DecidableEq, Repr, Inhabited

/-- Where an access is performed: a sill of the own bent, an HBM channel, Psiris-H, the AT, or another bent's
scratchpad through a request channel. -/
inductive Path where
  | sill (n : Nat)
  | channel (c : Nat)
  /-- an HBM channel, through a leaf of a registered image (R341) -/
  | image (c i : Nat)
  | host
  | at
  | request (h : Nat)
  deriving DecidableEq, Repr, Inhabited

/-- The kinds of memory operation a strand has in flight. -/
inductive MemKind where
  | load | store | ldt | stt | ldfe | ldnb
  | stfe (fill : Bool)
  | amo (aop : Nat) (wide : Bool)
  | rld | rst
  deriving DecidableEq, Repr, Inhabited

/-- The agent of a write: its launch, the strand recorded as writer (R142), its round, its ordering key (R285), its agent with its
time (R281), and its clock. -/
structure Writer where
  lid : Nat := 0
  bent : Nat := 0
  strand : Nat := 0
  phs : BitVec 8 := 0
  round : BitVec 16 := 0
  key : Nat := 0
  agent : Nat := 0
  epoch : Nat := 0
  clock : Clock := {}
  deriving DecidableEq, Repr, Inhabited

/-- A load or store entry of R138. `loc` is the storage address of the first byte and `tagLoc` that of the tag
byte; `got` holds data already read; `bound` is the buffer backing the access is bound to (R160). -/
structure MemOp where
  id : Nat
  kind : MemKind
  path : Path
  loc : Nat
  size : Nat
  data : List Byte := []
  dpois : Bool := false
  expected : List Byte := []
  dest : Dest := .none
  tagLoc : Nat := 0
  scope : Scope := .strand
  acq : Bool := false
  rel : Bool := false
  round : BitVec 16 := 0
  /-- the first part of `ldt` (the value read) or `stt` (the value written), the tag byte still to come (R51) -/
  half : Option (List Byte × Bool) := none
  got : Option (List Byte × Bool) := none
  /-- what the releases that an acquire observed with its data tell (R139, R281) -/
  seen : Clock := {}
  parked : Bool := false
  held : Bool := false
  spilled : Bool := false
  preTrap : Bool := false
  bound : Option (Nat × Bool) := none
  writer : Writer := {}
  deriving DecidableEq, Repr, Inhabited

/-- What a waiting strand waits for (R263). The condition itself is `State.cleared`. The queues of `queues` are given
as bent × 16 + ingress, egress and class. -/
inductive Wait where
  | loadEntry | storeEntry
  | translation (key : Nat)
  | acquire
  | performed (sc : Scope)
  | overlap (ranges : List (Nat × Nat)) (path : Path)
  | sillOrder (ns : List Nat)
  | deferred (id : Nat)
  | queues (es : List (Nat × Nat × Nat))
  | multiQueue (i cls : Nat)
  | walkQueue (w : Nat)
  | rendezvous (e : Nat)
  | operandsArrived (e idx : Nat)
  | sink (n : Nat)
  | barrier (h : Nat) (wid : Word) (seen : BitVec 16)
  | walksSent | hbmHeld
  | roundFloor
  | shadowWrites (bt : Nat)
  | slots (target n : Nat)
  | channelIdle (h : Nat)
  | channelSlot (h : Nat)
  | elementSlot (h : Nat)
  | element (h : Nat)
  | gangIdle (mask : Nat)
  | loadsReturned
  | scarfEnded (bt : Nat)
  | scarfFree
  deriving DecidableEq, Repr, Inhabited

/-- The state of an occupied strand slot (R263); a slot with no strand is free. -/
inductive SlotState where
  | ready
  | waiting (w : Wait)
  | retiring (abandon : Bool)
  deriving DecidableEq, Repr, Inhabited

/-- What a trap entry saves (R194), with the state the strand left to take the trap (R58), the causing tenon whose
freeze ends at `rft`, and whether `rft` re-executes with the check suppressed (R59). -/
structure TrapFrame where
  x : Vector Word 32
  f : Vector FVal 16
  c : Vector Bool 8
  px : Vector Bool 32
  pf : Vector Bool 16
  loops : Vector Loop 2
  fpmode : BitVec 3
  pc : Word
  ret : SlotState
  tenon : Option (Nat × Nat)
  significance : Bool
  /-- the check suppressed for the instruction at `pc` when another trap is taken first (R59, R60) -/
  suppress : Bool := false
  cause : BitVec 16
  deriving DecidableEq, Repr, Inhabited

/-- A trap raised for a strand and not yet taken (R58, R60, R228): its cause, the tenon and routine frozen for it,
the order in which it was raised, and the report of R57. -/
structure PendTrap where
  cause : BitVec 16
  tenon : Option (Nat × Nat) := none
  stamp : Nat := 0
  log : List Word := []
  deriving DecidableEq, Repr, Inhabited

/-- An entry of the event queue (R269), OVF excepted. -/
structure EvEntry where
  status : BitVec 2
  kind : BitVec 4
  space : BitVec 4
  addr : BitVec 52
  ovf : Bool := false
  deriving DecidableEq, Repr, Inhabited

/-- A strand (R61, R64). -/
structure Strand where
  lid : Nat := 0
  ownerBent : Nat := 0
  ownerSlot : Nat := 0
  pc : Word := 0
  x : Vector Word 32 := Vector.replicate 32 0
  f : Vector FVal 16 := Vector.replicate 16 FVal.zero
  c : Vector Bool 8 := Vector.replicate 8 false
  px : Vector Bool 32 := Vector.replicate 32 false
  pf : Vector Bool 16 := Vector.replicate 16 false
  fpmode : BitVec 3 := 0
  sigth : BitVec 5 := 0
  sigen : BitVec 3 := 0
  siglog : Vector Word 4 := Vector.replicate 4 0
  trapvec : Word := 0
  trapcause : BitVec 16 := 0
  trappc : Word := 0
  wid : Word := 0
  round : BitVec 16 := 0
  evq : List EvEntry := []
  loops : Vector Loop 2 := Vector.replicate 2 {}
  sxcfg : BitVec 32 := 0
  phs : BitVec 8 := 0
  seqNext : BitVec 16 := 0
  seqLast : NMap (BitVec 16) := []
  saved : Option TrapFrame := none
  suppress : Bool := false
  pend : List PendTrap := []
  state : SlotState := .ready
  /-- the markers of an `rmark` have been sent, which waits for HBM atomics (R172) -/
  marked : Bool := false
  /-- the page (`transKey`) whose walk has failed for this strand, which waited for it (R334) -/
  transBad : Option Nat := none
  ops : List MemOp := []
  nextOp : Nat := 0
  roundCells : NMap Nat := []
  deriving DecidableEq, Repr, Inhabited

/-- A parked strand (R264): its state with unsaved registers at their reset values, the live mask, the word awaited, and
for a scratchpad word its storage address: `2 × address` for a completion word, one more for a granule; and once it is ready the
place in time at which it became so (R267). -/
structure Cont where
  st : Strand
  live : BitVec 48
  waitOn : Word
  waitLoc : Option Nat
  fired : Bool := false
  firedAt : Nat := 0
  events : List EvEntry := []
  deriving DecidableEq, Repr, Inhabited

/-! ### Bent-level units -/

/-- The shadow word of a granule (R142). -/
structure Granule where
  npr : Nat := 0
  fe : Bool := true
  ph : BitVec 8 := 0
  lws : BitVec 4 := 0
  lwb : BitVec 8 := 0xFF
  deriving DecidableEq, Repr, Inhabited

/-- A sink slot (R170): payload bytes 0-7, format, tag, count of element 0, poison, and what `sink` f needs of a
block. -/
structure SinkSlot where
  bytes : List Byte
  fmt : BitVec 5
  tag : Bool
  count : Nat
  poison : Bool
  round : BitVec 16
  deriving DecidableEq, Repr, Inhabited

/-- A rendezvous entry (R255): who holds it and its stored operands by OPIX. -/
structure RvEntry where
  lid : Nat
  ownerBent : Nat
  ownerSlot : Nat
  operands : NMap InCell := []
  deriving DecidableEq, Repr, Inhabited

/-- What one issuer sent on one (ingress, egress) pair in one round: cells arrived, and the count of its marker once
received (R81). -/
structure Pair where
  ing : Nat
  egr : Nat
  issuer : Nat
  round : BitVec 16
  arrived : Nat := 0
  marker : Option Nat := none
  deriving DecidableEq, Repr, Inhabited

/-- One entry of the vote log (R373). -/
structure VoteEntry where
  egr : Nat
  bent : BitVec 8
  strand : BitVec 4
  round : BitVec 16
  seq : BitVec 16
  kind : Nat
  ovf : Bool := false
  deriving DecidableEq, Repr, Inhabited

/-- A translation held by a TLB (R335): context, host space, VPN, page size 32 MiB, physical base, permissions and
image. -/
structure TlbEntry where
  ctx : Nat
  host : Bool
  vpn : Nat
  big : Bool
  pa : Nat
  w : Bool
  img : Option Nat
  deriving DecidableEq, Repr, Inhabited

/-- A tile-walk command and its progress (R173 to R178). -/
structure Walk where
  lid : Nat := 0
  ownerBent : Nat := 0
  ownerSlot : Nat := 0
  slot : Nat := 0
  ticket : BitVec 16 := 0
  bounded : Bool := false
  src : Word := 0
  stride : Int := 0
  rowLen : Nat := 0
  rows : Nat := 0
  hdr : Word := 0
  argx : Word := 0
  copy : Bool := false
  bt : Nat := 0
  rpc : Nat := 1
  stream : Nat := 0
  cntr : Word := 0
  word : Word := 0
  cls : BitVec 2 := 0
  ctx : BitVec 6 := 0
  round : BitVec 16 := 0
  modes : BitVec 11 := 0
  /-- the SX configuration of its strand at issue (R180) -/
  sxcfg : BitVec 32 := 0
  dmask : BitVec 16 := 0
  begun : Bool := false
  cancelled : Bool := false
  row : Nat := 0
  off : Nat := 0
  allowed : Nat := 0
  ended : Option (BitVec 2) := none
  poisonRest : Bool := false
  parkedTok : Option (BitVec 32) := none
  reserved : Option Nat := none
  bindings : List (Nat × Bool) := []
  frontWhich : Bool := false
  clock : Clock := {}
  /-- the walk's place in issue order, the strand's operations before it, and whether its word stays unwritten -/
  ord : Nat := 0
  opMark : Nat := 0
  noWord : Bool := false
  deriving DecidableEq, Repr, Inhabited

/-! ### VX tenons -/

/-- A VX register or slot: 64 lanes with counts, presence and poison (R68). -/
structure VReg where
  lanes : List FVal := List.replicate 64 FVal.zero
  full : Bool := true
  poison : Bool := false
  deriving DecidableEq, Repr, Inhabited

/-- The header of a delivered cell that a cell-in slot keeps (R199). -/
structure SlotHdr where
  cell : Cell
  side : Side
  deriving DecidableEq, Repr, Inhabited

/-- A tile register (R72, R204). -/
structure Tile where
  rows : Nat := 0
  cols : Nat := 0
  fmt : SFmt := .flt .fp32
  elems : List FVal := []
  rcur : Nat := 0
  wcur : Nat := 0
  live : Bool := false
  full : Bool := true
  poison : Bool := false
  configured : Bool := false
  deriving DecidableEq, Repr, Inhabited

/-- How a routine is held. -/
inductive Hold where
  | running
  /-- frozen before its op-word for a trap of its strand (R58, R71) -/
  | frozen
  /-- ended by a fault, its tenon frozen until `rft` (R226) -/
  | faulted
  /-- `vend` executed; results and emissions outstanding (R224) -/
  | ending
  deriving DecidableEq, Repr, Inhabited

/-- An active routine (R199 to R224): its place in the routine store, the loops it is in with the innermost first, its
active width, the ordinals of its `cin`s, the marker state and key of the latest, its starting cell, and the cells it
emitted that FB2 has not accepted. -/
structure Routine where
  entry : Nat
  pc : Nat
  lo : Nat
  hi : Nat
  loops : List (Nat × Nat × Nat) := []
  aw : Nat := 64
  ords : List Nat := []
  markEor : Bool := false
  markEot : Bool := false
  cinKey : Nat := 0
  cinSeq : BitVec 16 := 0
  cinRound : BitVec 16 := 0
  start : Cell
  side : Side
  hold : Hold := .running
  suppress : Bool := false
  couts : Nat := 0
  deriving DecidableEq, Repr, Inhabited

/-- A long-latency result not yet written (R69, R70): its routine, its destination, the value, the elements of a tile
destination, and whether the entry that it placed in the last-result file stands in l0 or l1. -/
structure LongOp where
  id : Nat
  routine : Nat
  dst : Nat
  value : VReg
  elems : Option (List FVal)
  l0 : Bool
  l1 : Bool
  deriving DecidableEq, Repr, Inhabited

/-- A partial of a pending reduction or scan (R212, R213): what its op-word does, its ordinal, the ordering key, the SEQ and
the round of its `cin`'d cell (R287), the value of a reduction with the operands of its last combination, the lanes of a scan
with their active width, the marks of the cell, its routine, and for a significance trap the MODES and strand and the place
of its op-word (R309); `held` while it keeps its destination empty, with l0 and l1 as for a long-latency result (R69, R70). -/
structure Partial where
  comb : Nat
  ty : VTy
  lvl : VLvl
  mode : Mode
  ordinal : Nat
  key : Nat
  seq : BitVec 16
  round : BitVec 16
  value : Option (Nat × Nat)
  ops : Option (FVal × FVal)
  lanes : List FVal
  aw : Nat
  eor : Bool
  eot : Bool
  poison : Bool
  modes : BitVec 11
  side : Side
  entry : Nat
  off : Nat
  opc : Nat
  held : Bool := true
  l0 : Bool := false
  l1 : Bool := false
  deriving DecidableEq, Repr, Inhabited

/-- A pending reduction or scan of one destination register (R212): partials handed to it, those taken in the open unit,
and the carry of a scan with its poison. -/
structure Pending where
  dst : Nat
  scan : Bool
  waiting : List Partial := []
  taken : List Partial := []
  carry : Option (Nat × Nat) := none
  carryPoison : Bool := false
  deriving DecidableEq, Repr, Inhabited

/-- A result that a significance trap keeps from its destination until `rft` (R58, R59, R309). -/
structure Close where
  dst : Nat
  reg : VReg
  l0 : Bool
  l1 : Bool
  deriving DecidableEq, Repr, Inhabited

/-- A VX tenon (R68): registers and slots by operand code, tiles by number, the cells in cell-in slots, active routines,
the number of the next `cin` (R212), long-latency results, pending reductions with the next ordinal of each destination,
and results kept by a trap. -/
structure Tenon where
  v : NMap VReg := []
  tiles : NMap Tile := []
  slotHdr : NMap SlotHdr := []
  routines : NMap Routine := []
  nextRoutine : Nat := 0
  ordinal : Nat := 0
  longs : List LongOp := []
  nextLong : Nat := 0
  pendings : List Pending := []
  taken : NMap Nat := []
  closes : NMap Close := []
  deriving DecidableEq, Repr, Inhabited

/-! ### Other engines -/

/-- Weights in a CIM (R230, R232): the stored value of slot row i, column n, and for a sparse image its index. -/
structure Image where
  fmt : Nat := 0
  sparsity : Nat := 0
  k : Nat := 0
  n : Nat := 0
  data : List Byte := []
  poison : Bool := false
  deriving DecidableEq, Repr, Inhabited

/-- The identity tag beside a CIM (R342). -/
structure CimTag where
  imgid : Nat := 0
  version : Nat := 0
  reg : Bool := false
  ireg : Nat := 0
  deriving DecidableEq, Repr, Inhabited

/-- An A row being assembled or assembled (R233): its issuer key, the accumulator row it targets, its payload bytes, each with the
count of the element that it begins in a tagged cell, once complete its elements with counts, the cells it came in, the ROW0 of
the last, whether it breaks a rule, and the cell that answers for it. -/
structure ARow where
  issuer : Nat
  row : Nat
  fmt : BitVec 5
  sparse : Bool
  strict : Bool
  vals : List (Ex × Nat)
  raw : List (Byte × Option Nat) := []
  row0 : Nat := 0
  cells : Nat
  bad : Bool
  round : BitVec 16
  poison : Bool
  side : Side := {}
  deriving DecidableEq, Repr, Inhabited

/-- One accumulator element: an FP32 encoding with its count, or an INT32 encoding. -/
abbrev AccElem := FVal

/-- A firing in flight (R234): its accumulator row, and per column the exact sum and the largest weight (R48). -/
structure Firing where
  id : Nat
  row : Nat
  sums : List (Ex × Option Int)
  round : BitVec 16
  poison : Bool
  deriving DecidableEq, Repr, Inhabited

/-- A weight load in progress (R231): its issuer key, its bytes, and the image that every cell comes from (R341). -/
structure LoadStream where
  issuer : Nat
  bytes : List Byte
  prov : Option Nat
  ctx : BitVec 6
  round : BitVec 16
  poison : Bool
  deriving DecidableEq, Repr, Inhabited

/-- A drain in progress (R236). -/
structure Drain where
  first : Nat
  rows : Nat
  clear : Bool
  pos : Nat := 0
  bt : Option Nat := none
  side : Side := {}
  round : BitVec 16 := 0
  deriving DecidableEq, Repr, Inhabited

/-- A matrix tenon (R230). -/
structure Mx where
  image : Image := {}
  valid : Bool := false
  tag : CimTag := {}
  wgen : Nat := 0
  int32 : Bool := false
  acc : NMap AccElem := []
  accPoison : List Nat := []
  snf : Bool := false
  sat : Bool := false
  firings : BitVec 16 := 0
  cursors : NMap Nat := []
  partialRow : NMap ARow := []
  rows : List ARow := []
  inFlight : List Firing := []
  nextFiring : Nat := 0
  load : Option LoadStream := none
  drain : Option Drain := none
  gang : Option (Nat × Nat × Nat) := none
  rowKeys : List (BitVec 16 × Nat × Nat) := []
  deriving DecidableEq, Repr, Inhabited

/-- A running top-k tile (R242). -/
structure TopK where
  issuer : Nat
  cfg : BitVec 32
  seen : Nat
  best : List (Nat × Nat)
  poison : Bool
  deriving DecidableEq, Repr, Inhabited

/-- An incremental record (R296). -/
structure Rec where
  key : Nat
  value : Nat
  mult : Int
  round : BitVec 16
  flags : Nat
  deriving DecidableEq, Repr, Inhabited

/-- A record of a consolidator's pending set: its queue, and the cell that brought it, without its payload (R311). -/
structure PendRec where
  q : Nat
  r : Rec
  src : InCell
  deriving DecidableEq, Repr, Inhabited

/-- A pending fold (R301): the buffer of its arrangement, the queue of its join, the change, and whether its cell was poisoned. -/
structure Fold where
  bt : Nat
  q : Nat
  r : Rec
  poison : Bool
  deriving DecidableEq, Repr, Inhabited

/-- The join cells that a fold takes (R301): the OWNER of the first, that of greatest ordering key, and what they know to have
happened before them (R286). -/
structure FoldBy where
  lid : Nat
  bent : Nat
  slot : Nat
  lastBent : Nat
  lastSlot : Nat
  clock : Clock
  deriving DecidableEq, Repr, Inhabited

/-- A consolidator: pending records, pending folds, and the join cells of the folds by buffer and round. -/
structure Cn where
  pending : List PendRec := []
  folds : List Fold := []
  foldBy : NMap FoldBy := []
  deriving DecidableEq, Repr, Inhabited

/-- A copy held by the voter (R244). -/
structure Vote where
  cells : List (InCell × Nat)
  forwarded : Option Nat
  deriving DecidableEq, Repr, Inhabited

/-- An atomic update held for round close (R152), with the backing that it is bound to (R160). -/
structure HeldAtom where
  key : Nat
  loc : Nat
  cell : InCell
  spilled : Bool := false
  bound : Option (Nat × Bool) := none
  deriving DecidableEq, Repr, Inhabited

/-- What happens when the feedback port accepts an emitted cell. -/
inductive OnAccept where
  | nothing
  | infl (lid q n : Nat) (round : BitVec 16)
  | rowDone (row : Nat) (last : Bool)
  | coutSlot (t slot routine : Nat) (iq : Option (Nat × Nat))
  | cfwdSlot (t slot routine : Nat)
  deriving DecidableEq, Repr, Inhabited

/-- A cell that an engine offers to its feedback port (R229). -/
structure Emission where
  cell : Cell
  side : Side
  done : OnAccept
  deriving DecidableEq, Repr, Inhabited

/-- A place of a bent's GR reassembly buffer (R294): the cell, its issuer, and the egress it goes to; a marker goes to every egress
of `fan`, with its count there (R395). -/
structure GrPlace where
  cell : Cell
  side : Side
  issuer : Nat
  egress : Nat
  fan : List (Nat × Nat) := []
  deriving DecidableEq, Repr, Inhabited

/-- A cell or marker at GS that waits for or holds a reservation (R294): the egress and ingress it came through, where it
goes, and when it came. -/
structure GsCell where
  cell : Cell
  side : Side
  egr : Nat
  ing : Nat
  target : Nat
  egress : Nat
  stamp : Nat
  granted : Bool := false
  /-- of a marker, the egresses of the target that its pair's cells reached, with how many (R395) -/
  fan : List (Nat × Nat) := []
  deriving DecidableEq, Repr, Inhabited

/-- R395: the cells of a pair and round that WB0, WB1 or GS has passed: in all, or to one egress of one bent. -/
structure GsCount where
  egr : Nat
  ing : Nat
  issuer : Nat
  round : BitVec 16
  target : Option (Nat × Nat)
  n : Nat
  deriving DecidableEq, Repr, Inhabited

/-- A cycle of blocked queues and its still-count (R257); a queue is ingress, egress and whether it is the multicast
queue. `seen` is what stood in the queues, by stamp, and in the buffers of their egresses at the last slot. -/
structure Still where
  queues : List (Nat × Nat × Bool)
  count : Nat
  seen : List (List Nat × List InCell)
  deriving DecidableEq, Repr, Inhabited

/-- A bent: its scratchpad lies in `State.mem`. -/
structure Bent where
  launch : Option Nat := none
  index : Nat := 0
  strands : NMap Strand := []
  /-- the time at which each slot became free (R267) -/
  freedAt : NMap Nat := []
  granules : NMap Granule := []
  deferred : List (Nat × Nat × Nat) := []
  voq : NMap (List QCell) := []
  mq : NMap (List QCell) := []
  gp : Vector (BitVec 4) 16 := Vector.replicate 16 0
  ap : Vector (BitVec 4) 16 := Vector.replicate 16 0
  acp : Vector (BitVec 4) 16 := Vector.replicate 16 0
  slot : Nat := 0
  gateCount : Nat := 0
  landing : List (Nat × InCell) := []
  inbuf : NMap (List InCell) := []
  rv : NMap RvEntry := []
  rvWait : List (Nat × Nat) := []
  /-- operations that have fired and wait for their engine: egress, and operands by OPIX (R255) -/
  fired : List (Nat × List InCell) := []
  stills : List Still := []
  ageLimit : Nat := 256
  dlWindow : Nat := 4096
  /-- the value of DL_WINDOW in use since the last slot boundary (R65, R132) -/
  dlLive : Nat := 4096
  /-- the value of AGE_LIMIT in use since the last slot boundary (R65, R132) -/
  ageLive : Nat := 256
  dlsnap : Vector Word 4 := Vector.replicate 4 0
  votelog : List VoteEntry := []
  sinks : NMap SinkSlot := []
  sinkCount : Nat := 0
  unitRound : NMap (BitVec 16) := []
  pairs : List Pair := []
  fbSent : NMap Nat := []
  walks : NMap (List Walk) := []
  /-- cells sent on each stream (R174) -/
  streamSeq : NMap (BitVec 16) := []
  tickets : List (BitVec 16) := []
  tlb : List TlbEntry := []
  walkTlb : NMap (List TlbEntry) := []
  /-- entries given up while accesses translated through them were not yet performed (R336) -/
  tlbOld : List TlbEntry := []
  /-- the page (`transKey`) whose walk has failed for a walk engine or an egress that waited for it (R334) -/
  transBad : NMap Nat := []
  pool : Nat := 256
  gs : List GsCell := []
  gr : List GrPlace := []
  gsSent : List GsCount := []
  /-- markers to send on behind their pair's cells: the egress, and the marker (R395) -/
  gsMarks : List (Nat × InCell) := []
  tenons : NMap Tenon := []
  mx : NMap Mx := []
  topk : List TopK := []
  cn : Cn := {}
  votes : List Vote := []
  held : List HeldAtom := []
  emit : NMap (List Emission) := []
  stamp : Nat := 0
  engSeq : NMap (BitVec 16) := []
  deriving DecidableEq, Repr, Inhabited

/-! ### Launches -/

/-- A barrier (R158): level, parties, and per group its phase counter and arrivals. -/
structure Barrier where
  level : Nat
  parties : Nat
  groups : NMap (BitVec 16 × Nat) := []
  deriving DecidableEq, Repr, Inhabited

/-- An element of a dataflow channel, with the release of its `chsend` (R185, R281). -/
structure Elem where
  bytes : List Byte
  poison : Bool
  rel : Release := {}
  deriving DecidableEq, Repr, Inhabited

/-- A handle chN: a dataflow channel (R185, R295) or a request channel (R183). -/
inductive Chan where
  | data (slots bytes : Nat) (elems : List Elem)
  | request (ownerBent ownerSlot target slots used : Nat)
  deriving DecidableEq, Repr, Inhabited

/-- An incremental queue (R297 to R302). -/
structure IncQueue where
  onRound : Bool
  route : List Byte
  infl : Nat := 0
  last : Option (BitVec 16) := none
  deriving DecidableEq, Repr, Inhabited

/-- A buffer-table entry (R328, R329); `swap` says which backing is the front. -/
structure Buffer where
  shadow : Bool
  tagged : Bool
  spad : Bool
  width : Nat
  bytes : Nat
  boff : Nat
  dataOff : Option Nat
  tagOff : Nat
  swap : Bool := false
  rankMap : Option (Nat × Nat × Nat × List Nat) := none
  scarfStatus : Word := 0xFFFF0000
  deriving DecidableEq, Repr, Inhabited

/-- A Scarf collective in progress (R355 to R364): its descriptor, the rank map it started with, the rows of its step table, its
step and when that step's timer starts, the storage bytes of its contribution with the image that each is read through, the chunks
of it not yet sent (R356), the elements it holds by rank and chunk, and by step and rank what has arrived, what has been sent and
what has been acknowledged. -/
structure Scarf where
  die : Nat
  bent : Nat
  slot : Nat
  ownerBent : Nat
  ownerSlot : Nat
  kind : Nat
  dtype : Nat
  op : Nat
  det : Bool
  collid : Nat
  count : Nat
  timeout : Nat
  peer : Nat
  switch : Nat
  rank : Nat
  gen : Nat
  ids : List Nat
  rows : List (Nat × Nat × Nat)
  writer : Writer
  step : Nat := 0
  timer : Nat := 0
  src : List (Nat × Option Nat) := []
  unsent : List Nat := []
  have_ : List (Nat × Nat × List Nat) := []
  arrived : List (Nat × Nat) := []
  acked : List (Nat × Nat) := []
  /-- the messages sent, by step and rank -/
  sent : List ((Nat × Nat) × ScarfMsg) := []
  lastSend : Nat := 0
  deriving DecidableEq, Repr, Inhabited

/-- A unit's checkpoint (R368): the round whose edge it has passed, the unit (region index × 16 + egress), and its bent as
it was when it entered the next round. -/
structure UnitMark where
  round : BitVec 16
  unit : Nat
  bent : Bent
  deriving DecidableEq, Repr, Inhabited

/-- A strand's checkpoint (R368): the round it ended, its ordering key, its bent by region index with its slot, its state after
the `rmark`, and what it holds. -/
structure StrandMark where
  round : BitVec 16
  key : Nat
  bent : Nat
  slot : Nat
  st : Strand
  /-- the rendezvous entries it holds: bent by region index, place, entry -/
  rv : List (Nat × Nat × RvEntry)
  deriving DecidableEq, Repr, Inhabited

/-- A change to a launch's handles or allocators, logged with its round until the round's cut is complete: what rollback
undoes (R303, R370). -/
inductive LogOp where
  | barInit (h level parties : Nat)
  | barTouch (h group : Nat)
  | barArrive (h group : Nat)
  | infl (q : Nat) (up : Bool) (n : Nat)
  | last (q : Nat)
  | chan (h : Nat) (c : Option Chan)
  | rank (bt : Nat) (map : Nat × Nat × Nat × List Nat)
  | id (index n : Nat)
  | sent (h : Nat)
  | sunk (index n : Nat) (slot : SinkSlot)
  | ctl (index age window : Nat)
  deriving DecidableEq, Repr, Inhabited

/-- The handles of a launch at its last cut. -/
structure Handles where
  bars : NMap Barrier := []
  chans : NMap Chan := []
  queues : NMap IncQueue := []
  ranks : NMap (Nat × Nat × Nat × List Nat) := []
  /-- AGE_LIMIT and DL_WINDOW of the bents by region index -/
  ctls : NMap (Nat × Nat) := []
  deriving DecidableEq, Repr, Inhabited

/-- A unit's contents before the first write to it in an open round (R368), in the undo area of a bent. -/
structure Undo where
  round : BitVec 16
  bent : Nat
  base : Nat
  old : List Byte
  poisoned : Bool
  granule : Option Granule
  deriving DecidableEq, Repr, Inhabited

/-- R286: a write to a byte: its round, its ordering key, and its agent with its time. -/
structure Wrote where
  round : BitVec 16
  key : Nat
  agent : Nat
  time : Nat
  deriving DecidableEq, Repr, Inhabited

/-- Where a launch stands. -/
inductive Phase where
  | running
  | gating (abort : Bool)
  | preempted
  | draining
  /-- drained, the closing marker under way (R349 step 4) -/
  | closing
  | rolling
  | ended
  deriving DecidableEq, Repr, Inhabited

/-- A placed launch. -/
structure Launch where
  /-- the command it came from (R321) and its append time -/
  cmd : List Byte := []
  tapp : Nat := 0
  seq : Nat := 0
  part : Nat := 0
  queue : Nat := 0
  ctx : Nat := 0
  tier : Nat := 0
  deadline : Nat := 0
  sinks : Nat := 0
  compl : Word := 0
  cbase : Word := 0
  bufva : Word := 0
  det : Bool := false
  detspill : Nat := 0
  widths : List Nat := []
  nStrands : Nat := 1
  region : List Nat := []
  /-- the region at the first placement, which OWNER fields name (R347) -/
  origin : List Nat := []
  entry : Nat := 0
  tvec : Option Nat := none
  cstore : Nat := 0
  text : List Byte := []
  entries : List (Option Nat) := []
  opwords : List Word32 := []
  /-- section 3 as loaded (R103, R326) -/
  weights : List Byte := []
  /-- the HBM allocated for the launch and for its saved state (R326, R344), and the HBM channels of other partitions whose
  spill areas are among it (R314) -/
  hbm : Nat := 0
  saved : Nat := 0
  spillAreas : List Nat := []
  bars : NMap Barrier := []
  chans : NMap Chan := []
  queues : NMap IncQueue := []
  bufs : NMap Buffer := []
  streams : NMap (Nat × Nat) := []
  nextId : NMap Nat := []
  conts : List Cont := []
  readyList : List Cont := []
  /-- counts the times at which continuations became ready (R267) -/
  fireSeq : Nat := 0
  scarfs : NMap Scarf := []
  /-- publishes whose old front is still in use, and the strands (by OWNER) that wait to publish, in issue order -/
  pubAfter : List Nat := []
  /-- the strand (by OWNER) whose `publish` of a buffer was the latest -/
  pubBy : NMap (Nat × Nat) := []
  pubWait : List (Nat × Nat × Nat) := []
  /-- the last complete cut and what it keeps, and the checkpoints and changes of rounds after it (R368) -/
  cutRound : Option (BitVec 16) := none
  cutStrands : List StrandMark := []
  cutUnits : List UnitMark := []
  cutHandles : Handles := {}
  strandMarks : List StrandMark := []
  unitMarks : List UnitMark := []
  opLog : List (BitVec 16 × LogOp) := []
  returnedIds : NMap (List Nat) := []
  undo : List Undo := []
  /-- happens-before (R281, R286): each agent's clock, the releases that stand at synchronising objects, and the writes
  to each byte, the latest of each round and agent -/
  clocks : NMap Clock := []
  syncs : NMap (List Release) := []
  lastWrites : NMap (List Wrote) := []
  publishes : List (BitVec 16 × Nat) := []
  posLog : NMap Nat := []
  unrecoverable : List (BitVec 16) := []
  nonReplayable : List (BitVec 16) := []
  rolledAt : Option (Option (BitVec 16)) := none
  restarts : Nat := 0
  noRestart : Bool := false
  /-- R371: an error struck while the region was being restored -/
  restoreError : Bool := false
  phase : Phase := .running
  fault : Nat := 0
  trapCause : BitVec 16 := 0
  fpc : Word := 0
  fwho : Nat := 0
  tdisp : Nat := 0
  /-- DTIME at the fault (R330) -/
  tfault : Nat := 0
  lastProgress : Nat := 0
  gatedAt : Nat := 0
  savedRegion : List Nat := []
  /-- R350: saved by MODE 2 of `PSVC` -/
  savedByMode : Bool := false
  savedBents : NMap Bent := []
  savedMem : List Host.Cell := []
  savedPoison : List Nat := []
  deriving DecidableEq, Repr, Inhabited

/-! ### Partitions, dies, device -/

/-- A queue control block (R319); `pend` is the journal sequence number and append time of each command not yet placed, in
queue order (R320). -/
structure Qcb where
  base : Nat := 0
  slots : Nat := 0
  en : Bool := false
  head : Nat := 0
  tail : Nat := 0
  pend : List (Nat × Nat) := []
  deriving DecidableEq, Repr, Inhabited

/-- A context descriptor (R338); `ending` while a clear of EN waits for its launches. -/
structure Ctx where
  droot : Nat := 0
  hroot : Nat := 0
  kslot : Nat := 0
  pmask : Nat := 0
  en : Bool := false
  ending : Bool := false
  deriving DecidableEq, Repr, Inhabited

/-- A registered weight image (R340). -/
structure ImageReg where
  imgid : Nat := 0
  version : Nat := 0
  kslot : Nat := 0
  en : Bool := false
  grant : Word := 0
  base : Nat := 0
  bytes : Nat := 0
  deriving DecidableEq, Repr, Inhabited

/-- A journal record (R378). -/
structure Journal where
  seq : Nat := 0
  queue : Nat := 0
  tier : Nat := 0
  ctx : Nat := 0
  state : Nat := 0
  fault : Nat := 0
  rolls : Nat := 0
  hash : List Byte := []
  deadline : Int := 0
  tapp : Nat := 0
  tdisp : Nat := 0
  tlast : Nat := 0
  deriving DecidableEq, Repr, Inhabited

/-- A pre-emption request in progress (R344). -/
structure Preempt where
  abort : Bool
  lid : Nat
  deriving DecidableEq, Repr, Inhabited

/-- A message to the host (R323, R337, R367, R376). -/
inductive HostMsg where
  | accepted (p q seq : Nat)
  | disabled (p q : Nat)
  | full (p q : Nat)
  | refused (p q : Nat)
  | tooLarge (p q : Nat)
  | fault (p : Nat) (token : BitVec 32) (ctx : Nat) (va : Word) (host write : Bool) (seq : Nat)
  | windowRefused (p : Nat) (addr : Nat)
  | uncorrectable (p : Nat) (u : ErrUnit)
  | lane (link : Nat) (lost : Bool)
  | firmwareRefused (kind : Nat)
  deriving DecidableEq, Repr, Inhabited

/-- R399: the launch header read for the candidate of a queue: the command's sequence number, 0 or the fault of an unreadable or
invalid header, and the 64 bytes. -/
structure Held where
  seq : Nat
  fault : Nat
  header : List Byte
  deriving DecidableEq, Repr, Inhabited

/-- A partition (R319 to R379). `selected` is a queue whose command waits for bents, or 256 plus a pre-empted launch; `reported`
are the candidates whose size was reported (R323). -/
structure Part where
  qcbs : NMap Qcb := []
  decision : Nat := 1
  selected : Option Nat := none
  reported : List Nat := []
  held : NMap Held := []
  tierOff : Vector Nat 8 := #v[7000000, 6000000, 5000000, 4000000, 3000000, 2000000, 1000000, 0]
  floor : Nat := 16
  images : NMap ImageReg := []
  tlbinv : Word := 0
  tlbinvPending : List Word := []
  parked : List (BitVec 32 × Nat × Nat) := []
  nextToken : Nat := 1
  preempt : Word := 0
  preempting : Option Preempt := none
  hangNs : Nat := 100000000
  psvc : Nat := 0
  offline : Bool := false
  ce : Nat := 0
  ue : Nat := 0
  vtthr : Nat := 16
  disagree : NMap Nat := []
  quarantined : NMap Nat := []
  repair : Word := 0
  repairing : Option (Bool × Nat × Nat) := none
  journal : NMap Journal := []
  jnext : Nat := 1
  deriving DecidableEq, Repr, Inhabited

/-- A miss at a die's walker (R335): context, space, VPN, and the sources that wait for it: their bent and their number
there (`srcStrand`, `srcWalk`, `srcEgress`). -/
structure Miss where
  ctx : Nat
  host : Bool
  vpn : Nat
  write : Bool
  sources : List (Nat × Nat)
  deriving DecidableEq, Repr, Inhabited

/-- A die: its walker (R335) and the girt epoch and packets in flight (R290, R292). -/
structure Die where
  walks : List Miss := []
  queue : List Miss := []
  retry : List Miss := []
  epoch : Nat := 0
  deriving DecidableEq, Repr, Inhabited

/-- A request or response of a channel on the girt network (R293). -/
structure Packet where
  lid : Nat
  bent : Nat
  slot : Nat
  opId : Nat
  target : Nat
  off : Nat
  write : Bool
  data : List Byte
  poison : Bool
  response : Bool := false
  deriving DecidableEq, Repr, Inhabited

/-- A link (R376). -/
structure Link where
  half : Bool := false
  failed : Bool := false
  replays : Nat := 0
  deriving DecidableEq, Repr, Inhabited

/-- The device window (R380 to R388, R398). -/
structure Device where
  inReset : Bool := false
  fabidValid : Bool := false
  fabid : BitVec 16 := 0
  fwImage : NMap (List Byte) := []
  fwVersion : NMap Nat := []
  fwMin : NMap Nat := []
  nonces : List (List Byte) := []
  forming : Option (List Byte) := none
  report : List Byte := []
  lastNonce : List Byte := []
  keySlots : NMap (List Byte) := []
  /-- R339: the key under which a 64 KiB page of HBM is stored -/
  pageKeys : NMap (List Byte) := []
  keycmd : Word := 0
  keyBusy : Option (Bool × Nat × Nat) := none
  debug : Bool := false
  pwrcap : Nat := 2100
  watts : Nat := 0
  mv : Nat := 450
  tj : Nat := 0
  gate : Nat := 0
  /-- R375: the spare that a `REPAIR` maps onto a bent -/
  spares : NMap Nat := []
  deriving DecidableEq, Repr, Inhabited

/-- The agent for which `exec` runs a sequencer instruction or an op-word. -/
inductive Cur where
  | none
  | strand (b k : Nat)
  | routine (b t r : Nat)
  deriving DecidableEq, Repr, Inhabited

/-- Who acts next: a strand issues, a routine issues, an engine consumes its input, or a step of a unit, link or the
host takes place. -/
inductive Act where
  | strand (b k : Nat)
  | routine (b t r : Nat)
  | engine (b e : Nat)
  | device (i : Instr)
  deriving DecidableEq, Repr, Inhabited

/-- A turn: the nanoseconds that pass before it, and the act. -/
structure Turn where
  dt : Nat := 0
  act : Act
  deriving DecidableEq, Repr, Inhabited

/-- A completion of a message out of the device on Psiris-P (R360, R391): to a rank, the message or an abort. -/
inductive PeerMsg where
  | msg (collid devid : Nat) (m : ScarfMsg)
  /-- R360, R362: an abort to a device, with the sender's rank, and the STEP and RANK of the end -/
  | abort (collid gen devid sender step rank : Nat) (bySwitch : Bool)
  /-- R376: a routing cost advertised to the neighbours of a link -/
  | cost (link cost : Nat)
  deriving DecidableEq, Repr, Inhabited

/-- The whole machine. -/
structure State where
  agenda : List Turn := []
  cur : Cur := .none
  auto : Nat := 0
  dtime : Nat := 0
  nonce : Nat := 0
  mem : List Host.Cell := []
  poison : List Nat := []
  pageOwner : NMap Nat := []
  scrubQueue : List (Nat × Nat) := []
  bents : NMap Bent := []
  launches : NMap Launch := []
  /-- the 64 contexts of the device (R6, R12, R338) -/
  ctxs : NMap Ctx := []
  parts : NMap Part := []
  dies : NMap Die := []
  links : NMap Link := []
  packets : List Packet := []
  device : Device := {}
  toHost : List HostMsg := []
  toPeers : List PeerMsg := []
  deriving DecidableEq, Repr, Inhabited

/-- The reasons a step stops with a fault. -/
inductive Fault where
  /-- raised by `exec` of a sequencer instruction or an op-word when `cur` names no strand or routine that
  exists: the manual gives such an instruction no agent to act for. Safe: the machine never issues so. -/
  | noAgent
  deriving DecidableEq, Repr, Inhabited

/-- The reasons a step is refused. -/
inductive Refusal where
  /-- an instruction without a meaning in this model, by its mnemonic; raised by `exec`'s arm. Safe. -/
  | notModelled (mnemonic : String)
  deriving DecidableEq, Repr, Inhabited

/-- The answer of a meaning. -/
abbrev Out := Host.Outcome State Fault Refusal

/-- The machine right after reset (R387 step 6): no launch placed, memory with nothing listed, every partition and
device register at its reset value. -/
def State.reset : State := {}

end Sys2Proof.Machine
end

