-- ==== Sys2Proof/Machine/Memory.lean ====
section
/-! DEFINITION. Memory: ONE canonical list of bytes keyed by storage address, its reads and writes, poison marks
(R366), granule shadow words (R142), and what a write of a launch records for rollback (R368) and for the order of
a deterministic launch (R286). Only `Memory.put` builds a memory. -/

namespace Sys2Proof.Machine

/-! ### The list of bytes -/

/-- A byte nothing has written reads as 0 (log entry 3). -/
def Memory.get : List Host.Cell → Nat → Byte
  | [], _ => 0
  | (k, v) :: m, a => if k = a then v else Memory.get m a

/-- A byte written: an address that reads as 0 is not listed. -/
def Memory.put : List Host.Cell → Nat → Byte → List Host.Cell
  | [], a, v => if v = 0 then [] else [(a, v)]
  | (k, w) :: m, a, v =>
    if a < k then (if v = 0 then (k, w) :: m else (a, v) :: (k, w) :: m)
    else if a = k then (if v = 0 then m else (k, v) :: m)
    else (k, w) :: Memory.put m a v

/-- Every address listed lies above a bound, rising, and no listed byte is 0. -/
def Memory.wfFrom : Nat → List Host.Cell → Bool
  | _, [] => true
  | lo, (k, v) :: m => decide (lo ≤ k) && v != 0 && Memory.wfFrom (k + 1) m

/-- The canonical form. -/
def Memory.wf (m : List Host.Cell) : Bool := Memory.wfFrom 0 m

/-- Bytes written at rising addresses from a first one. -/
def Memory.putBytes : List Host.Cell → Nat → List Byte → List Host.Cell
  | m, _, [] => m
  | m, a, v :: vs => Memory.putBytes (Memory.put m a v) (a + 1) vs

/-- Bytes read from rising addresses. -/
def Memory.getBytes (m : List Host.Cell) (a n : Nat) : List Byte := (List.range n).map (fun k => Memory.get m (a + k))

/-! ### Storage addresses -/

/-- One partition's HBM: 96 GiB (R276). -/
def partBytes : Nat := 96 * 2 ^ 30

/-- The storage address of a scratchpad offset of a bent (R275). -/
def spadAddr (b off : Nat) : Nat := 2 ^ 41 + b * 2 ^ 22 + off

/-- The storage address of a host physical address. -/
def hostAddr (pa : Nat) : Nat := 2 ^ 60 + pa

/-- The storage address of an offset in a backing that the command processor allocates for an HBM buffer of a launch
(R326): the first backing or the second. -/
def backAddr (lid bt : Nat) (second : Bool) (off : Nat) : Nat :=
  2 ^ 80 + ((lid * 256 + bt) * 2 + (if second then 1 else 0)) * 2 ^ 40 + off

/-- Whether a storage address is one of host memory. -/
def isHostLoc (a : Nat) : Bool := decide (2 ^ 60 ≤ a) && decide (a < 2 ^ 80)

/-- Where a storage address lies in a scratchpad: bent and offset. -/
def spadOf (a : Nat) : Option (Nat × Nat) :=
  if 2 ^ 41 ≤ a ∧ a < 2 ^ 41 + 192 * 2 ^ 22 then some ((a - 2 ^ 41) / 2 ^ 22, (a - 2 ^ 41) % 2 ^ 22) else none

/-- R365: the protection unit, 32 bytes in scratchpad and 64 elsewhere. -/
def unitSize (a : Nat) : Nat := if (spadOf a).isSome then 32 else 64

def unitBase (a : Nat) : Nat := a / unitSize a * unitSize a

/-- The protection units that n bytes from a touch. -/
def unitsOf (a n : Nat) : List Nat :=
  if n = 0 then []
  else
    let u := unitSize a
    (List.range ((a + n - 1) / u - a / u + 1)).map (fun k => (a / u + k) * u)

/-! ### Accessors -/

def State.bent (s : State) (b : Nat) : Bent := NMap.getD s.bents b {}
def State.setBent (s : State) (b : Nat) (B : Bent) : State := { s with bents := NMap.set s.bents b B }
def State.updBent (s : State) (b : Nat) (f : Bent → Bent) : State := s.setBent b (f (s.bent b))

def State.launch? (s : State) (lid : Nat) : Option Launch := NMap.get? s.launches lid
def State.launch (s : State) (lid : Nat) : Launch := NMap.getD s.launches lid {}
def State.setLaunch (s : State) (lid : Nat) (L : Launch) : State := { s with launches := NMap.set s.launches lid L }
def State.updLaunch (s : State) (lid : Nat) (f : Launch → Launch) : State :=
  match s.launch? lid with
  | some L => s.setLaunch lid (f L)
  | none => s

def State.part (s : State) (p : Nat) : Part := NMap.getD s.parts p {}
def State.setPart (s : State) (p : Nat) (P : Part) : State := { s with parts := NMap.set s.parts p P }
def State.updPart (s : State) (p : Nat) (f : Part → Part) : State := s.setPart p (f (s.part p))

def State.die (s : State) (d : Nat) : Die := NMap.getD s.dies d {}
def State.setDie (s : State) (d : Nat) (D : Die) : State := { s with dies := NMap.set s.dies d D }

def State.strand? (s : State) (b k : Nat) : Option Strand := NMap.get? (s.bent b).strands k
def State.setStrand (s : State) (b k : Nat) (st : Strand) : State :=
  s.updBent b (fun B => { B with strands := NMap.set B.strands k st })
def State.dropStrand (s : State) (b k : Nat) : State :=
  s.updBent b (fun B => { B with strands := NMap.erase B.strands k, freedAt := NMap.set B.freedAt k s.dtime })

def State.toHostMsg (s : State) (m : HostMsg) : State := { s with toHost := s.toHost ++ [m] }

/-! ### Poison marks (R366) -/

/-- A rising list of unit addresses with one more in it. -/
def insertSorted (a : Nat) (l : List Nat) : List Nat := l.filter (· < a) ++ a :: l.filter (a < ·)

def State.poisonedUnit (s : State) (u : Nat) : Bool := s.poison.contains u

/-- R141: whether a read of n bytes returns poisoned data. -/
def State.poisonedAt (s : State) (a n : Nat) : Bool := (unitsOf a n).any s.poisonedUnit

def setMark (p : List Nat) (u : Nat) (on : Bool) : List Nat := if on then insertSorted u p else p.filter (fun x => x != u)

/-- R366, R62: the marks after a write of n bytes: a write that covers a unit sets its mark from the data, another
only adds poison. -/
def marksAfter (p : List Nat) (a n : Nat) (pois : Bool) : List Nat :=
  (unitsOf a n).foldl (fun p u =>
    if a ≤ u ∧ u + unitSize u ≤ a + n then setMark p u pois else if pois then setMark p u true else p) p

/-! ### Who writes -/

/-- R285: the ordering key of a strand of a launch from its OWNER: the region index of the bent it began on, and slot. -/
def Launch.key (L : Launch) (bent slot : Nat) : Nat := (L.origin.findIdx (fun b => b == bent)) * 16 + slot

/-- R142: the shadow words of the granules written. -/
def Bent.shadowWrite (B : Bent) (off n : Nat) (w : Writer) : Bent :=
  { B with granules := (unitsOf (spadAddr 0 off) n).foldl (fun g u =>
      NMap.modify g ((u - spadAddr 0 0) / 32) {} (fun x =>
        { x with ph := w.phs, lws := BitVec.ofNat 4 w.strand, lwb := BitVec.ofNat 8 w.bent })) B.granules }

/-- R286: whether a byte of a write of a deterministic launch is applied: no write of its round with a greater key stands
there that does not happen before it. -/
def Launch.applies (L : Launch) (w : Writer) (a : Nat) : Bool :=
  if !L.det then true
  else
    (NMap.getD L.lastWrites a []).all (fun x =>
      !(x.round == w.round && decide (w.key < x.key) && !decide (x.time ≤ NMap.getD w.clock.own x.agent 0)))

/-- R368: the undo area of a bent holds 8 MiB. -/
def undoLimit : Nat := 8 * 2 ^ 20

/-- R368: records the old contents of a unit that a write touches, once in its round; a full area marks the round
unrecoverable. -/
def Launch.recordUnit (s : State) (w : Writer) (L : Launch) (u : Nat) : Launch :=
  if L.undo.any (fun e => e.base == u && e.round == w.round) then L
  else
    let used := (L.undo.filter (fun e => e.bent == w.bent)).foldl (fun t e => t + e.old.length) 0
    if undoLimit < used + unitSize u then { L with unrecoverable := L.unrecoverable ++ [w.round] }
    else { L with undo := ⟨w.round, w.bent, u, Memory.getBytes s.mem u (unitSize u), s.poisonedUnit u,
      (spadOf u).map (fun p => NMap.getD (s.bent p.1).granules (p.2 / 32) {})⟩ :: L.undo }

/-- R368: records what a write changes. Host memory is not restored (R370, R372). -/
def State.recordUndo (s : State) (w : Writer) (a n : Nat) : State :=
  match s.launch? w.lid with
  | none => s
  | some L =>
    if isHostLoc a then s else s.setLaunch w.lid ((unitsOf a n).foldl (Launch.recordUnit s w) L)

/-- The bytes of a write that R286 lets through, one at a time. -/
def applyBytes (L : Launch) (w : Writer) : List Host.Cell → Nat → List Byte → List Host.Cell
  | m, _, [] => m
  | m, a, v :: vs => applyBytes L w (if L.applies w a then Memory.put m a v else m) (a + 1) vs

/-- R286: the writes to a byte after a write: its round and agent once, with the time of the latest. -/
def noteWrite (w : Writer) (l : List Wrote) : List Wrote :=
  l.filter (fun x => !(x.round == w.round && x.agent == w.agent)) ++ [⟨w.round, w.key, w.agent, w.epoch⟩]

/-- R286: the writes to each byte after a write of n bytes. -/
def writesAfter (w : Writer) : NMap (List Wrote) → Nat → Nat → NMap (List Wrote)
  | m, _, 0 => m
  | m, a, n + 1 => writesAfter w (NMap.modify m a [] (noteWrite w)) (a + 1) n

/-- R366, R62, R286: the marks after a write of n bytes by an agent of a launch: only the bytes that are applied count. -/
def Launch.marksAfter (L : Launch) (w : Writer) (p : List Nat) (a n : Nat) (pois : Bool) : List Nat :=
  (unitsOf a n).foldl (fun p u =>
    let at_ (k : Nat) : Bool := decide (a ≤ u + k) && decide (u + k < a + n) && L.applies w (u + k)
    let hit := (List.range (unitSize u)).filter at_
    if hit.length = unitSize u then setMark p u pois else if pois && !hit.isEmpty then setMark p u true else p) p

/-- The byte of memory as a synchronising object. -/
def objMem (a : Nat) : Nat := 8 * a

/-- R281: the releases that stand at the bytes a write reaches are gone. -/
def Launch.overwrite (L : Launch) (w : Writer) (a n : Nat) : NMap (List Release) :=
  L.syncs.filter (fun e => !(e.1 % 8 == 0 && decide (a ≤ e.1 / 8) && decide (e.1 / 8 < a + n) && L.applies w (e.1 / 8)))

/-- A write of bytes by an agent of a launch: undo, the order of R286, the bytes, poison and shadow words. -/
def State.write (s : State) (w : Writer) (a : Nat) (bytes : List Byte) (pois : Bool) : State :=
  let s1 := s.recordUndo w a bytes.length
  let L := s1.launch w.lid
  let s2 := { s1 with mem := applyBytes L w s1.mem a bytes, poison := L.marksAfter w s1.poison a bytes.length pois }
  let s3 := if L.det then s2.setLaunch w.lid
    { L with lastWrites := writesAfter w L.lastWrites a bytes.length, syncs := L.overwrite w a bytes.length } else s2
  match spadOf a with
  | some (b, off) => s3.updBent b (fun B => B.shadowWrite off bytes.length w)
  | none => s3

/-- A write by the command processor, the host or another unit that belongs to no launch. -/
def State.poke (s : State) (a : Nat) (bytes : List Byte) : State :=
  { s with mem := Memory.putBytes s.mem a bytes, poison := marksAfter s.poison a bytes.length false }

/-- Bytes read, and whether the data is poisoned. -/
def State.read (s : State) (a n : Nat) : List Byte × Bool := (Memory.getBytes s.mem a n, s.poisonedAt a n)

/-- A little-endian number read from storage (R15). -/
def State.readNat (s : State) (a n : Nat) : Nat := leNat (Memory.getBytes s.mem a n)

/-- Whether an address lies in a range of n bytes. -/
def inRange (lo n a : Nat) : Bool := decide (lo ≤ a) && decide (a < lo + n)

/-- Every listed byte of a range removed: the range reads as 0. -/
def Memory.clear (m : List Host.Cell) (a n : Nat) : List Host.Cell := m.filter (fun c => !inRange a n c.1)

/-- A range zeroed, its poison marks with it. -/
def State.zero (s : State) (a n : Nat) : State :=
  { s with mem := Memory.clear s.mem a n, poison := s.poison.filter (fun u => !inRange a n u) }

end Sys2Proof.Machine
end

