-- ==== Sys2Proof/Machine/Ops.lean ====
section
/-! DEFINITION. The shared operations of a strand: its registers, what an instruction waits for before it issues,
launch faults, TAKING A TRAP and returning from one (R22, R58 to R60, R194, R195), events (R268), the happens-before
clocks of a deterministic launch (R281, R286) and the journal (R379). -/

namespace Sys2Proof.Machine

/-! ### Registers (R61, R62) -/

def Strand.rx (st : Strand) (r : XReg) : Word := if r = 0 then 0 else st.x[r.toNat]'r.isLt
def Strand.rf (st : Strand) (r : FReg) : FVal := st.f[r.toNat]'r.isLt
def Strand.rc (st : Strand) (r : CReg) : Bool := if r = 0 then true else st.c[r.toNat]'r.isLt

def Strand.poisonX (st : Strand) (r : XReg) : Bool := if r = 0 then false else st.px[r.toNat]'r.isLt
def Strand.poisonF (st : Strand) (r : FReg) : Bool := st.pf[r.toNat]'r.isLt

/-- A write with its poison flag; a write to x0 is discarded. -/
def Strand.wxp (st : Strand) (r : XReg) (v : Word) (p : Bool) : Strand :=
  if r = 0 then st else { st with x := st.x.set r.toNat v r.isLt, px := st.px.set r.toNat p r.isLt }

/-- A write without poison, which clears the register's flag. -/
def Strand.wx (st : Strand) (r : XReg) (v : Word) : Strand := st.wxp r v false

def Strand.wfp (st : Strand) (r : FReg) (v : FVal) (p : Bool) : Strand :=
  { st with f := st.f.set r.toNat v r.isLt, pf := st.pf.set r.toNat p r.isLt }

def Strand.wf (st : Strand) (r : FReg) (v : FVal) : Strand := st.wfp r v false

/-- A write to c0 is discarded. -/
def Strand.wc (st : Strand) (r : CReg) (v : Bool) : Strand :=
  if r = 0 then st else { st with c := st.c.set r.toNat v r.isLt }

/-- The next instruction of the strand lies at `pc`; a check suppressed for one execution (R59) is over. -/
def Strand.goto (st : Strand) (pc : Word) : Strand := { st with pc := pc, suppress := false }

/-- The next instruction follows this one. -/
def Strand.next (st : Strand) : Strand := st.goto (st.pc + 4)

def Strand.inHandler (st : Strand) : Bool := st.saved.isSome

/-! ### Launch faults and rollback triggers (R331, R348, R369) -/

/-- R348: a launch fault of codes 0x05 to 0x0C: the first one is recorded and the region enters drain. -/
def State.launchFault (s : State) (lid code : Nat) (cause : BitVec 16) (pc : Word) (who : Nat) : State :=
  match s.launch? lid with
  | none => s
  | some L =>
    if L.fault ≠ 0 ∨ L.phase = .ended then s
    else s.setLaunch lid { L with
      fault := code, trapCause := cause, fpc := pc, fwho := who, tfault := s.dtime, phase := .draining }

/-- R369: a rollback of the region starts; a drain wins (R372), and a trigger during a rollback joins it. -/
def State.startRollback (s : State) (lid : Nat) : State :=
  match s.launch? lid with
  | none => s
  | some L =>
    if L.phase = .draining ∨ L.phase = .closing ∨ L.phase = .ended then s else s.setLaunch lid { L with phase := .rolling }

/-! ### Traps -/

def who (b k : Nat) : Nat := b * 16 + k

/-- The registers and state that a trap entry saves (R194). -/
def Strand.frame (st : Strand) (cause : BitVec 16) (tenon : Option (Nat × Nat)) : TrapFrame :=
  { x := st.x, f := st.f, c := st.c, px := st.px, pf := st.pf, loops := st.loops, fpmode := st.fpmode, pc := st.pc
    ret := st.state
    tenon := tenon, significance := cause == 0x0021, suppress := st.suppress, cause := cause }

/-- Load entries issued before a trap entry return into the saved registers too (log entry 13). -/
def markPre (ops : List MemOp) : List MemOp := ops.map (fun o => { o with preTrap := true })

/-- The report registers of R57, written by a significance trap. -/
def Strand.report (st : Strand) (log : List Word) : Strand :=
  match log with
  | [a, b, c, d] => { st with siglog := #v[a, b, c, d] }
  | _ => st

/-- R194: trap entry: TRAPCAUSE and TRAPPC set, the registers saved, the strand at TRAPVEC. -/
def Strand.enter (st : Strand) (cause : BitVec 16) (tenon : Option (Nat × Nat)) (log : List Word) : Strand :=
  { st.report log with
    saved := some (st.frame cause tenon), trapcause := cause, trappc := st.pc, pc := st.trapvec, suppress := false
    transBad := none, state := .ready, ops := markPre st.ops }

/-- TAKING A TRAP: entry by R194; with TRAPVEC 0, or inside a handler, the strand ends with a launch fault and the
region enters drain (R65, R194); consumed poison starts a rollback and enters no handler (R369). -/
def State.takeTrap (s : State) (b k : Nat) (st : Strand) (cause : BitVec 16) (tenon : Option (Nat × Nat))
    (log : List Word) : State :=
  if cause = 0x0031 then
    (s.setStrand b k { st with trapcause := cause, trappc := st.pc }).startRollback st.lid
  else if st.trapvec = 0 ∨ st.inHandler = true then
    (s.dropStrand b k).launchFault st.lid 0x05 cause st.pc (who b k)
  else s.setStrand b k (st.enter cause tenon log)

/-- A precise trap of the instruction at issue (R22). -/
def State.trap (s : State) (b k : Nat) (st : Strand) (cause : BitVec 16) : State := s.takeTrap b k st cause none []

/-- R58: the state a strand is in after `rft`: the one it left for the trap, or ready when its handler moved
`TRAPPC`. -/
def Strand.after (st : Strand) (fr : TrapFrame) : SlotState :=
  match fr.ret with
  | .retiring a => .retiring a
  | q => if st.trappc = fr.pc then q else .ready

/-- A read parked for an `ldfe` that the handler stepped past returns as any load does. -/
def Strand.unpark (st : Strand) (fr : TrapFrame) : List MemOp :=
  match fr.ret with
  | .waiting (.deferred id) =>
    if st.trappc = fr.pc then st.ops else st.ops.map (fun o => if o.id = id then { o with kind := .load } else o)
  | _ => st.ops

/-- The registers that `rft` restores (R195). -/
def Strand.restore (st : Strand) (fr : TrapFrame) : Strand :=
  { st with
    x := fr.x, f := fr.f, c := fr.c, px := fr.px, pf := fr.pf, loops := fr.loops, fpmode := fr.fpmode
    state := st.after fr, ops := st.unpark fr, saved := none, pc := st.trappc
    suppress := (fr.significance && fr.tenon.isNone) || (fr.suppress && st.trappc == fr.pc) }

/-- The operand codes of l0 and l1 (R68). -/
def codeL0 : Nat := 72
def codeL1 : Nat := 73

/-- A result that comes late, written to its destination and to the places that its entry holds in the last-result file
(R69). -/
def Tenon.late (T : Tenon) (dst : Nat) (l0 l1 : Bool) (x : VReg) : Tenon :=
  let v0 := if dst = codeL0 ∨ dst = codeL1 then T.v else NMap.set T.v dst x
  let v1 := if l0 then NMap.set v0 codeL0 x else v0
  { T with v := if l1 then NMap.set v1 codeL1 x else v1 }

/-- R69, R70: whether a partial keeps a register empty; at l0 and l1 it is the entry of the last-result file that counts. -/
def Partial.holds (x : Partial) (dst d : Nat) : Bool :=
  x.held && (if d = codeL0 then x.l0 else if d = codeL1 then x.l1 else dst == d)

def Pending.holds (p : Pending) (d : Nat) : Bool := (p.waiting ++ p.taken).any (fun x => x.holds p.dst d)

/-- A register that a pending reduction keeps empty stays empty. -/
def Tenon.rehold (T : Tenon) (d : Nat) : Tenon :=
  if T.pendings.any (fun p => p.holds d) then
    { T with v := NMap.set T.v d { NMap.getD T.v d {} with full := false } }
  else T

/-- R69, R70, R212: the result of a reduction or scan written; what later partials keep empty stays so. -/
def Tenon.lateRed (T : Tenon) (dst : Nat) (l0 l1 : Bool) (x : VReg) : Tenon :=
  (((T.late dst l0 l1 x).rehold dst).rehold codeL0).rehold codeL1

/-- R58, R59, R226: the end of a tenon's freeze: a faulted routine is gone, a frozen one runs on, with its check
suppressed once when it froze for its significance (a suppression not yet used up stays, R59), and a result kept back is
written. -/
def Tenon.thaw (T : Tenon) (r : Nat) (significance : Bool) : Tenon :=
  match NMap.get? T.closes r with
  | some c => { T.lateRed c.dst c.l0 c.l1 c.reg with closes := NMap.erase T.closes r }
  | none =>
    match NMap.get? T.routines r with
    | none => T
    | some R =>
      if R.hold = .faulted then { T with routines := NMap.erase T.routines r }
      else { T with routines := NMap.set T.routines r { R with hold := .running, suppress := R.suppress || significance } }

def Bent.updTenon (B : Bent) (t : Nat) (f : Tenon → Tenon) : Bent :=
  { B with tenons := NMap.modify B.tenons t {} f }

/-- The bents of a launch. -/
def State.regionOf (s : State) (lid : Nat) : List Nat := (s.launch lid).region

/-- Where in its region the strand of an OWNER runs. -/
def State.findOwner (s : State) (lid ownerBent ownerSlot : Nat) : Option (Nat × Nat) :=
  (s.regionOf lid).findSome? (fun b =>
    ((s.bent b).strands.find? (fun e => e.2.lid == lid && e.2.ownerBent == ownerBent && e.2.ownerSlot == ownerSlot)).map
      (fun e => (b, e.1)))

def Cont.isOwner (c : Cont) (ob os : Nat) : Bool := c.st.ownerBent == ob && c.st.ownerSlot == os

/-- The strand of an OWNER, running or parked, changed. -/
def State.updOwner (s : State) (lid ob os : Nat) (f : Strand → Strand) : State :=
  match s.findOwner lid ob os with
  | some (b, k) =>
    match s.strand? b k with
    | some st => s.setStrand b k (f st)
    | none => s
  | none =>
    s.updLaunch lid (fun L =>
      { L with
        conts := L.conts.map (fun c => if c.isOwner ob os then { c with st := f c.st } else c)
        readyList := L.readyList.map (fun c => if c.isOwner ob os then { c with st := f c.st } else c) })

/-- Whether the strand of an OWNER is in a slot or parked. -/
def State.ownerLive (s : State) (lid ob os : Nat) : Bool :=
  (s.findOwner lid ob os).isSome || (s.launch lid).conts.any (fun c => c.isOwner ob os)
    || (s.launch lid).readyList.any (fun c => c.isOwner ob os)

/-- The parked continuations that a test names are ready from now on (R266, R267, R268). -/
def Launch.fire (L : Launch) (p : Cont → Bool) : Launch :=
  if L.conts.any (fun c => p c && !c.fired) then
    { L with
      conts := L.conts.map (fun c => if p c && !c.fired then { c with fired := true, firedAt := L.fireSeq } else c)
      fireSeq := L.fireSeq + 1 }
  else L

/-- R58, R228: a trap raised for the strand of an OWNER, which makes a parked one ready (R266); for one that is done or outside
the region it becomes a launch fault. -/
def State.raiseTrap (s : State) (lid ob os : Nat) (p : PendTrap) : State :=
  if s.ownerLive lid ob os then
    { (s.updOwner lid ob os (fun st => { st with pend := st.pend ++ [{ p with stamp := s.nonce }] })).updLaunch lid
        (fun L => L.fire (fun c => c.isOwner ob os && !c.st.pend.isEmpty)) with nonce := s.nonce + 1 }
  else s.launchFault lid 0x06 p.cause 0 (who ob os)

/-- R60: the order of two pending traps: those of frozen tenons by tenon, then the others as raised. -/
def PendTrap.before (p q : PendTrap) : Bool :=
  match p.tenon, q.tenon with
  | some (t, _), some (u, _) => decide (t < u)
  | some _, none => true
  | none, some _ => false
  | none, none => decide (p.stamp < q.stamp)

/-- The pending trap a strand takes first (R60). -/
def Strand.firstPend (st : Strand) : Option PendTrap :=
  match st.pend with
  | [] => none
  | p :: ps => some (ps.foldl (fun m q => if q.before m then q else m) p)

/-! ### Before an instruction issues (R106, R107, R153) -/

/-- The registers an instruction reads and writes: x and f sources whose poison traps, x and f data whose poison
travels on (R62), and destinations. -/
structure Uses where
  rx : List XReg := []
  rf : List FReg := []
  dx : List XReg := []
  df : List FReg := []
  wx : List XReg := []
  wf : List FReg := []
  deriving DecidableEq, Repr, Inhabited

def MemKind.isAmo : MemKind → Bool
  | .amo _ _ => true
  | _ => false

/-- R138: the entries that hold loads, and those that hold stores. -/
def MemKind.isLoad : MemKind → Bool
  | .load | .ldt | .ldfe | .ldnb | .rld | .amo _ _ => true
  | .store | .stt | .rst | .stfe _ => false

/-- The entries whose pending data an instruction would have to wait for (R106, R138). -/
def Strand.blocking (st : Strand) (u : Uses) : List MemOp :=
  st.ops.filter (fun o =>
    match o.dest with
    | .none => false
    | .x d _ => d != 0 && (u.rx.contains d || u.dx.contains d || u.wx.contains d)
    | .f d => u.rf.contains d || u.df.contains d || u.wf.contains d)

def Strand.poisonedUse (st : Strand) (u : Uses) : Bool := u.rx.any st.poisonX || u.rf.any st.poisonF

/-- R153: an atomic of the strand's current round of a deterministic launch. -/
def Strand.roundAmo (st : Strand) (o : MemOp) : Bool := o.kind.isAmo && o.round == st.round

/-- Accesses whose order at their place is fixed only among themselves (R280). -/
def Path.kind : Path → Nat
  | .sill _ => 0
  | .channel _ | .image _ _ => 1
  | .host => 2
  | .at => 3
  | .request h => 4 + h

/-- The byte ranges of an operation: its data, and the tag byte of `ldt` and `stt`. -/
def MemOp.ranges (o : MemOp) : List (Nat × Nat) :=
  match o.kind with
  | .ldt | .stt => [(o.loc, o.size), (o.tagLoc, 1)]
  | .stfe false => [(o.loc / 32 * 32, 32)]
  | _ => [(o.loc, o.size)]

def overlaps (a b : Nat × Nat) : Bool := decide (a.1 < b.1 + b.2) && decide (b.1 < a.1 + a.2)

def MemOp.touches (o : MemOp) (r : Nat × Nat) : Bool := o.ranges.any (overlaps r)

/-- Whether an operation has been performed, but for its token or its register. -/
def MemOp.done (o : MemOp) : Bool := o.got.isSome

/-- R144, R153: the strand's operations that end only at round close: its atomics of the current round, and what it must perform
after one of them at the same place. -/
def Strand.stuckOps (st : Strand) : List MemOp :=
  st.ops.foldl (fun l o =>
    if st.roundAmo o || (!o.done && l.any (fun a => a.path.kind == o.path.kind && o.ranges.any a.touches)) then l ++ [o] else l) []

def Strand.stuck (st : Strand) (o : MemOp) : Bool := st.stuckOps.any (fun a => a.id == o.id)

/-- Whether a strand may issue: it is ready and its launch runs (gates of R344, R349 and R370 are open). -/
def State.open? (s : State) (st : Strand) : Bool :=
  st.state == .ready && (match s.launch? st.lid with | some L => L.phase == .running | none => false)

/-- What becomes of an instruction before its own effect. -/
inductive Ready where
  | noAgent
  | stop (t : State)
  | go (b k : Nat) (st : Strand)
  deriving DecidableEq, Repr, Inhabited

/-- R106, R107, R138, R153: the current strand issues, stays ready while an operand is pending, or traps. A poisoned source
traps before the instruction's own checks (DESIGN CHOICE, log entry 47: the manual gives no order of 0x0031 and 0x0001). -/
def State.ready (s : State) (u : Uses) : Ready :=
  match s.cur with
  | .strand b k =>
    match s.strand? b k with
    | none => .noAgent
    | some st =>
      if s.open? st = false then .stop s
      else if (st.blocking u).isEmpty = false then
        (if (s.launch st.lid).det && (st.blocking u).any st.stuck then .stop (s.trap b k st 0x0001) else .stop s)
      else if st.poisonedUse u then .stop (s.trap b k st 0x0031)
      else .go b k st
  | _ => .noAgent

/-- An instruction's effect once it issues. -/
def State.issue (s : State) (u : Uses) (body : Nat → Nat → Strand → Out) : Out :=
  match s.ready u with
  | .noAgent => .fault .noAgent
  | .stop t => .next t
  | .go b k st => body b k st

/-- An instruction that only changes its own strand. -/
def State.local (s : State) (u : Uses) (f : Strand → Strand) : Out :=
  s.issue u (fun b k st => .next (s.setStrand b k (f st)))

/-! ### Happens-before in a deterministic launch (R16, R139, R281, R286) -/

/-- The later of two times for each agent. -/
def joinTimes (a b : NMap Nat) : NMap Nat :=
  b.foldl (fun m p => NMap.modify m p.1 0 (fun x => Nat.max x p.2)) a

def Clock.join (a b : Clock) : Clock := ⟨joinTimes a.wide b.wide, joinTimes a.near b.near, joinTimes a.own b.own⟩

/-- An agent's own acts up to a time. -/
def Clock.at (agent time : Nat) : Clock := ⟨[(agent, time)], [(agent, time)], [(agent, time)]⟩

/-- The agents beside strands: a walk or a collective by the place of its command in issue order, and the engines' work for a
strand by what it leads to: 0, one more than twice a queue whose outputs it is, two more than twice a buffer whose shadow it
writes. -/
def ownAgent (ord key : Nat) : Nat := 2 ^ 16 * (2 * ord + 2) + key
def engAgent (code key : Nat) : Nat := 2 ^ 16 * (2 * code + 1) + key
def codeQueue (q : Nat) : Nat := 2 * q + 1
def codeShadow (bt : Nat) : Nat := 2 * bt + 2

/-- Synchronising objects as numbers: a byte of memory (`objMem`), the completed phases of a barrier group, its open phase,
the full state of a granule, a queue, a buffer, and its shadow. -/
def objBar (h group : Nat) : Nat := 8 * (h * 2 ^ 64 + group) + 1
def objBarOpen (h group : Nat) : Nat := 8 * (h * 2 ^ 64 + group) + 5
def objFull (loc : Nat) : Nat := 8 * (loc / 32) + 6
def objQueue (q : Nat) : Nat := 8 * q + 3
def objBuf (bt : Nat) : Nat := 8 * bt + 4
def objShadow (bt : Nat) : Nat := 8 * bt + 7

def Launch.clock (L : Launch) (agent : Nat) : Clock := NMap.getD L.clocks agent (Clock.at agent 1)
def Launch.time (L : Launch) (agent : Nat) : Nat := NMap.getD (L.clock agent).own agent 1

/-- R16: whether a scope of one agent covers another: the same strand, a strand of its bent, or any of its region. -/
def Scope.covers (sc : Scope) (same sameBent : Bool) : Bool :=
  match sc with
  | .strand => same
  | .bent => sameBent
  | .region | .device | .system => true

/-- R139, R281: whether a release synchronises with an acquire of a scope by an agent: each lies within the other's scope. -/
def Release.reaches (r : Release) (sc : Scope) (key bent : Nat) : Bool :=
  Scope.covers r.scope (r.key == key) (r.bent == bent) && Scope.covers sc (r.key == key) (r.bent == bent)

/-- R394: the narrower of two scopes. -/
def Scope.meet (a b : Scope) : Scope :=
  match a, b with
  | .strand, _ | _, .strand => .strand
  | .bent, _ | _, .bent => .bent
  | x, _ => x

/-- R139, R394: what an agent learns from a release that it observes: of what the releaser knows that which counts towards it, and
beyond it only as far as the scope of the link. -/
def Release.learnt (r : Release) (sc : Scope) (key bent : Nat) : Clock :=
  let near := if r.bent = bent then r.clock.near else r.clock.wide
  let own := if r.key = key then r.clock.own else near
  if r.reaches sc key bent then
    match Scope.meet r.scope sc with
    | .strand => { own := own }
    | .bent => { near := near, own := own }
    | .region | .device | .system => { wide := r.clock.wide, near := near, own := own }
  else {}

/-- What an acquire of a scope learns from the releases at some objects. -/
def Launch.observed (L : Launch) (sc : Scope) (key bent : Nat) (objs : List Nat) : Clock :=
  (objs.flatMap (fun o => NMap.getD L.syncs o [])).foldl (fun c r => c.join (r.learnt sc key bent)) {}

/-- A strand of a deterministic launch has observed releases. -/
def Launch.acquire (L : Launch) (key : Nat) (seen : Clock) : Launch :=
  if !L.det then L else { L with clocks := NMap.set L.clocks key ((L.clock key).join seen) }

/-- A release and those of its agent and scope that stood before it. -/
def Release.after (r : Release) (l : List Release) : List Release :=
  let mine (q : Release) : Bool := q.key == r.key && q.bent == r.bent && q.scope == r.scope
  l.filter (fun q => !mine q) ++ [{ r with clock := (l.filter mine).foldl (fun c q => c.join q.clock) r.clock }]

/-- A release reaches objects; the releases that stood there stay where `keep` holds. -/
def Launch.leave (L : Launch) (r : Release) (keep : Bool) (objs : List Nat) : Launch :=
  if !L.det then L
  else { L with syncs := objs.foldl (fun m o => NMap.modify m o [] (fun l => if keep then r.after l else [r])) L.syncs }

/-- What an agent does from here on is no part of what it has released, or of what a command it has issued follows. -/
def Launch.tick (L : Launch) (agent : Nat) : Launch :=
  if !L.det then L else { L with clocks := NMap.set L.clocks agent ((L.clock agent).join (Clock.at agent (L.time agent + 1))) }

/-- A release of a scope by the strand of a bent at an object. -/
def State.release (s : State) (b : Nat) (st : Strand) (sc : Scope) (obj : Nat) : State :=
  s.updLaunch st.lid (fun L =>
    let key := L.key st.ownerBent st.ownerSlot
    (L.leave ⟨key, b, sc, L.clock key, st.round⟩ true [obj]).tick key)

/-- An acquire of a scope by the strand of a bent from objects. -/
def State.acquire (s : State) (b : Nat) (st : Strand) (sc : Scope) (objs : List Nat) : State :=
  s.updLaunch st.lid (fun L =>
    let key := L.key st.ownerBent st.ownerSlot
    L.acquire key (L.observed sc key b objs))

def State.tick (s : State) (lid key : Nat) : State := s.updLaunch lid (fun L => L.tick key)

/-- A release of a writer at objects. -/
def State.leave (s : State) (w : Writer) (sc : Scope) (keep : Bool) (objs : List Nat) : State :=
  s.updLaunch w.lid (fun L => L.leave ⟨w.key, w.bent, sc, w.clock, w.round⟩ keep objs)

/-- The bytes from a place, as objects. -/
def objBytes (loc n : Nat) : List Nat := (List.range n).map (fun k => objMem (loc + k))

/-- R139, R286: a write that is a release: it stands at the bytes that are applied. -/
def State.writeRel (s : State) (w : Writer) (sc : Scope) (loc : Nat) (bytes : List Byte) (pois : Bool) : State :=
  let L := s.launch w.lid
  (s.write w loc bytes pois).leave w sc false (((List.range bytes.length).filter (fun k => L.applies w (loc + k))).map
    (fun k => objMem (loc + k)))

/-- The writer a strand is (R142, R285). -/
def State.writer (s : State) (b k : Nat) (st : Strand) : Writer :=
  let L := s.launch st.lid
  let key := L.key st.ownerBent st.ownerSlot
  { lid := st.lid, bent := b, strand := k, phs := st.phs, round := st.round, key := key, agent := key, epoch := L.time key
    clock := L.clock key }

/-- R142: PHS of the strand of an OWNER, running or parked; 0 for a strand that is done (DESIGN CHOICE, log entry 47). -/
def State.ownerPhs (s : State) (lid ob os : Nat) : BitVec 8 :=
  match s.findOwner lid ob os with
  | some (b, k) => (match s.strand? b k with | some st => st.phs | none => 0)
  | none =>
    let L := s.launch lid
    match (L.conts ++ L.readyList).find? (fun c => c.isOwner ob os) with
    | some c => c.st.phs
    | none => 0

/-- R157, R281: the agent whose act a cell's write is: its strand, whose later releases wait for the cell, or engines' work. -/
def Side.agent (d : Side) (key : Nat) : Nat :=
  match d.src with
  | .strand => key
  | .walk _ | .engine _ | .gr | .cp =>
    engAgent (match d.iq, d.shadow with | some q, _ => codeQueue q | none, some bt => codeShadow bt | none, none => 0) key

/-- The writer that a cell's engine write records: the strand that issued it, by the cell's BENT and STRAND. -/
def State.cellWriter (s : State) (c : Cell) (d : Side) : Writer :=
  let L := s.launch d.lid
  let key := L.key d.ownerBent d.ownerSlot
  let a := d.agent key
  let w : Writer :=
    { lid := d.lid, bent := c.bent.toNat, strand := c.strand.toNat, phs := s.ownerPhs d.lid d.ownerBent d.ownerSlot
      round := c.round, key := key, agent := a, epoch := d.epoch, clock := d.clock }
  if d.src = .strand then w else { w with epoch := L.time a, clock := d.clock.join (L.clock a) }

/-- R160, R182, R302: a cell's write performed: who sees its queue at rest, or publishes its shadow, comes after it. -/
def State.wrote (s : State) (c : Cell) (d : Side) : State :=
  let w := s.cellWriter c d
  match (match d.iq, d.shadow with | some q, _ => some (objQueue q) | none, some bt => some (objShadow bt) | none, none => none) with
  | some o => (s.leave w .region true [o]).tick d.lid w.agent
  | none => s

/-! ### Events (R268, R269) -/

/-- An entry posted to a queue of 8; a ninth replaces the oldest and sets OVF in the next entry read. -/
def pushEvent (q : List EvEntry) (e : EvEntry) : List EvEntry :=
  if q.length < 8 then q ++ [e]
  else
    match q.drop 1 with
    | [] => [{ e with ovf := true }]
    | x :: xs => { x with ovf := true } :: xs ++ [e]

/-- R268: an event posted to the strand of an OWNER, running or parked. -/
def State.postEvent (s : State) (lid ob os : Nat) (e : EvEntry) : State :=
  match s.findOwner lid ob os with
  | some (b, k) =>
    match s.strand? b k with
    | some st => s.setStrand b k { st with evq := pushEvent st.evq e }
    | none => s
  | none =>
    s.updLaunch lid (fun L =>
      { L with
        conts := L.conts.map (fun c => if c.isOwner ob os then { c with events := pushEvent c.events e } else c)
        readyList := L.readyList.map (fun c => if c.isOwner ob os then { c with events := pushEvent c.events e } else c) })

/-- R368: a change to a handle logged with its round, for rollback. -/
def Launch.logOp (L : Launch) (round : BitVec 16) (op : LogOp) : Launch := { L with opLog := L.opLog ++ [(round, op)] }

/-! ### The journal (R377 to R379) -/

/-- R379: a transition rewrites a command's record. -/
def State.journal (s : State) (p seq : Nat) (f : Journal → Journal) : State :=
  s.updPart p (fun P =>
    { P with journal := NMap.modify P.journal (seq % 65536) {} (fun j =>
        if j.seq = seq then { f j with tlast := s.dtime } else j) })

/-- The state of a command's record changed. -/
def State.journalState (s : State) (p seq state : Nat) : State := s.journal p seq (fun j => { j with state := state })

/-- A launch made progress (R348). -/
def State.progress (s : State) (lid : Nat) : State := s.updLaunch lid (fun L => { L with lastProgress := s.dtime })

end Sys2Proof.Machine
end

