-- ==== Sys2Proof/Machine/Flags.lean ====
section
/-! DEFINITION. Condition computations: integer and floating compares (R114, R127), rounding modes (R30), the
significance check of a sequencer instruction and its report (R55 to R57, R122). -/

namespace Sys2Proof.Machine

/-- The conditions of R114. -/
inductive Cond where
  | eq | ne | lt | ge | ltu | geu
  deriving DecidableEq, Repr, Inhabited

/-- R114: a compare of the full 64 bits. -/
def Cond.holds (c : Cond) (a b : Word) : Bool :=
  match c with
  | .eq => a == b
  | .ne => a != b
  | .lt => a.slt b
  | .ge => !a.slt b
  | .ltu => a.ult b
  | .geu => !a.ult b

/-- The floating conditions of R127 and R209. -/
inductive FCond where
  | eq | lt | le | ne
  deriving DecidableEq, Repr, Inhabited

/-- R127: a comparison with a NaN is false, but for .ne; −0 equals +0. -/
def FCond.holds (c : FCond) (a b : Ex) : Bool :=
  match c with
  | .eq => a.eqv b
  | .lt => a.lt b
  | .le => a.lt b || a.eqv b
  | .ne => !a.eqv b

/-- R30: the mode of FPMODE.RM; reserved codes and .dyn round by RNE. -/
def modeOfRM (rm : BitVec 3) : Mode :=
  match rm.toNat with
  | 1 => .rtz
  | 2 => .rup
  | 3 => .rdn
  | 4 => .rna
  | _ => .rne

/-- R30: the mode an instruction rounds in. -/
def Strand.mode (st : Strand) (r : Rnd) : Mode :=
  match r with
  | .rne => .rne
  | .rtz => .rtz
  | .rup => .rup
  | .rdn => .rdn
  | .rna => .rna
  | .dyn => modeOfRM st.fpmode

/-- R122: whether a result of a sequencer instruction fails the significance check. -/
def Strand.sigFails (st : Strand) (res : Ex) (cnt : Nat) : Bool :=
  bit st.sigen 0 && !st.inHandler && !st.suppress && decide (cnt < st.sigth.toNat)
    && !(bit st.sigen 2 && !res.isFinite)

/-- R57: the four report registers. `opc` is the instruction bits [31:25] or the op-word bits [31:24]. -/
def sigReport (agent lane opc entry offset : Nat) (a b c : Option FVal) (res : FVal) (th : Nat) : List Word :=
  let v (o : Option FVal) : Nat := match o with | some x => x.v.toNat | none => 0
  let n (o : Option FVal) : Nat := match o with | some x => x.c.toNat | none => 0
  [BitVec.ofNat 64 (agent * 2 ^ 47 + lane * 2 ^ 41 + opc * 2 ^ 33 + entry * 2 ^ 16 + offset),
   BitVec.ofNat 64 (v a * 2 ^ 32 + v b),
   BitVec.ofNat 64 (v c * 2 ^ 32 + res.v.toNat),
   BitVec.ofNat 64 (th * 2 ^ 32 + res.c.toNat * 2 ^ 24 + n c * 2 ^ 16 + n b * 2 ^ 8 + n a)]

/-- R123: a checked result written to F[D], or the significance trap with its report and no write. -/
def State.sigWrite (s : State) (b k : Nat) (st : Strand) (opc : Nat) (d : FReg) (a x c : Option FVal) (res : FVal) : Out :=
  if st.sigFails res.ex res.c.toNat then
    .next (s.takeTrap b k st 0x0021 none (sigReport 0 0 opc 0 0 a x c res st.sigth.toNat))
  else .next (s.setStrand b k (st.wf d res).next)

/-- R115, R125, R207: the smaller count of two operands equal in value. -/
def selectCount (a b chosen : FVal) : BitVec 5 :=
  if a.ex.eqv b.ex then (if a.c.toNat ≤ b.c.toNat then a.c else b.c) else chosen.c

/-- R125: whether a lies below b, with −0 below +0. -/
def ltSigned (a b : Ex) : Bool := a.lt b || (a.eqv b && a.neg? && !b.neg?)

/-- R125, R207: minimum or maximum with its count. -/
def fminmax (isMax : Bool) (a b : FVal) : FVal :=
  if a.ex.isNan || b.ex.isNan then ⟨0x7FC00000, 0⟩
  else
    let pick := if isMax then (if ltSigned a.ex b.ex then b else a) else (if ltSigned b.ex a.ex then b else a)
    ⟨pick.v, selectCount a b pick⟩

/-- R128: the class mask of a value. -/
def fclassMask (x : FVal) : Nat :=
  let v := x.v.toNat
  let neg := decide (2 ^ 31 ≤ v)
  let e := v / 2 ^ 23 % 256
  let fr := v % 2 ^ 23
  let b : Nat :=
    if e = 255 then (if fr ≠ 0 then 8 else if neg then 0 else 7)
    else if e = 0 then (if fr = 0 then (if neg then 3 else 4) else if neg then 2 else 5)
    else if neg then 1 else 6
  2 ^ b + (if e = 255 ∨ x.c.toNat < 24 then 2 ^ 9 else 0)

end Sys2Proof.Machine
end

