-- ==== Sys2Proof/Machine/Scalar.lean ====
section
/-! DEFINITION. Integer instructions: the register group, immediates, bit fields, compares, selects and
work-identifier fields (R107 to R116, R186, R261). -/

namespace Sys2Proof.Machine

/-- Width in bits (R83). -/
def tyWidth : ITy → Nat
  | .b | .bu => 8
  | .h | .hu => 16
  | .w | .wu => 32
  | .d => 64

/-- Access size in bytes. -/
def tySize (t : ITy) : Nat := tyWidth t / 8

/-- R83: .b .h .w .d are signed. -/
def tySigned : ITy → Bool
  | .b | .h | .w | .d => true
  | .bu | .hu | .wu => false

/-- The low w bits of a value as a number. -/
def lowBits (w : Nat) (x : Word) : Nat := x.toNat % 2 ^ w

/-- A w-bit pattern read as two's complement. -/
def signedOf (w : Nat) (n : Nat) : Int := if n % 2 ^ w < 2 ^ (w - 1) then (n % 2 ^ w : Nat) else ((n % 2 ^ w : Nat) : Int) - 2 ^ w

/-- R108: an operand at type T. -/
def operand (t : ITy) (x : Word) : Int :=
  if tySigned t then signedOf (tyWidth t) x.toNat else (lowBits (tyWidth t) x : Int)

/-- R108: Ext(result, w) of a result modulo 2^w. -/
def extend (t : ITy) (v : Int) : Word :=
  let n := (v % (2 ^ tyWidth t : Int)).toNat
  if tySigned t then BitVec.ofInt 64 (signedOf (tyWidth t) n) else BitVec.ofNat 64 n

/-- R22: Sext of the low w bits. -/
def sextW (w : Nat) (x : Nat) : Word := BitVec.ofInt 64 (signedOf w x)

/-- An instruction of the register group with two sources. -/
def State.intOp (s : State) (d a b : XReg) (f : Word → Word → Word) : Out :=
  s.local { rx := [a, b], wx := [d] } (fun st => (st.wx d (f (st.rx a) (st.rx b))).next)

/-- An instruction with one source. -/
def State.intOp1 (s : State) (d a : XReg) (f : Word → Word) : Out :=
  s.local { rx := [a], wx := [d] } (fun st => (st.wx d (f (st.rx a))).next)

/-! ### R108: results -/

def addT (t : ITy) (a b : Word) : Word := extend t (operand t a + operand t b)
def subT (t : ITy) (a b : Word) : Word := extend t (operand t a - operand t b)
def mulT (t : ITy) (a b : Word) : Word := extend t (operand t a * operand t b)
def mulhT (t : ITy) (a b : Word) : Word := extend t (operand t a * operand t b / (2 ^ tyWidth t : Int))

/-- R109: quotient and remainder, truncated towards zero, with the fixed results of a zero divisor and of signed
overflow. -/
def divT (t : ITy) (a b : Word) : Word :=
  let x := operand t a
  let y := operand t b
  if y = 0 then extend t (2 ^ tyWidth t - 1 : Int)
  else if tySigned t ∧ x = -(2 ^ (tyWidth t - 1) : Int) ∧ y = -1 then extend t x
  else extend t (x.tdiv y)
def remT (t : ITy) (a b : Word) : Word :=
  let x := operand t a
  let y := operand t b
  if y = 0 then extend t x
  else if tySigned t ∧ x = -(2 ^ (tyWidth t - 1) : Int) ∧ y = -1 then extend t 0
  else extend t (x - x.tdiv y * y)

def andT (t : ITy) (a b : Word) : Word := extend t (lowBits (tyWidth t) (a &&& b))
def orT (t : ITy) (a b : Word) : Word := extend t (lowBits (tyWidth t) (a ||| b))
def xorT (t : ITy) (a b : Word) : Word := extend t (lowBits (tyWidth t) (a ^^^ b))

/-- R108: the shift amount, X[B] mod w. -/
def shiftAmount (t : ITy) (b : Word) : Nat := b.toNat % tyWidth t
def sllT (t : ITy) (a b : Word) : Word := extend t ((lowBits (tyWidth t) a * 2 ^ shiftAmount t b : Nat) : Int)
def srlT (t : ITy) (a b : Word) : Word := extend t ((lowBits (tyWidth t) a / 2 ^ shiftAmount t b : Nat) : Int)
/-- `sra` fills with bit w − 1 of a, whatever T. -/
def sraT (t : ITy) (a b : Word) : Word :=
  extend t (signedOf (tyWidth t) a.toNat / (2 ^ shiftAmount t b : Int))
def minT (t : ITy) (a b : Word) : Word := extend t (if operand t b < operand t a then operand t b else operand t a)
def maxT (t : ITy) (a b : Word) : Word := extend t (if operand t a < operand t b then operand t b else operand t a)

def clzT (t : ITy) (a : Word) : Word :=
  let n := lowBits (tyWidth t) a
  BitVec.ofNat 64 (if n = 0 then tyWidth t else tyWidth t - 1 - Nat.log2 n)
def ctzT (t : ITy) (a : Word) : Word :=
  let n := lowBits (tyWidth t) a
  BitVec.ofNat 64 (((List.range (tyWidth t)).find? (fun i => n / 2 ^ i % 2 == 1)).getD (tyWidth t))
def popcT (t : ITy) (a : Word) : Word :=
  let n := lowBits (tyWidth t) a
  BitVec.ofNat 64 ((List.range (tyWidth t)).foldl (fun c i => c + n / 2 ^ i % 2) 0)

def execAdd (d a b : XReg) (t : ITy) (s : State) : Out := s.intOp d a b (addT t)
def execSub (d a b : XReg) (t : ITy) (s : State) : Out := s.intOp d a b (subT t)
def execMul (d a b : XReg) (t : ITy) (s : State) : Out := s.intOp d a b (mulT t)
def execMulh (d a b : XReg) (t : ITy) (s : State) : Out := s.intOp d a b (mulhT t)
def execDiv (d a b : XReg) (t : ITy) (s : State) : Out := s.intOp d a b (divT t)
def execRem (d a b : XReg) (t : ITy) (s : State) : Out := s.intOp d a b (remT t)
def execAnd (d a b : XReg) (t : ITy) (s : State) : Out := s.intOp d a b (andT t)
def execOr (d a b : XReg) (t : ITy) (s : State) : Out := s.intOp d a b (orT t)
def execXor (d a b : XReg) (t : ITy) (s : State) : Out := s.intOp d a b (xorT t)
def execSll (d a b : XReg) (t : ITy) (s : State) : Out := s.intOp d a b (sllT t)
def execSrl (d a b : XReg) (t : ITy) (s : State) : Out := s.intOp d a b (srlT t)
def execSra (d a b : XReg) (t : ITy) (s : State) : Out := s.intOp d a b (sraT t)
def execMin (d a b : XReg) (t : ITy) (s : State) : Out := s.intOp d a b (minT t)
def execMax (d a b : XReg) (t : ITy) (s : State) : Out := s.intOp d a b (maxT t)
def execClz (d a : XReg) (t : ITy) (s : State) : Out := s.intOp1 d a (clzT t)
def execCtz (d a : XReg) (t : ITy) (s : State) : Out := s.intOp1 d a (ctzT t)
def execPopc (d a : XReg) (t : ITy) (s : State) : Out := s.intOp1 d a (popcT t)
/-- R110. -/
def execSext (d a : XReg) (t : ITy) (s : State) : Out := s.intOp1 d a (fun x => sextW (tyWidth t) x.toNat)
def execZext (d a : XReg) (t : ITy) (s : State) : Out := s.intOp1 d a (fun x => BitVec.ofNat 64 (lowBits (tyWidth t) x))

/-! ### Immediates and bit fields (R111 to R113) -/

def execAddi (d a : XReg) (imm : BitVec 15) (s : State) : Out := s.intOp1 d a (fun x => x + imm.signExtend 64)
def execAndi (d a : XReg) (imm : BitVec 15) (s : State) : Out := s.intOp1 d a (fun x => x &&& imm.zeroExtend 64)
def execOri (d a : XReg) (imm : BitVec 15) (s : State) : Out := s.intOp1 d a (fun x => x ||| imm.zeroExtend 64)
def execXori (d a : XReg) (imm : BitVec 15) (s : State) : Out := s.intOp1 d a (fun x => x ^^^ imm.zeroExtend 64)
def execSlli (d a : XReg) (n : BitVec 6) (s : State) : Out := s.intOp1 d a (fun x => x <<< n.toNat)
def execSrli (d a : XReg) (n : BitVec 6) (s : State) : Out := s.intOp1 d a (fun x => x >>> n.toNat)
def execSrai (d a : XReg) (n : BitVec 6) (s : State) : Out := s.intOp1 d a (fun x => x.sshiftRight n.toNat)

/-- R112: `li.z`. -/
def liZValue (h : BitVec 2) (imm : BitVec 16) : Word := imm.signExtend 64 <<< (16 * h.toNat)

/-- R112, R113: bits [pos + width − 1 : pos] of x replaced by the low bits of v. -/
def insertBits (x v : Word) (pos width : Nat) : Word :=
  let m : Word := BitVec.ofNat 64 ((2 ^ width - 1) * 2 ^ pos)
  (x &&& ~~~m) ||| ((v <<< pos) &&& m)

def execLiZ (d : XReg) (h : BitVec 2) (imm : BitVec 16) (s : State) : Out :=
  s.local { wx := [d] } (fun st => (st.wx d (liZValue h imm)).next)
/-- `li.k` reads its destination. -/
def execLiK (d : XReg) (h : BitVec 2) (imm : BitVec 16) (s : State) : Out :=
  s.intOp1 d d (fun x => insertBits x (imm.zeroExtend 64) (16 * h.toNat) 16)
def execBfx (d a : XReg) (pos wm1 : BitVec 6) (s : State) : Out :=
  s.intOp1 d a (fun x => BitVec.ofNat 64 (x.toNat / 2 ^ pos.toNat % 2 ^ (wm1.toNat + 1)))
/-- `bfi` reads its destination. -/
def execBfi (d a : XReg) (pos wm1 : BitVec 6) (s : State) : Out :=
  s.intOp d d a (fun x v => insertBits x v pos.toNat (wm1.toNat + 1))

/-! ### Compare and select (R114, R115) -/

def State.compare (s : State) (d : CReg) (a b : XReg) (c : Cond) : Out :=
  s.local { rx := [a, b] } (fun st => (st.wc d (c.holds (st.rx a) (st.rx b))).next)

def execCmpEq (d : CReg) (a b : XReg) (s : State) : Out := s.compare d a b .eq
def execCmpNe (d : CReg) (a b : XReg) (s : State) : Out := s.compare d a b .ne
def execCmpLt (d : CReg) (a b : XReg) (s : State) : Out := s.compare d a b .lt
def execCmpGe (d : CReg) (a b : XReg) (s : State) : Out := s.compare d a b .ge
def execCmpLtu (d : CReg) (a b : XReg) (s : State) : Out := s.compare d a b .ltu
def execCmpGeu (d : CReg) (a b : XReg) (s : State) : Out := s.compare d a b .geu

def execCselX (d : XReg) (c : CReg) (a b : XReg) (s : State) : Out :=
  s.local { rx := [a, b], wx := [d] } (fun st => (st.wx d (if st.rc c then st.rx a else st.rx b)).next)

/-- R115: the value chosen, with the count of R46. -/
def cselFValue (c : Bool) (a b : FVal) : FVal :=
  let pick := if c then a else b
  ⟨pick.v, selectCount a b pick⟩

def execCselF (d : FReg) (c : CReg) (a b : FReg) (s : State) : Out :=
  s.local { rf := [a, b], wf := [d] } (fun st => (st.wf d (cselFValue (st.rc c) (st.rf a) (st.rf b))).next)

/-! ### Addresses and work identifiers (R117, R116, R186, R261) -/

/-- A word offset from the instruction itself (R82). -/
def target {w : Nat} (pc : Word) (off : BitVec w) : Word := pc + (off.signExtend 64 <<< 2)

def execLea (d : XReg) (off : BitVec 20) (s : State) : Out :=
  s.local { wx := [d] } (fun st => (st.wx d (target st.pc off)).next)

/-- The low bit of field k of an identifier (R116, R260). -/
def fieldLow (ws : List Nat) (k : Nat) : Nat := (ws.take k).foldl (· + ·) 0

/-- R116: field k of an identifier. -/
def widField (ws : List Nat) (wid : Word) (k : Nat) : Word :=
  match ws[k]? with
  | none => 0
  | some w => BitVec.ofNat 64 (wid.toNat / 2 ^ fieldLow ws k % 2 ^ w)

def execWidf (d : XReg) (k : BitVec 3) (s : State) : Out :=
  s.local { wx := [d] } (fun st => (st.wx d (widField (s.launch st.lid).widths st.wid k.toNat)).next)

/-- R260: how many identifiers a launch has. -/
def Launch.idCount (L : Launch) : Nat := 2 ^ L.widths.foldl (· + ·) 0

/-- R261: the n-th identifier that region index j hands out: chunks c with c mod B = j, in order. -/
def Launch.idAt (L : Launch) (j n : Nat) : Option Nat :=
  let w0 := 2 ^ (L.widths.headD 0)
  let c := j + L.region.length * (n / w0)
  let id := c * w0 + n % w0
  if id < L.idCount then some id else none

/-- R186: the allocator of a region bent serves one request. -/
def Launch.takeId (L : Launch) (j : Nat) (round : BitVec 16) : Option Nat × Launch :=
  match NMap.getD L.returnedIds j [] with
  | n :: ns => (L.idAt j n, ({ L with returnedIds := NMap.set L.returnedIds j ns }).logOp round (.id j n))
  | [] =>
    let n := NMap.getD L.nextId j 0
    match L.idAt j n with
    | some id => (some id, ({ L with nextId := NMap.set L.nextId j (n + 1) }).logOp round (.id j n))
    | none => (none, L)

def execWidNext (d : XReg) (s : State) : Out :=
  s.issue { wx := [d] } (fun b k st =>
    match (s.launch st.lid).takeId (s.bent b).index st.round with
    | (some id, L) =>
      .next ((s.setLaunch st.lid L).setStrand b k ({ st.wx d (BitVec.ofNat 64 id) with wid := BitVec.ofNat 64 id }).next)
    | (none, _) => .next (s.setStrand b k (st.wx d 0xFFFFFFFFFFFFFFFF).next))

end Sys2Proof.Machine
end

