-- ==== Sys2Proof/Machine/Operands.lean ====
section
/-! DEFINITION. Memory operands: address spaces (R275), the buffers of a launch (R326, R329), translation (R332 to
R335, R343), the checks of R136 in their order, and the race check (R143). -/

namespace Sys2Proof.Machine

/-! ### Address spaces -/

/-- What an address names. -/
inductive Space where
  | own (off : Nat)
  | named (b off : Nat)
  | dev (va : Nat)
  | host (va : Nat)
  | bad
  deriving DecidableEq, Repr, Inhabited

/-- R275, R137: the space of an address as bent b sees it; a named bent that is the issuer's is the own one. -/
def spaceOf (b : Nat) (ea : Word) : Space :=
  let n := ea.toNat
  let sel := n / 2 ^ 60
  let mid := n / 2 ^ 52 % 256
  let hi := n / 2 ^ 22 % 2 ^ 30
  if sel = 0 then (if mid = 0 then .dev (n % 2 ^ 52) else .bad)
  else if sel = 8 then (if mid = 0 ∧ hi = 0 then .own (n % 2 ^ 22) else .bad)
  else if sel = 9 then
    (if mid < 192 ∧ hi = 0 then (if mid = b then .own (n % 2 ^ 22) else .named mid (n % 2 ^ 22)) else .bad)
  else if sel = 10 then (if mid = 0 then .host (n % 2 ^ 52) else .bad)
  else .bad

/-- R278: the sill that fronts an offset. -/
def sillOf (off : Nat) : Nat := off / 256 % 8

/-- R276: the channel of a partition offset, numbered over the device. -/
def channelOf (part off : Nat) : Nat := part * 48 + off / 1024 % 48

/-! ### Buffers -/

/-- R329: where the second backing of a scratchpad buffer starts. -/
def Buffer.second (B : Buffer) : Nat := B.boff + (B.bytes + 255) / 256 * 256

/-- R329: the scratchpad offset that serves an access, or none in a second range. -/
def Launch.spadMap (L : Launch) (off : Nat) : Option (Nat × Option (Nat × Bool)) :=
  let inFront := L.bufs.find? (fun p => p.2.spad && inRange p.2.boff p.2.bytes off)
  let inSecond := L.bufs.any (fun p => p.2.spad && p.2.shadow && inRange p.2.second p.2.bytes off)
  match inFront with
  | some (bt, B) =>
    let o := if B.shadow && B.swap then B.second + (off - B.boff) else off
    some (o, if B.shadow then some (bt, B.swap) else none)
  | none => if inSecond then none else some (off, none)

/-- R326: the HBM buffer whose front answers a device-virtual address. -/
def Launch.devBuffer (L : Launch) (va : Nat) : Option (Nat × Buffer) :=
  L.bufs.find? (fun p => !p.2.spad && inRange (L.bufva.toNat + p.2.boff) p.2.bytes va)

/-! ### Translation -/

/-- The outcome of translating one address. -/
inductive Tr where
  | ok (loc : Nat) (img : Option Nat)
  | miss
  | fail
  | scrub (page : Nat)
  deriving DecidableEq, Repr, Inhabited

def TlbEntry.covers (e : TlbEntry) (ctx : Nat) (host : Bool) (va : Nat) : Bool :=
  e.ctx == ctx && e.host == host && (if e.big then e.vpn / 512 == va / 2 ^ 25 else e.vpn == va / 2 ^ 16)

/-- R319: whether a physical address lies in the slots of an enabled queue of its partition. -/
def State.inQueueSlots (s : State) (pa : Nat) : Bool :=
  (List.range 8).any (fun p => (s.part p).qcbs.any (fun q => q.2.en && inRange q.2.base (q.2.slots * 128) pa))

/-- R319: whether some of n bytes lie in the slots of an enabled queue. -/
def State.meetsQueue (s : State) (pa n : Nat) : Bool :=
  (List.range 8).any (fun p => (s.part p).qcbs.any (fun q => q.2.en && overlaps (q.2.base, q.2.slots * 128) (pa, n)))

def State.ctx (s : State) (c : Nat) : Ctx := NMap.getD s.ctxs c {}

/-- The physical HBM of the device (R1). -/
def hbmBytes : Nat := 8 * partBytes

/-! ### Keys of HBM (R339) -/

/-- R339: the key of a context's slot; none loaded is a key like another here (log entry 9). -/
def State.ctxKey (s : State) (c : Nat) : List Byte := NMap.getD s.device.keySlots (s.ctx c).kslot []

/-- R339, R340: the key of the slot of a registered image. -/
def State.imageKey (s : State) (part i : Nat) : List Byte :=
  NMap.getD s.device.keySlots (NMap.getD (s.part part).images i {}).kslot []

/-- R339: a byte of HBM as it reads under a key: as it was written where its page is stored under that key. -/
def State.byteUnder (s : State) (key : List Byte) (a : Nat) : Byte :=
  match NMap.get? s.device.pageKeys (a / 65536) with
  | some k => if k = key then Memory.get s.mem a else Config.otherKeyByte k key (a / 64 * 64) (Memory.getBytes s.mem (a / 64 * 64) 64) (a % 64)
  | none => Memory.get s.mem a

def State.bytesUnder (s : State) (key : List Byte) (a n : Nat) : List Byte := (List.range n).map (fun k => s.byteUnder key (a + k))

/-- R339, R341: bytes as an access reads them: through a leaf of an image under the image's key, else as their owner wrote them. -/
def State.bytesVia (s : State) (part : Nat) (img : Option Nat) (a n : Nat) : List Byte :=
  match img with
  | some i => s.bytesUnder (s.imageKey part i) a n
  | none => Memory.getBytes s.mem a n

/-- R343: whether the owner of a page of HBM, hidden from software, is another than a context, or none. -/
def State.foreign (s : State) (ctx page : Nat) : Bool := NMap.get? s.pageOwner page != some ctx

/-- R334, R343: an access through a translation held in a TLB. -/
def State.useEntry (s : State) (part ctx : Nat) (write : Bool) (va : Nat) (e : TlbEntry) : Tr :=
  let pa := if e.big then e.pa + va % 2 ^ 25 else e.pa + va % 2 ^ 16
  if write && !e.w then .fail
  else
    let granted : Bool := match e.img with
      | some i => (let R := NMap.getD (s.part part).images i {}; !e.w && R.en && bit R.grant ctx)
      | none => true
    if !granted then .fail
    else if e.host then .ok (hostAddr pa) e.img
    else if (s.ctx ctx).pmask / 2 ^ (pa / partBytes) % 2 = 0 then .fail
    else if s.inQueueSlots pa then .fail
    else if e.img = none ∧ s.foreign ctx (pa / 65536) = true then .scrub (pa / 65536)
    else .ok pa e.img

/-! ### The table walk (R332 to R335) -/

/-- R332, R339: an 8-byte table entry of physical HBM as it reads under the key of a context; none outside the HBM. -/
def State.tableEntry (s : State) (ctx pa : Nat) : Option Nat :=
  if pa + 8 ≤ hbmBytes then some (leNat (s.bytesUnder (s.ctxKey ctx) pa 8)) else none

/-- R333: fields of a table entry. -/
def pteAddr (e : Nat) : Nat := e / 2 ^ 12 % 2 ^ 40 * 2 ^ 12
def pteIreg (e : Nat) : Nat := e / 2 ^ 6 % 2 ^ 6

/-- R333, R334: an entry that is valid with its reserved bits zero. -/
def pteOk (e : Nat) : Bool := e.testBit 0 && !e.testBit 1 && !e.testBit 3 && e / 2 ^ 52 == 0

/-- R333: an entry that names a table aligned to n bytes: no leaf, and none of the bits that only a leaf has. -/
def pteTable (n e : Nat) : Option Nat :=
  if pteOk e ∧ e.testBit 2 = false ∧ e / 2 ^ 4 % 2 ^ 8 = 0 ∧ pteAddr e % n = 0 then some (pteAddr e) else none

/-- R333: a leaf that maps n bytes: its physical base, W and image. -/
def pteLeaf (n e : Nat) : Option (Nat × Bool × Option Nat) :=
  if pteOk e ∧ e.testBit 2 = true ∧ pteAddr e % n = 0 ∧ (e.testBit 5 = true ∨ pteIreg e = 0) then
    some (pteAddr e, e.testBit 4, if e.testBit 5 then some (pteIreg e) else none)
  else none

/-- The outcome of a walk: 32 MiB page or not, base, W and image. -/
abbrev Leaf := Bool × Nat × Bool × Option Nat

/-- R332: level 3. -/
def State.walk3 (s : State) (ctx base vpn : Nat) : Option Leaf :=
  ((s.tableEntry ctx (base + vpn % 512 * 8)).bind (pteLeaf (2 ^ 16))).map (fun l => (false, l))

/-- R332: level 2: a 32 MiB leaf or a level-3 table. -/
def State.walk2 (s : State) (ctx base vpn : Nat) : Option Leaf :=
  match s.tableEntry ctx (base + vpn / 512 % 4096 * 8) with
  | none => none
  | some e =>
    if e.testBit 2 then (pteLeaf (2 ^ 25) e).map (fun l => (true, l)) else (pteTable (2 ^ 12) e).bind (fun t => s.walk3 ctx t vpn)

/-- R332: level 1, at the root of a context's device or host tables. -/
def State.walk1 (s : State) (ctx root vpn : Nat) : Option Leaf :=
  (s.tableEntry ctx (root + vpn / 2 ^ 21 % 32768 * 8)).bind (fun e => (pteTable (2 ^ 15) e).bind (fun t => s.walk2 ctx t vpn))

/-- R332, R335: the TLB entry that the walk of a page leaves; none where it fails (R334). -/
def State.walkEntry (s : State) (ctx : Nat) (host : Bool) (vpn : Nat) : Option TlbEntry :=
  let C := s.ctx ctx
  (s.walk1 ctx (if host then C.hroot else C.droot) vpn).map (fun l =>
    { ctx := ctx, host := host, vpn := vpn, big := l.1, pa := l.2.1, w := l.2.2.1, img := l.2.2.2 })

def Miss.entry (m : Miss) (s : State) : Option TlbEntry := s.walkEntry m.ctx m.host m.vpn

/-- The key of a page that a source waits for. -/
def transKey (host : Bool) (va : Nat) : Nat := (va / 65536) * 2 + (if host then 1 else 0)

/-- The sources of misses at a bent: its strands, its walk engines, and the engines at its egresses. -/
def srcStrand (k : Nat) : Nat := k
def srcWalk (e : Nat) : Nat := 16 + e
def srcEgress (e : Nat) : Nat := 32 + e

/-- R334: whether the walk of a page has failed for a unit of a bent that waited for it. -/
def Bent.walkFailed (B : Bent) (src key : Nat) : Bool := NMap.get? B.transBad src == some key

/-- The failure has been met. -/
def Bent.metFailure (B : Bent) (src : Nat) : Bent := { B with transBad := NMap.erase B.transBad src }

/-- R334, R335: translation of a device-virtual or host address through a list of TLB entries; `failed` where the walk that
was waited for has failed. -/
def State.translate (s : State) (failed : Bool) (tlb : List TlbEntry) (part ctx : Nat) (host write : Bool) (va : Nat) : Tr :=
  if host ∧ (s.ctx ctx).hroot = 0 then .fail
  else if failed then .fail
  else
    match tlb.find? (fun e => e.covers ctx host va) with
    | some e => s.useEntry part ctx write va e
    | none => .miss

/-- The die of a bent. -/
def dieOf (b : Nat) : Nat := b / 48

def Miss.same (m : Miss) (ctx : Nat) (host : Bool) (vpn : Nat) : Bool := m.ctx == ctx && m.host == host && m.vpn == vpn

def Miss.join (m : Miss) (l : List (Nat × Nat)) : Miss := { m with sources := m.sources ++ l.filter (fun q => !m.sources.contains q) }

/-- R335: a miss joins a walk in progress, starts one of 32, waits in the queue of 512, or is retried. -/
def Die.miss (D : Die) (m : Miss) : Die :=
  let upd (l : List Miss) := l.map (fun x => if x.same m.ctx m.host m.vpn then x.join m.sources else x)
  let has (l : List Miss) := l.any (fun x => x.same m.ctx m.host m.vpn)
  if has D.walks then { D with walks := upd D.walks }
  else if has D.queue then { D with queue := upd D.queue }
  else if D.walks.length < 32 then { D with walks := D.walks ++ [m] }
  else if D.queue.length < 512 then { D with queue := D.queue ++ [m] }
  else if has D.retry then { D with retry := upd D.retry }
  else { D with retry := D.retry ++ [m] }

/-- R335: a miss of a source of a bent. -/
def State.addMiss (s : State) (ctx : Nat) (host write : Bool) (va b src : Nat) : State :=
  s.setDie (dieOf b) ((s.die (dieOf b)).miss ⟨ctx, host, va / 65536, write, [(b, src)]⟩)

/-- R335: whether a source of a bent waits for a walk. -/
def State.missing (s : State) (b src : Nat) : Bool :=
  let D := s.die (dieOf b)
  (D.walks ++ D.queue ++ D.retry).any (fun m => m.sources.contains (b, src))

/-- R343: the page of HBM, of another owner by now, that an operation in flight would touch: the access stalls again, and the page
is scrubbed again. -/
def State.foreignPage (s : State) (lid : Nat) (o : MemOp) : Option Nat :=
  match o.path with
  | .channel _ =>
    (o.ranges.map (fun r => r.1 / 65536)).find? (fun page =>
      decide (page * 65536 < hbmBytes) && s.foreign (s.launch lid).ctx page)
  | _ => none

/-- R343: a page queued for the scrub engine on behalf of a context. -/
def State.queueScrub (s : State) (page owner : Nat) : State :=
  if s.scrubQueue.contains (page, owner) then s else { s with scrubQueue := s.scrubQueue ++ [(page, owner)] }

/-! ### Accesses of a strand -/

/-- Where an access goes, or why it does not. -/
inductive Acc where
  | trap (cause : BitVec 16) (t : State)
  | wait (t : State) (w : Wait)
  | ok (loc : Nat) (path : Path) (bound : Option (Nat × Bool))
  deriving DecidableEq, Repr, Inhabited

/-- Which spaces an instruction accepts (R137). -/
structure Accepts where
  dev : Bool
  host : Bool
  deriving DecidableEq, Repr, Inhabited

/-- R136, checks 5: a device-virtual or host address of a strand's access. -/
def State.accessVa (s : State) (b k : Nat) (st : Strand) (host write : Bool) (va : Nat) : Acc :=
  let L := s.launch st.lid
  match (if host then none else L.devBuffer va) with
  | some (bt, B) =>
    let off := va - (L.bufva.toNat + B.boff)
    .ok (backAddr st.lid bt (B.shadow && B.swap) off) (.channel (channelOf L.part off))
      (if B.shadow then some (bt, B.swap) else none)
  | none =>
    match s.translate (st.transBad == some (transKey host va)) (s.bent b).tlb L.part L.ctx host write va with
    | .ok loc img =>
      let c := channelOf (loc / partBytes) (loc % partBytes)
      .ok loc (if host then .host else match img with | some i => .image c i | none => .channel c) none
    | .fail => .trap 0x0003 s
    | .miss => .wait (s.addMiss L.ctx host write va b (srcStrand k)) (.translation (transKey host va))
    | .scrub page => .wait (s.queueScrub page L.ctx) (.translation (transKey host va))

/-- R136, checks 2 to 5, and R329's second ranges. -/
def State.access (s : State) (b k : Nat) (st : Strand) (acc : Accepts) (write : Bool) (ea : Word) (size : Nat) : Acc :=
  if ea.toNat % size ≠ 0 then .trap 0x0002 s
  else
    match spaceOf b ea with
    | .bad => .trap 0x0004 s
    | .own off =>
      match (s.launch st.lid).spadMap off with
      | none => .trap 0x0004 s
      | some (o, bound) => .ok (spadAddr b o) (.sill (sillOf off)) bound
    | .named _ _ => .trap 0x0001 s
    | .dev va => if acc.dev then s.accessVa b k st false write va else .trap 0x0001 s
    | .host va => if acc.host then s.accessVa b k st true write va else .trap 0x0001 s

/-! ### The race check (R142, R143) -/

/-- R158: the group of an identifier at a barrier level: fields above the level. -/
def groupOf (ws : List Nat) (level : Nat) (wid : Word) : Nat := wid.toNat / 2 ^ fieldLow ws (level + 1)

/-- R143: whether a strand stands in the last writer's slot, and it and the issuer lie in one group of b0 or b0 is
uninitialised. -/
def State.sameGroup (s : State) (st : Strand) (g : Granule) : Bool :=
  let L := s.launch st.lid
  match s.strand? g.lwb.toNat g.lws.toNat with
  | none => false
  | some w =>
    match NMap.get? L.bars 0 with
    | none => true
    | some B => w.lid == st.lid && groupOf L.widths B.level w.wid == groupOf L.widths B.level st.wid

/-- R143: whether an access of scope .strand and order .rlx to n bytes of scratchpad races. -/
def State.races (s : State) (b k : Nat) (st : Strand) (loc n : Nat) : Bool :=
  match spadOf loc with
  | none => false
  | some (sb, off) =>
    (unitsOf (spadAddr 0 off) n).any (fun u =>
      let g := NMap.getD (s.bent sb).granules ((u - spadAddr 0 0) / 32) {}
      g.lwb != 0xFF && !(g.lwb.toNat == b && g.lws.toNat == k) && s.sameGroup st g && g.ph == st.phs)

/-- R142: the granule of a scratchpad storage address. -/
def granuleOf (loc : Nat) : Nat := (loc - 2 ^ 41) % 2 ^ 22 / 32

def Bent.granule (B : Bent) (g : Nat) : Granule := NMap.getD B.granules g {}

end Sys2Proof.Machine
end

