-- ==== Sys2Proof/Machine/Wait.lean ====
section
/-! DEFINITION. What a strand has outstanding (R138, R157, R280), the conditions that waiting strands wait for (R263),
and the guards that hold an instruction at issue: an acquire in flight (R139), full entries (R138, R312), earlier
operations (R139, R156), another path to the same bytes (R280) and atomics of the current round (R153). -/

namespace Sys2Proof.Machine

/-! ### Ports (R4) -/

def portSL (n : Nat) : Nat := n
def portW (w : Nat) : Nat := 8 + w
def portGR : Nat := 10
def portSI : Nat := 11
def portFB (n : Nat) : Nat := 12 + n
def egWB0 : Nat := 11
def egWB1 : Nat := 12
def egGS : Nat := 13
def egAT : Nat := 14
def egSQ : Nat := 15

/-! ### Queues (R246) -/

def voqKey (i e c : Nat) : Nat := i * 64 + e * 4 + c

def Bent.sub (B : Bent) (i e c : Nat) : List QCell := NMap.getD B.voq (voqKey i e c) []
def Bent.mcast (B : Bent) (i : Nat) : List QCell := NMap.getD B.mq i []
def Bent.voqLen (B : Bent) (i e : Nat) : Nat :=
  (B.sub i e 0).length + (B.sub i e 1).length + (B.sub i e 2).length + (B.sub i e 3).length

/-- R246: a place for a cell of class c: eight places, of which classes 1 to 3 take at most seven. -/
def Bent.voqRoom (B : Bent) (i e c : Nat) : Bool :=
  decide (B.voqLen i e < 8) && (c == 0 || decide (B.voqLen i e - (B.sub i e 0).length < 7))

def Bent.mqRoom (B : Bent) (i c : Nat) : Bool :=
  decide ((B.mcast i).length < 8)
    && (c == 0 || decide (((B.mcast i).filter (fun q => q.cell.cls != 0)).length < 7))

/-- Every cell in the queues of a bent's Mortise. -/
def Bent.queueCells (B : Bent) : List (Cell × Side) :=
  (NMap.vals B.voq ++ NMap.vals B.mq).flatMap (fun l => l.map (fun q => (q.cell, q.side)))

def RvEntry.cells (v : RvEntry) : List (Cell × Side) := (NMap.vals v.operands).map (fun c => (c.cell, c.side))

/-- The operands of operations that wait for their engine. -/
def Bent.firedCells (B : Bent) : List (Cell × Side) := B.fired.flatMap (fun x => x.2.map (fun c => (c.cell, c.side)))

/-- Every cell landing in, standing in or moved from an egress input buffer. -/
def Bent.bufferCells (B : Bent) : List (Cell × Side) :=
  B.landing.map (fun p => (p.2.cell, p.2.side))
    ++ (NMap.vals B.inbuf).flatMap (fun l => l.map (fun c => (c.cell, c.side)))
    ++ (NMap.vals B.rv).flatMap RvEntry.cells ++ B.firedCells

/-- Every cell between GS and GR. -/
def Bent.girtCells (B : Bent) : List (Cell × Side) :=
  B.gs.map (fun g => (g.cell, g.side)) ++ B.gr.map (fun g => (g.cell, g.side))

/-- Every cell in flight at a bent. -/
def Bent.cells (B : Bent) : List (Cell × Side) := B.queueCells ++ B.bufferCells ++ B.girtCells

/-- Whether a strand of an OWNER enqueued a cell. -/
def Side.of (d : Side) (lid ob os : Nat) : Bool :=
  d.src == .strand && d.lid == lid && d.ownerBent == ob && d.ownerSlot == os

/-- R318: whether a strand sent a cell, by itself or by a walk. -/
def Side.byStrand (d : Side) : Bool :=
  match d.src with
  | .strand | .walk _ => true
  | .engine _ | .gr | .cp => false

/-- Every cell of a bent that its egress has not consumed: an operand that has gone to rendezvous storage is consumed (R157,
R255). -/
def Bent.unconsumed (B : Bent) : List (Cell × Side) :=
  B.queueCells ++ B.landing.map (fun p => (p.2.cell, p.2.side))
    ++ (NMap.vals B.inbuf).flatMap (fun l => l.map (fun c => (c.cell, c.side))) ++ B.girtCells

/-- R157, R189: cells of a strand not yet consumed, and updates it sent that an AT holds. -/
def State.cellsOut (s : State) (st : Strand) : Bool :=
  (s.regionOf st.lid).any (fun b =>
    (s.bent b).unconsumed.any (fun c => c.2.of st.lid st.ownerBent st.ownerSlot)
      || (s.bent b).held.any (fun h => h.cell.side.of st.lid st.ownerBent st.ownerSlot))

/-- R152, R153: atomic cells that a strand enqueued in its current round and that an AT holds or has still to receive. -/
def State.atomCells (s : State) (st : Strand) : Bool :=
  (s.regionOf st.lid).any (fun b =>
    (s.bent b).unconsumed.any (fun c => c.2.of st.lid st.ownerBent st.ownerSlot && bit c.1.dest egAT && !c.1.rmk
        && c.1.round == st.round)
      || (s.bent b).held.any (fun h =>
        h.cell.side.of st.lid st.ownerBent st.ownerSlot && h.cell.cell.round == st.round))

/-! ### Operations in flight -/

/-- The sills an operation goes to. -/
def MemOp.sills (o : MemOp) : List Nat :=
  match o.path with
  | .sill n =>
    (match o.kind with
     | .ldt | .stt => [n, sillOf ((o.tagLoc - 2 ^ 41) % 2 ^ 22)]
     | _ => [n])
  | _ => []

/-- R144, R184, R351: whether an earlier operation of the strand must be performed before a later one; an atomic that a
channel's unit holds lets a later atomic be held behind it (R152). -/
def MemOp.precedes (o p : MemOp) : Bool :=
  !o.done && !(o.held && p.kind.isAmo && o.path == p.path) && (p.ranges.any o.touches || o.sills.any p.sills.contains
    || (o.path == p.path && (match o.path with | .request _ => true | .host => true | _ => false)))

/-- Whether an operation may be performed: nothing of its strand before it must come first. -/
def Strand.mayPerform (st : Strand) (id : Nat) : Bool :=
  let before := st.ops.takeWhile (fun o => o.id != id)
  match st.ops.find? (fun o => o.id == id) with
  | none => false
  | some p => before.all (fun o => !o.precedes p)

/-- R156, R157: everything the strand issued has been performed. -/
def State.performed (s : State) (st : Strand) : Bool :=
  st.ops.all (fun o => o.kind == .ldfe && o.done) && !s.cellsOut st

/-- R138: entries in use. -/
def Strand.loads (st : Strand) : List MemOp := st.ops.filter (fun o => o.kind.isLoad)
def Strand.stores (st : Strand) : List MemOp := st.ops.filter (fun o => !o.kind.isLoad)

/-- R280: operations that touch bytes of some ranges by another path. -/
def Strand.crossing (st : Strand) (ranges : List (Nat × Nat)) (path : Path) : List MemOp :=
  st.ops.filter (fun o => o.path.kind != path.kind && ranges.any o.touches)

/-! ### What units have in progress -/

def Walk.of (w : Walk) (lid ob os : Nat) : Bool := w.lid == lid && w.ownerBent == ob && w.ownerSlot == os

/-- Every walk of a launch, with its bent and engine. -/
def State.walksOf (s : State) (lid : Nat) : List (Nat × Nat × Walk) :=
  (s.regionOf lid).flatMap (fun b =>
    (s.bent b).walks.flatMap (fun p => (p.2.filter (fun w => w.lid == lid)).map (fun w => (b, p.1, w))))

def State.myWalks (s : State) (st : Strand) : List (Nat × Nat × Walk) :=
  (s.walksOf st.lid).filter (fun w => w.2.2.of st.lid st.ownerBent st.ownerSlot)

/-- R172 step 1: a walk of the round that has cells to send. -/
def State.walkSending (s : State) (st : Strand) : Bool :=
  (s.myWalks st).any (fun w => w.2.2.round == st.round && !w.2.2.copy && w.2.2.ended.isNone)

/-- R229: the buffer a route block names: BT and B255. -/
def routeBt (block : List Byte) : Option Nat :=
  let bt := (block.getD 24 0).toNat
  if bt = 255 ∧ (block.getD 25 0).toNat % 2 = 0 then none else some bt

/-- R227: an `mx.drain` cell. -/
def Cell.isDrain (c : Cell) : Bool := c.kind == 1 && c.code == 6

/-- R160: a launch's buffers as a walk bound them when it began. -/
def Launch.bind (L : Launch) (bs : List (Nat × Bool)) : Launch :=
  { L with bufs := L.bufs.map (fun p =>
      match bs.find? (fun q => q.1 == p.1) with
      | some q => (p.1, { p.2 with swap := q.2 })
      | none => p) }

/-- Where an address of a walk's row lies, if it is scratchpad of the region or an HBM buffer. -/
def Launch.plainLoc (L : Launch) (lid b : Nat) (a : Word) : Option Nat :=
  match spaceOf b a with
  | .own off => (L.spadMap off).map (fun x => spadAddr b x.1)
  | .named t off => (L.spadMap off).map (fun x => spadAddr t x.1)
  | .dev va => (L.devBuffer va).map (fun x =>
      backAddr lid x.1 (x.2.shadow && x.2.swap) (va - (L.bufva.toNat + x.2.boff)))
  | _ => none

/-- The address of byte o of row i of a walk. -/
def Walk.addr (w : Walk) (i o : Nat) : Word := w.src + BitVec.ofInt 64 ((i : Int) * w.stride + (o : Int))

/-- R175: the first bytes of the cells that a stream walk has still to send, as row and offset. -/
def Walk.cellsLeft (w : Walk) : List (Nat × Nat) :=
  let rows := (List.range (w.rows - w.row)).map (fun i => w.row + i)
  if w.rpc ≤ 1 then
    rows.flatMap (fun i => ((List.range ((w.rowLen + 255) / 256)).map (fun k => (i, 256 * k))).filter (fun x =>
      decide (w.row < x.1) || decide (w.off ≤ x.2)))
  else (rows.filter (fun i => (i - w.row) % w.rpc == 0)).map (fun i => (i, 0))

/-- The address of a byte of a cell of a walk: those of a cell of several rows lie one row after another (R175). -/
def Walk.byteAddr (w : Walk) (x : Nat × Nat) (n : Nat) : Word :=
  if w.rpc ≤ 1 then w.addr x.1 (x.2 + n) else w.addr (x.1 + n / Nat.max 1 w.rowLen) (n % Nat.max 1 w.rowLen)

/-- R332 to R334: a byte of a launch's device virtual or host space as it stands now, with its place; none where it does not
translate. A page of another owner is zeroed before it is read (R343). -/
def State.vaByte (s : State) (L : Launch) (host : Bool) (va : Nat) : Option (Nat × Byte) :=
  if host ∧ (s.ctx L.ctx).hroot = 0 then none
  else
    match (s.walkEntry L.ctx host (va / 65536)).map (s.useEntry L.part L.ctx false va) with
    | some (.ok loc img) => some (loc, (s.bytesVia L.part img loc 1).headD 0)
    | some (.scrub page) => some (page * 65536 + va % 65536, 0)
    | _ => none

/-- A byte that a walk is to read as it stands now, with its place. -/
def State.rowByte (s : State) (L : Launch) (lid b : Nat) (a : Word) : Option (Nat × Byte) :=
  match L.plainLoc lid b a with
  | some p => some (p, Memory.get s.mem p)
  | none =>
    match spaceOf b a with
    | .dev va => s.vaByte L false va
    | .host va => s.vaByte L true va
    | _ => none

/-- R174: a write of a strand that comes before a walk and may still change a byte. -/
def Strand.mayChange (st : Strand) (w : Walk) (loc : Nat) : Bool :=
  st.ops.any (fun o => !o.done && decide (o.id < w.opMark) && !o.kind.isLoad && o.touches (loc, 1))

/-- R160, R229, R318: whether a stream walk of `mx.drain` cells of a strand has one for a buffer still to send, by the route blocks
that lie in its rows; one that cannot be read yet, or that an earlier store of the strand may still change, counts until it shows
(log entry 24). -/
def State.walkDrains (s : State) (b : Nat) (st : Strand) (w : Walk) (bt : Nat) : Bool :=
  let L := (s.launch w.lid).bind w.bindings
  !w.copy && !w.cancelled && w.ended.isNone && w.hdr.toNat / 2 ^ 16 % 4096 == 0x106 && w.cellsLeft.any (fun x =>
    match s.rowByte L w.lid b (w.byteAddr x 24), s.rowByte L w.lid b (w.byteAddr x 25) with
    | some p, some q =>
      st.mayChange w p.1 || st.mayChange w q.1 || routeBt (List.replicate 24 0 ++ [p.2, q.2]) == some bt
    | _, _ => true)

/-- R160, R318: writes into the shadow of a buffer that a strand's walks, drains and Scarf commands have still to
make. -/
def State.shadowPending (s : State) (st : Strand) (bt : Nat) : Bool :=
  let L := s.launch st.lid
  let mine (d : Side) : Bool := d.lid == st.lid && d.ownerBent == st.ownerBent && d.ownerSlot == st.ownerSlot && d.drain
  (s.myWalks st).any (fun w => w.2.2.copy && w.2.2.bt == bt)
    || (s.myWalks st).any (fun w => s.walkDrains w.1 st w.2.2 bt)
    || (s.regionOf st.lid).any (fun b =>
        let B := s.bent b
        B.cells.any (fun c => mine c.2 && (c.2.shadow == some bt
            || (c.1.isDrain && routeBt c.1.payload == some bt)))
          || (NMap.vals B.emit).any (fun l => l.any (fun m => mine m.side && m.side.shadow == some bt))
          || B.held.any (fun h => mine h.cell.side && h.cell.side.shadow == some bt)
          || (NMap.vals B.mx).any (fun m => match m.drain with
              | some d => mine d.side && d.bt == some bt
              | none => false))
    || (match NMap.get? L.scarfs bt with
        | some c => c.ownerBent == st.ownerBent && c.ownerSlot == st.ownerSlot
        | none => false)

/-- R272: the region round floor: the earliest ROUND of the strands that are not done. -/
def roundBefore (a b : BitVec 16) : Bool := decide (1 ≤ (b - a).toNat) && decide ((b - a).toNat ≤ 32767)

def State.strandsOf (s : State) (lid : Nat) : List (Nat × Nat × Strand) :=
  (s.regionOf lid).flatMap (fun b =>
    ((s.bent b).strands.filter (fun e => e.2.lid == lid)).map (fun e => (b, e.1, e.2)))

def State.rounds (s : State) (lid : Nat) : List (BitVec 16) :=
  (s.strandsOf lid).map (fun e => e.2.2.round)
    ++ (s.launch lid).conts.map (fun c => c.st.round) ++ (s.launch lid).readyList.map (fun c => c.st.round)

def State.floorOf (s : State) (lid : Nat) : Option (BitVec 16) :=
  (s.rounds lid).foldl (fun m r =>
    match m with
    | none => some r
    | some f => if roundBefore r f then some r else some f) none

/-- R255, R168: the free rendezvous entry of an egress that `rvres` takes: the lowest (DESIGN CHOICE, log entry 47). -/
def rvKey (e idx : Nat) : Nat := e * 32 + idx
def Bent.freeRv (B : Bent) (e : Nat) : Option Nat := (List.range 32).find? (fun k => !NMap.has B.rv (rvKey e k))

def RvEntry.isOwner (v : RvEntry) (st : Strand) : Bool :=
  v.lid == st.lid && v.ownerBent == st.ownerBent && v.ownerSlot == st.ownerSlot

/-- R168: the strand whose turn it is among those that wait at a place of a bent: `code` is an egress for `rvres`, 32
plus a slot for `sink`. -/
def Bent.turn (B : Bent) (k code : Nat) : Bool :=
  match B.rvWait.find? (fun w => w.2 == code) with
  | none => true
  | some w => w.1 == k

/-- R169: cells that name an entry and have not arrived there. -/
def State.operandOut (s : State) (b : Nat) (st : Strand) (e idx : Nat) : Bool :=
  let B := s.bent b
  let names (c : Cell) : Bool := bit c.dest e && c.opcnt != 0 && c.rvt.toNat == idx
  (B.queueCells ++ B.landing.map (fun p => (p.2.cell, p.2.side))
    ++ (NMap.vals B.inbuf).flatMap (fun l => l.map (fun c => (c.cell, c.side)))).any (fun c =>
      names c.1 && c.2.lid == st.lid && c.2.ownerBent == st.ownerBent && c.2.ownerSlot == st.ownerSlot)

/-- R159: the phase counter of a group. -/
def Barrier.counter (B : Barrier) (g : Nat) : BitVec 16 := (NMap.getD B.groups g (0, 0)).1

def phasePassed (ctr seen : BitVec 16) : Bool := decide (1 ≤ (ctr - seen).toNat) && decide ((ctr - seen).toNat ≤ 32767)

/-- R179: whether MX tenons are idle enough to change gang. -/
def Bent.gangBusy (B : Bent) (mask : Nat) : Bool :=
  (List.range 4).any (fun e => mask / 2 ^ e % 2 == 1 &&
    ((match NMap.get? B.mx e with
      | some m => !m.inFlight.isEmpty
      | none => false) || B.rv.any (fun r => r.1 / 32 == e)))

/-- R187: a strand whose loads and atomics have all returned. -/
def Strand.loadsOut (st : Strand) : Bool := !st.loads.isEmpty

/-- R160: whether it is a strand's turn to publish a buffer: publishes apply in issue order. -/
def Launch.pubTurn (L : Launch) (st : Strand) (bt : Nat) : Bool :=
  match L.pubWait.find? (fun w => w.1 == bt) with
  | none => true
  | some w => w.2.1 == st.ownerBent && w.2.2 == st.ownerSlot

/-! ### The conditions of waiting strands -/

/-- R263: whether what a strand waits for has come about. -/
def State.cleared (s : State) (b k : Nat) (st : Strand) (w : Wait) : Bool :=
  let B := s.bent b
  let L := s.launch st.lid
  match w with
  | .loadEntry => decide (st.loads.length < 16)
  | .storeEntry => decide (st.stores.length < 32)
  | .translation _ => !s.missing b (srcStrand k) && !s.scrubQueue.any (fun q => q.2 == L.ctx)
  | .acquire => st.ops.all (fun o => !o.acq)
  | .performed _ => s.performed st
  | .overlap ranges path => (st.crossing ranges path).isEmpty
  | .sillOrder ns => st.ops.all (fun o => o.done || !o.sills.any ns.contains)
  | .deferred id => !st.ops.any (fun o => o.id == id)
  | .queues qs => qs.all (fun q => (s.bent (q.1 / 16)).voqRoom (q.1 % 16) q.2.1 q.2.2)
  | .multiQueue i c => B.mqRoom i c
  | .walkQueue w => decide ((NMap.getD B.walks w []).length < 32)
  | .rendezvous e => (B.freeRv e).isSome && B.turn k e
  | .operandsArrived e idx => !s.operandOut b st e idx
  | .sink n => NMap.has B.sinks n && B.turn k (32 + n)
  | .barrier h wid seen =>
    (match NMap.get? L.bars h with
     | none => true
     | some R => phasePassed (R.counter (groupOf L.widths R.level wid)) seen)
  | .walksSent => !s.walkSending st
  | .hbmHeld => st.ops.all (fun o => !(st.roundAmo o) || o.path.kind != 1 || o.held || o.done)
  | .roundFloor =>
    (match s.floorOf st.lid with
     | none => true
     | some f => decide ((st.round + 1 - f).toNat < 32768))
  | .shadowWrites bt => !s.shadowPending st bt && !L.pubAfter.contains bt && L.pubTurn st bt
  | .slots t n => decide (n ≤ (s.bent t).pool)
  | .channelIdle h =>
    (match NMap.get? L.chans h with
     | some (.request _ _ _ _ used) => used == 0
     | _ => true)
  | .channelSlot h =>
    (match NMap.get? L.chans h with
     | some (.request _ _ _ slots used) => decide (used < slots)
     | _ => true)
  | .elementSlot h =>
    (match NMap.get? L.chans h with
     | some (.data slots _ es) => decide (es.length < slots)
     | _ => true)
  | .element h =>
    (match NMap.get? L.chans h with
     | some (.data _ _ es) => !es.isEmpty
     | _ => true)
  | .gangIdle mask => !B.gangBusy mask
  | .loadsReturned => !st.loadsOut
  | .scarfEnded bt => !NMap.has L.scarfs bt
  | .scarfFree => decide (((NMap.vals s.launches).flatMap (fun M => M.scarfs.filter (fun c => c.2.die == dieOf b))).length < 16)

/-! ### Guards -/

/-- The strand waits; the instruction issues again when the condition has cleared (R263, R305). -/
def State.park (s : State) (b k : Nat) (st : Strand) (w : Wait) : State :=
  s.setStrand b k { st with state := .waiting w }

/-- An effect that a condition of R263 holds back. -/
def State.holdUntil (s : State) (b k : Nat) (st : Strand) (w : Wait) (body : Out) : Out :=
  if s.cleared b k st w then body else .next (s.park b k st w)

/-- R153: a wait that an atomic of the current round of a deterministic launch stands behind is a trap. -/
def State.holdAtoms (s : State) (b k : Nat) (st : Strand) (w : Wait) (behind : List MemOp) (body : Out) : Out :=
  if s.cleared b k st w then body
  else if (s.launch st.lid).det && behind.any st.stuck then .next (s.trap b k st 0x0001)
  else .next (s.park b k st w)

/-- R139: an acquire in flight holds every later memory instruction, cell and command. -/
def State.afterAcquire (s : State) (b k : Nat) (st : Strand) (body : Out) : Out :=
  s.holdAtoms b k st .acquire (st.ops.filter (fun o => o.acq)) body

/-- R139, R153, R156: everything earlier performed first; in a deterministic launch a wait for an atomic of the current round,
of an `amo` or of a cell, is a trap. -/
def State.afterAll (s : State) (b k : Nat) (st : Strand) (sc : Scope) (body : Out) : Out :=
  if s.cleared b k st (.performed sc) = false ∧ (s.launch st.lid).det = true ∧ s.atomCells st = true then
    .next (s.trap b k st 0x0001)
  else s.holdAtoms b k st (.performed sc) st.ops body

/-- A memory instruction, cell or command at issue. -/
def State.command (s : State) (u : Uses) (body : Nat → Nat → Strand → Out) : Out :=
  s.issue u (fun b k st => s.afterAcquire b k st (body b k st))

end Sys2Proof.Machine
end

