-- ==== Sys2Proof/Machine/Conts.lean ====
section
/-! DEFINITION. Continuations: what a record keeps of a strand (R187, R264), its place in the continuation store
(R264), and when it becomes ready (R266, R267). -/

namespace Sys2Proof.Machine

/-- R187, R264: the registers that a live mask names; the others at their reset values. -/
def Strand.liveX (st : Strand) (live : BitVec 48) : Strand :=
  { st with
    x := Vector.ofFn (fun (n : Fin 32) => if live.getLsbD n then st.x[n] else 0)
    px := Vector.ofFn (fun (n : Fin 32) => live.getLsbD n && st.px[n])
    f := Vector.ofFn (fun (n : Fin 16) => if live.getLsbD (32 + n) then st.f[n] else FVal.zero)
    pf := Vector.ofFn (fun (n : Fin 16) => live.getLsbD (32 + n) && st.pf[n]) }

/-- R264: what a record holds; a register it has no field for takes its reset value, but SIGLOG keeps its contents (R57). -/
def Strand.record (st : Strand) (live : BitVec 48) : Strand :=
  { st.liveX live with
    trapcause := 0, trappc := 0, saved := none, suppress := false, state := .ready }

/-- Records in the continuation store. -/
def Launch.records (L : Launch) : Nat := L.conts.length + L.readyList.length

/-- R267: the ready list's order: as the continuations became ready, those of one time by OWNER. -/
def Cont.before (c d : Cont) : Bool :=
  decide (c.firedAt < d.firedAt)
    || (c.firedAt == d.firedAt && decide (who c.st.ownerBent c.st.ownerSlot < who d.st.ownerBent d.st.ownerSlot))

/-- R267: a continuation joins the ready list in its place. -/
def Launch.list (L : Launch) (c : Cont) : Launch :=
  { L with readyList := L.readyList.filter (fun d => d.before c) ++ [c] ++ L.readyList.filter (fun d => !d.before c) }

/-- R264: a strand saved as a continuation and its slot freed; a full store is a launch fault. One that yields, or has a trap
pending, is ready at the save (R266). -/
def State.saveCont (s : State) (b k : Nat) (st : Strand) (c : Cont) (ready : Bool) : State :=
  let L := s.launch st.lid
  if L.cstore ≤ L.records then (s.dropStrand b k).launchFault st.lid 0x08 0 st.pc (who b k)
  else
    (s.dropStrand b k).updLaunch st.lid (fun L =>
      if ready then { L.list { c with fired := true, firedAt := L.fireSeq } with fireSeq := L.fireSeq + 1 }
      else ({ L with conts := L.conts ++ [c] }).fire (fun d => d.isOwner st.ownerBent st.ownerSlot && !d.st.pend.isEmpty))

/-! ### Records as bytes (R264, R265) -/

/-- The bits of a list as a number, the first in bit 0. -/
def bitsNat (l : List Bool) : Nat := (l.zipIdx.map (fun x => if x.1 then 2 ^ x.2 else 0)).sum

/-- R264: the 8 bytes of an f register: value and count. -/
def fBytes (v : FVal) : List Byte := leBytes 4 v.v.toNat ++ leBytes 4 v.c.toNat

def Loop.bytes (l : Loop) : List Byte := leBytes 8 l.start.toNat ++ leBytes 8 l.stop.toNat ++ leBytes 8 l.remaining.toNat

/-- R264: the REGS slots and the poison flags of the registers that a live mask names. -/
def Strand.regSlots (st : Strand) (live : BitVec 48) : List (List Byte × Bool) :=
  ((List.range 32).filter (fun n => live.getLsbD n)).map (fun n => (leBytes 8 (st.x.toList.getD n 0).toNat, st.px.toList.getD n false))
    ++ ((List.range 16).filter (fun n => live.getLsbD (32 + n))).map (fun n =>
      (fBytes (st.f.toList.getD n FVal.zero), st.pf.toList.getD n false))

/-- R264: CREG and LOOPACT. -/
def cregByte (c : Vector Bool 8) : List Byte := leBytes 1 (bitsNat (false :: c.toList.drop 1))
def loopAct (l : Vector Loop 2) : List Byte := leBytes 1 (bitsNat (l.toList.map Loop.active))

/-- R264: the 256 bytes of a continuation record. -/
def Strand.contRecord (st : Strand) (live : BitVec 48) (waitOn : Word) : List Byte :=
  let slots := st.regSlots live
  let pend := match st.firstPend with | some p => p.cause.toNat | none => 0
  padTo 256 0
    (leBytes 8 st.pc.toNat ++ leBytes 8 live.toNat ++ padTo 128 0 (slots.flatMap Prod.fst)
      ++ leBytes 2 (bitsNat (slots.map Prod.snd)) ++ cregByte st.c ++ leBytes 1 st.phs.toNat ++ leBytes 4 st.sxcfg.toNat
      ++ leBytes 8 st.wid.toNat ++ leBytes 2 st.round.toNat ++ leBytes 1 st.fpmode.toNat ++ leBytes 1 st.sigth.toNat
      ++ leBytes 1 st.sigen.toNat ++ loopAct st.loops ++ leBytes 2 pend ++ leBytes 8 st.trapvec.toNat
      ++ st.loops.toList.flatMap Loop.bytes ++ leBytes 8 waitOn.toNat ++ leBytes 4 (who st.ownerBent st.ownerSlot))

/-- R265: registers and their poison flags in the layout of bytes 256 to 639. -/
def regBytes (x : Vector Word 32) (f : Vector FVal 16) (px : Vector Bool 32) (pf : Vector Bool 16) : List Byte :=
  (x.toList.drop 1).flatMap (fun v => leBytes 8 v.toNat) ++ f.toList.flatMap fBytes
    ++ leBytes 8 (bitsNat (px.toList.drop 1 ++ [false] ++ pf.toList))

/-- R265: the cause of the pending trap of a VX tenon of the strand's bent, by region index. -/
def Strand.pendVx (st : Strand) (n : Nat) : Nat :=
  match st.pend.find? (fun p => match p.tenon with | some (key, _) => key / 256 == n | none => false) with
  | some p => p.cause.toNat
  | none => 0

/-- R265: the 1,152 bytes of a full strand record. -/
def Strand.fullRecordOn (st : Strand) (waitOn : Word) : List Byte :=
  let again := match st.saved with | some fr => (fr.significance && fr.tenon.isNone) || fr.suppress | none => false
  let trapped : List Byte := match st.saved with
    | none => List.replicate 456 0
    | some fr => regBytes fr.x fr.f fr.px fr.pf ++ cregByte fr.c ++ leBytes 1 fr.fpmode.toNat ++ loopAct fr.loops
        ++ List.replicate 5 0 ++ fr.loops.toList.flatMap Loop.bytes ++ List.replicate 16 0
  st.contRecord 0 waitOn ++ regBytes st.x st.f st.px st.pf ++ leBytes 2 st.trapcause.toNat
    ++ leBytes 1 (bitsNat [st.inHandler, again]) ++ leBytes 1 (bitsNat [st.pend.any (fun p => p.cause == 0x0021 && p.tenon.isNone)])
    ++ leBytes 4 (bitsNat ((List.range 4).map (fun n => st.pendVx n != 0))) ++ leBytes 8 st.trappc.toNat
    ++ (List.range 4).flatMap (fun n => leBytes 2 (st.pendVx n)) ++ st.siglog.toList.flatMap (fun v => leBytes 8 v.toNat) ++ trapped

def Strand.fullRecord (st : Strand) : List Byte := st.fullRecordOn 0

/-- R264: the record of a parked strand. One that an overflowing `ldfe` saved (R148) keeps every register, for which a record of
256 bytes has no room: it stands as a full strand record (DESIGN CHOICE, log entry 49). -/
def Cont.bytes (c : Cont) : List Byte :=
  if c.live = BitVec.allOnes 48 then c.st.fullRecordOn c.waitOn else c.st.contRecord c.live c.waitOn

/-- R264: the continuation store of a launch: its records one after another, the rest zero. -/
def Launch.contStore (L : Launch) : List Byte :=
  padTo (256 * L.cstore) 0 ((L.conts ++ L.readyList).flatMap Cont.bytes)

/-- R265, R345: the full strand records that a pre-empted launch's save holds. -/
def Launch.savedRecords (L : Launch) : List (List Byte) :=
  (NMap.vals L.savedBents).flatMap (fun B => (NMap.vals B.strands).map Strand.fullRecord)

/-- R265, R368: the full strand records of a launch's checkpoint store. -/
def Launch.checkpoints (L : Launch) : List (List Byte) := (L.cutStrands ++ L.strandMarks).map (fun m => m.st.fullRecord)

/-- The strand of an OWNER, in a slot or parked, for what is in flight for it. -/
def State.slotOrCont (s : State) (b k : Nat) (ok : Strand → Bool) : Option (Bool × Strand) :=
  match (s.strand? b k).filter ok with
  | some st => some (true, st)
  | none =>
    match (s.bent b).launch with
    | none => none
    | some lid =>
      let L := s.launch lid
      ((L.conts ++ L.readyList).find? (fun c => c.isOwner b k && ok c.st)).map (fun c => (false, c.st))

/-- That strand written back. -/
def State.putSlotOrCont (s : State) (b k : Nat) (inSlot : Bool) (st : Strand) : State :=
  if inSlot then s.setStrand b k st
  else
    s.updLaunch st.lid (fun L =>
      { L with
        conts := L.conts.map (fun c => if c.isOwner b k then { c with st := st } else c)
        readyList := L.readyList.map (fun c => if c.isOwner b k then { c with st := st } else c) })

end Sys2Proof.Machine
end

