-- ==== Sys2Proof/Machine/Amo.lean ====
section
/-! DEFINITION. Read-modify-writes (R150, R154, R245), full/empty granules (R146 to R148), and memory operations as
they are performed at their places (R139 to R149). -/

namespace Sys2Proof.Machine

/-! ### R150: the new value -/

/-- The value that an atomic operation leaves where w bits held m; `e` is the expected value of `cas`. -/
def amoNew (aop w : Nat) (m b e : Nat) : Nat :=
  let s (n : Nat) : Int := signedOf w n
  match aop with
  | 0 => b
  | 1 => if m = e then b else m
  | 2 => (m + b) % 2 ^ w
  | 3 => (f32 (Ex.add (val32 (BitVec.ofNat 32 m)) (val32 (BitVec.ofNat 32 b)) .rne) .rne).toNat
  | 4 => m &&& b
  | 5 => m ||| b
  | 6 => m ^^^ b
  | 7 => if s b < s m then b else m
  | 8 => if s m < s b then b else m
  | 9 => Nat.min m b
  | _ => Nat.max m b

/-- R150: whether the old value is zero-extended to X[D]. -/
def amoZext (aop : Nat) : Bool := aop == 3 || aop == 9 || aop == 10

/-- One read-modify-write of n bytes: R154 for a poisoned location; a poisoned operand is written poisoned (R245).
The old bytes and their poison are returned; releases that stand at the location stay (log entry 48). -/
def State.rmw (s : State) (w : Writer) (loc n aop : Nat) (b e : Nat) (bpois : Bool) : State × List Byte × Bool :=
  let old := Memory.getBytes s.mem loc n
  if s.poisonedAt loc n then (s, old, true)
  else
    let v := amoNew aop (8 * n) (leNat old) (b % 2 ^ (8 * n)) (e % 2 ^ (8 * n))
    let t := s.write w loc (leBytes n v) bpois
    (t.updLaunch w.lid (fun L => { L with syncs := (s.launch w.lid).syncs }), old, false)

/-! ### Granules (R142, R146 to R148) -/

def State.granule (s : State) (loc : Nat) : Granule :=
  match spadOf loc with
  | some (b, off) => (s.bent b).granule (off / 32)
  | none => {}

def State.updGranule (s : State) (loc : Nat) (f : Granule → Granule) : State :=
  match spadOf loc with
  | some (b, off) => s.updBent b (fun B => { B with granules := NMap.modify B.granules (off / 32) {} f })
  | none => s

/-- The storage address of the granule of a scratchpad address. -/
def granuleBase (loc : Nat) : Nat := loc / 32 * 32

/-- What a continuation waits for (R148, R187): a granule, or a completion word in scratchpad. -/
def granuleKey (loc : Nat) : Nat := 2 * granuleBase loc + 1
def wordKey (loc : Nat) : Nat := 2 * loc

/-- An acquire that reads at objects has learnt what their releases tell (R139, R281). -/
def State.learn (s : State) (o : MemOp) (objs : List Nat) : MemOp :=
  let L := s.launch o.writer.lid
  if L.det && o.acq then { o with seen := o.seen.join (L.observed o.scope o.writer.key o.writer.bent objs) } else o

/-- The objects that an operation reads as it takes its data: its bytes, of `ldt` the tag byte, of `ldfe` the full granule too. -/
def MemOp.objects (o : MemOp) : List Nat :=
  match o.kind with
  | .ldt => (if o.half.isSome then [] else objBytes o.loc o.size) ++ objBytes o.tagLoc 1
  | .ldfe => objBytes o.loc o.size ++ [objFull o.loc]
  | _ => objBytes o.loc o.size

/-- An operation with its data, and with the releases that it observed. -/
def State.take (s : State) (o : MemOp) (v : List Byte × Bool) : MemOp := { s.learn o o.objects with got := some v }

/-- R147: a deferred reader gets its own bytes of the granule. -/
def Strand.release (st : Strand) (s : State) (id : Nat) : Strand :=
  { st with ops := st.ops.map (fun o =>
      if o.id = id ∧ o.parked = true then { s.take o (s.read o.loc o.size) with parked := false } else o) }

/-- R147: FE set to 1: every deferred reader of the granule has its data, and continuations that wait on it their
event (R148). -/
def State.fill (s : State) (lid loc : Nat) : State :=
  match spadOf loc with
  | none => s
  | some (b, off) =>
    let g := off / 32
    let B := s.bent b
    let readers := B.deferred.filter (fun d => d.1 == g)
    let s1 := readers.foldl (fun t d =>
      match t.strand? b d.2.1 with
      | some st => t.setStrand b d.2.1 (st.release s d.2.2)
      | none => t) s
    let s2 := s1.updBent b (fun B =>
      { B with
        deferred := B.deferred.filter (fun d => d.1 != g)
        granules := NMap.modify B.granules g {} (fun x => { x with fe := true, npr := 0 }) })
    s2.updLaunch lid (fun L => L.fire (fun c => c.waitLoc == some (granuleKey loc)))

/-! ### Performing an operation -/

/-- R339, R341: what a load reads, with its poison. -/
def State.readVia (s : State) (o : MemOp) : List Byte × Bool :=
  match o.path with
  | .image _ i => (s.bytesVia (s.launch o.writer.lid).part (some i) o.loc o.size, s.poisonedAt o.loc o.size)
  | _ => s.read o.loc o.size

/-- The data of a load: of `ldt` the value's bytes, read before, and its tag byte (R51, R145). -/
def State.readOp (s : State) (o : MemOp) : List Byte × Bool :=
  match o.kind with
  | .ldt =>
    let v := o.half.getD (s.read o.loc o.size)
    let g := s.read o.tagLoc 1
    (v.1 ++ g.1, v.2 || g.2)
  | .ldnb => if (s.granule o.loc).fe then s.read o.loc o.size else ([], false)
  | _ => s.readVia o

/-- R319: a write translated before the slots of a queue became the command processor's, and that would change them. -/
def State.barred (s : State) (o : MemOp) (loc n : Nat) : Bool :=
  match o.path with
  | .channel _ => s.meetsQueue loc n
  | _ => false

/-- R139: bytes written by a store: a release stands at them. Those in the slots of an enabled queue stay as appended (DESIGN CHOICE,
log entry 49). -/
def State.putBytes (s : State) (o : MemOp) (loc : Nat) (bytes : List Byte) : State :=
  if s.barred o loc bytes.length then s
  else if o.rel then s.writeRel o.writer o.scope loc bytes o.dpois else s.write o.writer loc bytes o.dpois

/-- R51, R145: the first part of `ldt` or `stt`, that of the value. -/
def State.firstHalf (s : State) (o : MemOp) : State × MemOp :=
  match o.kind with
  | .stt => (s.putBytes o o.loc o.data, { o with half := some ([], false) })
  | _ => (s, { s.learn o (objBytes o.loc o.size) with half := some (s.read o.loc o.size) })

/-- R51, R145: whether an operation has its first part still before it. -/
def MemOp.whole (o : MemOp) : Bool := (o.kind == .ldt || o.kind == .stt) && o.half.isNone

/-- R140, R145, R147: a store performed, of `stt` its tag byte, and what a release leaves (R139, R146). -/
def State.writeOp (s : State) (o : MemOp) : State :=
  match o.kind with
  | .stt => s.putBytes o o.tagLoc (o.expected.take 1)
  | .stfe true => (((s.putBytes o o.loc o.data).leave o.writer o.scope false [objFull o.loc])).fill o.writer.lid o.loc
  | .stfe false => (s.recordUndo o.writer o.loc 1).updGranule o.loc (fun g => { g with fe := false })
  | _ => s.putBytes o o.loc o.data

/-- R140, R145, R149, R150: the value that returns to a register. -/
def loadValue (t : ITy) (bytes : List Byte) : Word :=
  if bytes.isEmpty then BitVec.allOnes 64 else extend t ((leNat bytes : Nat) : Int)

def loadTagged (bytes : List Byte) : FVal :=
  let v : Word32 := BitVec.ofNat 32 (leNat (bytes.take 4))
  let g := (bytes.getD 4 0).toNat % 32
  FVal.mk' v (if (val32 v).isFinite then Nat.min g 24 else 0)

/-- The data of a load entry written to its register, and to the register saved at a trap entry that came between
(log entry 13). -/
def Strand.deliver (st : Strand) (o : MemOp) (bytes : List Byte) (p : Bool) : Strand :=
  match o.dest with
  | .none => st
  | .x d t =>
    let v := loadValue t bytes
    let st1 := st.wxp d v p
    if o.preTrap && d != 0 then
      { st1 with saved := st1.saved.map (fun fr =>
          { fr with x := fr.x.set d.toNat v d.isLt, px := fr.px.set d.toNat p d.isLt }) }
    else st1
  | .f d =>
    let v := loadTagged bytes
    let st1 := st.wfp d v p
    if o.preTrap then
      { st1 with saved := st1.saved.map (fun fr =>
          { fr with f := fr.f.set d.toNat v d.isLt, pf := fr.pf.set d.toNat p d.isLt }) }
    else st1

def Strand.dropOp (st : Strand) (id : Nat) : Strand := { st with ops := st.ops.filter (fun o => o.id != id) }
def Strand.setOp (st : Strand) (o : MemOp) : Strand :=
  { st with ops := st.ops.map (fun p => if p.id = o.id then o else p) }
def Strand.addOp (st : Strand) (o : MemOp) : Strand :=
  { st with ops := st.ops ++ [{ o with id := st.nextOp }], nextOp := st.nextOp + 1 }

/-! ### Atomics held by an HBM channel's atomic unit (R152, R314) -/

/-- An update held: its launch, its address and whether it is spilled. -/
structure HeldAt where
  lid : Nat
  addr : Nat
  round : BitVec 16
  spilled : Bool
  deriving DecidableEq, Repr, Inhabited

/-- The atomics that a channel's unit holds, of every launch. -/
def State.channelHeld (s : State) (c : Nat) : List HeldAt :=
  s.bents.flatMap (fun e => e.2.strands.flatMap (fun q =>
    (q.2.ops.filter (fun o => o.held && !o.done && o.path == .channel c)).map (fun o => ⟨q.2.lid, o.loc, o.round, o.spilled⟩)))

/-- R152: whether an address has spilled updates of a round: a later one goes straight to the spill area. -/
def straight (held : List HeldAt) (addr : Nat) (round : BitVec 16) : Bool :=
  held.any (fun h => h.addr == addr && h.round == round && h.spilled)

/-- R152: whether an arriving update spills: straight, or because all 16 entries are taken. -/
def arriveSpills (held : List HeldAt) (addr : Nat) (round : BitVec 16) : Bool :=
  straight held addr round || decide (16 ≤ (held.filter (fun h => !h.spilled)).length)

/-- R152: the spilled updates of a launch once an update has spilled, alone or with those held at its address. -/
def spilledAfter (held : List HeldAt) (lid addr : Nat) (round : BitVec 16) : Nat :=
  (held.filter (fun h => h.lid == lid && (h.spilled || (h.addr == addr && !straight held addr round)))).length + 1

/-- R152, R314: the spilled updates that an area holds at one time. -/
def Launch.spillRoom (L : Launch) : Nat := L.detspill / 32

/-- The HBM of a partition that placed and saved launches take (R326, R344). -/
def State.hbmUsed (s : State) (p : Nat) : Nat :=
  ((s.launches.filter (fun l => l.2.part == p)).map (fun l => l.2.hbm + l.2.saved)).sum

/-- R314: a channel of another partition has no spill area of the launch yet. -/
def Launch.needsArea (L : Launch) (c : Nat) : Bool := c / 48 != L.part && !L.spillAreas.contains c

/-- R314: the area that a channel obtains when it first spills for the launch. -/
def Launch.obtain (L : Launch) (c : Nat) : Launch :=
  if L.needsArea c then { L with hbm := L.hbm + L.detspill, spillAreas := L.spillAreas ++ [c] } else L

/-- R152, R314: a spill at a channel finds no room, or no HBM for its area. -/
def State.noRoom (s : State) (lid c spilled : Nat) : Bool :=
  let L := s.launch lid
  decide (L.spillRoom < spilled) || (L.needsArea c && decide (partBytes < s.hbmUsed L.part + L.detspill))

/-- Every strand of a launch changed. -/
def State.mapStrands (s : State) (lid : Nat) (f : Strand → Strand) : State :=
  (s.regionOf lid).foldl (fun t b =>
    t.updBent b (fun B => { B with strands := B.strands.map (fun e => if e.2.lid = lid then (e.1, f e.2) else e) })) s

/-- R152: the updates of one address at one channel spill. -/
def spillAddr (c addr : Nat) (st : Strand) : Strand :=
  { st with ops := st.ops.map (fun o =>
      if o.held && o.path == .channel c && o.loc == addr then { o with spilled := true } else o) }

/-- R152: a `.det` atomic arrives at its channel's unit. -/
def State.holdAtom (s : State) (b k : Nat) (st : Strand) (o : MemOp) (c : Nat) : State :=
  let held := s.channelHeld c
  let spill := arriveSpills held o.loc o.round
  let s1 := s.setStrand b k (st.setOp { o with held := true, spilled := spill })
  if spill then
    if s.noRoom st.lid c (spilledAfter held st.lid o.loc o.round) then s1.launchFault st.lid 0x07 0 0 0
    else
      let s2 := s1.updLaunch st.lid (fun L => L.obtain c)
      if straight held o.loc o.round then s2 else s2.mapStrands st.lid (spillAddr c o.loc)
  else s1

/-- R368: an update once applied is not applied again: checkpoints that hold its entry have its old value too. -/
def Launch.keepGot (L : Launch) (st : Strand) (id : Nat) (v : List Byte × Bool) : Launch :=
  let f (m : StrandMark) : StrandMark :=
    if m.st.ownerBent = st.ownerBent ∧ m.st.ownerSlot = st.ownerSlot then
      { m with st := { m.st with ops := m.st.ops.map (fun o => if o.id = id then { o with got := some v } else o) } }
    else m
  { L with cutStrands := L.cutStrands.map f, strandMarks := L.strandMarks.map f }

/-- R142: an operation at the time that it writes: its strand's PHS by then. -/
def MemOp.by (o : MemOp) (st : Strand) : MemOp := { o with writer := { o.writer with phs := st.phs } }

/-- R150: an atomic of a strand applied: its entry has the old value, and a release stands at its location; slots of an enabled queue
stay as appended (DESIGN CHOICE, log entry 49). -/
def State.applyAtom (s : State) (b k : Nat) (st : Strand) (o : MemOp) (aop : Nat) : State :=
  let r := if s.barred o o.loc o.size then (s, s.read o.loc o.size) else s.rmw (o.by st).writer o.loc o.size aop (leNat o.data) (leNat o.expected) o.dpois
  let s1 := if o.rel && !r.2.2 then r.1.leave o.writer o.scope true (objBytes o.loc o.size) else r.1
  (s1.updLaunch st.lid (fun L => L.keepGot st o.id (r.2.1, r.2.2))).setStrand b k (st.setOp (s.take o (r.2.1, r.2.2)))

end Sys2Proof.Machine
end

