-- ==== Sys2Proof/Machine/Access.lean ====
section
/-! DEFINITION. Loads, stores, tagged and full/empty accesses, atomics, and their completions (R136 to R155). -/

namespace Sys2Proof.Machine

/-- A memory instruction once its source registers are ready. -/
structure MemReq where
  kind : MemKind
  acc : Accepts
  write : Bool
  ea : Word
  size : Nat
  sc : Scope
  acq : Bool := false
  rel : Bool := false
  /-- R143: whether it undergoes the race check -/
  checked : Bool := false
  dest : Dest := .none
  data : List Byte := []
  dpois : Bool := false
  expected : List Byte := []
  deriving DecidableEq, Repr, Inhabited

/-- R136: the effective address. -/
def Strand.ea (st : Strand) (a : XReg) (off : BitVec 7) (size : Nat) : Word :=
  st.rx a + BitVec.ofInt 64 (off.toInt * (size : Int))

/-- R145: the buffer whose front range holds an address, and the offset in it. -/
def Launch.frontOf (L : Launch) (sp : Space) : Option (Buffer × Nat) :=
  match sp with
  | .own off => (L.bufs.find? (fun p => p.2.spad && inRange p.2.boff p.2.bytes off)).map (fun p => (p.2, off - p.2.boff))
  | .dev va => (L.devBuffer va).map (fun p => (p.2, va - (L.bufva.toNat + p.2.boff)))
  | _ => none

/-- R145: the tag byte of an element at a buffer offset, or why there is none; a scratchpad plane is not swapped
(R329). -/
def State.tagAccess (s : State) (b k : Nat) (st : Strand) (write : Bool) (ea : Word) : Acc :=
  let L := s.launch st.lid
  let sp := spaceOf b ea
  match L.frontOf sp with
  | none => .trap 0x0001 s
  | some (B, o) =>
    if B.tagged = false then .trap 0x0001 s
    else
      let off := B.boff + B.tagOff + o / Nat.max B.width 1
      match sp with
      | .own _ => .ok (spadAddr b (off % 2 ^ 22)) (.sill (sillOf off)) none
      | _ => s.accessVa b k st false write (L.bufva.toNat + off)

/-- R145: whether a kind moves a tag byte. -/
def MemKind.isTagged : MemKind → Bool
  | .ldt | .stt => true
  | _ => false

/-- Both places of an access: that of the data, and of the tag byte for `ldt` and `stt` (else the same). -/
inductive Acc2 where
  | trap (cause : BitVec 16) (t : State)
  | wait (t : State) (w : Wait)
  | ok (loc : Nat) (path : Path) (bound : Option (Nat × Bool)) (tag : Nat)
  deriving DecidableEq, Repr, Inhabited

/-- R145: the checks of both places, the tag byte's first: an address in the second range of a buffer, which both R145 and R329 fault,
takes the cause of the tag plane (DESIGN CHOICE, log entry 47). -/
def State.access2 (s : State) (b k : Nat) (st : Strand) (r : MemReq) : Acc2 :=
  let data := s.access b k st r.acc r.write r.ea r.size
  if r.kind.isTagged then
    if r.ea.toNat % r.size ≠ 0 then .trap 0x0002 s
    else if spaceOf b r.ea = .bad then .trap 0x0004 s
    else
      match s.tagAccess b k st r.write r.ea, data with
      | .trap c t, _ => .trap c t
      | _, .trap c t => .trap c t
      | .wait t w, _ => .wait t w
      | _, .wait t w => .wait t w
      | .ok tag _ _, .ok loc p bd => .ok loc p bd tag
  else
    match data with
    | .trap c t => .trap c t
    | .wait t w => .wait t w
    | .ok loc p bd => .ok loc (if r.kind.isAmo then (match p with | .sill _ => .at | q => q) else p) bd loc

/-- The entry of an instruction that issues. -/
def MemReq.op (r : MemReq) (st : Strand) (w : Writer) (loc : Nat) (path : Path) (bound : Option (Nat × Bool)) (tag : Nat) :
    MemOp :=
  { id := st.nextOp, kind := r.kind, path := path, loc := loc, size := r.size, data := r.data, dpois := r.dpois
    expected := r.expected, dest := r.dest, tagLoc := tag, scope := r.sc, acq := r.acq, rel := r.rel, round := st.round
    bound := bound, writer := w }

/-- R138, R312: the entry an instruction needs. -/
def State.withEntry (s : State) (b k : Nat) (st : Strand) (load : Bool) (body : Out) : Out :=
  if load then
    if st.loads.length < 16 then body
    else if (s.launch st.lid).det && st.loads.all st.stuck then .next (s.trap b k st 0x0001)
    else .next (s.park b k st .loadEntry)
  else s.holdUntil b k st .storeEntry body

/-- R142, R143: granules whose shadow word names a write that a sill has taken and not yet performed. -/
def State.markWrite (s : State) (w : Writer) (loc n : Nat) : State :=
  match spadOf loc with
  | some (b, off) => (s.recordUndo w loc n).updBent b (fun B => B.shadowWrite off n w)
  | none => s

/-- R143, R145, R279: a race-checked scratchpad access is checked as it comes to its sills, behind the strand's earlier accesses
there, at both granules of `ldt` and `stt`; the next instruction issues once the check has returned, and the sills perform the access
later. From the check on, a write counts as the granule's latest (DESIGN CHOICE, log entry 22). -/
def State.checkedAccess (s : State) (b k : Nat) (st : Strand) (o : MemOp) : Out :=
  match o.path with
  | .sill _ =>
    s.holdUntil b k st (.sillOrder o.sills)
      (if s.races b k st o.loc o.size || (o.kind.isTagged && s.races b k st o.tagLoc 1) then .next (s.trap b k st 0x0030)
       else if o.kind.isLoad then .next (s.setStrand b k (st.addOp o).next)
       else .next ((o.ranges.foldl (fun t r => t.markWrite o.writer r.1 r.2) s).setStrand b k (st.addOp o).next))
  | _ => .next (s.setStrand b k (st.addOp o).next)

/-- The access sent on its way; an `ldfe` waits for its data (R146). -/
def State.sendAccess (s : State) (b k : Nat) (st : Strand) (r : MemReq) (o : MemOp) : Out :=
  let s1 := if r.rel then s.tick st.lid o.writer.key else s
  if r.checked then s1.checkedAccess b k st o
  else if r.kind = .ldfe then .next (s1.setStrand b k { st.addOp o with state := .waiting (.deferred o.id) })
  else .next (s1.setStrand b k (st.addOp o).next)

/-- R136 to R144, R153, R280: a memory instruction from its checks to its sending. -/
def State.memIssue (s : State) (b k : Nat) (st : Strand) (r : MemReq)
    (send : State → Nat → Nat → Strand → MemReq → MemOp → Out) : Out :=
  s.afterAcquire b k st
    (match s.access2 b k st r with
     | .trap c t => .next (t.trap b k st c)
     | .wait t w => .next (t.park b k st w)
     | .ok loc path bound tag =>
       s.withEntry b k st r.kind.isLoad
         (let o := r.op st (s.writer b k st) loc path bound tag
          s.holdAtoms b k st (.overlap o.ranges path) (st.crossing o.ranges path)
            (if r.rel then s.afterAll b k st r.sc (send s b k st r o) else send s b k st r o)))

def isAcq : Order → Bool
  | .acq | .acqrel => true
  | _ => false
def isRel : Order → Bool
  | .rel | .acqrel => true
  | _ => false

/-- R143: the accesses that are race-checked. -/
def raceChecked (sc : Scope) (o : Order) : Bool := sc == .strand && o == .rlx

def allSpaces : Accepts := ⟨true, true⟩
def ownOnly : Accepts := ⟨false, false⟩
def noHost : Accepts := ⟨true, false⟩

def execLd (d a : XReg) (sc : Scope) (o : Order) (t : ITy) (off : BitVec 7) (s : State) : Out :=
  s.issue { rx := [a], wx := [d] } (fun b k st =>
    s.memIssue b k st
      { kind := .load, acc := allSpaces, write := false, ea := st.ea a off (tySize t), size := tySize t, sc := sc
        acq := isAcq o, checked := raceChecked sc o, dest := .x d t } State.sendAccess)

/-- The low bytes of a register as a store's data. -/
def Strand.storeBytes (st : Strand) (d : XReg) (n : Nat) : List Byte := leBytes n (st.rx d).toNat

def execSt (d a : XReg) (sc : Scope) (o : Order) (t : ITy) (off : BitVec 7) (s : State) : Out :=
  if tySigned t then
    s.issue { rx := [a], dx := [d] } (fun b k st =>
      s.memIssue b k st
        { kind := .store, acc := allSpaces, write := true, ea := st.ea a off (tySize t), size := tySize t, sc := sc
          rel := isRel o, checked := raceChecked sc o, data := st.storeBytes d (tySize t), dpois := st.poisonX d }
        State.sendAccess)
  else s.issue {} (fun b k st => .next (s.trap b k st 0x0001))

def execLdt (d : FReg) (a : XReg) (sc : Scope) (o : Order) (off : BitVec 7) (s : State) : Out :=
  s.issue { rx := [a], wf := [d] } (fun b k st =>
    s.memIssue b k st
      { kind := .ldt, acc := allSpaces, write := false, ea := st.ea a off 4, size := 4, sc := sc, acq := isAcq o
        checked := raceChecked sc o, dest := .f d } State.sendAccess)

/-- R145: `stt`; the tag byte is kept in `expected` until it is written. -/
def execStt (d : FReg) (a : XReg) (sc : Scope) (o : Order) (off : BitVec 7) (s : State) : Out :=
  s.issue { rx := [a], df := [d] } (fun b k st =>
    s.memIssue b k st
      { kind := .stt, acc := allSpaces, write := true, ea := st.ea a off 4, size := 4, sc := sc, rel := isRel o
        checked := raceChecked sc o, data := leBytes 4 (st.rf d).v.toNat, dpois := st.poisonF d
        expected := [(st.rf d).c.zeroExtend 8] } State.sendAccess)

def execLdfe (d a : XReg) (sc : Scope) (t : ITy) (off : BitVec 7) (s : State) : Out :=
  s.issue { rx := [a], wx := [d] } (fun b k st =>
    s.memIssue b k st
      { kind := .ldfe, acc := ownOnly, write := false, ea := st.ea a off (tySize t), size := tySize t, sc := sc
        acq := true, dest := .x d t } State.sendAccess)

/-- R147: the release of `stfe`; D = 0 empties. -/
def execStfe (d a : XReg) (sc : Scope) (t : ITy) (off : BitVec 7) (s : State) : Out :=
  if tySigned t then
    s.issue { rx := [a], dx := [d] } (fun b k st =>
      s.memIssue b k st
        { kind := .stfe (d != 0), acc := ownOnly, write := true, ea := st.ea a off (tySize t), size := tySize t, sc := sc
          rel := true, data := st.storeBytes d (tySize t), dpois := st.poisonX d } State.sendAccess)
  else s.issue {} (fun b k st => .next (s.trap b k st 0x0001))

/-- R149: `ldnb` takes unsigned types only. -/
def ldnbType : ITy → Bool
  | .bu | .hu | .wu => true
  | .b | .h | .w | .d => false

def execLdnb (d a : XReg) (sc : Scope) (t : ITy) (off : BitVec 7) (s : State) : Out :=
  if ldnbType t then
    s.issue { rx := [a], wx := [d] } (fun b k st =>
      s.memIssue b k st
        { kind := .ldnb, acc := ownOnly, write := false, ea := st.ea a off (tySize t), size := tySize t, sc := sc
          dest := .x d t } State.sendAccess)
  else s.issue {} (fun b k st => .next (s.trap b k st 0x0001))

/-! ### Atomics (R150) -/

/-- R150: the destination of an atomic: sign-extended, or zero-extended by R150's table. -/
def amoDest (aop : Nat) (d : XReg) (w : Bool) : Dest := .x d (if w then .d else if amoZext aop then .wu else .w)

/-- An atomic of a strand at an HBM channel. -/
def amoReq (aop : Nat) (d : XReg) (st : Strand) (ea : Word) (b : XReg) (sc : Scope) (o : Order) (w : Bool) : MemReq :=
  let n := if w then 8 else 4
  { kind := .amo aop w, acc := noHost, write := true, ea := ea, size := n, sc := sc, acq := isAcq o, rel := isRel o
    dest := amoDest aop d w, data := leBytes n (st.rx b).toNat, expected := leBytes n (st.rx d).toNat }

/-! ### Completions -/

/-- R148: the readers parked at the sill of a granule. -/
def Bent.parkedAtSill (B : Bent) (off : Nat) : Nat :=
  (B.deferred.filter (fun d => sillOf (d.1 * 32) == sillOf off)).length

/-- R146, R148: an `ldfe` at its sill: with FE = 0 it parks, or its strand becomes a continuation when the sill's 64
places are taken. -/
def State.feRead (s : State) (b k : Nat) (st : Strand) (o : MemOp) : State :=
  if (s.granule o.loc).fe then s.setStrand b k (st.setOp (s.take o (s.readOp o)))
  else
    match spadOf o.loc with
    | none => s
    | some (sb, off) =>
      if (s.bent sb).parkedAtSill off < 64 then
        (s.setStrand b k (st.setOp { o with parked := true })).updBent sb (fun B =>
          { B with
            deferred := B.deferred ++ [(off / 32, k, o.id)]
            granules := NMap.modify B.granules (off / 32) {} (fun g => { g with npr := g.npr + 1 }) })
      else if st.inHandler then s.trap b k { st.dropOp o.id with state := .ready } 0x0001
      else if (st.loads.filter (fun p => p.id != o.id)).isEmpty then
        s.saveCont b k st
          { st := { st.dropOp o.id with state := .ready }, live := BitVec.allOnes 48
            waitOn := BitVec.ofNat 64 (2 ^ 63 + off / 32 * 32), waitLoc := some (granuleKey o.loc) } false
      else s

/-- The strand of an entry has observed the releases that its acquire saw (R139). -/
def State.acquired (s : State) (st : Strand) (seen : Clock) : State :=
  s.updLaunch st.lid (fun L => L.acquire (L.key st.ownerBent st.ownerSlot) seen)

/-- A load entry with its data: the register is written and the entry freed; an acquire takes effect (R139); an `ldfe`
goes on (R146). -/
def State.retireLoad (s : State) (b k : Nat) (st : Strand) (o : MemOp) (bytes : List Byte) (p : Bool) : State :=
  let s1 := if o.acq then s.acquired st o.seen else s
  let st1 := (st.deliver o bytes p).dropOp o.id
  if o.kind = .ldfe then s1.setStrand b k { st1.next with state := .ready } else s1.setStrand b k st1

/-- Whether an `ldfe` may take its data: its strand waits for it and is not in a handler that interrupted the wait. -/
def Strand.takesData (st : Strand) (o : MemOp) : Bool :=
  o.kind != .ldfe || st.state == .waiting (.deferred o.id)

/-- An entry of a strand retired with the data it has got by now. -/
def State.retireGot (s : State) (b k id : Nat) : State :=
  match s.strand? b k with
  | none => s
  | some st =>
    match st.ops.find? (fun p => p.id == id) with
    | none => s
    | some o =>
      match o.got with
      | some (bytes, p) => if st.takesData o then s.retireLoad b k st o bytes p else s
      | none => s

/-- R138 to R154: the data of a load, `ldt`, `ldfe`, `ldnb` or atomic returns; of `ldt` first the value is read, then the tag
byte (R51). -/
def State.loadReturn (s : State) (b k : Nat) (st : Strand) (o : MemOp) : State :=
  match o.got with
  | some (bytes, p) => if st.takesData o then s.retireLoad b k st o bytes p else s
  | none =>
    if st.mayPerform o.id = false ∨ o.parked = true then s
    else
      match s.foreignPage st.lid o with
      | some page => s.queueScrub page (s.launch st.lid).ctx
      | none =>
      match o.kind, o.path with
      | .ldfe, _ => (s.feRead b k st o).retireGot b k o.id
      | .ldt, _ =>
        if o.whole then s.setStrand b k (st.setOp (s.firstHalf o).2)
        else let r := s.readOp o; s.retireLoad b k st (s.take o r) r.1 r.2
      | .load, _ | .ldnb, _ => let r := s.readOp o; s.retireLoad b k st (s.take o r) r.1 r.2
      | .amo aop _, .channel c =>
        if (s.launch st.lid).det then (if o.held then s else s.holdAtom b k st o c)
        else (s.applyAtom b k st o aop).retireGot b k o.id
      | _, _ => s

/-- R138: the data of a load entry returns. -/
def execLoadReturn (b k id : Nat) (s : State) : Out :=
  match s.strand? b k with
  | none => .next s
  | some st =>
    match st.ops.find? (fun o => o.id == id && o.kind.isLoad) with
    | none => .next s
    | some o => .next (s.loadReturn b k st o)

/-- R138: the completion token of a store entry returns, the store having been performed; `stt` writes its value first (R51). -/
def execStoreCompletion (b k id : Nat) (s : State) : Out :=
  let mine (st : Strand) : Bool := st.ops.any (fun o => o.id == id && !o.kind.isLoad)
  match s.slotOrCont b k mine with
  | none => .next s
  | some (inSlot, st) =>
    match st.ops.find? (fun o => o.id == id && !o.kind.isLoad) with
    | none => .next s
    | some o =>
      if o.done then .next (s.putSlotOrCont b k inSlot (st.dropOp id))
      else if o.kind = .rst ∨ st.mayPerform id = false then .next s
      else
        match s.foreignPage st.lid o with
        | some page => .next (s.queueScrub page (s.launch st.lid).ctx)
        | none =>
          let p := o.by st
          if o.whole then (let r := s.firstHalf p; .next (r.1.putSlotOrCont b k inSlot (st.setOp r.2)))
          else .next ((s.putSlotOrCont b k inSlot (st.dropOp id)).writeOp p)

end Sys2Proof.Machine
end

