-- ==== Sys2Proof/Machine/Sync.lean ====
section
/-! DEFINITION. Fences, barriers and publish (R156 to R160), and what ends a strand's waiting (R156, R263). -/

namespace Sys2Proof.Machine

/-- R156, R157. -/
def execFence (sc : Scope) (s : State) : Out :=
  s.issue {} (fun b k st => s.afterAll b k st sc (.next (s.setStrand b k st.next)))

/-! ### Barriers -/

/-- R158: the descriptor of `bar.init`: level and parties. -/
def barDesc (x : Word) : Option (Nat × Nat) :=
  let n := x.toNat
  let level := n / 2 ^ 16 % 8
  let parties := n % 512
  if n / 2 ^ 19 ≠ 0 ∨ n / 2 ^ 9 % 128 ≠ 0 ∨ 6 ≤ level ∨ parties = 0 ∨ 384 < parties then none
  else some (level, parties)

/-- R158, R313. Counters stand by group number, so those of a group number used before LEVEL changed serve the group of that
number after it (DESIGN CHOICE, log entry 47). -/
def execBarInit (a : XReg) (_sc : Scope) (h : BitVec 8) (s : State) : Out :=
  s.command { rx := [a] } (fun b k st =>
    match barDesc (st.rx a) with
    | none => .next (s.trap b k st 0x0001)
    | some (level, parties) =>
      let old := NMap.get? (s.launch st.lid).bars h.toNat
      let groups := match old with
        | some B => B.groups
        | none => []
      if groups.any (fun g => g.2.2 != 0) then .next (s.trap b k st 0x0001)
      else
        .next ((s.updLaunch st.lid (fun L =>
          ({ L with bars := NMap.set L.bars h.toNat ⟨level, parties, groups⟩ }).logOp st.round
            (.barInit h.toNat level parties))).setStrand b k st.next))

/-- R158: a group's counter is created when it is first touched; a barrier that holds 64 groups holds no more. -/
def Barrier.touch (B : Barrier) (g : Nat) : Barrier :=
  if NMap.has B.groups g || decide (64 ≤ B.groups.length) then B else { B with groups := NMap.set B.groups g (0, 0) }

/-- R158: a group of a barrier touched by `bar.wait` or `bar.test`. -/
def State.touchBar (s : State) (st : Strand) (h g : Nat) (B : Barrier) : State :=
  if NMap.has B.groups g || decide (64 ≤ B.groups.length) then s
  else s.updLaunch st.lid (fun L => ({ L with bars := NMap.set L.bars h (B.touch g) }).logOp st.round (.barTouch h g))

/-- R159: an arrival of a group: the counter before it, and the barrier after it. -/
def Barrier.arrive (B : Barrier) (g : Nat) : BitVec 16 × Barrier :=
  let e := NMap.getD B.groups g (0, 0)
  let n := e.2 + 1
  (e.1, { B with groups := NMap.set B.groups g (if n = B.parties then (e.1 + 1, 0) else (e.1, n)) })

/-- R158: an arrival of a 65th group. -/
def Barrier.full (B : Barrier) (g : Nat) : Bool := decide (64 ≤ B.groups.length) && !NMap.has B.groups g

def Strand.group (st : Strand) (L : Launch) (B : Barrier) : Nat := groupOf L.widths B.level st.wid

/-- R159, R281: an arrival as a release at a scope; those of a phase that it completes stand at the completed phases. -/
def State.arriveClock (s : State) (b : Nat) (st : Strand) (sc : Scope) (h g : Nat) (done : Bool) : State :=
  let s1 := s.release b st sc (objBarOpen h g)
  if done then
    s1.updLaunch st.lid (fun L =>
      let old := NMap.getD L.syncs (objBarOpen h g) []
      { L with syncs := NMap.modify (NMap.erase L.syncs (objBarOpen h g)) (objBar h g) [] (fun l => l ++ old) })
  else s1

/-- R159: `bar.arrive`. -/
def execBarArrive (d : XReg) (sc : Scope) (h : BitVec 8) (s : State) : Out :=
  s.command { wx := [d] } (fun b k st =>
    let L := s.launch st.lid
    match NMap.get? L.bars h.toNat with
    | none => .next (s.trap b k st 0x0006)
    | some B =>
      let g := st.group L B
      if B.full g then .next (s.trap b k st 0x0001)
      else
        s.afterAll b k st sc
          (let r := B.arrive g
           .next (((s.updLaunch st.lid (fun L => ({ L with bars := NMap.set L.bars h.toNat r.2 }).logOp st.round
             (.barArrive h.toNat g))).arriveClock b st sc h.toNat g (r.2.counter g != r.1)).setStrand b k
             (st.wx d (r.1.zeroExtend 64)).next)))

/-- R142: PHS after a wait or a nonzero test of b0. -/
def Strand.phase (st : Strand) (h : BitVec 8) (ctr : BitVec 16) : Strand :=
  if h = 0 then { st with phs := ctr.extractLsb' 0 8 } else st

/-- R159: `bar.wait`. -/
def execBarWait (a : XReg) (sc : Scope) (h : BitVec 8) (s : State) : Out :=
  s.command { rx := [a] } (fun b k st =>
    let L := s.launch st.lid
    match NMap.get? L.bars h.toNat with
    | none => .next (s.trap b k st 0x0006)
    | some B =>
      let g := st.group L B
      let t := s.touchBar st h.toNat g B
      t.holdUntil b k st (.barrier h.toNat st.wid ((st.rx a).extractLsb' 0 16))
        (.next ((t.acquire b st sc [objBar h.toNat g]).setStrand b k (st.phase h (B.counter g)).next)))

/-- R159: `bar.test`. -/
def execBarTest (d a : XReg) (sc : Scope) (h : BitVec 8) (s : State) : Out :=
  s.command { rx := [a], wx := [d] } (fun b k st =>
    let L := s.launch st.lid
    match NMap.get? L.bars h.toNat with
    | none => .next (s.trap b k st 0x0006)
    | some B =>
      let g := st.group L B
      let n := B.counter g - (st.rx a).extractLsb' 0 16
      let st1 := st.wx d (n.zeroExtend 64)
      let t := s.touchBar st h.toNat g B
      if n = 0 then .next (t.setStrand b k st1.next)
      else .next ((t.acquire b st sc [objBar h.toNat g]).setStrand b k (st1.phase h (B.counter g)).next))

/-! ### Publish (R160) -/

/-- R160 step 2: the swap. -/
def Launch.swap (L : Launch) (bt : Nat) (round : BitVec 16) : Launch :=
  { L with
    bufs := NMap.modify L.bufs bt default (fun B => { B with swap := !B.swap })
    pubAfter := L.pubAfter ++ [bt]
    pubBy := NMap.erase L.pubBy bt
    publishes := L.publishes ++ [(round, bt)] }

def Launch.pubLeave (L : Launch) (st : Strand) (bt : Nat) : Launch :=
  { L with pubWait := removeFirst (fun w => w == (bt, st.ownerBent, st.ownerSlot)) L.pubWait }

/-- R189: the publish in progress is a command of a strand. -/
def Launch.pubOwner (L : Launch) (st : Strand) (bt : Nat) : Launch :=
  { L with pubBy := NMap.set L.pubBy bt (st.ownerBent, st.ownerSlot) }

def Launch.pubJoin (L : Launch) (st : Strand) (bt : Nat) : Launch :=
  if L.pubWait.contains (bt, st.ownerBent, st.ownerSlot) then L
  else { L with pubWait := L.pubWait ++ [(bt, st.ownerBent, st.ownerSlot)] }

/-- R160, R392: a publish follows what the strand's walks, drains and Scarf commands wrote into the shadow. -/
def Launch.afterShadow (L : Launch) (b : Nat) (st : Strand) (bt : Nat) : Launch :=
  let key := L.key st.ownerBent st.ownerSlot
  L.acquire key (((NMap.getD L.syncs (objShadow bt) []).filter (fun r => r.key == key)).foldl
    (fun c r => c.join (r.learnt .region key b)) {})

/-- R160: `publish`. -/
def execPublish (h : BitVec 8) (s : State) : Out :=
  s.command {} (fun b k st =>
    let L := s.launch st.lid
    let bt := h.toNat
    match NMap.get? L.bufs bt with
    | none => .next (s.trap b k st 0x0006)
    | some B =>
      if B.shadow = false then .next (s.trap b k st 0x0001)
      else if s.cleared b k st (.shadowWrites bt) then
        .next (((s.updLaunch st.lid (fun L =>
          (((L.afterShadow b st bt).pubLeave st bt).swap bt st.round).pubOwner st bt)).release b st .device (objBuf bt)).setStrand b k
          st.next)
      else .next ((s.updLaunch st.lid (fun L => L.pubJoin st bt)).park b k st (.shadowWrites bt)))

/-- R160 step 3: an access bound to the backing that was the front: of a strand, a walk, or an update that an AT holds. -/
def State.boundTo (s : State) (lid bt : Nat) (which : Bool) : Bool :=
  let L := s.launch lid
  let st (x : Strand) : Bool := x.ops.any (fun o => !o.done && o.bound == some (bt, which))
  (s.strandsOf lid).any (fun e => st e.2.2) || (L.conts ++ L.readyList).any (fun c => st c.st)
    || (s.walksOf lid).any (fun w => w.2.2.bindings.contains (bt, which))
    || (s.regionOf lid).any (fun b => (s.bent b).held.any (fun h => h.bound == some (bt, which)))

/-! ### The end of a wait -/

/-- R156: every token of a fence (or of a release) has returned: the strand issues it again and it completes. -/
def execFenceComplete (b k : Nat) (s : State) : Out :=
  match s.strand? b k with
  | none => .next s
  | some st =>
    match st.state with
    | .waiting (.performed sc) =>
      if s.cleared b k st (.performed sc) then .next (s.setStrand b k { st with state := .ready }) else .next s
    | _ => .next s

/-- R263: a waiting strand whose condition has cleared is ready. -/
def execStrandWake (b k : Nat) (s : State) : Out :=
  match s.strand? b k with
  | none => .next s
  | some st =>
    match st.state with
    | .waiting w => if s.cleared b k st w then .next (s.setStrand b k { st with state := .ready }) else .next s
    | _ => .next s

end Sys2Proof.Machine
end

