-- ==== Sys2Proof/Machine/Cells.lean ====
section
/-! DEFINITION. Cells from a strand: the descriptor and its checks (R76 to R78, R93, R162 to R166, R396), enqueuing
(R163, R246), scratchpad atomics as AT cells (R150), rendezvous entries and the sink (R168 to R171). -/

namespace Sys2Proof.Machine

/-! ### Addresses in a header (R78) -/

/-- R78: ADDR of an address, where it is representable. -/
def addrField (x : Word) : Option (BitVec 48) :=
  let n := x.toNat
  let sel := n / 2 ^ 60
  if sel = 0 ∨ sel = 10 then (if n / 2 ^ 44 % 2 ^ 16 = 0 then some (BitVec.ofNat 48 (sel * 2 ^ 44 + n % 2 ^ 44)) else none)
  else if sel = 8 then (if n / 2 ^ 22 % 2 ^ 38 = 0 then some (BitVec.ofNat 48 (sel * 2 ^ 44 + n % 2 ^ 22)) else none)
  else if sel = 9 then
    (if n / 2 ^ 22 % 2 ^ 30 = 0 ∧ n / 2 ^ 52 % 256 < 192 then
       some (BitVec.ofNat 48 (sel * 2 ^ 44 + n / 2 ^ 52 % 256 * 2 ^ 36 + n % 2 ^ 22))
     else none)
  else none

/-- R78: what ADDR names, seen from bent b. -/
def addrSpace (b : Nat) (f : BitVec 48) : Space :=
  let n := f.toNat
  let sel := n / 2 ^ 44
  if sel = 0 then .dev (n % 2 ^ 44)
  else if sel = 8 then .own (n % 2 ^ 22)
  else if sel = 9 then (let t := n / 2 ^ 36 % 256; if t = b then .own (n % 2 ^ 22) else .named t (n % 2 ^ 22))
  else if sel = 10 then .host (n % 2 ^ 44)
  else .bad

/-! ### Descriptors (R162) and the checks of a header (R76, R93) -/

/-- R162: the header fields of a descriptor. -/
def descCell (d : Word) : Cell :=
  { dest := d.extractLsb' 0 16, code := d.extractLsb' 16 8, kind := d.extractLsb' 24 4, rvt := d.extractLsb' 28 5
    opix := d.extractLsb' 33 2, opcnt := d.extractLsb' 35 2, eor := bit d 37, eot := bit d 38
    fmt := d.extractLsb' 40 5, tag := bit d 45, len := d.extractLsb' 46 9, iqrec := bit d 55 }

/-- R162: ATARG. -/
def descAtarg (d : Word) : BitVec 5 := d.extractLsb' 56 5

/-- R162: the reserved bits, ATARG among them for every kind but AT. -/
def descReserved (d : Word) : Bool :=
  d.extractLsb' 61 3 != 0 || bit d 39 || (d.extractLsb' 24 4 != 6 && descAtarg d != 0)

/-- R77: the egresses that accept a kind. -/
def kindMask (k : BitVec 4) : BitVec 16 :=
  match k.toNat with
  | 0 => 0xB800
  | 1 => 0x000F
  | 2 => 0x00F0
  | 3 => 0x0100
  | 4 => 0x0200
  | 5 => 0x0400
  | 6 => 0x4000
  | _ => 0

/-- R76: the groups within which DEST may have several bits. -/
def inOneGroup (m : BitVec 16) : Bool :=
  m &&& ~~~(0x000F : BitVec 16) == 0 || m &&& ~~~(0x00F0 : BitVec 16) == 0 || m &&& ~~~(0x1800 : BitVec 16) == 0

/-- R52: whether TAG has effect, and the value bytes of a tagged format. -/
def taggedBytes (fmt : BitVec 5) : Option Nat :=
  match fmt.toNat with
  | 6 | 7 | 8 => some 192
  | 9 | 10 => some 160
  | _ => none

/-- R52: the width of a count field. -/
def countBits (fmt : BitVec 5) : Nat :=
  match fmt.toNat with
  | 6 => 5
  | 7 | 8 => 4
  | _ => 3

/-- R52: the count field of an element of a tagged payload. -/
def countField (fmt : BitVec 5) (payload : List Byte) (n : Nat) : Nat :=
  let w := countBits fmt
  leNat (payload.drop ((taggedBytes fmt).getD 0)) / 2 ^ (w * n) % 2 ^ w

/-- R52: count fields packed in element order. -/
def packCounts (w : Nat) (cs : List Nat) : Nat := cs.foldr (fun c t => c % 2 ^ w + 2 ^ w * t) 0

/-- R52: a tagged payload: value bytes, then the counts. -/
def taggedPayload (fmt : BitVec 5) (bytes : List Byte) (cs : List Nat) : List Byte :=
  let n := (taggedBytes fmt).getD 0
  let w := countBits fmt
  padTo 256 0 (padTo n 0 bytes ++ leBytes ((w * cs.length + 7) / 8) (packCounts w cs))

/-- R76: LEN within the payload and, tagged, within the value bytes. -/
def lenBad (c : Cell) : Bool :=
  decide (256 < c.len.toNat)
    || (c.tag && match taggedBytes c.fmt with | some n => decide (n < c.len.toNat) | none => false)

/-- R73, R74: FMT.CODE and IQREC. -/
def fmtBad (c : Cell) : Bool :=
  decide (16 ≤ c.fmt.toNat) || (c.iqrec && (c.fmt != 14 || c.len.toNat % 32 != 0))

/-- R93: whether OP.CODE is allocated for the kind. -/
def codeOk (k : BitVec 4) (code : BitVec 8) : Bool :=
  let c := code.toNat
  match k.toNat with
  | 0 => c == 0
  | 1 => decide (1 ≤ c) && decide (c ≤ 7)
  | 2 => true
  | 3 => decide (1 ≤ c) && decide (c ≤ 3)
  | 4 => decide (1 ≤ c) && decide (c ≤ 4)
  | 5 => c == 1
  | 6 => decide (1 ≤ c) && decide (c ≤ 11)
  | _ => false

/-- The number of set bits of an egress mask. -/
def popMask (m : BitVec 16) : Nat := (bitsOf m).length

/-- The first failed check of a list gives the cause. -/
def firstFail : List (Bool × BitVec 16) → Option (BitVec 16)
  | [] => none
  | (true, c) :: _ => some c
  | (false, _) :: l => firstFail l

/-- R165: whether the kind and destination take ADDR from X[B]. -/
def takesAddr (c : Cell) : Bool := c.kind == 6 || (c.kind == 0 && c.dest &&& 0x3800 != 0)

/-- R76, R396: an address that a header of a bent of a region may carry. -/
def addrOk (region : List Nat) (x : Word) : Bool :=
  match addrField x with
  | none => false
  | some f => (match addrSpace 256 f with | .named t _ => region.contains t | .bad => false | _ => true)

/-- R76 in its order, then R93. -/
def headerCheck (c : Cell) (addrBad : Bool) : Option (BitVec 16) :=
  firstFail
    [ (c.dest == 0, 0x0001),
      (popMask c.dest != 1 && !inOneGroup c.dest, 0x0005),
      (c.dest &&& ~~~kindMask c.kind != 0, 0x0005),
      (decide (c.opcnt.toNat < c.opix.toNat), 0x0001),
      (lenBad c, 0x0001),
      (fmtBad c, 0x0001),
      (addrBad, 0x0004),
      (!codeOk c.kind c.code, 0x0001) ]

/-- R165: ARG and ADDR of a cell of a strand or walk. -/
def fillArg (c : Cell) (d x : Word) (sx : BitVec 32) : Cell :=
  if c.kind = 6 then { c with arg := (descAtarg d).zeroExtend 32, addr := (addrField x).getD 0 }
  else if c.kind = 3 then { c with arg := sx }
  else if takesAddr c then { c with addr := (addrField x).getD 0 }
  else { c with arg := x.extractLsb' 0 32 }

/-! ### The four cell instructions -/

/-- R163: `cell`, `cellm`, `cellv` and `inj`. -/
inductive CellFn where
  | cell | cellm | cellv | inj
  deriving DecidableEq, Repr, Inhabited

/-- R163: DEST of each instruction. -/
def destOk (fn : CellFn) (m : BitVec 16) : Bool :=
  match fn with
  | .cell | .inj => popMask m == 1
  | .cellm => decide (2 ≤ popMask m) && inOneGroup m
  | .cellv => popMask m == 3 && (m &&& ~~~(0x000F : BitVec 16) == 0 || m &&& ~~~(0x00F0 : BitVec 16) == 0)

def clBad (fn : CellFn) (cl : BitVec 3) : Bool :=
  match fn with
  | .cellv => cl != 4
  | _ => cl == 0 || decide (5 ≤ cl.toNat)

/-- R248: the class of a tier. -/
def tierClass (tier : Nat) : BitVec 2 := if tier ≤ 1 then 1 else if tier ≤ 5 then 2 else 3

/-- R163: the class of a cell. -/
def cellClass (fn : CellFn) (cl : BitVec 3) (tier : Nat) : BitVec 2 :=
  match fn with
  | .cellv => 0
  | _ => if cl = 4 then tierClass tier else cl.extractLsb' 0 2

/-- R166: whether a strand holds a rendezvous entry at an egress. -/
def Bent.holdsRv (B : Bent) (st : Strand) (e idx : Nat) : Bool :=
  match NMap.get? B.rv (rvKey e idx) with
  | some v => v.isOwner st
  | none => false

/-- The lowest egress of a mask. -/
def firstEgress (m : BitVec 16) : Nat := (bitsOf m).headD 0

/-- R164: the bytes a payload read covers. -/
def payloadBytes (c : Cell) : Nat := if c.tag then 256 else c.len.toNat

/-- R164, R166: the payload's address: its own-bent scratchpad offset, or the cause. -/
def payloadOffset (b : Nat) (c : Cell) (x : Word) : BitVec 16 ⊕ Nat :=
  if x.toNat % 32 ≠ 0 then .inl 0x0002
  else
    match spaceOf b x with
    | .own off => if off % 256 + payloadBytes c ≤ 256 then .inr off else .inl 0x0001
    | _ => .inl 0x0001

/-- R166 after R76 and R93. -/
def State.cellCheck (s : State) (b : Nat) (st : Strand) (fn : CellFn) (d a x : XReg) (cl : BitVec 3) : Option (BitVec 16) :=
  let D := st.rx a
  let X := st.rx x
  let c := descCell D
  let reads := fn != .inj && d != 0
  let pay := payloadOffset b c (st.rx d)
  match headerCheck c (takesAddr c && !addrOk (s.regionOf st.lid) X) with
  | some e => some e
  | none =>
    firstFail
      [ (descReserved D || clBad fn cl, 0x0001),
        (!destOk fn c.dest, 0x0001),
        (c.opcnt != 0 && (fn == .cellm || fn == .cellv), 0x0001),
        (c.opcnt != 0 && !(s.bent b).holdsRv st (firstEgress c.dest) c.rvt.toNat, 0x0001),
        (fn == .inj && (decide (8 < c.len.toNat) || c.tag), 0x0001),
        ((!takesAddr c && c.kind != 3 && X.extractLsb' 32 32 != 0) || (c.kind == 3 && x != 0), 0x0001),
        (reads && (match pay with | .inl e => e == 0x0002 | .inr _ => false), 0x0002),
        (reads && (match pay with | .inl _ => true | .inr _ => false), 0x0001),
        (st.poisonX a || st.poisonX x || (reads && st.poisonX d), 0x0031) ]

/-! ### The header check (R75, R79) -/

/-- R75: bits [239:0] of the header as a number. -/
def Cell.headerBits (c : Cell) : Nat :=
  let f (b : Bool) (n : Nat) : Nat := if b then 2 ^ n else 0
  c.modes.toNat * 2 ^ 222 + c.addr.toNat * 2 ^ 174 + c.arg.toNat * 2 ^ 142 + f c.poison 141 + f c.iqrec 140
    + c.ctx.toNat * 2 ^ 134 + c.len.toNat * 2 ^ 125 + f c.tag 124 + c.fmt.toNat * 2 ^ 119 + c.seqs.toNat * 2 ^ 103
    + c.seqp.toNat * 2 ^ 87 + c.seq.toNat * 2 ^ 71 + c.strand.toNat * 2 ^ 67 + c.bent.toNat * 2 ^ 59
    + c.round.toNat * 2 ^ 43 + f c.rmk 42 + f c.eot 41 + f c.eor 40 + f c.vote 39 + c.cls.toNat * 2 ^ 37
    + c.opcnt.toNat * 2 ^ 35 + c.opix.toNat * 2 ^ 33 + c.rvt.toNat * 2 ^ 28 + c.kind.toNat * 2 ^ 24
    + c.code.toNat * 2 ^ 16 + c.dest.toNat

/-- R79: CRC-16 with polynomial 0x1021 over n bits, the most significant first. -/
def crc16 : Nat → Nat → BitVec 16 → BitVec 16
  | 0, _, r => r
  | n + 1, v, r =>
    crc16 n v (if r.msb != v.testBit n then (r <<< 1) ^^^ 0x1021 else r <<< 1)

def Cell.crc (c : Cell) : BitVec 16 := crc16 240 c.headerBits 0xFFFF

/-- R75: the header's check computed. -/
def Cell.seal (c : Cell) : Cell := { c with hcrc := c.crc }

/-! ### Enqueuing (R22, R163, R246) -/

def Bent.enqueue (B : Bent) (i e : Nat) (c : Cell) (d : Side) : Bent :=
  { B with
    voq := NMap.set B.voq (voqKey i e c.cls.toNat) (B.sub i e c.cls.toNat ++ [{ cell := c.seal, side := d, stamp := B.stamp }])
    stamp := B.stamp + 1 }

def Bent.enqueueM (B : Bent) (i : Nat) (c : Cell) (d : Side) : Bent :=
  { B with
    mq := NMap.set B.mq i (B.mcast i ++ [{ cell := c.seal, side := d, stamp := B.stamp, residue := c.dest }])
    stamp := B.stamp + 1 }

/-- R400: MODES of an issuing strand. -/
def Strand.modes (st : Strand) : BitVec 11 := st.fpmode ++ st.sigth ++ st.sigen

/-- R163: the issuer fields of a header. -/
def Strand.stamp (st : Strand) (b k ctx : Nat) (c : Cell) : Cell :=
  { c with
    bent := BitVec.ofNat 8 b, strand := BitVec.ofNat 4 k, ctx := BitVec.ofNat 6 ctx, round := st.round
    modes := st.modes, seq := st.seqNext, seqp := NMap.getD st.seqLast c.dest.toNat 0, seqs := st.seqNext }

/-- R81, R172: the key of a pair's count: the bent's region index, ingress and egress. -/
def pairKey (ix i e : Nat) : Nat := (ix * 16 + i) * 16 + e

/-- The strand after it has sent a cell: its counters move on and the round's counts grow (R75, R81). -/
def Strand.sent (st : Strand) (ix i : Nat) (c : Cell) : Strand :=
  { st with
    seqNext := st.seqNext + 1
    seqLast := NMap.set st.seqLast c.dest.toNat c.seq
    roundCells := (bitsOf c.dest).foldl (fun m e => NMap.modify m (pairKey ix i e) 0 (· + 1)) st.roundCells }

/-- What travels with a strand's cell; a drain command of `cell`, `cellm` or `inj` counts for `publish`, one of `cellv` does
not (R318). -/
def State.strandSide (s : State) (b k : Nat) (st : Strand) (c : Cell) : Side :=
  let w := s.writer b k st
  { lid := st.lid, ownerBent := st.ownerBent, ownerSlot := st.ownerSlot, src := .strand, drain := c.isDrain && !c.vote
    clock := w.clock, epoch := w.epoch }

/-- The payload of a cell: its bytes from scratchpad, or from X[D], and whether it is poisoned. -/
def State.payload (s : State) (b : Nat) (st : Strand) (fn : CellFn) (d : XReg) (c : Cell) : List Byte × Bool :=
  if fn = .inj then (padTo 256 0 (leBytes 8 (st.rx d).toNat), st.poisonX d)
  else if d = 0 then (List.replicate 256 0, false)
  else
    match payloadOffset b c (st.rx d) with
    | .inl _ => (List.replicate 256 0, false)
    | .inr off =>
      let o := match (s.launch st.lid).spadMap off with | some (o, _) => o | none => off
      let r := s.read (spadAddr b o) (payloadBytes c)
      (padTo 256 0 r.1, r.2)

/-- R163: the queues of a cell: ingress, egress and class. -/
def cellQueues (i : Nat) (c : Cell) : List (Nat × Nat × Nat) := (bitsOf c.dest).map (fun e => (i, e, c.cls.toNat))

def Bent.enqueueAll (B : Bent) (fn : CellFn) (i : Nat) (c : Cell) (d : Side) : Bent :=
  match fn with
  | .cellm => B.enqueueM i c d
  | _ => (bitsOf c.dest).foldl (fun B e => B.enqueue i e c d) B

/-- R163: what a cell waits for: room in every queue it enters. -/
def cellRoom (b i : Nat) (fn : CellFn) (c : Cell) : Wait :=
  match fn with
  | .cellm => .multiQueue i c.cls.toNat
  | _ => .queues ((cellQueues i c).map (fun q => (b * 16 + q.1, q.2)))

/-- R163: the ingress of a cell instruction. -/
def cellIngress (b : Nat) (st : Strand) (fn : CellFn) (d : XReg) (c : Cell) : Nat :=
  if fn = .inj ∨ d = 0 then portSI
  else
    match payloadOffset b c (st.rx d) with
    | .inl _ => portSI
    | .inr off => portSL (sillOf off)

/-- The header a cell instruction builds, without its payload. -/
def State.cellHeader (s : State) (b k : Nat) (st : Strand) (fn : CellFn) (a x : XReg) (cl : BitVec 3) : Cell :=
  let L := s.launch st.lid
  let c := fillArg (descCell (st.rx a)) (st.rx a) (st.rx x) st.sxcfg
  st.stamp b k L.ctx { c with cls := cellClass fn cl L.tier, vote := fn == .cellv }

/-- R163: a checked cell enters its queues. -/
def State.sendCell (s : State) (b k : Nat) (st : Strand) (fn : CellFn) (d : XReg) (i : Nat) (c : Cell) : State :=
  let p := s.payload b st fn d c
  let c := { c with payload := p.1, poison := p.2 }
  let side := s.strandSide b k st c
  (s.updBent b (fun B => B.enqueueAll fn i c side)).setStrand b k (st.sent (s.bent b).index i c).next

/-- R164: the order of a payload read with the strand's accesses. -/
def State.afterPayload (s : State) (b k : Nat) (st : Strand) (fn : CellFn) (d : XReg) (c : Cell) (body : Out) : Out :=
  if fn = .inj ∨ d = 0 then body
  else
    match payloadOffset b c (st.rx d) with
    | .inl _ => body
    | .inr off =>
      match (s.launch st.lid).spadMap off with
      | none => .next (s.trap b k st 0x0004)
      | some (o, _) =>
        let n := payloadBytes c
        let p := Path.sill (sillOf off)
        s.holdAtoms b k st (.overlap [(spadAddr b o, n)] p) (st.crossing [(spadAddr b o, n)] p)
          (s.holdUntil b k st (.sillOrder [sillOf off]) body)

/-- R163 to R166: a cell instruction. -/
def State.cellInstr (s : State) (fn : CellFn) (d a x : XReg) (cl : BitVec 3) : Out :=
  s.command { dx := [a, x, d] } (fun b k st =>
    match s.cellCheck b st fn d a x cl with
    | some e => .next (s.trap b k st e)
    | none =>
      let c := s.cellHeader b k st fn a x cl
      let i := cellIngress b st fn d c
      s.afterPayload b k st fn d c
        (s.holdUntil b k st (cellRoom b i fn c) (.next (s.sendCell b k st fn d i c))))

def execCell (d a b : XReg) (cl : BitVec 3) (s : State) : Out := s.cellInstr .cell d a b cl
def execCellm (d a b : XReg) (cl : BitVec 3) (s : State) : Out := s.cellInstr .cellm d a b cl
def execCellv (d a b : XReg) (cl : BitVec 3) (s : State) : Out := s.cellInstr .cellv d a b cl
def execInj (d a b : XReg) (cl : BitVec 3) (s : State) : Out := s.cellInstr .inj d a b cl

/-! ### Atomics: AT cells and HBM channels (R150) -/

/-- R150, R245: the cell of a scratchpad atomic. -/
def State.amoCell (s : State) (b k : Nat) (st : Strand) (aop : Nat) (o : MemOp) : Cell :=
  let L := s.launch st.lid
  let fmt : BitVec 5 := if aop = 3 then 6 else if o.size = 8 then 5 else 4
  let off := (o.loc - 2 ^ 41) % 2 ^ 22
  st.stamp b k L.ctx
    { dest := oneHot egAT, kind := 6, code := BitVec.ofNat 8 (aop + 1), cls := tierClass L.tier, fmt := fmt
      len := if aop = 1 then 16 else 8, addr := BitVec.ofNat 48 (8 * 2 ^ 44 + off)
      payload := padTo 256 0 (padTo 8 0 o.data ++ padTo 8 0 (if aop = 1 then o.expected else [])), poison := o.dpois }

/-- R150: an atomic on its way: to the AT of the own bent through SI, or to the HBM channel. -/
def State.sendAmo (s : State) (b k : Nat) (st : Strand) (r : MemReq) (o : MemOp) : Out :=
  match r.kind, o.path with
  | .amo aop _, .at =>
    let c := s.amoCell b k st aop o
    s.holdUntil b k st (.queues [(b * 16 + portSI, egAT, c.cls.toNat)])
      (let s1 := if r.rel then s.tick st.lid o.writer.key else s
       let side := { s.strandSide b k st c with amo := some (b, k, o.id) }
       .next ((s1.updBent b (fun B => B.enqueue portSI egAT c side)).setStrand b k
         ((st.sent (s.bent b).index portSI c).addOp o).next))
  | _, _ => s.sendAccess b k st r o

/-- R150: an atomic instruction; the expected value of `cas` is a source. -/
def State.amoInstr (s : State) (aop : Nat) (d a x : XReg) (sc : Scope) (o : Order) (w : Bool) : Out :=
  s.issue { rx := if aop = 1 then [a, x, d] else [a, x], wx := [d] } (fun b k st =>
    s.memIssue b k st (amoReq aop d st (st.rx a) x sc o w) State.sendAmo)

def execAmoSwap (d a b : XReg) (sc : Scope) (o : Order) (w : Bool) (s : State) : Out := s.amoInstr 0 d a b sc o w
def execAmoCas (d a b : XReg) (sc : Scope) (o : Order) (w : Bool) (s : State) : Out := s.amoInstr 1 d a b sc o w
def execAmoAdd (d a b : XReg) (sc : Scope) (o : Order) (w : Bool) (s : State) : Out := s.amoInstr 2 d a b sc o w
def execAmoFadd (d a b : XReg) (sc : Scope) (o : Order) (s : State) : Out := s.amoInstr 3 d a b sc o false
def execAmoAnd (d a b : XReg) (sc : Scope) (o : Order) (w : Bool) (s : State) : Out := s.amoInstr 4 d a b sc o w
def execAmoOr (d a b : XReg) (sc : Scope) (o : Order) (w : Bool) (s : State) : Out := s.amoInstr 5 d a b sc o w
def execAmoXor (d a b : XReg) (sc : Scope) (o : Order) (w : Bool) (s : State) : Out := s.amoInstr 6 d a b sc o w
def execAmoMin (d a b : XReg) (sc : Scope) (o : Order) (w : Bool) (s : State) : Out := s.amoInstr 7 d a b sc o w
def execAmoMax (d a b : XReg) (sc : Scope) (o : Order) (w : Bool) (s : State) : Out := s.amoInstr 8 d a b sc o w
def execAmoMinu (d a b : XReg) (sc : Scope) (o : Order) (w : Bool) (s : State) : Out := s.amoInstr 9 d a b sc o w
def execAmoMaxu (d a b : XReg) (sc : Scope) (o : Order) (w : Bool) (s : State) : Out := s.amoInstr 10 d a b sc o w

/-! ### Rendezvous entries (R168, R169) -/

/-- R168: the egresses with rendezvous entries. -/
def rvEgress (e : Nat) : Bool := decide (e ≤ 10) || e == 14

def Bent.heldAt (B : Bent) (st : Strand) (e : Nat) : Nat :=
  (B.rv.filter (fun r => r.1 / 32 == e && r.2.isOwner st)).length

/-- R168, R171: a strand joins those that wait at a place, or leaves them. -/
def Bent.queueFor (B : Bent) (k code : Nat) : Bent :=
  if B.rvWait.contains (k, code) then B else { B with rvWait := B.rvWait ++ [(k, code)] }
def Bent.leave (B : Bent) (k code : Nat) : Bent := { B with rvWait := B.rvWait.filter (fun w => w != (k, code)) }

/-- R168: `rvres`; of several free entries it takes the lowest (DESIGN CHOICE, log entry 47). -/
def execRvres (d : XReg) (e : BitVec 4) (s : State) : Out :=
  s.issue { wx := [d] } (fun b k st =>
    let n := e.toNat
    let B := s.bent b
    if rvEgress n = false ∨ 8 ≤ B.heldAt st n then .next (s.trap b k st 0x0001)
    else
      match (if B.turn k n then B.freeRv n else none) with
      | some idx =>
        .next ((s.updBent b (fun B =>
          { B.leave k n with rv := NMap.set B.rv (rvKey n idx) ⟨st.lid, st.ownerBent, st.ownerSlot, []⟩ })).setStrand
            b k (st.wx d (BitVec.ofNat 64 idx)).next)
      | none => .next ((s.updBent b (fun B => B.queueFor k n)).park b k st (.rendezvous n)))

/-- R169: `rvrel`. An entry that fires while it waits is not held any more when it issues again: cause 0x0001 (DESIGN CHOICE, log entry
49). -/
def execRvrel (a : XReg) (e : BitVec 4) (s : State) : Out :=
  s.issue { rx := [a] } (fun b k st =>
    let n := e.toNat
    let idx := (st.rx a).toNat
    if rvEgress n = false ∨ 32 ≤ idx ∨ (s.bent b).holdsRv st n idx = false then .next (s.trap b k st 0x0001)
    else
      s.holdUntil b k st (.operandsArrived n idx)
        (.next ((s.updBent b (fun B => { B with rv := NMap.erase B.rv (rvKey n idx) })).setStrand b k st.next)))

/-! ### The sink (R170, R171) -/

/-- R171: the slot emptied, and the strand served. -/
def State.takeSink (s : State) (b k n : Nat) (st : Strand) : State :=
  let log (L : Launch) : Launch :=
    match NMap.get? (s.bent b).sinks n with
    | some v => L.logOp st.round (.sunk (s.bent b).index n v)
    | none => L
  ((s.updBent b (fun B => { B.leave k (32 + n) with sinks := NMap.erase B.sinks n })).updLaunch st.lid log).setStrand b k st

/-- R171: a strand waits at a slot. -/
def State.waitSink (s : State) (b k n : Nat) (st : Strand) : State :=
  (s.updBent b (fun B => B.queueFor k (32 + n))).park b k st (.sink n)

/-- R171: the slot a `sink` takes, when it is the strand's turn. -/
def Bent.sinkFor (B : Bent) (k n : Nat) : Option SinkSlot := if B.turn k (32 + n) then NMap.get? B.sinks n else none

def execSinkX (d : XReg) (n : BitVec 4) (s : State) : Out :=
  s.issue { wx := [d] } (fun b k st =>
    match (s.bent b).sinkFor k n.toNat with
    | some v => .next (s.takeSink b k n.toNat (st.wxp d (BitVec.ofNat 64 (leNat v.bytes)) v.poison).next)
    | none => .next (s.waitSink b k n.toNat st))

/-- R32, R34, R171: element 0 of a slot as an FP32 value, with the p of its format and its untagged count. -/
def SinkSlot.value (v : SinkSlot) : Option (Word32 × Nat × Nat) :=
  match v.fmt.toNat with
  | 6 => let w : Word32 := BitVec.ofNat 32 (leNat (v.bytes.take 4)); some (w, 24, untaggedCount (val32 w) 24)
  | 7 => some (widen .fp16 (leNat (v.bytes.take 2)))
  | 8 => some (widen .bf16 (leNat (v.bytes.take 2)))
  | 9 => some (widen .e4m3 (leNat (v.bytes.take 1)))
  | 10 => some (widen .e5m2 (leNat (v.bytes.take 1)))
  | 11 => some (block .seb2)
  | 12 => some (block .seb4)
  | 13 => some (block .seb7)
  | _ => none
where
  widen (f : FFmt) (n : Nat) : Word32 × Nat × Nat :=
    let x := f.decode n
    (f32 x .rne, f.p, untaggedCount x f.p)
  block (f : SebFmt) : Word32 × Nat × Nat :=
    let e := f.element v.bytes 0
    (f32 e.1 .rne, f.m, e.2)

/-- R171: the result of the f form; none where it traps. -/
def SinkSlot.result (v : SinkSlot) : Option FVal :=
  v.value.map (fun r =>
    let c := if v.tag && (taggedBytes v.fmt).isSome then Nat.min v.count r.2.1 else r.2.2
    FVal.mk' r.1 (if (val32 r.1).isFinite then c else 0))

def execSinkF (d : FReg) (n : BitVec 4) (s : State) : Out :=
  s.issue { wf := [d] } (fun b k st =>
    match (s.bent b).sinkFor k n.toNat with
    | some v =>
      (match v.result with
       | some x => .next (s.takeSink b k n.toNat (st.wfp d x v.poison).next)
       | none => .next ((s.updBent b (fun B => B.leave k (32 + n.toNat))).trap b k st 0x0001))
    | none => .next (s.waitSink b k n.toNat st))

end Sys2Proof.Machine
end

