-- ==== Sys2Proof/Machine/Walks.lean ====
section
/-! DEFINITION. Tile walks: the descriptor and its checks, the commands, and the steps of a walk engine (R172 to R178,
R294, R315, R317, R337, R341). -/

namespace Sys2Proof.Machine

/-! ### The descriptor (R173) -/

/-- R173: a walk descriptor's bytes as fields. -/
structure WalkDesc where
  src : Word
  stride : Int
  rowLen : Nat
  rows : Nat
  hdr : Word
  argx : Word
  mode : Nat
  bt : Nat
  rpc : Nat
  stream : Nat
  cntr : Word
  reserved : Bool
  deriving DecidableEq, Repr, Inhabited

def bytesAt (l : List Byte) (off n : Nat) : Nat := leNat ((l.drop off).take n)

def WalkDesc.of (l : List Byte) : WalkDesc :=
  { src := BitVec.ofNat 64 (bytesAt l 0 8), stride := signedOf 64 (bytesAt l 8 8), rowLen := bytesAt l 16 4
    rows := bytesAt l 20 4, hdr := BitVec.ofNat 64 (bytesAt l 24 8), argx := BitVec.ofNat 64 (bytesAt l 32 8)
    mode := bytesAt l 40 1, bt := bytesAt l 41 1, rpc := bytesAt l 42 1, stream := bytesAt l 43 1
    cntr := BitVec.ofNat 64 (bytesAt l 48 8), reserved := bytesAt l 44 4 != 0 || bytesAt l 56 8 != 0 }

/-- R175, R176: the cells that a stream walk of n rows sends. -/
def walkCells (rows rowLen rpc : Nat) : Nat :=
  if rowLen = 0 then 0
  else if rpc ≤ 1 then rows * ((rowLen + 255) / 256) else (rows + rpc - 1) / rpc

/-- The length of a walk's largest cell. -/
def WalkDesc.cellLen (d : WalkDesc) : Nat := Nat.min 256 (if d.rpc ≤ 1 then d.rowLen else d.rpc * d.rowLen)

/-- R174: the cells' header before the fields a cell of its own fills. -/
def WalkDesc.header (d : WalkDesc) : Cell :=
  { descCell d.hdr with eor := false, eot := false, len := BitVec.ofNat 9 d.cellLen }

/-- R174: the check of HDR in stream mode. -/
def State.hdrCheck (s : State) (b : Nat) (st : Strand) (d : WalkDesc) (bounded : Bool) : Option (BitVec 16) :=
  let c := d.header
  match headerCheck c (takesAddr c && !addrOk (s.regionOf st.lid) d.argx) with
  | some e => some e
  | none =>
    firstFail
      [ (descReserved d.hdr, 0x0001),
        (!destOk .cell c.dest && !destOk .cellm c.dest, 0x0001),
        (c.opcnt != 0 && (popMask c.dest != 1 || bounded || walkCells d.rows d.rowLen d.rpc != 1
          || !(s.bent b).holdsRv st (firstEgress c.dest) c.rvt.toNat), 0x0001),
        (!takesAddr c && c.kind != 3 && d.argx.extractLsb' 32 32 != 0, 0x0001) ]

/-- R173, R174, R177: whether an address is an 8-byte aligned word of own-bent scratchpad. -/
def ownWord (b : Nat) (x : Word) : Bool :=
  x.toNat % 8 == 0 && (match spaceOf b x with | .own _ => true | _ => false)

/-- R173, R174, R177: the checks of a descriptor. -/
def State.walkCheck (s : State) (b : Nat) (st : Strand) (d : WalkDesc) (bounded : Bool) : Option (BitVec 16) :=
  let L := s.launch st.lid
  let rpcOk := d.rpc == 1 || ((d.rpc == 2 || d.rpc == 4 || d.rpc == 8) && decide (d.rpc * d.rowLen ≤ 256))
  let srcBad := match spaceOf b d.src with | .bad => true | _ => false
  let srcOut := match spaceOf b d.src with | .named t _ => !L.region.contains t | _ => false
  let copyBad := match NMap.get? L.bufs d.bt with
    | none => true
    | some B => !B.shadow || decide (B.bytes < d.argx.toNat + d.rows * d.rowLen)
  match firstFail
      [ (d.reserved || decide (1 < d.mode) || decide (2 ^ 24 < d.rowLen), 0x0001),
        (d.mode == 0 && !rpcOk, 0x0001),
        (!NMap.has L.streams d.stream, 0x0001),
        (if bounded then !ownWord b d.cntr else d.cntr != 0, 0x0001),
        (srcBad, 0x0004),
        (srcOut, 0x0001),
        (d.mode == 1 && copyBad, 0x0001) ] with
  | some e => some e
  | none => if d.mode = 0 then s.hdrCheck b st d bounded else none

/-! ### The commands -/

/-- R174: a ticket that no live walk of the bent has: the first free one from a value the manual does not fix. -/
def Bent.freshTicket (B : Bent) (n : Nat) : BitVec 16 :=
  let live := (NMap.vals B.walks).flatMap (fun l => l.map Walk.ticket)
  let start := (Config.ticketOf n).toNat
  let t (k : Nat) : BitVec 16 := BitVec.ofNat 16 ((start + k) % 65535 + 1)
  ((List.range (live.length + 1)).map t).find? (fun x => !live.contains x) |>.getD 1

/-- The command a walk instruction hands over. -/
def State.walkCommand (s : State) (b k : Nat) (st : Strand) (d : WalkDesc) (bounded : Bool) (word : Word)
    (cls : BitVec 2) : Walk :=
  let L := s.launch st.lid
  let w := s.writer b k st
  { lid := st.lid, ownerBent := st.ownerBent, ownerSlot := st.ownerSlot, slot := k
    ticket := (s.bent b).freshTicket s.nonce, bounded := bounded, src := d.src, stride := d.stride, rowLen := d.rowLen
    rows := d.rows, hdr := d.hdr, argx := d.argx, copy := d.mode == 1, bt := d.bt, rpc := Nat.max 1 d.rpc
    stream := d.stream, cntr := d.cntr, word := word, cls := cls, ctx := BitVec.ofNat 6 L.ctx, round := st.round
    modes := st.modes, sxcfg := st.sxcfg, dmask := d.hdr.extractLsb' 0 16, clock := w.clock, ord := s.nonce
    opMark := st.nextOp }

/-- R174: the walk engine that a stream selects. -/
def Launch.engineOf (L : Launch) (stream : Nat) : Nat := (NMap.getD L.streams stream (0, 0)).1 % 2

/-- R174: the place and order of the descriptor read, and its address checks. -/
def State.walkInstr (s : State) (bounded : Bool) (d a x : XReg) (cl : BitVec 3) : Out :=
  s.command { rx := [a, x], wx := [d] } (fun b k st =>
    let A := st.rx a
    let W := st.rx x
    let wordOut := match spaceOf b W with | .own _ => false | .dev _ => false | _ => true
    if cl = 0 then .next (s.trap b k st 0x0001)
    else if A.toNat % 64 ≠ 0 ∨ W.toNat % 8 ≠ 0 then .next (s.trap b k st 0x0002)
    else if wordOut then .next (s.trap b k st 0x0001)
    else
      match spaceOf b A with
      | .own off =>
        (match (s.launch st.lid).spadMap off with
         | none => .next (s.trap b k st 0x0004)
         | some (o, _) =>
           let loc := spadAddr b o
           let p := Path.sill (sillOf off)
           s.holdAtoms b k st (.overlap [(loc, 64)] p) (st.crossing [(loc, 64)] p)
             (s.holdUntil b k st (.sillOrder [sillOf off])
               (let r := s.read loc 64
                let D := WalkDesc.of r.1
                if r.2 then .next (s.trap b k st 0x0031)
                else
                  match s.walkCheck b st D bounded with
                  | some e => .next (s.trap b k st e)
                  | none =>
                    let L := s.launch st.lid
                    let e := L.engineOf D.stream
                    s.holdUntil b k st (.walkQueue e)
                      (let cls := if cl = 4 then tierClass L.tier else cl.extractLsb' 0 2
                       let w := s.walkCommand b k st D bounded W cls
                       .next { ((s.tick st.lid (L.key st.ownerBent st.ownerSlot)).updBent b (fun B =>
                          { B with walks := NMap.modify B.walks e [] (fun l => l ++ [w])
                                   tickets := insertTicket w.ticket B.tickets })).setStrand b k
                          (st.wx d (w.ticket.zeroExtend 64)).next with nonce := s.nonce + 1 }))))
      | _ => .next (s.trap b k st 0x0001))
where
  /-- The tickets given on the bent in this launch. -/
  insertTicket (t : BitVec 16) (l : List (BitVec 16)) : List (BitVec 16) := if l.contains t then l else t :: l

def execWalk (d a b : XReg) (cl : BitVec 3) (s : State) : Out := s.walkInstr false d a b cl
def execWalkb (d a b : XReg) (cl : BitVec 3) (s : State) : Out := s.walkInstr true d a b cl

/-- Rows that a walk has emitted, a row begun among them. -/
def Walk.emitted (w : Walk) : Nat := w.row + (if w.off = 0 then 0 else 1)

/-- R178: whether a ticket names a `walkb` whose limit may still move. -/
def Walk.live (w : Walk) (t : BitVec 16) : Bool := w.ticket == t && w.bounded && w.ended.isNone && !w.cancelled

/-- R178, R317: `wlst`. The ticket of a `walk` that is no `walkb` gives 0, as R178 has it for one that names no live `walkb`, and is not
taken as the wrong kind of handle of R197 (DESIGN CHOICE, log entry 49). -/
def execWlst (d a b : XReg) (s : State) : Out :=
  s.command { rx := [a, b], wx := [d] } (fun bn k st =>
    let A := st.rx a
    let t := A.extractLsb' 0 16
    let B := s.bent bn
    if A.toNat ≥ 65536 ∨ B.tickets.contains t = false then .next (s.trap bn k st 0x0001)
    else if (NMap.vals B.walks).any (fun l => l.any (fun w => w.live t)) then
      let f (w : Walk) : Walk := if w.live t then { w with rows := Nat.max (st.rx b).toNat w.emitted } else w
      .next ((s.updBent bn (fun B => { B with walks := B.walks.map (fun p => (p.1, p.2.map f)) })).setStrand bn k
        (st.wx d 1).next)
    else .next (s.setStrand bn k (st.wx d 0).next))

/-! ### A walk's memory -/

/-- Where a walk's byte lies. -/
inductive WLoc where
  | ok (loc : Nat) (img : Option Nat)
  | abort
  | fail (va : Nat) (host : Bool)
  | miss (va : Nat) (host : Bool)
  | scrub (page : Nat)
  deriving DecidableEq, Repr, Inhabited

/-- R335: the translations a walk engine may use: its own TLB and its bent's. -/
def Bent.walkTlbs (B : Bent) (e : Nat) : List TlbEntry := NMap.getD B.walkTlb e [] ++ B.tlb

def State.walkVa (s : State) (b e : Nat) (w : Walk) (host write : Bool) (va : Nat) : WLoc :=
  let L := s.launch w.lid
  match s.translate ((s.bent b).walkFailed (srcWalk e) (transKey host va)) ((s.bent b).walkTlbs e) L.part L.ctx host write va with
  | .ok loc img => .ok loc img
  | .miss => .miss va host
  | .fail => .fail va host
  | .scrub page => .scrub page

/-- R137, R326, R329: one byte of a row. -/
def State.walkLoc (s : State) (b e : Nat) (w : Walk) (a : Word) : WLoc :=
  let L := (s.launch w.lid).bind w.bindings
  let spad (t off : Nat) : WLoc := match L.spadMap off with | some (o, _) => .ok (spadAddr t o) none | none => .abort
  match spaceOf b a with
  | .bad => .abort
  | .own off => spad b off
  | .named t off => if L.region.contains t then spad t off else .abort
  | .dev va =>
    (match L.devBuffer va with
     | some (bt, B) => .ok (backAddr w.lid bt (B.shadow && B.swap) (va - (L.bufva.toNat + B.boff))) none
     | none => s.walkVa b e w false false va)
  | .host va => s.walkVa b e w true false va

/-- What reading a piece of a row gives: its bytes with poison and the image they come from, or what stands in the
way. -/
inductive WRead where
  | ok (bytes : List Byte) (pois : Bool) (img : Option Nat)
  | stop (why : WLoc)
  deriving DecidableEq, Repr, Inhabited

/-- R341: the image of a cell when every byte comes from it. -/
def joinImg (first : Bool) (a b : Option Nat) : Option Nat := if first then b else if a = b then a else none

def State.walkRead (s : State) (b e : Nat) (w : Walk) : List Word → Bool → WRead → WRead
  | [], _, r => r
  | a :: as, first, .ok bytes p img =>
    (match s.walkLoc b e w a with
     | .ok loc i =>
       s.walkRead b e w as false (.ok (bytes ++ s.bytesVia (s.launch w.lid).part i loc 1) (p || s.poisonedAt loc 1) (joinImg first img i))
     | x => .stop x)
  | _, _, r => r

/-! ### Progress -/

/-- R174: the head of a walk engine's queue. -/
def State.walkHead (s : State) (b e : Nat) : Option Walk := (NMap.getD (s.bent b).walks e []).head?

/-- One walk at two times: the same strand's, at one place in issue order. -/
def Walk.same (w v : Walk) : Bool :=
  v.lid == w.lid && v.ownerBent == w.ownerBent && v.ownerSlot == w.ownerSlot && v.ord == w.ord

def State.setWalk (s : State) (b e : Nat) (w : Walk) : State :=
  s.updBent b (fun B => { B with walks := NMap.modify B.walks e [] (fun l => l.map (fun v => if w.same v then w else v)) })

/-- R344, R370: whether a launch's walks may advance; a copy stops at a row boundary. -/
def State.walkGate (s : State) (w : Walk) : Bool :=
  match s.launch? w.lid with
  | none => false
  | some L => L.phase == .running || ((match L.phase with | .gating _ => true | _ => false) && w.copy && w.off != 0)

/-- R174: every memory instruction of the strand before the walk is performed. -/
def State.walkReady (s : State) (w : Walk) : Bool :=
  let before (st : Strand) : Bool := st.ops.all (fun o => decide (w.opMark ≤ o.id) || o.done)
  match s.findOwner w.lid w.ownerBent w.ownerSlot with
  | some (b, k) => (match s.strand? b k with | some st => before st | none => true)
  | none =>
    let L := s.launch w.lid
    (L.conts ++ L.readyList).all (fun c => !c.isOwner w.ownerBent w.ownerSlot || before c.st)

/-- R176, R178: a walk that sends nothing. -/
def Walk.empty (w : Walk) : Bool := w.rows * w.rowLen == 0

/-- R176: earlier walks of the strand whose words are not written. -/
def State.earlierWalk (s : State) (w : Walk) : Bool :=
  (s.walksOf w.lid).any (fun v => v.2.2.of w.lid w.ownerBent w.ownerSlot && decide (v.2.2.ord < w.ord))

/-- R160: the buffers with a shadow that a walk reads, as they stand now. -/
def State.walkBindings (s : State) (b : Nat) (w : Walk) : List (Nat × Bool) :=
  let L := s.launch w.lid
  let span : Int := ((w.rows : Int) - 1) * w.stride
  let lo : Int := (w.src.toNat : Int) + (if span < 0 then span else 0)
  let hi : Int := (w.src.toNat : Int) + (if span < 0 then 0 else span) + (w.rowLen : Int)
  let base (B : Buffer) : List Int :=
    if B.spad then
      ((2 ^ 63 + B.boff : Nat) : Int) :: L.region.map (fun t => ((9 * 2 ^ 60 + t * 2 ^ 52 + B.boff : Nat) : Int))
    else [((L.bufva.toNat + B.boff : Nat) : Int)]
  let _ := b
  (L.bufs.filter (fun p => p.2.shadow
    && (base p.2).any (fun f => decide (f < hi) && decide (lo < f + (p.2.bytes : Int))))).map (fun p => (p.1, p.2.swap))

/-- R294: the other bent whose scratchpad a walk reads. -/
def walkTarget (b : Nat) (w : Walk) : Option Nat := match spaceOf b w.src with | .named t _ => some t | _ => none

/-- R174, R294, R315: a walk begins. -/
def execWalkBegin (b e : Nat) (s : State) : Out :=
  match s.walkHead b e with
  | none => .next s
  | some w =>
    if w.begun ∨ w.cancelled ∨ s.walkGate w = false ∨ s.walkReady w = false then .next s
    else if w.empty then
      (if s.earlierWalk w then .next s else .next (s.setWalk b e { w with begun := true, ended := some 1 }))
    else
      let L := s.launch w.lid
      let front := (NMap.getD L.bufs w.bt default).swap
      let w1 := { w with begun := true, bindings := s.walkBindings b w, frontWhich := !front }
      match walkTarget b w with
      | none => .next (s.setWalk b e w1)
      | some t =>
        if (s.bent t).pool < 8 then .next s
        else .next ((s.updBent t (fun B => { B with pool := B.pool - 8 })).setWalk b e { w1 with reserved := some t })

/-- R177: a walk's counter read, an acquire. -/
def execWalkbCounterRead (b e : Nat) (s : State) : Out :=
  match s.walkHead b e with
  | none => .next s
  | some w =>
    if w.begun && w.bounded && w.ended.isNone && s.walkGate w then
      match s.walkLoc b e w w.cntr with
      | .ok loc _ =>
        let L := s.launch w.lid
        let key := L.key w.ownerBent w.ownerSlot
        .next (s.setWalk b e
          { w with allowed := s.readNat loc 8, clock := w.clock.join (L.observed .region key b (objBytes loc 8)) })
      | _ => .next s
    else .next s

/-- R177: the rows a walk may have sent by now. -/
def Walk.allow (w : Walk) : Nat := if w.bounded then Nat.min w.allowed w.rows else w.rows

/-- R175, R177: the next cell of a stream walk: the addresses of its bytes, the walk after it, and its markers. -/
structure Piece where
  addrs : List Word
  first : Nat × Nat
  after : Walk
  eor : Bool
  eot : Bool
  deriving DecidableEq, Repr, Inhabited

def Walk.piece (w : Walk) : Option Piece :=
  if w.rpc ≤ 1 ∨ w.copy then
    if w.off = 0 ∧ w.allow ≤ w.row then none
    else
      let n := Nat.min 256 (w.rowLen - w.off)
      let endRow := decide (w.off + n = w.rowLen)
      let w1 := if endRow then { w with row := w.row + 1, off := 0 } else { w with off := w.off + n }
      some ⟨(List.range n).map (fun k => w.addr w.row (w.off + k)), (w.row, w.off), w1, endRow, endRow && decide (w.rows ≤ w1.row)⟩
  else
    let avail := w.allow - w.row
    if avail < w.rpc ∧ w.allow ≠ w.rows then none
    else if avail = 0 then none
    else
      let r := Nat.min w.rpc avail
      let w1 := { w with row := w.row + r }
      some ⟨(List.range r).flatMap (fun i => (List.range w.rowLen).map (fun k => w.addr (w.row + i) k)), (w.row, 0), w1,
        true, decide (w.rows ≤ w1.row)⟩

/-- R175: ADDR advances with the bytes; it is taken modulo its field. -/
def walkAddr (argx : Word) (n : Nat) : BitVec 48 :=
  match addrField (argx + BitVec.ofNat 64 n) with
  | some f => f
  | none => (addrField argx).getD 0 + BitVec.ofNat 48 n

/-- R174: the header of a walk's cell that begins at byte n of the walk. -/
def Walk.header (w : Walk) (b n len : Nat) : Cell :=
  let c := fillArg (descCell w.hdr) w.hdr w.argx w.sxcfg
  { c with
    addr := if takesAddr c then walkAddr w.argx n else 0
    len := BitVec.ofNat 9 len, cls := w.cls, bent := BitVec.ofNat 8 b, strand := BitVec.ofNat 4 w.slot, ctx := w.ctx
    round := w.round, modes := w.modes, eor := false, eot := false }

def Walk.side (w : Walk) (e : Nat) (c : Cell) (img : Option Nat) : Side :=
  { lid := w.lid, ownerBent := w.ownerBent, ownerSlot := w.ownerSlot, src := .walk e, prov := img, drain := c.isDrain
    clock := w.clock }

/-- Room for a walk's cell, and its entry. -/
def Bent.walkRoom (B : Bent) (e : Nat) (w : Walk) : Bool :=
  if popMask w.dmask = 1 then B.voqRoom (portW e) (firstEgress w.dmask) w.cls.toNat else B.mqRoom (portW e) w.cls.toNat

def Bent.walkEnqueue (B : Bent) (e : Nat) (c : Cell) (d : Side) : Bent :=
  if popMask c.dest = 1 then B.enqueue (portW e) (firstEgress c.dest) c d else B.enqueueM (portW e) c d

/-- R81, R172: a walk's cell counts on its strand's pair. -/
def Strand.walkSent (st : Strand) (ix e : Nat) (c : Cell) : Strand :=
  { st with roundCells := (bitsOf c.dest).foldl (fun m g => NMap.modify m (pairKey ix (portW e) g) 0 (· + 1)) st.roundCells }

/-- The key of a stream of a bent, by region index, in a round. -/
def logKey (ix stream : Nat) (round : BitVec 16) : Nat := (ix * 256 + stream) * 65536 + round.toNat

/-- R368: a stream's position log; past 256 cells the open round is unrecoverable. -/
def Launch.logCell (L : Launch) (ix stream : Nat) (round : BitVec 16) : Launch :=
  let log := NMap.modify L.posLog (logKey ix stream round) 0 (· + 1)
  let n := (log.filter (fun e => e.1 / 65536 == ix * 256 + stream)).foldl (fun t e => t + e.2) 0
  { L with posLog := log, unrecoverable := if 256 < n then L.unrecoverable ++ [round] else L.unrecoverable }

/-- R174: SEQ counts the cells of a stream. -/
def Bent.streamNext (B : Bent) (stream : Nat) : BitVec 16 := NMap.getD B.streamSeq stream 0

/-- R75, R174: a cell with its place in its stream; SEQP of the first is 0xFFFF (DESIGN CHOICE, log entry 49). -/
def Cell.inStream (c : Cell) (n : BitVec 16) : Cell := { c with seq := n, seqp := n - 1, seqs := n }

/-- A cell of a walk enters the Mortise. -/
def State.walkSend (s : State) (b e : Nat) (w : Walk) (c : Cell) (img : Option Nat) : State :=
  let B := s.bent b
  let n := B.streamNext w.stream
  let s1 := (s.updBent b (fun B =>
    { B.walkEnqueue e (c.inStream n) (w.side e c img) with streamSeq := NMap.set B.streamSeq w.stream (n + 1) })).updLaunch w.lid
      (fun L => L.logCell B.index w.stream w.round)
  (s1.updOwner w.lid w.ownerBent w.ownerSlot (fun st => st.walkSent B.index e c)).setWalk b e w

/-- R337: a token that no parked walk of a partition has. -/
def Part.freshToken (P : Part) : BitVec 32 :=
  let live := P.parked.map (fun q => q.1)
  let start := Config.tokenOf P.nextToken
  ((List.range (live.length + 1)).map (fun k => start + BitVec.ofNat 32 k)).find? (fun x => !live.contains x) |>.getD 0

/-- R176, R337: a walk ends by a fault: a stream still sends its cells, a copy writes nothing more. -/
def Walk.abort (w : Walk) : Walk :=
  if w.copy ∨ w.ended.isSome then { w with ended := some 3, parkedTok := none, noWord := w.ended.isSome }
  else { w with poisonRest := true, parkedTok := none }

/-- R337: a walk's translation fails: it parks and the host is told; with 64 walks parked it ends at once. -/
def State.parkWalk (s : State) (b e : Nat) (w : Walk) (va : Nat) (host write : Bool) : State :=
  let L := s.launch w.lid
  let P := s.part L.part
  let s1 := s.updBent b (fun B => B.metFailure (srcWalk e))
  if 64 ≤ P.parked.length then s1.setWalk b e w.abort
  else
    let t := P.freshToken
    ((s1.setPart L.part { P with parked := P.parked ++ [(t, b, e)], nextToken := P.nextToken + 1 }).toHostMsg
      (.fault L.part t L.ctx (BitVec.ofNat 64 va) host write L.seq)).setWalk b e { w with parkedTok := some t }

/-- What a walk does about a byte it cannot reach. -/
def State.walkStop (s : State) (b e : Nat) (w : Walk) (write : Bool) (why : WLoc) : State :=
  let L := s.launch w.lid
  match why with
  | .miss va host => s.addMiss L.ctx host write va b (srcWalk e)
  | .scrub page => s.queueScrub page L.ctx
  | .fail va host => s.parkWalk b e w va host write
  | .abort => s.setWalk b e w.abort
  | .ok _ _ => s

/-- R174, R329: where byte n of a copy goes: the shadow it is bound to. -/
def State.copyLoc (s : State) (b : Nat) (w : Walk) (n : Nat) : Nat :=
  let L := s.launch w.lid
  let B := NMap.getD L.bufs w.bt default
  let off := w.argx.toNat + n
  if B.spad then spadAddr b ((if w.frontWhich then B.second else B.boff) + off) else backAddr w.lid w.bt w.frontWhich off

/-- R142, R281: the writer that a walk records; its writes are its own acts, after what its strand knew at issue. -/
def State.walkWriter (s : State) (b : Nat) (w : Walk) : Writer :=
  let key := (s.launch w.lid).key w.ownerBent w.ownerSlot
  let a := ownAgent w.ord key
  { lid := w.lid, bent := b, strand := w.slot, phs := s.ownerPhs w.lid w.ownerBent w.ownerSlot, round := w.round, key := key
    agent := a, epoch := 1, clock := w.clock.join (Clock.at a 1) }

/-- The rows of a walk are done. -/
def Walk.finish (w : Walk) (eot : Bool) : Walk :=
  if eot then { w with ended := some (if w.poisonRest then 3 else 1) } else w

/-- R174 to R177: the next cell of a stream, or the next piece of a copied row; a write into a backing whose publish is not
complete is held (R160). -/
def State.walkStep (s : State) (b e : Nat) (w : Walk) : State :=
  match w.piece with
  | none =>
    if w.bounded && decide (w.rows ≤ w.row) && w.off == 0 then
      (if w.copy then s.setWalk b e { w with ended := some 1 }
       else if (s.bent b).walkRoom e w then
         s.walkSend b e (w.finish true) { w.header b (w.row * w.rowLen) 0 with eot := true } none
       else s)
    else s
  | some p =>
    let n := p.first.1 * w.rowLen + p.first.2
    if w.copy then
      if (s.launch w.lid).pubAfter.contains w.bt && w.frontWhich != (NMap.getD (s.launch w.lid).bufs w.bt default).swap then s
      else
        match s.walkRead b e w p.addrs true (.ok [] false none) with
        | .stop why => s.walkStop b e w false why
        | .ok bytes pois _ =>
          if pois then s.setWalk b e w.abort
          else (s.write (s.walkWriter b w) (s.copyLoc b w n) bytes false).setWalk b e (p.after.finish p.eot)
    else if (s.bent b).walkRoom e w = false then s
    else
      let hdr := { w.header b n p.addrs.length with eor := p.eor, eot := p.eot }
      let junk := (List.range p.addrs.length).map (Config.poisonByte s.nonce)
      if w.poisonRest then
        { s.walkSend b e (p.after.finish p.eot) { hdr with payload := padTo 256 0 junk, poison := true } none with
          nonce := s.nonce + 1 }
      else
        match s.walkRead b e w p.addrs true (.ok [] false none) with
        | .stop why => s.walkStop b e w false why
        | .ok bytes pois img =>
          let after := { p.after with poisonRest := pois }
          s.walkSend b e (after.finish p.eot) { hdr with payload := padTo 256 0 bytes, poison := pois } img

/-- A step of a running walk. -/
def execWalkCellEmit (b e : Nat) (s : State) : Out :=
  match s.walkHead b e with
  | none => .next s
  | some w =>
    if w.begun && w.ended.isNone && w.parkedTok.isNone && s.walkGate w then .next (s.walkStep b e w) else .next s

/-! ### Completion (R176) -/

/-- R176: the completion word. -/
def Walk.wordValue (w : Walk) (status : BitVec 2) : Nat := (w.row % 2 ^ 32) * 2 ^ 8 + status.toNat

/-- R176, R268: the completion event. -/
def State.walkEvent (s : State) (w : Walk) (status : BitVec 2) (loc : Option Nat) : State :=
  let s1 := s.postEvent w.lid w.ownerBent w.ownerSlot
    { status := status, kind := 1, space := w.word.extractLsb' 60 4, addr := w.word.extractLsb' 0 52 }
  s1.updLaunch w.lid (fun L => L.fire (fun c =>
    match loc with
    | some a => c.waitLoc == some (wordKey a)
    | none => c.waitLoc.isNone && c.waitOn == w.word))

/-- The walk leaves its engine; who publishes the shadow that it wrote comes after it (R160). -/
def State.walkLeave (s : State) (b e : Nat) (w : Walk) : State :=
  let s0 := if w.copy then s.leave (s.walkWriter b w) .region true [objShadow w.bt] else s
  let s1 := s0.updBent b (fun B => { B.metFailure (srcWalk e) with walks := NMap.modify B.walks e [] (removeFirst w.same) })
  match w.reserved with
  | some t => s1.updBent t (fun B => { B with pool := B.pool + 8 })
  | none => s1

/-- R176: the word written, as a release and in scratchpad a fill, and the event posted. -/
def State.walkWrite (s : State) (b e : Nat) (w : Walk) (status : BitVec 2) (loc : Nat) : State :=
  let wr := s.walkWriter b w
  let s1 := s.writeRel wr .region loc (leBytes 8 (w.wordValue status)) false
  let own := (spadOf loc).isSome
  let s2 := if own then (s1.leave wr .region false [objFull loc]).fill w.lid loc else s1
  (s2.walkEvent w status (if own then some loc else none)).walkLeave b e w

/-- R176: where the completion word lies. -/
def State.wordLoc (s : State) (b e : Nat) (w : Walk) : WLoc :=
  let L := s.launch w.lid
  match spaceOf b w.word with
  | .own off => (match L.spadMap off with | some (o, _) => .ok (spadAddr b o) none | none => .abort)
  | .dev va =>
    (match L.devBuffer va with
     | some (bt, B) => .ok (backAddr w.lid bt (B.shadow && B.swap) (va - (L.bufva.toNat + B.boff))) none
     | none => s.walkVa b e w false true va)
  | _ => .abort

/-- R176, R190: the walk that leaves next: one that is cancelled and not parked for its word, once the earlier walks of its strand on this engine have
left, since their words are written in issue order; else the head (R315). -/
def State.walkLeaving (s : State) (b e : Nat) : Option Walk :=
  let l := NMap.getD (s.bent b).walks e []
  match l.find? (fun w => w.cancelled && w.parkedTok.isNone && !l.any (fun v => v.of w.lid w.ownerBent w.ownerSlot && decide (v.ord < w.ord))) with
  | some w => some w
  | none => l.head?

/-- R176: a walk that has ended, or is cancelled, writes its word and leaves. -/
def execWalkCompletion (b e : Nat) (s : State) : Out :=
  match s.walkLeaving b e with
  | none => .next s
  | some w =>
    let status : Option (BitVec 2) := if w.cancelled then some 2 else w.ended
    match status with
    | none => .next s
    | some q =>
      if w.parkedTok.isSome then .next s
      else if w.noWord then .next ((s.walkEvent w 3 none).walkLeave b e w)
      else
        match s.wordLoc b e w with
        | .ok loc _ => .next (s.walkWrite b e w q loc)
        | .miss va host => .next (s.addMiss (s.launch w.lid).ctx host true va b (srcWalk e))
        | .scrub page => .next (s.queueScrub page (s.launch w.lid).ctx)
        | .fail va host => .next (s.parkWalk b e { w with ended := some q } va host true)
        | .abort => .next ((s.walkEvent w 3 none).walkLeave b e w)

/-! ### FAULTACK (R337) -/

/-- R337: the parked walk that a token names. -/
def State.parkedWalk (s : State) (p : Nat) (token : BitVec 32) : Option (Nat × Nat × Walk) :=
  match (s.part p).parked.find? (fun q => q.1 == token) with
  | none => none
  | some q =>
    ((NMap.getD (s.bent q.2.1).walks q.2.2 []).find? (fun w => w.parkedTok == some token)).map (fun w => (q.2.1, q.2.2, w))

def State.ackWalk (s : State) (p : Nat) (token : BitVec 32) (f : Walk → Walk) : State :=
  match s.parkedWalk p token with
  | none => s
  | some (b, e, w) =>
    (s.updPart p (fun P => { P with parked := P.parked.filter (fun q => q.1 != token) })).setWalk b e (f w)

/-- R337: RESUME = 1. -/
def execFaultackResume (p : Nat) (token : BitVec 32) (s : State) : Out :=
  .next (s.ackWalk p token (fun w => { w with parkedTok := none }))

/-- R337: RESUME = 0. -/
def execFaultackEnd (p : Nat) (token : BitVec 32) (s : State) : Out := .next (s.ackWalk p token Walk.abort)

end Sys2Proof.Machine
end

