-- ==== Sys2Proof/Machine/Marks.lean ====
section
/-! DEFINITION. Round markers: who counts on a pair (R81, R273, R395), the arrival of cells on pairs, and `rmark` (R172,
R272, R368). -/

namespace Sys2Proof.Machine

/-! ### Pairs (R81) -/

/-- The issuer that counts on a pair at the bent of a region index: a strand by OWNER, a feedback port, or a pair of another bent behind GR (R395). -/
def issuerOf (ix ing : Nat) (d : Side) : Nat :=
  match d.via with
  | some v => v
  | none =>
    match d.src with
    | .strand | .walk _ => who d.ownerBent d.ownerSlot
    | .engine _ => 65536 + ix * 16 + ing
    | .gr => 131072 + ix
    | .cp => 131072 + 256

/-- R395: how a bent behind GR knows a pair of another bent. -/
def viaOf (ix egr ing : Nat) (d : Side) : Nat := 2 ^ 20 + ((ix * 16 + egr) * 16 + ing) * 2 ^ 32 + issuerOf ix ing d

def Pair.is (p : Pair) (ing egr issuer : Nat) (round : BitVec 16) : Bool :=
  p.ing == ing && p.egr == egr && p.issuer == issuer && p.round == round

/-- What is counted on one pair in one round, changed. -/
def Bent.updPair (B : Bent) (ing egr issuer : Nat) (round : BitVec 16) (f : Pair → Pair) : Bent :=
  if B.pairs.any (fun p => p.is ing egr issuer round) then
    { B with pairs := B.pairs.map (fun p => if p.is ing egr issuer round then f p else p) }
  else { B with pairs := B.pairs ++ [f ⟨ing, egr, issuer, round, 0, none⟩] }

/-- R81: a cell of a round has arrived on a pair. -/
def Bent.arrived (B : Bent) (ing egr : Nat) (c : Cell) (d : Side) : Bent :=
  B.updPair ing egr (issuerOf B.index ing d) c.round (fun p => { p with arrived := p.arrived + 1 })

/-- R81: a marker has been received on a pair. -/
def Bent.marked (B : Bent) (ing egr : Nat) (c : Cell) (d : Side) : Bent :=
  B.updPair ing egr (issuerOf B.index ing d) c.round (fun p => { p with marker := some c.arg.toNat })

def GsCount.is (g : GsCount) (egr ing issuer : Nat) (round : BitVec 16) : Bool :=
  g.egr == egr && g.ing == ing && g.issuer == issuer && g.round == round

/-- R395: one more cell of a pair and round, in all or to one egress of one bent. -/
def countPassed (egr ing issuer : Nat) (round : BitVec 16) (target : Option (Nat × Nat)) : List GsCount → List GsCount
  | [] => [⟨egr, ing, issuer, round, target, 1⟩]
  | g :: l =>
    if g.is egr ing issuer round && g.target == target then { g with n := g.n + 1 } :: l
    else g :: countPassed egr ing issuer round target l

/-- R190, R395: a cell discarded on its way to an egress counts as arrived there and, at WB0, WB1 and GS, as passed. -/
def Bent.lost (B : Bent) (i e : Nat) (c : Cell) (d : Side) : Bent :=
  let B1 := B.arrived i e c d
  if e = egWB0 ∨ e = egWB1 ∨ e = egGS then
    { B1 with gsSent := countPassed e i (issuerOf B.index i d) c.round none B1.gsSent }
  else B1

/-- R81: whether a pair's marker is counted: it has come, and as many cells as it names. -/
def Pair.counted (p : Pair) : Bool :=
  match p.marker with
  | some n => decide (n ≤ p.arrived)
  | none => false

/-! ### `rmark` (R172) -/

/-- R172: the ingresses through which a strand's cells come: the sills, W0, W1 and SI. -/
def strandIngresses : List Nat := (List.range 10) ++ [portSI]

/-- R172 step 2: the pairs a strand marks, with their counts: at its bent, and at each other that its cells of the round entered the
Mortise of, every pair whose egress is in the mask or received one of them (log entry 23). -/
def Strand.markPairs (st : Strand) (ix : Nat) (mask : BitVec 16) : NMap Nat :=
  let took := st.roundCells.map (fun p => (p.1 / 256, p.1 % 16))
  let named := (ix :: took.map Prod.fst).flatMap (fun j => (bitsOf mask).map (fun e => (j, e)))
  (took ++ named).foldl (fun m x => strandIngresses.foldl (fun m i =>
    if NMap.has m (pairKey x.1 i x.2) then m else NMap.set m (pairKey x.1 i x.2) 0) m) st.roundCells

/-- R172: the marker of a pair. -/
def Strand.marker (st : Strand) (b k ctx e n : Nat) : Cell :=
  { st.stamp b k ctx { dest := oneHot e } with rmk := true, arg := BitVec.ofNat 32 n, modes := 0, len := 0, cls := 0 }

/-- R172: one marker enters its queue. -/
def State.sendMark (s : State) (b k : Nat) (st : Strand) (p : Nat × Nat) : State × Strand :=
  let c := st.marker b k (s.launch st.lid).ctx (p.1 % 16) p.2
  let side := s.strandSide b k st c
  (s.updBent ((s.regionOf st.lid).getD (p.1 / 256) 0) (fun B => B.enqueue (p.1 / 16 % 16) (p.1 % 16) c side),
   { st with seqNext := st.seqNext + 1, seqLast := NMap.set st.seqLast c.dest.toNat c.seq })

def State.sendMarks (s : State) (b k : Nat) (st : Strand) (ps : NMap Nat) : State × Strand :=
  ps.foldl (fun r p => r.1.sendMark b k r.2 p) (s, st)

/-- R368: the rendezvous entries that a strand holds in its region. -/
def State.rvOf (s : State) (st : Strand) : List (Nat × Nat × RvEntry) :=
  (s.regionOf st.lid).zipIdx.flatMap (fun x =>
    ((s.bent x.1).rv.filter (fun r => r.2.isOwner st)).map (fun r => (x.2, r.1, r.2)))

/-- R172, R368: the round ended: ROUND moves on, and the strand's checkpoint is kept. -/
def State.endRound (s : State) (b k : Nat) (st : Strand) : State :=
  let st1 := { st with round := st.round + 1, roundCells := [], marked := false }.next
  (s.updLaunch st.lid (fun L =>
    { L with strandMarks := L.strandMarks ++ [⟨st.round, L.key st.ownerBent st.ownerSlot, (s.bent b).index, k, st1, s.rvOf st⟩] })).setStrand b k st1

/-- R172 step 2: room for every marker. -/
def markRoom (region : List Nat) (ps : NMap Nat) : Wait :=
  .queues (ps.map (fun p => (region.getD (p.1 / 256) 0 * 16 + p.1 / 16 % 16, p.1 % 16, 0)))

/-- R172 steps 3 and 4: the atomic units of HBM channels hold the strand's atomics of the round, then ROUND moves on. -/
def State.closeRound (s : State) (b k : Nat) (st : Strand) : Out :=
  s.holdUntil b k st .hbmHeld (.next (s.endRound b k st))

/-- R172, R272: the markers are sent once; the strand then waits for step 3. -/
def execRmark (a : XReg) (s : State) : Out :=
  s.issue { rx := [a] } (fun b k st =>
    let m := st.rx a
    if 65536 ≤ m.toNat then .next (s.trap b k st 0x0001)
    else if st.marked then s.closeRound b k st
    else
      let ps := st.markPairs (s.bent b).index (m.extractLsb' 0 16)
      s.holdUntil b k st .walksSent
        (s.holdUntil b k st .roundFloor
          (s.holdUntil b k st (markRoom (s.regionOf st.lid) ps)
            (let r := s.sendMarks b k st ps
             r.1.closeRound b k { r.2 with marked := true }))))

end Sys2Proof.Machine
end

