-- ==== Sys2Proof/Machine/Engine.lean ====
section
/-! DEFINITION. Engine configuration, incremental queues and channels as a strand uses them (R179 to R185, R293, R295,
R297, R299, R302). -/

namespace Sys2Proof.Machine

/-! ### `mx.gang` and `sx.cfg` (R179, R180) -/

/-- R179: the descriptor of `mx.gang`: size, position, mask and identifier. -/
structure GangDesc where
  size : Nat
  pos : Nat
  mask : Nat
  gid : Nat
  deriving DecidableEq, Repr, Inhabited

def gangDesc (x : Word) : Option GangDesc :=
  let n := x.toNat
  let size := n / 2 ^ 16 % 8
  let pos := n / 2 ^ 12 % 8
  if n / 2 ^ 19 ≠ 0 ∨ n / 2 ^ 15 % 2 ≠ 0 ∨ size < pos then none
  else some ⟨size + 1, pos, n / 2 ^ 8 % 16, n % 256⟩

/-- R179: the tenons a descriptor names: those of MXMASK, or all when it is 0. -/
def GangDesc.named (g : GangDesc) : Nat := if g.mask = 0 then 15 else g.mask

/-- R179: the gang of a tenon set or left. -/
def Bent.setGang (B : Bent) (g : GangDesc) : Bent :=
  { B with mx := (List.range 4).foldl (fun m e =>
      if g.named / 2 ^ e % 2 = 1 then
        NMap.modify m e {} (fun x => { x with gang := if g.mask = 0 then none else some (g.gid, g.size, g.pos) })
      else m) B.mx }

def execMxGang (a : XReg) (s : State) : Out :=
  s.issue { rx := [a] } (fun b k st =>
    match gangDesc (st.rx a) with
    | none => .next (s.trap b k st 0x0001)
    | some g =>
      s.holdUntil b k st (.gangIdle g.named) (.next ((s.updBent b (fun B => B.setGang g)).setStrand b k st.next)))

/-- R180. -/
def execSxCfg (a : XReg) (s : State) : Out :=
  s.issue { rx := [a] } (fun b k st =>
    let x := st.rx a
    if x.toNat / 2 ^ 10 ≠ 0 ∨ bit x 3 then .next (s.trap b k st 0x0001)
    else .next (s.setStrand b k ({ st with sxcfg := x.extractLsb' 0 32 }).next))

/-! ### Incremental queues (R181, R182, R299, R302) -/

/-- R297: the home of a queue: the region bent of index N mod the region size. -/
def Launch.home (L : Launch) (q : Nat) : Nat := L.region.getD (q % Nat.max L.region.length 1) 0

/-- R181: records with their round field overwritten. -/
def stampRecords (round : BitVec 16) (bytes : List Byte) : List Byte :=
  (chunks 32 8 bytes).flatMap (fun r => r.take 28 ++ leBytes 2 round.toNat ++ r.drop 30)

/-- R299: INFL of a queue grows, logged for rollback. -/
def State.inflUp (s : State) (lid q n : Nat) (round : BitVec 16) : State :=
  s.updLaunch lid (fun L =>
    ({ L with queues := NMap.modify L.queues q default (fun Q => { Q with infl := Q.infl + n }) }).logOp round (.infl q true n))

/-- R181: the cell of an `iq.push`. -/
def State.pushCell (s : State) (b k : Nat) (st : Strand) (q n : Nat) : Cell :=
  let L := s.launch st.lid
  st.stamp b k L.ctx
    { dest := oneHot (if L.home q = b then 9 else egGS), kind := 4, code := 1, cls := tierClass L.tier, fmt := 14
      iqrec := true, len := BitVec.ofNat 9 (32 * n), arg := BitVec.ofNat 32 q }

def execIqPush (a : XReg) (h : BitVec 8) (s : State) : Out :=
  s.command { rx := [a] } (fun b k st =>
    let L := s.launch st.lid
    let q := h.toNat
    let x := st.rx a
    let n := x.toNat % 8 + 1
    let base : Word := x &&& ~~~31
    if NMap.has L.queues q = false then .next (s.trap b k st 0x0006)
    else if x.toNat / 8 % 4 ≠ 0 then .next (s.trap b k st 0x0001)
    else
      match spaceOf b base with
      | .own off =>
        if 256 < off % 256 + 32 * n then .next (s.trap b k st 0x0002)
        else
          (match L.spadMap off with
           | none => .next (s.trap b k st 0x0004)
           | some (o, _) =>
             let c := s.pushCell b k st q n
             let loc := spadAddr b o
             let i := portSL (sillOf off)
             let p := Path.sill (sillOf off)
             s.holdAtoms b k st (.overlap [(loc, 32 * n)] p) (st.crossing [(loc, 32 * n)] p)
               (s.holdUntil b k st (.sillOrder [sillOf off])
                 (s.holdUntil b k st (.queues [(b * 16 + i, firstEgress c.dest, c.cls.toNat)])
                   (let r := s.read loc (32 * n)
                    let c := { c with payload := padTo 256 0 (stampRecords st.round r.1), poison := r.2 }
                    let side := s.strandSide b k st c
                    .next (((s.inflUp st.lid q n st.round).updBent b (fun B => B.enqueue i (firstEgress c.dest) c side)).setStrand
                      b k (st.sent (s.bent b).index i c).next)))))
      | _ => .next (s.trap b k st 0x0001))

/-- Whether a round lies beyond another (R272), or is it. -/
def notAfter (a b : BitVec 16) : Bool := a == b || roundBefore a b

/-- R302: cells emitted for consolidated records of a queue that are not accepted, or whose writes are not performed. -/
def State.outputOut (s : State) (lid q : Nat) : Bool :=
  (s.regionOf lid).any (fun b =>
    let B := s.bent b
    (NMap.vals B.emit).any (fun l => l.any (fun m => m.side.lid == lid && m.side.iq == some q))
      || B.cells.any (fun c => c.2.lid == lid && c.2.iq == some q && c.1.dest &&& 0x3800 != 0))

/-- R302: whether a round is complete for a queue. -/
def State.roundComplete (s : State) (lid q : Nat) (n : BitVec 16) : Bool :=
  let L := s.launch lid
  let B := s.bent (L.home q)
  roundBefore n (NMap.getD B.unitRound 9 0)
    && !B.cn.pending.any (fun r => r.q == q && notAfter r.r.round n)
    && !s.outputOut lid q
    && !B.cn.folds.any (fun f => f.q == q && f.r.round == n)

/-- R182: the state of a queue. -/
def State.iqState (s : State) (lid q : Nat) : Nat :=
  let Q := NMap.getD (s.launch lid).queues q default
  let infl := Nat.min Q.infl (2 ^ 32 - 1)
  let last := Q.last.getD 0
  let rdone := s.roundComplete lid q last
  last.toNat * 2 ^ 40 + infl * 2 ^ 8 + (if rdone then 2 else 0) + (if rdone && Q.infl == 0 then 1 else 0)

def execIqTest (d : XReg) (h : BitVec 8) (s : State) : Out :=
  s.command { wx := [d] } (fun b k st =>
    let q := h.toNat
    if NMap.has (s.launch st.lid).queues q = false then .next (s.trap b k st 0x0006)
    else
      let v := s.iqState st.lid q
      let s1 := if v % 2 = 1 then s.acquire b st .region [objQueue q] else s
      .next (s1.setStrand b k (st.wx d (BitVec.ofNat 64 v)).next))

/-! ### Request channels (R183, R184, R293) -/

/-- R183: whether a strand owns a request channel. -/
def Chan.ownedBy (c : Chan) (st : Strand) : Bool :=
  match c with
  | .request ob os _ _ _ => ob == st.ownerBent && os == st.ownerSlot
  | .data _ _ _ => false

def Launch.setChan (L : Launch) (h : Nat) (c : Option Chan) : Launch :=
  match c with
  | some c => { L with chans := NMap.set L.chans h c }
  | none => { L with chans := NMap.erase L.chans h }

/-- R183: slots taken from or given back to a bent's pool. -/
def State.pool (s : State) (t : Nat) (f : Nat → Nat) : State := s.updBent t (fun B => { B with pool := f B.pool })

/-- R183: `chopen`. -/
def execChopen (a : XReg) (h : BitVec 8) (s : State) : Out :=
  s.issue { rx := [a] } (fun b k st =>
    let L := s.launch st.lid
    let x := (st.rx a).toNat
    let n := x / 2 ^ 8 % 16
    let t := x % 256
    let log (o : Option Chan) (L : Launch) : Launch := (L.setChan h.toNat o).logOp st.round (.chan h.toNat o)
    match NMap.get? L.chans h.toNat with
    | some (.data _ _ _) => .next (s.trap b k st 0x0001)
    | old =>
      if x / 2 ^ 12 ≠ 0 ∨ 8 < n ∨ L.region.contains t = false then .next (s.trap b k st 0x0001)
      else
        match old with
        | some c =>
          if n ≠ 0 ∨ c.ownedBy st = false then .next (s.trap b k st 0x0001)
          else
            s.holdUntil b k st (.channelIdle h.toNat)
              (match c with
               | .request _ _ target slots _ =>
                 .next (((s.pool target (· + slots)).updLaunch st.lid (log none)).setStrand b k st.next)
               | .data _ _ _ => .next (s.trap b k st 0x0001))
        | none =>
          if n = 0 then .next (s.trap b k st 0x0006)
          else
            s.holdUntil b k st (.slots t n)
              (.next (((s.pool t (· - n)).updLaunch st.lid (log (some (.request st.ownerBent st.ownerSlot t n 0)))).setStrand
                b k st.next)))

/-- R184: the checks of `rld` and `rst`: the target and its storage address, or the cause. -/
def State.remoteCheck (s : State) (st : Strand) (h : Nat) (x : Word) : BitVec 16 ⊕ (Nat × Nat) :=
  let L := s.launch st.lid
  match NMap.get? L.chans h with
  | none => .inl 0x0006
  | some (.data _ _ _) => .inl 0x0001
  | some (.request ob os t _ _) =>
    if ob ≠ st.ownerBent ∨ os ≠ st.ownerSlot ∨ x.toNat / 2 ^ 22 ≠ 0 then .inl 0x0001
    else if x.toNat % 8 ≠ 0 then .inl 0x0002
    else
      match L.spadMap x.toNat with
      | none => .inl 0x0004
      | some (o, _) => .inr (t, spadAddr t o)

/-- R183: the requests of a channel in use, changed. -/
def Launch.useSlot (L : Launch) (h : Nat) (f : Nat → Nat) : Launch :=
  match NMap.get? L.chans h with
  | some (.request ob os t n used) => { L with chans := NMap.set L.chans h (.request ob os t n (f used)) }
  | _ => L

/-- R184: a request sent. -/
def State.sendRemote (s : State) (b k : Nat) (st : Strand) (h t loc : Nat) (write : Bool) (o : MemOp) : State :=
  let p : Packet :=
    { lid := st.lid, bent := st.ownerBent, slot := st.ownerSlot, opId := st.nextOp, target := t, off := loc, write := write
      data := o.data, poison := o.dpois }
  { (s.updLaunch st.lid (fun L => L.useSlot h (· + 1))).setStrand b k (st.addOp o).next with packets := s.packets ++ [p] }

def remoteOp (s : State) (b k : Nat) (st : Strand) (h loc : Nat) (kind : MemKind) (dest : Dest) (data : List Byte)
    (pois : Bool) : MemOp :=
  { id := st.nextOp, kind := kind, path := .request h, loc := loc, size := 8, data := data, dpois := pois, dest := dest
    scope := .region, round := st.round, writer := s.writer b k st }

def execRld (d a : XReg) (h : BitVec 8) (s : State) : Out :=
  s.command { rx := [a], wx := [d] } (fun b k st =>
    match s.remoteCheck st h.toNat (st.rx a) with
    | .inl c => .next (s.trap b k st c)
    | .inr (t, loc) =>
      s.withEntry b k st true
        (s.holdAtoms b k st (.overlap [(loc, 8)] (.request h.toNat)) (st.crossing [(loc, 8)] (.request h.toNat))
          (s.holdUntil b k st (.channelSlot h.toNat)
            (.next (s.sendRemote b k st h.toNat t loc false
              (remoteOp s b k st h.toNat loc .rld (.x d .d) [] false))))))

def execRst (d a : XReg) (h : BitVec 8) (s : State) : Out :=
  s.command { rx := [a], dx := [d] } (fun b k st =>
    match s.remoteCheck st h.toNat (st.rx a) with
    | .inl c => .next (s.trap b k st c)
    | .inr (t, loc) =>
      s.withEntry b k st false
        (s.holdAtoms b k st (.overlap [(loc, 8)] (.request h.toNat)) (st.crossing [(loc, 8)] (.request h.toNat))
          (s.holdUntil b k st (.channelSlot h.toNat)
            (.next (s.sendRemote b k st h.toNat t loc true
              (remoteOp s b k st h.toNat loc .rst .none (st.storeBytes d 8) (st.poisonX d)))))))

/-! ### The girt network's requests and responses (R291, R293) -/

def Packet.same (p q : Packet) : Bool := p.lid == q.lid && p.bent == q.bent && p.slot == q.slot && p.target == q.target

/-- R184: whether a packet is the oldest of its channel that is still a request, or still a response. -/
def State.packetFirst (s : State) (k : Nat) (p : Packet) : Bool :=
  !(s.packets.take k).any (fun q => q.same p && q.response == p.response)

/-- The operation a packet belongs to. -/
def State.packetOp (s : State) (p : Packet) : Option MemOp :=
  let st : Option Strand :=
    match s.findOwner p.lid p.bent p.slot with
    | some (b, k) => s.strand? b k
    | none =>
      let L := s.launch p.lid
      ((L.conts ++ L.readyList).find? (fun c => c.isOwner p.bent p.slot)).map (fun c => c.st)
  st.bind (fun st => st.ops.find? (fun o => o.id == p.opId))

/-- R293: a request is served at its target. -/
def execRemoteRequest (k : Nat) (s : State) : Out :=
  match s.packets[k]? with
  | none => .next s
  | some p =>
    if p.response || !s.packetFirst k p then .next s
    else if p.write then
      let w := match s.packetOp p with
        | some o => { o.writer with phs := s.ownerPhs p.lid p.bent p.slot }
        | none => { lid := p.lid }
      .next { s.write w p.off p.data p.poison with
        packets := s.packets.set k { p with response := true, data := [], poison := false } }
    else
      let r := s.read p.off 8
      .next { s with packets := s.packets.set k { p with response := true, data := r.1, poison := r.2 } }

/-- R293: a response lands: its slot and its entry are free again. -/
def execRemoteResponse (k : Nat) (s : State) : Out :=
  match s.packets[k]? with
  | none => .next s
  | some p =>
    if !p.response || !s.packetFirst k p then .next s
    else
      let s1 := { s with packets := s.packets.eraseIdx k }
      match s.packetOp p with
      | none => .next s1
      | some o =>
        let h := match o.path with | .request h => h | _ => 0
        .next ((s1.updLaunch p.lid (fun L => L.useSlot h (· - 1))).updOwner p.lid p.bent p.slot (fun st =>
          (if p.write then st else st.deliver o p.data p.poison).dropOp o.id))

/-! ### Dataflow channels (R185, R295) -/

/-- R185: where a channel instruction's element lies: sill, storage address and size, or the cause. -/
def State.elementAt (s : State) (b : Nat) (st : Strand) (h : Nat) (x : Word) : BitVec 16 ⊕ (Nat × Nat × Nat) :=
  match NMap.get? (s.launch st.lid).chans h with
  | none => .inl 0x0006
  | some (.request _ _ _ _ _) => .inl 0x0001
  | some (.data _ n _) =>
    if x.toNat % 32 ≠ 0 then .inl 0x0002
    else
      match spaceOf b x with
      | .own off =>
        if 256 < off % 256 + n then .inl 0x0001
        else
          (match (s.launch st.lid).spadMap off with
           | none => .inl 0x0004
           | some (o, _) => .inr (sillOf off, spadAddr b o, n))
      | _ => .inl 0x0001

/-- The elements of a channel changed. -/
def Launch.updElems (L : Launch) (h : Nat) (f : List Elem → List Elem) : Launch :=
  match NMap.get? L.chans h with
  | some (.data n w es) => { L with chans := NMap.set L.chans h (.data n w (f es)) }
  | _ => L

def Launch.firstElem (L : Launch) (h : Nat) : Option Elem :=
  match NMap.get? L.chans h with
  | some (.data _ _ (e :: _)) => some e
  | _ => none

/-- R185: an element sent by the strand of a bent, with its release. -/
def Launch.sendElem (L : Launch) (b : Nat) (st : Strand) (h : Nat) (v : List Byte × Bool) : Launch :=
  let key := L.key st.ownerBent st.ownerSlot
  (L.updElems h (fun es => es ++ [⟨v.1, v.2, ⟨key, b, .region, if L.det then L.clock key else {}, st.round⟩⟩])).tick key

/-- R185: `chsend`. -/
def execChsend (a : XReg) (h : BitVec 8) (s : State) : Out :=
  s.command { rx := [a] } (fun b k st =>
    match s.elementAt b st h.toNat (st.rx a) with
    | .inl c => .next (s.trap b k st c)
    | .inr (_, loc, n) =>
      s.afterAll b k st .region
        (s.holdUntil b k st (.elementSlot h.toNat)
          (.next ((s.updLaunch st.lid (fun L =>
            (L.sendElem b st h.toNat (s.read loc n)).logOp st.round (.sent h.toNat))).setStrand
              b k st.next))))

/-- R185: `chrecv`, an acquire of the element that it takes; an element received cannot be replayed (R371). -/
def execChrecv (a : XReg) (h : BitVec 8) (s : State) : Out :=
  s.command { rx := [a] } (fun b k st =>
    match s.elementAt b st h.toNat (st.rx a) with
    | .inl c => .next (s.trap b k st c)
    | .inr (sill, loc, n) =>
      s.holdAtoms b k st (.overlap [(loc, n)] (.sill sill)) (st.crossing [(loc, n)] (.sill sill))
        (s.holdUntil b k st (.sillOrder [sill])
          (match (s.launch st.lid).firstElem h.toNat with
           | none => .next (s.park b k st (.element h.toNat))
           | some e =>
             .next (((s.write (s.writer b k st) loc e.bytes e.poison).updLaunch st.lid (fun L =>
               let key := L.key st.ownerBent st.ownerSlot
               { (L.updElems h.toNat (fun es => es.drop 1)).acquire key (e.rel.learnt .region key b) with
                 nonReplayable := L.nonReplayable ++ [st.round] })).setStrand b k st.next))))

end Sys2Proof.Machine
end

