-- ==== Sys2Proof/Machine/Strands.lean ====
section
/-! DEFINITION. Continuations, exits, traps and the control registers of a strand (R55, R64 to R66, R131 to R133, R186 to
R190, R194 to R196, R258, R263 to R269, R373). -/

namespace Sys2Proof.Machine

/-! ### `split` and `yield` (R187, R188) -/

/-- R187: a live mask: at most 16 registers, the upper bits 0. -/
def liveOk (x : Word) : Bool :=
  decide (x.toNat < 2 ^ 48) && decide (((List.range 48).filter (fun n => bit x n)).length ≤ 16)

/-- R187: where a completion word lies: its storage address, and the place that its event names in scratchpad. -/
def State.waitWord (s : State) (b k : Nat) (st : Strand) (x : Word) : Acc :=
  if x.toNat % 8 ≠ 0 then .trap 0x0001 s
  else
    match spaceOf b x with
    | .own off =>
      (match (s.launch st.lid).spadMap off with
       | none => .trap 0x0001 s
       | some (o, bd) => .ok (spadAddr b o) (.sill (sillOf off)) bd)
    | .dev va => s.accessVa b k st false false va
    | _ => .trap 0x0001 s

/-- R187 step 3: the record of a strand that splits or yields. -/
def Strand.cont (st : Strand) (live : BitVec 48) (waitOn : Word) (waitLoc : Option Nat) : Cont :=
  { st := st.next.record live, live := live, waitOn := waitOn, waitLoc := waitLoc }

/-- R187 step 1, R153: the strand's loads and atomics have returned. -/
def State.afterLoads (s : State) (b k : Nat) (st : Strand) (body : Out) : Out :=
  s.holdAtoms b k st .loadsReturned st.loads body

/-- R187. -/
def execSplit (d a : XReg) (s : State) : Out :=
  s.issue { rx := [d, a] } (fun b k st =>
    if st.inHandler ∨ liveOk (st.rx d) = false then .next (s.trap b k st 0x0001)
    else
      match s.waitWord b k st (st.rx a) with
      | .trap c t => .next (t.trap b k st c)
      | .wait t w => .next (t.park b k st w)
      | .ok loc path _ =>
        s.afterLoads b k st
          (if s.readNat loc 8 % 4 ≠ 0 then .next (s.setStrand b k st.next)
           else
             let own := match path with | .sill _ => some (wordKey loc) | _ => none
             .next (s.saveCont b k st (st.cont ((st.rx d).extractLsb' 0 48) (st.rx a) own) false)))

/-- R188. -/
def execYield (d : XReg) (s : State) : Out :=
  s.issue { rx := [d] } (fun b k st =>
    if st.inHandler ∨ liveOk (st.rx d) = false then .next (s.trap b k st 0x0001)
    else s.afterLoads b k st (.next (s.saveCont b k st (st.cont ((st.rx d).extractLsb' 0 48) 0 none) true)))

/-- R266: a parked continuation becomes ready: its event has come, or a trap is pending for it. -/
def execContinuationReady (launch k : Nat) (s : State) : Out :=
  match s.launch? launch with
  | none => .next s
  | some L =>
    match L.conts[k]? with
    | none => .next s
    | some c =>
      if c.fired || !c.st.pend.isEmpty then
        .next (s.setLaunch launch (({ L with conts := L.conts.eraseIdx k }).list c))
      else .next s

/-- R267, R285: the continuation that a free slot of the bent of a region index takes: in a deterministic launch its own, else
the head of the ready list, once no parked continuation that became ready before it has still to be listed. -/
def Launch.takes (L : Launch) (ix k : Nat) : Option Cont :=
  if L.det then L.readyList.find? (fun c => c.isOwner (L.origin.getD ix 0) k)
  else L.readyList.head?.filter (fun c => !L.conts.any (fun d => (d.fired || !d.st.pend.isEmpty) && d.before c))

/-- R267: whether a slot that became free in the same cycle comes before this one, by bent and slot. -/
def State.slotBefore (s : State) (lid b k : Nat) : Bool :=
  let L := s.launch lid
  let at_ (c q : Nat) : Nat := NMap.getD (s.bent c).freedAt q 0
  L.region.any (fun c => (List.range L.nStrands).any (fun q =>
    (decide (c < b) || (c == b && decide (q < k))) && (s.strand? c q).isNone && at_ c q == at_ b k))

/-- R268: the events held for a parked strand delivered to its queue. -/
def Cont.events' (c : Cont) : List EvEntry := c.events.foldl pushEvent c.st.evq

/-- R267: a free slot resumes a continuation. -/
def execContinuationResume (b k : Nat) (s : State) : Out :=
  match (s.bent b).launch with
  | none => .next s
  | some lid =>
    let L := s.launch lid
    if (s.strand? b k).isSome ∨ L.nStrands ≤ k ∨ L.phase ≠ .running ∨ (L.det = false ∧ s.slotBefore lid b k = true) then .next s
    else
      match L.takes (s.bent b).index k with
      | none => .next s
      | some c =>
        .next ((s.setLaunch lid
          { L with readyList := removeFirst (fun q => q.isOwner c.st.ownerBent c.st.ownerSlot) L.readyList }).setStrand b k
          { c.st with evq := c.events', state := .ready })

/-! ### `exit` and `exit.abandon` (R189, R190, R306) -/

/-- R153, R197: whether an atomic of the current round of a deterministic launch holds a strand that ends. -/
def State.atomHolds (s : State) (st : Strand) : Bool :=
  (s.launch st.lid).det && (st.ops.any (fun o => st.roundAmo o && !o.done) || s.atomCells st)

/-- R189, R197. -/
def execExit (s : State) : Out :=
  s.issue {} (fun b k st =>
    if s.atomHolds st then .next (s.trap b k st 0x0001)
    else .next (s.setStrand b k { st.next with state := .retiring false }))

/-- Whether a cell carries the BENT and STRAND of a strand: one that it, a walk of its or an engine acting for it enqueued (R306). -/
def Side.carries (d : Side) (st : Strand) : Bool :=
  d.lid == st.lid && d.ownerBent == st.ownerBent && d.ownerSlot == st.ownerSlot

/-- Whether a queued cell is a strand's and may be discarded: markers stay (R172), and so do the cells of its `amo`s, which are memory
operations that it waits for (R150, R190; log entry 40). -/
def QCell.abandoned (st : Strand) (q : QCell) : Bool := q.side.carries st && !q.cell.rmk && q.side.amo.isNone

/-- Whether a queued cell is a copy of a strand's `cellv`; an engine's VOTE cells are none. -/
def QCell.ofCellv (q : QCell) : Bool := q.cell.vote && q.side.src == .strand

/-- R190: the queued copies of a `cellv`. -/
def Bent.voteCopies (B : Bent) (seq : BitVec 16) (st : Strand) : Nat :=
  ((NMap.vals B.voq).flatMap (fun l => l.filter (fun q => q.abandoned st && q.ofCellv && q.cell.seq == seq))).length

/-- R190: a `cellv` of which a copy has been granted is kept whole. -/
def Bent.discards (B : Bent) (st : Strand) (q : QCell) : Bool :=
  q.abandoned st && (!q.ofCellv || B.voteCopies q.cell.seq st == 3)

/-- R190, R81: discarded cells count as arrived. -/
def Bent.countLost (B : Bent) (i : Nat) (es : List Nat) (q : QCell) : Bent :=
  es.foldl (fun B e => B.lost i e q.cell q.side) B

/-- R190, R306: a strand's queued cells discarded at one bent. -/
def Bent.abandon (B : Bent) (st : Strand) : Bent :=
  let lostU := B.voq.flatMap (fun p => (p.2.filter (B.discards st)).map (fun q => (p.1 / 64, [p.1 / 4 % 16], q)))
  let lostM := B.mq.flatMap (fun p => (p.2.filter (fun q => q.abandoned st)).map (fun q => (p.1, bitsOf q.residue, q)))
  let B1 := (lostU ++ lostM).foldl (fun A x => A.countLost x.1 x.2.1 x.2.2) B
  { B1 with
    voq := B.voq.map (fun p => (p.1, p.2.filter (fun q => !B.discards st q)))
    mq := B.mq.map (fun p => (p.1, p.2.filter (fun q => !q.abandoned st)))
    rv := B.rv.filter (fun r => !r.2.isOwner st)
    walks := B.walks.map (fun p => (p.1, p.2.map (fun w =>
      if w.of st.lid st.ownerBent st.ownerSlot && !w.begun then { w with cancelled := true } else w))) }

/-- Every bent of a region changed. -/
def State.mapRegion (s : State) (lid : Nat) (f : Nat → Bent → Bent) : State :=
  (s.regionOf lid).foldl (fun t b => t.updBent b (f b)) s

/-- R190; the strand does not wait for an atomic cell that is discarded. -/
def execExitAbandon (s : State) : Out :=
  s.issue {} (fun b k st =>
    let t := s.mapRegion st.lid (fun _ B => B.abandon st)
    if t.atomHolds st then .next (s.trap b k st 0x0001)
    else .next (t.setStrand b k { st.next with state := .retiring true }))

/-- R189, R318: a drain command of a strand has not emitted its last cell. -/
def State.drainsLeft (s : State) (st : Strand) : Bool :=
  (s.regionOf st.lid).any (fun b => (NMap.vals (s.bent b).mx).any (fun m =>
    match m.drain with
    | some d => d.side.byStrand && d.side.carries st
    | none => false))

/-- R160, R189: a `publish` of a strand that has not completed. -/
def State.publishing (s : State) (st : Strand) : Bool :=
  let L := s.launch st.lid
  L.pubAfter.any (fun bt => NMap.get? L.pubBy bt == some (st.ownerBent, st.ownerSlot))

/-- R189, R190: nothing that a retiring strand issued is outstanding; after `exit.abandon` a `publish` does not hold it. -/
def State.retired (s : State) (st : Strand) : Bool :=
  let L := s.launch st.lid
  st.ops.isEmpty && !s.cellsOut st && !s.drainsLeft st && (s.myWalks st).isEmpty && (st.state == .retiring true || !s.publishing st)
    && !(NMap.vals L.scarfs).any (fun c => c.ownerBent == st.ownerBent && c.ownerSlot == st.ownerSlot)

/-- R189: rendezvous entries that a strand holds and that have not fired are released. -/
def Bent.releaseRv (B : Bent) (st : Strand) : Bent := { B with rv := B.rv.filter (fun r => !r.2.isOwner st) }

/-- R58: traps still pending for a strand that ends inside its handler are launch faults. -/
def State.orphanTraps (s : State) (st : Strand) : State :=
  st.pend.foldl (fun t p => t.launchFault st.lid 0x06 p.cause 0 (who st.ownerBent st.ownerSlot)) s

/-- R189, R190, R263: a retiring strand is done and its slot free. -/
def execStrandDone (b k : Nat) (s : State) : Out :=
  match s.strand? b k with
  | none => .next s
  | some st =>
    match st.state with
    | .retiring _ =>
      if s.retired st && (st.pend.isEmpty || st.inHandler) then
        .next (((s.mapRegion st.lid (fun _ B => B.releaseRv st)).dropStrand b k).orphanTraps st)
      else .next s
    | _ => .next s

/-! ### Traps (R58 to R60, R194, R195) -/

/-- R194: the software trap. -/
def execTrap (d : XReg) (code : BitVec 10) (s : State) : Out :=
  s.issue { wx := [d] } (fun b k st => .next (s.trap b k (st.wx d (code.zeroExtend 64)) 0x0050))

/-- A tenon named in a pending trap: its index first (R60), then its bent by region index. -/
def tenonKey (ix t : Nat) : Nat := t * 256 + ix

/-- R58, R59: the freeze that a trap's `rft` ends. -/
def State.endFreeze (s : State) (lid : Nat) (fr : TrapFrame) : State :=
  match fr.tenon with
  | none => s
  | some (key, r) => s.updBent ((s.regionOf lid).getD (key % 256) 0) (fun B => B.updTenon (key / 256) (fun T => T.thaw r fr.significance))

/-- R195: return from a trap. -/
def execRft (s : State) : Out :=
  s.issue {} (fun b k st =>
    match st.saved with
    | none => .next (s.trap b k st 0x0001)
    | some fr => .next ((s.endFreeze st.lid fr).setStrand b k (st.restore fr)))

/-- R305: a strand that leaves a wait to take a trap keeps no place in a line. -/
def State.leaveLines (s : State) (b k : Nat) (st : Strand) : State :=
  (s.updBent b (fun B => { B with rvWait := B.rvWait.filter (fun w => w.1 != k) })).updLaunch st.lid (fun L =>
    { L with pubWait := L.pubWait.filter (fun w => !(w.2.1 == st.ownerBent && w.2.2 == st.ownerSlot)) })

/-- R58, R60: a strand takes its first pending trap at an instruction boundary. -/
def execPendingTrapDelivery (b k : Nat) (s : State) : Out :=
  match s.strand? b k with
  | none => .next s
  | some st =>
    match st.saved, st.firstPend, s.launch? st.lid with
    | none, some p, some L =>
      if L.phase = .running then
        .next ((s.leaveLines b k st).takeTrap b k { st with pend := removeFirst (fun q => q == p) st.pend } p.cause p.tenon
          p.log)
      else .next s
    | _, _, _ => .next s

/-! ### `ident` (R196) -/

def State.identity (s : State) (b k : Nat) (st : Strand) (sel : Nat) : Option Nat :=
  let L := s.launch st.lid
  match sel with
  | 0 => some (0x4B525A39 * 2 ^ 32 + 0x00A0)
  | 1 => some b
  | 2 => some (dieOf b)
  | 3 => some L.part
  | 4 => some L.region.length
  | 5 => some (s.bent b).index
  | 6 => some k
  | 7 => some L.ctx
  | 8 => some L.seq
  | 9 => some ((if s.device.fabidValid then 2 ^ 16 else 0) + s.device.fabid.toNat)
  | _ => none

def execIdent (d : XReg) (sel : BitVec 10) (s : State) : Out :=
  s.issue { wx := [d] } (fun b k st =>
    match s.identity b k st sel.toNat with
    | some v => .next (s.setStrand b k (st.wx d (BitVec.ofNat 64 v)).next)
    | none => .next (s.trap b k st 0x0001))

/-! ### Control registers (R55, R64 to R66, R258, R269, R373) -/

/-- R269: the word that a read of EVQ returns. -/
def EvEntry.word (e : EvEntry) : Word :=
  (1 : BitVec 1) ++ (if e.ovf then (1 : BitVec 1) else 0) ++ e.status ++ e.kind ++ e.space ++ e.addr

/-- R373: the word that a read of VOTELOG returns. -/
def VoteEntry.word (e : VoteEntry) : Word :=
  (1 : BitVec 1) ++ (if e.ovf then (1 : BitVec 1) else 0) ++ BitVec.ofNat 4 e.egr ++ e.bent ++ e.strand ++ e.round ++ e.seq
    ++ BitVec.ofNat 2 e.kind ++ (0 : BitVec 12)

/-- The value of a control register that a read leaves as it is. -/
def State.ctlValue (s : State) (b : Nat) (st : Strand) (n : Nat) : Option Word :=
  let B := s.bent b
  match n with
  | 0x000 => some (st.fpmode.zeroExtend 64)
  | 0x001 => some (st.sigth.zeroExtend 64)
  | 0x002 => some (st.sigen.zeroExtend 64)
  | 0x004 => some st.siglog[0]
  | 0x005 => some st.siglog[1]
  | 0x006 => some st.siglog[2]
  | 0x007 => some st.siglog[3]
  | 0x010 => some st.trapvec
  | 0x011 => some (st.trapcause.zeroExtend 64)
  | 0x012 => some st.trappc
  | 0x020 => some st.wid
  | 0x021 => some (st.round.zeroExtend 64)
  | 0x022 => some (if (s.launch st.lid).det then 1 else 0)
  | 0x024 => some (s.launch st.lid).bufva
  | 0x030 => some (BitVec.ofNat 64 B.ageLimit)
  | 0x031 => some (BitVec.ofNat 64 B.dlWindow)
  | 0x032 => some B.dlsnap[0]
  | 0x033 => some B.dlsnap[1]
  | 0x034 => some B.dlsnap[2]
  | 0x035 => some B.dlsnap[3]
  | 0x041 => some (BitVec.ofNat 64 s.dtime)
  | _ => none

/-- R269: a read of EVQ removes the entry it returns. -/
def State.readEvq (s : State) (b k : Nat) (st : Strand) (d : XReg) : State :=
  match st.evq with
  | [] => s.setStrand b k (st.wx d 0).next
  | e :: es => s.setStrand b k ({ st.wx d e.word with evq := es }).next

/-- R373: a read of VOTELOG removes the entry it returns. -/
def State.readVotelog (s : State) (b k : Nat) (st : Strand) (d : XReg) : State :=
  match (s.bent b).votelog with
  | [] => s.setStrand b k (st.wx d 0).next
  | e :: es => (s.updBent b (fun B => { B with votelog := es })).setStrand b k (st.wx d e.word).next

def execEvqRead (d : XReg) (s : State) : Out := s.issue { wx := [d] } (fun b k st => .next (s.readEvq b k st d))

def execVotelogRead (d : XReg) (s : State) : Out := s.issue { wx := [d] } (fun b k st => .next (s.readVotelog b k st d))

/-- R131. -/
def execCtlRd (d : XReg) (n : BitVec 10) (s : State) : Out :=
  s.issue { wx := [d] } (fun b k st =>
    if n = 0x023 then .next (s.readEvq b k st d)
    else if n = 0x040 then .next (s.readVotelog b k st d)
    else
      match s.ctlValue b st n.toNat with
      | some v => .next (s.setStrand b k (st.wx d v).next)
      | none => .next (s.trap b k st 0x0001))

/-- R65: Sat of an unsigned value. -/
def clampTo (lo hi n : Nat) : Nat := Nat.min hi (Nat.max lo n)

/-- An address with bits [1:0] clear. -/
def alignPc (x : Word) : Word := x &&& ~~~3

/-- R55, R64 to R66: a write of a strand-scope register. -/
def Strand.ctlWrite (st : Strand) (n : Nat) (x : Word) : Option Strand :=
  match n with
  | 0x000 => some { st with fpmode := x.extractLsb' 0 3 }
  | 0x001 => some { st with sigth := if 25 ≤ (x.extractLsb' 0 5).toNat then 24 else x.extractLsb' 0 5 }
  | 0x002 => some { st with sigen := x.extractLsb' 0 3 }
  | 0x010 => some { st with trapvec := alignPc x }
  | 0x012 => some { st with trappc := alignPc x }
  | _ => none

/-- R368: AGE_LIMIT and DL_WINDOW of a bent logged for rollback. -/
def State.logCtl (s : State) (b : Nat) (st : Strand) : State :=
  let B := s.bent b
  s.updLaunch st.lid (fun L => L.logOp st.round (.ctl B.index B.ageLimit B.dlWindow))

/-- R131, R65. DL_WINDOW is in use from the next slot boundary. -/
def execCtlWr (a : XReg) (n : BitVec 10) (s : State) : Out :=
  s.issue { rx := [a] } (fun b k st =>
    let x := st.rx a
    if n = 0x030 then .next (((s.updBent b (fun B => { B with ageLimit := clampTo 4 4096 x.toNat })).logCtl b st).setStrand b k st.next)
    else if n = 0x031 then
      .next (((s.updBent b (fun B => { B with dlWindow := clampTo 64 65536 x.toNat })).logCtl b st).setStrand b k st.next)
    else
      match st.ctlWrite n.toNat x with
      | some st1 => .next (s.setStrand b k st1.next)
      | none => .next (s.trap b k st 0x0001))

end Sys2Proof.Machine
end

