-- ==== Sys2Proof/Machine/Mortise.lean ====
section
/-! DEFINITION. The Mortise: landing and the header check (R79, R247), ageing and nomination (R253), matching (R249 to
R252), and deadlock detection (R256 to R258). -/

namespace Sys2Proof.Machine

/-! ### Heads (R246, R253) -/

def Bent.buffer (B : Bent) (e : Nat) : List InCell := NMap.getD B.inbuf e []

/-- R247: input space. -/
def Bent.space (B : Bent) (e : Nat) : Bool := decide ((B.buffer e).length < 4)

/-- The head cell that a head names. -/
def Bent.headCell (B : Bent) (i : Nat) (h : HeadId) : Option QCell :=
  match h with
  | .uni e c => (B.sub i e c).head?
  | .multi => (B.mcast i).head?

/-- The egresses that a head still has to reach. -/
def QCell.towards (q : QCell) (h : HeadId) : BitVec 16 :=
  match h with
  | .uni e _ => oneHot e
  | .multi => q.residue

/-- Change the head cell that a head names. -/
def Bent.updHead (B : Bent) (i : Nat) (h : HeadId) (f : QCell → QCell) : Bent :=
  match h with
  | .uni e c =>
    (match B.sub i e c with
     | [] => B
     | q :: qs => { B with voq := NMap.set B.voq (voqKey i e c) (f q :: qs) })
  | .multi =>
    match B.mcast i with
    | [] => B
    | q :: qs => { B with mq := NMap.set B.mq i (f q :: qs) }

/-- The heads of an ingress that have an age: classes 1 to 3. -/
def Bent.agedHeads (B : Bent) (i : Nat) : List (HeadId × QCell) :=
  let uni := (List.range 16).flatMap (fun e => [1, 2, 3].filterMap (fun c =>
    (B.headCell i (.uni e c)).map (fun q => ((HeadId.uni e c), q))))
  let multi := ((B.headCell i .multi).filter (fun q => q.cell.cls != 0)).map (fun q => (HeadId.multi, q))
  uni ++ multi.toList

/-- R253: whether some egress of a head has input space. -/
def Bent.canServe (B : Bent) (h : HeadId) (q : QCell) : Bool := (bitsOf (q.towards h)).any B.space

/-- R253: a head whose age has reached AGE_LIMIT is aged from this slot; one below a raised limit is not. -/
def QCell.mark (q : QCell) (limit slot : Nat) : QCell :=
  if q.age < limit then { q with agedAt := none }
  else { q with agedAt := some (q.agedAt.getD slot) }

def Bent.markHead (B : Bent) (i : Nat) (h : HeadId) : Bent := B.updHead i h (fun q => q.mark B.ageLive B.slot)

def Bent.markAged (B : Bent) : Bent :=
  (List.range 16).foldl (fun B i => (B.agedHeads i).foldl (fun B x => B.markHead i x.1) B) B

/-- R65, R253: the age of a head reaches the AGE_LIMIT in use. -/
def execHeadAged (b i : Nat) (h : HeadId) (s : State) : Out :=
  match (s.bent b).headCell i h with
  | none => .next s
  | some q => if q.cell.cls = 0 then .next s else .next (s.updBent b (fun B => B.markHead i h))

/-- R253: the order among aged heads of an ingress: by slot, egress, class, unicast first. -/
def nomineeKey (h : HeadId) (q : QCell) : Nat :=
  let m := match h with | .multi => 1 | .uni _ _ => 0
  ((q.agedAt.getD 0 * 16 + firstEgress (q.towards h)) * 4 + q.cell.cls.toNat) * 2 + m

/-- The first element of least key. -/
def leastBy {α : Type} (key : α → Nat) : List α → Option α
  | [] => none
  | x :: l => some (l.foldl (fun m y => if key y < key m then y else m) x)

/-- R253: the nominee of an ingress. -/
def Bent.nominee (B : Bent) (i : Nat) : Option HeadId :=
  (leastBy (fun x => nomineeKey x.1 x.2) ((B.agedHeads i).filter (fun x => x.2.agedAt.isSome && B.canServe x.1 x.2))).map
    (fun x => x.1)

/-! ### Matching (R249 to R251) -/

/-- A request: its level as an egress ranks it (0 L0, 1 AGED, 2 to 4 L1 to L3) and the head it stands for. -/
structure Req where
  rank : Nat
  head : HeadId
  deriving DecidableEq, Repr, Inhabited

/-- R249: how an ingress ranks a level. -/
def Req.accept (r : Req) : Nat := if r.rank = 0 then 1 else if r.rank = 1 then 0 else r.rank

/-- R249: the level of a head that is not the nominee. -/
def classRank (c : BitVec 2) : Nat := if c = 0 then 0 else c.toNat + 1

def headTie (h : HeadId) : Nat := match h with | .multi => 1 | .uni _ _ => 0

/-- Whether a head has a copy for an egress. -/
def Bent.reaches (B : Bent) (i : Nat) (h : HeadId) (e : Nat) : Bool :=
  match B.headCell i h with
  | some q => bit (q.towards h) e
  | none => false

/-- R249: the level at which a head requests. -/
def Bent.rankOf (B : Bent) (i : Nat) (nom : Option HeadId) (h : HeadId) : Nat :=
  if nom = some h then 1 else match B.headCell i h with | some q => classRank q.cell.cls | none => 4

/-- R249: Best(i, e). -/
def Bent.best (B : Bent) (i e : Nat) (nom : Option HeadId) : Option Req :=
  match nom.filter (fun h => B.reaches i h e) with
  | some h => some ⟨1, h⟩
  | none =>
    let hs := ([0, 1, 2, 3].map (HeadId.uni e) ++ [HeadId.multi]).filter (fun h => B.reaches i h e)
    let key (h : HeadId) : Nat :=
      match B.headCell i h with
      | some q => (q.cell.cls.toNat * 2 ^ 64 + q.stamp) * 2 + headTie h
      | none => 0
    (leastBy key hs).map (fun h => ⟨B.rankOf i nom h, h⟩)

/-- A matching as it grows: matched egresses, the head each ingress holds, the grants accepted, the pointers. -/
structure Matching where
  matched : List Nat := []
  held : NMap HeadId := []
  grants : List (Nat × Nat × HeadId) := []
  gp : Vector (BitVec 4) 16
  ap : Vector (BitVec 4) 16
  acp : Vector (BitVec 4) 16
  deriving DecidableEq, Repr

def ptrAt (v : Vector (BitVec 4) 16) (n : Nat) : Nat := (v[n]?.getD 0).toNat
def ptrSet (v : Vector (BitVec 4) 16) (n k : Nat) : Vector (BitVec 4) 16 := v.setIfInBounds n (BitVec.ofNat 4 k)

/-- R250: what an ingress requests of an egress. -/
def Matching.request (M : Matching) (B : Bent) (noms : NMap HeadId) (i e : Nat) : Option Req :=
  match NMap.get? M.held i with
  | none => B.best i e (NMap.get? noms i)
  | some .multi => if B.reaches i .multi e then some ⟨B.rankOf i (NMap.get? noms i) .multi, .multi⟩ else none
  | some (.uni _ _) => none

/-- R250: the grant of an egress: the ingress and its request. -/
def Matching.grant (M : Matching) (B : Bent) (noms : NMap HeadId) (e : Nat) : Option (Nat × Req) :=
  let reqs := (List.range 16).filterMap (fun i => (M.request B noms i e).map (fun r => (i, r)))
  match leastBy (fun x => x.2.rank) reqs with
  | none => none
  | some best =>
    let ptr := if best.2.rank = 1 then ptrAt M.ap e else ptrAt M.gp e
    (rotate ptr 16).findSome? (fun i => reqs.find? (fun x => x.1 == i && x.2.rank == best.2.rank))

/-- R250, R251: an ingress accepts among its grants (egress and request); pointers move in the first iteration. -/
def Matching.accept (M : Matching) (i : Nat) (gs : List (Nat × Req)) (first : Bool) : Matching :=
  let multis := gs.filter (fun g => g.2.head == .multi)
  let order := rotate (ptrAt M.acp i) 16
  let chosen := leastBy (fun g => g.2.accept) (order.filterMap (fun e => gs.find? (fun g => g.1 == e)))
  match chosen with
  | none => M
  | some g =>
    let A := if NMap.has M.held i then multis else if g.2.head = .multi then multis else [g]
    let M1 := { M with
      matched := M.matched ++ A.map (fun x => x.1)
      held := if NMap.has M.held i then M.held else NMap.set M.held i g.2.head
      grants := M.grants ++ A.map (fun x => (i, x.1, x.2.head)) }
    if first then
      { M1 with
        ap := A.foldl (fun v x => if x.2.rank = 1 then ptrSet v x.1 (i + 1) else v) M1.ap
        gp := A.foldl (fun v x => if x.2.rank = 1 then v else ptrSet v x.1 (i + 1)) M1.gp
        acp := ptrSet M1.acp i (g.1 + 1) }
    else M1

/-- R250: one iteration. -/
def Matching.iterate (M : Matching) (B : Bent) (noms : NMap HeadId) (first : Bool) : Matching :=
  let gs := ((List.range 16).filter (fun e => B.space e && !M.matched.contains e)).filterMap (fun e =>
    (M.grant B noms e).map (fun x => (e, x.1, x.2)))
  (List.range 16).foldl (fun M i =>
    M.accept i ((gs.filter (fun g => g.2.1 == i)).map (fun g => (g.1, g.2.2))) first) M

/-- R250: the matching of a slot. -/
def Bent.match3 (B : Bent) : Matching :=
  let noms : NMap HeadId := (List.range 16).filterMap (fun i => (B.nominee i).map (fun h => (i, h)))
  let M0 : Matching := { gp := B.gp, ap := B.ap, acp := B.acp }
  ((M0.iterate B noms true).iterate B noms false).iterate B noms false

/-! ### Movement (R247, R252) -/

/-- R250: a matched cell leaves its queue, or a copy of a multicast head does. -/
def Bent.move (B : Bent) (g : Nat × Nat × HeadId) : Bent :=
  match B.headCell g.1 g.2.2 with
  | none => B
  | some q =>
    let B1 := { B with landing := B.landing ++ [(g.2.1, InCell.mk q.cell q.side g.1)] }
    match g.2.2 with
    | .uni e c => { B1 with voq := NMap.set B1.voq (voqKey g.1 e c) ((B1.sub g.1 e c).drop 1) }
    | .multi =>
      let r := q.residue &&& ~~~oneHot g.2.1
      if r = 0 then { B1 with mq := NMap.set B1.mq g.1 ((B1.mcast g.1).drop 1) }
      else B1.updHead g.1 .multi (fun q => { q with residue := r })

/-- R253: the heads that were not matched grow older, where some egress had space. -/
def Bent.grow (B : Bent) (M : Matching) : Bent :=
  (List.range 16).foldl (fun A i => (B.agedHeads i).foldl (fun A x =>
    if !M.grants.any (fun g => g.1 == i && g.2.2 == x.1) && B.canServe x.1 x.2 then
      A.updHead i x.1 (fun q => { q with age := q.age + 1 })
    else A) A) B

/-- R367: an uncorrectable error counted and reported. -/
def State.countUe (s : State) (p : Nat) (u : ErrUnit) : State :=
  (s.updPart p (fun P => { P with ue := Nat.min (P.ue + 1) (2 ^ 32 - 1) })).toHostMsg (.uncorrectable p u)

/-- R79, R247, R81: a cell lands at its egress and is counted on its pair; one whose header check fails is discarded and
starts a rollback. -/
def State.land (s : State) (b : Nat) (x : Nat × InCell) : State :=
  let c := x.2.cell
  if c.hcrc ≠ c.crc then (s.countUe (s.launch x.2.side.lid).part (.header b x.1)).startRollback x.2.side.lid
  else
    s.updBent b (fun B =>
      let B1 := { B with inbuf := NMap.set B.inbuf x.1 (B.buffer x.1 ++ [x.2]) }
      if c.rmk then B1 else B1.arrived x.2.ing x.1 c x.2.side)

/-! ### Cycles (R256, R257) -/

/-- The feedback ingress of an engine (R4). -/
def fbOf (e : Nat) : Option Nat :=
  if e < 2 then some 12 else if e < 4 then some 13 else if e < 8 then some 14
  else if e = 8 ∨ e = 9 ∨ e = 10 ∨ e = 14 then some 15 else none

/-- The engines behind a feedback ingress. -/
def fbEngines (f : Nat) : List Nat := (List.range 16).filter (fun e => fbOf e == some f)

abbrev Queue := Nat × Nat × Bool

/-- R256: a queue is blocked. -/
def Bent.blocked (B : Bent) (q : Queue) : Bool :=
  decide ((B.buffer q.2.1).length = 4)
    && (if q.2.2 then B.reaches q.1 .multi q.2.1 else decide (0 < B.voqLen q.1 q.2.1))

/-- Whether a feedback port has room for a cell. -/
def Bent.fbRoom (B : Bent) (f : Nat) (c : Cell) : Bool :=
  if popMask c.dest = 1 then B.voqRoom f (firstEgress c.dest) c.cls.toNat else B.mqRoom f c.cls.toNat

/-- R256: the full queue on which an engine's result waits. -/
def Bent.waitsOn (B : Bent) (e : Nat) : List Queue :=
  match fbOf e, (NMap.getD B.emit e []).head? with
  | some f, some m =>
    if B.fbRoom f m.cell then []
    else if popMask m.cell.dest = 1 then [(f, firstEgress m.cell.dest, false)].filter B.blocked
    else ((List.range 16).map (fun g => (f, g, true))).filter B.blocked
  | _, _ => []

def Queue.key (q : Queue) : Nat := (q.1 * 16 + q.2.1) * 2 + (if q.2.2 then 1 else 0)

/-- Cycles through a queue that is their lowest. -/
def Bent.cyclesFrom (B : Bent) (start : Queue) : Nat → List Queue → List (List Queue)
  | 0, _ => []
  | n + 1, path =>
    match path with
    | [] => []
    | q :: _ =>
      (B.waitsOn q.2.1).flatMap (fun r =>
        if r = start then [path.reverse]
        else if Queue.key r < Queue.key start ∨ path.contains r then []
        else B.cyclesFrom start n (r :: path))

/-- R256: every cycle of a bent. -/
def Bent.cycles (B : Bent) : List (List Queue) :=
  let all : List Queue := (List.range 4).flatMap (fun f => (List.range 16).flatMap (fun e =>
    [(12 + f, e, false), (12 + f, e, true)]))
  (all.filter B.blocked).flatMap (fun q => B.cyclesFrom q 12 [q])

/-- What stands in the queues of a cycle and in the buffers of its egresses. -/
def Bent.standing (B : Bent) (qs : List Queue) : List (List Nat × List InCell) :=
  qs.map (fun q =>
    ((if q.2.2 then B.mcast q.1
      else B.sub q.1 q.2.1 0 ++ B.sub q.1 q.2.1 1 ++ B.sub q.1 q.2.1 2 ++ B.sub q.1 q.2.1 3).map (fun c => c.stamp),
     B.buffer q.2.1))

/-- R58: whether a tenon of an egress is frozen. -/
def Tenon.isFrozen (T : Tenon) : Bool :=
  T.routines.any (fun r => r.2.hold == .frozen || r.2.hold == .faulted) || !T.closes.isEmpty

def Bent.frozenAt (B : Bent) (e : Nat) : Bool :=
  decide (4 ≤ e ∧ e ≤ 7) && (NMap.getD B.tenons (e - 4) {}).isFrozen

/-- R257: the still-counts after a slot. -/
def Bent.countStills (B : Bent) : List Still :=
  B.cycles.map (fun qs =>
    let seen := B.standing qs
    match B.stills.find? (fun t => t.queues == qs) with
    | some t =>
      if t.seen ≠ seen then ⟨qs, 0, seen⟩
      else if qs.any (fun q => B.frozenAt q.2.1) then t
      else ⟨qs, t.count + 1, seen⟩
    | none => ⟨qs, 0, seen⟩)

/-! ### A slot (R250, R388) -/

/-- R247 to R253: matching and movement of one slot, with its cells landed. -/
def Bent.slotOf (B : Bent) : Bent :=
  let B1 := B.markAged
  let M := B1.match3
  let B2 := M.grants.foldl Bent.move (B1.grow M)
  let B3 := { B2 with gp := M.gp, ap := M.ap, acp := M.acp, slot := B2.slot + 1 }
  { B3 with stills := B3.countStills }

/-- R65, R132: a slot begins: the limits written since the last one are in use. -/
def Bent.nextSlot (B : Bent) : Bent := { B with gateCount := B.gateCount + 1, dlLive := B.dlWindow, ageLive := B.ageLimit }

/-- R250: one slot of a bent; in a gated slot no matching runs and nothing is counted (R388), and cells matched before it land at
the start of the next slot that is not gated (DESIGN CHOICE, log entry 31). -/
def execMortiseSlot (b : Nat) (s : State) : Out :=
  let B := s.bent b
  if B.gateCount % 16 < s.device.gate then .next (s.setBent b B.nextSlot)
  else
    let s1 := B.landing.foldl (fun t x => t.land b x) (s.setBent b { B.nextSlot with landing := [] })
    .next (s1.updBent b Bent.slotOf)

/-! ### Detection (R257, R258) -/

/-- R258: the head recorded for a queue: the one that Best of its ingress and egress would choose (R249). -/
def Bent.recorded (B : Bent) (q : Queue) : Option Cell :=
  ((B.best q.1 q.2.1 (B.nominee q.1)).bind (fun r => B.headCell q.1 r.head)).map (fun c => c.cell)

/-- R258: a queue entry. -/
def Bent.snapEntry (B : Bent) (q : Queue) : Nat :=
  let occ := if q.2.2 then (B.mcast q.1).length else B.voqLen q.1 q.2.1
  q.1 * 2 ^ 12 + q.2.1 * 2 ^ 8 + occ * 2 ^ 4 + (if q.2.2 then 8 else 0) + (B.buffer q.2.1).length

def Bent.snapOwner (B : Bent) (q : Queue) : Nat :=
  match B.recorded q with
  | some c => c.cls.toNat * 64 + c.strand.toNat * 4
  | none => 0

/-- Fields of w bits each, the first lowest. -/
def packNats (w : Nat) (l : List Nat) : Nat := l.foldr (fun x t => x + 2 ^ w * t) 0

/-- R258: the snapshot registers. -/
def Bent.snapshot (B : Bent) (dtime : Nat) (qs : List Queue) : Vector Word 4 :=
  #v[BitVec.ofNat 64 (dtime % 2 ^ 32 * 2 ^ 32 + qs.length * 2 ^ 28 + B.dlLive),
     BitVec.ofNat 64 (packNats 16 ((qs.take 4).map B.snapEntry)),
     BitVec.ofNat 64 (packNats 16 (((qs.drop 4).take 4).map B.snapEntry)),
     BitVec.ofNat 64 (packNats 8 ((qs.take 8).map B.snapOwner))]

/-- R257: the strand that the BENT and STRAND of a cell name: who enqueued it, or for the marker of a feedback port the strand in
that slot. -/
def State.named (s : State) (c : Cell) (d : Side) : Nat × Nat × Nat :=
  match d.src with
  | .engine _ =>
    if c.rmk then
      (match s.strand? c.bent.toNat c.strand.toNat with
       | some st => (d.lid, st.ownerBent, st.ownerSlot)
       | none => (d.lid, c.bent.toNat, c.strand.toNat))
    else (d.lid, d.ownerBent, d.ownerSlot)
  | _ => (d.lid, d.ownerBent, d.ownerSlot)

/-- R257: the strands that the head cells of a cycle name, each once. -/
def State.cycleStrands (s : State) (b : Nat) (qs : List Queue) : List (Nat × Nat × Nat) :=
  let B := s.bent b
  let heads := qs.flatMap (fun q =>
    (if q.2.2 then [HeadId.multi] else [0, 1, 2, 3].map (HeadId.uni q.2.1)).filterMap (fun h => B.headCell q.1 h))
  (heads.map (fun q => s.named q.cell q.side)).eraseDups

/-- R257, R65: a still-count reaches the DL_WINDOW in use. -/
def execDeadlockDetection (b k : Nat) (s : State) : Out :=
  let B := s.bent b
  match B.stills[k]? with
  | none => .next s
  | some t =>
    if t.count < B.dlLive then .next s
    else
      let s1 := s.setBent b
        { B with dlsnap := B.snapshot s.dtime t.queues, stills := B.stills.set k { t with count := 0 } }
      .next ((s.cycleStrands b t.queues).foldl (fun u o => u.raiseTrap o.1 o.2.1 o.2.2 { cause := 0x0040 }) s1)

end Sys2Proof.Machine
end

