-- ==== Sys2Proof/Machine/Emit.lean ====
section
/-! DEFINITION. What the engines share: taking input (R81, R227, R255), faults (R228), route blocks and emissions (R229,
R326, R396), feedback (R219), rendezvous and the sink (R168, R170, R255, R395). -/

namespace Sys2Proof.Machine

/-! ### Input -/

/-- R81: the round that a unit is in. -/
def Bent.roundAt (B : Bent) (e : Nat) : BitVec 16 := NMap.getD B.unitRound e 0

/-- R81: a cell of a round that the unit has not entered. -/
def Bent.early (B : Bent) (e : Nat) (c : Cell) : Bool := roundBefore (B.roundAt e) c.round

/-- What an engine consumes: its operands by OPIX, and whether they come from rendezvous storage. -/
structure EngIn where
  ops : List InCell
  stored : Bool
  deriving DecidableEq, Repr, Inhabited

/-- The head of an input buffer, where its round has been entered. -/
def Bent.headIn (B : Bent) (e : Nat) : Option InCell := (B.buffer e).head?.filter (fun c => !B.early e c.cell)

/-- The operation that an engine takes next: one that has fired, else the head of its input buffer when that is neither a
marker nor a rendezvous operand. -/
def Bent.engIn (B : Bent) (e : Nat) : Option EngIn :=
  match B.fired.find? (fun x => x.1 == e) with
  | some x => some ⟨x.2, true⟩
  | none => ((B.headIn e).filter (fun c => !c.cell.rmk && c.cell.opcnt == 0)).map (fun c => ⟨[c], false⟩)

/-- The input gone. -/
def Bent.consume (B : Bent) (e : Nat) (x : EngIn) : Bent :=
  if x.stored then { B with fired := removeFirst (fun y => y.1 == e) B.fired }
  else { B with inbuf := NMap.set B.inbuf e ((B.buffer e).drop 1) }

/-- R229: whether an engine's next result can be handed on, or it has none. -/
def Bent.engFree (B : Bent) (e : Nat) : Bool :=
  match fbOf e, (NMap.getD B.emit e []).head? with
  | some f, some m => B.fbRoom f m.cell
  | _, _ => true

/-- An engine takes the operation of an OP value that stands before it. -/
def State.engine (s : State) (b e : Nat) (op : Nat) (body : Bent → EngIn → InCell → State) : Out :=
  let B := s.bent b
  match B.engIn e with
  | none => .next s
  | some x =>
    match x.ops with
    | [] => .next s
    | c :: _ =>
      if B.engFree e && c.cell.kind.toNat * 256 + c.cell.code.toNat == op then .next (body B x c) else .next s

/-- R228: the fault of an engine operation, taken by the strand of its cell. -/
def State.engFault (s : State) (d : Side) (cause : BitVec 16) : State :=
  s.raiseTrap d.lid d.ownerBent d.ownerSlot { cause := cause }

/-- An operation consumed. -/
def State.eat (s : State) (b e : Nat) (x : EngIn) : State := s.updBent b (fun B => B.consume e x)

/-- An operation refused. -/
def State.refuse (s : State) (b e : Nat) (x : EngIn) (c : InCell) (cause : BitVec 16) : State :=
  (s.eat b e x).engFault c.side cause

/-- R227: an operation with the operands of the table, else refused. -/
def State.withOperands (s : State) (b e : Nat) (x : EngIn) (c : InCell) (n : Nat) (body : State) : State :=
  if x.ops.length = n then body else s.refuse b e x c 0x0001

/-- R74: a cell's meaningful bytes: those below LEN. -/
def Cell.bytes (c : Cell) : List Byte := padTo c.len.toNat 0 (c.payload.take c.len.toNat)

/-- R74: a payload byte; bytes from LEN upward read as 0. -/
def Cell.byte (c : Cell) (n : Nat) : Byte := if n < c.len.toNat then c.payload.getD n 0 else 0

/-- R52: a byte of the payload, which in a tagged cell also holds counts above LEN. -/
def Cell.rawByte (c : Cell) (n : Nat) : Byte := if c.tag then c.payload.getD n 0 else c.byte n

/-- A number in a payload. -/
def Cell.num (c : Cell) (off n : Nat) : Nat := leNat ((List.range n).map (fun k => c.byte (off + k)))

/-! ### Route blocks (R229) -/

structure Route where
  desc : Word
  arg : BitVec 32
  address : Word
  stride : Int
  bt : Option Nat
  reserved : Bool
  deriving DecidableEq, Repr, Inhabited

def Route.of (l : List Byte) : Route :=
  { desc := BitVec.ofNat 64 (bytesAt l 0 8), arg := BitVec.ofNat 32 (bytesAt l 8 4), address := BitVec.ofNat 64 (bytesAt l 12 8)
    stride := signedOf 32 (bytesAt l 20 4), bt := routeBt l
    reserved := decide (2 ≤ bytesAt l 25 1) || bytesAt l 26 6 != 0 }

/-- The route block of an operand cell. -/
def Cell.route (c : Cell) : Route := Route.of (padTo 32 0 (c.bytes.take 32))

/-- A cell to emit: its payload, LEN, format and markers, and the place of its first byte from ADDRESS. -/
structure Piece1 where
  bytes : List Byte
  len : Nat
  fmt : BitVec 5
  tag : Bool := false
  iqrec : Bool := false
  eor : Bool := false
  eot : Bool := false
  off : Int
  pois : Bool := false
  done : OnAccept := .nothing
  deriving DecidableEq, Repr, Inhabited

/-- R229: the header of an emitted cell before its own fields. -/
def Route.header (R : Route) : Cell :=
  { descCell R.desc with len := 0, tag := false, fmt := 0, iqrec := false, eor := false, eot := false, arg := R.arg }

/-- R229: where a piece goes. -/
def Route.at (R : Route) (p : Piece1) : Word := R.address + BitVec.ofInt 64 p.off

/-- R229, R396: the address check of one piece. -/
def State.pieceOk (s : State) (lid : Nat) (R : Route) (p : Piece1) : Bool :=
  match R.bt with
  | some _ => true
  | none => !takesAddr R.header || addrOk (s.regionOf lid) (R.at p)

/-- R229: an emission beyond its buffer. -/
def Buffer.beyond (B : Buffer) (R : Route) (ps : List Piece1) : Bool :=
  ps.any (fun p =>
    let lo : Int := (R.address.toNat : Int) + p.off
    decide (lo < 0) || decide ((B.bytes : Int) < lo + (p.len : Int)))

/-- R229: the conditions under which nothing is emitted. -/
def State.routeCheck (s : State) (lid : Nat) (R : Route) (ps : List Piece1) : Option (BitVec 16) :=
  let c := R.header
  match headerCheck c (!ps.all (s.pieceOk lid R)) with
  | some e => some e
  | none =>
    let buf := R.bt.map (fun n => NMap.get? (s.launch lid).bufs n)
    firstFail
      [ (descReserved R.desc || descAtarg R.desc != 0, 0x0001),
        (!destOk .cell c.dest && !destOk .cellm c.dest, 0x0001),
        (c.opcnt != 0 || c.opix != 0, 0x0001),
        (R.reserved, 0x0001),
        (match buf with
         | some (some B) => !B.shadow || B.beyond R ps
         | some none => true
         | none => false, 0x0001) ]

/-- R229, R216: the key of a counter of sequence numbers: strand and destination. -/
def seqKey (e : Nat) (d : Side) (dest : BitVec 16) : Nat :=
  ((e * 65536 + who d.ownerBent d.ownerSlot) * 65536) + dest.toNat

/-- The next sequence number of an engine for a strand and destination. -/
def Bent.nextSeq (B : Bent) (e : Nat) (d : Side) (dest : BitVec 16) : BitVec 16 := NMap.getD B.engSeq (seqKey e d dest) 0

/-- R229: a cell with its sequence numbers, and the counter moved on; SEQP of the first cell is 0xFFFF (DESIGN CHOICE, log entry
49). -/
def Bent.sequenced (B : Bent) (e : Nat) (d : Side) (c : Cell) : Cell × Bent :=
  let n := B.nextSeq e d c.dest
  ({ c with seq := n, seqp := n - 1, seqs := n }, { B with engSeq := NMap.set B.engSeq (seqKey e d c.dest) (n + 1) })

/-- R229: an emitted cell and what travels with it. A write into a shadow counts as one of the strand that sent the cell acted
on, of a drain cell where it is a command of the strand; a drain cell that an engine emits is none (R318). ADDR follows ADDRESS in
every buffer that BT names, whatever DEST is, and STRIDE has a meaning in `mx.drain` alone (DESIGN CHOICE, log entry 49). -/
def emitCell (e : Nat) (trig : Cell) (d : Side) (R : Route) (p : Piece1) (poison : Bool) (iq : Option Nat) : Cell × Side :=
  let h := R.header
  let addr : BitVec 48 :=
    match R.bt with
    | some _ => (R.at p).extractLsb' 0 48
    | none => if takesAddr h then (addrField (R.at p)).getD 0 else 0
  ({ h with
      len := BitVec.ofNat 9 p.len, fmt := p.fmt, tag := p.tag, iqrec := p.iqrec, eor := p.eor, eot := p.eot, addr := addr
      cls := trig.cls, round := trig.round, bent := trig.bent, strand := trig.strand, ctx := trig.ctx, modes := trig.modes
      poison := poison || p.pois, payload := padTo 256 0 p.bytes },
   { d with src := .engine e, amo := none, prov := none, shadow := R.bt, drain := R.bt.isSome && !h.isDrain && (if trig.isDrain then d.drain else d.byStrand), iq := iq, via := none })

/-- A result offered to the feedback port. -/
def Bent.offer (B : Bent) (e : Nat) (d : Side) (c : Cell) (done : OnAccept) : Bent :=
  let r := B.sequenced e d c
  { r.2 with emit := NMap.modify r.2.emit e [] (fun l => l ++ [⟨r.1, d, done⟩]) }

/-- R229: results emitted by a route. -/
def Bent.emitAll (B : Bent) (e : Nat) (trig : Cell) (d : Side) (R : Route) (ps : List Piece1) (poison : Bool)
    (iq : Option Nat) : Bent :=
  ps.foldl (fun B p => let x := emitCell e trig d R p poison iq; B.offer e x.2 x.1 p.done) B

/-- R229: 256-byte cells of a run of bytes, the last with EOT; an empty run gives one empty cell. -/
def runPieces (fmt : BitVec 5) (iqrec : Bool) (bytes : List Byte) : List Piece1 :=
  let cs := chunks 256 (bytes.length / 256 + 1) bytes
  if cs.isEmpty then [{ bytes := [], len := 0, fmt := fmt, iqrec := iqrec, eot := true, off := 0 }]
  else cs.zipIdx.map (fun x =>
    { bytes := x.1, len := x.1.length, fmt := fmt, iqrec := iqrec, eot := x.2 + 1 == cs.length, off := 256 * (x.2 : Int) })

/-- Whether any operand is poisoned. -/
def anyPoison (l : List InCell) : Bool := l.any (fun c => c.cell.poison)

/-! ### Feedback (R219, R229) -/

/-- R81, R219: a cell that a feedback port has sent counts on its pairs. -/
def fbKey (f e : Nat) (round : BitVec 16) : Nat := (f * 16 + e) * 65536 + round.toNat

def Bent.fbCount (B : Bent) (f : Nat) (c : Cell) : Bent :=
  { B with fbSent := (bitsOf c.dest).foldl (fun m e => NMap.modify m (fbKey f e c.round) 0 (· + 1)) B.fbSent }

/-- R219: the marker of a feedback pair. -/
def fbMarker (b ctx f e : Nat) (round : BitVec 16) (n : Nat) : Cell × Side × Nat :=
  ({ dest := oneHot e, rmk := true, round := round, arg := BitVec.ofNat 32 n, len := 0, bent := BitVec.ofNat 8 b
     ctx := BitVec.ofNat 6 ctx }, { src := .engine f }, f)

/-- R219: whether every engine behind a feedback port has entered the round after n. -/
def Bent.fbPassed (B : Bent) (f : Nat) (n : BitVec 16) : Bool := (fbEngines f).all (fun e => roundBefore n (B.roundAt e))

/-- R219, R229: a feedback port sends the markers that are due and find room. -/
def State.sendFbMarks (s : State) (b : Nat) : State :=
  match (s.bent b).launch with
  | none => s
  | some lid =>
    (s.bent b).fbSent.foldl (fun t p =>
      let f := p.1 / 65536 / 16
      let e := p.1 / 65536 % 16
      let r : BitVec 16 := BitVec.ofNat 16 (p.1 % 65536)
      let B := t.bent b
      if B.fbPassed f r && B.voqRoom f e 0 then
        let m := fbMarker b (t.launch lid).ctx f e r p.2
        t.setBent b { (B.enqueue f e m.1 { m.2.1 with lid := lid }) with fbSent := NMap.erase B.fbSent p.1 }
      else t) s

/-- R236: a row leaves the drain: cleared, and with the whole tile SNF and SAT. -/
def Mx.rowOut (M : Mx) (row : Nat) (last : Bool) : Mx :=
  match M.drain with
  | none => M
  | some d =>
    let M1 := if d.clear then
        { M with acc := M.acc.filter (fun a => a.1 / 256 != row), accPoison := M.accPoison.filter (fun r => r != row) }
      else M
    let M2 := { M1 with drain := some { d with pos := d.pos + 1 } }
    if last then
      { M2 with
        drain := none
        snf := if d.clear && d.rows == 256 then false else M2.snf
        sat := if d.clear && d.rows == 256 then false else M2.sat }
    else M2

/-- R70, R216: a cell-out slot is full again. -/
def Tenon.fillOut (T : Tenon) (slot r : Nat) : Tenon :=
  { T with
    v := NMap.modify T.v slot {} (fun v => { v with full := true })
    routines := T.routines.map (fun p => if p.1 = r then (p.1, { p.2 with couts := p.2.couts - 1 }) else p) }

/-- R70, R217: a cell-in slot is released. -/
def Tenon.freeIn (T : Tenon) (slot r : Nat) : Tenon :=
  { T with
    v := NMap.modify T.v slot {} (fun v => { v with full := false })
    slotHdr := NMap.erase T.slotHdr slot
    routines := T.routines.map (fun p => if p.1 = r then (p.1, { p.2 with couts := p.2.couts - 1 }) else p) }

/-- What the acceptance of a cell brings about (R70, R216, R217, R236, R299). -/
def State.accepted (s : State) (b e : Nat) (x : OnAccept) : State :=
  match x with
  | .nothing => s
  | .infl lid q n round =>
    s.updLaunch lid (fun L =>
      ({ L with queues := NMap.modify L.queues q default (fun Q => { Q with infl := Q.infl - n }) }).logOp round
        (.infl q false n))
  | .rowDone row last => s.updBent b (fun B => { B with mx := NMap.modify B.mx e {} (fun M => M.rowOut row last) })
  | .coutSlot t slot r iq =>
    let s1 := s.updBent b (fun B => B.updTenon t (fun T => T.fillOut slot r))
    (match iq, (s.bent b).launch with
     | some (q, n), some lid => s1.inflUp lid q n ((s.bent b).roundAt e)
     | _, _ => s1)
  | .cfwdSlot t slot r => s.updBent b (fun B => B.updTenon t (fun T => T.freeIn slot r))

/-- R219, R229: a feedback port accepts the next result of an engine. -/
def execFeedbackAccept (b e : Nat) (s : State) : Out :=
  let B := s.bent b
  match fbOf e, NMap.getD B.emit e [] with
  | some f, m :: ms =>
    if B.fbRoom f m.cell then
      let B1 := { B with emit := NMap.set B.emit e ms }
      let B2 := if popMask m.cell.dest = 1 then B1.enqueue f (firstEgress m.cell.dest) m.cell m.side
        else B1.enqueueM f m.cell m.side
      .next (((s.setBent b (B2.fbCount f m.cell)).accepted b e m.done).sendFbMarks b)
    else .next (s.sendFbMarks b)
  | some _, [] => .next (s.sendFbMarks b)
  | none, _ => .next s

/-! ### Rendezvous (R168, R255) -/

/-- R255, R168: an operand at the head of an input buffer moves to its entry; a second with its OPIX is discarded and traps
its strand, as is one that finds no entry. -/
def execRendezvousOperand (b e : Nat) (s : State) : Out :=
  let B := s.bent b
  match (B.headIn e).filter (fun c => !c.cell.rmk && c.cell.opcnt != 0) with
  | none => .next s
  | some c =>
    let B1 := { B with inbuf := NMap.set B.inbuf e ((B.buffer e).drop 1) }
    let key := rvKey e c.cell.rvt.toNat
    match NMap.get? B.rv key with
    | none => .next ((s.setBent b B1).engFault c.side 0x0001)
    | some v =>
      if NMap.has v.operands c.cell.opix.toNat then .next ((s.setBent b B1).engFault c.side 0x0001)
      else
        let v1 := { v with operands := NMap.set v.operands c.cell.opix.toNat c }
        if (List.range (c.cell.opcnt.toNat + 1)).all (fun k => NMap.has v1.operands k) then
          .next (s.setBent b { B1 with
            rv := NMap.erase B1.rv key
            fired := B1.fired ++ [(e, (List.range (c.cell.opcnt.toNat + 1)).filterMap (NMap.get? v1.operands))] })
        else .next (s.setBent b { B1 with rv := NMap.set B1.rv key v1 })

/-! ### Markers (R81, R395) and the sink (R170) -/

/-- R395: a marker at the head of a buffer is recorded against its pair and frees its place; at WB0, WB1 and GS it is kept,
to be sent on behind the cells that went to other bents. -/
def Bent.takeMarker (B : Bent) (e : Nat) (c : InCell) : Bent :=
  let B1 := ({ B with inbuf := NMap.set B.inbuf e ((B.buffer e).drop 1) }).marked c.ing e c.cell c.side
  if e = egWB0 ∨ e = egWB1 ∨ e = egGS then { B1 with gsMarks := B1.gsMarks ++ [(e, c)] } else B1

/-- R395: a unit takes the marker at the head of its buffer; GS takes its own as it sends (GIRT_SEND). -/
def execMarkerReceipt (b e : Nat) (s : State) : Out :=
  let B := s.bent b
  match (B.buffer e).head? with
  | some c =>
    if c.cell.rmk && e != egGS then
      .next (s.setBent b (B.takeMarker e c))
    else .next s
  | none => .next s

/-- R52, R170: the count field of element 0, whatever its format. -/
def Cell.count0 (c : Cell) : Nat :=
  if (taggedBytes c.fmt).isSome then countField c.fmt c.payload 0 else 0

/-- R170: a data cell at SQ fills its slot. -/
def execSinkData (b : Nat) (s : State) : Out :=
  let B := s.bent b
  match (B.headIn egSQ).filter (fun c => !c.cell.rmk) with
  | none => .next s
  | some c =>
    let n := c.cell.arg.toNat % 16
    if NMap.has B.sinks n then .next s
    else
      let v : SinkSlot :=
        { bytes := (List.range 8).map c.cell.byte, fmt := c.cell.fmt, tag := c.cell.tag, count := c.cell.count0
          poison := c.cell.poison, round := c.cell.round }
      .next (s.setBent b { B with
        inbuf := NMap.set B.inbuf egSQ ((B.buffer egSQ).drop 1), sinks := NMap.set B.sinks n v
        sinkCount := B.sinkCount + (if c.cell.eot then 1 else 0) })

end Sys2Proof.Machine
end

