-- ==== Sys2Proof/Machine/At.lean ====
section
/-! DEFINITION. The atomic unit of a bent (R151, R152, R154, R245). -/

namespace Sys2Proof.Machine

/-- R245: the width of an update in bytes, by FMT code. -/
def atSize (c : Cell) : Nat := if c.fmt = 5 then 8 else 4

/-- R245: an FMT code that suits the operation. -/
def atFmtOk (c : Cell) : Bool := if c.code = 4 then c.fmt == 6 else c.fmt == 4 || c.fmt == 5

/-- R245: the bytes of its operands: b, and for `at.cas` the expected value. -/
def atOperandBytes (c : Cell) : Nat := if c.code = 2 then 16 else 8

/-- R229, R245, R329: the scratchpad offset of an update, with the backing that it is bound to (R160): in the shadow of a
buffer where the route block named one, else in the front. -/
def State.atOffset (s : State) (b : Nat) (c : InCell) : Option (Nat × Option (Nat × Bool)) :=
  let L := s.launch c.side.lid
  match c.side.shadow with
  | some bt =>
    (match NMap.get? L.bufs bt with
     | some B =>
       if B.spad then some ((if B.swap then B.boff else B.second) + c.cell.addr.toNat, some (bt, !B.swap)) else none
     | none => none)
  | none =>
    match addrSpace b c.cell.addr with
    | .own off => if c.side.amo.isSome then some (off, none) else L.spadMap off
    | _ => none

/-- R245: where an update lies, or why it is refused. The address of an `amo` was resolved at its issue. -/
def State.atPlace (s : State) (b : Nat) (c : InCell) : BitVec 16 ⊕ (Nat × Option (Nat × Bool)) :=
  let x := c.cell
  if x.addr.toNat % atSize x ≠ 0 then .inl 0x0002
  else
    match s.atOffset b c with
    | none => .inl 0x0004
    | some (o, bound) =>
      if atFmtOk x = false ∨ x.len.toNat < atOperandBytes x ∨ x.arg.toNat / 32 ≠ 0 then .inl 0x0001
      else .inr (spadAddr b o, bound)

/-- R150: the old value as X[D] receives it. -/
def atReturn (aop n : Nat) (old : List Byte) : Word :=
  if amoZext aop then BitVec.ofNat 64 (leNat old) else BitVec.ofInt 64 (signedOf (8 * n) (leNat old))

/-- R245: the cell that returns an old value to a sink slot. -/
def atReply (c : Cell) (v : Word) (round : BitVec 16) (poison : Bool) : Cell :=
  { dest := oneHot egSQ, cls := c.cls, round := round, bent := c.bent, strand := c.strand, ctx := c.ctx, modes := c.modes
    arg := BitVec.ofNat 32 (c.arg.toNat % 16), len := 8, fmt := 5, poison := poison, payload := padTo 256 0 (leBytes 8 v.toNat) }

/-- The entry of the `amo` behind a cell. -/
def State.amoEntry (s : State) (d : Side) : Option (Nat × Nat × Strand × MemOp) :=
  d.amo.bind (fun x => (s.strand? x.1 x.2.1).bind (fun st =>
    if st.lid = d.lid then (st.ops.find? (fun o => o.id == x.2.2)).map (fun o => (x.1, x.2.1, st, o)) else none))

/-- R151, R154, R245: an update applied: the old value to a load entry, or to SQ on request. -/
def State.atApply (s : State) (b : Nat) (c : InCell) (loc : Nat) (round : BitVec 16) : State :=
  let x := c.cell
  let aop := x.code.toNat - 1
  match s.amoEntry c.side with
  | some (bb, k, st, o) => s.applyAtom bb k st o aop
  | none =>
    let n := atSize x
    let r := s.rmw (s.cellWriter x c.side) loc n aop (x.num 0 8) (x.num 8 8) x.poison
    let t := r.1.wrote x c.side
    if bit x.arg 4 ∧ c.side.amo.isNone then
      t.updBent b (fun B =>
        B.offer egAT { c.side with src := .engine egAT, via := none, prov := none } (atReply x (atReturn aop n r.2.1) round r.2.2) .nothing)
    else t

/-- What the AT of a bent holds. -/
def Bent.heldAt' (B : Bent) : List HeldAt := B.held.map (fun h => ⟨h.cell.side.lid, h.loc, h.cell.cell.round, h.spilled⟩)

/-- R152: an update held or spilled. -/
def State.atHold (s : State) (b : Nat) (c : InCell) (loc : Nat) (bound : Option (Nat × Bool)) : State :=
  let L := s.launch c.side.lid
  let held := (s.bent b).heldAt'
  let spill := arriveSpills held loc c.cell.round
  let h : HeldAtom := { key := L.key c.side.ownerBent c.side.ownerSlot, loc := loc, cell := c, spilled := spill, bound := bound }
  let with_ := spill && !straight held loc c.cell.round
  let s1 := s.updBent b (fun B =>
    { B with held := B.held.map (fun g => if with_ && g.loc == loc then { g with spilled := true } else g) ++ [h] })
  if spill && decide (L.spillRoom < spilledAfter held c.side.lid loc c.cell.round) then
    s1.launchFault c.side.lid 0x07 0 0 0
  else s1

/-- R152, R285, R287: the order in which one address takes its updates: by ROUND, then by key (REL, SLOT, SEQ). -/
def HeldAtom.before (a b : HeldAtom) : Bool :=
  decide (a.loc < b.loc)
    || (a.loc == b.loc
        && (roundBefore a.cell.cell.round b.cell.cell.round || (a.cell.cell.round == b.cell.cell.round
            && (decide (a.key < b.key) || (a.key == b.key && roundBefore a.cell.cell.seq b.cell.cell.seq)))))

/-- R152 step 3: on entering the round after n, the AT applies what it holds of rounds up to n. -/
def State.atClose (s : State) (b : Nat) (n : BitVec 16) : State :=
  let due (h : HeldAtom) : Bool := notAfter h.cell.cell.round n
  let hs := sortBy HeldAtom.before ((s.bent b).held.filter due)
  hs.foldl (fun t h => t.atApply b h.cell h.loc (n + 1)) (s.updBent b (fun B => { B with held := B.held.filter (fun h => !due h) }))

/-- R245: an atomic cell: checked, then applied, or held in a deterministic launch; one into a shadow whose publish is not complete
waits (R160). -/
def State.atOp (s : State) (b op : Nat) : Out :=
  s.engine b egAT op (fun B x c =>
    s.withOperands b egAT x c 1
      (if (match c.side.shadow with | some bt => (s.launch c.side.lid).pubAfter.contains bt | none => false) then s
       else
       match s.atPlace b c with
       | .inl e => s.refuse b egAT x c e
       | .inr (loc, bound) =>
         let s1 := s.eat b egAT x
         if (s.launch c.side.lid).det && !roundBefore c.cell.round (B.roundAt egAT) then s1.atHold b c loc bound
         else s1.atApply b c loc c.cell.round))

def execAtSwap (b : Nat) (s : State) : Out := s.atOp b 0x601
def execAtCas (b : Nat) (s : State) : Out := s.atOp b 0x602
def execAtAdd (b : Nat) (s : State) : Out := s.atOp b 0x603
def execAtFadd (b : Nat) (s : State) : Out := s.atOp b 0x604
def execAtAnd (b : Nat) (s : State) : Out := s.atOp b 0x605
def execAtOr (b : Nat) (s : State) : Out := s.atOp b 0x606
def execAtXor (b : Nat) (s : State) : Out := s.atOp b 0x607
def execAtMin (b : Nat) (s : State) : Out := s.atOp b 0x608
def execAtMax (b : Nat) (s : State) : Out := s.atOp b 0x609
def execAtMinu (b : Nat) (s : State) : Out := s.atOp b 0x60A
def execAtMaxu (b : Nat) (s : State) : Out := s.atOp b 0x60B

end Sys2Proof.Machine
end

