-- ==== Sys2Proof/Machine/Branch.lean ====
section
/-! DEFINITION. Branches, jumps, hardware loops, no-operation and the issue failures of R84 and R118 (R117 to R121). -/

namespace Sys2Proof.Machine

/-- A branch taken or not. -/
def Strand.branch (st : Strand) (c : Bool) (off : BitVec 12) : Strand :=
  if c then st.goto (target st.pc off) else st.next

def State.branchX (s : State) (a b : XReg) (c : Cond) (off : BitVec 12) : Out :=
  s.local { rx := [a, b] } (fun st => st.branch (c.holds (st.rx a) (st.rx b)) off)

def execBrEq (a b : XReg) (off : BitVec 12) (s : State) : Out := s.branchX a b .eq off
def execBrNe (a b : XReg) (off : BitVec 12) (s : State) : Out := s.branchX a b .ne off
def execBrLt (a b : XReg) (off : BitVec 12) (s : State) : Out := s.branchX a b .lt off
def execBrGe (a b : XReg) (off : BitVec 12) (s : State) : Out := s.branchX a b .ge off
def execBrLtu (a b : XReg) (off : BitVec 12) (s : State) : Out := s.branchX a b .ltu off
def execBrGeu (a b : XReg) (off : BitVec 12) (s : State) : Out := s.branchX a b .geu off
def execBcS (c : CReg) (off : BitVec 12) (s : State) : Out := s.local {} (fun st => st.branch (st.rc c) off)
def execBcC (c : CReg) (off : BitVec 12) (s : State) : Out := s.local {} (fun st => st.branch (!st.rc c) off)
def execBsigLt (a : FReg) (n : BitVec 5) (off : BitVec 12) (s : State) : Out :=
  s.local { rf := [a] } (fun st => st.branch (decide ((st.rf a).c.toNat < n.toNat)) off)
def execBsigGe (a : FReg) (n : BitVec 5) (off : BitVec 12) (s : State) : Out :=
  s.local { rf := [a] } (fun st => st.branch (decide (n.toNat ≤ (st.rf a).c.toNat)) off)

def execJal (d : XReg) (off : BitVec 20) (s : State) : Out :=
  s.local { wx := [d] } (fun st => (st.wx d (st.pc + 4)).goto (target st.pc off))

/-- R117: `jr`; a misaligned target traps and writes no link. -/
def execJr (d a : XReg) (imm : BitVec 15) (s : State) : Out :=
  s.issue { rx := [a], wx := [d] } (fun b k st =>
    let t := st.rx a + imm.signExtend 64
    if t.extractLsb' 0 2 ≠ 0 then .next (s.trap b k st 0x0002)
    else .next (s.setStrand b k ((st.wx d (st.pc + 4)).goto t)))

/-- R120: one of the two loop levels. -/
def Strand.loop (st : Strand) (lv : BitVec 1) : Loop := st.loops[lv.toNat]'lv.isLt
def Strand.setLoop (st : Strand) (lv : BitVec 1) (l : Loop) : Strand := { st with loops := st.loops.set lv.toNat l lv.isLt }

/-- R120: `lbeg`. -/
def execLbeg (lv : BitVec 1) (a : XReg) (off : BitVec 12) (s : State) : Out :=
  s.local { rx := [a] } (fun st =>
    let n := st.rx a
    if n = 0 then st.goto (target st.pc off + 4)
    else (st.setLoop lv { start := st.pc + 4, stop := target st.pc off, remaining := n, active := true }).next)

/-- R120: `lend`. -/
def execLend (lv : BitVec 1) (s : State) : Out :=
  s.issue {} (fun b k st =>
    let l := st.loop lv
    if l.active = false ∨ st.pc ≠ l.stop then .next (s.trap b k st 0x0001)
    else
      let r := l.remaining - 1
      if r ≠ 0 then .next (s.setStrand b k ((st.setLoop lv { l with remaining := r }).goto l.start))
      else .next (s.setStrand b k (st.setLoop lv { l with remaining := r, active := false }).next))

/-- R119. -/
def execNop (s : State) : Out := s.local {} Strand.next

/-- R84: the trap of a word that is not an instruction, whatever the strand's other state. -/
def execIllegalInstruction (s : State) : Out :=
  match s.cur with
  | .strand b k =>
    match s.strand? b k with
    | some st => if s.open? st then .next (s.trap b k st 0x0001) else .next s
    | none => .fault .noAgent
  | _ => .fault .noAgent

/-- R118: a fetch outside the text. -/
def execInstructionFetchFault (s : State) : Out :=
  match s.cur with
  | .strand b k =>
    match s.strand? b k with
    | some st => if s.open? st then .next (s.trap b k st 0x0003) else .next s
    | none => .fault .noAgent
  | _ => .fault .noAgent

end Sys2Proof.Machine
end

