-- ==== Sys2Proof/Machine/Cn.lean ====
section
/-! DEFINITION. The consolidator: records (R296), consolidation (R243, R298, R299, R311), arrangements, joins and folds
(R300, R301). -/

namespace Sys2Proof.Machine

def egCN : Nat := 9

/-! ### Records (R296) -/

def Rec.of (l : List Byte) (round : BitVec 16) : Rec :=
  { key := bytesAt l 0 8, value := bytesAt l 8 16, mult := signedOf 32 (bytesAt l 24 4), round := round, flags := bytesAt l 30 2 }

def Rec.bytes (r : Rec) : List Byte :=
  leBytes 8 r.key ++ leBytes 16 r.value ++ leBytes 4 (BitVec.ofInt 32 r.mult).toNat ++ leBytes 2 r.round.toNat
    ++ leBytes 2 r.flags

/-- R243: a multiplicity within 32 bits; beyond, it saturates and SAT is set. -/
def Rec.sized (r : Rec) (m : Int) : Rec :=
  if m < -(2 ^ 31) then { r with mult := -(2 ^ 31), flags := r.flags ||| 0x8000 }
  else if 2 ^ 31 - 1 < m then { r with mult := 2 ^ 31 - 1, flags := r.flags ||| 0x8000 }
  else { r with mult := m }

/-- R296: the records of a cell, which take its ROUND. -/
def Cell.records (c : Cell) : List Rec := (chunks 32 8 c.bytes).map (fun l => Rec.of l c.round)

/-- R296: KEY, then VALUE, then ROUND. -/
def Rec.before (a b : Rec) : Bool :=
  decide (a.key < b.key)
    || (a.key == b.key && (decide (a.value < b.value) || (a.value == b.value && roundBefore a.round b.round)))

def Rec.same (a b : Rec) : Bool := a.key == b.key && a.value == b.value && a.round == b.round

/-- Runs of equal records of a sorted list: each with its exact sum, and its flags combined by OR. -/
def runs : List Rec → List (Rec × Int)
  | [] => []
  | r :: l =>
    match runs l with
    | (q, m) :: t => if r.same q then ({ q with flags := r.flags ||| q.flags }, r.mult + m) :: t else (r, r.mult) :: (q, m) :: t
    | [] => [(r, r.mult)]

/-- R298: consolidated records. -/
def consolidate (l : List Rec) : List Rec :=
  ((runs (sortBy Rec.before l)).filter (fun x => x.2 != 0)).map (fun x => x.1.sized x.2)

/-! ### Queues at their home (R243, R297) -/

/-- R243: the fields of ARG. -/
structure CnArg where
  q : Nat
  bt : Nat
  round : BitVec 16
  low : Bool
  deriving DecidableEq, Repr, Inhabited

def CnArg.of (x : BitVec 32) : CnArg := ⟨x.toNat % 16, x.toNat / 256 % 256, x.extractLsb' 16 16, x.toNat / 16 % 16 == 0⟩

/-- R243, R297: whether a queue is bound to the consolidator of a bent. -/
def Launch.bound (L : Launch) (q b : Nat) : Bool := NMap.has L.queues q && L.home q == b

/-- R243: what a consolidator holds. -/
def Cn.count (C : Cn) : Nat := C.pending.length + C.folds.length
def cnRoom : Nat := 4096

def State.updCn (s : State) (b : Nat) (f : Cn → Cn) : State := s.updBent b (fun B => { B with cn := f B.cn })

/-- R298: the cells of an emission; at the acceptance of the last one INFL falls by n. -/
def recordPieces (out : List Rec) (done : OnAccept) : List Piece1 :=
  let ps := runPieces 14 true (out.flatMap Rec.bytes)
  ps.zipIdx.map (fun x => if x.2 + 1 = ps.length then { x.1 with done := done } else x.1)

/-- R298: an emission by a queue's route, or its refusal; `iq` names the queue whose consolidated records it holds (R302). -/
def State.cnEmit (s : State) (b q : Nat) (trig : Cell) (d : Side) (out : List Rec) (poison : Bool) (iq : Option Nat)
    (done : OnAccept) : Option (BitVec 16) × State :=
  let Q := NMap.getD (s.launch d.lid).queues q default
  let R := Route.of (padTo 32 0 Q.route)
  let ps := recordPieces out done
  match s.routeCheck d.lid R ps with
  | some e => (some e, s)
  | none => (none, s.updBent b (fun B => B.emitAll egCN trig d R ps poison iq))

/-- R298: the pending records of a queue that a consolidation takes. -/
def Cn.taken (C : Cn) (q : Nat) (upto : Rec → Bool) : List PendRec := C.pending.filter (fun p => p.q == q && upto p.r)

/-- R298, R299: a consolidation of the records a test names, with the cell that answers for it. -/
def State.consolidate (s : State) (b q : Nat) (upto : Rec → Bool) (trig : Cell) (d : Side) (poison : Bool) : State :=
  let S := (s.bent b).cn.taken q upto
  let out := Machine.consolidate (S.map (fun p => p.r))
  let r := s.cnEmit b q trig d out (poison || S.any (fun p => p.src.cell.poison)) (if S.isEmpty then none else some q)
    (.infl d.lid q S.length trig.round)
  match r.1 with
  | some e => r.2.engFault d e
  | none => r.2.updCn b (fun C => { C with pending := C.pending.filter (fun p => !(p.q == q && upto p.r)) })

/-- R302: LAST of a queue. -/
def IncQueue.ingested (Q : IncQueue) (r : BitVec 16) : IncQueue :=
  match Q.last with
  | some l => if roundBefore l r then { Q with last := some r } else Q
  | none => { Q with last := some r }

/-- R243: records join a pending set. -/
def State.ingest (s : State) (b q : Nat) (c : InCell) : State :=
  let rs := c.cell.records
  let src : InCell := { c with cell := { c.cell with payload := [] } }
  let s1 := s.updCn b (fun C => { C with pending := C.pending ++ rs.map (fun r => ⟨q, r, src⟩) })
  if rs.isEmpty then s1
  else s1.updLaunch c.side.lid (fun L =>
    ({ L with queues := NMap.modify L.queues q default (fun Q => Q.ingested c.cell.round) }).logOp c.cell.round (.last q))

/-- R243: the refusals that the operations share. -/
def State.cnBad (s : State) (b : Nat) (c : InCell) (records cons join : Bool) : Bool :=
  let a := CnArg.of c.cell.arg
  !a.low || (!cons && a.round != 0) || (!join && a.bt != 0) || !(s.launch c.side.lid).bound a.q b
    || (records && (!c.cell.iqrec || c.cell.len.toNat % 32 != 0))

/-- R243: `cn.ingest`. -/
def execCnIngest (b : Nat) (s : State) : Out :=
  s.engine b egCN 0x401 (fun B x c =>
    s.withOperands b egCN x c 1
      (if s.cnBad b c true false false then s.refuse b egCN x c 0x0001
       else if cnRoom < B.cn.count + c.cell.records.length then s
       else (s.eat b egCN x).ingest b (CnArg.of c.cell.arg).q c))

/-- R243, R298: `cn.cons`. -/
def execCnCons (b : Nat) (s : State) : Out :=
  s.engine b egCN 0x402 (fun _ x c =>
    s.withOperands b egCN x c 1
      (let a := CnArg.of c.cell.arg
       if s.cnBad b c false true false then s.refuse b egCN x c 0x0001
       else (s.eat b egCN x).consolidate b a.q (fun r => notAfter r.round a.round) c.cell c.side c.cell.poison))

/-- R243, R298: `cn.flush`. -/
def execCnFlush (b : Nat) (s : State) : Out :=
  s.engine b egCN 0x404 (fun _ x c =>
    s.withOperands b egCN x c 1
      (if s.cnBad b c false false false then s.refuse b egCN x c 0x0001
       else (s.eat b egCN x).consolidate b (CnArg.of c.cell.arg).q (fun _ => true) c.cell c.side c.cell.poison))

/-! ### Arrangements (R300) -/

/-- R160: where an offset of a buffer lies: in its front, or in its shadow. -/
def Buffer.place (B : Buffer) (lid b bt : Nat) (front : Bool) (off : Nat) : Nat :=
  let second := (B.shadow && B.swap) != !front
  if B.spad then spadAddr b ((if second then B.second else B.boff) + off) else backAddr lid bt second off

/-- R300: an arrangement. -/
structure Arr where
  lid : Nat
  home : Nat
  bt : Nat
  buf : Buffer
  count : Nat
  cap : Nat
  logs : Nat
  deriving DecidableEq, Repr, Inhabited

/-- R300: the arrangement that a buffer's front holds, or none. -/
def State.arrangement (s : State) (lid b bt : Nat) : Option Arr :=
  match NMap.get? (s.launch lid).bufs bt with
  | none => none
  | some B =>
    let h := Memory.getBytes s.mem (B.place lid b bt true 0) 64
    let cap := bytesAt h 8 4
    let logs := bytesAt h 12 1
    if B.shadow = false ∨ bytesAt h 0 4 ≠ 0x4E525241 ∨ bytesAt h 13 3 ≠ 0 ∨ bytesAt h 18 46 ≠ 0 then none
    else if logs < 4 ∨ 25 < logs ∨ 2 ^ logs < cap + 1 ∨ B.bytes < 64 + 32 * cap + 4 * 2 ^ logs then none
    else some { lid := lid, home := b, bt := bt, buf := B, count := bytesAt h 4 4, cap := cap, logs := logs }

def Arr.front (A : Arr) (off : Nat) : Nat := A.buf.place A.lid A.home A.bt true off

/-- R300: entry i of an arrangement, and whether its bytes are poisoned. -/
def State.arrEntry (s : State) (A : Arr) (i : Nat) : Rec × Bool :=
  let l := s.read (A.front (64 + 32 * i)) 32
  ({ Rec.of l.1 (BitVec.ofNat 16 (bytesAt l.1 28 2)) with flags := bytesAt l.1 30 2 }, l.2)

/-- R300: the slot at which the search for a key starts. -/
def arrHash (key logs : Nat) : Nat := key * 0x9E3779B97F4A7C15 % 2 ^ 64 / 2 ^ (64 - logs)

/-- R300: the first entry of a key, by probing. -/
def State.arrFind (s : State) (A : Arr) (key : Nat) : Nat → Nat → Option Nat
  | 0, _ => none
  | n + 1, slot =>
    let e := s.readNat (A.front (64 + 32 * A.cap + 4 * slot)) 4
    if e = 2 ^ 32 - 1 then none
    else if e < A.count ∧ (s.arrEntry A e).1.key = key then some e
    else s.arrFind A key n ((slot + 1) % 2 ^ A.logs)

/-- Entries of one key from a first one on. -/
def State.arrRun (s : State) (A : Arr) (key : Nat) : Nat → Nat → List (Rec × Bool)
  | 0, _ => []
  | n + 1, i => if i < A.count ∧ (s.arrEntry A i).1.key = key then s.arrEntry A i :: s.arrRun A key n (i + 1) else []

/-- R300: the entries of a key. -/
def State.arrEntries (s : State) (A : Arr) (key : Nat) : List (Rec × Bool) :=
  match s.arrFind A key (2 ^ A.logs) (arrHash key A.logs) with
  | some i => s.arrRun A key A.count i
  | none => []

/-! ### Joins (R301) -/

/-- R296: the flags of a joined record: those that the change and the entry agree on carry through; where they differ the manual
does not say which stands (log entry 5). -/
def joinedFlags (c e : Nat) : Nat := (c &&& e) ||| (Config.joinFlags c e &&& (c ^^^ e))

/-- R301: the record of a change and an entry: its value has the change's half lower (log entry 15). -/
def joined (c e : Rec) : Rec :=
  ({ key := c.key, value := c.value % 2 ^ 64 + e.value % 2 ^ 64 * 2 ^ 64, mult := 0, round := c.round
     flags := joinedFlags c.flags e.flags } : Rec).sized (c.mult * e.mult)

/-- The key of a buffer and a round. -/
def foldKey (bt : Nat) (round : BitVec 16) : Nat := bt * 65536 + round.toNat

/-- R301: a fold of an arrangement that is due at a consolidator and waits for an earlier publish (R160). -/
def Bent.foldHeld (B : Bent) (bt : Nat) : Bool := B.cn.folds.any (fun f => f.bt == bt && roundBefore f.r.round (B.roundAt egCN))

/-- R286, R301: one more join cell of a fold. The fold writes as the strand of greatest ordering key among them (DESIGN CHOICE, log
entry 49). -/
def joinFold (L : Launch) (old : Option FoldBy) (d : Side) : FoldBy :=
  match old with
  | none => ⟨d.lid, d.ownerBent, d.ownerSlot, d.ownerBent, d.ownerSlot, d.clock⟩
  | some f =>
    let g := { f with clock := f.clock.join d.clock }
    if L.key f.lastBent f.lastSlot < L.key d.ownerBent d.ownerSlot then { g with lastBent := d.ownerBent, lastSlot := d.ownerSlot } else g

/-- R301: `cn.join`; it works against the front as the round began, so it waits for a fold of an earlier round. -/
def execCnJoin (b : Nat) (s : State) : Out :=
  s.engine b egCN 0x403 (fun B x c =>
    s.withOperands b egCN x c 1
      (let a := CnArg.of c.cell.arg
       let cs := c.cell.records
       match (if s.cnBad b c true false true then none else s.arrangement c.side.lid b a.bt) with
       | none => s.refuse b egCN x c 0x0001
       | some A =>
         if cnRoom < B.cn.count + cs.length || B.foldHeld a.bt then s
         else
           let out := cs.flatMap (fun r => (s.arrEntries A r.key).map (fun e => (joined r e.1, e.2)))
           let r := (s.eat b egCN x).cnEmit b a.q c.cell c.side (out.map Prod.fst) (c.cell.poison || out.any Prod.snd) none .nothing
           match r.1 with
           | some e => r.2.engFault c.side e
           | none => r.2.updCn b (fun C =>
               { C with
                 folds := C.folds ++ cs.map (fun k => ⟨a.bt, a.q, k, c.cell.poison⟩)
                 foldBy := NMap.set C.foldBy (foldKey a.bt c.cell.round)
                   (joinFold (s.launch c.side.lid) (NMap.get? C.foldBy (foldKey a.bt c.cell.round)) c.side) })))

/-! ### Folds at a round edge (R301) -/

/-- R301: one entry with the changes to it: none where its multiplicity reaches 0. -/
def foldEntry (n : BitVec 16) (old : Option Rec) (cs : List Rec) : Option Rec :=
  match (match old with | some e => some e | none => cs.head?) with
  | none => none
  | some e0 =>
    let m0 : Int := match old with | some e => e.mult | none => 0
    let f0 := match old with | some e => e.flags | none => 0
    let e := ({ e0 with flags := cs.foldl (fun f c => f ||| c.flags) f0 } : Rec).sized (m0 + cs.foldl (fun t c => t + c.mult) 0)
    if e.mult = 0 then none
    else if (match old with | some o => o.mult == e.mult && o.flags == e.flags | none => false) then some e
    else some { e with round := n }

def Rec.place (a b : Rec) : Bool := a.key == b.key && a.value == b.value

/-- One change to a list of entries with their changes, sorted by (KEY, VALUE). -/
def addFold (c : Rec) : List (Rec × Option Rec × List Rec) → List (Rec × Option Rec × List Rec)
  | [] => [(c, none, [c])]
  | (k, o, cs) :: l =>
    if k.place c then (k, o, cs ++ [c]) :: l
    else if c.key < k.key ∨ (c.key = k.key ∧ c.value < k.value) then (c, none, [c]) :: (k, o, cs) :: l
    else (k, o, cs) :: addFold c l

/-- R301: the entries after the folds of round n. -/
def foldAll (n : BitVec 16) (es : List Rec) (cs : List Rec) : List Rec :=
  (cs.foldl (fun l c => addFold c l) (es.map (fun e => (e, some e, [])))).filterMap (fun x => foldEntry n x.2.1 x.2.2)

/-- R300: a rebuilt index: the first entry of each key at the first empty slot from its start. -/
def probeFree (m : NMap Nat) (logs : Nat) : Nat → Nat → Nat
  | 0, slot => slot
  | n + 1, slot => if NMap.has m slot then probeFree m logs n ((slot + 1) % 2 ^ logs) else slot

def buildIndex (logs : Nat) (es : List Rec) : NMap Nat :=
  (es.zipIdx.foldl (fun (st : NMap Nat × Option Nat) e =>
    if st.2 = some e.1.key then st
    else (NMap.set st.1 (probeFree st.1 logs (2 ^ logs) (arrHash e.1.key logs)) e.2, some e.1.key)) ([], none)).1

/-- R300: the header, the entries in use, and the index. -/
def arrHeader (A : Arr) (n : BitVec 16) (count : Nat) : List Byte :=
  leBytes 4 0x4E525241 ++ leBytes 4 count ++ leBytes 4 A.cap ++ leBytes 1 A.logs ++ leBytes 3 0 ++ leBytes 2 n.toNat
    ++ leBytes 46 0

def arrIndex (logs : Nat) (es : List Rec) : List Byte :=
  let m := buildIndex logs es
  (List.range (2 ^ logs)).flatMap (fun k => leBytes 4 (NMap.getD m k (2 ^ 32 - 1)))

/-- R142, R281: the writer of a fold of a round into a buffer: engines' work for a strand. -/
def State.foldWriter (s : State) (f : FoldBy) (bt : Nat) (round : BitVec 16) : Writer :=
  let at_ := (s.findOwner f.lid f.lastBent f.lastSlot).getD (f.lastBent, f.lastSlot)
  let L := s.launch f.lid
  let key := L.key f.lastBent f.lastSlot
  let a := engAgent (codeShadow bt) key
  { lid := f.lid, bent := at_.1, strand := at_.2, phs := s.ownerPhs f.lid f.lastBent f.lastSlot, round := round, key := key, agent := a
    epoch := L.time a, clock := f.clock.join (L.clock a) }

/-- R301 step 3: the new arrangement written into the shadow, and the buffer published. -/
def State.writeArr (s : State) (A : Arr) (w : Writer) (n : BitVec 16) (es : List Rec) (poison : Bool) : State :=
  let put (t : State) (off : Nat) (bytes : List Byte) : State :=
    t.write w (A.buf.place A.lid A.home A.bt false off) bytes poison
  let s1 := put (put (put s 0 (arrHeader A n es.length)) 64 (es.flatMap Rec.bytes)) (64 + 32 * A.cap) (arrIndex A.logs es)
  ((s1.leave w .device true [objBuf A.bt, objShadow A.bt]).tick A.lid w.agent).updLaunch A.lid (fun L => L.swap A.bt n)

/-- R301: a consolidator whose folds of one arrangement and round are done with. -/
def Cn.folded (C : Cn) (bt : Nat) (n : BitVec 16) : Cn :=
  { C with folds := C.folds.filter (fun f => !(f.bt == bt && f.r.round == n)), foldBy := NMap.erase C.foldBy (foldKey bt n) }

/-- R303, R368: folds once done with are so in the checkpoints of their consolidator that hold them, which belong to edges of their
round or later. -/
def Launch.foldedMarks (L : Launch) (ix bt : Nat) (n : BitVec 16) : Launch :=
  let f (m : UnitMark) : UnitMark :=
    if m.unit = ix * 16 + egCN then { m with bent := { m.bent with cn := m.bent.cn.folded bt n } } else m
  { L with cutUnits := L.cutUnits.map f, unitMarks := L.unitMarks.map f }

/-- R301: the folds of one arrangement of round n. -/
def State.foldOne (s : State) (b : Nat) (n : BitVec 16) (bt : Nat) : State :=
  let C := (s.bent b).cn
  let lid := (s.bent b).launch.getD 0
  let cs := C.folds.filter (fun f => f.bt == bt && f.r.round == n)
  let by_ := NMap.getD C.foldBy (foldKey bt n) ⟨lid, 0, 0, 0, 0, {}⟩
  let s1 := (s.updCn b (fun C => C.folded bt n)).updLaunch lid (fun L => L.foldedMarks (s.bent b).index bt n)
  let failed := s1.raiseTrap by_.lid by_.bent by_.slot { cause := 0x0001 }
  match s.arrangement lid b bt with
  | none => failed
  | some A =>
    let old := (List.range A.count).map (s.arrEntry A)
    let es := foldAll n (old.map Prod.fst) (cs.map Fold.r)
    if A.cap < es.length then failed
    else s1.writeArr A (s.foldWriter by_ bt n) n es (old.any Prod.snd || cs.any Fold.poison)

/-- R301: the arrangements with folds of rounds before the one a consolidator is in. -/
def Bent.foldsDue (B : Bent) : List Nat :=
  B.cn.folds.foldl (fun l f => if roundBefore f.r.round (B.roundAt egCN) && !l.contains f.bt then l ++ [f.bt] else l) []

/-- R301: the earliest round of the folds of an arrangement that are due. -/
def Bent.foldRound (B : Bent) (bt : Nat) : Option (BitVec 16) :=
  ((B.cn.folds.filter (fun f => f.bt == bt && roundBefore f.r.round (B.roundAt egCN))).map (fun f => f.r.round)).foldl
    (fun m r => match m with | none => some r | some q => some (if roundBefore r q then r else q)) none

/-- R160, R301: the folds of an arrangement that are due, round by round, each once no earlier publish is in progress. -/
def State.foldDue (s : State) (b bt : Nat) : Nat → State
  | 0 => s
  | n + 1 =>
    match (s.bent b).foldRound bt with
    | none => s
    | some r =>
      if (s.launch ((s.bent b).launch.getD 0)).pubAfter.contains bt then s
      else (s.foldOne b r bt).foldDue b bt n

/-- R160, R301: the folds of a buffer that are due at the consolidators of a region. -/
def State.foldsOf (s : State) (region : List Nat) (bt : Nat) : State :=
  region.foldl (fun t b => t.foldDue b bt (t.bent b).cn.folds.length) s

/-- R160: a publish completes; folds that waited for it follow. -/
def execPublishComplete (launch bt : Nat) (s : State) : Out :=
  match s.launch? launch with
  | none => .next s
  | some L =>
    match NMap.get? L.bufs bt with
    | none => .next s
    | some B =>
      if L.pubAfter.contains bt && !s.boundTo launch bt (!B.swap) then
        .next ((s.setLaunch launch { L with pubAfter := removeFirst (fun x => x == bt) L.pubAfter }).foldsOf L.region bt)
      else .next s

/-- R297, R311: the consolidation of a `round` queue at the edge of round n. -/
def State.edgeQueue (s : State) (b : Nat) (n : BitVec 16) (q : Nat) : State :=
  match (s.bent b).cn.taken q (fun r => notAfter r.round n) with
  | [] => s
  | p :: _ => s.consolidate b q (fun r => notAfter r.round n) { p.src.cell with round := n + 1 } p.src.side false

/-- R297, R301: what a consolidator does on entering the round after n. -/
def State.cnEdge (s : State) (b : Nat) (n : BitVec 16) : State :=
  let L := s.launch ((s.bent b).launch.getD 0)
  let qs := (L.queues.filter (fun q => q.2.onRound && L.home q.1 == b)).map Prod.fst
  let s1 := qs.foldl (fun t q => t.edgeQueue b n q) s
  let s2 := s1.updCn b (fun C => { C with foldBy := C.foldBy.filter (fun w =>
    !notAfter (BitVec.ofNat 16 (w.1 % 65536)) n || C.folds.any (fun f => foldKey f.bt f.r.round == w.1)) })
  ((s2.bent b).foldsDue).foldl (fun t bt => t.foldDue b bt ((t.bent b).cn.folds.length)) s2

end Sys2Proof.Machine
end

