-- ==== Sys2Proof/WellFormed.lean ====
section
/-! DEFINITION. Which terms of `Instr` are instructions: the limits that R84 to R94 and R203 put on fields, and
the ranges of bents, egresses, slots, queues and partitions (R1 to R4) for the steps of units. -/

namespace Sys2Proof

namespace Code

/-- R203: a slot or register code of the element-wise sources: l, o, v, t, in, out. -/
def src (v : VCode) : Bool := decide (v.toNat ≤ 97)

/-- R203: l, o, v, t, out: what an element-wise op-word may write. -/
def dst (v : VCode) : Bool := decide (v.toNat ≤ 81) || (decide (90 ≤ v.toNat) && decide (v.toNat ≤ 97))

/-- R203: l, o, v. -/
def reg (v : VCode) : Bool := decide (v.toNat ≤ 73)

/-- R203: t0-t7. -/
def tile (v : VCode) : Bool := decide (74 ≤ v.toNat) && decide (v.toNat ≤ 81)

/-- R203: in0-in7. -/
def inSlot (v : VCode) : Bool := decide (82 ≤ v.toNat) && decide (v.toNat ≤ 89)

/-- R203: out0-out7. -/
def outSlot (v : VCode) : Bool := decide (90 ≤ v.toNat) && decide (v.toNat ≤ 97)

/-- R203: l, o, v, in, out: sources that are no tile. -/
def flatSrc (v : VCode) : Bool := src v && !tile v

/-- R203: l, o, v, out: destinations that are no tile. -/
def flatDst (v : VCode) : Bool := dst v && !tile v

/-- R203: the destinations of `cin`: l, o, v, t. -/
def regOrTile (v : VCode) : Bool := decide (v.toNat ≤ 81)

/-- R72: the TYPE codes a tile takes; R220: a descriptor with another is no op-word. -/
def tileType (q : BitVec 17) : Bool :=
  let t := (q.extractLsb' 12 5).toNat
  decide (t = 1) || decide (t = 3) || decide (t = 4) || (decide (6 ≤ t) && decide (t ≤ 10))

end Code

/-- The number of bents of the device: 4 dies of 48 (R1). -/
def bentCount : Nat := 192

/-- Bents, egresses, tenons, slots and partitions in range. -/
def okBent (b : Nat) : Bool := decide (b < bentCount)
def okPort (e : Nat) : Bool := decide (e < 16)
def okStrand (k : Nat) : Bool := decide (k < 16)
def okTenon (t : Nat) : Bool := decide (t < 4)
def okMx (e : Nat) : Bool := decide (e < 4)
def okVx (e : Nat) : Bool := decide (4 ≤ e) && decide (e < 8)
def okPart (p : Nat) : Bool := decide (p < 8)
def okDie (d : Nat) : Bool := decide (d < 4)
def okWalk (w : Nat) : Bool := decide (w < 2)

/-- R89: loads take .rlx or .acq, stores .rlx or .rel. -/
def Order.loadOk : Order → Bool
  | .rlx | .acq => true
  | .rel | .acqrel => false
def Order.storeOk : Order → Bool
  | .rlx | .rel => true
  | .acq | .acqrel => false

/-- R89: the scopes of `bar.*`. -/
def Scope.barOk : Scope → Bool
  | .bent | .region | .device => true
  | .strand | .system => false

/-- R86: the types of `sext` and `zext`. -/
def ITy.extOk : ITy → Bool
  | .b | .h | .w => true
  | .bu | .hu | .wu | .d => false

/-- R91: the types of floating op-words. -/
def VTy.isFloat : VTy → Bool
  | .f32 | .f16 | .bf16 => true
  | .i32 => false

/-- R205: .i32 has no rounding token. -/
def VTy.rndOk (t : VTy) (rtz : Bool) : Bool := t.isFloat || !rtz

/-- A class field of a CELL word: .cl0 to .cl3 and .clt (R83). -/
def clOk (c : BitVec 3) : Bool := decide (c.toNat ≤ 4)

/-- R64: the control-register numbers whose reads are instructions of their own, EVQ_READ (R190, R268) and
VOTELOG_READ (R373). -/
def evqNumber : BitVec 10 := 0x023
def votelogNumber : BitVec 10 := 0x040

/-- R1, R6, R376: the links of the device: 24 Psiris-P ports, the 8 lane groups of each of the 4 Psiris-D links of the die
ring, and Psiris-H. -/
inductive LinkName where
  | psirisP (port : Nat)
  | psirisD (ring group : Nat)
  | psirisH
  deriving DecidableEq, Repr, Inhabited

/-- The link of a number: the spec numbers none, and this model counts the ports first, then the lane groups, then Psiris-H
(DESIGN CHOICE, log entry 11). -/
def linkName (l : Nat) : Option LinkName :=
  if l < 24 then some (.psirisP l)
  else if l < 56 then some (.psirisD ((l - 24) / 8) ((l - 24) % 8))
  else if l = 56 then some .psirisH
  else none

/-- R376: a link that retrains at half width: a Psiris-P port or a Psiris-D lane group. -/
def LinkName.retrains : LinkName → Bool
  | .psirisP _ | .psirisD _ _ => true
  | .psirisH => false

/-- Whether a term of `Instr` is an instruction (or a step) of the machine. -/
def WellFormed : Instr → Bool
  | .add _ _ _ _ | .sub _ _ _ _ | .mul _ _ _ _ | .mulh _ _ _ _ | .div _ _ _ _ | .rem _ _ _ _
  | .and _ _ _ _ | .or _ _ _ _ | .xor _ _ _ _ | .sll _ _ _ _ | .srl _ _ _ _ | .sra _ _ _ _
  | .min _ _ _ _ | .max _ _ _ _ | .clz _ _ _ | .ctz _ _ _ | .popc _ _ _ => true
  | .sext _ _ t | .zext _ _ t => t.extOk
  | .addi _ _ _ | .andi _ _ _ | .ori _ _ _ | .xori _ _ _ | .slli _ _ _ | .srli _ _ _ | .srai _ _ _
  | .liZ _ _ _ | .liK _ _ _ => true
  | .bfx _ _ p w | .bfi _ _ p w => decide (p.toNat + w.toNat + 1 ≤ 64)
  | .cmpEq _ _ _ | .cmpNe _ _ _ | .cmpLt _ _ _ | .cmpGe _ _ _ | .cmpLtu _ _ _ | .cmpGeu _ _ _
  | .cselX _ _ _ _ | .cselF _ _ _ _ | .lea _ _ => true
  | .widf _ k => decide (k.toNat ≤ 5)
  | .widNext _ => true
  | .brEq _ _ _ | .brNe _ _ _ | .brLt _ _ _ | .brGe _ _ _ | .brLtu _ _ _ | .brGeu _ _ _
  | .bcS _ _ | .bcC _ _ => true
  | .bsigLt _ n _ | .bsigGe _ n _ => decide (n.toNat ≤ 24)
  | .jal _ _ | .jr _ _ _ => true
  | .lbeg _ _ off => decide (1 ≤ off.toNat) && decide (off.toNat ≤ 2047)
  | .lend _ => true
  | .fadd _ _ _ _ | .fsub _ _ _ _ | .fmul _ _ _ _ | .fdiv _ _ _ _ | .fsqrt _ _ _ | .fmin _ _ _ | .fmax _ _ _
  | .fabs _ _ | .fneg _ _ | .fcmpEq _ _ _ | .fcmpLt _ _ _ | .fcmpLe _ _ _ | .fcmpNe _ _ _ | .fclass _ _
  | .fmov _ _ | .fmovXf _ _ | .fmovFx _ _ => true
  | .fcvtFx _ _ f _ | .fcvtXf _ _ f _ => decide (1 ≤ f.toNat) && decide (f.toNat ≤ 5)
  | .fcvtFf _ _ f _ => decide (6 ≤ f.toNat) && decide (f.toNat ≤ 10)
  | .fsig _ _ | .fsigset _ _ | .fma _ _ _ _ _ => true
  | .ld _ _ _ o _ _ => o.loadOk
  | .st _ _ _ o _ _ => o.storeOk
  | .ldt _ _ _ o _ => o.loadOk
  | .stt _ _ _ o _ => o.storeOk
  | .ldfe _ _ _ _ _ | .stfe _ _ _ _ _ | .ldnb _ _ _ _ _ => true
  | .amoSwap .. | .amoCas .. | .amoAdd .. | .amoFadd .. | .amoAnd .. | .amoOr ..
  | .amoXor .. | .amoMin .. | .amoMax .. | .amoMinu .. | .amoMaxu .. | .fence _ => true
  | .barInit _ sc h | .barArrive _ sc h | .barWait _ sc h => sc.barOk && decide (h.toNat < 16)
  | .barTest _ _ sc h => sc.barOk && decide (h.toNat < 16)
  | .publish _ => true
  | .publishComplete _ bt => decide (bt < 256)
  | .cell _ _ _ c | .cellm _ _ _ c | .cellv _ _ _ c | .inj _ _ _ c => clOk c
  | .rvres _ _ | .rvrel _ _ | .sinkX _ _ | .sinkF _ _ => true
  | .walk _ _ _ c | .walkb _ _ _ c => clOk c
  | .wlst _ _ _ | .mxGang _ | .sxCfg _ => true
  | .iqPush _ h | .iqTest _ h => decide (h.toNat < 16)
  | .rmark _ => true
  | .chopen _ h | .rld _ _ h | .rst _ _ h | .chsend _ h | .chrecv _ h => decide (h.toNat < 64)
  | .split _ _ | .yield _ | .exit | .exitAbandon | .scarf _ _ | .scarfWait _ _ | .rankmap _ _ | .nop
  | .trap _ _ | .rft | .ident _ _ => true
  | .ctlRd _ n => decide (n ≠ evqNumber) && decide (n ≠ votelogNumber)
  | .ctlWr _ _ | .evqRead _ | .votelogRead _ => true
  | .vadd t d a b r _ _ | .vsub t d a b r _ _ | .vmul t d a b r _ _ => t.rndOk r && Code.dst d && Code.src a && Code.src b
  | .vaddSat d a b _ _ | .vsubSat d a b _ _ | .vmulSat d a b _ _ => Code.dst d && Code.src a && Code.src b
  | .vfma t d a b _ _ _ => t.isFloat && Code.dst d && Code.src a && Code.src b
  | .vmin _ d a b _ _ | .vmax _ d a b _ _ => Code.dst d && Code.src a && Code.src b
  | .vabs _ d a _ | .vneg _ d a _ => Code.dst d && Code.src a
  | .vdiv d a b _ _ _ => Code.dst d && Code.src a && Code.src b
  | .vrcp d a _ | .vrsqrt d a _ | .vexp2 d a _ | .vlog2 d a _ => Code.dst d && Code.src a
  | .vsqrt d a _ _ => Code.dst d && Code.src a
  | .vcmpEq _ d a b _ _ | .vcmpLt _ d a b _ _ | .vcmpLe _ d a b _ _ | .vcmpNe _ d a b _ _ =>
      Code.dst d && Code.src a && Code.src b
  | .vselL0 d a b _ _ | .vselL1 d a b _ _ | .vand d a b _ _ | .vor d a b _ _ | .vxor d a b _ _
  | .vshl d a b _ _ | .vshrL d a b _ _ | .vshrA d a b _ _ => Code.dst d && Code.src a && Code.src b
  | .vnot d a _ => Code.dst d && Code.src a
  | .vcvt _ d a f _ _ => Code.flatDst d && Code.flatSrc a && decide (1 ≤ f.toNat) && decide (f.toNat ≤ 10)
  | .vquant t d a f _ | .vdequant t d a f _ =>
      t.isFloat && Code.flatDst d && Code.flatSrc a && decide (11 ≤ f.toNat) && decide (f.toNat ≤ 13)
  | .vredAdd t d a _ r _ | .vredMin t d a _ r _ | .vredMax t d a _ r _
  | .vscanAdd t d a _ r _ | .vscanMin t d a _ r _ | .vscanMax t d a _ r _ =>
      t.rndOk r && Code.flatDst d && Code.flatSrc a
  | .vperm d a b _ _ => Code.flatDst d && Code.flatSrc a && Code.flatSrc b
  | .vbcast d a _ _ => Code.flatDst d && Code.flatSrc a
  | .vsigLt t d a n _ | .vsigGe t d a n _ | .vsigCnt t d a n _ =>
      t.isFloat && Code.flatDst d && Code.flatSrc a && decide (n.toNat ≤ 24)
  | .cin d a _ => Code.regOrTile d && Code.inSlot a
  | .cout d a _ => Code.outSlot d && Code.reg a
  | .cfwd a _ _ => Code.inSlot a
  | .tcfg d q | .tcfgDiscard d q => Code.tile d && Code.tileType q
  | .vloop n l => decide (1 ≤ n.toNat) && decide (1 ≤ l.toNat)
  | .vbrAll a _ _ | .vbrAny a _ _ => Code.reg a
  | .vend => true
  | .vrec d a b _ _ => Code.outSlot d && Code.reg a && Code.reg b
  | .mxWload b e | .mxFire b e | .mxFireStrict b e | .mxFireSp b e | .mxFireSpStrict b e | .mxRowFire b e _
  | .mxDrain b e | .mxClear b e => okBent b && okMx e
  | .sxSort b | .sxMerge b | .sxTopk b | .cnIngest b | .cnCons b | .cnJoin b | .cnFlush b | .vtVote b
  | .atSwap b | .atCas b | .atAdd b | .atFadd b | .atAnd b | .atOr b | .atXor b | .atMin b | .atMax b
  | .atMinu b | .atMaxu b | .mortiseSlot b => okBent b
  | .headAged b i _ => okBent b && okPort i
  | .deadlockDetection b _ => okBent b
  | .rendezvousOperand b e | .markerReceipt b e | .roundEntry b e => okBent b && okPort e
  | .hbmAtomicRoundClose _ c => decide (c < 384)
  | .feedbackAccept b e => okBent b && okPort e
  | .vxCellDelivery b e => okBent b && okVx e
  | .longLatencyComplete b t _ | .routineEnd b t _ => okBent b && okTenon t
  | .partialCombine b t d => okBent b && okTenon t && decide (d < 98)
  | .pendingTrapDelivery b k => okBent b && okStrand k
  | .sinkData b | .girtSend b | .grReservation b | .grEnqueue b _ => okBent b
  | .writeback b e => okBent b && (decide (e = 11) || decide (e = 12))
  | .remoteRequest _ | .remoteResponse _ => true
  | .goldenEpoch d => okDie d
  | .loadReturn b k _ | .storeCompletion b k _ | .fenceComplete b k | .strandWake b k | .continuationResume b k
  | .strandDone b k => okBent b && okStrand k
  | .continuationReady _ _ | .launchCompletion _ => true
  | .walkBegin b w | .walkCellEmit b w | .walkbCounterRead b w | .walkCompletion b w => okBent b && okWalk w
  | .faultackResume p _ | .faultackEnd p _ => okPart p
  | .tableWalk d | .tlbMissRetry d => okDie d
  | .pageScrub _ => true
  | .append p q _ => okPart p && decide (q < 256)
  | .dispatchDecision p | .placement p => okPart p
  | .qcbEnable p q | .qcbDisable p q => okPart p && decide (q < 256)
  | .contextEnable p c | .contextDisable p c | .contextResidencyEnd p c => okPart p && decide (c < 64)
  | .tlbinvPage p _ | .tlbinvAll p _ | .tlbinvComplete p | .preemptRequest p _ | .abortRequest p _
  | .preemptQuiescent p | .preemptTimeout p => okPart p
  | .hangDetected _ | .regionDrain _ | .regionRollback _ => true
  | .psvcServe p | .psvcStopDispatch p | .psvcPreemptAll p | .psvcDrainAll p | .partitionOffline p
  | .correctedError p _ | .uncorrectableError p _ | .patrolScrub p _ | .eccstatClear p
  | .repairMap p _ | .repairUnmap p _ | .repairMappingDone p => okPart p
  | .laneLoss l | .laneRestore l | .flitReplay l => (linkName l).any LinkName.retrains
  | .linkFailure l => (linkName l).isSome
  | .hostWindowWrite p c _ _ => okPart p && decide (c < 64)
  | .scarfMessage _ bt _ | .scarfStepComplete _ bt | .scarfStepTimeout _ bt | .scarfAbort _ bt _ _ _ _ _
  | .scarfResend _ bt => decide (bt < 256)
  | .firmwareReplace p _ _ _ => okPart p
  | .attestationRequest _ | .keyLoad _ | .keyClear _ | .debugUnlock _ | .resetRelease | .supplyOutOfRange _
  | .fabidWrite _ | .powerMeasurement _ _ | .thermalShutdown | .registerWrite _ _ _
  | .illegalInstruction | .instructionFetchFault => true
  | .firingLanded b e _ => okBent b && okMx e
  | .keycmdDone | .attestationReportDone => true

end Sys2Proof
end

