-- ==== Sys2Proof/Decode.lean ====
section
/-! DEFINITION. The encodings of R82 to R92: a decoder for sequencer words and one for VX op-words, both total
and written from the manual's tables, and after them the encoder. A word that is no instruction decodes to `none`
(its issue takes cause 0x0001, R84; an op-word that is none never reaches a tenon, R92). -/

namespace Sys2Proof

/-! ### Small-valued fields (R83, R16, R30, R90, R91) -/

def ITy.code : ITy → BitVec 3
  | .b => 0 | .bu => 1 | .h => 2 | .hu => 3 | .w => 4 | .wu => 5 | .d => 6

def ITy.ofCode (c : BitVec 3) : Option ITy :=
  match c.toNat with
  | 0 => some .b | 1 => some .bu | 2 => some .h | 3 => some .hu | 4 => some .w | 5 => some .wu | 6 => some .d
  | _ => none

def Scope.code : Scope → BitVec 3
  | .strand => 0 | .bent => 1 | .region => 2 | .device => 3 | .system => 4

def Scope.ofCode (c : BitVec 3) : Option Scope :=
  match c.toNat with
  | 0 => some .strand | 1 => some .bent | 2 => some .region | 3 => some .device | 4 => some .system
  | _ => none

def Order.code : Order → BitVec 2
  | .rlx => 0 | .acq => 1 | .rel => 2 | .acqrel => 3

def Order.ofCode (c : BitVec 2) : Order :=
  match c.toNat with
  | 0 => .rlx | 1 => .acq | 2 => .rel | _ => .acqrel

def Rnd.code : Rnd → BitVec 3
  | .rne => 0 | .rtz => 1 | .rup => 2 | .rdn => 3 | .rna => 4 | .dyn => 7

def Rnd.ofCode (c : BitVec 3) : Option Rnd :=
  match c.toNat with
  | 0 => some .rne | 1 => some .rtz | 2 => some .rup | 3 => some .rdn | 4 => some .rna | 7 => some .dyn
  | _ => none

def VTy.code : VTy → BitVec 2
  | .f32 => 0 | .f16 => 1 | .bf16 => 2 | .i32 => 3

def VTy.ofCode (c : BitVec 2) : VTy :=
  match c.toNat with
  | 0 => .f32 | 1 => .f16 | 2 => .bf16 | _ => .i32

def VLvl.code : VLvl → BitVec 2
  | .reg => 0 | .row => 1 | .tile => 2 | .round => 3

def VLvl.ofCode (c : BitVec 2) : VLvl :=
  match c.toNat with
  | 0 => .reg | 1 => .row | 2 => .tile | _ => .round

/-- R83: an f register field: bit 4 is 0. -/
def fReg (x : BitVec 5) : Option FReg := if x.extractLsb' 4 1 = 0 then some (x.extractLsb' 0 4) else none

/-- R83: a c register field: bits 4 and 3 are 0. -/
def cReg (x : BitVec 5) : Option CReg := if x.extractLsb' 3 2 = 0 then some (x.extractLsb' 0 3) else none

def fField (r : FReg) : BitVec 5 := (0#1) ++ r
def cField (r : CReg) : BitVec 5 := (0#2) ++ r

/-- A condition every instruction of a row meets. -/
def need (c : Bool) : Option Unit := if c then some () else none

/-! ### The formats of R82 -/

def major (w : Word32) : BitVec 7 := w.extractLsb' 25 7

structure RegW where
  d : BitVec 5
  a : BitVec 5
  b : BitVec 5
  m : BitVec 3
  fn : BitVec 7
  deriving DecidableEq, Repr

def RegW.of (w : Word32) : RegW :=
  ⟨w.extractLsb' 20 5, w.extractLsb' 15 5, w.extractLsb' 10 5, w.extractLsb' 7 3, w.extractLsb' 0 7⟩
def RegW.pack (maj : BitVec 7) (f : RegW) : Word32 := maj ++ f.d ++ f.a ++ f.b ++ f.m ++ f.fn

structure TriW where
  d : BitVec 5
  a : BitVec 5
  b : BitVec 5
  c : BitVec 5
  rm : BitVec 3
  fn : BitVec 2
  deriving DecidableEq, Repr

def TriW.of (w : Word32) : TriW :=
  ⟨w.extractLsb' 20 5, w.extractLsb' 15 5, w.extractLsb' 10 5, w.extractLsb' 5 5, w.extractLsb' 2 3, w.extractLsb' 0 2⟩
def TriW.pack (maj : BitVec 7) (f : TriW) : Word32 := maj ++ f.d ++ f.a ++ f.b ++ f.c ++ f.rm ++ f.fn

structure ImmW where
  d : BitVec 5
  a : BitVec 5
  imm : BitVec 15
  deriving DecidableEq, Repr

def ImmW.of (w : Word32) : ImmW := ⟨w.extractLsb' 20 5, w.extractLsb' 15 5, w.extractLsb' 0 15⟩
def ImmW.pack (maj : BitVec 7) (f : ImmW) : Word32 := maj ++ f.d ++ f.a ++ f.imm

structure WideW where
  d : BitVec 5
  h : BitVec 2
  k : BitVec 2
  imm : BitVec 16
  deriving DecidableEq, Repr

def WideW.of (w : Word32) : WideW :=
  ⟨w.extractLsb' 20 5, w.extractLsb' 18 2, w.extractLsb' 16 2, w.extractLsb' 0 16⟩
def WideW.pack (maj : BitVec 7) (f : WideW) : Word32 := maj ++ f.d ++ f.h ++ f.k ++ f.imm

structure BfW where
  d : BitVec 5
  a : BitVec 5
  pos : BitVec 6
  wm1 : BitVec 6
  fn : BitVec 3
  deriving DecidableEq, Repr

def BfW.of (w : Word32) : BfW :=
  ⟨w.extractLsb' 20 5, w.extractLsb' 15 5, w.extractLsb' 9 6, w.extractLsb' 3 6, w.extractLsb' 0 3⟩
def BfW.pack (maj : BitVec 7) (f : BfW) : Word32 := maj ++ f.d ++ f.a ++ f.pos ++ f.wm1 ++ f.fn

structure BrW where
  a : BitVec 5
  b : BitVec 5
  cnd : BitVec 3
  off : BitVec 12
  deriving DecidableEq, Repr

def BrW.of (w : Word32) : BrW :=
  ⟨w.extractLsb' 20 5, w.extractLsb' 15 5, w.extractLsb' 12 3, w.extractLsb' 0 12⟩
def BrW.pack (maj : BitVec 7) (f : BrW) : Word32 := maj ++ f.a ++ f.b ++ f.cnd ++ f.off

structure JmpW where
  d : BitVec 5
  off : BitVec 20
  deriving DecidableEq, Repr

def JmpW.of (w : Word32) : JmpW := ⟨w.extractLsb' 20 5, w.extractLsb' 0 20⟩
def JmpW.pack (maj : BitVec 7) (f : JmpW) : Word32 := maj ++ f.d ++ f.off

structure MemW where
  d : BitVec 5
  a : BitVec 5
  sc : BitVec 3
  ord : BitVec 2
  t : BitVec 3
  off : BitVec 7
  deriving DecidableEq, Repr

def MemW.of (w : Word32) : MemW :=
  ⟨w.extractLsb' 20 5, w.extractLsb' 15 5, w.extractLsb' 12 3, w.extractLsb' 10 2, w.extractLsb' 7 3, w.extractLsb' 0 7⟩
def MemW.pack (maj : BitVec 7) (f : MemW) : Word32 := maj ++ f.d ++ f.a ++ f.sc ++ f.ord ++ f.t ++ f.off

structure AmoW where
  d : BitVec 5
  a : BitVec 5
  b : BitVec 5
  sc : BitVec 3
  ord : BitVec 2
  w : BitVec 1
  aop : BitVec 4
  deriving DecidableEq, Repr

def AmoW.of (w : Word32) : AmoW :=
  ⟨w.extractLsb' 20 5, w.extractLsb' 15 5, w.extractLsb' 10 5, w.extractLsb' 7 3, w.extractLsb' 5 2,
   w.extractLsb' 4 1, w.extractLsb' 0 4⟩
def AmoW.pack (maj : BitVec 7) (f : AmoW) : Word32 := maj ++ f.d ++ f.a ++ f.b ++ f.sc ++ f.ord ++ f.w ++ f.aop

structure HndW where
  d : BitVec 5
  a : BitVec 5
  sc : BitVec 3
  h : BitVec 8
  fn : BitVec 4
  deriving DecidableEq, Repr

def HndW.of (w : Word32) : HndW :=
  ⟨w.extractLsb' 20 5, w.extractLsb' 15 5, w.extractLsb' 12 3, w.extractLsb' 4 8, w.extractLsb' 0 4⟩
def HndW.pack (maj : BitVec 7) (f : HndW) : Word32 := maj ++ f.d ++ f.a ++ f.sc ++ f.h ++ f.fn

structure SysW where
  d : BitVec 5
  a : BitVec 5
  imm : BitVec 10
  fn : BitVec 5
  deriving DecidableEq, Repr

def SysW.of (w : Word32) : SysW :=
  ⟨w.extractLsb' 20 5, w.extractLsb' 15 5, w.extractLsb' 5 10, w.extractLsb' 0 5⟩
def SysW.pack (maj : BitVec 7) (f : SysW) : Word32 := maj ++ f.d ++ f.a ++ f.imm ++ f.fn

/-! ### Sequencer words by major opcode (R85) -/

/-- R86. -/
def decInt (f : RegW) : Option Instr := do
  let t ← ITy.ofCode f.m
  match f.fn.toNat with
  | 0x00 => some (.add f.d f.a f.b t)
  | 0x01 => some (.sub f.d f.a f.b t)
  | 0x02 => some (.mul f.d f.a f.b t)
  | 0x03 => some (.mulh f.d f.a f.b t)
  | 0x04 => some (.div f.d f.a f.b t)
  | 0x05 => some (.rem f.d f.a f.b t)
  | 0x06 => some (.and f.d f.a f.b t)
  | 0x07 => some (.or f.d f.a f.b t)
  | 0x08 => some (.xor f.d f.a f.b t)
  | 0x09 => some (.sll f.d f.a f.b t)
  | 0x0A => some (.srl f.d f.a f.b t)
  | 0x0B => some (.sra f.d f.a f.b t)
  | 0x0C => some (.min f.d f.a f.b t)
  | 0x0D => some (.max f.d f.a f.b t)
  | 0x0E => do need (f.b == 0); some (.clz f.d f.a t)
  | 0x0F => do need (f.b == 0); some (.ctz f.d f.a t)
  | 0x10 => do need (f.b == 0); some (.popc f.d f.a t)
  | 0x11 => do need (f.b == 0); need t.extOk; some (.sext f.d f.a t)
  | 0x12 => do need (f.b == 0); need t.extOk; some (.zext f.d f.a t)
  | _ => none

/-- R87, major 0x06. -/
def decShift (f : ImmW) : Option Instr := do
  need (f.imm.extractLsb' 8 7 == 0)
  match (f.imm.extractLsb' 6 2).toNat with
  | 0 => some (.slli f.d f.a (f.imm.extractLsb' 0 6))
  | 1 => some (.srli f.d f.a (f.imm.extractLsb' 0 6))
  | 2 => some (.srai f.d f.a (f.imm.extractLsb' 0 6))
  | _ => none

/-- R87, WIDE. -/
def decWide (f : WideW) : Option Instr :=
  match f.k.toNat with
  | 0 => some (.liZ f.d f.h f.imm)
  | 1 => some (.liK f.d f.h f.imm)
  | _ => none

/-- R87, BF. -/
def decBf (f : BfW) : Option Instr := do
  need (decide (f.pos.toNat + f.wm1.toNat + 1 ≤ 64))
  match f.fn.toNat with
  | 0 => some (.bfx f.d f.a f.pos f.wm1)
  | 1 => some (.bfi f.d f.a f.pos f.wm1)
  | _ => none

/-- R87, `cmp.*`. -/
def decCmp (f : RegW) : Option Instr := do
  need (f.fn == 0)
  let d ← cReg f.d
  match f.m.toNat with
  | 0 => some (.cmpEq d f.a f.b)
  | 1 => some (.cmpNe d f.a f.b)
  | 2 => some (.cmpLt d f.a f.b)
  | 3 => some (.cmpGe d f.a f.b)
  | 4 => some (.cmpLtu d f.a f.b)
  | 5 => some (.cmpGeu d f.a f.b)
  | _ => none

/-- R87, `csel`. -/
def decCsel (f : RegW) : Option Instr :=
  match f.fn.toNat with
  | 0 => some (.cselX f.d f.m f.a f.b)
  | 1 => do
    let d ← fReg f.d
    let a ← fReg f.a
    let b ← fReg f.b
    some (.cselF d f.m a b)
  | _ => none

/-- R87, `widf` and `wid.next`. -/
def decWid (f : RegW) : Option Instr := do
  need (f.a == 0)
  need (f.b == 0)
  match f.fn.toNat with
  | 0 => do need (decide (f.m.toNat ≤ 5)); some (.widf f.d f.m)
  | 1 => do need (f.m == 0); some (.widNext f.d)
  | _ => none

/-- R87, `br.*`. -/
def decBr (f : BrW) : Option Instr :=
  match f.cnd.toNat with
  | 0 => some (.brEq f.a f.b f.off)
  | 1 => some (.brNe f.a f.b f.off)
  | 2 => some (.brLt f.a f.b f.off)
  | 3 => some (.brGe f.a f.b f.off)
  | 4 => some (.brLtu f.a f.b f.off)
  | 5 => some (.brGeu f.a f.b f.off)
  | _ => none

/-- R87, `bc.*`. -/
def decBc (f : BrW) : Option Instr := do
  need (f.b == 0)
  let c ← cReg f.a
  match f.cnd.toNat with
  | 0 => some (.bcS c f.off)
  | 1 => some (.bcC c f.off)
  | _ => none

/-- R87, `bsig.*`. -/
def decBsig (f : BrW) : Option Instr := do
  need (decide (f.b.toNat ≤ 24))
  let a ← fReg f.a
  match f.cnd.toNat with
  | 0 => some (.bsigLt a f.b f.off)
  | 1 => some (.bsigGe a f.b f.off)
  | _ => none

/-- R87, `lbeg`. -/
def decLbeg (f : BrW) : Option Instr := do
  need (f.b == 0)
  need (f.cnd.extractLsb' 1 2 == 0)
  need (decide (1 ≤ f.off.toNat) && decide (f.off.toNat ≤ 2047))
  some (.lbeg (f.cnd.extractLsb' 0 1) f.a f.off)

/-- R88. -/
def decFp (f : RegW) : Option Instr :=
  match f.fn.toNat with
  | 0x00 => do let d ← fReg f.d; let a ← fReg f.a; let b ← fReg f.b; let r ← Rnd.ofCode f.m; some (.fadd d a b r)
  | 0x01 => do let d ← fReg f.d; let a ← fReg f.a; let b ← fReg f.b; let r ← Rnd.ofCode f.m; some (.fsub d a b r)
  | 0x02 => do let d ← fReg f.d; let a ← fReg f.a; let b ← fReg f.b; let r ← Rnd.ofCode f.m; some (.fmul d a b r)
  | 0x03 => do let d ← fReg f.d; let a ← fReg f.a; let b ← fReg f.b; let r ← Rnd.ofCode f.m; some (.fdiv d a b r)
  | 0x04 => do need (f.b == 0); let d ← fReg f.d; let a ← fReg f.a; let r ← Rnd.ofCode f.m; some (.fsqrt d a r)
  | 0x05 => do need (f.m == 0); let d ← fReg f.d; let a ← fReg f.a; let b ← fReg f.b; some (.fmin d a b)
  | 0x06 => do need (f.m == 0); let d ← fReg f.d; let a ← fReg f.a; let b ← fReg f.b; some (.fmax d a b)
  | 0x07 => do need (f.m == 0); need (f.b == 0); let d ← fReg f.d; let a ← fReg f.a; some (.fabs d a)
  | 0x08 => do need (f.m == 0); need (f.b == 0); let d ← fReg f.d; let a ← fReg f.a; some (.fneg d a)
  | 0x10 => do need (f.m == 0); let d ← cReg f.d; let a ← fReg f.a; let b ← fReg f.b; some (.fcmpEq d a b)
  | 0x11 => do need (f.m == 0); let d ← cReg f.d; let a ← fReg f.a; let b ← fReg f.b; some (.fcmpLt d a b)
  | 0x12 => do need (f.m == 0); let d ← cReg f.d; let a ← fReg f.a; let b ← fReg f.b; some (.fcmpLe d a b)
  | 0x13 => do need (f.m == 0); let d ← cReg f.d; let a ← fReg f.a; let b ← fReg f.b; some (.fcmpNe d a b)
  | 0x14 => do need (f.m == 0); need (f.b == 0); let a ← fReg f.a; some (.fclass f.d a)
  | 0x18 => do need (f.m == 0); need (f.b == 0); let d ← fReg f.d; let a ← fReg f.a; some (.fmov d a)
  | 0x19 => do need (f.m == 0); need (f.b == 0); let d ← fReg f.d; some (.fmovXf d f.a)
  | 0x1A => do need (f.m == 0); need (f.b == 0); let a ← fReg f.a; some (.fmovFx f.d a)
  | 0x1C => do
    let a ← fReg f.a
    let r ← Rnd.ofCode f.m
    need (decide (1 ≤ f.b.toNat) && decide (f.b.toNat ≤ 5))
    some (.fcvtFx f.d a f.b r)
  | 0x1D => do
    let d ← fReg f.d
    let r ← Rnd.ofCode f.m
    need (decide (1 ≤ f.b.toNat) && decide (f.b.toNat ≤ 5))
    some (.fcvtXf d f.a f.b r)
  | 0x1E => do
    let d ← fReg f.d
    let a ← fReg f.a
    let r ← Rnd.ofCode f.m
    need (decide (6 ≤ f.b.toNat) && decide (f.b.toNat ≤ 10))
    some (.fcvtFf d a f.b r)
  | 0x20 => do need (f.m == 0); need (f.b == 0); let a ← fReg f.a; some (.fsig f.d a)
  | 0x21 => do need (f.m == 0); need (f.b == 0); let d ← fReg f.d; some (.fsigset d f.a)
  | _ => none

/-- R88, `fma`. -/
def decFma (f : TriW) : Option Instr := do
  need (f.fn == 0)
  let d ← fReg f.d
  let a ← fReg f.a
  let b ← fReg f.b
  let c ← fReg f.c
  let r ← Rnd.ofCode f.rm
  some (.fma d a b c r)

/-- R89, loads and stores: `ld` 0, `st` 1, `ldt` 2, `stt` 3, `ldfe` 4, `stfe` 5, `ldnb` 6. -/
def decMem (which : Nat) (f : MemW) : Option Instr := do
  let sc ← Scope.ofCode f.sc
  let t ← ITy.ofCode f.t
  let o := Order.ofCode f.ord
  match which with
  | 0 => do need o.loadOk; some (.ld f.d f.a sc o t f.off)
  | 1 => do need o.storeOk; some (.st f.d f.a sc o t f.off)
  | 2 => do need o.loadOk; need (t == .w); let d ← fReg f.d; some (.ldt d f.a sc o f.off)
  | 3 => do need o.storeOk; need (t == .w); let d ← fReg f.d; some (.stt d f.a sc o f.off)
  | 4 => do need (o == .rlx); some (.ldfe f.d f.a sc t f.off)
  | 5 => do need (o == .rlx); some (.stfe f.d f.a sc t f.off)
  | 6 => do need (o == .rlx); some (.ldnb f.d f.a sc t f.off)
  | _ => none

/-- R89, `amo.*`. -/
def decAmo (f : AmoW) : Option Instr := do
  let sc ← Scope.ofCode f.sc
  let o := Order.ofCode f.ord
  let w := f.w == 1
  match f.aop.toNat with
  | 0 => some (.amoSwap f.d f.a f.b sc o w)
  | 1 => some (.amoCas f.d f.a f.b sc o w)
  | 2 => some (.amoAdd f.d f.a f.b sc o w)
  | 3 => do need (f.w == 0); some (.amoFadd f.d f.a f.b sc o)
  | 4 => some (.amoAnd f.d f.a f.b sc o w)
  | 5 => some (.amoOr f.d f.a f.b sc o w)
  | 6 => some (.amoXor f.d f.a f.b sc o w)
  | 7 => some (.amoMin f.d f.a f.b sc o w)
  | 8 => some (.amoMax f.d f.a f.b sc o w)
  | 9 => some (.amoMinu f.d f.a f.b sc o w)
  | 10 => some (.amoMaxu f.d f.a f.b sc o w)
  | _ => none

/-- R89, `fence.*`. -/
def decFence (f : MemW) : Option Instr := do
  need (f.d == 0)
  need (f.a == 0)
  need (f.ord == 0)
  need (f.t == 0)
  need (f.off == 0)
  let sc ← Scope.ofCode f.sc
  some (.fence sc)

/-- R89, `bar.*`. -/
def decBar (f : HndW) : Option Instr := do
  let sc ← Scope.ofCode f.sc
  need (sc.barOk && decide (f.h.toNat < 16))
  match f.fn.toNat with
  | 0 => do need (f.d == 0); some (.barInit f.a sc f.h)
  | 1 => do need (f.a == 0); some (.barArrive f.d sc f.h)
  | 2 => do need (f.d == 0); some (.barWait f.a sc f.h)
  | 3 => some (.barTest f.d f.a sc f.h)
  | _ => none

/-- R89, `publish`. -/
def decPublish (f : HndW) : Option Instr := do
  need (f.d == 0)
  need (f.a == 0)
  need (f.sc == 0)
  need (f.fn == 0)
  some (.publish f.h)

/-- R89, major 0x38. -/
def decCell (f : RegW) : Option Instr := do
  need (clOk f.m)
  match f.fn.toNat with
  | 0 => some (.cell f.d f.a f.b f.m)
  | 1 => some (.cellm f.d f.a f.b f.m)
  | 2 => some (.cellv f.d f.a f.b f.m)
  | 3 => some (.inj f.d f.a f.b f.m)
  | _ => none

/-- R89, major 0x39. -/
def decRv (f : RegW) : Option Instr := do
  need (f.m == 0)
  let e ← fReg f.b
  match f.fn.toNat with
  | 0 => do need (f.a == 0); some (.rvres f.d e)
  | 1 => do need (f.d == 0); some (.rvrel f.a e)
  | _ => none

/-- R89, major 0x3A. -/
def decSink (f : RegW) : Option Instr := do
  need (f.m == 0)
  need (f.a == 0)
  let n ← fReg f.b
  match f.fn.toNat with
  | 0 => some (.sinkX f.d n)
  | 1 => do let d ← fReg f.d; some (.sinkF d n)
  | _ => none

/-- R89, major 0x3B. -/
def decWalk (f : RegW) : Option Instr :=
  match f.fn.toNat with
  | 0 => do need (clOk f.m); some (.walk f.d f.a f.b f.m)
  | 1 => do need (clOk f.m); some (.walkb f.d f.a f.b f.m)
  | 2 => do need (f.m == 0); some (.wlst f.d f.a f.b)
  | _ => none

/-- R85, major 0x3C. -/
def decCfg (f : RegW) : Option Instr := do
  need (f.m == 0)
  need (f.d == 0)
  need (f.b == 0)
  match f.fn.toNat with
  | 0 => some (.mxGang f.a)
  | 1 => some (.sxCfg f.a)
  | _ => none

/-- R89, `iq.*`. -/
def decIq (f : HndW) : Option Instr := do
  need (f.sc == 0)
  need (decide (f.h.toNat < 16))
  match f.fn.toNat with
  | 0 => do need (f.d == 0); some (.iqPush f.a f.h)
  | 1 => do need (f.a == 0); some (.iqTest f.d f.h)
  | _ => none

/-- R85, `rmark`. -/
def decRmark (f : RegW) : Option Instr := do
  need (f.m == 0)
  need (f.d == 0)
  need (f.b == 0)
  need (f.fn == 0)
  some (.rmark f.a)

/-- R89, channels. -/
def decChan (f : HndW) : Option Instr := do
  need (f.sc == 0)
  need (decide (f.h.toNat < 64))
  match f.fn.toNat with
  | 0 => do need (f.d == 0); some (.chopen f.a f.h)
  | 1 => some (.rld f.d f.a f.h)
  | 2 => some (.rst f.d f.a f.h)
  | 3 => do need (f.d == 0); some (.chsend f.a f.h)
  | 4 => do need (f.d == 0); some (.chrecv f.a f.h)
  | _ => none

/-- R85, major 0x41. -/
def decStrand (f : SysW) : Option Instr := do
  need (f.imm == 0)
  match f.fn.toNat with
  | 0 => some (.split f.d f.a)
  | 1 => do need (f.a == 0); some (.yield f.d)
  | 2 => do need (f.a == 0); need (f.d == 0); some .exit
  | 3 => do need (f.a == 0); need (f.d == 0); some .exitAbandon
  | _ => none

/-- R85, major 0x42. -/
def decScarf (f : HndW) : Option Instr := do
  need (f.sc == 0)
  match f.fn.toNat with
  | 0 => do need (f.d == 0); some (.scarf f.a f.h)
  | 1 => do need (f.a == 0); some (.scarfWait f.d f.h)
  | 2 => do need (f.d == 0); some (.rankmap f.a f.h)
  | _ => none

/-- R85 and R87, major 0x50. -/
def decSys (f : SysW) : Option Instr := do
  need (f.a == 0)
  match f.fn.toNat with
  | 0 => do need (f.d == 0); need (f.imm == 0); some .nop
  | 1 => some (.trap f.d f.imm)
  | 2 => do need (f.d == 0); need (f.imm == 0); some .rft
  | 3 => some (.ident f.d f.imm)
  | 4 => do need (f.d == 0); need (f.imm.extractLsb' 1 9 == 0); some (.lend (f.imm.extractLsb' 0 1))
  | _ => none

/-- R85 and R89, major 0x51: `ctl.rd`, whose reads of EVQ and VOTELOG are instructions of their own (R190,
R373), and `ctl.wr`. -/
def decCtl (f : SysW) : Option Instr :=
  match f.fn.toNat with
  | 0 => do
    need (f.a == 0)
    if f.imm = evqNumber then some (.evqRead f.d)
    else if f.imm = votelogNumber then some (.votelogRead f.d)
    else some (.ctlRd f.d f.imm)
  | 1 => do need (f.d == 0); some (.ctlWr f.a f.imm)
  | _ => none

/-- R82 to R89: the sequencer instruction of a word; `none` where R84 says it is not an instruction. -/
def decodeSeq (w : Word32) : Option Instr :=
  match (major w).toNat with
  | 0x01 => decInt (RegW.of w)
  | 0x02 => some (.addi (ImmW.of w).d (ImmW.of w).a (ImmW.of w).imm)
  | 0x03 => some (.andi (ImmW.of w).d (ImmW.of w).a (ImmW.of w).imm)
  | 0x04 => some (.ori (ImmW.of w).d (ImmW.of w).a (ImmW.of w).imm)
  | 0x05 => some (.xori (ImmW.of w).d (ImmW.of w).a (ImmW.of w).imm)
  | 0x06 => decShift (ImmW.of w)
  | 0x07 => decWide (WideW.of w)
  | 0x08 => decBf (BfW.of w)
  | 0x09 => decCmp (RegW.of w)
  | 0x0A => decCsel (RegW.of w)
  | 0x0B => some (.lea (JmpW.of w).d (JmpW.of w).off)
  | 0x0C => decWid (RegW.of w)
  | 0x10 => decBr (BrW.of w)
  | 0x11 => decBc (BrW.of w)
  | 0x12 => decBsig (BrW.of w)
  | 0x13 => some (.jal (JmpW.of w).d (JmpW.of w).off)
  | 0x14 => some (.jr (ImmW.of w).d (ImmW.of w).a (ImmW.of w).imm)
  | 0x15 => decLbeg (BrW.of w)
  | 0x20 => decFp (RegW.of w)
  | 0x21 => decFma (TriW.of w)
  | 0x28 => decMem 0 (MemW.of w)
  | 0x29 => decMem 1 (MemW.of w)
  | 0x2A => decMem 2 (MemW.of w)
  | 0x2B => decMem 3 (MemW.of w)
  | 0x2C => decMem 4 (MemW.of w)
  | 0x2D => decMem 5 (MemW.of w)
  | 0x2E => decMem 6 (MemW.of w)
  | 0x2F => decAmo (AmoW.of w)
  | 0x30 => decFence (MemW.of w)
  | 0x31 => decBar (HndW.of w)
  | 0x32 => decPublish (HndW.of w)
  | 0x38 => decCell (RegW.of w)
  | 0x39 => decRv (RegW.of w)
  | 0x3A => decSink (RegW.of w)
  | 0x3B => decWalk (RegW.of w)
  | 0x3C => decCfg (RegW.of w)
  | 0x3D => decIq (HndW.of w)
  | 0x3E => decRmark (RegW.of w)
  | 0x40 => decChan (HndW.of w)
  | 0x41 => decStrand (SysW.of w)
  | 0x42 => decScarf (HndW.of w)
  | 0x50 => decSys (SysW.of w)
  | 0x51 => decCtl (SysW.of w)
  | _ => none

/-! ### VX op-words (R90, R91) -/

structure OpW where
  ty : BitVec 2
  dst : BitVec 7
  a : BitVec 7
  b : BitVec 7
  m : BitVec 3
  deriving DecidableEq, Repr

def opn (w : Word32) : BitVec 6 := w.extractLsb' 26 6
def OpW.of (w : Word32) : OpW :=
  ⟨w.extractLsb' 24 2, w.extractLsb' 17 7, w.extractLsb' 10 7, w.extractLsb' 3 7, w.extractLsb' 0 3⟩
def OpW.pack (n : BitVec 6) (f : OpW) : Word32 := n ++ f.ty ++ f.dst ++ f.a ++ f.b ++ f.m

/-- m[2], m[1] and m[0]. -/
def OpW.m2 (f : OpW) : Bool := f.m.extractLsb' 2 1 == 1
def OpW.m1 (f : OpW) : Bool := f.m.extractLsb' 1 1 == 1
def OpW.m0 (f : OpW) : Bool := f.m.extractLsb' 0 1 == 1
def OpW.t (f : OpW) : VTy := VTy.ofCode f.ty

/-- The m field: m[2], m[1], m[0]. -/
def mBits (z y x : Bool) : BitVec 3 := BitVec.ofBool z ++ BitVec.ofBool y ++ BitVec.ofBool x

/-- R92: an op-word of two register sources whose operand codes R203 accepts. -/
def OpW.two (f : OpW) : Bool := Code.dst f.dst && Code.src f.a && Code.src f.b
/-- R92: an op-word of one register source; its b field is 0. -/
def OpW.one (f : OpW) : Bool := Code.dst f.dst && Code.src f.a && f.b == 0 && !f.m1
/-- R92: one source, no tile, b a control value. -/
def OpW.flat (f : OpW) : Bool := Code.flatDst f.dst && Code.flatSrc f.a && !f.m1
/-- R91: an untyped op-word has TY = 0. -/
def OpW.untyped (f : OpW) : Bool := f.ty == 0

/-- R91: `vred` and `vscan`. -/
def decReduce (f : OpW) (red : Bool) : Option Instr := do
  need (f.flat && f.t.rndOk f.m2 && f.b.extractLsb' 0 3 == 0)
  let l := VLvl.ofCode (f.b.extractLsb' 3 2)
  match (f.b.extractLsb' 5 2).toNat, red with
  | 0, true => some (.vredAdd f.t f.dst f.a l f.m2 f.m0)
  | 1, true => some (.vredMin f.t f.dst f.a l f.m2 f.m0)
  | 2, true => some (.vredMax f.t f.dst f.a l f.m2 f.m0)
  | 0, false => some (.vscanAdd f.t f.dst f.a l f.m2 f.m0)
  | 1, false => some (.vscanMin f.t f.dst f.a l f.m2 f.m0)
  | 2, false => some (.vscanMax f.t f.dst f.a l f.m2 f.m0)
  | _, _ => none

/-- R91: `vsig`. -/
def decVsig (f : OpW) : Option Instr := do
  let n := f.b.extractLsb' 0 5
  need (f.flat && f.t.isFloat && !f.m2 && decide (n.toNat ≤ 24))
  match (f.b.extractLsb' 5 2).toNat with
  | 0 => some (.vsigLt f.t f.dst f.a n f.m0)
  | 1 => some (.vsigGe f.t f.dst f.a n f.m0)
  | 2 => some (.vsigCnt f.t f.dst f.a n f.m0)
  | _ => none

/-- R91: `vloop`. -/
def decVloop (f : OpW) : Option Instr := do
  let n : BitVec 14 := f.dst ++ f.a
  need (f.untyped && f.m == 0 && decide (1 ≤ n.toNat) && decide (1 ≤ f.b.toNat))
  some (.vloop n f.b)

/-- R90 to R92: the op-word of a word; `none` where R92 says it is not an instruction. -/
def decodeOpw (w : Word32) : Option Instr :=
  let f := OpW.of w
  match (opn w).toNat with
  | 0x00 => do
    need f.two
    if f.t = .i32 ∧ f.m2 = true then some (.vaddSat f.dst f.a f.b f.m1 f.m0)
    else some (.vadd f.t f.dst f.a f.b f.m2 f.m1 f.m0)
  | 0x01 => do
    need f.two
    if f.t = .i32 ∧ f.m2 = true then some (.vsubSat f.dst f.a f.b f.m1 f.m0)
    else some (.vsub f.t f.dst f.a f.b f.m2 f.m1 f.m0)
  | 0x02 => do
    need f.two
    if f.t = .i32 ∧ f.m2 = true then some (.vmulSat f.dst f.a f.b f.m1 f.m0)
    else some (.vmul f.t f.dst f.a f.b f.m2 f.m1 f.m0)
  | 0x03 => do need (f.two && f.t.isFloat); some (.vfma f.t f.dst f.a f.b f.m2 f.m1 f.m0)
  | 0x04 => do need (f.two && !f.m2); some (.vmin f.t f.dst f.a f.b f.m1 f.m0)
  | 0x05 => do need (f.two && !f.m2); some (.vmax f.t f.dst f.a f.b f.m1 f.m0)
  | 0x06 => do need (f.one && !f.m2); some (.vabs f.t f.dst f.a f.m0)
  | 0x07 => do need (f.one && !f.m2); some (.vneg f.t f.dst f.a f.m0)
  | 0x08 => do need (f.two && f.untyped); some (.vdiv f.dst f.a f.b f.m2 f.m1 f.m0)
  | 0x09 => do need (f.one && f.untyped && !f.m2); some (.vrcp f.dst f.a f.m0)
  | 0x0A => do need (f.one && f.untyped && !f.m2); some (.vrsqrt f.dst f.a f.m0)
  | 0x0B => do need (f.one && f.untyped); some (.vsqrt f.dst f.a f.m2 f.m0)
  | 0x0C => do need (f.one && f.untyped && !f.m2); some (.vexp2 f.dst f.a f.m0)
  | 0x0D => do need (f.one && f.untyped && !f.m2); some (.vlog2 f.dst f.a f.m0)
  | 0x0E => do need (f.two && !f.m2); some (.vcmpEq f.t f.dst f.a f.b f.m1 f.m0)
  | 0x0F => do need (f.two && !f.m2); some (.vcmpLt f.t f.dst f.a f.b f.m1 f.m0)
  | 0x10 => do need (f.two && !f.m2); some (.vcmpLe f.t f.dst f.a f.b f.m1 f.m0)
  | 0x11 => do need (f.two && !f.m2); some (.vcmpNe f.t f.dst f.a f.b f.m1 f.m0)
  | 0x12 => do
    need (f.two && f.untyped)
    if f.m2 then some (.vselL1 f.dst f.a f.b f.m1 f.m0) else some (.vselL0 f.dst f.a f.b f.m1 f.m0)
  | 0x13 => do need (f.two && f.untyped && !f.m2); some (.vand f.dst f.a f.b f.m1 f.m0)
  | 0x14 => do need (f.two && f.untyped && !f.m2); some (.vor f.dst f.a f.b f.m1 f.m0)
  | 0x15 => do need (f.two && f.untyped && !f.m2); some (.vxor f.dst f.a f.b f.m1 f.m0)
  | 0x16 => do need (f.one && f.untyped && !f.m2); some (.vnot f.dst f.a f.m0)
  | 0x17 => do need (f.two && f.untyped && !f.m2); some (.vshl f.dst f.a f.b f.m1 f.m0)
  | 0x18 => do
    need (f.two && f.untyped)
    if f.m2 then some (.vshrA f.dst f.a f.b f.m1 f.m0) else some (.vshrL f.dst f.a f.b f.m1 f.m0)
  | 0x19 => do
    need (f.flat && decide (1 ≤ f.b.toNat) && decide (f.b.toNat ≤ 10))
    some (.vcvt f.t f.dst f.a f.b f.m2 f.m0)
  | 0x1A => do
    need (f.flat && f.t.isFloat && !f.m2 && decide (11 ≤ f.b.toNat) && decide (f.b.toNat ≤ 13))
    some (.vquant f.t f.dst f.a f.b f.m0)
  | 0x1B => do
    need (f.flat && f.t.isFloat && !f.m2 && decide (11 ≤ f.b.toNat) && decide (f.b.toNat ≤ 13))
    some (.vdequant f.t f.dst f.a f.b f.m0)
  | 0x1C => decReduce f true
  | 0x1D => decReduce f false
  | 0x1E => do
    need (Code.flatDst f.dst && Code.flatSrc f.a && Code.flatSrc f.b && f.untyped && !f.m2)
    some (.vperm f.dst f.a f.b f.m1 f.m0)
  | 0x1F => do
    need (f.flat && f.untyped && !f.m2 && f.b.extractLsb' 6 1 == 0)
    some (.vbcast f.dst f.a (f.b.extractLsb' 0 6) f.m0)
  | 0x20 => decVsig f
  | 0x21 => do
    need (Code.regOrTile f.dst && Code.inSlot f.a && f.untyped && f.b == 0 && !f.m2 && !f.m1)
    some (.cin f.dst f.a f.m0)
  | 0x22 => do
    need (Code.outSlot f.dst && Code.reg f.a && f.untyped && f.b == 0 && !f.m2 && !f.m1)
    some (.cout f.dst f.a f.m0)
  | 0x23 => do
    need (f.dst == 0 && Code.inSlot f.a && f.untyped && f.b.extractLsb' 4 3 == 0 && !f.m2 && !f.m1)
    some (.cfwd f.a (f.b.extractLsb' 0 4) f.m0)
  | 0x24 => do
    need (Code.tile f.dst && f.untyped && Code.tileType (f.a ++ f.b ++ f.m))
    some (.tcfg f.dst (f.a ++ f.b ++ f.m))
  | 0x25 => do
    need (Code.tile f.dst && f.untyped && Code.tileType (f.a ++ f.b ++ f.m))
    some (.tcfgDiscard f.dst (f.a ++ f.b ++ f.m))
  | 0x26 => decVloop f
  | 0x27 => do
    need (Code.reg f.a && f.untyped && !f.m1)
    if f.m2 then some (.vbrAll f.a (f.dst ++ f.b) f.m0) else some (.vbrAny f.a (f.dst ++ f.b) f.m0)
  | 0x28 => do need (f.dst == 0 && f.a == 0 && f.b == 0 && f.m == 0 && f.untyped); some .vend
  | 0x29 => do
    need (Code.outSlot f.dst && Code.reg f.a && Code.reg f.b && f.untyped && !f.m2)
    some (.vrec f.dst f.a f.b f.m1 f.m0)
  | _ => none

/-! ### Words from their bytes (R15, R82) -/

/-- R15: a 32-bit word from its bytes, little-endian. -/
def wordOfBytes (b0 b1 b2 b3 : Byte) : Word32 := b3 ++ b2 ++ b1 ++ b0

/-- R15: the bytes of a 32-bit word, the lowest address first. -/
def bytesOfWord (w : Word32) : List Byte :=
  [w.extractLsb' 0 8, w.extractLsb' 8 8, w.extractLsb' 16 8, w.extractLsb' 24 8]

/-- The sequencer word at the head of a list of text bytes, and the rest; `none` past the text. -/
def takeWord : List Byte → Option (Word32 × List Byte)
  | b0 :: b1 :: b2 :: b3 :: rest => some (wordOfBytes b0 b1 b2 b3, rest)
  | _ => none

/-- The instruction of a word whose table bits are w: a sequencer word where the word is one, else a VX op-word.
The two encodings overlap (an op-word is stored in the routine section, never in the text); log entry 12. -/
def decodeTableWord (nbits w : Nat) : Option Instr :=
  if nbits = 32 then
    match decodeSeq (BitVec.ofNat 32 w) with
    | some i => some i
    | none => decodeOpw (BitVec.ofNat 32 w)
  else none

/-! ### The encoder -/

def encShift (k : BitVec 2) (n : BitVec 6) : BitVec 15 := (0#7) ++ k ++ n

/-- The 32-bit word of a sequencer instruction or VX op-word, from R82 to R91; the empty list for the steps of
units, which have no encoding. -/
def encode : Instr → List Word32
  | .add d a b t => [RegW.pack 0x01 ⟨d, a, b, t.code, 0x00⟩]
  | .sub d a b t => [RegW.pack 0x01 ⟨d, a, b, t.code, 0x01⟩]
  | .mul d a b t => [RegW.pack 0x01 ⟨d, a, b, t.code, 0x02⟩]
  | .mulh d a b t => [RegW.pack 0x01 ⟨d, a, b, t.code, 0x03⟩]
  | .div d a b t => [RegW.pack 0x01 ⟨d, a, b, t.code, 0x04⟩]
  | .rem d a b t => [RegW.pack 0x01 ⟨d, a, b, t.code, 0x05⟩]
  | .and d a b t => [RegW.pack 0x01 ⟨d, a, b, t.code, 0x06⟩]
  | .or d a b t => [RegW.pack 0x01 ⟨d, a, b, t.code, 0x07⟩]
  | .xor d a b t => [RegW.pack 0x01 ⟨d, a, b, t.code, 0x08⟩]
  | .sll d a b t => [RegW.pack 0x01 ⟨d, a, b, t.code, 0x09⟩]
  | .srl d a b t => [RegW.pack 0x01 ⟨d, a, b, t.code, 0x0A⟩]
  | .sra d a b t => [RegW.pack 0x01 ⟨d, a, b, t.code, 0x0B⟩]
  | .min d a b t => [RegW.pack 0x01 ⟨d, a, b, t.code, 0x0C⟩]
  | .max d a b t => [RegW.pack 0x01 ⟨d, a, b, t.code, 0x0D⟩]
  | .clz d a t => [RegW.pack 0x01 ⟨d, a, 0, t.code, 0x0E⟩]
  | .ctz d a t => [RegW.pack 0x01 ⟨d, a, 0, t.code, 0x0F⟩]
  | .popc d a t => [RegW.pack 0x01 ⟨d, a, 0, t.code, 0x10⟩]
  | .sext d a t => [RegW.pack 0x01 ⟨d, a, 0, t.code, 0x11⟩]
  | .zext d a t => [RegW.pack 0x01 ⟨d, a, 0, t.code, 0x12⟩]
  | .addi d a imm => [ImmW.pack 0x02 ⟨d, a, imm⟩]
  | .andi d a imm => [ImmW.pack 0x03 ⟨d, a, imm⟩]
  | .ori d a imm => [ImmW.pack 0x04 ⟨d, a, imm⟩]
  | .xori d a imm => [ImmW.pack 0x05 ⟨d, a, imm⟩]
  | .slli d a n => [ImmW.pack 0x06 ⟨d, a, encShift 0 n⟩]
  | .srli d a n => [ImmW.pack 0x06 ⟨d, a, encShift 1 n⟩]
  | .srai d a n => [ImmW.pack 0x06 ⟨d, a, encShift 2 n⟩]
  | .liZ d h imm => [WideW.pack 0x07 ⟨d, h, 0, imm⟩]
  | .liK d h imm => [WideW.pack 0x07 ⟨d, h, 1, imm⟩]
  | .bfx d a p w => [BfW.pack 0x08 ⟨d, a, p, w, 0⟩]
  | .bfi d a p w => [BfW.pack 0x08 ⟨d, a, p, w, 1⟩]
  | .cmpEq d a b => [RegW.pack 0x09 ⟨cField d, a, b, 0, 0⟩]
  | .cmpNe d a b => [RegW.pack 0x09 ⟨cField d, a, b, 1, 0⟩]
  | .cmpLt d a b => [RegW.pack 0x09 ⟨cField d, a, b, 2, 0⟩]
  | .cmpGe d a b => [RegW.pack 0x09 ⟨cField d, a, b, 3, 0⟩]
  | .cmpLtu d a b => [RegW.pack 0x09 ⟨cField d, a, b, 4, 0⟩]
  | .cmpGeu d a b => [RegW.pack 0x09 ⟨cField d, a, b, 5, 0⟩]
  | .cselX d c a b => [RegW.pack 0x0A ⟨d, a, b, c, 0⟩]
  | .cselF d c a b => [RegW.pack 0x0A ⟨fField d, fField a, fField b, c, 1⟩]
  | .lea d off => [JmpW.pack 0x0B ⟨d, off⟩]
  | .widf d k => [RegW.pack 0x0C ⟨d, 0, 0, k, 0⟩]
  | .widNext d => [RegW.pack 0x0C ⟨d, 0, 0, 0, 1⟩]
  | .brEq a b off => [BrW.pack 0x10 ⟨a, b, 0, off⟩]
  | .brNe a b off => [BrW.pack 0x10 ⟨a, b, 1, off⟩]
  | .brLt a b off => [BrW.pack 0x10 ⟨a, b, 2, off⟩]
  | .brGe a b off => [BrW.pack 0x10 ⟨a, b, 3, off⟩]
  | .brLtu a b off => [BrW.pack 0x10 ⟨a, b, 4, off⟩]
  | .brGeu a b off => [BrW.pack 0x10 ⟨a, b, 5, off⟩]
  | .bcS c off => [BrW.pack 0x11 ⟨cField c, 0, 0, off⟩]
  | .bcC c off => [BrW.pack 0x11 ⟨cField c, 0, 1, off⟩]
  | .bsigLt a n off => [BrW.pack 0x12 ⟨fField a, n, 0, off⟩]
  | .bsigGe a n off => [BrW.pack 0x12 ⟨fField a, n, 1, off⟩]
  | .jal d off => [JmpW.pack 0x13 ⟨d, off⟩]
  | .jr d a imm => [ImmW.pack 0x14 ⟨d, a, imm⟩]
  | .lbeg lv a off => [BrW.pack 0x15 ⟨a, 0, (0#2) ++ lv, off⟩]
  | .lend lv => [SysW.pack 0x50 ⟨0, 0, (0#9) ++ lv, 4⟩]
  | .fadd d a b r => [RegW.pack 0x20 ⟨fField d, fField a, fField b, r.code, 0x00⟩]
  | .fsub d a b r => [RegW.pack 0x20 ⟨fField d, fField a, fField b, r.code, 0x01⟩]
  | .fmul d a b r => [RegW.pack 0x20 ⟨fField d, fField a, fField b, r.code, 0x02⟩]
  | .fdiv d a b r => [RegW.pack 0x20 ⟨fField d, fField a, fField b, r.code, 0x03⟩]
  | .fsqrt d a r => [RegW.pack 0x20 ⟨fField d, fField a, 0, r.code, 0x04⟩]
  | .fmin d a b => [RegW.pack 0x20 ⟨fField d, fField a, fField b, 0, 0x05⟩]
  | .fmax d a b => [RegW.pack 0x20 ⟨fField d, fField a, fField b, 0, 0x06⟩]
  | .fabs d a => [RegW.pack 0x20 ⟨fField d, fField a, 0, 0, 0x07⟩]
  | .fneg d a => [RegW.pack 0x20 ⟨fField d, fField a, 0, 0, 0x08⟩]
  | .fcmpEq d a b => [RegW.pack 0x20 ⟨cField d, fField a, fField b, 0, 0x10⟩]
  | .fcmpLt d a b => [RegW.pack 0x20 ⟨cField d, fField a, fField b, 0, 0x11⟩]
  | .fcmpLe d a b => [RegW.pack 0x20 ⟨cField d, fField a, fField b, 0, 0x12⟩]
  | .fcmpNe d a b => [RegW.pack 0x20 ⟨cField d, fField a, fField b, 0, 0x13⟩]
  | .fclass d a => [RegW.pack 0x20 ⟨d, fField a, 0, 0, 0x14⟩]
  | .fmov d a => [RegW.pack 0x20 ⟨fField d, fField a, 0, 0, 0x18⟩]
  | .fmovXf d a => [RegW.pack 0x20 ⟨fField d, a, 0, 0, 0x19⟩]
  | .fmovFx d a => [RegW.pack 0x20 ⟨d, fField a, 0, 0, 0x1A⟩]
  | .fcvtFx d a fmt r => [RegW.pack 0x20 ⟨d, fField a, fmt, r.code, 0x1C⟩]
  | .fcvtXf d a fmt r => [RegW.pack 0x20 ⟨fField d, a, fmt, r.code, 0x1D⟩]
  | .fcvtFf d a fmt r => [RegW.pack 0x20 ⟨fField d, fField a, fmt, r.code, 0x1E⟩]
  | .fsig d a => [RegW.pack 0x20 ⟨d, fField a, 0, 0, 0x20⟩]
  | .fsigset d a => [RegW.pack 0x20 ⟨fField d, a, 0, 0, 0x21⟩]
  | .fma d a b c r => [TriW.pack 0x21 ⟨fField d, fField a, fField b, fField c, r.code, 0⟩]
  | .ld d a sc o t off => [MemW.pack 0x28 ⟨d, a, sc.code, o.code, t.code, off⟩]
  | .st d a sc o t off => [MemW.pack 0x29 ⟨d, a, sc.code, o.code, t.code, off⟩]
  | .ldt d a sc o off => [MemW.pack 0x2A ⟨fField d, a, sc.code, o.code, 4, off⟩]
  | .stt d a sc o off => [MemW.pack 0x2B ⟨fField d, a, sc.code, o.code, 4, off⟩]
  | .ldfe d a sc t off => [MemW.pack 0x2C ⟨d, a, sc.code, 0, t.code, off⟩]
  | .stfe d a sc t off => [MemW.pack 0x2D ⟨d, a, sc.code, 0, t.code, off⟩]
  | .ldnb d a sc t off => [MemW.pack 0x2E ⟨d, a, sc.code, 0, t.code, off⟩]
  | .amoSwap d a b sc o w => [AmoW.pack 0x2F ⟨d, a, b, sc.code, o.code, BitVec.ofBool w, 0⟩]
  | .amoCas d a b sc o w => [AmoW.pack 0x2F ⟨d, a, b, sc.code, o.code, BitVec.ofBool w, 1⟩]
  | .amoAdd d a b sc o w => [AmoW.pack 0x2F ⟨d, a, b, sc.code, o.code, BitVec.ofBool w, 2⟩]
  | .amoFadd d a b sc o => [AmoW.pack 0x2F ⟨d, a, b, sc.code, o.code, 0, 3⟩]
  | .amoAnd d a b sc o w => [AmoW.pack 0x2F ⟨d, a, b, sc.code, o.code, BitVec.ofBool w, 4⟩]
  | .amoOr d a b sc o w => [AmoW.pack 0x2F ⟨d, a, b, sc.code, o.code, BitVec.ofBool w, 5⟩]
  | .amoXor d a b sc o w => [AmoW.pack 0x2F ⟨d, a, b, sc.code, o.code, BitVec.ofBool w, 6⟩]
  | .amoMin d a b sc o w => [AmoW.pack 0x2F ⟨d, a, b, sc.code, o.code, BitVec.ofBool w, 7⟩]
  | .amoMax d a b sc o w => [AmoW.pack 0x2F ⟨d, a, b, sc.code, o.code, BitVec.ofBool w, 8⟩]
  | .amoMinu d a b sc o w => [AmoW.pack 0x2F ⟨d, a, b, sc.code, o.code, BitVec.ofBool w, 9⟩]
  | .amoMaxu d a b sc o w => [AmoW.pack 0x2F ⟨d, a, b, sc.code, o.code, BitVec.ofBool w, 10⟩]
  | .fence sc => [MemW.pack 0x30 ⟨0, 0, sc.code, 0, 0, 0⟩]
  | .barInit a sc h => [HndW.pack 0x31 ⟨0, a, sc.code, h, 0⟩]
  | .barArrive d sc h => [HndW.pack 0x31 ⟨d, 0, sc.code, h, 1⟩]
  | .barWait a sc h => [HndW.pack 0x31 ⟨0, a, sc.code, h, 2⟩]
  | .barTest d a sc h => [HndW.pack 0x31 ⟨d, a, sc.code, h, 3⟩]
  | .publish h => [HndW.pack 0x32 ⟨0, 0, 0, h, 0⟩]
  | .cell d a b c => [RegW.pack 0x38 ⟨d, a, b, c, 0⟩]
  | .cellm d a b c => [RegW.pack 0x38 ⟨d, a, b, c, 1⟩]
  | .cellv d a b c => [RegW.pack 0x38 ⟨d, a, b, c, 2⟩]
  | .inj d a b c => [RegW.pack 0x38 ⟨d, a, b, c, 3⟩]
  | .rvres d e => [RegW.pack 0x39 ⟨d, 0, fField e, 0, 0⟩]
  | .rvrel a e => [RegW.pack 0x39 ⟨0, a, fField e, 0, 1⟩]
  | .sinkX d n => [RegW.pack 0x3A ⟨d, 0, fField n, 0, 0⟩]
  | .sinkF d n => [RegW.pack 0x3A ⟨fField d, 0, fField n, 0, 1⟩]
  | .walk d a b c => [RegW.pack 0x3B ⟨d, a, b, c, 0⟩]
  | .walkb d a b c => [RegW.pack 0x3B ⟨d, a, b, c, 1⟩]
  | .wlst d a b => [RegW.pack 0x3B ⟨d, a, b, 0, 2⟩]
  | .mxGang a => [RegW.pack 0x3C ⟨0, a, 0, 0, 0⟩]
  | .sxCfg a => [RegW.pack 0x3C ⟨0, a, 0, 0, 1⟩]
  | .iqPush a h => [HndW.pack 0x3D ⟨0, a, 0, h, 0⟩]
  | .iqTest d h => [HndW.pack 0x3D ⟨d, 0, 0, h, 1⟩]
  | .rmark a => [RegW.pack 0x3E ⟨0, a, 0, 0, 0⟩]
  | .chopen a h => [HndW.pack 0x40 ⟨0, a, 0, h, 0⟩]
  | .rld d a h => [HndW.pack 0x40 ⟨d, a, 0, h, 1⟩]
  | .rst d a h => [HndW.pack 0x40 ⟨d, a, 0, h, 2⟩]
  | .chsend a h => [HndW.pack 0x40 ⟨0, a, 0, h, 3⟩]
  | .chrecv a h => [HndW.pack 0x40 ⟨0, a, 0, h, 4⟩]
  | .split d a => [SysW.pack 0x41 ⟨d, a, 0, 0⟩]
  | .yield d => [SysW.pack 0x41 ⟨d, 0, 0, 1⟩]
  | .exit => [SysW.pack 0x41 ⟨0, 0, 0, 2⟩]
  | .exitAbandon => [SysW.pack 0x41 ⟨0, 0, 0, 3⟩]
  | .scarf a h => [HndW.pack 0x42 ⟨0, a, 0, h, 0⟩]
  | .scarfWait d h => [HndW.pack 0x42 ⟨d, 0, 0, h, 1⟩]
  | .rankmap a h => [HndW.pack 0x42 ⟨0, a, 0, h, 2⟩]
  | .nop => [SysW.pack 0x50 ⟨0, 0, 0, 0⟩]
  | .trap d c => [SysW.pack 0x50 ⟨d, 0, c, 1⟩]
  | .rft => [SysW.pack 0x50 ⟨0, 0, 0, 2⟩]
  | .ident d s => [SysW.pack 0x50 ⟨d, 0, s, 3⟩]
  | .ctlRd d n => [SysW.pack 0x51 ⟨d, 0, n, 0⟩]
  | .ctlWr a n => [SysW.pack 0x51 ⟨0, a, n, 1⟩]
  | .evqRead d => [SysW.pack 0x51 ⟨d, 0, evqNumber, 0⟩]
  | .votelogRead d => [SysW.pack 0x51 ⟨d, 0, votelogNumber, 0⟩]
  | .vadd t d a b r y x => [OpW.pack 0x00 ⟨t.code, d, a, b, mBits r y x⟩]
  | .vaddSat d a b y x => [OpW.pack 0x00 ⟨3, d, a, b, mBits true y x⟩]
  | .vsub t d a b r y x => [OpW.pack 0x01 ⟨t.code, d, a, b, mBits r y x⟩]
  | .vsubSat d a b y x => [OpW.pack 0x01 ⟨3, d, a, b, mBits true y x⟩]
  | .vmul t d a b r y x => [OpW.pack 0x02 ⟨t.code, d, a, b, mBits r y x⟩]
  | .vmulSat d a b y x => [OpW.pack 0x02 ⟨3, d, a, b, mBits true y x⟩]
  | .vfma t d a b r y x => [OpW.pack 0x03 ⟨t.code, d, a, b, mBits r y x⟩]
  | .vmin t d a b y x => [OpW.pack 0x04 ⟨t.code, d, a, b, mBits false y x⟩]
  | .vmax t d a b y x => [OpW.pack 0x05 ⟨t.code, d, a, b, mBits false y x⟩]
  | .vabs t d a x => [OpW.pack 0x06 ⟨t.code, d, a, 0, mBits false false x⟩]
  | .vneg t d a x => [OpW.pack 0x07 ⟨t.code, d, a, 0, mBits false false x⟩]
  | .vdiv d a b r y x => [OpW.pack 0x08 ⟨0, d, a, b, mBits r y x⟩]
  | .vrcp d a x => [OpW.pack 0x09 ⟨0, d, a, 0, mBits false false x⟩]
  | .vrsqrt d a x => [OpW.pack 0x0A ⟨0, d, a, 0, mBits false false x⟩]
  | .vsqrt d a r x => [OpW.pack 0x0B ⟨0, d, a, 0, mBits r false x⟩]
  | .vexp2 d a x => [OpW.pack 0x0C ⟨0, d, a, 0, mBits false false x⟩]
  | .vlog2 d a x => [OpW.pack 0x0D ⟨0, d, a, 0, mBits false false x⟩]
  | .vcmpEq t d a b y x => [OpW.pack 0x0E ⟨t.code, d, a, b, mBits false y x⟩]
  | .vcmpLt t d a b y x => [OpW.pack 0x0F ⟨t.code, d, a, b, mBits false y x⟩]
  | .vcmpLe t d a b y x => [OpW.pack 0x10 ⟨t.code, d, a, b, mBits false y x⟩]
  | .vcmpNe t d a b y x => [OpW.pack 0x11 ⟨t.code, d, a, b, mBits false y x⟩]
  | .vselL0 d a b y x => [OpW.pack 0x12 ⟨0, d, a, b, mBits false y x⟩]
  | .vselL1 d a b y x => [OpW.pack 0x12 ⟨0, d, a, b, mBits true y x⟩]
  | .vand d a b y x => [OpW.pack 0x13 ⟨0, d, a, b, mBits false y x⟩]
  | .vor d a b y x => [OpW.pack 0x14 ⟨0, d, a, b, mBits false y x⟩]
  | .vxor d a b y x => [OpW.pack 0x15 ⟨0, d, a, b, mBits false y x⟩]
  | .vnot d a x => [OpW.pack 0x16 ⟨0, d, a, 0, mBits false false x⟩]
  | .vshl d a b y x => [OpW.pack 0x17 ⟨0, d, a, b, mBits false y x⟩]
  | .vshrL d a b y x => [OpW.pack 0x18 ⟨0, d, a, b, mBits false y x⟩]
  | .vshrA d a b y x => [OpW.pack 0x18 ⟨0, d, a, b, mBits true y x⟩]
  | .vcvt t d a f r x => [OpW.pack 0x19 ⟨t.code, d, a, f, mBits r false x⟩]
  | .vquant t d a f x => [OpW.pack 0x1A ⟨t.code, d, a, f, mBits false false x⟩]
  | .vdequant t d a f x => [OpW.pack 0x1B ⟨t.code, d, a, f, mBits false false x⟩]
  | .vredAdd t d a l r x => [OpW.pack 0x1C ⟨t.code, d, a, (0#2) ++ l.code ++ (0#3), mBits r false x⟩]
  | .vredMin t d a l r x => [OpW.pack 0x1C ⟨t.code, d, a, (1#2) ++ l.code ++ (0#3), mBits r false x⟩]
  | .vredMax t d a l r x => [OpW.pack 0x1C ⟨t.code, d, a, (2#2) ++ l.code ++ (0#3), mBits r false x⟩]
  | .vscanAdd t d a l r x => [OpW.pack 0x1D ⟨t.code, d, a, (0#2) ++ l.code ++ (0#3), mBits r false x⟩]
  | .vscanMin t d a l r x => [OpW.pack 0x1D ⟨t.code, d, a, (1#2) ++ l.code ++ (0#3), mBits r false x⟩]
  | .vscanMax t d a l r x => [OpW.pack 0x1D ⟨t.code, d, a, (2#2) ++ l.code ++ (0#3), mBits r false x⟩]
  | .vperm d a b y x => [OpW.pack 0x1E ⟨0, d, a, b, mBits false y x⟩]
  | .vbcast d a n x => [OpW.pack 0x1F ⟨0, d, a, (0#1) ++ n, mBits false false x⟩]
  | .vsigLt t d a n x => [OpW.pack 0x20 ⟨t.code, d, a, (0#2) ++ n, mBits false false x⟩]
  | .vsigGe t d a n x => [OpW.pack 0x20 ⟨t.code, d, a, (1#2) ++ n, mBits false false x⟩]
  | .vsigCnt t d a n x => [OpW.pack 0x20 ⟨t.code, d, a, (2#2) ++ n, mBits false false x⟩]
  | .cin d a x => [OpW.pack 0x21 ⟨0, d, a, 0, mBits false false x⟩]
  | .cout d a x => [OpW.pack 0x22 ⟨0, d, a, 0, mBits false false x⟩]
  | .cfwd a e x => [OpW.pack 0x23 ⟨0, 0, a, (0#3) ++ e, mBits false false x⟩]
  | .tcfg d q => [OpW.pack 0x24 ⟨0, d, q.extractLsb' 10 7, q.extractLsb' 3 7, q.extractLsb' 0 3⟩]
  | .tcfgDiscard d q => [OpW.pack 0x25 ⟨0, d, q.extractLsb' 10 7, q.extractLsb' 3 7, q.extractLsb' 0 3⟩]
  | .vloop n l => [OpW.pack 0x26 ⟨0, n.extractLsb' 7 7, n.extractLsb' 0 7, l, 0⟩]
  | .vbrAll a off x => [OpW.pack 0x27 ⟨0, off.extractLsb' 7 7, a, off.extractLsb' 0 7, mBits true false x⟩]
  | .vbrAny a off x => [OpW.pack 0x27 ⟨0, off.extractLsb' 7 7, a, off.extractLsb' 0 7, mBits false false x⟩]
  | .vend => [OpW.pack 0x28 ⟨0, 0, 0, 0, 0⟩]
  | .vrec d a b y x => [OpW.pack 0x29 ⟨0, d, a, b, mBits false y x⟩]
  | _ => []

end Sys2Proof
end

