-- ==== Sys2Proof/Machine/Girt.lean ====
section
/-! DEFINITION. Data cells at WB0, WB1 and GS, and what crosses the girt network (R290, R292, R294, R395, R396). -/

namespace Sys2Proof.Machine

/-! ### Where a data cell goes (R181, R396) -/

/-- Performed here, refused, or handed to the GR of a bent towards one of its egresses. -/
inductive Reach where
  | here
  | refused
  | girt (target egress : Nat)
  deriving DecidableEq, Repr, Inhabited

/-- R181, R294, R396. -/
def State.reach (s : State) (b e : Nat) (c : InCell) : Reach :=
  let L := s.launch c.side.lid
  if e = egGS ∧ c.cell.kind = 4 then .girt (L.home (c.cell.arg.toNat % 16)) egCN
  else
    match c.side.shadow with
    | some bt =>
      if e = egGS ∧ (NMap.getD L.bufs bt default).spad = true then .girt b egWB0 else .here
    | none =>
      match addrSpace b c.cell.addr with
      | .own _ => if e = egGS then .girt b egWB0 else .here
      | .named t _ => if L.region.contains t then .girt t (if e = egGS then egWB0 else e) else .refused
      | .bad => .refused
      | .dev _ | .host _ => .here

/-! ### Performing a write (R396) -/

/-- Where a piece of a write goes, or why it does not. -/
inductive PlaceOf where
  | ok (loc : Nat)
  | wait (t : State)
  | fault (t : State) (cause : BitVec 16)
  deriving DecidableEq, Repr, Inhabited

/-- R332 to R335: an address of a cell translated in the cell's context. -/
def State.cellVa (s : State) (b e : Nat) (d : Side) (ctx : Nat) (host : Bool) (va : Nat) : PlaceOf :=
  let L := s.launch d.lid
  match (if host then none else L.devBuffer va) with
  | some (bt, B) => .ok (backAddr d.lid bt (B.shadow && B.swap) (va - (L.bufva.toNat + B.boff)))
  | none =>
    match s.translate ((s.bent b).walkFailed (srcEgress e) (transKey host va)) (s.bent b).tlb L.part ctx host true va with
    | .ok loc _ => .ok loc
    | .fail => .fault (s.updBent b (fun B => B.metFailure (srcEgress e))) 0x0003
    | .miss => .wait (s.addMiss ctx host true va b (srcEgress e))
    | .scrub page => .wait (s.queueScrub page ctx)

/-- R329, R396: where byte k of a cell's write lies. -/
def State.writePlace (s : State) (b e : Nat) (c : InCell) (k : Nat) : PlaceOf :=
  let L := s.launch c.side.lid
  match c.side.shadow with
  | some bt => .ok ((NMap.getD L.bufs bt default).place c.side.lid b bt false (c.cell.addr.toNat + k))
  | none =>
    match addrSpace b c.cell.addr with
    | .own off =>
      (match (if off + k < 2 ^ 22 then L.spadMap (off + k) else none) with
       | some (o, _) => .ok (spadAddr b o)
       | none => .fault s 0x0004)
    | .dev va => s.cellVa b e c.side c.cell.ctx.toNat false (va + k)
    | .host va => s.cellVa b e c.side c.cell.ctx.toNat true (va + k)
    | .named _ _ | .bad => .fault s 0x0004

/-- The pieces of n bytes that lie within blocks of 256: offset and length. -/
def blockPieces (a n : Nat) : List (Nat × Nat) :=
  let n1 := Nat.min n (256 - a % 256)
  if n = 0 then [] else if n1 < n then [(0, n1), (n1, n - n1)] else [(0, n)]

/-- The places of every piece of a write. -/
def State.writePlaces (s : State) (b e : Nat) (c : InCell) : List (Nat × Nat) → PlaceOf ⊕ List (Nat × Nat × Nat)
  | [] => .inr []
  | (k, n) :: l =>
    match s.writePlace b e c k with
    | .ok loc =>
      (match s.writePlaces b e c l with
       | .inl x => .inl x
       | .inr ps => .inr ((loc, k, n) :: ps))
    | x => .inl x

/-- R142, R302, R396: a cell's bytes written at their places. -/
def State.writeCell (s : State) (c : InCell) (ps : List (Nat × Nat × Nat)) : State :=
  let w := s.cellWriter c.cell c.side
  (ps.foldl (fun t p => t.write w p.1 ((c.cell.bytes.drop p.2.1).take p.2.2) c.cell.poison) s).wrote c.cell c.side

/-! ### Counting what passes (R395) -/

/-- A cell gone from its buffer and counted. -/
def Bent.pass (B : Bent) (e : Nat) (c : InCell) (target : Option (Nat × Nat)) : Bent :=
  let i := issuerOf B.index c.ing c.side
  let l := countPassed e c.ing i c.cell.round none B.gsSent
  { B with
    inbuf := NMap.set B.inbuf e ((B.buffer e).drop 1)
    gsSent := match target with | some t => countPassed e c.ing i c.cell.round (some t) l | none => l }

/-- The data cell at the head of a buffer. -/
def Bent.dataHead (B : Bent) (e : Nat) : Option InCell := (B.headIn e).filter (fun c => !c.cell.rmk)

/-- R394, R396: a cell at WB0, WB1 or GS: written, handed on or refused; it waits while a publish of its shadow is
incomplete (R160), while a translation is fetched, and at the head of its input until its place at another bent is
granted (R294). -/
def State.carry (s : State) (b e : Nat) : State :=
  let B := s.bent b
  match B.dataHead e with
  | none => s
  | some c =>
    if B.gs.any (fun x => x.egr == e && !x.cell.rmk) then s
    else
    match s.reach b e c with
    | .refused => (s.setBent b (B.pass e c none)).engFault c.side 0x0004
    | .girt t g =>
      if B.gs.any (fun x => x.egr == e) then s
      else
        let x : GsCell := { cell := c.cell, side := c.side, egr := e, ing := c.ing, target := t, egress := g, stamp := s.nonce }
        { s.setBent b { B with gs := B.gs ++ [x] } with nonce := s.nonce + 1 }
    | .here =>
      if (match c.side.shadow with | some bt => (s.launch c.side.lid).pubAfter.contains bt | none => false) then s
      else
        match s.writePlaces b e c (blockPieces (c.cell.addr.toNat) c.cell.len.toNat) with
        | .inr ps => (s.setBent b (B.pass e c none)).writeCell c ps
        | .inl (.wait t) => t
        | .inl (.fault t cause) => (t.updBent b (fun B => B.pass e c none)).engFault c.side cause
        | .inl (.ok _) => s

/-- R396: WB0 or WB1 consumes the data cell at its head. -/
def execWriteback (b e : Nat) (s : State) : Out :=
  if e = egWB0 ∨ e = egWB1 then .next (s.carry b e) else .next s

/-! ### GS (R294, R395) -/

/-- R395: the egresses of one bent that the cells of a marker's pair and round reached, with how many. -/
def Bent.markFan (B : Bent) (e : Nat) (c : InCell) (t : Nat) : List (Nat × Nat) :=
  let i := issuerOf B.index c.ing c.side
  B.gsSent.filterMap (fun g =>
    if g.is e c.ing i c.cell.round then g.target.bind (fun x => if x.1 = t then some (x.2, g.n) else none) else none)

/-- R395: the markers of a pair that GS sends on, one to each bent that the pair's cells went to, with their number as ARG. -/
def Bent.markCopies (B : Bent) (stamp : Nat) (e : Nat) (c : InCell) : List GsCell :=
  let targets := (B.gsSent.filterMap (fun g => g.target.map Prod.fst)).eraseDups
  targets.filterMap (fun t =>
    let fan := B.markFan e c t
    if fan.isEmpty then none
    else
      some { cell := { c.cell with arg := BitVec.ofNat 32 (fan.map Prod.snd).sum }, side := c.side, egr := e, ing := c.ing
             target := t, egress := (fan.headD (0, 0)).1, stamp := stamp, fan := fan })

/-- R395: how many cells of a marker's pair and round have passed. -/
def Bent.passedOf (B : Bent) (e : Nat) (c : InCell) : Nat :=
  let i := issuerOf B.index c.ing c.side
  ((B.gsSent.filter (fun g => g.is e c.ing i c.cell.round && g.target.isNone)).map (fun g => g.n)).sum

/-- R395: the markers that are due. -/
def State.forwardMarks (s : State) (b : Nat) : State :=
  let B := s.bent b
  let due := B.gsMarks.filter (fun m => decide (m.2.cell.arg.toNat ≤ B.passedOf m.1 m.2))
  let B1 := due.foldl (fun (B : Bent) m =>
    { B with
      gs := B.gs ++ B.markCopies s.nonce m.1 m.2
      gsSent := B.gsSent.filter (fun g => !g.is m.1 m.2.ing (issuerOf B.index m.2.ing m.2.side) m.2.cell.round) }) B
  { s.setBent b { B1 with gsMarks := B1.gsMarks.filter (fun m => !due.contains m) } with nonce := s.nonce + 1 }

/-- Who issued a cell, for the SEQ order of R290. -/
def seqIssuer (ix : Nat) (d : Side) : Nat :=
  let src := match d.src with | .strand => 0 | .walk w => 1 + w | .engine e => 8 + e | .gr => 24 | .cp => 25
  (ix * 32 + src) * 65536 + who d.ownerBent d.ownerSlot

/-- R294: what holds a reservation is sent, and ejects into its place. -/
def GsCell.place (ix : Nat) (x : GsCell) : GrPlace :=
  { cell := { x.cell with dest := oneHot x.egress }, side := { x.side with via := some (viaOf ix x.egr x.ing x.side) }
    issuer := seqIssuer ix x.side, egress := x.egress, fan := x.fan }

/-- R294: a cell sent leaves the head of the input that it stood at; a marker sent on left it before. -/
def Bent.sent (B : Bent) (x : GsCell) : Bent :=
  if x.cell.rmk then B
  else match (B.buffer x.egr).head? with | some c => B.pass x.egr c (some (x.target, x.egress)) | none => B

def State.sendGranted (s : State) (b : Nat) : State :=
  let B := s.bent b
  let out := B.gs.filter (fun x => x.granted)
  let B1 := out.foldl Bent.sent { B with gs := B.gs.filter (fun x => !x.granted) }
  out.foldl (fun t x => t.updBent x.target (fun T => { T with gr := T.gr ++ [x.place B.index] })) (s.setBent b B1)

/-- R395: GS takes the marker at its head. -/
def State.gsMarker (s : State) (b : Nat) : State :=
  let B := s.bent b
  match (B.buffer egGS).head? with
  | some c => if c.cell.rmk then s.setBent b (B.takeMarker egGS c) else s
  | none => s

/-- R294, R395, R396: GS: what is granted is sent, the head of its input taken, and the markers that are due sent on. -/
def execGirtSend (b : Nat) (s : State) : Out := .next ((((s.sendGranted b).gsMarker b).carry b egGS).forwardMarks b)

/-- R294: the places taken in a bent's reassembly buffer of 32. -/
def State.grTaken (s : State) (t : Nat) : Nat :=
  (s.bent t).gr.length
    + ((s.bents.map (fun e => (e.2.gs.filter (fun x => x.granted && x.target == t)).length)).sum)

/-- R294: the oldest request for a place at a bent: the bent that sends, and its stamp. -/
def State.oldestRequest (s : State) (t : Nat) : Option (Nat × GsCell) :=
  leastBy (fun x => x.2.stamp) (s.bents.flatMap (fun e =>
    (e.2.gs.filter (fun x => !x.granted && x.target == t)).map (fun x => (e.1, x))))

/-- Grant the first of a list that equals a request. -/
def grantFirst (y : GsCell) : List GsCell → List GsCell
  | [] => []
  | x :: l => if x = y then { x with granted := true } :: l else x :: grantFirst y l

/-- R294: a place of a bent's reassembly buffer is granted to the oldest request. -/
def execGrReservation (b : Nat) (s : State) : Out :=
  if 32 ≤ s.grTaken b then .next s
  else
    match s.oldestRequest b with
    | none => .next s
    | some (o, y) => .next (s.updBent o (fun B => { B with gs := grantFirst y B.gs }))

/-- R290: whether a cell of the same issuer with an earlier SEQ is held. -/
def Bent.grFirst (B : Bent) (p : GrPlace) : Bool :=
  !B.gr.any (fun q => q.issuer == p.issuer && roundBefore q.cell.seq p.cell.seq)

/-- R395: a marker at GR enters its queue towards every egress that has room, with its count there, and keeps its place until
all have it. -/
def Bent.fanOut (B : Bent) (k : Nat) (p : GrPlace) : Bent :=
  let (now, later) := p.fan.partition (fun x => B.voqRoom portGR x.1 0)
  let B1 := now.foldl (fun B x =>
    B.enqueue portGR x.1 { p.cell with dest := oneHot x.1, arg := BitVec.ofNat 32 x.2 } p.side) B
  { B1 with gr := if later.isEmpty then B1.gr.eraseIdx k else B1.gr.set k { p with fan := later } }

/-- R290, R294: GR moves a cell into its queue and frees the place. -/
def execGrEnqueue (b k : Nat) (s : State) : Out :=
  let B := s.bent b
  match B.gr[k]? with
  | none => .next s
  | some p =>
    if B.grFirst p = false then .next s
    else if p.cell.rmk then .next (s.setBent b (B.fanOut k p))
    else if B.voqRoom portGR p.egress p.cell.cls.toNat then
      .next (s.setBent b { B.enqueue portGR p.egress p.cell p.side with gr := B.gr.eraseIdx k })
    else .next s

/-- R292: the tag and the router of the golden packet of the die's epoch E: tag floor(E / 56) mod 8 at router E mod 56. -/
def Die.golden (D : Die) : Nat × Nat := (D.epoch / 56 % 8, D.epoch % 56)

/-- R292: an epoch of 8,192 cycles ends and the golden packet (`Die.golden`) changes. -/
def execGoldenEpoch (die : Nat) (s : State) : Out :=
  let D := s.die die
  .next (s.setDie die { D with epoch := D.epoch + 1 })

end Sys2Proof.Machine
end

