-- ==== Sys2Proof/Machine/Mx.lean ====
section
/-! DEFINITION. Matrix tenons: weight loads (R231, R232, R342), firings (R37 to R42, R48, R233 to R235, R316), drains
(R236, R237, R239) and clears (R238). -/

namespace Sys2Proof.Machine

def Bent.mxAt (B : Bent) (e : Nat) : Mx := NMap.getD B.mx e {}
def State.updMx (s : State) (b e : Nat) (f : Mx → Mx) : State :=
  s.updBent b (fun B => { B with mx := NMap.set B.mx e (f (B.mxAt e)) })

/-- R230: the issuer key of a cell. -/
def InCell.issuer (c : InCell) : Nat := (c.ing * 256 + c.cell.bent.toNat) * 16 + c.cell.strand.toNat

/-! ### Formats of weights and rows -/

/-- The formats of A and B: scalar or block. -/
inductive MFmt where
  | int (f : IFmt)
  | flt (f : FFmt)
  | seb (f : SebFmt)
  deriving DecidableEq, Repr, Inhabited

/-- R231, R233: format codes 1, 2 and 7 to 13. -/
def MFmt.of (n : Nat) : Option MFmt :=
  match n with
  | 1 => some (.int .int8)
  | 2 => some (.int .uint8)
  | 7 => some (.flt .fp16)
  | 8 => some (.flt .bf16)
  | 9 => some (.flt .e4m3)
  | 10 => some (.flt .e5m2)
  | 11 => some (.seb .seb2)
  | 12 => some (.seb .seb4)
  | 13 => some (.seb .seb7)
  | _ => none

def MFmt.isInt : MFmt → Bool
  | .int _ => true
  | _ => false

/-- R21: p of a format; none for integers. -/
def MFmt.p : MFmt → Nat
  | .int _ => 0
  | .flt f => f.p
  | .seb f => f.m

/-- Bytes of a unit of elements, and how many elements it holds. -/
def MFmt.unit : MFmt → Nat × Nat
  | .int f => (f.width / 8, 1)
  | .flt f => (f.size, 1)
  | .seb f => (f.blockBytes, 16)

/-- The elements of one unit, with the counts of R45. -/
def MFmt.decode (f : MFmt) (bytes : List Byte) : List (Ex × Nat) :=
  match f with
  | .int g => [(Ex.ofInt (g.decode (leNat bytes)), 0)]
  | .flt g => let x := g.decode (leNat bytes); [(x, untaggedCount x g.p)]
  | .seb g => g.decodeBlock bytes

/-! ### Weights (R231, R232) -/

/-- R103: a weight-image descriptor. -/
structure ImageDesc where
  id : Nat
  version : Nat
  fmt : Nat
  sparsity : Nat
  k : Nat
  n : Nat
  reserved : Bool
  deriving DecidableEq, Repr, Inhabited

def ImageDesc.of (l : List Byte) : ImageDesc :=
  ⟨bytesAt l 0 4, bytesAt l 4 2, bytesAt l 6 1, bytesAt l 7 1, bytesAt l 8 2, bytesAt l 10 2, bytesAt l 12 4 != 0⟩

/-- R232: the bytes that K stored rows of N columns take in a format. -/
def valueBytes (f : MFmt) (k n : Nat) : Nat := let u := f.unit; (k * n + u.2 - 1) / u.2 * u.1

/-- R231: the length that a descriptor implies. -/
def ImageDesc.length (d : ImageDesc) (f : MFmt) : Nat :=
  32 + valueBytes f d.k d.n + (if d.sparsity = 0 then 0 else d.k * d.n)

/-- R232: the stored value of slot row i, column n. -/
def Image.at (I : Image) (f : MFmt) (i n : Nat) : Ex :=
  if I.k ≤ i ∨ I.n ≤ n then .zero false
  else
    let u := f.unit
    let place := if u.2 = 1 then i * I.n + n else (i / 16) * I.n + n
    let els := f.decode ((I.data.drop (place * u.1)).take u.1)
    (els.getD (if u.2 = 1 then 0 else i % 16) (.zero false, 0)).1

/-- R232: the place of an element in the order of the values: by rows, or in groups of 16 rows by columns. -/
def MFmt.place (f : MFmt) (cols i n : Nat) : Nat :=
  if f.unit.2 = 1 then i * cols + n else ((i / 16) * cols + n) * 16 + i % 16

/-- R232: the index byte of slot row i, column n, in the order of the values. -/
def Image.index (I : Image) (f : MFmt) (i n : Nat) : Nat :=
  (I.data.getD (valueBytes f I.k I.n + f.place I.n i n) 0).toNat

/-- R232: within a group and a column the indices rise strictly, below 128. -/
def Image.indexOk (I : Image) (f : MFmt) : Bool :=
  (List.range I.n).all (fun n => (List.range I.k).all (fun i =>
    decide (I.index f i n < 128)
      && (i % I.sparsity == 0 || decide (I.index f (i - 1) n < I.index f i n))))

/-- R231: the image of a complete stream, or none where the stream faults. -/
def loadImage (bytes : List Byte) (poison : Bool) : Option (ImageDesc × Image) :=
  let d := ImageDesc.of bytes
  match MFmt.of d.fmt with
  | none => none
  | some f =>
    let wide := match f with | .flt g => g.size == 2 | _ => false
    let seb := match f with | .seb _ => true | _ => false
    let I : Image := { fmt := d.fmt, sparsity := d.sparsity, k := d.k, n := d.n, data := bytes.drop 32, poison := poison }
    if bytes.length < 32 ∨ d.k = 0 ∨ 128 < d.k ∨ d.n = 0 ∨ 256 < d.n then none
    else if wide && decide (128 < d.n) then none
    else if seb && d.k % 16 != 0 then none
    else if [0, 64, 32, 16].contains d.sparsity = false then none
    else if bytes.length ≠ d.length f then none
    else if d.sparsity ≠ 0 ∧ I.indexOk f = false then none
    else some (d, I)

/-- R342: whether a stream matches the resident image. -/
def State.matches (s : State) (p : Nat) (M : Mx) (d : ImageDesc) (L : LoadStream) : Bool :=
  let R := NMap.getD (s.part p).images M.tag.ireg {}
  M.tag.reg && d.id == M.tag.imgid && d.version == M.tag.version && bit R.grant L.ctx.toNat && L.prov == some M.tag.ireg

/-- R231, R342: the end of a weight stream; none as the second part where it faults. -/
def State.endLoad (s : State) (p : Nat) (M : Mx) (L : LoadStream) : Mx × Bool :=
  let M1 := { M with wgen := (M.wgen + 1) % 16, load := none }
  match loadImage L.bytes L.poison with
  | none => ({ M1 with valid := false, image := {}, tag := { M.tag with reg := false } }, true)
  | some (d, I) =>
    if s.matches p M d L then ({ M1 with valid := true }, false)
    else
      let tag : CimTag := { imgid := d.id, version := d.version, reg := L.prov.isSome, ireg := L.prov.getD 0 }
      ({ M1 with valid := true, image := I, tag := tag }, false)

/-- R231: whether a tenon has a firing in flight; an assembled row counts (R236). -/
def Mx.busy (M : Mx) : Bool := !M.rows.isEmpty || !M.inFlight.isEmpty

/-- R231, R341: a stream with one more cell. -/
def LoadStream.add (L : LoadStream) (c : InCell) : LoadStream :=
  { L with
    bytes := L.bytes ++ c.cell.bytes, poison := L.poison || c.cell.poison, round := c.cell.round
    prov := if c.side.prov = L.prov then L.prov else none }

/-- R231: `mx.wload`. The bits of its ARG say nothing (DESIGN CHOICE, log entry 49). -/
def execMxWload (b e : Nat) (s : State) : Out :=
  s.engine b e 0x101 (fun B x c =>
    let M := B.mxAt e
    s.withOperands b e x c 1
      (let start : LoadStream :=
        { issuer := c.issuer, bytes := [], prov := c.side.prov, ctx := c.cell.ctx, round := c.cell.round, poison := false }
       if (match M.load with | some L => L.issuer != c.issuer | none => M.busy) then s
       else
         let L := (M.load.getD start).add c
         let s1 := s.eat b e x
         if c.cell.eot then
           let r := s.endLoad (s.launch c.side.lid).part M L
           let s2 := s1.updMx b e (fun _ => r.1)
           if r.2 then s2.engFault c.side 0x0001 else s2
         else s1.updMx b e (fun M => { M with load := some L })))

/-! ### A rows (R233) -/

/-- R52: the payload bytes of a cell, each with the count of its element where the cell is tagged. -/
def Cell.rowBytes (c : Cell) : List (Byte × Option Nat) :=
  let size := match MFmt.of c.fmt.toNat with | some f => f.unit.1 | none => 1
  c.bytes.zipIdx.map (fun x =>
    (x.1, if c.tag && (taggedBytes c.fmt).isSome then some (countField c.fmt c.payload (x.2 / size)) else none))

/-- R45, R52: the elements of one unit of a row, with counts. -/
def MFmt.rowUnit (f : MFmt) (l : List (Byte × Option Nat)) : List (Ex × Nat) :=
  let els := f.decode (l.map Prod.fst)
  match f, l.head?.bind Prod.snd with
  | .flt g, some n => els.map (fun x => (x.1, if x.1.isFinite then Nat.min g.p n else 0))
  | _, _ => els

/-- R227: the four forms. -/
structure FireForm where
  sparse : Bool
  strict : Bool
  deriving DecidableEq, Repr, Inhabited

/-- A row with one more cell; a first row after an EOT goes to the ROW0 of its last cell (DESIGN CHOICE, log entry 49). -/
def ARow.add (r : ARow) (c : Cell) (form : FireForm) : ARow :=
  let ok := c.fmt = r.fmt ∧ r.sparse = form.sparse ∧ r.strict = form.strict
  { r with
    cells := r.cells + 1, poison := r.poison || c.poison, round := c.round, row0 := c.arg.toNat / 2 ^ 20 % 256
    raw := if ok then r.raw ++ c.rowBytes else r.raw, bad := r.bad || !decide ok }

/-- R233: the elements of a row are those of its joined payload bytes. -/
def ARow.close (r : ARow) : ARow :=
  match MFmt.of r.fmt.toNat with
  | none => { r with bad := true }
  | some f =>
    let u := f.unit.1
    if r.raw.length % u ≠ 0 then { r with bad := true }
    else { r with vals := (chunks u (r.raw.length / u) r.raw).flatMap f.rowUnit, raw := [] }

/-- R233: the elements of a row. -/
def rowLength (sparse : Bool) (s : Nat) : Nat := if sparse then 128 * 128 / Nat.max s 1 else 128

/-- R233: why a complete row is refused. -/
def Mx.rowBad (M : Mx) (r : ARow) : Bool :=
  let n := rowLength r.sparse M.image.sparsity
  let aInt := match MFmt.of r.fmt.toNat with | some f => f.isInt | none => false
  let bInt := match MFmt.of M.image.fmt with | some f => f.isInt | none => false
  r.bad || !M.valid || r.sparse != (M.image.sparsity != 0) || r.vals.isEmpty || r.vals.length % n != 0
    || (decide (1 < r.cells) && r.vals.length != n) || (aInt && bInt) != M.int32

/-- R233, R316: the rows of a complete assembly, each at its target. -/
def Mx.place (M : Mx) (r : ARow) : Mx :=
  let n := rowLength r.sparse M.image.sparsity
  (chunks n (r.vals.length / n) r.vals).foldl (fun M v =>
    let t := NMap.getD M.cursors r.issuer r.row0
    { M with rows := M.rows ++ [{ r with vals := v, row := t }], cursors := NMap.set M.cursors r.issuer ((t + 1) % 256) }) M

/-- R80, R233: an issuer's open row closes, and its tile with EOT or a round's end; whether the row is refused. -/
def Mx.closeRow (M : Mx) (r : ARow) (tile : Bool) : Mx × Bool :=
  let r1 := r.close
  let M1 := { M with partialRow := NMap.erase M.partialRow r.issuer }
  let bad := M1.rowBad r1
  let M2 := if bad then M1 else M1.place r1
  (if tile then { M2 with cursors := NMap.erase M2.cursors r.issuer } else M2, bad)

/-- R233: a fire cell taken, with the current generation; whether its row is refused. -/
def Mx.takeRow (M : Mx) (c : InCell) (form : FireForm) : Mx × Bool :=
  let fresh : ARow :=
    { issuer := c.issuer, row := 0, fmt := c.cell.fmt, sparse := form.sparse, strict := form.strict, vals := [], cells := 0
      bad := false, round := c.cell.round, poison := false, side := c.side }
  let r := (NMap.getD M.partialRow c.issuer fresh).add c.cell form
  if c.cell.eor || c.cell.eot then M.closeRow r c.cell.eot
  else ({ M with partialRow := NMap.set M.partialRow c.issuer r }, false)

/-- R230, R233, R234: a fire cell: it waits for its generation, for a load to end, and for room for its rows; a stale one is refused with the
row it belongs to. -/
def State.fire (s : State) (b e op : Nat) (form : FireForm) : Out :=
  s.engine b e op (fun B x c =>
    let M := B.mxAt e
    s.withOperands b e x c 1
      (let ahead := (c.cell.arg.toNat / 2 ^ 28 + 16 - M.wgen) % 16
       if M.load.isSome || (decide (1 ≤ ahead) && decide (ahead ≤ 7)) then s
       else if 8 ≤ ahead then
         (s.updMx b e (fun M => { M with partialRow := NMap.erase M.partialRow c.issuer })).refuse b e x c 0x0001
       else
         let r := M.takeRow c form
         if 8 < r.1.rows.length then s else
         let s1 := (s.eat b e x).updMx b e (fun _ => r.1)
         if r.2 then s1.engFault c.side 0x0001 else s1))

def execMxFire (b e : Nat) (s : State) : Out := s.fire b e 0x102 ⟨false, false⟩
def execMxFireStrict (b e : Nat) (s : State) : Out := s.fire b e 0x103 ⟨false, true⟩
def execMxFireSp (b e : Nat) (s : State) : Out := s.fire b e 0x104 ⟨true, false⟩
def execMxFireSpStrict (b e : Nat) (s : State) : Out := s.fire b e 0x105 ⟨true, true⟩

/-- R80: at a round's end the open rows of a unit close one by one, and then its tiles, with what R235 keeps of the round. -/
def State.mxClose (s : State) (b e : Nat) : Option State :=
  match ((s.bent b).mxAt e).partialRow with
  | [] => none
  | (_, r) :: _ =>
    let x := ((s.bent b).mxAt e).closeRow r true
    let s1 := s.updMx b e (fun _ => x.1)
    some (if x.2 then s1.engFault r.side 0x0001 else s1)

def Mx.endRound (M : Mx) (n : BitVec 16) : Mx :=
  { M with cursors := [], rowKeys := M.rowKeys.filter (fun q => !notAfter q.1 n) }

/-! ### Firing (R37 to R42, R48) -/

/-- R232: the B value of logical row k, column n. -/
def Image.logical (I : Image) (f : MFmt) (k n : Nat) : Ex :=
  if I.sparsity = 0 then I.at f k n
  else
    let g := k / 128
    match (List.range I.sparsity).find? (fun i => decide (g * I.sparsity + i < I.k) && decide (n < I.n)
        && I.index f (g * I.sparsity + i) n == k % 128) with
    | some i => I.at f (g * I.sparsity + i) n
    | none => .zero false

/-- A column's sum as it grows: the sum, the largest weight (R48), and whether a product was skipped (R40). -/
structure ColSum where
  sum : Option Ex
  weight : Option Int
  skipped : Bool
  deriving DecidableEq, Repr, Inhabited

def maxWeight (a : Option Int) (b : Int) : Option Int := match a with | none => some b | some x => some (if x < b then b else x)

/-- R37, R40, R41, R48: one product. -/
def ColSum.step (t : ColSum) (strict : Bool) (p : Nat) (a : Ex × Nat) (b : Ex) : ColSum :=
  let bad := (a.1.isZero && !b.isFinite) || (b.isZero && !a.1.isFinite)
  if bad && !strict then { t with skipped := true }
  else
    let q := if bad then Ex.nan else a.1.mul b
    let w : Option Int :=
      match a.1.exp?, b.exp? with
      | some x, some y => if a.2 < p then maxWeight t.weight (x + y - (a.2 : Int) + 1) else t.weight
      | _, _ => t.weight
    { t with sum := some (match t.sum with | none => q | some u => u.add q .rne), weight := w }

/-- R37: the sum of one column. -/
def Mx.column (M : Mx) (r : ARow) (fa fb : MFmt) (n : Nat) : ColSum :=
  r.vals.zipIdx.foldl (fun t x => t.step r.strict fa.p x.1 (M.image.logical fb x.2 n)) ⟨none, none, false⟩

/-- R234: the next row of a key may fire: it is the key's first, no load runs, and its accumulator row is free. -/
def Mx.mayFire (M : Mx) (k : Nat) (r : ARow) : Bool :=
  M.load.isNone && !(M.rows.take k).any (fun q => q.issuer == r.issuer)
    && !M.inFlight.any (fun f => f.row == r.row)
    && (match M.drain with
        | some d => !(decide (d.first + d.pos ≤ r.row) && decide (r.row < d.first + d.rows))
        | none => true)

/-- R235: a row of a second issuer key into an accumulator row in one round. -/
def Mx.secondKey (M : Mx) (r : ARow) : Bool :=
  M.rowKeys.any (fun q => q.1 == r.round && q.2.1 == r.row && q.2.2 != r.issuer)

/-- R37, R234: a row fires. -/
def Mx.fireRow (M : Mx) (k : Nat) (r : ARow) (fa fb : MFmt) : Mx :=
  let cols := (List.range 256).map (M.column r fa fb)
  { M with
    rows := M.rows.eraseIdx k
    inFlight := M.inFlight ++ [{ id := M.nextFiring, row := r.row, round := r.round, poison := r.poison || M.image.poison
                                 sums := cols.map (fun t => (t.sum.getD (.zero false), t.weight)) }]
    nextFiring := M.nextFiring + 1, firings := M.firings + 1, snf := M.snf || cols.any (fun t => t.skipped)
    rowKeys := if M.rowKeys.contains (r.round, r.row, r.issuer) then M.rowKeys
      else M.rowKeys ++ [(r.round, r.row, r.issuer)] }

/-- R234, R235: an assembled row fires. -/
def execMxRowFire (b e k : Nat) (s : State) : Out :=
  let M := (s.bent b).mxAt e
  match M.rows[k]? with
  | none => .next s
  | some r =>
    if M.mayFire k r = false then .next s
    else if (s.launch r.side.lid).det && M.secondKey r then
      .next ((s.updMx b e (fun M => { M with rows := M.rows.eraseIdx k })).engFault r.side 0x0001)
    else
      match MFmt.of r.fmt.toNat, MFmt.of M.image.fmt with
      | some fa, some fb => .next (s.updMx b e (fun M => M.fireRow k r fa fb))
      | _, _ => .next s

/-- R37, R48: an FP32 accumulator element after a firing. -/
def accAdd (x : AccElem) (sum : Ex) (w : Option Int) : AccElem :=
  let v := f32 (x.ex.add sum .rne) .rne
  let new := val32 v
  let W : Option Int :=
    match x.ex.exp? with
    | some a => maxWeight w (a - (x.c.toNat : Int) + 1)
    | none => w
  let c : Nat :=
    if !new.isFinite then 0
    else
      match W with
      | none => 24
      | some W =>
        (match new.exp? with
         | none => 0
         | some a => Nat.min 24 (Int.toNat (a - W + 1)))
  FVal.mk' v c

/-- R38: an INT32 element after a firing, and whether it saturated. -/
def accAddInt (x : AccElem) (sum : Ex) : AccElem × Bool :=
  let old := IFmt.int32.decode x.v.toNat
  let exact := old + sum.toInt .rtz
  let v := IFmt.int32.sat exact
  (⟨BitVec.ofNat 32 (IFmt.int32.encode v), 24⟩, v != exact)

/-- R234: a firing lands. -/
def Mx.land (M : Mx) (f : Firing) : Mx :=
  let M0 := { M with inFlight := removeFirst (fun g => g.id == f.id) M.inFlight }
  let M1 := f.sums.zipIdx.foldl (fun (M : Mx) x =>
    let key := f.row * 256 + x.2
    let old := NMap.getD M.acc key FVal.zero
    if M.int32 then
      let r := accAddInt old x.1.1
      { M with acc := NMap.set M.acc key r.1, sat := M.sat || r.2 }
    else { M with acc := NMap.set M.acc key (accAdd old x.1.1 x.1.2) }) M0
  if f.poison && !M1.accPoison.contains f.row then { M1 with accPoison := M1.accPoison ++ [f.row] } else M1

/-- R234: the firing of an identifier lands. -/
def execFiringLanded (b e id : Nat) (s : State) : Out :=
  match ((s.bent b).mxAt e).inFlight.find? (fun f => f.id == id) with
  | none => .next s
  | some f => .next (s.updMx b e (fun M => M.land f))

/-! ### Drain (R236, R237, R239) -/

/-- R236: the drain map. -/
structure DrainMap where
  first : Nat
  rows : Nat
  ofmt : Nat
  tag : Bool
  clear : Bool
  stat : Bool
  gang : Bool
  reserved : Bool
  deriving DecidableEq, Repr, Inhabited

def DrainMap.of (a : BitVec 32) : DrainMap :=
  let n := a.toNat
  ⟨n / 2 ^ 24, n / 2 ^ 16 % 256 + 1, n / 2 ^ 11 % 32, bit a 10, bit a 9, bit a 8, bit a 7, n % 128 != 0⟩

def Mx.drainBad (M : Mx) (d : DrainMap) : Bool :=
  decide (256 < d.first + d.rows) || d.reserved || (d.tag && d.ofmt == 4) || (d.gang && M.gang.isNone)
    || (if M.int32 then d.ofmt != 4 else !(decide (6 ≤ d.ofmt) && decide (d.ofmt ≤ 10)))

/-- R236: an element converted, with its count. -/
def drainElem (ofmt : Nat) (x : AccElem) : Nat × Nat :=
  match SFmt.ofCode ofmt with
  | some (.flt f) => (f.round x.ex .rne, countCvt x.ex x.c.toNat f .rne)
  | _ => (x.v.toNat, 0)

def elemSize (ofmt : Nat) : Nat := match SFmt.ofCode ofmt with | some f => f.size | none => 1

/-- R239: the offset that a gang adds to every address. -/
def Mx.gangOff (M : Mx) (d : DrainMap) (e : Nat) (stride : Int) : Int :=
  if d.gang then
    match M.gang with
    | some (_, _, pos) => 256 * (pos : Int) * stride + 256 * (e : Int) * (elemSize d.ofmt : Int)
    | none => 0
  else 0

/-- R236: the cells of one row. -/
def Mx.rowPieces (M : Mx) (e : Nat) (d : DrainMap) (stride : Int) (r : Nat) : List Piece1 :=
  let size := elemSize d.ofmt
  let E := (if d.tag then (taggedBytes (BitVec.ofNat 5 d.ofmt)).getD 256 else 256) / size
  let row := d.first + r
  let els := (List.range 256).map (fun n => drainElem d.ofmt (NMap.getD M.acc (row * 256 + n) FVal.zero))
  let cs := chunks E 256 els
  cs.zipIdx.map (fun x =>
    let bytes := x.1.flatMap (fun v => leBytes size v.1)
    let last := x.2 + 1 == cs.length
    { bytes := if d.tag then taggedPayload (BitVec.ofNat 5 d.ofmt) bytes (x.1.map (fun v => v.2)) else bytes
      len := size * x.1.length, fmt := BitVec.ofNat 5 d.ofmt, tag := d.tag, eor := last
      eot := last && r + 1 == d.rows && !d.stat
      off := (r : Int) * stride + ((x.2 * E * size : Nat) : Int) + M.gangOff d e stride
      pois := M.accPoison.contains row
      done := if last then .rowDone row (r + 1 == d.rows) else .nothing })

/-- R237: the status word. -/
def Mx.status (M : Mx) : Nat :=
  let f (x : Bool) (n : Nat) : Nat := if x then 2 ^ n else 0
  M.firings.toNat * 2 ^ 24 + M.wgen * 2 ^ 20 + (match M.gang with | some g => g.1 * 2 ^ 8 + 8 | none => 0) + f M.int32 2
    + f M.sat 1 + f M.snf 0

/-- R237: the status cell. -/
def Mx.statusPiece (M : Mx) (e : Nat) (d : DrainMap) (stride : Int) : Piece1 :=
  { bytes := leBytes 8 M.status, len := 8, fmt := 0, eor := false, eot := true
    off := (d.rows : Int) * stride + M.gangOff d e stride }

/-- R236: every cell of a drain. The status cell shows the tile as it stands when the drain begins (R40; DESIGN CHOICE, log entry
49). -/
def Mx.drainPieces (M : Mx) (e : Nat) (d : DrainMap) (stride : Int) : List Piece1 :=
  (List.range d.rows).flatMap (M.rowPieces e d stride) ++ (if d.stat then [M.statusPiece e d stride] else [])

/-- R236: firings into the rows of a drain in flight. -/
def Mx.inRows (M : Mx) (d : DrainMap) : Bool :=
  let covers (r : Nat) : Bool := decide (d.first ≤ r) && decide (r < d.first + d.rows)
  M.rows.any (fun r => covers r.row) || M.inFlight.any (fun f => covers f.row)

/-- R236: `mx.drain`. -/
def execMxDrain (b e : Nat) (s : State) : Out :=
  s.engine b e 0x106 (fun B x c =>
    let M := B.mxAt e
    let d := DrainMap.of c.cell.arg
    s.withOperands b e x c 1
      (if M.drainBad d then s.refuse b e x c 0x0001
       else if M.drain.isSome || M.inRows d then s
       else
         let R := c.cell.route
         let ps := M.drainPieces e d R.stride
         match s.routeCheck c.side.lid R ps with
         | some cause => s.refuse b e x c cause
         | none =>
           let D : Drain :=
             { first := d.first, rows := d.rows, clear := d.clear, bt := R.bt, side := c.side, round := c.cell.round }
           ((s.eat b e x).updMx b e (fun M => { M with drain := some D })).updBent b (fun B =>
             B.emitAll e c.cell c.side R ps c.cell.poison none)))

/-! ### Clear (R238) -/

def Mx.cleared (M : Mx) (int32 : Bool) : Mx :=
  { M with acc := [], accPoison := [], snf := false, sat := false, firings := 0, int32 := int32 }

/-- The LEN of an `mx.clear` says nothing (DESIGN CHOICE, log entry 49). -/
def execMxClear (b e : Nat) (s : State) : Out :=
  s.engine b e 0x107 (fun B x c =>
    let M := B.mxAt e
    s.withOperands b e x c 1
      (if 2 ≤ c.cell.arg.toNat then s.refuse b e x c 0x0001
       else if M.busy || M.drain.isSome then s
       else (s.eat b e x).updMx b e (fun M => M.cleared (bit c.cell.arg 0))))

end Sys2Proof.Machine
end

