-- ==== Sys2Proof/Machine/VxNum.lean ====
section
/-! DEFINITION. Lane arithmetic of a VX tenon: elements and lanes (R202), the element-wise operations with their counts
(R46, R206 to R209), conversions and blocks (R210, R211), reduction trees and scans (R39, R212, R213, R223) and
significance predicates (R214). -/

namespace Sys2Proof
open Machine

/-- R90: the format of a floating type. -/
def VTy.fmt : VTy → FFmt
  | .f16 => .fp16
  | .bf16 => .bf16
  | .f32 | .i32 => .fp32

/-- R202: whether a lane holds two elements. -/
def VTy.packed : VTy → Bool
  | .f16 | .bf16 => true
  | .f32 | .i32 => false

/-- R90: the TY field. -/
def VTy.tyCode : VTy → Nat
  | .f32 => 0 | .f16 => 1 | .bf16 => 2 | .i32 => 3

def VTy.per (t : VTy) : Nat := if t.packed then 2 else 1

/-- The value of a floating element. -/
def VTy.ex (t : VTy) (x : Nat × Nat) : Ex := t.fmt.decode x.1

/-- R44: a floating element with its count; a non-finite one has count 0, whatever the lane that an integer result left. -/
def VTy.counted (t : VTy) (bits c : Nat) : Nat × Nat := (bits, if (t.fmt.decode bits).isFinite then Nat.min c t.fmt.p else 0)

/-- R28: a floating result that is one of its inputs; a NaN becomes the canonical one. -/
def VTy.canon (t : VTy) (x : Nat × Nat) : Nat × Nat := if t != .i32 && (t.ex x).isNan then (t.fmt.nanBits, 0) else x

/-- R57: an element as an FP32 value with its count. -/
def VTy.widen (t : VTy) (x : Nat × Nat) : FVal :=
  if t.packed then FVal.mk' (Machine.f32 (t.ex x) .rne) x.2 else FVal.mk' (BitVec.ofNat 32 x.1) x.2

/-- R90: all ones of an element. -/
def VTy.ones (t : VTy) : Nat := if t.packed then 0xFFFF else 0xFFFFFFFF

end Sys2Proof

namespace Sys2Proof.Machine

/-- An element: its bits and its count. -/
abbrev VEl := Nat × Nat

/-- R202: the elements of a register. -/
def elems (t : VTy) (l : List FVal) : List VEl :=
  match t with
  | .f32 => l.map (fun x => t.counted x.v.toNat x.c.toNat)
  | .i32 => l.map (fun x => (x.v.toNat, 24))
  | _ => l.flatMap (fun x => [t.counted (x.v.toNat % 65536) x.c.toNat, t.counted (x.v.toNat / 65536) x.c.toNat])

/-- Pairs of 16-bit elements as lanes. -/
def pairLanes : List VEl → List FVal
  | x :: y :: l => FVal.mk' (BitVec.ofNat 32 (x.1 + 65536 * y.1)) (Nat.min x.2 y.2) :: pairLanes l
  | _ => []

/-- R202: lanes written with results. -/
def ofElems (t : VTy) (l : List VEl) : List FVal :=
  if t.packed then pairLanes l else l.map (fun x => FVal.mk' (BitVec.ofNat 32 x.1) x.2)

/-! ### Element-wise operations -/

inductive EOp where
  | add | sub | mul | fma | min | max | abs | neg | div | rcp | rsqrt | sqrt | exp2 | log2
  | cmp (c : FCond)
  deriving DecidableEq, Repr, Inhabited

/-- R207: the smaller or larger element. -/
def vMinMax (t : VTy) (isMax : Bool) (x y : VEl) : VEl :=
  let a := t.ex x
  let b := t.ex y
  if a.isNan || b.isNan then (t.fmt.nanBits, 0)
  else
    let pick := if isMax then (if ltSigned a b then y else x) else (if ltSigned b a then y else x)
    (pick.1, if a.eqv b then Nat.min x.2 y.2 else pick.2)

/-- R206 to R209: an operation on floating elements. -/
def EOp.flt (o : EOp) (t : VTy) (m : Mode) (x y z : VEl) : VEl :=
  let f := t.fmt
  let p := f.p
  let a := t.ex x
  let b := t.ex y
  let out (r : Nat) (c : Ex → Nat) : VEl := (r, let e := f.decode r; if e.isFinite then c e else 0)
  match o with
  | .add => out (f.round (a.add b m) m) (fun e => plumbAdd [(a, x.2), (b, y.2)] e p)
  | .sub => out (f.round (a.add b.negate m) m) (fun e => plumbAdd [(a, x.2), (b, y.2)] e p)
  | .mul => out (f.round (a.mul b) m) (fun e => countMul a x.2 p b y.2 p e p)
  | .fma =>
    let c := t.ex z
    let q := a.mul b
    out (f.round (q.add c m) m) (fun e => plumbAdd [(q, countMul a x.2 p b y.2 p q p), (c, z.2)] e p)
  | .min => vMinMax t false x y
  | .max => vMinMax t true x y
  | .abs => (x.1 % f.signWeight, x.2)
  | .neg => ((x.1 + f.signWeight) % (2 * f.signWeight), x.2)
  | .div => out (f.round (a.div b) m) (fun e => countDiv a x.2 p y.2 p e p)
  | .rcp => out (rcp32 (BitVec.ofNat 32 x.1)).toNat (fun e => countRoot false a x.2 p e p)
  | .rsqrt => out (rsqrt32 (BitVec.ofNat 32 x.1)).toNat (fun e => countRoot false a x.2 p e p)
  | .sqrt => out (f.round a.sqrt m) (fun e => countRoot true a x.2 p e p)
  | .exp2 => out (exp2_32 (BitVec.ofNat 32 x.1)).toNat (fun e => countExp2 a x.2 e)
  | .log2 => out (log2_32 (BitVec.ofNat 32 x.1)).toNat (fun e => countLog2 x.2 e)
  | .cmp c => (if c.holds a b then t.ones else 0, 24)

/-- R206, R207, R209: an operation on .i32 elements. -/
def EOp.int (o : EOp) (saturate : Bool) (x y : VEl) : VEl :=
  let a := signedOf 32 x.1
  let b := signedOf 32 y.1
  let keep (v : Int) : VEl := ((BitVec.ofInt 32 (if saturate then IFmt.int32.sat v else v)).toNat, 24)
  let mask (c : Bool) : VEl := (if c then 0xFFFFFFFF else 0, 24)
  match o with
  | .add => keep (a + b)
  | .sub => keep (a - b)
  | .mul => keep (a * b)
  | .min => keep (if b < a then b else a)
  | .max => keep (if a < b then b else a)
  | .abs => keep (if a < 0 then -a else a)
  | .neg => keep (-a)
  | .cmp .eq => mask (a == b)
  | .cmp .lt => mask (decide (a < b))
  | .cmp .le => mask (decide (a ≤ b))
  | .cmp .ne => mask (a != b)
  | .fma | .div | .rcp | .rsqrt | .sqrt | .exp2 | .log2 => x

/-- Three lists together; a missing element reads as zero. -/
def zip3 (f : VEl → VEl → VEl → VEl) : List VEl → List VEl → List VEl → List VEl
  | [], _, _ => []
  | x :: xs, ys, zs => f x (ys.headD (0, 0)) (zs.headD (0, 0)) :: zip3 f xs (ys.drop 1) (zs.drop 1)

/-- An element-wise operation over registers. -/
def EOp.run (o : EOp) (t : VTy) (saturate : Bool) (m : Mode) (a b c : List FVal) : List VEl :=
  match t with
  | .i32 => zip3 (fun x y _ => o.int saturate x y) (elems t a) (elems t b) []
  | _ => zip3 (o.flt t m) (elems t a) (elems t b) (elems t c)

/-! ### Select, logic and shifts (R209) -/

/-- An operation on 32-bit lanes, with a third register. -/
def laneRun (f : FVal → FVal → FVal → VEl) (a b c : List FVal) : List VEl :=
  (List.range a.length).map (fun k => f (a.getD k FVal.zero) (b.getD k FVal.zero) (c.getD k FVal.zero))

/-- R209: `vsel`: each lane by the predicate P. -/
def vselLane (a b p : FVal) : VEl :=
  let v := (a.v &&& p.v) ||| (b.v &&& ~~~p.v)
  let c :=
    if a.v = b.v then Nat.min a.c.toNat b.c.toNat
    else if p.v = BitVec.allOnes 32 then a.c.toNat
    else if p.v = 0 then b.c.toNat
    else Nat.min a.c.toNat b.c.toNat
  (v.toNat, c)

def bitLane (f : Word32 → Word32 → Word32) (a b _c : FVal) : VEl := ((f a.v b.v).toNat, 24)

def vshl32 (a b : Word32) : Word32 := if 32 ≤ b.toNat then 0 else a <<< b.toNat
def vshrL32 (a b : Word32) : Word32 := if 32 ≤ b.toNat then 0 else a >>> b.toNat
def vshrA32 (a b : Word32) : Word32 := a.sshiftRight (Nat.min b.toNat 31)

/-- R209: `vperm`. -/
def vpermLanes (a b : List FVal) : List FVal := b.map (fun x => a.getD (x.v.toNat % 64) FVal.zero)

/-! ### Conversions and blocks (R210, R211) -/

/-- One converted element: its bits, its count, and the lane it lies in. -/
structure VConv where
  bits : Nat
  cnt : Nat
  lane : Nat
  deriving DecidableEq, Repr, Inhabited

/-- R45: an integer as a float: full when exact, one less when rounded. -/
def intCount (x : Ex) (f : FFmt) (bits : Nat) : Nat :=
  let r := f.decode bits
  if !r.isFinite then 0 else if r.eqv x then f.p else f.p - 1

/-- R25, R32, R46, R210: one element converted. -/
def vcvtElem (t : VTy) (f : SFmt) (m : Mode) (x : VEl) : VEl :=
  let a : Ex := if t = .i32 then Ex.ofInt (signedOf 32 x.1) else t.ex x
  match f with
  | .int g => (g.encode (g.ofEx a m), 24)
  | .flt g =>
    let r := g.round a m
    (r, if t = .i32 then intCount a g r else countCvt a x.2 g m)

/-- R210: the first 64 elements converted. -/
def vcvtElems (t : VTy) (f : SFmt) (m : Mode) (a : List FVal) : List VConv :=
  ((elems t a).take 64).zipIdx.map (fun x =>
    let r := vcvtElem t f m x.1
    ⟨r.1, r.2, x.2 * f.size / 4⟩)

def laneOfBytes (bytes : List Byte) (k : Nat) : Word32 := BitVec.ofNat 32 (bytesAt bytes (4 * k) 4)

/-- R210: the lanes of the results; a lane that holds no result takes count 24 (DESIGN CHOICE, log entry 49). -/
def vcvtLanes (f : SFmt) (r : List VConv) : List FVal :=
  let bytes := padTo 256 0 (r.flatMap (fun e => leBytes f.size e.bits))
  (List.range 64).map (fun k =>
    FVal.mk' (laneOfBytes bytes k) ((r.filter (fun e => e.lane == k)).foldl (fun c e => Nat.min c e.cnt) 24))

/-- R211: `vquant`. -/
def vquantLanes (t : VTy) (f : SebFmt) (a : List FVal) : List FVal :=
  let xs := (elems t a).map t.ex
  let bytes := padTo 256 0 ((chunks 16 8 xs).flatMap f.quantise)
  (List.range 64).map (fun k => FVal.mk' (laneOfBytes bytes k) 24)

/-- The bytes of a register. -/
def laneBytes (a : List FVal) : List Byte := a.flatMap (fun x => leBytes 4 x.v.toNat)

/-- R45, R211: `vdequant`; rounding to zero keeps the count of M. -/
def vdequantLanes (t : VTy) (f : SebFmt) (a : List FVal) : List FVal :=
  let bytes := laneBytes a
  let blocks := if t.packed then 8 else 4
  ofElems t ((List.range blocks).flatMap (fun j =>
    (f.decodeBlock ((bytes.drop (j * f.blockBytes)).take f.blockBytes)).map (fun e =>
      t.counted (t.fmt.round e.1 .rne) e.2)))

/-! ### Reductions and scans (R39, R212, R213, R223) -/

/-- The combines of `vred` and `vscan`. -/
inductive Comb where
  | add | min | max
  deriving DecidableEq, Repr, Inhabited

def Comb.op : Comb → EOp
  | .add => .add
  | .min => .min
  | .max => .max

/-- One combination (R308): its result. -/
def Comb.two (c : Comb) (t : VTy) (m : Mode) (x y : VEl) : VEl :=
  match t with
  | .i32 => c.op.int false x y
  | _ => c.op.flt t m x y (0, 0)

/-- R223: the identity of a combine. -/
def Comb.identity (c : Comb) (t : VTy) : VEl :=
  match t, c with
  | .i32, .add => (0, 24)
  | .i32, .min => (0x7FFFFFFF, 24)
  | .i32, .max => (0x80000000, 24)
  | _, .add => (0, t.fmt.p)
  | _, .min => (t.fmt.infBits, 0)
  | _, .max => (t.fmt.infBits + t.fmt.signWeight, 0)

/-- A node of a reduction tree: its value, and the operands of the addition that formed it (R309). -/
structure RedNode where
  v : VEl
  ops : Option (VEl × VEl)
  deriving DecidableEq, Repr, Inhabited

def Comb.node (c : Comb) (t : VTy) (m : Mode) (x y : RedNode) : RedNode := ⟨c.two t m x.v y.v, some (x.v, y.v)⟩

/-- R39: one level of the tree: adjacent pairs; a member without a partner passes on. -/
def Comb.level (c : Comb) (t : VTy) (m : Mode) : List RedNode → List RedNode
  | x :: y :: l => c.node t m x y :: Comb.level c t m l
  | l => l

def Comb.levels (c : Comb) (t : VTy) (m : Mode) : Nat → List RedNode → List RedNode
  | 0, l => l
  | n + 1, l => Comb.levels c t m n (c.level t m l)

/-- R39, R212: the active lanes reduced; none where no lane is active. -/
def Comb.tree (c : Comb) (t : VTy) (m : Mode) (a : List FVal) (aw : Nat) : Option RedNode :=
  let els := ((elems t a).take (t.per * aw)).map (fun x => (⟨x, none⟩ : RedNode))
  ((c.levels t m (if t.packed then 7 else 6) els).head?).map (fun n => { n with v := t.canon n.v })

/-- One element of a scan with the operands that formed it. -/
def Comb.scanFrom (c : Comb) (t : VTy) (m : Mode) : Option VEl → List VEl → List RedNode
  | _, [] => []
  | none, x :: l => ⟨t.canon x, none⟩ :: Comb.scanFrom c t m (some (t.canon x)) l
  | some s, x :: l => let r := c.two t m s x; ⟨r, some (s, x)⟩ :: Comb.scanFrom c t m (some r) l

/-- R213, R223: a scan of the active elements with a carry: its results in element order, filled to the register's
elements with the last one. -/
def Comb.scan (c : Comb) (t : VTy) (m : Mode) (carry : Option VEl) (a : List FVal) (aw : Nat) : List RedNode :=
  let all := elems t a
  let act := all.take (t.per * aw)
  let rs := c.scanFrom t m carry act
  let last : RedNode := match rs.getLast? with | some r => r | none => ⟨carry.getD (c.identity t), none⟩
  rs ++ List.replicate (all.length - rs.length) last

/-- A value in every lane. -/
def splat (t : VTy) (x : VEl) : List FVal := ofElems t (List.replicate (64 * t.per) x)

/-! ### Significance predicates (R214) -/

/-- The forms of `vsig`: the count below n, at or above n, or the count itself. -/
inductive SigForm where
  | lt | ge | cnt
  deriving DecidableEq, Repr, Inhabited

def SigForm.value (g : SigForm) (t : VTy) (n c : Nat) : Nat :=
  match g with
  | .lt => if c < n then t.ones else 0
  | .ge => if n ≤ c then t.ones else 0
  | .cnt => c

def vsigLanes (t : VTy) (g : SigForm) (n : Nat) (a : List FVal) : List FVal :=
  ofElems t ((elems t a).map (fun x => (g.value t n x.2, 24)))

/-! ### Records (R218) -/

def vrecLanes (a b : List FVal) (round : BitVec 16) : List FVal :=
  let at_ (l : List FVal) (k : Nat) : Nat := (l.getD k FVal.zero).v.toNat
  (List.range 8).flatMap (fun j =>
    ((List.range 6).map (fun k => at_ a (6 * j + k)) ++ [at_ b j, round.toNat]).map (fun v => FVal.mk' (BitVec.ofNat 32 v) 24))

end Sys2Proof.Machine
end

