-- ==== Sys2Proof/Machine/VxRegs.lean ====
section
/-! DEFINITION. A routine at issue: its registers and tiles (R68, R69, R204), reads that block or trap (R71), run-time faults
(R226), the significance check (R56 to R58) and where its results go (R70). -/

namespace Sys2Proof.Machine

/-! ### Registers and tiles -/

def isTile (c : Nat) : Bool := decide (74 ≤ c) && decide (c ≤ 81)

/-- R68: a register or slot; one that nothing has written holds zero with count 24 and is full, but a cell-in slot is
empty. -/
def Tenon.reg (T : Tenon) (c : Nat) : VReg :=
  match NMap.get? T.v c with
  | some v => v
  | none => if 82 ≤ c ∧ c ≤ 89 then { full := false } else {}

def Tenon.tile (T : Tenon) (c : Nat) : Tile := NMap.getD T.tiles (c - 74) {}

def Tenon.setTile (T : Tenon) (c : Nat) (x : Tile) : Tenon := { T with tiles := NMap.set T.tiles (c - 74) x }

/-- R70: the presence bit of an operand. -/
def Tenon.full (T : Tenon) (c : Nat) : Bool := if isTile c then (T.tile c).full else (T.reg c).full

/-- R204: a tile element as an op-word reads it. -/
def tileRead (f : SFmt) (x : FVal) : FVal :=
  match f with
  | .flt g => FVal.mk' (f32 (g.decode x.v.toNat) .rne) (Nat.min x.c.toNat 24)
  | .int g => FVal.mk' (BitVec.ofInt 32 (g.decode x.v.toNat)) 24

/-- R204: a result as a tile element holds it. -/
def tileWrite (f : SFmt) (m : Mode) (x : FVal) : FVal :=
  match f with
  | .flt g => FVal.mk' (BitVec.ofNat 32 (g.round x.ex m)) (countCvt x.ex x.c.toNat g m)
  | .int g => FVal.mk' (BitVec.ofNat 32 (g.encode (g.sat x.v.toInt))) 24

/-- R204: a row as 64 lanes; lanes at or beyond COLS read +0 with count 24. -/
def Tile.rowLanes (X : Tile) (i : Nat) : List FVal :=
  padTo 64 FVal.zero (((X.elems.drop (i * X.cols)).take X.cols).map (tileRead X.fmt))

/-- A row's elements replaced. -/
def Tile.putRow (X : Tile) (i : Nat) (l : List FVal) : List FVal :=
  X.elems.take (i * X.cols) ++ padTo X.cols FVal.zero l ++ X.elems.drop ((i + 1) * X.cols)

/-- R204: the read cursor moves on; the tile is no longer live when it wraps. -/
def Tile.readOn (X : Tile) : Tile :=
  if X.rows ≤ X.rcur + 1 then { X with rcur := 0, live := false } else { X with rcur := X.rcur + 1 }

def Tile.writeOn (X : Tile) (n : Nat) : Nat := (X.wcur + n) % Nat.max X.rows 1

/-- R69: the entry of a partial moves with the last-result file. -/
def Partial.shift (x : Partial) : Partial := { x with l0 := false, l1 := x.l0 }

/-- R69: the last-result file shifts. -/
def Tenon.shift (T : Tenon) (x : VReg) : Tenon :=
  { T with
    v := NMap.set (NMap.set T.v codeL1 (T.reg codeL0)) codeL0 x
    longs := T.longs.map (fun o => { o with l0 := false, l1 := o.l0 })
    pendings := T.pendings.map (fun p => { p with waiting := p.waiting.map Partial.shift, taken := p.taken.map Partial.shift })
    closes := T.closes.map (fun o => (o.1, { o.2 with l0 := false, l1 := o.2.l0 })) }

/-- R69: a result written to a register or slot, with the last-result file. -/
def Tenon.put (T : Tenon) (d : Nat) (x : VReg) : Tenon :=
  if d = codeL1 then { T with v := NMap.set T.v codeL1 x }
  else
    let T1 := T.shift x
    if d = codeL0 then T1 else { T1 with v := NMap.set T1.v d x }

/-- A register set empty, its contents as they were. -/
def Tenon.hollow (T : Tenon) (d : Nat) : Tenon := { T with v := NMap.set T.v d { T.reg d with full := false } }

/-- A register or tile set empty, its contents as they were. -/
def Tenon.empty (T : Tenon) (d : Nat) : Tenon :=
  if isTile d then T.setTile d { T.tile d with full := false } else T.hollow d

/-- R69, R70: a long-latency op-word at issue: its destination empty, and its entry in the last-result file empty where its
result is a lane vector. -/
def Tenon.putLong (T : Tenon) (d r : Nat) (x : VReg) (elems : Option (List FVal)) (vector : Bool) : Tenon :=
  let T1 :=
    if d = codeL1 ∨ vector = false then T
    else T.shift { T.reg (if isTile d then codeL0 else d) with full := false }
  let T2 := T1.empty d
  { T2 with
    longs := T2.longs ++ [⟨T2.nextLong, r, d, x, elems, vector && d != codeL1, d == codeL1⟩]
    nextLong := T2.nextLong + 1 }

/-! ### The routine that issues -/

def State.tenon (s : State) (b t : Nat) : Tenon := NMap.getD (s.bent b).tenons t {}

def State.setTenon (s : State) (b t : Nat) (T : Tenon) : State :=
  s.updBent b (fun B => { B with tenons := NMap.set B.tenons t T })

def Tenon.setRoutine (T : Tenon) (r : Nat) (R : Routine) : Tenon := { T with routines := NMap.set T.routines r R }

/-- The current routine issues; one that is frozen, at its end or waits for FB2 (R219) does not. -/
def State.routine (s : State) (body : Nat → Nat → Nat → Tenon → Routine → Out) : Out :=
  match s.cur with
  | .routine b t r =>
    match NMap.get? (s.tenon b t).routines r with
    | none => .fault .noAgent
    | some R => if R.hold ≠ .running ∨ R.couts ≠ 0 then .next s else body b t r (s.tenon b t) R
  | _ => .fault .noAgent

/-- R221: the loops and the place after the op-word at the end of a body. -/
def loopOn : List (Nat × Nat × Nat) → Nat → List (Nat × Nat × Nat) × Nat
  | [], pc => ([], pc)
  | (lo, hi, n) :: l, pc =>
    if pc = hi then (if 1 < n then ((lo, hi, n - 1) :: l, lo) else loopOn l pc) else ((lo, hi, n) :: l, pc)

/-- R200: the routine's next op-word follows this one, or a loop returns. -/
def Routine.onTo (R : Routine) (pc : Nat) : Routine :=
  let x := loopOn R.loops pc
  { R with loops := x.1, pc := x.2, suppress := false }

def Routine.next (R : Routine) : Routine := R.onTo (R.pc + 1)

/-- R226: a fault that ends a routine; its tenon is frozen until the strand's `rft`. -/
def State.vxEnd (s : State) (b t r : Nat) (R : Routine) (cause : BitVec 16) : State :=
  (s.setTenon b t ((s.tenon b t).setRoutine r { R with hold := .faulted })).raiseTrap R.side.lid R.side.ownerBent
    R.side.ownerSlot { cause := cause, tenon := some (tenonKey (s.bent b).index t, r) }

/-- R58, R71: a routine frozen before its op-word. -/
def State.vxFreeze (s : State) (b t r : Nat) (R : Routine) (cause : BitVec 16) (log : List Word) : State :=
  (s.setTenon b t ((s.tenon b t).setRoutine r { R with hold := .frozen })).raiseTrap R.side.lid R.side.ownerBent
    R.side.ownerSlot { cause := cause, tenon := some (tenonKey (s.bent b).index t, r), log := log }

/-- R71: whether the sources of an op-word may be read: the first empty one decides, so that of two, a that blocks and b that
traps, the routine waits for a (DESIGN CHOICE, log entry 49). -/
inductive SrcAns where
  | ok | wait | trap
  deriving DecidableEq, Repr, Inhabited

def Tenon.sources (T : Tenon) : List (VCode × Bool) → SrcAns
  | [] => .ok
  | (c, m) :: l => if T.full c.toNat then T.sources l else if m then .trap else .wait

/-- R70, R71, R72, R226: an op-word with its sources and their modes and its destination. `again` lets it issue on an empty
destination. -/
def State.opword (s : State) (srcs : List (VCode × Bool)) (dst : Option VCode) (again : Tenon → Bool)
    (body : Nat → Nat → Nat → Tenon → Routine → Out) : Out :=
  s.routine (fun b t r T R =>
    let codes := (srcs.map Prod.fst ++ dst.toList).map BitVec.toNat
    if codes.any (fun c => isTile c && !(T.tile c).configured) then .next (s.vxEnd b t r R 0x0012)
    else
      match T.sources srcs with
      | .trap => .next (s.vxFreeze b t r R 0x0010 [])
      | .wait => .next s
      | .ok =>
        if (match dst with | some d => T.full d.toNat || again T | none => true) then body b t r T R else .next s)

/-- R90, R400: the rounding mode of an op-word. -/
def Routine.mode (R : Routine) (rtz : Bool) : Mode := if rtz then .rtz else modeOfRM (R.start.modes.extractLsb' 8 3)

/-! ### The significance check (R56, R57) -/

/-- R400: TH, VXE and NFX of MODES. -/
def modesTh (m : BitVec 11) : Nat := (m.extractLsb' 3 5).toNat
def modesVxe (m : BitVec 11) : Bool := bit m 1
def modesNfx (m : BitVec 11) : Bool := bit m 2

/-- An element that fails: its lane, the operands for the report, and the result. -/
structure VFail where
  lane : Nat
  a : Option FVal
  b : Option FVal
  c : Option FVal
  res : FVal
  deriving DecidableEq, Repr, Inhabited

/-- R56: whether a result fails. -/
def sigLow (modes : BitVec 11) (x : Ex) (c : Nat) : Bool :=
  decide (c < modesTh modes) && !(modesNfx modes && !x.isFinite)

/-- R56, R57: the lowest of the active lanes in which an element fails; the report shows the first element of that lane whose own
count is below TH. -/
def failIn (modes : BitVec 11) (t : VTy) (lanes : Nat) (els : List VEl) (rep : Nat → Option FVal × Option FVal × Option FVal) :
    Option VFail :=
  match els.zipIdx.find? (fun x => decide (x.2 / t.per < lanes) && t != .i32 && sigLow modes (t.ex x.1) x.1.2) with
  | none => none
  | some y =>
    (els.zipIdx.find? (fun x => x.2 / t.per == y.2 / t.per && decide (x.1.2 < modesTh modes))).map (fun x =>
      let q := rep x.2
      ⟨x.2 / t.per, q.1, q.2.1, q.2.2, t.widen x.1⟩)

/-- Whether a routine's op-words are checked now. -/
def Routine.checks (R : Routine) : Bool := modesVxe R.start.modes && !R.suppress

/-- R57: the report of a failing op-word. -/
def VFail.report (f : VFail) (t opc entry off : Nat) (modes : BitVec 11) : List Word :=
  sigReport (4 + t) f.lane opc entry off f.a f.b f.c f.res (modesTh modes)

def State.vxFail (s : State) (b t r : Nat) (R : Routine) (opc : Nat) (f : VFail) : State :=
  s.vxFreeze b t r R 0x0021 (f.report t opc R.entry (R.pc - R.lo) R.start.modes)

/-- R57: the operands of element i, absent ones left out. -/
def operandsAt (t : VTy) (a : List FVal) (b c : Option (List FVal)) (i : Nat) : Option FVal × Option FVal × Option FVal :=
  let at_ (l : List FVal) : FVal := t.widen ((elems t l).getD i (0, 0))
  (some (at_ a), b.map at_, c.map at_)

/-- An op-word completes: its tenon and its routine moved on. -/
def State.vxDone (s : State) (b t r : Nat) (T : Tenon) (R : Routine) : State := s.setTenon b t (T.setRoutine r R.next)

/-- A register result written, or the routine frozen for its significance. -/
def State.vxWrite (s : State) (b t r : Nat) (T : Tenon) (R : Routine) (opc : Nat) (fail : Option VFail) (d : VCode) (x : VReg) :
    Out :=
  match (if R.checks then fail else none) with
  | some f => .next (s.vxFail b t r R opc f)
  | none => .next (s.vxDone b t r (T.put d.toNat x) R)

end Sys2Proof.Machine
end

