-- ==== Sys2Proof/Machine/VxEw.lean ====
section
/-! DEFINITION. The element-wise op-words (R206 to R209), over registers and over tiles (R204). -/

namespace Sys2Proof.Machine

/-- An element-wise op-word: OPC of R57, its element type and whether it is typed, whether R56 checks it and R200 makes it
long-latency, its operands with their empty modes, and its lanes. -/
structure Ew where
  opn : Nat
  ty : VTy := .f32
  typed : Bool := true
  checked : Bool := false
  long : Bool := false
  rtz : Bool := false
  a : VCode
  x : Bool
  b : Option (VCode × Bool) := none
  third : Option VCode := none

/-- R57: op-word bits [31:24]. -/
def Ew.opc (o : Ew) : Nat := o.opn * 4 + o.ty.tyCode

def Ew.srcs (o : Ew) : List (VCode × Bool) := (o.a, o.x) :: o.b.toList ++ (o.third.map (fun c => (c, false))).toList

/-- R204: the tiles an op-word names, each once. -/
def tilesOf (l : List Nat) : List Nat := (l.filter isTile).foldl (fun t c => if t.contains c then t else t ++ [c]) []

/-- R204: the type that goes with a tile. -/
def Ew.typeOk (o : Ew) (f : SFmt) : Bool :=
  match f with
  | .flt _ => o.typed && o.ty == .f32
  | .int _ => !o.typed || o.ty == .i32

/-- R204: tiles of one shape whose types go with the op-word. -/
def Ew.tilesOk (o : Ew) (T : Tenon) (ts : List Nat) : Bool :=
  ts.all (fun c => o.typeOk (T.tile c).fmt)
    && ts.all (fun c => ts.all (fun d => (T.tile c).rows == (T.tile d).rows && (T.tile c).cols == (T.tile d).cols))

/-- The lanes of an operand at a row of each tile. -/
def Tenon.lanesAt (T : Tenon) (row : Nat → Nat) (c : Nat) : List FVal :=
  if isTile c then (T.tile c).rowLanes (row c) else (T.reg c).lanes

def Tenon.poisoned (T : Tenon) (c : Nat) : Bool := if isTile c then (T.tile c).poison else (T.reg c).poison

/-- One row computed: its elements and their operands. -/
structure EwRow where
  els : List VEl
  a : List FVal
  b : Option (List FVal)
  c : Option (List FVal)
  deriving DecidableEq, Repr, Inhabited

def Ew.row (o : Ew) (run : List FVal → List FVal → List FVal → List VEl) (T : Tenon) (row : Nat → Nat) (cols : Nat) : EwRow :=
  let a := T.lanesAt row o.a.toNat
  let b := o.b.map (fun p => T.lanesAt row p.1.toNat)
  let c := o.third.map (fun p => T.lanesAt row p.toNat)
  ⟨(run a (b.getD []) (c.getD [])).take (cols * o.ty.per), a, b, c⟩

/-- R56, R57: what fails among the rows: the lowest lane, in the first row that has it. -/
def Ew.fail (o : Ew) (R : Routine) (rows : List EwRow) : Option VFail :=
  if !o.checked then none
  else
    let fs := rows.filterMap (fun w => failIn R.start.modes o.ty R.aw w.els (operandsAt o.ty w.a w.b (if o.opn = 3 then w.c else none)))
    leastBy (fun f => f.lane) fs

/-- R204: the elements of a tile after the rows that an op-word wrote, starting at a row. -/
def Tile.putRows (X : Tile) (m : Mode) : Nat → List EwRow → List FVal
  | _, [] => X.elems
  | i, w :: ws =>
    ({ X with elems := X.putRow i ((ofElems .f32 w.els).map (tileWrite X.fmt m)) }).putRows m (i + 1) ws

/-- R69, R70: a tile result, at once or when it completes; only a row is a lane vector for the last-result file. A poisoned
tile stays poisoned until its next `tcfg`, whatever is written to it (DESIGN CHOICE, log entry 47). -/
def Tenon.putTile (T : Tenon) (d r : Nat) (x : VReg) (elems : List FVal) (wcur : Nat) (long row : Bool) : Tenon :=
  let X := { T.tile d with live := true, poison := (T.tile d).poison || x.poison, wcur := wcur }
  if long then (T.setTile d X).putLong d r x (some elems) row
  else (if row then T.shift x else T).setTile d { X with elems := elems, full := true }

/-- R204: how an op-word meets its tiles. -/
inductive TileForm where
  | none | whole | rowWrite | rowRead
  deriving DecidableEq, Repr, Inhabited

def Ew.form (o : Ew) (d : Nat) : TileForm :=
  let src := isTile o.a.toNat || (match o.b with | some p => isTile p.1.toNat | Option.none => false)
  if isTile d then (if src then .whole else .rowWrite) else if src then .rowRead else .none

/-- R204, R206 to R209: an element-wise op-word. A row write leaves its result in l0 as computed, not rounded to the tile's TYPE, with
+0 of count 24 in lanes from COLS on (DESIGN CHOICE, log entry 49). -/
def State.ew (s : State) (o : Ew) (d : VCode) (run : Mode → List FVal → List FVal → List FVal → List VEl) : Out :=
  s.opword o.srcs (some d) (fun _ => false) (fun b t r T R =>
    let m := R.mode o.rtz
    let dn := d.toNat
    let codes := dn :: o.srcs.map (fun p => p.1.toNat)
    let ts := tilesOf codes
    let pois := o.srcs.any (fun p => T.poisoned p.1.toNat)
    if !o.tilesOk T ts then .next (s.vxEnd b t r R 0x0001)
    else
      let X := T.tile dn
      let rows : List EwRow :=
        match o.form dn with
        | .none => [o.row (run m) T (fun _ => 0) 64]
        | .whole => (List.range X.rows).map (fun i => o.row (run m) T (fun _ => i) X.cols)
        | .rowWrite => [o.row (run m) T (fun _ => X.wcur) X.cols]
        | .rowRead => [o.row (run m) T (fun c => (T.tile c).rcur) 64]
      match (if R.checks then o.fail R rows else none) with
      | some f => .next (s.vxFail b t r R o.opc f)
      | none =>
        let first : List FVal := match rows with | w :: _ => padTo 64 FVal.zero (ofElems o.ty w.els) | [] => []
        let x : VReg := { lanes := first, full := true, poison := pois }
        match o.form dn with
        | .whole => .next (s.vxDone b t r (T.putTile dn r x (X.putRows m 0 rows) X.wcur o.long false) R)
        | .rowWrite => .next (s.vxDone b t r (T.putTile dn r x (X.putRows m X.wcur rows) (X.writeOn 1) o.long true) R)
        | .rowRead =>
          let T1 := ts.foldl (fun T c => T.setTile c (T.tile c).readOn) T
          .next (s.vxDone b t r (if o.long then T1.putLong dn r x none true else T1.put dn x) R)
        | .none => .next (s.vxDone b t r (if o.long then T.putLong dn r x none true else T.put dn x) R))

/-! ### The op-words -/

/-- A typed arithmetic op-word of R206 to R209. -/
def State.arith (s : State) (o : Ew) (d : VCode) (e : EOp) (saturate : Bool) : Out :=
  s.ew o d (fun m a b c => e.run o.ty saturate m a b c)

/-- Two sources. -/
def ew2 (opn : Nat) (t : VTy) (a b : VCode) (rtz y x checked long : Bool) : Ew :=
  { opn := opn, ty := t, checked := checked, long := long, rtz := rtz, a := a, x := x, b := some (b, y) }

/-- One source. -/
def ew1 (opn : Nat) (t : VTy) (a : VCode) (rtz x checked long : Bool) : Ew :=
  { opn := opn, ty := t, checked := checked, long := long, rtz := rtz, a := a, x := x }

/-- Untyped, on 32-bit lanes. -/
def ewU (opn : Nat) (a : VCode) (x : Bool) (b : Option (VCode × Bool)) (third : Option VCode) : Ew :=
  { opn := opn, typed := false, a := a, x := x, b := b, third := third }

def execVadd (t : VTy) (d a b : VCode) (rtz y x : Bool) (s : State) : Out := s.arith (ew2 0x00 t a b rtz y x true false) d .add false
def execVaddSat (d a b : VCode) (y x : Bool) (s : State) : Out := s.arith (ew2 0x00 .i32 a b false y x true false) d .add true
def execVsub (t : VTy) (d a b : VCode) (rtz y x : Bool) (s : State) : Out := s.arith (ew2 0x01 t a b rtz y x true false) d .sub false
def execVsubSat (d a b : VCode) (y x : Bool) (s : State) : Out := s.arith (ew2 0x01 .i32 a b false y x true false) d .sub true
def execVmul (t : VTy) (d a b : VCode) (rtz y x : Bool) (s : State) : Out := s.arith (ew2 0x02 t a b rtz y x true false) d .mul false
def execVmulSat (d a b : VCode) (y x : Bool) (s : State) : Out := s.arith (ew2 0x02 .i32 a b false y x true false) d .mul true

/-- R206: the destination is read as the addend, and always blocks on empty. -/
def execVfma (t : VTy) (d a b : VCode) (rtz y x : Bool) (s : State) : Out :=
  s.arith { ew2 0x03 t a b rtz y x true false with third := some d } d .fma false

def execVmin (t : VTy) (d a b : VCode) (y x : Bool) (s : State) : Out := s.arith (ew2 0x04 t a b false y x false false) d .min false
def execVmax (t : VTy) (d a b : VCode) (y x : Bool) (s : State) : Out := s.arith (ew2 0x05 t a b false y x false false) d .max false
def execVabs (t : VTy) (d a : VCode) (x : Bool) (s : State) : Out := s.arith (ew1 0x06 t a false x false false) d .abs false
def execVneg (t : VTy) (d a : VCode) (x : Bool) (s : State) : Out := s.arith (ew1 0x07 t a false x false false) d .neg false
def execVdiv (d a b : VCode) (rtz y x : Bool) (s : State) : Out := s.arith (ew2 0x08 .f32 a b rtz y x true true) d .div false
def execVrcp (d a : VCode) (x : Bool) (s : State) : Out := s.arith (ew1 0x09 .f32 a false x true true) d .rcp false
def execVrsqrt (d a : VCode) (x : Bool) (s : State) : Out := s.arith (ew1 0x0A .f32 a false x true true) d .rsqrt false
def execVsqrt (d a : VCode) (rtz x : Bool) (s : State) : Out := s.arith (ew1 0x0B .f32 a rtz x true true) d .sqrt false
def execVexp2 (d a : VCode) (x : Bool) (s : State) : Out := s.arith (ew1 0x0C .f32 a false x true true) d .exp2 false
def execVlog2 (d a : VCode) (x : Bool) (s : State) : Out := s.arith (ew1 0x0D .f32 a false x true true) d .log2 false

def execVcmpEq (t : VTy) (d a b : VCode) (y x : Bool) (s : State) : Out :=
  s.arith (ew2 0x0E t a b false y x false false) d (.cmp .eq) false
def execVcmpLt (t : VTy) (d a b : VCode) (y x : Bool) (s : State) : Out :=
  s.arith (ew2 0x0F t a b false y x false false) d (.cmp .lt) false
def execVcmpLe (t : VTy) (d a b : VCode) (y x : Bool) (s : State) : Out :=
  s.arith (ew2 0x10 t a b false y x false false) d (.cmp .le) false
def execVcmpNe (t : VTy) (d a b : VCode) (y x : Bool) (s : State) : Out :=
  s.arith (ew2 0x11 t a b false y x false false) d (.cmp .ne) false

/-- R209: the predicate register is l0 or l1; a read of an empty one always blocks. -/
def execVselL0 (d a b : VCode) (y x : Bool) (s : State) : Out :=
  s.ew (ewU 0x12 a x (some (b, y)) (some 72)) d (fun _ a b c => laneRun vselLane a b c)
def execVselL1 (d a b : VCode) (y x : Bool) (s : State) : Out :=
  s.ew (ewU 0x12 a x (some (b, y)) (some 73)) d (fun _ a b c => laneRun vselLane a b c)

def execVand (d a b : VCode) (y x : Bool) (s : State) : Out :=
  s.ew (ewU 0x13 a x (some (b, y)) none) d (fun _ a b c => laneRun (bitLane (· &&& ·)) a b c)
def execVor (d a b : VCode) (y x : Bool) (s : State) : Out :=
  s.ew (ewU 0x14 a x (some (b, y)) none) d (fun _ a b c => laneRun (bitLane (· ||| ·)) a b c)
def execVxor (d a b : VCode) (y x : Bool) (s : State) : Out :=
  s.ew (ewU 0x15 a x (some (b, y)) none) d (fun _ a b c => laneRun (bitLane (· ^^^ ·)) a b c)
def execVnot (d a : VCode) (x : Bool) (s : State) : Out :=
  s.ew (ewU 0x16 a x none none) d (fun _ a b c => laneRun (bitLane (fun v _ => ~~~v)) a b c)
def execVshl (d a b : VCode) (y x : Bool) (s : State) : Out :=
  s.ew (ewU 0x17 a x (some (b, y)) none) d (fun _ a b c => laneRun (bitLane vshl32) a b c)
def execVshrL (d a b : VCode) (y x : Bool) (s : State) : Out :=
  s.ew (ewU 0x18 a x (some (b, y)) none) d (fun _ a b c => laneRun (bitLane vshrL32) a b c)
def execVshrA (d a b : VCode) (y x : Bool) (s : State) : Out :=
  s.ew (ewU 0x18 a x (some (b, y)) none) d (fun _ a b c => laneRun (bitLane vshrA32) a b c)

end Sys2Proof.Machine
end

