-- ==== Sys2Proof/Machine/Vx.lean ====
section
/-! DEFINITION. The other op-words: conversions and blocks (R210, R211), reductions and scans (R212, R213, R223), permutes
and significance predicates (R209, R214), cells in and out (R215 to R219), tiles (R220), loops, branches and the end of a
routine (R221 to R224). -/

namespace Sys2Proof.Machine

/-- An op-word with one or two register sources and a register destination, given by its lanes. -/
def State.flat (s : State) (srcs : List (VCode × Bool)) (d : VCode) (opc : Nat)
    (body : Tenon → Routine → List FVal × Option VFail) : Out :=
  s.opword srcs (some d) (fun _ => false) (fun b t r T R =>
    let x := body T R
    s.vxWrite b t r T R opc x.2 d { lanes := x.1, full := true, poison := srcs.any (fun p => (T.reg p.1.toNat).poison) })

def Tenon.lanes (T : Tenon) (c : VCode) : List FVal := (T.reg c.toNat).lanes

/-! ### Conversions and blocks (R210, R211) -/

/-- A converted element as the report of R57 shows it. -/
def VConv.res (f : SFmt) (e : VConv) : FVal :=
  match f with
  | .flt g => FVal.mk' (f32 (g.decode e.bits) .rne) e.cnt
  | .int _ => FVal.mk' (BitVec.ofNat 32 e.bits) e.cnt

/-- R56, R57: a conversion between floating formats is checked on the elements of the active lanes. -/
def vcvtFail (R : Routine) (t : VTy) (f : SFmt) (a : List FVal) (r : List VConv) : Option VFail :=
  match f with
  | .int _ => none
  | .flt g =>
    if t = .i32 then none
    else
      match r.find? (fun x => decide (x.lane < R.aw) && sigLow R.start.modes (g.decode x.bits) x.cnt) with
      | none => none
      | some y =>
        (r.zipIdx.find? (fun x => x.1.lane == y.lane && decide (x.1.cnt < modesTh R.start.modes))).map (fun x =>
          ⟨x.1.lane, some (t.widen ((elems t a).getD x.2 (0, 0))), none, none, x.1.res f⟩)

def execVcvt (t : VTy) (d a f : VCode) (rtz x : Bool) (s : State) : Out :=
  s.flat [(a, x)] d (0x19 * 4 + t.tyCode) (fun T R =>
    match SFmt.ofCode f.toNat with
    | none => (T.lanes a, none)
    | some g =>
      let r := vcvtElems t g (R.mode rtz) (T.lanes a)
      (vcvtLanes g r, vcvtFail R t g (T.lanes a) r))

def execVquant (t : VTy) (d a f : VCode) (x : Bool) (s : State) : Out :=
  s.flat [(a, x)] d (0x1A * 4 + t.tyCode) (fun T _ =>
    match SebFmt.ofCode f.toNat with
    | none => (T.lanes a, none)
    | some g => (vquantLanes t g (T.lanes a), none))

def execVdequant (t : VTy) (d a f : VCode) (x : Bool) (s : State) : Out :=
  s.flat [(a, x)] d (0x1B * 4 + t.tyCode) (fun T _ =>
    match SebFmt.ofCode f.toNat with
    | none => (T.lanes a, none)
    | some g => (vdequantLanes t g (T.lanes a), none))

/-! ### Reductions and scans (R212, R213, R223, R308, R309) -/

/-- R309: the operands of the addition that formed an element, or the one input that it is. -/
def RedNode.report (n : RedNode) (t : VTy) : Option FVal × Option FVal × Option FVal :=
  match n.ops with
  | some p => (some (t.widen p.1), some (t.widen p.2), none)
  | none => (some (t.widen n.v), none, none)

/-- R56, R308: the elements that an additive reduction or scan writes. -/
def Comb.fail (c : Comb) (modes : BitVec 11) (t : VTy) (aw : Nat) (ns : List RedNode) : Option VFail :=
  if c = .add then
    failIn modes t aw (ns.map RedNode.v) (fun i => (ns.getD i ⟨(0, 0), none⟩).report t)
  else none

def Comb.code : Comb → Nat
  | .add => 0
  | .min => 1
  | .max => 2

def Pending.is (p : Pending) (dst : Nat) (scan : Bool) : Bool := p.dst == dst && p.scan == scan

def Tenon.pending? (T : Tenon) (dst : Nat) (scan : Bool) : Option Pending := T.pendings.find? (fun p => p.is dst scan)

/-- A pending reduction put in its place. -/
def Tenon.setPending (T : Tenon) (p : Pending) : Tenon :=
  if T.pendings.any (fun q => q.is p.dst p.scan) then
    { T with pendings := T.pendings.map (fun q => if q.is p.dst p.scan then p else q) }
  else { T with pendings := T.pendings ++ [p] }

/-- R223: whether a partial counts among those of its destination: a reduction of no active lane hands none. -/
def Partial.counts (x : Partial) (scan : Bool) : Bool := scan || x.value.isSome

/-- R212: a partial handed to the pending reduction of its destination, which is set empty; none where a rule of R226 ends
the routine. The last-result file does not shift (R69); an l0 or l1 that is the destination itself is set empty, and what the
partial gives follows later shifts as a long-latency result does (log entry 37). -/
def Tenon.hand (T : Tenon) (dst : Nat) (scan : Bool) (x : Partial) : Option Tenon :=
  let p := (T.pending? dst scan).getD { dst := dst, scan := scan }
  let others := ((T.pendings.map Pending.dst).filter (fun d => d != dst)).eraseDups
  if 8 ≤ others.length ∨ (x.counts scan && decide (1024 ≤ ((p.waiting ++ p.taken).filter (fun y => y.counts scan)).length)) = true
  then none
  else
    some ((T.setPending
      { p with waiting := p.waiting ++ [{ x with l0 := dst == codeL0, l1 := dst == codeL1 }] }).hollow dst)

/-- R69, R70: whether a long-latency op-word keeps a register empty. -/
def LongOp.holds (o : LongOp) (d : Nat) : Bool := if d = codeL0 then o.l0 else if d = codeL1 then o.l1 else o.dst == d

/-- R71, R225: whether a pending reduction or scan, and nothing else, is what keeps its destination empty: only then does a further
partial of it issue. -/
def Tenon.heldBy (T : Tenon) (d : Nat) (scan : Bool) : Bool :=
  T.pendings.any (fun p => p.is d scan && p.holds d) && T.pendings.all (fun p => p.is d scan || !p.holds d)
    && T.longs.all (fun o => !o.holds d) && (NMap.vals T.closes).all (fun c => c.dst != d)

/-- R212, R213: an op-word at level row, tile or round. -/
def State.spanning (s : State) (scan : Bool) (c : Comb) (t : VTy) (d a : VCode) (l : VLvl) (rtz x : Bool) (opn : Nat) : Out :=
  s.opword [(a, x)] (some d)
    (fun T => T.heldBy d.toNat scan)
    (fun b tn r T R =>
      let m := R.mode rtz
      match R.ords.getLast? with
      | none => .next (s.vxEnd b tn r R 0x0001)
      | some o =>
        let n := c.tree t m (T.lanes a) R.aw
        let p : Partial :=
          { comb := c.code, ty := t, lvl := l, mode := m, ordinal := o, key := R.cinKey, seq := R.cinSeq, round := R.cinRound
            value := n.map RedNode.v, ops := (n.bind RedNode.ops).map (fun y => (t.widen y.1, t.widen y.2))
            lanes := if scan then T.lanes a else [], aw := R.aw, eor := R.markEor, eot := R.markEot
            poison := (T.reg a.toNat).poison, modes := R.start.modes, side := R.side, entry := R.entry, off := R.pc - R.lo
            opc := opn * 4 + t.tyCode }
        match T.hand d.toNat scan p with
        | none => .next (s.vxEnd b tn r R 0x0001)
        | some T1 => .next (s.vxDone b tn r T1 R))

/-- R212: `vred`. -/
def State.vred (s : State) (c : Comb) (t : VTy) (d a : VCode) (l : VLvl) (rtz x : Bool) : Out :=
  if l = .reg then
    s.flat [(a, x)] d (0x1C * 4 + t.tyCode) (fun T R =>
      let n := (c.tree t (R.mode rtz) (T.lanes a) R.aw).getD ⟨c.identity t, none⟩
      (splat t n.v, c.fail R.start.modes t R.aw (List.replicate (64 * t.per) n)))
  else s.spanning false c t d a l rtz x 0x1C

/-- R213: `vscan`. -/
def State.vscan (s : State) (c : Comb) (t : VTy) (d a : VCode) (l : VLvl) (rtz x : Bool) : Out :=
  if l = .reg then
    s.flat [(a, x)] d (0x1D * 4 + t.tyCode) (fun T R =>
      let ns := c.scan t (R.mode rtz) none (T.lanes a) R.aw
      (ofElems t (ns.map RedNode.v), c.fail R.start.modes t R.aw ns))
  else s.spanning true c t d a l rtz x 0x1D

def execVredAdd (t : VTy) (d a : VCode) (l : VLvl) (rtz x : Bool) (s : State) : Out := s.vred .add t d a l rtz x
def execVredMin (t : VTy) (d a : VCode) (l : VLvl) (rtz x : Bool) (s : State) : Out := s.vred .min t d a l rtz x
def execVredMax (t : VTy) (d a : VCode) (l : VLvl) (rtz x : Bool) (s : State) : Out := s.vred .max t d a l rtz x
def execVscanAdd (t : VTy) (d a : VCode) (l : VLvl) (rtz x : Bool) (s : State) : Out := s.vscan .add t d a l rtz x
def execVscanMin (t : VTy) (d a : VCode) (l : VLvl) (rtz x : Bool) (s : State) : Out := s.vscan .min t d a l rtz x
def execVscanMax (t : VTy) (d a : VCode) (l : VLvl) (rtz x : Bool) (s : State) : Out := s.vscan .max t d a l rtz x

/-! ### Permutes, broadcasts and significance (R209, R214) -/

def execVperm (d a b : VCode) (y x : Bool) (s : State) : Out :=
  s.flat [(a, x), (b, y)] d (0x1E * 4) (fun T _ => (vpermLanes (T.lanes a) (T.lanes b), none))

def execVbcast (d a : VCode) (n : BitVec 6) (x : Bool) (s : State) : Out :=
  s.flat [(a, x)] d (0x1F * 4) (fun T _ => (List.replicate 64 ((T.lanes a).getD n.toNat FVal.zero), none))

def State.vsig (s : State) (g : SigForm) (t : VTy) (d a : VCode) (n : BitVec 5) (x : Bool) : Out :=
  s.flat [(a, x)] d (0x20 * 4 + t.tyCode) (fun T _ => (vsigLanes t g n.toNat (T.lanes a), none))

def execVsigLt (t : VTy) (d a : VCode) (n : BitVec 5) (x : Bool) (s : State) : Out := s.vsig .lt t d a n x
def execVsigGe (t : VTy) (d a : VCode) (n : BitVec 5) (x : Bool) (s : State) : Out := s.vsig .ge t d a n x
def execVsigCnt (t : VTy) (d a : VCode) (n : BitVec 5) (x : Bool) (s : State) : Out := s.vsig .cnt t d a n x

/-! ### Cells in (R215) -/

/-- R44, R45, R52: the count of element j of a floating payload. -/
def Cell.elemCount (c : Cell) (f : FFmt) (j : Nat) : Nat :=
  let x := f.decode (c.num (j * f.size) f.size)
  if !x.isFinite then 0
  else if c.tag && (taggedBytes c.fmt).isSome then Nat.min f.p (countField c.fmt c.payload j) else f.p

/-- R215: the count of a lane of a delivered payload: the smallest of its elements' counts. A lane without an element takes
the format's own count. -/
def Cell.laneCount (c : Cell) (k : Nat) : Nat :=
  match SFmt.ofCode c.fmt.toNat with
  | some (.flt f) =>
    if c.tag || decide (c.fmt.toNat ≤ 8) then
      let per := 4 / f.size
      let js := (List.range per).map (fun i => k * per + i)
      (js.filter (fun j => decide (j * f.size < c.len.toNat))).foldl (fun m j => Nat.min m (c.elemCount f j))
        (if c.fmt.toNat ≤ 8 then f.p else 24)
    else 24
  | _ => 24

/-- R199, R215: the payload of a cell as 64 lanes. -/
def Cell.lanes (c : Cell) : List FVal :=
  (List.range 64).map (fun k => FVal.mk' (BitVec.ofNat 32 (c.num (4 * k) 4)) (c.laneCount k))

/-- R204, R215: an element of a payload as a tile of the type holds it. -/
def Cell.tileElem (c : Cell) (f : SFmt) (j : Nat) : FVal :=
  let bits := c.num (j * f.size) f.size
  match f with
  | .flt g =>
    let tag := c.tag && (taggedBytes c.fmt).isSome
    FVal.mk' (BitVec.ofNat 32 bits)
      (if (g.decode bits).isFinite then Nat.min g.p (if tag then countField c.fmt c.payload j else g.p) else 0)
  | .int _ => FVal.mk' (BitVec.ofNat 32 bits) 24

/-- R215: rows of a payload put into a tile from WCUR on. -/
def Tile.fill (X : Tile) (c : Cell) (n : Nat) : Tile :=
  (List.range n).foldl (fun X i =>
    { X with
      elems := X.putRow X.wcur ((List.range X.cols).map (fun j => c.tileElem X.fmt (i * X.cols + j)))
      wcur := X.writeOn 1 }) X

/-- R215 step 3: what a `cin` leaves in its routine. -/
def Routine.took (R : Routine) (s : State) (h : SlotHdr) (ordinal : Nat) : Routine :=
  { R with
    aw := (h.cell.len.toNat + 3) / 4, ords := R.ords ++ [ordinal], markEor := h.cell.eor, markEot := h.cell.eot
    cinKey := (s.launch h.side.lid).key h.side.ownerBent h.side.ownerSlot, cinSeq := h.cell.seq
    cinRound := h.cell.round }

/-- R70: a cell-in slot released. -/
def Tenon.release (T : Tenon) (c : Nat) : Tenon := { T.hollow c with slotHdr := NMap.erase T.slotHdr c }

/-- R215. Rows put into a tile are no lane vector, and leave l0 and l1 as they are (R69). -/
def execCin (d a : VCode) (x : Bool) (s : State) : Out :=
  s.opword [(a, x)] (some d) (fun _ => false) (fun b t r T R =>
    let h := NMap.getD T.slotHdr a.toNat default
    let R1 := R.took s h T.ordinal
    let T1 := { T.release a.toNat with ordinal := T.ordinal + 1 }
    let v := T.reg a.toNat
    if isTile d.toNat then
      let X := T.tile d.toNat
      let rowBytes := X.cols * X.fmt.size
      let n := h.cell.len.toNat / rowBytes
      if h.cell.len.toNat % rowBytes ≠ 0 ∨ X.rows < n then .next (s.vxEnd b t r R 0x0001)
      else
        let Y := { X.fill h.cell n with live := true, poison := X.poison || v.poison, full := true }
        .next (s.vxDone b t r (T1.setTile d.toNat Y) R1)
    else .next (s.vxDone b t r (T1.put d.toNat { v with full := true }) R1))

/-! ### Cells out (R216 to R219) -/

/-- The 64-bit number in two lanes. -/
def lanes64 (l : List FVal) (k : Nat) : Word := (l.getD (k + 1) FVal.zero).v ++ (l.getD k FVal.zero).v

/-- R52, R216: the payload of a cell-out slot; a non-finite element has count 0 (R44). -/
def outPayload (c : Cell) (v : VReg) : List Byte :=
  match (if c.tag then SFmt.ofCode c.fmt.toNat else none) with
  | some (.flt f) =>
    taggedPayload c.fmt (laneBytes v.lanes)
      ((List.range (c.len.toNat / f.size)).map (fun j =>
        if (f.decode (bytesAt (laneBytes v.lanes) (j * f.size) f.size)).isFinite then
          Nat.min f.p (v.lanes.getD (j * f.size / 4) FVal.zero).c.toNat
        else 0))
  | _ => laneBytes v.lanes

/-- R216: the header that `cout` reads and takes from the starting cell. -/
def Routine.outCell (R : Routine) (l : List FVal) : Cell :=
  let d := lanes64 l 0
  let z := R.start
  let c := { descCell d with arg := (l.getD 2 FVal.zero).v, round := z.round, bent := z.bent, strand := z.strand, ctx := z.ctx
                             modes := z.modes, vote := z.vote, cls := if z.vote then 0 else z.cls }
  { c with addr := (addrField (lanes64 l 3)).getD 0 }

/-- R216: the checks of R166 and R76 on a `cout`. -/
def State.outCheck (s : State) (lid : Nat) (c : Cell) (l : List FVal) : Option (BitVec 16) :=
  let d := lanes64 l 0
  match headerCheck c (!addrOk (s.regionOf lid) (lanes64 l 3)) with
  | some e => some e
  | none =>
    firstFail
      [ (descReserved d || descAtarg d != 0, 0x0001),
        (!destOk .cell c.dest && !destOk .cellm c.dest, 0x0001),
        (c.opcnt != 0, 0x0001) ]

/-- R299: the queue into which an emitted cell brings records, with their number. -/
def State.outQueue (s : State) (lid : Nat) (c : Cell) : Option (Nat × Nat) :=
  let q := (c.arg.extractLsb' 0 4).toNat
  if c.iqrec && c.kind == 4 && c.code == 1 && NMap.has (s.launch lid).queues q then some (q, c.len.toNat / 32) else none

/-- What travels with a cell that a routine emits. -/
def Routine.outSide (R : Routine) (t : Nat) : Side :=
  { R.side with src := .engine (4 + t), amo := none, prov := none, shadow := none, drain := false, iq := none, via := none }

/-- The routine waits until FB2 has the cell. -/
def Routine.emits (R : Routine) : Routine := { R.next with couts := R.couts + 1 }

/-- R216. -/
def execCout (d a : VCode) (x : Bool) (s : State) : Out :=
  s.opword [(a, x)] (some d) (fun _ => false) (fun b t r T R =>
    let l := T.lanes a
    let v := T.reg d.toNat
    let c := R.outCell l
    match s.outCheck R.side.lid c l with
    | some e => .next (s.vxEnd b t r R e)
    | none =>
      let c1 := { c with payload := outPayload c v, poison := v.poison || (T.reg a.toNat).poison }
      .next ((s.setTenon b t ((T.hollow d.toNat).setRoutine r R.emits)).updBent b (fun B =>
        B.offer (4 + t) (R.outSide t) c1 (.coutSlot t d.toNat r (s.outQueue R.side.lid c)))))

/-- R217: a cell passed on with its sequence numbers as they are. -/
def Bent.offerAsIs (B : Bent) (e : Nat) (d : Side) (c : Cell) (done : OnAccept) : Bent :=
  { B with emit := NMap.modify B.emit e [] (fun l => l ++ [⟨c, d, done⟩]) }

/-- R217. -/
def execCfwd (a : VCode) (e : BitVec 4) (x : Bool) (s : State) : Out :=
  s.opword [(a, x)] none (fun _ => false) (fun b t r T R =>
    let h := NMap.getD T.slotHdr a.toNat default
    if kindMask h.cell.kind &&& oneHot e.toNat = 0 then .next (s.vxEnd b t r R 0x0005)
    else
      .next ((s.setTenon b t (T.setRoutine r R.emits)).updBent b (fun B =>
        B.offerAsIs (4 + t) { h.side with src := .engine (4 + t), prov := none, via := none }
          { h.cell with dest := oneHot e.toNat } (.cfwdSlot t a.toNat r))))

/-- R218. -/
def execVrec (d a b : VCode) (y x : Bool) (s : State) : Out :=
  s.flat [(a, x), (b, y)] d (0x29 * 4) (fun T R => (vrecLanes (T.lanes a) (T.lanes b) R.start.round, none))

/-! ### Tiles (R220) -/

/-- R45, R220: the tile that a descriptor configures. -/
def tileOf (q : BitVec 17) : Tile :=
  let f := (SFmt.ofCode (q.extractLsb' 12 5).toNat).getD (.flt .fp32)
  let rows := (q.extractLsb' 0 6).toNat + 1
  let cols := (q.extractLsb' 6 6).toNat + 1
  let p := match f with | .flt g => g.p | .int _ => 24
  { rows := rows, cols := cols, fmt := f, elems := List.replicate (rows * cols) (FVal.mk' 0 p), configured := true }

/-- R220: both forms wait while the tile is empty. -/
def State.tileConfig (s : State) (d : VCode) (q : BitVec 17) (discard : Bool) : Out :=
  s.routine (fun b t r T R =>
    let X := T.tile d.toNat
    if X.full = false then .next s
    else if X.configured && X.live && !discard then .next (s.vxEnd b t r R 0x0011)
    else .next (s.vxDone b t r (T.setTile d.toNat (tileOf q)) R))

def execTcfg (d : VCode) (q : BitVec 17) (s : State) : Out := s.tileConfig d q false
def execTcfgDiscard (d : VCode) (q : BitVec 17) (s : State) : Out := s.tileConfig d q true

/-! ### Loops, branches and the end (R221 to R224) -/

/-- R221. -/
def execVloop (n : BitVec 14) (l : BitVec 7) (s : State) : Out :=
  s.routine (fun b t r T R =>
    let stop := R.pc + 1 + l.toNat
    let outer := match R.loops with | [] => R.hi | x :: _ => Nat.min x.2.1 R.hi
    if 2 ≤ R.loops.length ∨ outer < stop then .next (s.vxEnd b t r R 0x0001)
    else
      .next (s.setTenon b t (T.setRoutine r
        { R with loops := (R.pc + 1, stop, n.toNat) :: R.loops, pc := R.pc + 1, suppress := false })))

/-- R221: the loops whose body holds a place. -/
def loopsAround : List (Nat × Nat × Nat) → Int → List (Nat × Nat × Nat)
  | [], _ => []
  | (lo, hi, n) :: l, pc => if (lo : Int) ≤ pc ∧ pc < (hi : Int) then (lo, hi, n) :: l else loopsAround l pc

/-- R221, R222: a taken branch. -/
def Routine.branch (R : Routine) (off : BitVec 14) : Routine :=
  let pc : Int := (R.pc : Int) + off.toInt
  { R with loops := loopsAround R.loops pc, pc := if pc < 0 then R.hi else pc.toNat, suppress := false }

/-- R222, R223: `vbr`. -/
def State.vbr (s : State) (all : Bool) (a : VCode) (off : BitVec 14) (x : Bool) : Out :=
  s.opword [(a, x)] none (fun _ => false) (fun b t r T R =>
    let act := (T.lanes a).take R.aw
    let yes := if all then act.all (fun v => v.v != 0) else act.any (fun v => v.v != 0)
    .next (s.setTenon b t (T.setRoutine r (if yes then R.branch off else R.next))))

def execVbrAll (a : VCode) (off : BitVec 14) (x : Bool) (s : State) : Out := s.vbr true a off x
def execVbrAny (a : VCode) (off : BitVec 14) (x : Bool) (s : State) : Out := s.vbr false a off x

/-- R224: the routine ends once its results and cells are out (ROUTINE_END). -/
def execVend (s : State) : Out :=
  s.routine (fun b t r T R => .next (s.setTenon b t (T.setRoutine r { R with hold := .ending, suppress := false })))

end Sys2Proof.Machine
end

