-- ==== Sys2Proof/Machine/VxSteps.lean ====
section
/-! DEFINITION. What a tenon does by itself: cells delivered and routines started (R198, R199), late results (R69, R70),
pending reductions and scans (R212, R213, R223, R287, R309), and the end of a routine (R224). -/

namespace Sys2Proof.Machine

/-! ### Delivery (R198, R199) -/

/-- R201: the extent of a routine: from its entry to the next one of the section; empty for an entry at or past the section's
op-words (DESIGN CHOICE, log entry 47). -/
def Launch.extent (L : Launch) (entry : Nat) : Option (Nat × Nat) :=
  match L.entries.getD entry none with
  | none => none
  | some lo =>
    some (lo, (L.entries.filterMap id).foldl (fun m x => if lo < x ∧ x < m then x else m) L.opwords.length)

/-- R198: SLOT and START of an ARG. -/
def Cell.vxSlot (c : Cell) (k : Nat) : Nat := 82 + (c.arg.toNat % 8 + k) % 8
def Cell.vxStart (c : Cell) : Bool := bit c.arg 3

/-- R70, R199: cells placed in cell-in slots. -/
def Tenon.deliver (T : Tenon) (c0 : Cell) (ops : List InCell) : Tenon :=
  ops.zipIdx.foldl (fun T x =>
    let n := c0.vxSlot x.2
    { T with
      v := NMap.set T.v n { lanes := x.1.cell.lanes, full := true, poison := x.1.cell.poison }
      slotHdr := NMap.set T.slotHdr n ⟨x.1.cell, x.1.side⟩ }) T

/-- R199: a routine starts. -/
def Tenon.start (T : Tenon) (c : InCell) (x : Nat × Nat) : Tenon :=
  { T with
    routines := NMap.set T.routines T.nextRoutine
      { entry := c.cell.code.toNat, pc := x.1, lo := x.1, hi := x.2, start := c.cell, side := c.side }
    nextRoutine := T.nextRoutine + 1 }

/-- R94, R198: whether a cell is refused: a nonzero reserved bit of its ARG, or an entry index without a routine. -/
def State.vxBad (s : State) (o : InCell) : Bool :=
  decide (16 ≤ o.cell.arg.toNat) || ((s.launch o.side.lid).extent o.cell.code.toNat).isNone

/-- R94, R198: the first that is refused of operands that come together. -/
def State.vxRefusal (s : State) (x : EngIn) : Option InCell := x.ops.find? s.vxBad

/-- R198, R199. -/
def execVxCellDelivery (b e : Nat) (s : State) : Out :=
  let t := e - 4
  let B := s.bent b
  let T := s.tenon b t
  match B.engIn e with
  | none => .next s
  | some x =>
    match x.ops with
    | [] => .next s
    | c :: _ =>
      if T.isFrozen then .next s
      else
      match s.vxRefusal x with
      | some o => .next (s.refuse b e x o 0x0001)
      | none =>
      if (List.range x.ops.length).any (fun k => T.full (c.cell.vxSlot k)) then .next s
      else if !c.cell.vxStart then .next ((s.eat b e x).setTenon b t (T.deliver c.cell x.ops))
      else if 4 ≤ T.routines.length then .next s
      else
        match (s.launch c.side.lid).extent c.cell.code.toNat with
        | none => .next s
        | some r => .next ((s.eat b e x).setTenon b t ((T.deliver c.cell x.ops).start c r))

/-! ### Late results (R69, R70) -/

/-- R69: a late tile result. -/
def Tenon.lateTile (T : Tenon) (o : LongOp) (elems : List FVal) : Tenon :=
  let T1 := T.setTile o.dst { T.tile o.dst with elems := elems, full := true }
  T1.late codeL1 o.l0 o.l1 o.value

/-- R69, R70: a long-latency result written. -/
def Tenon.complete (T : Tenon) (o : LongOp) : Tenon :=
  match o.elems with
  | some l => T.lateTile o l
  | none => T.late o.dst o.l0 o.l1 { o.value with full := true }

/-- A register or tile set full, its contents as they were. -/
def Tenon.refill (T : Tenon) (d : Nat) : Tenon :=
  if isTile d then T.setTile d { T.tile d with full := true } else { T with v := NMap.set T.v d { T.reg d with full := true } }

/-- R226: the op-word of an ended routine completes: presence returns, and nothing is written (log entry 37). -/
def Tenon.forgo (T : Tenon) (o : LongOp) : Tenon :=
  let T1 := if o.dst = codeL0 ∨ o.dst = codeL1 then T else T.refill o.dst
  let T2 := if o.l0 then T1.refill codeL0 else T1
  if o.l1 then T2.refill codeL1 else T2

/-- R69, R70, R226: a long-latency op-word completes. -/
def execLongLatencyComplete (b t r : Nat) (s : State) : Out :=
  let T := s.tenon b t
  match T.longs.find? (fun o => o.id == r) with
  | none => .next s
  | some o =>
    let T1 := { T with longs := T.longs.filter (fun p => p.id != r) }
    let lives := (NMap.get? T.routines o.routine).any (fun R => R.hold != .faulted)
    .next (s.setTenon b t (if lives then T1.complete o else T1.forgo o))

/-! ### Pending reductions and scans -/

def Comb.ofCode (n : Nat) : Comb := if n = 0 then .add else if n = 1 then .min else .max

/-- R212: where the next ordinal of a destination is kept. -/
def Pending.slot (p : Pending) : Nat := p.dst * 2 + (if p.scan then 1 else 0)

/-- R212: the lowest partial handed over. -/
def Pending.lowest (p : Pending) : Option Partial := leastBy (fun x => x.ordinal) p.waiting

/-- R212: whether a lower ordinal not yet taken or passed over belongs to an active routine. -/
def Tenon.blocked (T : Tenon) (p : Pending) (x : Partial) : Bool :=
  let next := NMap.getD T.taken p.slot 0
  T.routines.any (fun q => q.2.hold != .faulted && q.2.ords.any (fun o => decide (next ≤ o) && decide (o < x.ordinal)))

/-- R212: whether a partial closes its unit. -/
def Partial.ends (x : Partial) : Bool :=
  match x.lvl with
  | .row => x.eor || x.eot
  | .tile => x.eot
  | .reg | .round => false

/-- R287: increasing (ROUND, key), the cells of one strand by SEQ, which wraps. -/
def Partial.before (x y : Partial) : Bool :=
  roundBefore x.round y.round
    || (x.round == y.round && (decide (x.key < y.key) || (x.key == y.key && roundBefore x.seq y.seq)))

/-- The element type of a unit is that of its first partial (log entry 37). -/
def Pending.ty (p : Pending) : VTy := (p.taken.head?.map Partial.ty).getD .f32

/-- R58, R69, R309: a pending result written, or kept by a significance trap of the op-word that handed it over. -/
def State.settle (s : State) (b t : Nat) (p : Pending) (l0 l1 : Bool) (x : Partial) (reg : VReg) (fail : Option VFail) : State :=
  let T := s.tenon b t
  match (if modesVxe x.modes then fail else none) with
  | none => s.setTenon b t (T.lateRed p.dst l0 l1 reg)
  | some f =>
    (s.setTenon b t
      { T with closes := NMap.set T.closes T.nextRoutine ⟨p.dst, reg, l0, l1⟩, nextRoutine := T.nextRoutine + 1 }).raiseTrap
      x.side.lid x.side.ownerBent x.side.ownerSlot
      { cause := 0x0021, tenon := some (tenonKey (s.bent b).index t, T.nextRoutine), log := f.report t x.opc x.entry x.off x.modes }

/-- A reduction so far: its value, the operands of its last combination, and the partial that came last. -/
structure RedAcc where
  v : VEl
  ops : Option (FVal × FVal)
  last : Partial
  deriving DecidableEq, Repr, Inhabited

/-- R212: partials combined in order, each by its own op-word. -/
def Pending.fold (p : Pending) (l : List Partial) : Option RedAcc :=
  l.foldl (fun acc x =>
    match x.value, acc with
    | none, _ => acc
    | some v, none => some ⟨v, x.ops, x⟩
    | some v, some a =>
      some ⟨(Comb.ofCode x.comb).two p.ty x.mode a.v v, some (p.ty.widen a.v, p.ty.widen v), x⟩) none

/-- R309: the check of a closed reduction. -/
def RedAcc.fail (a : RedAcc) (t : VTy) : Option VFail :=
  if a.last.comb = 0 ∧ t ≠ .i32 ∧ sigLow a.last.modes (t.ex a.v) a.v.2 = true then
    match a.ops with
    | some q => some ⟨0, some q.1, some q.2, none, t.widen a.v⟩
    | none => some ⟨0, some (t.widen a.v), none, none, t.widen a.v⟩
  else none

/-- R71, R213: one scan of a unit: its result written, and the carry with its poison. -/
def State.scanOne (s : State) (b t : Nat) (p : Pending) (x : Partial) : State × Pending :=
  let c := Comb.ofCode x.comb
  let ns := c.scan x.ty x.mode p.carry x.lanes x.aw
  let reg : VReg := { lanes := ofElems x.ty (ns.map RedNode.v), full := true, poison := x.poison || p.carryPoison }
  (s.settle b t p x.l0 x.l1 x reg (c.fail x.modes x.ty x.aw ns),
   { p with
     carry := if x.aw = 0 then p.carry else (ns[x.ty.per * x.aw - 1]?).map RedNode.v
     carryPoison := if x.aw = 0 then p.carryPoison else reg.poison })

/-- R212, R223: a reduction's unit closes. -/
def State.closeRed (s : State) (b t : Nat) (p : Pending) (l : List Partial) : State :=
  let reg (v : VEl) : VReg :=
    { lanes := splat p.ty v, full := true, poison := l.any (fun x => x.value.isSome && x.poison) }
  let l0 := l.any (fun x => x.l0)
  let l1 := l.any (fun x => x.l1)
  match p.fold l with
  | some a => s.settle b t p l0 l1 a.last (reg a.v) (a.fail p.ty)
  | none =>
    let c := (l.getLast?.map Partial.comb).getD 0
    s.setTenon b t ((s.tenon b t).lateRed p.dst l0 l1 (reg ((Comb.ofCode c).identity p.ty)))

/-- A unit is over: the next one begins with the partials already handed over, or nothing is pending any more. -/
def Tenon.newUnit (T : Tenon) (p : Pending) : Tenon :=
  if p.waiting.isEmpty then { T with pendings := T.pendings.filter (fun q => !q.is p.dst p.scan) }
  else T.setPending { dst := p.dst, scan := p.scan, waiting := p.waiting }

/-- R212, R213, R287: a unit closes; in a deterministic launch its partials are combined by round and key. -/
def State.closeUnit (s : State) (b t : Nat) (p : Pending) (det : Bool) : State :=
  let l := if det then sortBy Partial.before p.taken else p.taken
  let s1 := s.setTenon b t ((s.tenon b t).newUnit p)
  if p.scan then (if det then (l.foldl (fun r x => r.1.scanOne b t r.2 x) (s1, p)).1 else s1)
  else s1.closeRed b t p l

/-- R212, R213: a partial is taken, and closes its unit or not; one of a scan gives its result at once, but for a deterministic
launch, where the unit's close does. -/
def State.takePartial (s : State) (b t : Nat) (p : Pending) (x : Partial) : State :=
  let det := (s.launch x.side.lid).det
  let now := p.scan && !det
  let p1 := { p with
    waiting := removeFirst (fun y => y.ordinal == x.ordinal) p.waiting
    taken := p.taken ++ [if now then { x with held := false } else x] }
  let T := s.tenon b t
  let s1 := s.setTenon b t
    { T.setPending p1 with taken := NMap.set T.taken p.slot (Nat.max (x.ordinal + 1) (NMap.getD T.taken p.slot 0)) }
  let r := if now then s1.scanOne b t p1 x else (s1, p1)
  let s2 := r.1.setTenon b t ((r.1.tenon b t).setPending r.2)
  if x.ends then s2.closeUnit b t r.2 det else s2

/-- R212: a pending reduction or scan of a destination takes its next partial, once no earlier result of the destination waits for
an `rft`. -/
def execPartialCombine (b t r : Nat) (s : State) : Out :=
  let T := s.tenon b t
  if (NMap.vals T.closes).any (fun c => c.dst == r) then .next s else
  match (T.pendings.filter (fun p => p.dst == r)).findSome? (fun p =>
      (p.lowest.filter (fun x => !T.blocked p x)).map (fun x => (p, x))) with
  | none => .next s
  | some q => .next (s.takePartial b t q.1 q.2)

/-- R80, R212: at the edge of round n, what a destination has pending of rounds up to n is taken and its open unit closes,
whatever its level. -/
def State.roundUnit (s : State) (b t : Nat) (n : BitVec 16) (p : Pending) : State :=
  let due := sortBy (fun x y => decide (x.ordinal < y.ordinal)) (p.waiting.filter (fun x => !roundBefore n x.round))
  let s1 := due.foldl (fun s x =>
    match (s.tenon b t).pending? p.dst p.scan with
    | some q => s.takePartial b t q x
    | none => s) s
  match (s1.tenon b t).pending? p.dst p.scan with
  | some q =>
    if q.taken.isEmpty then s1 else s1.closeUnit b t q (q.taken.any (fun x => (s.launch x.side.lid).det))
  | none => s1

/-- R212, R273: a tenon enters the round after n. -/
def State.vxEdge (s : State) (b t : Nat) (n : BitVec 16) : State :=
  (s.tenon b t).pendings.foldl (fun s p => s.roundUnit b t n p) s

/-! ### The end of a routine (R224) -/

def execRoutineEnd (b t r : Nat) (s : State) : Out :=
  let T := s.tenon b t
  match NMap.get? T.routines r with
  | none => .next s
  | some R =>
    if R.hold = .ending ∧ R.couts = 0 ∧ T.longs.all (fun o => o.routine != r) = true then
      .next (s.setTenon b t { T with routines := NMap.erase T.routines r })
    else .next s

end Sys2Proof.Machine
end

