-- ==== Sys2Proof/Machine/Rounds.lean ====
section
/-! DEFINITION. Round edges: when a unit enters the next round (R81, R273, R274), what it does on entering (R152, R212,
R297, R301), the cut of a region (R368), and the round close of an HBM channel's atomics (R152). -/

namespace Sys2Proof.Machine

/-! ### Work of a round (R273) -/

/-- A data cell of a round up to n. -/
def Cell.due (c : Cell) (n : BitVec 16) : Bool := !c.rmk && notAfter c.round n

/-- R233 to R236: operations of a matrix tenon in progress. -/
def Mx.working (M : Mx) (n : BitVec 16) : Bool :=
  M.inFlight.any (fun f => notAfter f.round n) || M.rows.any (fun r => notAfter r.round n)
    || (match M.drain with | some d => notAfter d.round n | none => false)

/-- R212, R219: routines of a tenon in progress, and partials not yet taken. -/
def Tenon.working (T : Tenon) (n : BitVec 16) : Bool :=
  T.routines.any (fun r => r.2.hold != .faulted && notAfter r.2.start.round n)
    || T.pendings.any (fun p => p.waiting.any (fun x => x.lvl != .round && notAfter x.round n))

/-- R273: whether the unit behind an egress holds work of rounds up to n. -/
def Bent.working (B : Bent) (e : Nat) (n : BitVec 16) : Bool :=
  (B.buffer e).any (fun c => c.cell.due n)
    || B.rv.any (fun r => r.1 / 32 == e && r.2.operands.any (fun c => c.2.cell.due n))
    || B.fired.any (fun x => x.1 == e && x.2.any (fun c => c.cell.due n))
    || (NMap.getD B.emit e []).any (fun m => m.cell.due n)
    || B.gs.any (fun g => g.egr == e && g.cell.due n)
    || (decide (e < 4) && (NMap.getD B.mx e {}).working n)
    || (decide (4 ≤ e ∧ e < 8) && (NMap.getD B.tenons (e - 4) {}).working n)

/-- Cells of rounds up to n that a Mortise has not landed at an egress. -/
def Bent.underway (B : Bent) (e : Nat) (n : BitVec 16) : Bool :=
  B.landing.any (fun x => x.1 == e && x.2.cell.due n)
    || (List.range 16).any (fun i =>
        (List.range 4).any (fun c => (B.sub i e c).any (fun q => q.cell.due n))
          || (B.mcast i).any (fun q => bit q.residue e && q.cell.due n))

/-- R395, R396: cells of rounds up to n that another place of the region has still to hand to this unit. -/
def State.crossing (s : State) (lid b e : Nat) (n : BitVec 16) : Bool :=
  (s.bent b).gr.any (fun g => g.egress == e && g.cell.due n)
    || (s.regionOf lid).any (fun o =>
        let B := s.bent o
        B.gs.any (fun g => g.target == b && g.egress == e && g.cell.due n)
          || [egWB0, egWB1, egGS].any (fun w =>
              let to_ (c : InCell) : Bool := c.cell.due n && s.reach o w c == .girt b e
              (B.buffer w).any to_ || B.landing.any (fun x => x.1 == w && to_ x.2)
                || (List.range 16).any (fun i =>
                    (List.range 4).any (fun k => (B.sub i w k).any (fun q => to_ ⟨q.cell, q.side, i⟩))
                      || (B.mcast i).any (fun q => bit q.residue w && to_ ⟨q.cell, q.side, i⟩))))

/-- R274: whether an engine of another bent of the region may still emit a cell of rounds up to n. -/
def State.othersEmit (s : State) (lid b : Nat) (n : BitVec 16) : Bool :=
  (s.regionOf lid).any (fun o => o != b && (List.range 16).any (fun u =>
    (fbOf u).isSome && ((s.bent o).working u n || (s.bent o).underway u n)))

/-- R273, R274: the inputs of a unit are satisfied for its round. -/
def State.satisfied (s : State) (b e : Nat) : Bool :=
  let B := s.bent b
  match B.launch with
  | none => false
  | some lid =>
    let n := B.roundAt e
    (match s.floorOf lid with | some f => roundBefore n f | none => true)
      && B.pairs.all (fun p => !(p.egr == e && notAfter p.round n && decide (p.ing < 12) && decide (0 < p.arrived)) || p.counted)
      && !B.underway e n && !s.crossing lid b e n && !s.othersEmit lid b n && !B.working e n
      && (List.range 16).all (fun u => (fbOf u).isNone || !B.working u n)

/-! ### The cut of a region (R368) -/

/-- A logged change applied to the handles of a cut. -/
def Handles.apply (H : Handles) (x : BitVec 16 × LogOp) : Handles :=
  match x.2 with
  | .barInit h level parties =>
    { H with bars := NMap.modify H.bars h ⟨level, parties, []⟩ (fun B => { B with level := level, parties := parties }) }
  | .barTouch h g => { H with bars := NMap.modify H.bars h default (fun B => B.touch g) }
  | .ctl j age window => { H with ctls := NMap.set H.ctls j (age, window) }
  | .barArrive h g => { H with bars := NMap.modify H.bars h default (fun B => (B.arrive g).2) }
  | .infl q up n =>
    { H with queues := NMap.modify H.queues q default (fun Q => { Q with infl := if up then Q.infl + n else Q.infl - n }) }
  | .last q => { H with queues := NMap.modify H.queues q default (fun Q => Q.ingested x.1) }
  | .chan h (some c) => { H with chans := NMap.set H.chans h c }
  | .chan h none => { H with chans := NMap.erase H.chans h }
  | .rank bt m => { H with ranks := NMap.set H.ranks bt m }
  | .id _ _ | .sent _ | .sunk _ _ _ => H

/-- R368: the cut of round n is complete, and what older cuts kept is dropped. -/
def Launch.advance (L : Launch) (n : BitVec 16) : Launch :=
  { L with
    cutRound := some n
    rolledAt := none
    cutStrands := L.strandMarks.filter (fun m => m.round == n)
    cutUnits := L.unitMarks.filter (fun m => m.round == n)
    cutHandles := (L.opLog.filter (fun x => notAfter x.1 n)).foldl Handles.apply L.cutHandles
    strandMarks := L.strandMarks.filter (fun m => !notAfter m.round n)
    unitMarks := L.unitMarks.filter (fun m => !notAfter m.round n)
    opLog := L.opLog.filter (fun x => !notAfter x.1 n)
    undo := L.undo.filter (fun u => !notAfter u.round n)
    publishes := L.publishes.filter (fun x => !notAfter x.1 n)
    posLog := L.posLog.filter (fun p => !notAfter (BitVec.ofNat 16 (p.1 % 65536)) n)
    nonReplayable := L.nonReplayable.filter (fun r => !notAfter r n)
    unrecoverable := L.unrecoverable.filter (fun r => !notAfter r n) }

/-- R274, R368: the cut of round n, once every unit of the region has entered the round after it. -/
def State.cutAt (s : State) (lid : Nat) (n : BitVec 16) : State :=
  if (s.regionOf lid).all (fun b => (List.range 16).all (fun e => roundBefore n ((s.bent b).roundAt e))) then
    s.updLaunch lid (fun L => L.advance n)
  else s

/-! ### Entering a round (R81, R273) -/

/-- What a unit applies on entering the round after n: the AT's held updates, a consolidator's pending records and folds,
a tenon's reductions at level round; a matrix tenon's tiles and the running tiles of the sort engine close (R80). A running top-k
tile emits nothing there, as no route block has come, and a weight stream is no row and no tile (DESIGN CHOICE, log entry 49). -/
def State.edgeOf (s : State) (b e : Nat) (n : BitVec 16) : State :=
  if e = egAT then s.atClose b n
  else if e = egCN then s.cnEdge b n
  else if 4 ≤ e ∧ e < 8 then s.vxEdge b (e - 4) n
  else if e = 8 then s.updBent b (fun B => { B with topk := [] })
  else if e < 4 then s.updMx b e (fun M => M.endRound n)
  else s

/-- The unit in its next round, the pairs of the round before it forgotten. -/
def Bent.enterRound (B : Bent) (e : Nat) (n : BitVec 16) : Bent :=
  { B with
    unitRound := NMap.set B.unitRound e (n + 1)
    pairs := B.pairs.filter (fun p => !(p.egr == e && notAfter p.round n)) }

/-- R368: a unit's checkpoint kept. -/
def State.keepUnit (s : State) (lid b e : Nat) (n : BitVec 16) : State :=
  s.updLaunch lid (fun L => { L with unitMarks := L.unitMarks ++ [⟨n, (s.bent b).index * 16 + e, s.bent b⟩] })

/-- R80, R273: a unit whose inputs are satisfied enters the next round; a matrix tenon closes its open rows before, and fires them. -/
def execRoundEntry (b e : Nat) (s : State) : Out :=
  if s.satisfied b e then
    match (s.bent b).launch, (if e < 4 then s.mxClose b e else none) with
    | none, _ => .next s
    | some _, some t => .next t
    | some lid, none =>
      let n := (s.bent b).roundAt e
      let s1 := (s.updBent b (fun B => B.enterRound e n)).edgeOf b e n
      .next (((s1.keepUnit lid b e n).sendFbMarks b).cutAt lid n)
  else .next s

/-! ### HBM atomics (R152) -/

/-- An atomic that a channel holds: its round, the key of its strand, its entry, and the strand's bent and slot. -/
structure HeldOp where
  round : BitVec 16
  key : Nat
  id : Nat
  bent : Nat
  slot : Nat
  deriving DecidableEq, Repr, Inhabited

/-- R152, R287: the order of two atomics: by round, then by strand, a strand's own as they issued. -/
def HeldOp.before (x y : HeldOp) : Bool :=
  roundBefore x.round y.round
    || (x.round == y.round && (decide (x.key < y.key) || (x.key == y.key && decide (x.id < y.id))))

/-- The atomics of a launch that a channel holds and whose round is closed, in the order in which they are applied. -/
def State.closing (s : State) (lid c : Nat) : List HeldOp :=
  let L := s.launch lid
  let floor := s.floorOf lid
  let ops := (s.strandsOf lid).flatMap (fun e =>
    (e.2.2.ops.filter (fun o => o.held && !o.done && o.path == .channel c
      && (match floor with | some f => roundBefore o.round f | none => true))).map (fun o =>
        ⟨o.round, L.key e.2.2.ownerBent e.2.2.ownerSlot, o.id, e.1, e.2.1⟩))
  sortBy HeldOp.before ops

/-- The operation code of an atomic entry. -/
def MemKind.aop : MemKind → Nat
  | .amo n _ => n
  | _ => 0

/-- The entry of an atomic that is held. -/
def State.heldEntry (s : State) (x : HeldOp) : Option (Strand × MemOp) :=
  (s.strand? x.bent x.slot).bind (fun st => (st.ops.find? (fun o => o.id == x.id)).map (fun o => (st, o)))

/-- R152: an HBM channel's atomic unit applies what it holds of the rounds that every strand of the region has ended, once each
page is the launch's context's again (R343). -/
def execHbmAtomicRoundClose (launch channel : Nat) (s : State) : Out :=
  let l := s.closing launch channel
  match l.findSome? (fun x => (s.heldEntry x).bind (fun e => s.foreignPage launch e.2)) with
  | some page => .next (s.queueScrub page (s.launch launch).ctx)
  | none =>
    .next (l.foldl (fun t x =>
      match t.heldEntry x with
      | none => t
      | some e => t.applyAtom x.bent x.slot e.1 e.2 e.2.kind.aop) s)

end Sys2Proof.Machine
end

