-- ==== Sys2Proof/Machine/Fetch.lean ====
section
/-! DEFINITION. Whose turn it is and what it runs: the instruction of a strand (R82, R118), the op-word of a routine
(R201), the operation an engine takes (R93, R227), the acts of the automatic policy, and the credit of progress (R348). -/

namespace Sys2Proof.Machine

/-! ### Fetching -/

/-- The sequencer word at a text offset (R82, R327). -/
def Launch.word (L : Launch) (pc : Word) : Option Word32 := (takeWord (L.text.drop pc.toNat)).map Prod.fst

/-- R84, R118: what a strand issues. -/
def Launch.fetch (L : Launch) (pc : Word) : Instr :=
  match L.word pc with
  | none => .instructionFetchFault
  | some w => (decodeSeq w).getD .illegalInstruction

/-- R201: the op-word that a routine issues; none outside its extent. -/
def Launch.fetchOpw (L : Launch) (R : Routine) : Option Instr :=
  if R.lo ≤ R.pc ∧ R.pc < R.hi then (L.opwords[R.pc]?).bind decodeOpw else none

/-- R93: the operation of an OP value at an egress. -/
def opInstr (b e kind code : Nat) : Option Instr :=
  match kind with
  | 0 => if e = egSQ then some (.sinkData b) else if e = egGS then some (.girtSend b) else some (.writeback b e)
  | 1 =>
    (match code with
     | 1 => some (.mxWload b e)
     | 2 => some (.mxFire b e)
     | 3 => some (.mxFireStrict b e)
     | 4 => some (.mxFireSp b e)
     | 5 => some (.mxFireSpStrict b e)
     | 6 => some (.mxDrain b e)
     | 7 => some (.mxClear b e)
     | _ => none)
  | 2 => some (.vxCellDelivery b e)
  | 3 => if code = 1 then some (.sxSort b) else if code = 2 then some (.sxMerge b) else some (.sxTopk b)
  | 4 =>
    if code = 1 then some (.cnIngest b) else if code = 2 then some (.cnCons b) else if code = 3 then some (.cnJoin b)
    else some (.cnFlush b)
  | 5 => some (.vtVote b)
  | 6 =>
    (match code with
     | 1 => some (.atSwap b)
     | 2 => some (.atCas b)
     | 3 => some (.atAdd b)
     | 4 => some (.atFadd b)
     | 5 => some (.atAnd b)
     | 6 => some (.atOr b)
     | 7 => some (.atXor b)
     | 8 => some (.atMin b)
     | 9 => some (.atMax b)
     | 10 => some (.atMinu b)
     | 11 => some (.atMaxu b)
     | _ => none)
  | _ => none

/-- R81, R255: what an engine does with what stands before it: a fired operation first, else the head of its input. -/
def State.engineInstr (s : State) (b e : Nat) : Option Instr :=
  let B := s.bent b
  if e = egGS then some (.girtSend b)
  else
    match B.fired.find? (fun x => x.1 == e) with
    | some x => x.2.head?.bind (fun c => opInstr b e c.cell.kind.toNat c.cell.code.toNat)
    | none =>
      match (B.buffer e).head? with
      | none => none
      | some c =>
        if c.cell.rmk then some (.markerReceipt b e)
        else if B.early e c.cell then none
        else if c.cell.opcnt != 0 then some (.rendezvousOperand b e)
        else opInstr b e c.cell.kind.toNat c.cell.code.toNat

/-- R388: whether the slot of a bent is gated. -/
def State.gated (s : State) (b : Nat) : Bool := decide ((s.bent b).gateCount % 16 < s.device.gate)

/-- The bent whose engine, by an instruction, takes what stands before it. -/
def consumer (i : Instr) : Option Nat :=
  match i with
  | .mxWload b _ | .mxFire b _ | .mxFireStrict b _ | .mxFireSp b _ | .mxFireSpStrict b _ | .mxDrain b _ | .mxClear b _
  | .vxCellDelivery b _ | .sxSort b | .sxMerge b | .sxTopk b | .cnIngest b | .cnCons b | .cnJoin b | .cnFlush b | .vtVote b
  | .atSwap b | .atCas b | .atAdd b | .atFadd b | .atAnd b | .atOr b | .atXor b | .atMin b | .atMax b | .atMinu b | .atMaxu b
  | .sinkData b | .girtSend b | .writeback b _ | .rendezvousOperand b _ | .markerReceipt b _ => some b
  | _ => none

/-- A step of a unit, link or the host: an instruction that acts for no strand or routine. -/
def isStep (i : Instr) : Bool :=
  i != .illegalInstruction && i != .instructionFetchFault && (encode i).isEmpty

/-! ### The act of a step -/

/-- R58, R60: a strand with a trap pending takes it before it issues, unless it is in its handler. -/
def Strand.trapFirst (st : Strand) : Bool := st.saved.isNone && !st.pend.isEmpty

/-- What an act runs, and the state it runs in: none where nothing is to run. A device in reset runs only its release, and in a
gated slot no engine consumes (R388). -/
def State.prepare (s : State) (a : Act) : Option (Instr × State) :=
  if s.device.inReset then
    match a with
    | .device .resetRelease => some (.resetRelease, { s with cur := .none })
    | _ => none
  else
    match a with
    | .strand b k =>
      (s.strand? b k).map (fun st =>
        if st.trapFirst then (.pendingTrapDelivery b k, { s with cur := .none })
        else ((s.launch st.lid).fetch st.pc, { s with cur := .strand b k }))
    | .routine b t r =>
      (NMap.get? (s.tenon b t).routines r).bind (fun R =>
        ((s.launch R.side.lid).fetchOpw R).map (fun i => (i, { s with cur := .routine b t r })))
    | .engine b e => if s.gated b then none else (s.engineInstr b e).map (fun i => (i, { s with cur := .none }))
    | .device i =>
      if WellFormed i && isStep i && !(consumer i).any s.gated then some (i, { s with cur := .none }) else none

/-- R226: a routine that fetches outside its extent ends. -/
def State.unfetched (s : State) (a : Act) : State :=
  match a with
  | .routine b t r =>
    (match NMap.get? (s.tenon b t).routines r with
     | some R => if s.device.inReset ∨ R.hold ≠ .running ∨ R.couts ≠ 0 then s else s.vxEnd b t r R 0x0001
     | none => s)
  | _ => s

/-! ### Progress (R348) -/

/-- The cells of a launch at a bent. -/
def Bent.cellsOf (B : Bent) (lid : Nat) : List (Cell × Side) := B.cells.filter (fun c => c.2.lid == lid)

/-- The registers of an instruction that may leave its strand as it was: a branch to itself. -/
def branchUses (i : Instr) : Option Uses :=
  match i with
  | .brEq a b _ | .brNe a b _ | .brLt a b _ | .brGe a b _ | .brLtu a b _ | .brGeu a b _ => some { rx := [a, b] }
  | .bcS _ _ | .bcC _ _ => some {}
  | .bsigLt a _ _ | .bsigGe a _ _ => some { rf := [a] }
  | .jal d _ => some { wx := [d] }
  | .jr d a _ => some { rx := [a], wx := [d] }
  | .lbeg _ a _ => some { rx := [a] }
  | _ => none

/-- Whether a strand issued: it is not as it was, or its instruction is a branch to itself that nothing held. -/
def State.issued (s : State) (st : Strand) (u : Option Strand) : Bool :=
  u != some st || (s.open? st && (branchUses ((s.launch st.lid).fetch st.pc)).any (fun r => (st.blocking r).isEmpty))

/-- R348: the collectives of a launch as their steps advance; sending a message again advances nothing. -/
def Launch.scarfSteps (L : Launch) : NMap Scarf := L.scarfs.map (fun c => (c.1, { c.2 with lastSend := 0 }))

/-- Whether a launch advanced between two states: a strand issued, a cell moved, or a walk, Scarf step or publish
advanced. -/
def State.advanced (s t : State) (lid : Nat) : Bool :=
  let region := s.regionOf lid
  (match t.cur with
   | .strand b k => (match s.strand? b k with | some st => st.lid == lid && s.issued st (t.strand? b k) | none => false)
   | _ => false)
    || region.any (fun b => (s.bent b).cellsOf lid != (t.bent b).cellsOf lid
        || (s.bent b).walks != (t.bent b).walks || (s.bent b).inbuf != (t.bent b).inbuf)
    || (s.launch lid).scarfSteps != (t.launch lid).scarfSteps || (s.launch lid).pubAfter != (t.launch lid).pubAfter

/-- Every launch that advanced credited with the time. -/
def State.credit (s t : State) : State :=
  { t with launches := t.launches.map (fun p => if s.advanced t p.1 then (p.1, { p.2 with lastProgress := t.dtime }) else p) }

/-! ### The automatic policy -/

/-- What the automatic policy does next: an act, or a step of a unit whose turn it is. -/
inductive Auto where
  | act (a : Act)
  | remoteRequest (k : Nat)
  | remoteResponse (k : Nat)
  | tableWalk (die : Nat)
  | tlbMissRetry (die : Nat)
  | pageScrub (page : Nat)
  | dispatchDecision (p : Nat)
  | placement (p : Nat)
  | contextResidencyEnd (p c : Nat)
  | tlbinvComplete (p : Nat)
  | preemptQuiescent (p : Nat)
  | preemptTimeout (p : Nat)
  | hangDetected (launch : Nat)
  | regionDrain (launch : Nat)
  | regionRollback (launch : Nat)
  | partitionOffline (p : Nat)
  | scarfStepTimeout (launch bt : Nat)
  | scarfResend (launch bt : Nat)
  | deadlockDetection (b k : Nat)
  deriving DecidableEq, Repr, Inhabited

/-- The acts of a strand of a bent. -/
def strandActs (b : Nat) (p : Nat × Strand) : List Act :=
  let ops : List Act := p.2.ops.map (fun o =>
    .device (if o.kind.isLoad then .loadReturn b p.1 o.id else .storeCompletion b p.1 o.id))
  .strand b p.1 :: .device (.strandWake b p.1) :: .device (.strandDone b p.1) :: ops

/-- The acts of a VX tenon. -/
def tenonActs (b : Nat) (p : Nat × Tenon) : List Act :=
  let parts : List (List Act) :=
    [p.2.routines.map (fun r => .routine b p.1 r.1), p.2.routines.map (fun r => .device (.routineEnd b p.1 r.1)),
     p.2.longs.map (fun o => .device (.longLatencyComplete b p.1 o.id)),
     p.2.pendings.map (fun o => .device (.partialCombine b p.1 o.dst))]
  parts.flatten

/-- The acts of a matrix tenon. -/
def mxActs (b : Nat) (p : Nat × Mx) : List Act :=
  let parts : List (List Act) :=
    [p.2.rows.zipIdx.map (fun r => .device (.mxRowFire b p.1 r.2)), p.2.inFlight.map (fun f => .device (.firingLanded b p.1 f.id))]
  parts.flatten

/-- The acts of a bent. -/
def State.bentActs (s : State) (b : Nat) : List Act :=
  let B := s.bent b
  let each (n : Nat) (f : Nat → Instr) : List Act := (List.range n).map (fun k => .device (f k))
  let engines : List Act := (List.range 16).map (fun e => .engine b e)
  let parts : List (List Act) :=
    [B.strands.flatMap (strandActs b), B.tenons.flatMap (tenonActs b), engines, each 16 (.rendezvousOperand b),
     each 16 (.markerReceipt b), B.mx.flatMap (mxActs b), each 16 (.continuationResume b), each 16 (.feedbackAccept b),
     each 16 (.roundEntry b), each 2 (.walkBegin b), each 2 (.walkCellEmit b), each 2 (.walkbCounterRead b),
     each 2 (.walkCompletion b), each B.gr.length (.grEnqueue b), [.device (.grReservation b), .device (.mortiseSlot b)]]
  parts.flatten

/-- The HBM channels that hold atomics of a launch. -/
def State.heldChannels (s : State) (lid : Nat) : List Nat :=
  ((s.strandsOf lid).flatMap (fun e => e.2.2.ops.filterMap (fun o =>
    match o.path with
    | .channel c => if o.held then some c else none
    | _ => none))).eraseDups

/-- The acts of a launch. -/
def State.launchActs (s : State) (lid : Nat) : List Act :=
  let L := s.launch lid
  let parts : List (List Act) :=
    [L.conts.zipIdx.map (fun c => .device (.continuationReady lid c.2)), L.pubAfter.map (fun bt => .device (.publishComplete lid bt)),
     L.scarfs.map (fun c => .device (.scarfStepComplete lid c.1)),
     (s.heldChannels lid).map (fun c => .device (.hbmAtomicRoundClose lid c)), [.device (.launchCompletion lid)]]
  parts.flatten

/-- The acts of a partition. -/
def State.partActs (s : State) (p : Nat) : List Auto :=
  let ends : List Auto := s.ctxs.map (fun c => .contextResidencyEnd p c.1)
  let l : List Auto := [.dispatchDecision p, .placement p, .tlbinvComplete p, .preemptQuiescent p, .preemptTimeout p, .partitionOffline p]
  l ++ ends

/-- The acts of the automatic policy at a bent. -/
def State.bentMenu (s : State) (b : Nat) : List Auto :=
  let acts : List Auto := (s.bentActs b).map .act
  acts ++ (List.range (s.bent b).stills.length).map (fun k => .deadlockDetection b k)

/-- The acts of the automatic policy for a launch. -/
def State.launchMenu (s : State) (lid : Nat) : List Auto :=
  let parts : List (List Auto) :=
    [(s.launchActs lid).map .act, [.regionDrain lid, .regionRollback lid, .hangDetected lid],
     (s.launch lid).scarfs.flatMap (fun c => [.scarfStepTimeout lid c.1, .scarfResend lid c.1])]
  parts.flatten

/-- The acts that the automatic policy takes in turn. -/
def State.menu (s : State) : List Auto :=
  let parts : List (List Auto) :=
    [(s.bents.filter (fun p => p.2.launch.isSome)).flatMap (fun p => s.bentMenu p.1), s.launches.flatMap (fun p => s.launchMenu p.1),
     (List.range s.packets.length).flatMap (fun k => [.remoteRequest k, .remoteResponse k]),
     s.dies.flatMap (fun p => [.tableWalk p.1, .tlbMissRetry p.1]), s.scrubQueue.map (fun q => .pageScrub q.1),
     s.parts.flatMap (fun p => s.partActs p.1)]
  parts.flatten

/-- With nothing on the agenda, the acts of the menu come in turn. -/
def State.pick (s : State) : Option Auto := let m := s.menu; m[s.auto % m.length]?

/-! ### The next turn -/

/-- What a step does, and the state in which it does it: the head of the agenda after its time, else the automatic policy's
pick a nanosecond later. -/
def State.turn (s : State) : Option Auto × State :=
  match s.agenda with
  | t :: l => (some (.act t.act), { s with agenda := l, dtime := s.dtime + t.dt })
  | [] => (s.pick, { s with auto := s.auto + 1, dtime := s.dtime + 1 })

end Sys2Proof.Machine
end

