-- ==== Sys2Proof/Machine/Xlate.lean ====
section
/-! DEFINITION. Translation as units carry it out: walks and retries (R335), the page scrub (R343) and invalidations (R336). -/

namespace Sys2Proof.Machine

/-- The storage range of a TLB entry. -/
def TlbEntry.range (e : TlbEntry) : Nat × Nat :=
  (if e.host then hostAddr e.pa else e.pa, if e.big then 2 ^ 25 else 2 ^ 16)

/-- R336: whether an access of an entry's context in the range of the entry is not yet performed: of a strand, or of a collective that
may still read its contribution again. -/
def State.entryInUse (s : State) (e : TlbEntry) : Bool :=
  let hit (st : Strand) : Bool :=
    st.ops.any (fun o => !o.done && (o.path.kind == 1 || o.path.kind == 2) && o.ranges.any (overlaps e.range))
  s.launches.any (fun l => l.2.ctx == e.ctx
    && ((s.strandsOf l.1).any (fun x => hit x.2.2) || (l.2.conts ++ l.2.readyList).any (fun c => hit c.st)
      || l.2.scarfs.any (fun c => !c.2.unsent.isEmpty && c.2.src.any (fun a => inRange e.range.1 e.range.2 a.1))))

/-- R335: an entry placed in a TLB of n, and the entry given up where it is full, which the manual does not name (log entry 6). -/
def tlbPlace (n pick : Nat) (e : TlbEntry) (l : List TlbEntry) : List TlbEntry × List TlbEntry :=
  let l1 := l.filter (fun x => !(x.ctx == e.ctx && x.host == e.host && x.vpn == e.vpn))
  let v := Config.tlbVictim pick % n
  if l1.length < n then (l1 ++ [e], []) else (l1.eraseIdx v ++ [e], (l1.drop v).take 1)

/-- R335, R336: an entry for a source of a bent: in the bent's TLB, and in that of a walk engine; one given up is remembered while
accesses go through it. -/
def Bent.fillTlb (B : Bent) (nonce : Nat) (e : TlbEntry) (src : Nat) (inUse : TlbEntry → Bool) : Bent :=
  let x := tlbPlace 512 nonce e B.tlb
  let y := if 16 ≤ src ∧ src < 18 then some (tlbPlace 64 (nonce + 1) e (NMap.getD B.walkTlb (src - 16) [])) else none
  { B with
    tlb := x.1
    walkTlb := match y with | some w => NMap.set B.walkTlb (src - 16) w.1 | none => B.walkTlb
    tlbOld := (B.tlbOld ++ x.2 ++ (match y with | some w => w.2 | none => [])).filter inUse }

/-- R334: a walk of a context failed for a source: the access of the strand that waits for the page, of the walk engine or of the
egress fails, where it is still one of that context. -/
def State.failSource (s : State) (ctx key b src : Nat) : State :=
  if src < 16 then
    match s.strand? b src with
    | some st =>
      if st.state = .waiting (.translation key) ∧ (s.launch st.lid).ctx = ctx then s.setStrand b src { st with transBad := some key }
      else s
    | none => s
  else if (s.bent b).launch.all (fun lid => (s.launch lid).ctx == ctx) then
    s.updBent b (fun B => { B with transBad := NMap.set B.transBad src key })
  else s

/-- R334, R335: the outcome of a walk for one of its sources. -/
def State.fillSource (s : State) (m : Miss) (r : Option TlbEntry) (q : Nat × Nat) : State :=
  match r with
  | some e => { s.updBent q.1 (fun B => B.fillTlb s.nonce e q.2 s.entryInUse) with nonce := s.nonce + 2 }
  | none => s.failSource m.ctx (transKey m.host (m.vpn * 65536)) q.1 q.2

/-- R335: the walk that finishes: the oldest one in progress; the oldest waiting miss starts. -/
def Die.finish (D : Die) : Die := { D with walks := D.walks.drop 1 ++ D.queue.take 1, queue := D.queue.drop 1 }

/-- R335: a table walk completes for every source that joined it. -/
def execTableWalk (die : Nat) (s : State) : Out :=
  let D := s.die die
  match D.walks with
  | [] => .next s
  | m :: _ => .next (m.sources.foldl (fun t q => t.fillSource m (m.entry s) q) (s.setDie die D.finish))

/-- R335: a miss that found the queue full comes again. -/
def execTlbMissRetry (die : Nat) (s : State) : Out :=
  let D := s.die die
  match D.retry with
  | [] => .next s
  | m :: l =>
    .next (s.setDie die ({ D with retry := l }.miss m))

/-! ### The scrub engine (R343) -/

/-- R343, R339: a page zeroed under the key of its new owner. The slots of an enabled queue in it keep their commands (R319). -/
def State.zeroPage (s : State) (page owner : Nat) : State :=
  { s with
    mem := s.mem.filter (fun c => !inRange (page * 65536) 65536 c.1 || s.inQueueSlots c.1)
    poison := s.poison.filter (fun u => !inRange (page * 65536) 65536 u || s.inQueueSlots u)
    pageOwner := NMap.set s.pageOwner page owner
    device := { s.device with pageKeys := NMap.set s.device.pageKeys page (s.ctxKey owner) } }

/-- R343: a page zeroed, its owner changed; the accesses that wait for it go on. -/
def execPageScrub (page : Nat) (s : State) : Out :=
  match s.scrubQueue.find? (fun q => q.1 == page) with
  | none => .next s
  | some q =>
    .next { s.zeroPage page q.2 with scrubQueue := removeFirst (fun x => x == q) s.scrubQueue }

/-! ### Invalidations (R336) -/

/-- R336: fields of a TLBINV value. -/
def invCtx (v : Word) : Nat := v.toNat / 2 ^ 57 % 64
def invAll (v : Word) : Bool := v.getLsbD 56
def invHost (v : Word) : Bool := v.getLsbD 55
def invVpn (v : Word) : Nat := v.toNat % 2 ^ 36

/-- R336: whether a TLB entry is one that a write covers. -/
def invCovers (v : Word) (e : TlbEntry) : Bool :=
  e.ctx == invCtx v && e.host == invHost v && (invAll v || e.covers (invCtx v) (invHost v) (invVpn v * 65536))

/-- The bents of a partition. -/
def partBents (p : Nat) : List Nat := (List.range 24).map (fun k => p * 24 + k)

/-- R336: a write of TLBINV queued: BUSY set, reserved bits kept 0. -/
def State.queueInv (s : State) (p : Nat) (v : Word) : State :=
  let x : Word := v &&& 0x7F80000FFFFFFFFF
  s.updPart p (fun P => { P with tlbinv := x, tlbinvPending := P.tlbinvPending ++ [x] })

def execTlbinvPage (p : Nat) (v : Word) (s : State) : Out := if invAll v then .next s else .next (s.queueInv p v)
def execTlbinvAll (p : Nat) (v : Word) (s : State) : Out := if invAll v then .next (s.queueInv p v) else .next s

/-- The translations that a bent holds, and those given up in which accesses are in flight. -/
def Bent.entries (B : Bent) : List TlbEntry := B.tlb ++ (NMap.vals B.walkTlb).flatten ++ B.tlbOld

/-- R336: accesses translated through the entries that a write covers, in any bent, and not yet performed. -/
def State.invBusy (s : State) (v : Word) : Bool :=
  s.bents.any (fun x => (x.2.entries.filter (invCovers v)).any s.entryInUse)

/-- Entries removed from a bent. -/
def Bent.dropEntries (B : Bent) (f : TlbEntry → Bool) : Bent :=
  { B with
    tlb := B.tlb.filter (fun e => !f e), tlbOld := B.tlbOld.filter (fun e => !f e)
    walkTlb := B.walkTlb.map (fun w => (w.1, w.2.filter (fun e => !f e))) }

/-- R336: the entries removed from every bent. -/
def State.dropEntries (s : State) (f : TlbEntry → Bool) : State :=
  { s with bents := s.bents.map (fun x => (x.1, x.2.dropEntries f)) }

/-- R336: what TLBINV reads: BUSY while an invalidation is incomplete. -/
def Part.readTlbinv (P : Part) : Word := if P.tlbinvPending.isEmpty then P.tlbinv else P.tlbinv ||| 0x8000000000000000

/-- R336: the oldest invalidation is complete. -/
def execTlbinvComplete (p : Nat) (s : State) : Out :=
  match (s.part p).tlbinvPending with
  | [] => .next s
  | v :: l =>
    if s.invBusy v then .next s
    else .next ((s.dropEntries (invCovers v)).updPart p (fun P => { P with tlbinvPending := l }))

end Sys2Proof.Machine
end

