-- ==== Sys2Proof/Machine/Box.lean ====
section
/-! DEFINITION. What the command processor reads: commands (R321, R322), containers (R102 to R105), launch headers (R327) and
their tables (R328, R329), and its accesses in a context (R332 to R335, R343). -/

namespace Sys2Proof.Machine

/-! ### Commands (R321, R322) -/

structure Cmd where
  kind : Nat
  tier : Nat
  ctx : Nat
  flags : Nat
  sinks : Nat
  deadline : Nat
  cbase : Nat
  compl : Nat
  bufva : Nat
  rest : List Byte
  deriving DecidableEq, Repr, Inhabited

/-- R321. -/
def Cmd.of (l : List Byte) : Cmd :=
  { kind := bytesAt l 0 1, tier := bytesAt l 1 1, ctx := bytesAt l 2 1, flags := bytesAt l 3 1, sinks := bytesAt l 4 4
    deadline := bytesAt l 8 8, cbase := bytesAt l 16 8, compl := bytesAt l 24 8, bufva := bytesAt l 32 8, rest := l.drop 40 }

/-- Bytes that must be zero. -/
def allZero (l : List Byte) : Bool := l.all (fun x => x == 0)

/-- R322: what refuses an append. -/
def Cmd.refused (c : Cmd) : Bool :=
  c.kind != 1 || (decide (8 ≤ c.tier) && c.tier != 0xFF) || decide (64 ≤ c.ctx) || decide (2 ≤ c.flags) || !allZero c.rest
    || c.cbase % 64 != 0 || c.compl % 64 != 0 || c.bufva % 65536 != 0

def Cmd.serial (c : Cmd) : Bool := c.flags % 2 == 1

/-! ### The command processor's accesses -/

/-- R332 to R334: an address translated by a walk of its own; it has 52 bits. -/
def State.cpWalk (s : State) (part ctx : Nat) (host write : Bool) (va : Nat) : Tr :=
  if (host ∧ (s.ctx ctx).hroot = 0) ∨ 2 ^ 52 ≤ va then .fail
  else
    match s.walkEntry ctx host (va / 65536) with
    | some e => s.useEntry part ctx write va e
    | none => .fail

/-- Where n bytes of a page lie and the image that they belong to, a page of another owner zeroed first (R343); bytes of a queue's
slots are not reached (R319). -/
def State.cpTouch (s : State) (part ctx : Nat) (host write : Bool) (va n : Nat) : State × Option (Nat × Option Nat) :=
  let reach (t : State) (x : Tr) : Option (Nat × Option Nat) :=
    match x with
    | .ok loc img => if t.meetsQueue loc n then none else some (loc, img)
    | _ => none
  match s.cpWalk part ctx host write va with
  | .scrub page =>
    let t := s.zeroPage page ctx
    (t, reach t (t.cpWalk part ctx host write va))
  | x => (s, reach s x)

/-- The pieces of n bytes that lie within pages of 64 KiB: address and length. -/
def pagePieces (va n : Nat) : List (Nat × Nat) :=
  if n = 0 then []
  else
    (List.range ((va + n - 1) / 65536 - va / 65536 + 1)).map (fun k =>
      let lo := Nat.max va ((va / 65536 + k) * 65536)
      (lo, Nat.min (va + n) ((va / 65536 + k + 1) * 65536) - lo))

/-- Bytes read by the command processor in a context; none where an address does not translate. -/
def State.cpRead (s : State) (part ctx va n : Nat) : State × Option (List Byte) :=
  (pagePieces va n).foldl (fun r p =>
    match r.2 with
    | none => r
    | some l =>
      let x := r.1.cpTouch part ctx false false p.1 p.2
      (x.1, x.2.map (fun y => l ++ x.1.bytesVia part y.2 y.1 p.2))) (s, some [])

/-- Bytes within a page written by the command processor or the host in a context, where the address translates. -/
def State.cpWrite (s : State) (part ctx : Nat) (host : Bool) (va : Nat) (bytes : List Byte) : State :=
  let x := s.cpTouch part ctx host true va bytes.length
  match x.2 with
  | some y => x.1.poke y.1 bytes
  | none => x.1

/-! ### The container (R102, R103) -/

/-- R102: an entry of the section table. -/
structure Sect where
  type : Nat
  align : Nat
  off : Nat
  size : Nat
  reserved : Bool
  deriving DecidableEq, Repr, Inhabited

def Sect.of (l : List Byte) : Sect :=
  { type := bytesAt l 0 4, align := bytesAt l 4 4, off := bytesAt l 8 8, size := bytesAt l 16 8
    reserved := !allZero (l.drop 24) }

/-- R102: the 64-byte header of a container. -/
structure BoxHead where
  magic : Bool
  nsec : Nat
  secoff : Nat
  size : Nat
  reserved : Bool
  deriving DecidableEq, Repr, Inhabited

def BoxHead.of (l : List Byte) : BoxHead :=
  { magic := bytesAt l 0 4 == 0x5A4F4C4E && bytesAt l 4 2 == 1, nsec := bytesAt l 6 2, secoff := bytesAt l 8 8
    size := bytesAt l 16 8, reserved := !allZero ((l.drop 24).take 40) }

/-- R102: MAGIC, VERSION and the limits of NSEC and SECOFF. -/
def BoxHead.ok (h : BoxHead) : Bool := h.magic && decide (1 ≤ h.nsec) && decide (h.nsec ≤ 64) && h.secoff % 8 == 0

/-- The header and section table of the container at an address. -/
def State.boxAt (s : State) (part ctx cbase : Nat) : State × Option (BoxHead × List Sect) :=
  match s.cpRead part ctx cbase 64 with
  | (t, none) => (t, none)
  | (t, some l) =>
    let h := BoxHead.of l
    if h.ok then
      match t.cpRead part ctx (cbase + h.secoff) (32 * h.nsec) with
      | (u, none) => (u, none)
      | (u, some m) => (u, some (h, (chunks 32 64 m).map Sect.of))
    else (t, none)

/-- R103: the section of a type. -/
def sectOf (l : List Sect) (type : Nat) : Option Sect := l.find? (fun x => x.type == type)

/-- R103, R105: sections that overlap; an empty one that lies inside another counts (DESIGN CHOICE, log entry 47). -/
def sectsMeet : List Sect → Bool
  | [] => false
  | x :: l => l.any (fun y => decide (x.off < y.off + y.size) && decide (y.off < x.off + x.size)) || sectsMeet l

/-- R103: a type that the command processor knows. -/
def sectKnown (t : Nat) : Bool := (decide (1 ≤ t) && decide (t ≤ 9)) || decide (0x8000 ≤ t)

/-- R102, R105: the container's frame is in order. -/
def boxOk (h : BoxHead) (l : List Sect) : Bool :=
  !h.reserved && l.all (fun x => !x.reserved && sectKnown x.type && decide (x.align ≤ 16) && decide (x.off + x.size ≤ h.size))
    && !sectsMeet l && (List.range 10).all (fun t => decide ((l.filter (fun x => x.type == t)).length ≤ 1))
    && (match sectOf l 9 with | some x => x.size == 64 | none => false)

/-! ### The launch header (R327) -/

structure LHead where
  entry : Nat
  deadline : Nat
  widths : List Nat
  nfields : Nat
  region : Nat
  strands : Nat
  tier : Nat
  flags : Nat
  cstore : Nat
  detspill : Nat
  tvec : Nat
  reserved : Bool
  deriving DecidableEq, Repr, Inhabited

def LHead.of (l : List Byte) : LHead :=
  { entry := bytesAt l 0 8, deadline := bytesAt l 8 8, widths := ((l.drop 16).take 6).map BitVec.toNat, nfields := bytesAt l 22 1
    region := bytesAt l 23 1, strands := bytesAt l 24 1, tier := bytesAt l 25 1, flags := bytesAt l 26 1
    cstore := bytesAt l 28 4, detspill := bytesAt l 32 8, tvec := bytesAt l 40 8
    reserved := bytesAt l 27 1 != 0 || !allZero ((l.drop 48).take 16) || decide (2 ≤ bytesAt l 26 1) }

def noOffset : Nat := 2 ^ 64 - 1

/-- R327: an offset of an instruction in a text of n bytes. -/
def inText (n off : Nat) : Bool := off % 4 == 0 && decide (off + 4 ≤ n)

/-- R327, R99: the header is valid for a text of n bytes. -/
def LHead.ok (h : LHead) (n : Nat) : Bool :=
  decide (1 ≤ h.nfields) && decide (h.nfields ≤ 6)
    && (h.widths.take h.nfields).all (fun w => decide (1 ≤ w) && decide (w ≤ 64)) && (h.widths.drop h.nfields).all (fun w => w == 0)
    && decide (h.widths.sum ≤ 64) && decide (1 ≤ h.region) && decide (h.region ≤ 24) && decide (1 ≤ h.strands)
    && decide (h.strands ≤ 16) && decide (h.tier ≤ 7) && inText n h.entry && (h.tvec == noOffset || inText n h.tvec) && !h.reserved

/-! ### The tables (R328, R329) -/

/-- R104, R328: an entry of the buffer table. -/
def bufferOf (l : List Byte) : Nat × Buffer :=
  let f := bytesAt l 1 1
  let d := bytesAt l 24 8
  (bytesAt l 0 1,
   { shadow := f % 2 == 1, tagged := f / 2 % 2 == 1, spad := f / 4 % 2 == 1, width := bytesAt l 2 1, bytes := bytesAt l 8 8
     boff := bytesAt l 16 8, dataOff := if d = noOffset then none else some d, tagOff := bytesAt l 32 8 })

/-- R328: the limits of a buffer entry, of n bytes of data; a DATAOFF beyond them refuses the container (DESIGN CHOICE, log
entry 47). -/
def bufferOk (n : Nat) (l : List Byte) : Bool :=
  let B := (bufferOf l).2
  decide (bytesAt l 1 1 < 8) && allZero ((l.drop 3).take 5) && (!B.tagged || B.width == 1 || B.width == 2 || B.width == 4)
    && B.boff % (if B.spad then 256 else 65536) == 0 && (match B.dataOff with | some d => decide (d ≤ n) | none => true)

/-- R329: the scratchpad ranges of a buffer: offset and length. -/
def Buffer.spadRanges (B : Buffer) : List (Nat × Nat) :=
  if !B.spad then [] else if B.shadow then [(B.boff, B.bytes), (B.second, B.bytes)] else [(B.boff, B.bytes)]

def rangesMeet : List (Nat × Nat) → Bool
  | [] => false
  | r :: l => l.any (overlaps r) || rangesMeet l

/-- R329: the ranges lie within a scratchpad and apart. -/
def spadOk (bs : List Buffer) : Bool :=
  let rs := bs.flatMap Buffer.spadRanges
  rs.all (fun r => decide (r.1 + r.2 ≤ 2 ^ 22)) && !rangesMeet rs

/-- R328: limits of the other tables. -/
def streamOk (l : List Byte) : Bool := decide (bytesAt l 0 1 ≤ 1) && allZero (l.drop 2)
def channelOk (l : List Byte) : Bool :=
  decide (bytesAt l 0 1 < 64) && decide (1 ≤ bytesAt l 1 1) && decide (bytesAt l 1 1 ≤ 64) && decide (1 ≤ bytesAt l 2 2)
    && decide (bytesAt l 2 2 ≤ 256) && allZero (l.drop 4)
def queueOk (l : List Byte) : Bool :=
  decide (bytesAt l 0 1 < 16) && decide (bytesAt l 1 1 ≤ 1) && allZero ((l.drop 2).take 6)
    && decide (bytesAt l 33 1 < 2) && allZero ((l.drop 34).take 6)

/-- R328: a table of whole entries. -/
def entriesOf (n : Nat) (l : List Byte) : List (List Byte) := chunks n (l.length / n) l
def tableOk (n : Nat) (ok : List Byte → Bool) (l : List Byte) : Bool := l.length % n == 0 && (entriesOf n l).all ok

/-! ### A container read whole (R105, R326) -/

/-- What a container gives a launch. -/
structure Loaded where
  head : LHead := default
  raw : List Byte := []
  text : List Byte := []
  entries : List (Option Nat) := []
  opwords : List Word32 := []
  images : List (Nat × Nat) := []
  weights : List Byte := []
  data : List Byte := []
  streams : NMap (Nat × Nat) := []
  chans : NMap Chan := []
  queues : NMap IncQueue := []
  bufs : NMap Buffer := []
  deriving DecidableEq, Repr, Inhabited

/-- R103, R201: the VX routine section: 256 entries, then the op-words. An empty section counts as absent, and one that is shorter
than its entries or no whole number of words refuses the container (DESIGN CHOICE, log entry 47). -/
def vxOk (l : List Byte) : Bool := l.isEmpty || (decide (1024 ≤ l.length) && l.length % 4 == 0)

def entryOf (l : List Byte) : Option Nat := let n := leNat l; if n = 2 ^ 32 - 1 then none else some n

def vxEntries (l : List Byte) : List (Option Nat) := (chunks 4 256 (l.take 1024)).map entryOf

def vxWords (l : List Byte) : List Word32 := (chunks 4 (l.length / 4) (l.drop 1024)).map (fun w => BitVec.ofNat 32 (leNat w))

/-- R103: the image identifiers and versions of a weights section, each descriptor followed by its data; none where a
descriptor's reserved bytes are not zero or its data run past the section. -/
def imagesOf : Nat → List Byte → Option (List (Nat × Nat))
  | 0, _ => none
  | _ + 1, [] => some []
  | n + 1, l =>
    let size := bytesAt l 24 8
    if l.length < 32 + size ∨ bytesAt l 12 4 ≠ 0 then none
    else (imagesOf n (l.drop (32 + size))).map (fun r => (bytesAt l 0 4, bytesAt l 4 2) :: r)

/-- The sections of types 1 to 9 read, an absent one empty. -/
def State.sectsRead (s : State) (part ctx cbase : Nat) (l : List Sect) : State × Option (List (List Byte)) :=
  (List.range 9).foldl (fun r k =>
    match r.2 with
    | none => r
    | some out =>
      match sectOf l (k + 1) with
      | none => (r.1, some (out ++ [[]]))
      | some x =>
        let y := r.1.cpRead part ctx (cbase + x.off) x.size
        (y.1, y.2.map (fun b => out ++ [b]))) (s, some [])

/-- R105, R328, R329: whether the tables of a container are in order. -/
def tablesOk (ss : List (List Byte)) : Bool :=
  let n := (ss.getD 3 []).length
  vxOk (ss.getD 1 []) && (imagesOf ((ss.getD 2 []).length + 1) (ss.getD 2 [])).isSome && tableOk 8 streamOk (ss.getD 4 [])
    && tableOk 8 channelOk (ss.getD 5 []) && tableOk 40 queueOk (ss.getD 6 []) && tableOk 40 (bufferOk n) (ss.getD 7 [])
    && spadOk ((entriesOf 40 (ss.getD 7 [])).map (fun l => (bufferOf l).2))

/-- The sections as a launch uses them. -/
def Loaded.of (ss : List (List Byte)) : Loaded :=
  { head := LHead.of (ss.getD 8 []), raw := ss.getD 8 [], text := ss.getD 0 [], entries := vxEntries (ss.getD 1 [])
    opwords := vxWords (ss.getD 1 []), images := (imagesOf ((ss.getD 2 []).length + 1) (ss.getD 2 [])).getD []
    weights := ss.getD 2 [], data := ss.getD 3 []
    streams := (entriesOf 8 (ss.getD 4 [])).zipIdx.map (fun x => (x.2, (bytesAt x.1 0 1, bytesAt x.1 1 1)))
    chans := (entriesOf 8 (ss.getD 5 [])).foldl (fun m l =>
      NMap.set m (bytesAt l 0 1) (.data (bytesAt l 1 1) (bytesAt l 2 2) [])) []
    queues := (entriesOf 40 (ss.getD 6 [])).foldl (fun m l =>
      NMap.set m (bytesAt l 0 1) { onRound := bytesAt l 1 1 == 1, route := l.drop 8 }) []
    bufs := (entriesOf 40 (ss.getD 7 [])).foldl (fun m l => NMap.set m (bufferOf l).1 (bufferOf l).2) [] }

/-- R92, R201: every op-word of the routine section is an instruction, and there are at most 4,096. -/
def Loaded.routinesOk (x : Loaded) : Bool := decide (x.opwords.length ≤ 4096) && x.opwords.all (fun w => (decodeOpw w).isSome)

/-- R105, R92, R327: a container read and checked: what it holds, or the code of R331. -/
def State.loadBox (s : State) (part ctx cbase : Nat) : State × (Nat ⊕ Loaded) :=
  match s.boxAt part ctx cbase with
  | (t, none) => (t, .inl 0x01)
  | (t, some (h, l)) =>
    if boxOk h l then
      match t.sectsRead part ctx cbase l with
      | (u, none) => (u, .inl 0x01)
      | (u, some ss) =>
        let x := Loaded.of ss
        (u, if !tablesOk ss then .inl 0x01 else if !x.routinesOk then .inl 0x02
            else if !x.head.ok x.text.length then .inl 0x03 else .inr x)
    else (t, .inl 0x01)

/-- R399: the launch header of a candidate: its bytes, or the fault that it ends with. -/
def State.readHead (s : State) (part ctx cbase : Nat) : State × (Nat ⊕ List Byte) :=
  match s.boxAt part ctx cbase with
  | (t, none) => (t, .inl 0x01)
  | (t, some (_, l)) =>
    match sectOf l 9 with
    | none => (t, .inl 0x01)
    | some x =>
      match t.cpRead part ctx (cbase + x.off) 64 with
      | (u, none) => (u, .inl 0x01)
      | (u, some b) =>
        (u, if (LHead.of b).ok (match sectOf l 1 with | some y => y.size | none => 0) then .inr b else .inl 0x03)

end Sys2Proof.Machine
end

