-- ==== Sys2Proof/Machine/Sha.lean ====
section
/-! DEFINITION. SHA-512, which R378, R380 and R383 name for the command hash of a journal record and the firmware hashes of a report.
The manual does not write the function out: it is taken from FIPS 180-4 (PRESUMED, log entry 9). -/

namespace Sys2Proof.Machine

/-- x with as many of its n low bits set as leave its power k at most m. -/
def rootFloor (k m : Nat) : Nat → Nat → Nat
  | 0, x => x
  | n + 1, x => rootFloor k m n (if (x + 2 ^ n) ^ k ≤ m then x + 2 ^ n else x)

/-- The first 64 bits of the fractional part of the root of order k of a small number. -/
def shaFraction (k p : Nat) : Word := BitVec.ofNat 64 (rootFloor k (p * 2 ^ (64 * k)) 70 0)

/-- The primes below 410, of which there are eighty. -/
def shaPrimes : List Nat :=
  (List.range 410).filter (fun n => decide (2 ≤ n) && (List.range 21).all (fun d => decide (d < 2) || n == d || n % d != 0))

/-- The constants of the rounds come from the cube roots of the primes. -/
def shaRoundConstants : List Word := shaPrimes.map (shaFraction 3)

/-- The running hash: eight words, a to h. -/
structure Sha where
  word : Vector Word 8
  deriving DecidableEq, Repr, Inhabited

/-- It begins with the square roots of the first eight primes. -/
def shaInit : Sha := ⟨Vector.ofFn (fun i => shaFraction 2 (shaPrimes.getD i 0))⟩

/-- The exclusive or of three rotations. -/
def rot3 (x : Word) (i j k : Nat) : Word := x.rotateRight i ^^^ x.rotateRight j ^^^ x.rotateRight k

/-- One round with its constant and its word of the message schedule: every word moves up one place, with a new first word and a
sum at the fifth. -/
def Sha.round (s : Sha) (c w : Word) : Sha :=
  let v := s.word
  let choice := (v[4] &&& v[5]) ||| (~~~v[4] &&& v[6])
  let most := (v[0] &&& (v[1] ||| v[2])) ||| (v[1] &&& v[2])
  let x := v[7] + rot3 v[4] 14 18 41 + choice + c + w
  let moved := Vector.ofFn (fun i : Fin 8 => v[(i.val + 7) % 8]'(Nat.mod_lt _ (by decide)))
  ⟨(moved.set 0 (x + rot3 v[0] 28 34 39 + most)).set 4 (v[3] + x)⟩

/-- The window of the schedule, its sixteen next words, moved on by one. -/
def shaExtend (w : List Word) : List Word :=
  let x := w.getD 1 0
  let y := w.getD 14 0
  w.drop 1 ++ [w.getD 0 0 + (x.rotateRight 1 ^^^ x.rotateRight 8 ^^^ x >>> 7) + w.getD 9 0 +
    (y.rotateRight 19 ^^^ y.rotateRight 61 ^^^ y >>> 6)]

def shaRounds : List Word → List Word → Sha → Sha
  | [], _, s => s
  | k :: ks, w, s => shaRounds ks (shaExtend w) (s.round k (w.getD 0 0))

def beNat (l : List Byte) : Nat := l.foldl (fun n b => n * 256 + b.toNat) 0

def beBytes (n v : Nat) : List Byte := (leBytes n v).reverse

/-- A block of 128 bytes taken into the hash. -/
def Sha.block (s : Sha) (l : List Byte) : Sha :=
  let w := (List.range 16).map (fun i => BitVec.ofNat 64 (beNat ((l.drop (8 * i)).take 8)))
  ⟨Vector.zipWith (· + ·) s.word (shaRounds shaRoundConstants w s).word⟩

def shaBlocks : Nat → List Byte → Sha → Sha
  | 0, _, s => s
  | n + 1, l, s => shaBlocks n (l.drop 128) (s.block (l.take 128))

/-- The hash: the message, a bit 1, bits 0, and its length in bits, in blocks of 128 bytes. -/
def sha512 (l : List Byte) : List Byte :=
  let m := l ++ 0x80 :: List.replicate ((128 - (l.length + 17) % 128) % 128) 0 ++ beBytes 16 (8 * l.length)
  let s := shaBlocks (m.length / 128) m shaInit
  s.word.toList.flatMap (fun w => beBytes 8 w.toNat)

end Sys2Proof.Machine
end

