-- ==== Sys2Proof/Machine/Queue.lean ====
section
/-! DEFINITION. Command queues: appends (R319 to R322), candidates and their headers (R323, R399), dispatch decisions (R324,
R325), completion records (R330) and the journal's records (R377 to R379), and contexts in residence (R338). -/

namespace Sys2Proof.Machine

def Part.qcb (P : Part) (q : Nat) : Qcb := NMap.getD P.qcbs q {}

def State.updQcb (s : State) (p q : Nat) (f : Qcb → Qcb) : State :=
  s.updPart p (fun P => { P with qcbs := NMap.modify P.qcbs q {} f })

/-! ### Completion records (R330) -/

/-- R330: STATUS. -/
def statusWord (status : Nat) (late : Bool) (fault : Nat) (cause : BitVec 16) : Nat :=
  status + (if late then 2 ^ 8 else 0) + fault % 256 * 2 ^ 16 + cause.toNat * 2 ^ 24

/-- R330: the fields of a record. -/
structure Record where
  status : Nat
  seq : Nat
  tdisp : Nat
  tdone : Nat
  fpc : Nat := 0
  fwho : Nat := 0
  deriving DecidableEq, Repr, Inhabited

/-- R330: bytes 8 to 63. -/
def Record.tail (r : Record) : List Byte :=
  leBytes 8 r.seq ++ leBytes 8 r.tdisp ++ leBytes 8 r.tdone ++ leBytes 8 r.fpc ++ leBytes 2 r.fwho ++ List.replicate 22 0

/-- R330: bytes 8 to 63 written, then bytes 0 to 7. -/
def State.writeRecord (s : State) (part ctx compl : Nat) (r : Record) : State :=
  match spaceOf 0 (BitVec.ofNat 64 compl) with
  | .dev va => (s.cpWrite part ctx false (va + 8) r.tail).cpWrite part ctx false va (leBytes 8 r.status)
  | .host va => (s.cpWrite part ctx true (va + 8) r.tail).cpWrite part ctx true va (leBytes 8 r.status)
  | _ => s

/-! ### Tiers and deadlines (R321, R323, R399) -/

/-- R323: the effective deadline, a signed 64-bit value. -/
def Part.effective (P : Part) (tier deadline : Nat) : Int :=
  (BitVec.ofInt 64 ((deadline : Int) - (P.tierOff.toList.getD tier 0 : Int))).toInt

/-- R321: DEADLINE, or the append time plus the offset of the header. -/
def Cmd.due (c : Cmd) (tapp offset : Nat) : Nat := if c.deadline = 0 then (tapp + offset) % 2 ^ 64 else c.deadline

def Cmd.tierOf (c : Cmd) (header : Nat) : Nat := if c.tier = 0xFF then header else c.tier

/-- R399: tier, resolved deadline and region size of a command whose header is held; 0 bents for one without a header. -/
def Held.facts (h : Held) (c : Cmd) (tapp : Nat) : Nat × Nat × Nat :=
  if h.fault = 0 then
    let x := LHead.of h.header
    (c.tierOf x.tier, c.due tapp x.deadline, x.region)
  else (c.tierOf 0, c.due tapp 0, 0)

/-! ### Candidates (R323, R347) -/

/-- R319: the command in a slot of a queue. -/
def State.cmdAt (s : State) (p q n : Nat) : List Byte :=
  let Q := (s.part p).qcb q
  Memory.getBytes s.mem (Q.base + 128 * (n % Nat.max Q.slots 1)) 128

/-- The command at a queue's head. -/
def State.headCmd (s : State) (p q : Nat) : Cmd := Cmd.of (s.cmdAt p q ((s.part p).qcb q).head)

/-- R374: the bents of a partition that a launch may be placed on. -/
def Part.placeable (P : Part) : Nat := ((List.range 24).filter (fun j => NMap.getD P.quarantined j 0 == 0)).length

/-- A candidate: a queue or 256 plus a pre-empted launch, and what R324 weighs. -/
structure Cand where
  sel : Nat
  seq : Nat
  tier : Nat
  deadline : Int
  need : Nat
  fault : Nat
  deriving DecidableEq, Repr, Inhabited

/-- R347: the pre-empted launch that is its queue's candidate: the one with the lowest sequence number. -/
def State.preemptedOf (s : State) (p q : Nat) : Option Nat :=
  ((s.launches.filter (fun l => l.2.part == p && l.2.queue == q && l.2.phase == .preempted)).foldl
    (fun (m : Option (Nat × Launch)) l => match m with | none => some l | some x => if l.2.seq < x.2.seq then some l else some x)
    none).map Prod.fst

/-- R323: the oldest command of a queue that has not been dispatched, with its header held. -/
def State.cmdCand (s : State) (p q : Nat) : Option Cand :=
  let P := s.part p
  match (P.qcb q).pend.head?, NMap.get? P.held q with
  | some (seq, tapp), some h =>
    if h.seq = seq then
      let f := h.facts (s.headCmd p q) tapp
      some ⟨q, seq, f.1, P.effective f.1 f.2.1, f.2.2, h.fault⟩
    else none
  | _, _ => none

/-- R347: a pre-empted launch as a candidate. -/
def State.launchCand (s : State) (p lid : Nat) : Cand :=
  let L := s.launch lid
  ⟨256 + lid, L.seq, L.tier, (s.part p).effective L.tier L.deadline, L.savedRegion.length, 0⟩

/-- R323, R347: a queue's candidate: a pre-empted launch of the queue, else its oldest command. -/
def State.candOf (s : State) (p q : Nat) : Option Cand :=
  match s.preemptedOf p q with
  | some lid => some (s.launchCand p lid)
  | none => s.cmdCand p q

/-- R323: SERIAL holds a command back while an earlier launch of its queue is not complete. -/
def State.serialWait (s : State) (p q seq : Nat) : Bool :=
  s.launches.any (fun l => l.2.part == p && l.2.queue == q && decide (l.2.seq < seq) && l.2.phase != .ended)

/-- R323, R338, R399: whether a candidate is eligible; SERIAL does not hold one whose header is no header. -/
def State.eligible (s : State) (p : Nat) (c : Cand) : Bool :=
  decide (c.need ≤ (s.part p).placeable) && (c.sel ≥ 256 ||
    (let x := s.headCmd p c.sel
     let C := s.ctx x.ctx
     C.en && !C.ending && (c.fault != 0 || !(x.serial && s.serialWait p c.sel c.seq))))

/-- The candidates of a partition. -/
def State.cands (s : State) (p : Nat) : List Cand := (List.range 256).filterMap (s.candOf p)

/-- R399: the header of a queue's candidate read and held, once its context is resident. -/
def State.holdHeader (s : State) (p q : Nat) : State :=
  let P := s.part p
  match (P.qcb q).pend.head? with
  | none => s
  | some (seq, _) =>
    let c := s.headCmd p q
    let C := s.ctx c.ctx
    let have_ := match NMap.get? P.held q with | some h => h.seq == seq | none => false
    if have_ || !C.en || C.ending then s
    else
      let r := s.readHead p c.ctx c.cbase
      r.1.updPart p (fun P =>
        { P with held := NMap.set P.held q (match r.2 with | .inl f => ⟨seq, f, []⟩ | .inr b => ⟨seq, 0, b⟩) })

/-- R323: the host told of candidates that need more bents than may be placed. -/
def State.reportLarge (s : State) (p : Nat) : State :=
  let P := s.part p
  let large := (s.cands p).filter (fun c => decide (P.placeable < c.need))
  let fresh := large.filter (fun c => !P.reported.contains c.seq)
  let queue (c : Cand) : Nat := if c.sel < 256 then c.sel else (s.launch (c.sel - 256)).queue
  fresh.foldl (fun t c => t.toHostMsg (.tooLarge p (queue c)))
    (s.updPart p (fun P => { P with reported := large.map (fun c => c.seq) }))

/-- R324: the candidate that is selected: the command at a queue's head or a pre-empted launch, whatever is pre-empted meanwhile. -/
def State.selectedCand (s : State) (p : Nat) : Option Cand :=
  (s.part p).selected.bind (fun n =>
    if n < 256 then s.cmdCand p n
    else if (s.launch (n - 256)).phase = .preempted then some (s.launchCand p (n - 256)) else none)

/-- R324: a selected command that is not eligible any more is deselected. -/
def State.deselect (s : State) (p : Nat) : State :=
  match s.selectedCand p with
  | some c => if s.eligible p c then s else s.updPart p (fun P => { P with selected := none })
  | none => s.updPart p (fun P => { P with selected := none })

/-- What follows from a change to the queues, contexts or bents of a partition. -/
def State.refresh (s : State) (p : Nat) : State :=
  (((List.range 256).foldl (fun t q => t.holdHeader p q) s).reportLarge p).deselect p

/-! ### The journal (R320, R378) -/

/-- R378: a new record. -/
def State.newRecord (s : State) (p q state : Nat) (cmd : List Byte) : State :=
  let c := Cmd.of cmd
  s.updPart p (fun P =>
    { P with
      journal := NMap.set P.journal (P.jnext % 65536)
        { seq := P.jnext, queue := q, tier := c.tier, ctx := c.ctx, state := state, hash := (sha512 cmd).take 16
          deadline := P.effective c.tier (c.due s.dtime 0), tapp := s.dtime, tlast := s.dtime }
      jnext := P.jnext + 1 })

/-- R378: a record, as the host reads it. -/
def Journal.bytes (j : Journal) : List Byte :=
  leBytes 8 j.seq ++ leBytes 1 j.queue ++ leBytes 1 j.tier ++ leBytes 1 j.ctx ++ leBytes 1 j.state ++ leBytes 1 j.fault
    ++ leBytes 1 j.rolls ++ leBytes 2 0 ++ padTo 16 0 j.hash ++ leBytes 8 (BitVec.ofInt 64 j.deadline).toNat ++ leBytes 8 j.tapp
    ++ leBytes 8 j.tdisp ++ leBytes 8 j.tlast

/-! ### Appends (R320) -/

/-- R320: the answer to an append. -/
inductive Reply where
  | disabled | full | refused | accepted (seq : Nat)
  deriving DecidableEq, Repr, Inhabited

/-- R319: bytes of physical HBM written by the command processor. -/
def State.pokeHbm (s : State) (pa : Nat) (bytes : List Byte) : State :=
  if pa + bytes.length ≤ hbmBytes then s.poke pa bytes else s

/-- R320: an append. -/
def State.append (s : State) (p q : Nat) (bytes : List Byte) : State × Reply :=
  let cmd := padTo 128 0 bytes
  let Q := (s.part p).qcb q
  if !Q.en then (s, .disabled)
  else if Q.tail - Q.head = Q.slots then (s, .full)
  else if (Cmd.of cmd).refused then (s, .refused)
  else
    let seq := (s.part p).jnext
    ((((s.pokeHbm (Q.base + 128 * (Q.tail % Q.slots)) cmd).updQcb p q (fun Q =>
      { Q with tail := Q.tail + 1, pend := Q.pend ++ [(seq, s.dtime)] })).newRecord p q 0x01 cmd).refresh p, .accepted seq)

/-- R320: the reply to the host. -/
def Reply.msg (r : Reply) (p q : Nat) : HostMsg :=
  match r with
  | .disabled => .disabled p q
  | .full => .full p q
  | .refused => .refused p q
  | .accepted seq => .accepted p q seq

def execAppend (p q : Nat) (cmd : List Byte) (s : State) : Out :=
  let r := s.append p q cmd
  .next (r.1.toHostMsg (r.2.msg p q))

/-- R319: EN of a QCB set. -/
def execQcbEnable (p q : Nat) (s : State) : Out :=
  let Q := (s.part p).qcb q
  if Q.en ∨ Q.slots = 0 then .next s else .next (s.updQcb p q (fun Q => { Q with en := true, head := 0, tail := 0, pend := [] }))

/-- R319: EN of a QCB cleared: its commands are discarded in order. -/
def execQcbDisable (p q : Nat) (s : State) : Out :=
  let Q := (s.part p).qcb q
  if Q.en then
    .next (((Q.pend.foldl (fun t x => t.journalState p x.1 0x09) s).updPart p (fun P =>
      { P with
        qcbs := NMap.set P.qcbs q { Q with en := false, head := Q.tail, pend := [] }
        selected := if P.selected = some q then none else P.selected
        held := NMap.erase P.held q })).refresh p)
  else .next s

/-! ### Firmware (R380) -/

/-- The image of a kind: 0 command processor, 1 Scarf, 2 power manager. -/
def Device.image (D : Device) (kind : Nat) : List Byte := NMap.getD D.fwImage kind (Config.bootImage kind)

/-- R380: whether an image of a kind and version is accepted. -/
def Device.verifies (D : Device) (kind version : Nat) (image : List Byte) : Bool :=
  Config.firmwareSignatureOk image && decide (NMap.getD D.fwMin kind 0 ≤ version)

/-- R380: the first image that the boot ROM refuses. -/
def Device.refusedImage (D : Device) : Option Nat :=
  (List.range 3).find? (fun k => !D.verifies k (NMap.getD D.fwVersion k 0) (D.image k))

/-! ### Decisions (R324) -/

/-- R324: the order of a decision that is no floor decision. -/
def Cand.before (a b : Cand) : Bool :=
  decide (a.deadline < b.deadline)
    || (a.deadline == b.deadline && (decide (a.tier < b.tier) || (a.tier == b.tier && decide (a.seq < b.seq))))

/-- R324: the order of a floor decision. -/
def Cand.floorBefore (a b : Cand) : Bool := decide (b.tier < a.tier) || (a.tier == b.tier && decide (a.seq < b.seq))

/-- The first of a list by an order. -/
def firstBy {α : Type} (lt : α → α → Bool) : List α → Option α
  | [] => none
  | x :: l => some (l.foldl (fun m y => if lt y m then y else m) x)

/-- R324: decision k. -/
def decision (k floor : Nat) (l : List Cand) : Option Cand :=
  firstBy (if k % Nat.max floor 1 = 0 then Cand.floorBefore else Cand.before) l

/-- R324: a command leaves its queue. -/
def State.popCmd (s : State) (p q : Nat) : State :=
  s.updPart p (fun P =>
    { P with
      qcbs := NMap.modify P.qcbs q {} (fun Q => { Q with head := Q.head + 1, pend := Q.pend.drop 1 })
      selected := none, held := NMap.erase P.held q })

/-- R378, R379: a command dispatched: tier and deadline as resolved, and the time of its first dispatch. -/
def State.journalDispatch (s : State) (p seq tier : Nat) (deadline : Int) : State :=
  s.journal p seq (fun j =>
    { j with state := 0x02, tier := tier, deadline := deadline, tdisp := if j.tdisp = 0 then s.dtime else j.tdisp })

/-- R331, R379: the last transition of a command. -/
def State.journalEnd (s : State) (p seq fault : Nat) : State :=
  s.journal p seq (fun j => { j with state := if fault = 0 then 0x07 else 0x08, fault := fault })

/-- R326, R399: the command at a queue's head ends at once with a fault of placement. -/
def State.failCmd (s : State) (p q fault : Nat) : State :=
  match ((s.part p).qcb q).pend.head?, s.cmdCand p q with
  | some (seq, tapp), some c =>
    let x := s.headCmd p q
    let due := x.due tapp (match NMap.get? (s.part p).held q with | some h => (LHead.of h.header).deadline | none => 0)
    let s1 := (s.popCmd p q).journalDispatch p seq c.tier c.deadline
    let s2 := s1.writeRecord p x.ctx x.compl
      { status := statusWord 2 (decide (due < s.dtime)) fault 0, seq := seq, tdisp := s.dtime, tdone := s.dtime }
    (s2.journalEnd p seq fault).refresh p
  | _, _ => s

/-- R324, R350, R380, R399: one decision, when no selected command waits; after a refusal of firmware there is none. -/
def State.decideNext (s : State) (p : Nat) : State :=
  let P := s.part p
  if P.psvc ≠ 0 ∨ P.offline ∨ P.selected.isSome then s
  else
    match decision P.decision P.floor ((s.cands p).filter (s.eligible p)) with
    | none => s
    | some c =>
      if s.device.refusedImage.isSome then s
      else
      let s1 := s.updPart p (fun P => { P with decision := P.decision + 1 })
      if c.fault = 0 then s1.updPart p (fun P => { P with selected := some c.sel }) else s1.failCmd p c.sel c.fault

def execDispatchDecision (p : Nat) (s : State) : Out := .next ((s.refresh p).decideNext p)

/-! ### Contexts in residence (R338) -/

/-- R339: memory with a page as it reads under another key than the one it was stored under; commands in the slots of an enabled
queue are as appended (R319). -/
def State.pageUnder (s : State) (old new : List Byte) (page : Nat) : List Host.Cell :=
  Memory.putBytes s.mem (page * 65536) ((List.range 1024).flatMap (fun u =>
    let a := page * 65536 + u * 64
    let m := Memory.getBytes s.mem a 64
    if s.inQueueSlots a then m else (List.range 64).map (Config.otherKeyByte old new a m)))

/-- R339: a page of HBM stored under a key from now on. -/
def State.rekey (s : State) (new : List Byte) (page : Nat) : State :=
  { s with
    mem := match NMap.get? s.device.pageKeys page with
      | some old => if old = new then s.mem else s.pageUnder old new page
      | none => s.mem
    device := { s.device with pageKeys := NMap.set s.device.pageKeys page new } }

/-- R339, R384: a context comes into residence: its pages are read, and from now on stored, under the key of its slot, which is not
the one they were stored under where the slot or its key was changed since. -/
def State.underKey (s : State) (c : Nat) : State :=
  (s.pageOwner.filter (fun o => o.2 == c)).foldl (fun t o => t.rekey (s.ctxKey c) o.1) s

/-- What follows in every partition from a change to the contexts. -/
def State.refreshAll (s : State) : State := (NMap.keys s.parts).foldl State.refresh s

def State.updCtx (s : State) (c : Nat) (f : Ctx → Ctx) : State := { s with ctxs := NMap.modify s.ctxs c {} f }

/-- R338: EN of a context set; a clear that still waits is withdrawn (DEDUCED, log entry 20). The contexts are those of the device,
which every partition's window shows (R6, log entry 38). -/
def execContextEnable (_p c : Nat) (s : State) : Out :=
  .next ((s.underKey c).updCtx c (fun C => { C with en := true, ending := false })).refreshAll

/-- R338: a launch of a context is placed or pre-empted. -/
def State.ctxBusy (s : State) (c : Nat) : Bool := s.launches.any (fun l => l.2.ctx == c)

/-- R338: the residency of a context ends: EN reads 0, and its TLB entries are removed. -/
def State.endResidency (s : State) (c : Nat) : State :=
  let C := s.ctx c
  if C.en && C.ending && !s.ctxBusy c then
    (s.dropEntries (fun e => e.ctx == c)).updCtx c (fun C => { C with en := false, ending := false })
  else s

/-- R338: EN of a context cleared; with no launch of it placed or pre-empted its residency ends at once. -/
def execContextDisable (_p c : Nat) (s : State) : Out :=
  .next ((s.updCtx c (fun C => { C with ending := C.en })).refreshAll.endResidency c)

def execContextResidencyEnd (_p c : Nat) (s : State) : Out := .next (s.endResidency c)

end Sys2Proof.Machine
end

