-- ==== Sys2Proof/Machine/Place.lean ====
section
/-! DEFINITION. Placing a launch (R261, R314, R326 to R329, R342, R343), placing it again (R371), and restoring a pre-empted one
(R347). -/

namespace Sys2Proof.Machine

/-! ### Bents (R326 step 2, R342) -/

/-- R374: the free bents of a partition that may take a launch. -/
def State.freeBents (s : State) (p : Nat) : List Nat :=
  (partBents p).filter (fun b => (s.bent b).launch.isNone && NMap.getD (s.part p).quarantined (b % 24) 0 == 0)

/-- R342: a bent holds one of a launch's registered images. -/
def Bent.holdsImage (B : Bent) (images : List (Nat × Nat)) : Bool :=
  (NMap.vals B.mx).any (fun m => m.tag.reg && images.contains (m.tag.imgid, m.tag.version))

/-- R326: the bents a launch takes, in increasing order of number. -/
def State.chooseBents (s : State) (p n : Nat) (images : List (Nat × Nat)) : List Nat :=
  let free := s.freeBents p
  let held := free.filter (fun b => (s.bent b).holdsImage images)
  let others := free.filter (fun b => !(s.bent b).holdsImage images)
  sortBy (fun a b => decide (a < b)) ((held ++ others).take n)

/-- R342: an MX at placement: the tag and the CIM stay, and no weights are valid. -/
def Mx.placed (m : Mx) : Mx := { image := m.image, tag := m.tag }

/-- R61, R64, R142, R170, R230, R250, R271: a bent at placement; its translations stay. -/
def Bent.placed (B : Bent) (lid ix : Nat) : Bent :=
  { launch := some lid, index := ix, mx := B.mx.map (fun m => (m.1, m.2.placed)), tlb := B.tlb, walkTlb := B.walkTlb
    tlbOld := B.tlbOld }

/-- A bent with no launch. -/
def Bent.freed (B : Bent) : Bent :=
  { mx := B.mx.map (fun m => (m.1, m.2.placed)), tlb := B.tlb, walkTlb := B.walkTlb, tlbOld := B.tlbOld }

/-- R343: the scratchpad zeroed. -/
def State.zeroSpad (s : State) (b : Nat) : State := s.zero (spadAddr b 0) (2 ^ 22)

def State.placeBents (s : State) (lid : Nat) (region : List Nat) : State :=
  region.zipIdx.foldl (fun t x => (t.zeroSpad x.1).updBent x.1 (fun B => B.placed lid x.2)) s

/-! ### Allocation (R314, R326 step 3) -/

/-- R326, R314, R368: the HBM bytes that a launch takes. -/
def Loaded.bytes (x : Loaded) : Nat :=
  let h := x.head
  h.cstore * 256
    + ((NMap.vals x.chans).map (fun c => match c with | .data n w _ => n * ((w + 31) / 32 * 32) | .request _ _ _ _ _ => 0)).sum
    + (h.region + 48) * h.detspill + h.region * undoLimit
    + (((NMap.vals x.bufs).filter (fun B => !B.spad)).map (fun B => if B.shadow then 2 * B.bytes else B.bytes)).sum

/-! ### Buffers (R104, R326 step 4, R329) -/

/-- R104: the initial contents of a buffer. -/
def Loaded.initial (x : Loaded) (B : Buffer) : List Byte :=
  match B.dataOff with
  | none => []
  | some d =>
    let stop := (NMap.vals x.bufs).foldl (fun m C => match C.dataOff with | some e => if d < e ∧ e < m then e else m | none => m)
      x.data.length
    ((x.data.drop d).take (stop - d)).take B.bytes

/-- R326, R329: a buffer's contents at placement. -/
def State.fillBuffer (s : State) (lid : Nat) (region : List Nat) (x : Loaded) (p : Nat × Buffer) : State :=
  let l := x.initial p.2
  if p.2.spad then region.foldl (fun t b => t.poke (spadAddr b p.2.boff) l) s else s.poke (backAddr lid p.1 false 0) l

/-- R326: the backings of a launch, zero but for what its buffers start with. -/
def State.fillBuffers (s : State) (lid : Nat) (region : List Nat) (x : Loaded) : State :=
  x.bufs.foldl (fun t p => t.fillBuffer lid region x p) (s.zero (backAddr lid 0 false 0) (512 * 2 ^ 40))

/-! ### Strands (R61, R261) -/

/-- R61: a strand at its start. -/
def Strand.fresh (L : Launch) (lid b k id : Nat) : Strand :=
  { Strand.wx { lid := lid, ownerBent := b, ownerSlot := k } 1 (BitVec.ofNat 64 id) with
    pc := BitVec.ofNat 64 L.entry, wid := BitVec.ofNat 64 id
    trapvec := match L.tvec with | some t => BitVec.ofNat 64 t | none => 0 }

/-- R261: one slot started, if its bent's allocator has an identifier. -/
def State.startSlot (s : State) (lid b j k : Nat) : State :=
  match (s.launch lid).takeId j 0 with
  | (some id, L) => (s.setLaunch lid L).setStrand b k (Strand.fresh L lid b k id)
  | (none, _) => s

def State.startStrands (s : State) (lid : Nat) : State :=
  let L := s.launch lid
  L.region.zipIdx.foldl (fun t x => (List.range L.nStrands).foldl (fun t k => t.startSlot lid x.1 x.2 k) t) s

/-! ### The cut before round 0 (R368) -/

/-- R368: launch start counts as a cut: its strands and handles kept. -/
def State.startCut (s : State) (lid : Nat) : State :=
  let marks := (s.strandsOf lid).map (fun e =>
    (⟨0xFFFF, (s.launch lid).key e.2.2.ownerBent e.2.2.ownerSlot, (s.bent e.1).index, e.2.1, e.2.2, []⟩ : StrandMark))
  s.updLaunch lid (fun L =>
    { L with
      cutRound := none, cutStrands := marks, cutUnits := [], opLog := [], returnedIds := []
      cutHandles := { bars := [], chans := L.chans, queues := L.queues, ranks := [] } })

/-! ### A launch placed (R326) -/

/-- The launch that a command and its container make, before its bents start. -/
def launchFrom (cmd : List Byte) (tapp seq part queue : Nat) (x : Loaded) (region : List Nat) : Launch :=
  let c := Cmd.of cmd
  let h := x.head
  { cmd := cmd, tapp := tapp, seq := seq, part := part, queue := queue, ctx := c.ctx, tier := c.tierOf h.tier
    deadline := c.due tapp h.deadline, sinks := c.sinks, compl := BitVec.ofNat 64 c.compl, cbase := BitVec.ofNat 64 c.cbase
    bufva := BitVec.ofNat 64 c.bufva, det := h.flags % 2 == 1, detspill := h.detspill, widths := h.widths.take h.nfields
    nStrands := h.strands, region := region, origin := region, entry := h.entry
    tvec := if h.tvec = noOffset then none else some h.tvec
    cstore := h.cstore, text := x.text, entries := x.entries, opwords := x.opwords, chans := x.chans, queues := x.queues
    bufs := x.bufs, streams := x.streams, weights := x.weights, hbm := x.bytes }

/-- The key of a launch: its journal sequence number and partition. -/
def lidOf (part seq : Nat) : Nat := seq * 8 + part

/-- R326 steps 2 to 5. -/
def State.begin_ (s : State) (L : Launch) (x : Loaded) : State :=
  let lid := lidOf L.part L.seq
  ((((s.setLaunch lid { L with lastProgress := s.dtime }).placeBents lid L.region).fillBuffers lid L.region x).startStrands
    lid).startCut lid

/-- R326: the command at a queue's head placed, or ended with a fault of steps 1 to 3. -/
def State.placeHead (s : State) (p q : Nat) : State :=
  match ((s.part p).qcb q).pend.head?, NMap.get? (s.part p).held q, s.cmdCand p q with
  | some (seq, tapp), some h, some cand =>
    let cmd := s.cmdAt p q ((s.part p).qcb q).head
    let c := Cmd.of cmd
    let r := s.loadBox p c.ctx c.cbase
    match r.2 with
    | .inl f => r.1.failCmd p q f
    | .inr x =>
      if x.raw ≠ h.header then r.1.failCmd p q 0x03
      else if partBytes < r.1.hbmUsed p + x.bytes then r.1.failCmd p q 0x04
      else
        let region := r.1.chooseBents p x.head.region x.images
        let s1 := (r.1.popCmd p q).journalDispatch p seq cand.tier cand.deadline
        (s1.begin_ { launchFrom cmd tapp seq p q x region with tdisp := s.dtime } x).refresh p
  | _, _, _ => s

/-! ### A pre-empted launch restored (R347) -/

/-- An address of scratchpad carried from the bent of a region index in one region to that in another. -/
def moveAddr (old new : List Nat) (a : Nat) : Nat :=
  match spadOf a with
  | some (b, off) => if old.contains b then spadAddr (new.getD (old.findIdx (fun x => x == b)) b) off else a
  | none => a

def moveBent (old new : List Nat) (b : Nat) : Nat :=
  if old.contains b then new.getD (old.findIdx (fun x => x == b)) b else b

/-- A map with its keys changed. -/
def rekey {α : Type} (f : Nat → Nat) (m : NMap α) : NMap α := m.foldl (fun r p => NMap.set r (f p.1) p.2) []

def Cont.moved (f : Nat → Nat) (c : Cont) : Cont := { c with waitLoc := c.waitLoc.map (fun w => 2 * f (w / 2) + w % 2) }

def Release.moved (f : Nat → Nat) (r : Release) : Release := { r with bent := f r.bent }

def Chan.moved (f : Nat → Nat) (c : Chan) : Chan :=
  match c with
  | .request ob os t n u => .request ob os (f t) n u
  | .data n w es => .data n w (es.map (fun e => { e with rel := e.rel.moved f }))

/-- R142: a shadow word whose last writer's bent follows (log entry 26). -/
def Granule.moved (f : Nat → Nat) (g : Granule) : Granule :=
  if g.lwb = 0xFF then g else { g with lwb := BitVec.ofNat 8 (f g.lwb.toNat) }

/-- What a bent names of the other bents, carried to a new region. -/
def Bent.moved (f : Nat → Nat) (B : Bent) : Bent :=
  { B with
    walks := B.walks.map (fun w => (w.1, w.2.map (fun x => { x with reserved := x.reserved.map f })))
    gs := B.gs.map (fun g => { g with target := f g.target })
    gsSent := B.gsSent.map (fun g => { g with target := g.target.map (fun t => (f t.1, t.2)) })
    granules := B.granules.map (fun g => (g.1, g.2.moved f)) }

def LogOp.moved (f : Nat → Nat) (x : LogOp) : LogOp :=
  match x with
  | .chan h c => .chan h (c.map (Chan.moved f))
  | y => y

/-- Operations in flight at a checkpoint, carried to a new region. -/
def MemOp.moved (fa fb : Nat → Nat) (o : MemOp) : MemOp :=
  { o with loc := fa o.loc, tagLoc := fa o.tagLoc, writer := { o.writer with bent := fb o.writer.bent } }

def StrandMark.moved (fa fb : Nat → Nat) (m : StrandMark) : StrandMark :=
  { m with st := { m.st with ops := m.st.ops.map (MemOp.moved fa fb) } }

/-- A synchronising object carried to a new region: a byte, or the full state of a granule. -/
def moveObj (fa : Nat → Nat) (k : Nat) : Nat :=
  if k % 8 = 0 then objMem (fa (k / 8)) else if k % 8 = 6 then objFull (fa (k / 8 * 32)) else k

/-- What a launch keeps of its bents' places, carried to a new region. -/
def Launch.moved (L : Launch) (new : List Nat) : Launch :=
  let fa := moveAddr L.savedRegion new
  let fb := moveBent L.savedRegion new
  { L with
    region := new, savedRegion := []
    undo := L.undo.map (fun u => { u with bent := fb u.bent, base := fa u.base, granule := u.granule.map (Granule.moved fb) })
    lastWrites := rekey fa L.lastWrites
    syncs := (rekey (moveObj fa) L.syncs).map (fun e => (e.1, e.2.map (Release.moved fb)))
    conts := L.conts.map (Cont.moved fa), readyList := L.readyList.map (Cont.moved fa)
    chans := L.chans.map (fun c => (c.1, c.2.moved fb))
    cutStrands := L.cutStrands.map (StrandMark.moved fa fb), strandMarks := L.strandMarks.map (StrandMark.moved fa fb)
    cutUnits := L.cutUnits.map (fun m => { m with bent := m.bent.moved fb })
    unitMarks := L.unitMarks.map (fun m => { m with bent := m.bent.moved fb })
    opLog := L.opLog.map (fun x => (x.1, x.2.moved fb))
    cutHandles := { L.cutHandles with chans := L.cutHandles.chans.map (fun c => (c.1, c.2.moved fb)) } }

/-- R347, R339, R340: the weights of a registered image read at the BASE of its registry entry, under the image's key. -/
def State.registryImage (s : State) (p ireg : Nat) : Image :=
  let R := NMap.getD (s.part p).images ireg {}
  ((loadImage (s.bytesUnder (s.imageKey p ireg) R.base R.bytes) false).map Prod.snd).getD {}

/-- R342: two tags name the same registered image. -/
def CimTag.same (t u : CimTag) : Bool := t.reg && u.reg && t.imgid == u.imgid && t.version == u.version && t.ireg == u.ireg

/-- R347: the CIM of a matrix tenon of a restored launch: a registered image that the bent still holds stays, else it is read from the
registry; other weights come from the save. -/
def State.restoredMx (s : State) (p : Nat) (own saved : Mx) : Mx :=
  if saved.tag.reg = false then saved
  else { saved with image := if own.tag.same saved.tag then own.image else s.registryImage p saved.tag.ireg }

/-- R345: a saved bent on the bent that takes it; the translations stay the bent's own. -/
def State.restoredBent (s : State) (p : Nat) (B S : Bent) (fb : Nat → Nat) : Bent :=
  { S.moved fb with
    mx := S.mx.map (fun m => (m.1, s.restoredMx p (B.mxAt m.1) m.2))
    tlb := B.tlb, walkTlb := B.walkTlb, tlbOld := B.tlbOld }

/-- R345: saved scratchpad bytes: region index × 2^22 plus offset. -/
def State.loadSpads (s : State) (L : Launch) (new : List Nat) : State :=
  let at_ (a : Nat) : Nat := spadAddr (new.getD (a / 2 ^ 22) 0) (a % 2 ^ 22)
  { s with
    mem := L.savedMem.foldl (fun m c => Memory.put m (at_ c.1) c.2) s.mem
    poison := L.savedPoison.foldl (fun m u => insertSorted (at_ u) m) s.poison }

/-- R347: a pre-empted launch resumes. -/
def State.restore (s : State) (p lid : Nat) : State :=
  let L := s.launch lid
  let new := s.chooseBents p L.savedRegion.length []
  let fb := moveBent L.savedRegion new
  let s1 := new.foldl (fun t b => t.zeroSpad b) s
  let s2 := s1.loadSpads L new
  let s3 := new.zipIdx.foldl (fun t x => t.updBent x.1 (fun B => s.restoredBent p B (NMap.getD L.savedBents x.2 {}) fb)) s2
  let L1 := { L.moved new with
    phase := .running, savedBents := [], savedMem := [], savedPoison := [], saved := 0, savedByMode := false, lastProgress := s.dtime }
  (((s3.setLaunch lid L1).journalState p L.seq 0x04).updPart p (fun P => { P with selected := none })).refresh p

/-! ### PLACEMENT -/

/-- R324, R326, R347: the selected command or launch, once enough bents are free. -/
def execPlacement (p : Nat) (s : State) : Out :=
  let s1 := s.deselect p
  match s1.selectedCand p with
  | none => .next s1
  | some c =>
    if (s1.part p).psvc ≠ 0 ∨ (s1.part p).offline ∨ s1.device.refusedImage.isSome ∨ (s1.freeBents p).length < c.need then .next s1
    else if c.sel < 256 then .next (s1.placeHead p c.sel)
    else .next (s1.restore p (c.sel - 256))

end Sys2Proof.Machine
end

