-- ==== Sys2Proof/Machine/Scarf.lean ====
section
/-! DEFINITION. Scarf collectives: rank maps (R193, R359), the descriptor and its checks (R355, R356), steps and their partners
(R357, R389, R390, R397), messages (R360, R391), releases (R358), reductions (R361), and ends (R362 to R364, R192, R268). -/

namespace Sys2Proof.Machine

/-! ### Reading at issue (R355, R359) -/

/-- Where bytes read at the issue of a command lie, and the image that each is read through. -/
inductive Got where
  | ok (locs : List (Nat × Option Nat))
  | trap (cause : BitVec 16) (t : State)
  | wait (t : State) (w : Wait)
  deriving DecidableEq, Repr, Inhabited

/-- Bytes of own-bent scratchpad or device virtual space found for a strand's command. -/
def State.gather (s : State) (b k : Nat) (st : Strand) : Nat → Word → Got
  | 0, _ => .ok []
  | n + 1, a =>
    match s.access b k st noHost false a 1 with
    | .trap c t => .trap c t
    | .wait t w => .wait t w
    | .ok loc path _ =>
      match s.gather b k st n (a + 1) with
      | .ok l => .ok ((loc, match path with | .image _ i => some i | _ => none) :: l)
      | x => x

/-- R144: earlier operations of the strand that touch the bytes come first. -/
def State.afterTouching (s : State) (b k : Nat) (st : Strand) (locs : List (Nat × Option Nat)) (body : Out) : Out :=
  let rs := locs.map (fun a => (a.1, 1))
  s.holdAtoms b k st (.overlap rs (.request 256)) (st.crossing rs (.request 256)) body

/-- R339: a byte as an access through an image, or through none, reads it. -/
def State.byteVia (s : State) (part : Nat) (x : Nat × Option Nat) : Byte := (s.bytesVia part x.2 x.1 1).headD 0

/-- R355, R359: whether an address lies in own-bent scratchpad or device virtual space, aligned to n bytes. -/
def ownOrDev (b : Nat) (a : Word) (n : Nat) : Bool :=
  a.toNat % n == 0 && (match spaceOf b a with | .own _ | .dev _ => true | _ => false)

/-- Bytes read at issue, or the command traps or waits. -/
def State.withBytes (s : State) (b k : Nat) (st : Strand) (a : Word) (n : Nat) (body : List Byte → Bool → Out) : Out :=
  match s.gather b k st n a with
  | .trap c t => .next (t.trap b k st c)
  | .wait t w => .next (t.park b k st w)
  | .ok l =>
    s.afterTouching b k st l
      (body (l.map (s.byteVia (s.launch st.lid).part)) (l.any (fun a => s.poisonedAt a.1 1)))

/-- Bytes read at issue whose poison traps. -/
def State.withClean (s : State) (b k : Nat) (st : Strand) (a : Word) (n : Nat) (body : List Byte → Out) : Out :=
  s.withBytes b k st a n (fun l p => if p then .next (s.trap b k st 0x0031) else body l)

/-! ### Rank maps (R193, R359) -/

/-- R359: a rank map as `Buffer.rankMap` holds it: NRANKS, MYRANK, GEN and the devices. -/
abbrev RankMap := Nat × Nat × Nat × List Nat

/-- R359: the header of a rank map. -/
def mapHeader (l : List Byte) : Nat × Nat × Nat := (bytesAt l 0 2, bytesAt l 2 2, bytesAt l 4 4)

/-- R359: NRANKS and MYRANK in range and the reserved bytes zero. -/
def mapHeaderOk (l : List Byte) : Bool :=
  let h := mapHeader l
  decide (1 ≤ h.1) && decide (h.1 ≤ 256) && decide (h.2.1 < h.1) && allZero ((l.drop 8).take 8)

def distinct : List Nat → Bool
  | [] => true
  | x :: l => !l.contains x && distinct l

/-- R359: the map that n device words make, if they are in order. -/
def State.mapOf (s : State) (l ids : List Byte) : Option RankMap :=
  let h := mapHeader l
  let ws := (chunks 4 h.1 ids).map leNat
  if ws.all (fun w => decide (w < 65536)) && distinct ws && s.device.fabidValid && ws.getD h.2.1 0 == s.device.fabid.toNat then
    some (h.1, h.2.1, h.2.2, ws)
  else none

/-- R193, R359: `rankmap`. -/
def execRankmap (a : XReg) (h : BitVec 8) (s : State) : Out :=
  s.command { rx := [a] } (fun b k st =>
    let A := st.rx a
    let bt := h.toNat
    match NMap.get? (s.launch st.lid).bufs bt with
    | none => .next (s.trap b k st 0x0006)
    | some _ =>
      if ownOrDev b A 64 = false then .next (s.trap b k st 0x0001)
      else
        s.holdUntil b k st (.scarfEnded bt)
          (s.withClean b k st A 16 (fun l =>
            if mapHeaderOk l = false then .next (s.trap b k st 0x0001)
            else
              s.withClean b k st (A + 16) (4 * (mapHeader l).1) (fun ids =>
                match s.mapOf l ids with
                | none => .next (s.trap b k st 0x0001)
                | some m =>
                  .next ((s.updLaunch st.lid (fun L =>
                    ({ L with bufs := NMap.modify L.bufs bt default (fun B => { B with rankMap := some m }) }).logOp st.round
                      (.rank bt m))).setStrand b k st.next)))))

/-! ### The descriptor (R355, R356) -/

structure ScarfDesc where
  kind : Nat
  dtype : Nat
  op : Nat
  flags : Nat
  collid : Nat
  count : Nat
  src : Word
  steptab : Word
  timeout : Nat
  peer : Nat
  switch : Nat
  reserved : Bool
  deriving DecidableEq, Repr, Inhabited

/-- R355. -/
def ScarfDesc.of (l : List Byte) : ScarfDesc :=
  { kind := bytesAt l 0 1, dtype := bytesAt l 1 1, op := bytesAt l 2 1, flags := bytesAt l 3 1, collid := bytesAt l 4 4
    count := bytesAt l 8 8, src := BitVec.ofNat 64 (bytesAt l 16 8), steptab := BitVec.ofNat 64 (bytesAt l 24 8)
    timeout := bytesAt l 32 8, peer := bytesAt l 40 2, switch := bytesAt l 42 2, reserved := !allZero ((l.drop 44).take 20) }

/-- R355: the bytes of an element. -/
def dtypeBytes (t : Nat) : Nat := if t = 4 ∨ t = 6 then 4 else 2

/-- R355: the element type. -/
def dtypeOf (t : Nat) : VTy := if t = 4 then .i32 else if t = 6 then .f32 else if t = 7 then .f16 else .bf16

/-- R357: the kinds that reduce. -/
def reduces (kind : Nat) : Bool := kind == 1 || kind == 2 || kind == 3 || kind == 5

/-- R357: the elements of a result. -/
def resultCount (kind p count : Nat) : Nat :=
  if kind = 4 then p * count else if kind = 5 then count / p else if kind = 7 then 0 else count

/-- R356: whether a descriptor starts nothing. -/
def ScarfDesc.bad (d : ScarfDesc) (B : Buffer) (m : RankMap) : Bool :=
  let p := m.1
  !(decide (1 ≤ d.kind) && decide (d.kind ≤ 8)) || !(d.dtype == 4 || d.dtype == 6 || d.dtype == 7 || d.dtype == 8)
    || decide ((if reduces d.kind then 2 else 0) < d.op) || decide (2 ≤ d.flags) || d.reserved
    || decide (d.timeout < 1000) || decide (2 ^ 40 ≤ d.timeout)
    || (if d.kind = 7 ∨ d.kind = 8 then decide (p ≤ d.peer) || d.peer == m.2.1 else d.peer != 0)
    || (d.kind != 3 && d.switch != 0) || ((d.kind == 5 || d.kind == 6) && d.count % Nat.max p 1 != 0)
    || (d.kind == 1 && d.count == 0) || decide (B.bytes < resultCount d.kind p d.count * dtypeBytes d.dtype)
    || d.steptab.toNat % 32 != 0

/-- ⌈log2 p⌉. -/
def logUp (p : Nat) : Nat := if p ≤ 1 then 0 else Nat.log2 (p - 1) + 1

/-- R357: the steps of a collective. -/
def scarfSteps (kind p : Nat) : Nat :=
  if p = 1 then 0
  else if kind = 1 then 2 * (p - 1)
  else if kind = 2 then 2 * logUp p
  else if kind = 4 ∨ kind = 5 ∨ kind = 6 then p - 1
  else 1

/-! ### Partners (R390, R397) -/

/-- The switch, which is no rank. -/
def switchRank : Nat := 0xFFFF

def Scarf.p (C : Scarf) : Nat := C.ids.length
def Scarf.steps (C : Scarf) : Nat := scarfSteps C.kind C.p

/-- R397: whom a rank sends to in a step. -/
def Scarf.sendsTo (C : Scarf) (s : Nat) : List Nat :=
  let p := C.p
  let r := C.rank
  let l := logUp p
  match C.kind with
  | 1 | 4 | 5 => [(r + p - 1) % p]
  | 6 => [(r + s + 1) % p]
  | 2 =>
    if s < l then (if r % 2 ^ (s + 1) = 2 ^ s then [r - 2 ^ s] else [])
    else
      let t := 2 * l - 1 - s
      if r % 2 ^ (t + 1) = 0 ∧ r + 2 ^ t < p then [r + 2 ^ t] else []
  | 3 => [switchRank]
  | 7 => [C.peer]
  | _ => []

/-- R397: whom it awaits a message from. -/
def Scarf.awaits (C : Scarf) (s : Nat) : List Nat :=
  let p := C.p
  let r := C.rank
  let l := logUp p
  match C.kind with
  | 1 | 4 | 5 => [(r + 1) % p]
  | 6 => [(r + p - (s + 1) % p) % p]
  | 2 =>
    if s < l then (if r % 2 ^ (s + 1) = 0 ∧ r + 2 ^ s < p then [r + 2 ^ s] else [])
    else
      let t := 2 * l - 1 - s
      if r % 2 ^ (t + 1) = 2 ^ t then [r - 2 ^ t] else []
  | 3 => [switchRank]
  | 8 => [C.peer]
  | _ => []

/-- R389: the chunks that a vector is cut into: one per rank in a ring or an exchange of blocks, else the whole. -/
def Scarf.nChunks (C : Scarf) : Nat := if C.kind = 1 ∨ C.kind = 5 ∨ C.kind = 6 then Nat.max C.p 1 else 1

/-- R389: the first element of a chunk. -/
def Scarf.chunkAt (C : Scarf) (j : Nat) : Nat := j * C.count / C.nChunks

def Scarf.chunkLen (C : Scarf) (j : Nat) : Nat := C.chunkAt (j + 1) - C.chunkAt j

/-- What the message of a rank carries in a step, as contributing rank and chunk; reduced elements count as those of rank NRANKS
(log entry 25). -/
def Scarf.pieces (C : Scarf) (s q : Nat) : List (Nat × Nat) :=
  let p := C.p
  let l := logUp p
  let partial_ := (List.range (s + 1)).map (fun i => ((q + i) % p, (q + 1 + s) % p))
  match C.kind with
  | 1 => if s + 1 < p then partial_ else [(p, (q + s + 1 - p) % p)]
  | 5 => partial_
  | 2 => if s < l then ((List.range p).filter (fun x => decide (q ≤ x) && decide (x < q + 2 ^ s))).map (fun x => (x, 0)) else [(p, 0)]
  | 3 => if q = switchRank then (List.range p).map (fun x => (x, 0)) else [(q, 0)]
  | 4 => [((q + s) % p, 0)]
  | 6 => [(q, (q + s + 1) % p)]
  | _ => [(q, 0)]

/-- The elements held of a rank and chunk. -/
def Scarf.part (C : Scarf) (q j : Nat) : List Nat :=
  ((C.have_.find? (fun x => x.1 == q && x.2.1 == j)).map (fun x => x.2.2)).getD []

/-- Whether a message has what it must bring, each piece whole. -/
def Scarf.carries (C : Scarf) (m : ScarfMsg) : Bool :=
  (C.pieces m.step m.rank).all (fun x => m.parts.any (fun y => y.1 == x.1 && y.2.1 == x.2 && y.2.2.length == C.chunkLen x.2))

/-- R360: the message of a step. -/
def Scarf.message (C : Scarf) (s : Nat) : ScarfMsg :=
  { collid := C.collid, gen := C.gen, step := s, rank := C.rank, ack := false
    parts := (C.pieces s C.rank).map (fun x => (x.1, x.2, C.part x.1 x.2)) }

/-- The fabric identifier of a partner. -/
def Scarf.device (C : Scarf) (q : Nat) : Nat := if q = switchRank then C.switch else C.ids.getD q 0

def State.link (s : State) (l : Nat) : Link := NMap.getD s.links l {}

/-- R354: the Psiris-P port on which messages to a device travel (log entry 11). -/
def portTo (device : Nat) : Nat := Config.linkOf device % 24

/-- The device that a message goes to. -/
def PeerMsg.device : PeerMsg → Option Nat
  | .msg _ d _ => some d
  | .abort _ _ d _ _ _ _ => some d
  | .cost _ _ => none

/-- R354: a message to a peer; a link that has failed loses it. -/
def State.toPeer (s : State) (m : PeerMsg) : State :=
  if m.device.any (fun d => (s.link (portTo d)).failed) then s else { s with toPeers := s.toPeers ++ [m] }

def State.setScarf (s : State) (lid bt : Nat) (C : Scarf) : State :=
  s.updLaunch lid (fun L => { L with scarfs := NMap.set L.scarfs bt C })

/-! ### The contribution (R356) -/

/-- R319, R343: whether a byte found for a contribution is still its launch's to read. -/
def State.ownSrc (s : State) (L : Launch) (a : Nat × Option Nat) : Bool :=
  a.2.isSome || decide (hbmBytes ≤ a.1) || (!s.foreign L.ctx (a.1 / 65536) && !s.inQueueSlots a.1)

/-- R356: the elements of a chunk read again: each takes the value of now or keeps the one it has (log entry 41). -/
def State.reread (s : State) (L : Launch) (C : Scarf) (j : Nat) : List Nat :=
  let w := dtypeBytes C.dtype
  (C.part C.rank j).zipIdx.map (fun x =>
    let n := C.chunkAt j + x.2
    let locs := (C.src.drop (n * w)).take w
    if Config.srcLate s.nonce n && locs.all (s.ownSrc L) && !locs.any (fun a => s.poisonedAt a.1 1) then
      leNat (locs.map (s.byteVia L.part))
    else x.1)

/-- R356: the chunks not yet sent read again, of which some are sent now. -/
def State.freshen (s : State) (L : Launch) (C : Scarf) (sent : List Nat) : Scarf :=
  { C with
    have_ := C.have_.map (fun x =>
      if x.1 == C.rank && C.unsent.contains x.2.1 then (x.1, x.2.1, s.reread L C x.2.1) else x)
    unsent := C.unsent.filter (fun j => !sent.contains j) }

/-- R397: the messages of a step sent. -/
def State.scarfSend (s : State) (lid bt : Nat) (C : Scarf) : State :=
  if C.step < C.steps then
    let to_ := C.sendsTo C.step
    let own := if to_ = [] then [] else ((C.pieces C.step C.rank).filter (fun x => x.1 == C.rank)).map Prod.snd
    let C1 := s.freshen (s.launch lid) C own
    let m := C1.message C1.step
    { (to_.foldl (fun t q => t.toPeer (.msg C1.collid (C1.device q) m)) s).setScarf lid bt
        { C1 with sent := C1.sent ++ to_.map (fun q => ((C1.step, q), m)), lastSend := s.dtime } with nonce := s.nonce + 1 }
  else s.setScarf lid bt C

/-! ### Results (R357, R361, R389) -/

/-- R25, R39: one combination of two elements. -/
def Scarf.combine (C : Scarf) (x y : Nat) : Nat :=
  let c : Comb := if C.op = 0 then .add else if C.op = 1 then .min else .max
  (c.two (dtypeOf C.dtype) .rne (x, 0) (y, 0)).1

/-- R361: the order in which ranks are folded: rising with DET, else one that the manual leaves open (log entry 7). -/
def foldOrder (det : Bool) (seed : Nat) : Nat → List Nat → List Nat
  | 0, _ => []
  | n + 1, l =>
    if det then l
    else
      let k := Config.foldPick seed n % Nat.max l.length 1
      l.getD k 0 :: foldOrder det seed n (l.eraseIdx k)

/-- R397: one step of a tree's reduce half: each rank that stays takes in its neighbour. -/
def Scarf.pairUp (C : Scarf) : List Nat → List Nat
  | x :: y :: l => C.combine x y :: C.pairUp l
  | l => l

/-- R361: an element reduced: without DET, a tree combines by its steps and the other kinds in some order, the same for the whole
chunk. -/
def Scarf.foldElem (C : Scarf) (seed e : Nat) (parts : List (List Nat)) : Nat :=
  let at_ (q : Nat) : Nat := (parts.getD q []).getD e 0
  if C.kind = 2 ∧ C.det = false then ((List.range (logUp C.p)).foldl (fun l _ => C.pairUp l) ((List.range C.p).map at_)).headD 0
  else
    match (foldOrder C.det seed C.p (List.range C.p)).map at_ with
    | [] => 0
    | x :: l => l.foldl C.combine x

/-- R361, R389: a reduced chunk. -/
def Scarf.reduced (C : Scarf) (seed j : Nat) : List Nat :=
  let parts := (List.range C.p).map (fun q => C.part q j)
  (List.range (C.chunkLen j)).map (fun e => C.foldElem (seed + j) e parts)

/-- R357, R397: at the start of a step, the chunk that the rank has received from every rank is reduced: in a ring its own, at the
root of a tree the whole. -/
def State.scarfSettle (s : State) (lid : Nat) (C : Scarf) : State × Scarf :=
  let j? := if C.kind = 1 ∧ C.step + 1 = C.p then some C.rank
    else if C.kind = 2 ∧ C.rank = 0 ∧ C.step = logUp C.p then some 0 else none
  match j? with
  | none => (s, C)
  | some j =>
    let C1 := s.freshen (s.launch lid) C [j]
    ({ s with nonce := s.nonce + 1 + C.p }, { C1 with have_ := C1.have_ ++ [(C.p, j, C1.reduced (s.nonce + 1) j)] })

/-- R357: the elements of a result. -/
def Scarf.result (C : Scarf) (seed : Nat) : List Nat :=
  match C.kind with
  | 1 | 2 => (List.range C.nChunks).flatMap (fun j => if C.p = 1 then C.part C.rank j else C.part C.p j)
  | 3 => C.reduced seed 0
  | 4 => (List.range C.p).flatMap (fun q => C.part q 0)
  | 5 => C.reduced seed C.rank
  | 6 => (List.range C.p).flatMap (fun q => C.part q C.rank)
  | 8 => C.part C.peer 0
  | _ => []

def Scarf.resultBytes (C : Scarf) (seed : Nat) : List Byte := (C.result seed).flatMap (leBytes (dtypeBytes C.dtype))

/-! ### Ends (R192, R268, R362 to R364) -/

/-- R192: what `scarf.wait` returns. -/
def scarfWord (status step rank : Nat) : Word := BitVec.ofNat 64 (rank % 2 ^ 16 * 2 ^ 16 + step % 2 ^ 8 * 2 ^ 8 + status)

/-- The bents whose scratchpads hold a buffer of a launch, and one for an HBM buffer. -/
def State.bufferHomes (s : State) (lid : Nat) (B : Buffer) : List Nat := if B.spad then s.regionOf lid else [0]

/-- Bytes written to the shadow of a buffer. -/
def State.writeShadow (s : State) (lid bt : Nat) (w : Writer) (bytes : List Byte) : State :=
  let B := NMap.getD (s.launch lid).bufs bt default
  (s.bufferHomes lid B).foldl (fun t b => t.write w (B.place lid b bt false 0) bytes false) s

/-- R364: the contents of a shadow after a collective that published nothing (log entry 7). -/
def State.spoilShadow (s : State) (lid bt : Nat) (w : Writer) : State :=
  let B := NMap.getD (s.launch lid).bufs bt default
  { s.writeShadow lid bt w ((List.range B.bytes).map (Config.abortedByte s.nonce)) with nonce := s.nonce + 1 }

/-- The round that the strand of a collective is in. -/
def State.ownerRound (s : State) (lid : Nat) (C : Scarf) : BitVec 16 :=
  match s.findOwner lid C.ownerBent C.ownerSlot with
  | some (b, k) => (match s.strand? b k with | some st => st.round | none => C.writer.round)
  | none =>
    (match ((s.launch lid).conts ++ (s.launch lid).readyList).find? (fun c => c.isOwner C.ownerBent C.ownerSlot) with
     | some c => c.st.round
     | none => C.writer.round)

/-- R192, R268, R371: a collective ends: its status stands, its strand has an event, and the round cannot be replayed. -/
def State.scarfEnd (s : State) (lid bt : Nat) (C : Scarf) (status step rank : Nat) : State :=
  let s1 := (if status = 1 ∨ C.kind = 7 then s else s.spoilShadow lid bt C.writer).leave C.writer .device true [objShadow bt]
  (s1.updLaunch lid (fun L =>
    { L with
      scarfs := NMap.erase L.scarfs bt
      nonReplayable := L.nonReplayable ++ [s.ownerRound lid C]
      bufs := NMap.modify L.bufs bt default (fun B => { B with scarfStatus := scarfWord status step rank }) })).postEvent
    lid C.ownerBent C.ownerSlot
    { status := if status = 1 then 1 else 3, kind := 2, space := 0, addr := BitVec.ofNat 52 bt }

/-- R362, R363: an abort sent to every other rank of the map. -/
def State.scarfAbortAll (s : State) (C : Scarf) (step rank : Nat) (bySwitch : Bool) : State :=
  ((List.range C.p).filter (fun q => q != C.rank)).foldl (fun t q =>
    t.toPeer (.abort C.collid C.gen (C.device q) C.rank step rank bySwitch)) s

/-- R363: a collective that this device ends with STATUS 0x04. -/
def State.scarfFault (s : State) (lid bt : Nat) (C : Scarf) (rank : Nat) : State :=
  (s.scarfAbortAll C 0 rank true).scarfEnd lid bt C 4 0 rank

/-- R191, R357, R389: every step has succeeded: the result in the shadow, the publish, the end. A publish of the buffer still in
progress is waited for (R160). -/
def State.scarfFinish (s : State) (lid bt : Nat) : State :=
  match NMap.get? (s.launch lid).scarfs bt with
  | none => s
  | some C =>
    if C.step < C.steps ∨ (s.launch lid).pubAfter.contains bt then s
    else
      let C1 := s.freshen (s.launch lid) C C.unsent
      let s1 := if C.kind = 7 then s
        else (({ s.writeShadow lid bt C.writer (C1.resultBytes (s.nonce + 1)) with nonce := s.nonce + 1 + C.p }).updLaunch lid
          (fun L => L.swap bt (s.ownerRound lid C))).leave C.writer .device true [objBuf bt]
      s1.scarfEnd lid bt C1 1 (C.steps - 1) 0xFFFF

/-! ### SCARF, SCARF_WAIT (R191, R192, R355, R356) -/

/-- R358: the rows of a step table; none where a reserved byte is not zero. -/
def scarfRows (n : Nat) (l : List Byte) : Option (List (Nat × Nat × Nat)) :=
  let rows := chunks 32 n l
  if rows.all (fun r => allZero (r.drop 17)) then some (rows.map (fun r => (bytesAt r 0 8, bytesAt r 8 8, bytesAt r 16 1)))
  else none

/-- R157, R281: the writer of a collective: its strand, its act the engine's own, after what the strand knew at issue. -/
def State.scarfWriter (s : State) (b k : Nat) (st : Strand) : Writer :=
  let w := s.writer b k st
  let a := ownAgent s.nonce w.key
  { w with agent := a, epoch := 1, clock := w.clock.join (Clock.at a 1) }

/-- R356: the Scarf engine takes a collective: step 0 starts. -/
def State.scarfStart (s : State) (b k : Nat) (st : Strand) (bt : Nat) (d : ScarfDesc) (m : RankMap) (rows : List (Nat × Nat × Nat))
    (src : List (Nat × Option Nat)) (own : List Nat) (pois : Bool) : State :=
  let L := s.launch st.lid
  let C : Scarf :=
    { die := dieOf b, bent := b, slot := k, ownerBent := st.ownerBent, ownerSlot := st.ownerSlot, kind := d.kind, dtype := d.dtype
      op := d.op, det := d.flags % 2 == 1 || L.det, collid := d.collid, count := d.count, timeout := d.timeout, peer := d.peer
      switch := d.switch, rank := m.2.1, gen := m.2.2.1, ids := m.2.2.2, rows := rows, writer := s.scarfWriter b k st, timer := s.dtime
      src := src }
  let js := if d.kind = 8 then [] else List.range C.nChunks
  let C := { C with unsent := js, have_ := js.map (fun j => (C.rank, j, (own.drop (C.chunkAt j)).take (C.chunkLen j))) }
  let s1 := ({ s.tick st.lid C.writer.key with nonce := s.nonce + 1 }.updLaunch st.lid (fun L =>
    { L with noRestart := true })).setStrand b k st.next
  if pois then s1.scarfFault st.lid bt C C.rank else (s1.scarfSend st.lid bt C).scarfFinish st.lid bt

/-- R191, R356: the step table and the contribution read, and the collective started; the engine may read an element again
before it sends it. -/
def State.scarfTake (s : State) (b k : Nat) (st : Strand) (bt : Nat) (d : ScarfDesc) (m : RankMap) : Out :=
  let n := if d.steptab = 0 then 0 else scarfSteps d.kind m.1
  s.withClean b k st d.steptab (32 * n) (fun tab =>
    match scarfRows n tab with
    | none => .next (s.trap b k st 0x0001)
    | some rows =>
      let w := dtypeBytes d.dtype
      let count := if d.kind = 8 then 0 else d.count
      s.withBytes b k st d.src (count * w) (fun l p =>
        s.holdUntil b k st .scarfFree
          (.next (s.scarfStart b k st bt d m rows (match s.gather b k st (count * w) d.src with | .ok x => x | _ => [])
            ((chunks w count l).map leNat) p))))

/-- R191: `scarf`. -/
def execScarf (a : XReg) (h : BitVec 8) (s : State) : Out :=
  s.command { rx := [a] } (fun b k st =>
    let A := st.rx a
    let bt := h.toNat
    match NMap.get? (s.launch st.lid).bufs bt with
    | none => .next (s.trap b k st 0x0006)
    | some B =>
      if B.shadow = false ∨ ownOrDev b A 64 = false then .next (s.trap b k st 0x0001)
      else
        s.afterAll b k st .device (s.holdUntil b k st (.scarfEnded bt)
          (s.withClean b k st A 64 (fun l =>
            let d := ScarfDesc.of l
            match B.rankMap with
            | none => .next (s.trap b k st 0x0001)
            | some m => if d.bad B m then .next (s.trap b k st 0x0001) else s.scarfTake b k st bt d m))))

/-- R192: `scarf.wait`. -/
def execScarfWait (d : XReg) (h : BitVec 8) (s : State) : Out :=
  s.command { wx := [d] } (fun b k st =>
    let bt := h.toNat
    match NMap.get? (s.launch st.lid).bufs bt with
    | none => .next (s.trap b k st 0x0006)
    | some _ =>
      s.holdUntil b k st (.scarfEnded bt)
        (let v := (NMap.getD (s.launch st.lid).bufs bt default).scarfStatus
         let s1 := if v.toNat % 256 = 1 then s.acquire b st .device [objBuf bt] else s
         .next (s1.setStrand b k (st.wx d v).next)))

/-! ### Messages (R360, R391) -/

/-- R391: a message that has been applied is acknowledged. -/
def State.scarfAck (s : State) (C : Scarf) (m : ScarfMsg) : State :=
  s.toPeer (.msg C.collid (C.device m.rank) { m with rank := C.rank, ack := true, parts := [] })

/-- A message's pieces kept, each element in the width of its type. -/
def Scarf.take (C : Scarf) (m : ScarfMsg) : Scarf :=
  { C with
    arrived := C.arrived ++ [(m.step, m.rank)]
    have_ := C.have_ ++ (m.parts.filter (fun x =>
      (C.pieces m.step m.rank).contains (x.1, x.2.1) && !C.have_.any (fun y => y.1 == x.1 && y.2.1 == x.2.1))).map (fun x =>
        (x.1, x.2.1, x.2.2.map (fun v => v % 2 ^ (8 * dtypeBytes C.dtype)))) }

/-- R354: whether the link to a partner has failed, so that nothing comes from it. -/
def State.cutOff (s : State) (C : Scarf) (q : Nat) : Bool := (s.link (portTo (C.device q))).failed

/-- R397: the lowest rank that the step waits on. -/
def Scarf.waitsOn (C : Scarf) : Option Nat :=
  let l := (C.awaits C.step).filter (fun q => !C.arrived.contains (C.step, q))
    ++ (C.sendsTo C.step).filter (fun q => !C.acked.contains (C.step, q))
  (sortBy (fun a b => decide (a < b)) l).head?

/-- R362: the collective ended by the timer of its step. -/
def State.scarfExpire (s : State) (lid bt : Nat) (C : Scarf) : State :=
  match C.waitsOn with
  | none => s
  | some q => (s.scarfAbortAll C C.step q false).scarfEnd lid bt C 2 C.step q

/-- R362: the timer of a step that still waits has expired by now, so that nothing that comes now finds the collective running. -/
def Scarf.expired (C : Scarf) (now : Nat) : Bool :=
  decide (C.timer + C.timeout < now) && decide (C.step < C.steps) && C.waitsOn.isSome

/-- R354: the messages of one sender come in the order of its steps. -/
def Scarf.inOrder (C : Scarf) (m : ScarfMsg) : Bool :=
  (List.range m.step).all (fun t => !(C.awaits t).contains m.rank || C.arrived.contains (t, m.rank))

/-- R354, R360, R361, R391: a message from a peer or the switch; one that comes when the step's timer has expired finds the collective
ended by it (R362). -/
def execScarfMessage (launch bt : Nat) (m : ScarfMsg) (s : State) : Out :=
  match NMap.get? (s.launch launch).scarfs bt with
  | none => .next s
  | some C =>
    if m.collid ≠ C.collid ∨ m.gen ≠ C.gen ∨ s.cutOff C m.rank = true then .next s
    else if C.expired s.dtime then .next (s.scarfExpire launch bt C)
    else if m.ack then
      .next (if C.sent.any (fun x => x.1 == (m.step, m.rank)) ∧ C.acked.contains (m.step, m.rank) = false then
          s.setScarf launch bt { C with acked := C.acked ++ [(m.step, m.rank)] }
        else s)
    else if C.steps ≤ m.step ∨ (C.awaits m.step).contains m.rank = false ∨ C.inOrder m = false then .next s
    else if C.kind = 3 ∧ C.det = true ∧ m.parts = [] then .next (s.scarfFault launch bt C switchRank)
    else if C.arrived.contains (m.step, m.rank) then .next (s.scarfAck C m)
    else if C.carries m then .next ((s.scarfAck C m).setScarf launch bt (C.take m))
    else .next s

/-- R391: the messages of the step that are not acknowledged sent again, as they were. -/
def execScarfResend (launch bt : Nat) (s : State) : Out :=
  match NMap.get? (s.launch launch).scarfs bt with
  | none => .next s
  | some C =>
    if s.dtime < C.lastSend + 10000 ∨ C.steps ≤ C.step then .next s
    else
      let owed := C.sent.filter (fun x => x.1.1 == C.step && !C.acked.contains x.1)
      .next ((owed.foldl (fun t x => t.toPeer (.msg C.collid (C.device x.1.2) x.2)) s).setScarf launch bt
        { C with lastSend := s.dtime })

/-! ### Steps (R358, R390) -/

/-- Where n bytes of a page lie for a unit that acts in the context of a launch: at the front of a buffer, else as the command
processor reaches them. -/
def State.ctxLoc (s : State) (lid : Nat) (write : Bool) (va n : Nat) : State × Option (Nat × Option Nat) :=
  let L := s.launch lid
  match L.devBuffer va with
  | some (bt, B) => (s, some (backAddr lid bt (B.shadow && B.swap) (va - (L.bufva.toNat + B.boff)), none))
  | none => s.cpTouch L.part L.ctx false write va n

/-- Bytes of device virtual space read so; none where one does not translate. -/
def State.ctxRead (s : State) (lid va n : Nat) : State × Option (List Byte) :=
  (List.range n).foldl (fun r k =>
    match r.2 with
    | none => r
    | some l =>
      let x := r.1.ctxLoc lid false (va + k) 1
      (x.1, x.2.map (fun y => l ++ [x.1.byteVia (s.launch lid).part y]))) (s, some [])

/-- R358, R176: a step's completion word written, and the continuations parked on it resumed. -/
def State.releaseWord (s : State) (lid : Nat) (C : Scarf) (word : Nat) : State :=
  let a : Word := BitVec.ofNat 64 word
  let value := leBytes 8 ((C.step + 1) % 2 ^ 32 * 2 ^ 8 + 1)
  let put (t : State) (loc : Nat) : State := t.writeRel C.writer .device loc value false
  let fire (t : State) (own : Option Nat) : State :=
    t.updLaunch lid (fun L => L.fire (fun c =>
      match own with
      | some loc => c.waitLoc == some (wordKey loc)
      | none => c.waitLoc.isNone && c.waitOn == a))
  if word % 8 ≠ 0 then s
  else
    match spaceOf C.bent a with
    | .own off =>
      (match (s.launch lid).spadMap off with
       | some (o, _) => let loc := spadAddr C.bent o; fire ((put s loc).fill lid loc) (some loc)
       | none => s)
    | .dev va =>
      (let x := s.ctxLoc lid true va 8
       match x.2 with
       | some y => fire (put x.1 y.1) none
       | none => fire x.1 none)
    | _ => s

/-- R358, R320: a step's command appended to a queue of the strand's partition. -/
def State.releaseCmd (s : State) (lid : Nat) (cmd q : Nat) : State :=
  if 2 ^ 52 ≤ cmd then s
  else
    let x := s.ctxRead lid cmd 128
    match x.2 with
    | none => x.1
    | some l =>
      let p := (s.launch lid).part
      let r := x.1.append p q l
      match r.2 with
      | .accepted _ => r.1.updLaunch lid (fun L => { L with noRestart := true })
      | _ => r.1.newRecord p q 0x0A l

/-- R358: the release of the step that has completed. -/
def State.scarfRelease (s : State) (lid : Nat) (C : Scarf) : State :=
  match C.rows[C.step]? with
  | none => s
  | some (word, cmd, q) =>
    let s1 := if word = 0 then s else s.releaseWord lid C word
    if cmd = 0 then s1 else s1.releaseCmd lid cmd q

/-- R358, R397: every awaited message of the step has arrived, and every message sent is acknowledged. -/
def Scarf.stepDone (C : Scarf) : Bool :=
  (C.awaits C.step).all (fun q => C.arrived.contains (C.step, q)) && (C.sendsTo C.step).all (fun q => C.acked.contains (C.step, q))

/-- R358, R390: a step completes: its release, and the next step or the end. -/
def execScarfStepComplete (launch bt : Nat) (s : State) : Out :=
  match NMap.get? (s.launch launch).scarfs bt with
  | none => .next s
  | some C =>
    if C.step < C.steps then
      (if C.stepDone then
         let n := C.step + 1
         let x := (s.scarfRelease launch C).scarfSettle launch { C with step := n, timer := s.dtime + n * C.timeout / 16 }
         .next ((x.1.scarfSend launch bt x.2).scarfFinish launch bt)
       else .next s)
    else .next (s.scarfFinish launch bt)

/-! ### Timeouts and aborts (R362 to R364) -/

/-- R362: the timer of a step expires. -/
def execScarfStepTimeout (launch bt : Nat) (s : State) : Out :=
  match NMap.get? (s.launch launch).scarfs bt with
  | none => .next s
  | some C =>
    if s.dtime < C.timer + C.timeout ∨ C.steps ≤ C.step then .next s
    else .next (s.scarfExpire launch bt C)

/-- R354, R360, R362, R363: an abort from a peer or the switch, by the sender's rank; the device's own end comes first where its timer has
expired. -/
def execScarfAbort (launch bt collid gen step rank : Nat) (by_ : AbortBy) (s : State) : Out :=
  match NMap.get? (s.launch launch).scarfs bt with
  | none => .next s
  | some C =>
    if collid ≠ C.collid ∨ gen ≠ C.gen ∨ s.cutOff C by_.sender = true then .next s
    else if C.expired s.dtime then .next (s.scarfExpire launch bt C)
    else .next (s.scarfEnd launch bt C (if by_.bySwitch then 3 else 2) step rank)

end Sys2Proof.Machine
end

