-- ==== Sys2Proof/Machine/Finish.lean ====
section
/-! DEFINITION. How launches end and are interrupted: completion (R271, R330, R331), drain (R348, R349), pre-emption (R344 to
R346), and partitions out of service (R350). -/

namespace Sys2Proof.Machine

/-! ### The end of a launch (R330) -/

/-- R344: fields of PREEMPT. -/
def preemptOp (v : Word) : Nat := v.toNat / 2 ^ 62
def preemptSeq (v : Word) : Nat := v.toNat % 2 ^ 48

/-- R344: PREEMPT with a request in progress, and with a result. -/
def preemptBusy (v : Word) : Word := (v &&& 0xC000FFFFFFFFFFFF) ||| 0x0800000000000000
def preemptResult (v : Word) (result : Nat) : Word := (v &&& 0xC000FFFFFFFFFFFF) ||| BitVec.ofNat 64 (result * 2 ^ 60)

/-- R344: a request on a launch is over. -/
def State.endPreempt (s : State) (p lid result : Nat) : State :=
  s.updPart p (fun P =>
    match P.preempting with
    | some r => if r.lid = lid then { P with preempting := none, preempt := preemptResult P.preempt result } else P
    | none => P)

/-- R344: the result of a request whose launch has ended: an abort that drained it leaves none. -/
def State.endedResult (s : State) (p fault : Nat) : Nat :=
  match (s.part p).preempting with
  | some r => if r.abort && fault == 0x0B then 0 else 2
  | none => 2

/-- A launch is gone: its bents free, its packets and parked walks with it. The fronts of its buffers stay as they are. -/
def State.eraseLaunch (s : State) (lid : Nat) : State :=
  let L := s.launch lid
  let s1 := L.region.foldl (fun t b => t.updBent b Bent.freed) s
  { s1 with
    launches := NMap.erase s1.launches lid
    packets := s1.packets.filter (fun q => q.lid != lid)
    parts := NMap.modify s1.parts L.part {} (fun P => { P with parked := P.parked.filter (fun q => !L.region.contains q.2.1) }) }

/-- R271, R330, R331, R379: the launch's record written and its command's journal record after it. -/
def State.endLaunch (s : State) (lid : Nat) : State :=
  let L := s.launch lid
  let tdone := if L.fault = 0 then s.dtime else L.tfault
  let late := decide (L.deadline < tdone)
  let s1 := s.writeRecord L.part L.ctx L.compl.toNat
    { status := statusWord (if L.fault = 0 then 1 else 2) late L.fault L.trapCause, seq := L.seq, tdisp := L.tdisp
      tdone := tdone, fpc := L.fpc.toNat, fwho := L.fwho }
  let s2 := (s1.journalEnd L.part L.seq L.fault).endPreempt L.part lid (s.endedResult L.part L.fault)
  (s2.eraseLaunch lid).refresh L.part

/-! ### LAUNCH_COMPLETION (R271) -/

/-- The sources of an op-word, with whether an empty one is a trap, and its destination. -/
def vxUse (i : Instr) : List (VCode × Bool) × Option VCode :=
  match i with
  | .vadd _ d a b _ y x | .vsub _ d a b _ y x | .vmul _ d a b _ y x | .vfma _ d a b _ y x | .vdiv d a b _ y x
  | .vaddSat d a b y x | .vsubSat d a b y x | .vmulSat d a b y x | .vmin _ d a b y x | .vmax _ d a b y x
  | .vcmpEq _ d a b y x | .vcmpLt _ d a b y x | .vcmpLe _ d a b y x | .vcmpNe _ d a b y x | .vselL0 d a b y x | .vselL1 d a b y x
  | .vand d a b y x | .vor d a b y x | .vxor d a b y x | .vshl d a b y x | .vshrL d a b y x | .vshrA d a b y x
  | .vperm d a b y x | .vrec d a b y x => ([(a, x), (b, y)], some d)
  | .vabs _ d a x | .vneg _ d a x | .vrcp d a x | .vrsqrt d a x | .vsqrt d a _ x | .vexp2 d a x | .vlog2 d a x | .vnot d a x
  | .vcvt _ d a _ _ x | .vquant _ d a _ x | .vdequant _ d a _ x | .vbcast d a _ x | .vsigLt _ d a _ x | .vsigGe _ d a _ x
  | .vsigCnt _ d a _ x | .cin d a x | .cout d a x => ([(a, x)], some d)
  | .vredAdd _ _ a _ _ x | .vredMin _ _ a _ _ x | .vredMax _ _ a _ _ x | .vscanAdd _ _ a _ _ x | .vscanMin _ _ a _ _ x
  | .vscanMax _ _ a _ _ x | .cfwd a _ x | .vbrAll a _ x | .vbrAny a _ x => ([(a, x)], none)
  | _ => ([], none)

/-- R71, R307: a routine that waits on a register or slot that nothing under way in its tenon will fill. -/
def Launch.stalled (L : Launch) (T : Tenon) (R : Routine) : Bool :=
  T.longs.isEmpty && T.pendings.all (fun p => p.waiting.isEmpty) && (L.fetchOpw R).any (fun i =>
    let u := vxUse i
    T.sources u.1 == .wait || (T.sources u.1 == .ok && u.2.any (fun d => !T.full d.toNat)))

/-- R219: an op-word that sends a cell. -/
def sendsCell : Instr → Bool
  | .cout _ _ _ | .cfwd _ _ _ => true
  | _ => false

/-- R271: a routine that may still send a cell: it can go on, and its op-words hold one that sends. -/
def Launch.routineSends (L : Launch) (T : Tenon) (R : Routine) : Bool :=
  R.hold == .running && !L.stalled T R && (List.range (R.hi - R.lo)).any (fun k =>
    ((L.opwords[R.lo + k]?).bind decodeOpw).any sendsCell)

/-- R271: no cell, walk or drain of a launch is in progress at a bent. -/
def Bent.quiet (B : Bent) : Bool :=
  B.cells.isEmpty && (NMap.vals B.emit).all List.isEmpty && (NMap.vals B.walks).all List.isEmpty
    && (NMap.vals B.mx).all (fun m => m.drain.isNone)

/-- R152, R273, R297: what an AT holds, or the records of a `round` queue pending at a consolidator, which its unit emits or answers
in the first slot in which it may enter the next round. -/
def State.edgeSends (s : State) (L : Launch) (b : Nat) : Bool :=
  (!(s.bent b).held.isEmpty && s.satisfied b egAT)
    || ((s.bent b).cn.pending.any (fun p => (NMap.getD L.queues p.q default).onRound) && s.satisfied b egCN)

/-- R271: whether a cell can still reach a sink although none is under way. -/
def State.maySink (s : State) (lid : Nat) : Bool :=
  let L := s.launch lid
  L.region.any (fun b => s.edgeSends L b
    || (NMap.vals (s.bent b).tenons).any (fun T => (NMap.vals T.routines).any (L.routineSends T)))

/-- R271: the first three conditions. -/
def State.finished (s : State) (lid : Nat) : Bool :=
  let L := s.launch lid
  (match L.phase with | .running | .gating _ => true | _ => false)
    && (s.strandsOf lid).isEmpty && L.conts.isEmpty && L.readyList.isEmpty && L.scarfs.isEmpty && L.pubAfter.isEmpty
    && !s.packets.any (fun q => q.lid == lid) && L.region.all (fun b => (s.bent b).quiet)

/-- R271: the sum of the sink counters. -/
def State.sinkSum (s : State) (lid : Nat) : Nat := ((s.regionOf lid).map (fun b => (s.bent b).sinkCount)).sum

/-- R271: the launch is complete, or its sinks are over or under what the header says. -/
def execLaunchCompletion (launch : Nat) (s : State) : Out :=
  if (s.launch? launch).isSome && s.finished launch then
    let n := s.sinkSum launch
    let m := (s.launch launch).sinks
    if n = m then .next (s.endLaunch launch)
    else if m < n then .next (s.launchFault launch 0x0A 0 0 0)
    else if s.maySink launch then .next s
    else .next (s.launchFault launch 0x09 0 0 0)
  else .next s

/-! ### Drain (R348, R349) -/

/-- R348: the hang limit passed with no progress. -/
def execHangDetected (launch : Nat) (s : State) : Out :=
  match s.launch? launch with
  | none => .next s
  | some L =>
    if L.phase = .running ∧ (s.part L.part).hangNs ≤ s.dtime - L.lastProgress then .next (s.launchFault launch 0x0B 0 0 0)
    else .next s

/-- R349 step 2, R337: how a walk of a drained launch ends. -/
def Walk.drained (w : Walk) : BitVec 2 :=
  if w.parkedTok.isSome then 3 else if w.cancelled then 2
  else match w.ended with | some q => q | none => if w.begun then 3 else 2

/-- R176, R349: the word of a drained walk, where it can be written. -/
def State.drainWalk (s : State) (b : Nat) (w : Walk) : State :=
  let put (t : State) (loc : Nat) : State := t.write (t.walkWriter b w) loc (leBytes 8 (w.wordValue w.drained)) false
  if w.noWord then s
  else
    match spaceOf b w.word with
    | .own off => (match (s.launch w.lid).spadMap off with | some (o, _) => put s (spadAddr b o) | none => s)
    | .dev va => (let x := s.ctxLoc w.lid true va 8; match x.2 with | some y => put x.1 y.1 | none => x.1)
    | _ => s

/-- R349 step 2, R345: the word of a drained walk that a pre-empted launch holds saved, where it stands in memory. -/
def State.drainSaved (s : State) (B : Bent) (w : Walk) : State :=
  let phs := (NMap.getD B.strands w.slot default).phs
  let wr : Writer := { s.walkWriter w.ownerBent w with phs := phs }
  if w.noWord then s
  else
    match spaceOf w.ownerBent w.word with
    | .dev va =>
      (let x := s.ctxLoc w.lid true va 8
       match x.2 with
       | some y => x.1.write wr y.1 (leBytes 8 (w.wordValue w.drained)) false
       | none => x.1)
    | _ => s

/-- The saved walks of a pre-empted launch, each with its saved bent. -/
def Launch.savedWalks (L : Launch) : List (Bent × Walk) :=
  L.savedBents.flatMap (fun e => e.2.walks.flatMap (fun p => p.2.map (fun w => (e.2, w))))

/-- R349 steps 1 and 3: a bent of the region empty, its matrix tags kept. -/
def Bent.drained (B : Bent) : Bent :=
  match B.launch with
  | some lid => B.placed lid B.index
  | none => B

/-- R349 step 5: the shadow of a buffer, whose front stays as it is. -/
def State.dropShadow (s : State) (lid : Nat) (p : Nat × Buffer) : State :=
  if p.2.shadow then
    (s.bufferHomes lid p.2).foldl (fun t b => t.zero (p.2.place lid b p.1 false 0) p.2.bytes) s
  else s

/-- R349 steps 1 to 5: strands gone, walk words written, cells discarded, shadows dropped; then the closing marker is under way. -/
def State.drainRegion (s : State) (lid : Nat) : State :=
  let s0 := (s.walksOf lid).foldl (fun t w => t.drainWalk w.1 w.2.2) s
  let s1 := (s.launch lid).savedWalks.foldl (fun t x => t.drainSaved x.1 x.2) s0
  let s2 := (s1.launch lid).region.foldl (fun t b => t.updBent b Bent.drained) s1
  let s3 := (s2.launch lid).bufs.foldl (fun t p => t.dropShadow lid p) s2
  { s3 with packets := s3.packets.filter (fun q => q.lid != lid) }.updLaunch lid (fun L =>
    { L with conts := [], readyList := [], scarfs := [], pubAfter := [], pubWait := [], phase := .closing })

/-- R349: the region drained; then, its closing marker having passed every tenon, the launch ended. -/
def execRegionDrain (launch : Nat) (s : State) : Out :=
  match s.launch? launch with
  | none => .next s
  | some L =>
    match L.phase with
    | .draining => .next (s.drainRegion launch)
    | .closing => .next (s.endLaunch launch)
    | _ => .next s

/-! ### PREEMPT (R344) -/

/-- R344: the launch of a partition with a sequence number. -/
def State.launchOfSeq (s : State) (p seq : Nat) : Option Nat :=
  (s.launches.find? (fun l => l.2.part == p && l.2.seq % 2 ^ 48 == seq && l.2.phase != .ended)).map Prod.fst

/-- R350: the scratchpads of a partition zeroed. -/
def State.zeroPart (s : State) (p : Nat) : State := (partBents p).foldl (fun t b => t.zeroSpad b) s

/-- R344, R350: a request begins on a launch; a launch that is not there completed first. With a request in progress a partition is
not offline. -/
def State.beginPreempt (s : State) (p : Nat) (v : Word) (abort : Bool) : State :=
  match s.launchOfSeq p (preemptSeq v) with
  | none => s.updPart p (fun P => { P with preempt := preemptResult v 2 })
  | some lid =>
    if !abort && (s.launch lid).phase == .preempted then s.updPart p (fun P => { P with preempt := preemptResult v 1 })
    else
      let s0 := if (s.part p).offline then s.zeroPart p else s
      let s1 := s0.updPart p (fun P => { P with preempt := preemptBusy v, preempting := some ⟨abort, lid⟩, offline := false })
      if abort then s1.launchFault lid 0x0B 0 0 0 else s1

def execPreemptRequest (p : Nat) (v : Word) (s : State) : Out :=
  if preemptOp v ≠ 1 ∨ (s.part p).preempting.isSome then .next s else .next (s.beginPreempt p v false)

def execAbortRequest (p : Nat) (v : Word) (s : State) : Out :=
  if preemptOp v ≠ 2 ∨ (s.part p).preempting.isSome then .next s else .next (s.beginPreempt p v true)

/-! ### Gating and quiescence (R344, R346) -/

/-- R344, R350: whether a launch is to be pre-empted. -/
def Part.wants (P : Part) (lid : Nat) : Bool :=
  P.psvc == 2 || (match P.preempting with | some r => !r.abort && r.lid == lid | none => false)

/-- R344 steps 1 and 2: a launch whose collectives have ended is gated. -/
def State.gate (s : State) (lid : Nat) : State :=
  s.updLaunch lid (fun L =>
    if L.phase = .running ∧ L.scarfs.isEmpty = true then { L with phase := .gating false, gatedAt := s.dtime } else L)

/-- The launches of a partition. -/
def State.launchesOf (s : State) (p : Nat) : List Nat := (s.launches.filter (fun l => l.2.part == p)).map Prod.fst

def State.gateAll (s : State) (p : Nat) : State :=
  ((s.launchesOf p).filter (s.part p).wants).foldl (fun t lid => t.gate lid) s

/-- R344 step 3, R346: no cell but those kept with a frozen tenon. -/
def Bent.cellsKept (B : Bent) : Bool :=
  B.voq.all (fun q => q.2.isEmpty || B.frozenAt (q.1 / 4 % 16))
    && B.mq.all (fun q => q.2.all (fun c => (bitsOf c.residue).all B.frozenAt))
    && B.landing.all (fun x => B.frozenAt x.1) && B.inbuf.all (fun x => x.2.isEmpty || B.frozenAt x.1)
    && B.fired.all (fun x => B.frozenAt x.1) && B.girtCells.isEmpty && (NMap.vals B.emit).all List.isEmpty

/-- R344: the engines of a bent have run on. -/
def Bent.enginesIdle (B : Bent) : Bool :=
  (NMap.vals B.mx).all (fun m => m.rows.isEmpty && m.inFlight.isEmpty && m.drain.isNone)
    && (NMap.vals B.tenons).all (fun T => T.longs.isEmpty)
    && (NMap.vals B.walks).all (fun l => l.all (fun w => !w.copy || w.off == 0 || w.ended.isSome || w.parkedTok.isSome))

/-- R344 step 2, R305: an operation in flight is only that of an `ldfe` that waits. -/
def Strand.opsHeld (st : Strand) : Bool :=
  let waits (q : SlotState) (id : Nat) : Bool := q == .waiting (.deferred id)
  st.ops.all (fun o => o.kind == .ldfe && o.parked
    && (waits st.state o.id || (match st.saved with | some fr => waits fr.ret o.id | none => false)))

/-- R344 step 3. -/
def State.quiescent (s : State) (lid : Nat) : Bool :=
  (s.regionOf lid).all (fun b => (s.bent b).cellsKept && (s.bent b).enginesIdle)
    && (s.strandsOf lid).all (fun e => e.2.2.opsHeld) && !s.packets.any (fun q => q.lid == lid)
    && ((s.launch lid).conts ++ (s.launch lid).readyList).all (fun c => c.st.ops.isEmpty)

/-! ### Saving (R345) -/

def SlotState.unwait : SlotState → SlotState
  | .waiting _ => .ready
  | .ready => .ready
  | .retiring a => .retiring a

/-- R305, R344: a strand as it is saved: an instruction that waits has not been issued. -/
def Strand.saved' (st : Strand) : Strand :=
  { st with transBad := none, ops := [], state := st.state.unwait, saved := st.saved.map (fun fr => { fr with ret := fr.ret.unwait }) }

/-- R345: a matrix tenon as it is saved: without the weights of a registered image. -/
def Mx.saved (m : Mx) : Mx := if m.tag.reg then { m with image := {} } else m

/-- R345: a bent as it is saved; parked walks translate again, and the pointers of the Mortise and its still-counts are not saved
(R13, R250, R257). -/
def Bent.saved (B : Bent) : Bent :=
  { B with
    mx := B.mx.map (fun m => (m.1, m.2.saved)), transBad := [], tlbOld := []
    gp := Vector.replicate 16 0, ap := Vector.replicate 16 0, acp := Vector.replicate 16 0, stills := []
    strands := B.strands.map (fun e => (e.1, e.2.saved')), deferred := [], rvWait := []
    granules := B.granules.map (fun g => (g.1, { g.2 with npr := 0 }))
    walks := B.walks.map (fun w => (w.1, w.2.map (fun x => { x with parkedTok := none }))) }

/-- R345: the scratchpad bytes and poison marks of a region, by region index. -/
def spadsOf (region : List Nat) (l : List Host.Cell) : List Host.Cell :=
  region.zipIdx.flatMap (fun x =>
    (l.filter (fun c => inRange (spadAddr x.1 0) (2 ^ 22) c.1)).map (fun c => (x.2 * 2 ^ 22 + (c.1 - spadAddr x.1 0), c.2)))

def marksOf (region l : List Nat) : List Nat :=
  region.zipIdx.flatMap (fun x =>
    (l.filter (inRange (spadAddr x.1 0) (2 ^ 22))).map (fun u => x.2 * 2 ^ 22 + (u - spadAddr x.1 0)))

/-- R344: the gates of a launch reopen; a request on it has failed. -/
def State.reopen (s : State) (p lid : Nat) : State :=
  (s.updLaunch lid (fun L => { L with phase := .running, lastProgress := s.dtime })).endPreempt p lid 3

/-- R344 step 4: a launch saved and its bents freed, or resumed in place where the HBM for its state cannot be allocated. -/
def State.saveLaunch (s : State) (lid : Nat) : State :=
  let L := s.launch lid
  let region := L.region
  if partBytes < s.hbmUsed L.part + Config.saveBytes region.length then s.reopen L.part lid
  else
  let s1 := s.setLaunch lid
    { L with
      phase := .preempted, region := [], savedRegion := region, pubWait := [], saved := Config.saveBytes region.length
      savedByMode := (s.part L.part).psvc == 2 && !(s.part L.part).preempting.any (fun r => r.lid == lid)
      savedBents := region.zipIdx.map (fun x => (x.2, (s.bent x.1).saved)), savedMem := spadsOf region s.mem
      savedPoison := marksOf region s.poison }
  let s2 := (region.foldl (fun t b => t.updBent b Bent.freed) s1).updPart L.part (fun P =>
    { P with parked := P.parked.filter (fun q => !region.contains q.2.1) })
  ((s2.journalState L.part L.seq 0x03).endPreempt L.part lid 1).refresh L.part

/-- R344: the launches of a partition that are to be pre-empted are gated; those that have come to rest are saved. -/
def execPreemptQuiescent (p : Nat) (s : State) : Out :=
  let s1 := s.gateAll p
  .next ((s1.launchesOf p).foldl (fun t lid =>
    if (t.launch lid).phase = .gating false ∧ t.quiescent lid = true then t.saveLaunch lid else t) s1)

/-- R344: the gates of a launch reopen where quiescence has not come in time. -/
def State.ungate (s : State) (p lid : Nat) : State :=
  let L := s.launch lid
  if L.phase = .gating false ∧ L.gatedAt + (s.part p).hangNs ≤ s.dtime then
    s.reopen p lid
  else s

def execPreemptTimeout (p : Nat) (s : State) : Out := .next ((s.launchesOf p).foldl (fun t lid => t.ungate p lid) s)

/-! ### PSVC (R350) -/

def execPsvcServe (p : Nat) (s : State) : Out :=
  let s1 := if (s.part p).offline then s.zeroPart p else s
  .next ((s1.updPart p (fun P => { P with psvc := 0, offline := false })).refresh p)

def State.setPsvc (s : State) (p mode : Nat) : State := s.updPart p (fun P => { P with psvc := mode })

def execPsvcStopDispatch (p : Nat) (s : State) : Out := .next (s.setPsvc p 1)

def execPsvcPreemptAll (p : Nat) (s : State) : Out := .next ((s.setPsvc p 2).gateAll p)

/-- R350: every launch drained but those that mode 2 saved. -/
def execPsvcDrainAll (p : Nat) (s : State) : Out :=
  .next (((s.launchesOf p).filter (fun lid => !((s.launch lid).phase == .preempted && (s.launch lid).savedByMode))).foldl (fun t lid => t.launchFault lid 0x0B 0 0 0)
    (s.setPsvc p 3))

/-- R350: a partition is offline. -/
def execPartitionOffline (p : Nat) (s : State) : Out :=
  let P := s.part p
  if P.psvc ≠ 0 ∧ (s.launchesOf p).all (fun lid => (s.launch lid).phase == .preempted) = true ∧ P.preempting.isNone = true then
    .next (s.updPart p (fun P => { P with offline := true }))
  else .next s

end Sys2Proof.Machine
end

