-- ==== Sys2Proof/Machine/Sx.lean ====
section
/-! DEFINITION. The sort engine (R241, R242). -/

namespace Sys2Proof.Machine

def egSX : Nat := 8

/-- R180: a configuration: key type, direction and k. -/
structure SxCfg where
  key : Nat
  desc : Bool
  k : Nat
  deriving DecidableEq, Repr, Inhabited

def SxCfg.of (x : BitVec 32) : SxCfg := ⟨x.toNat % 4, bit x 2, x.toNat / 16 % 64 + 1⟩

/-- R241: the bytes of a key. -/
def SxCfg.size (c : SxCfg) : Nat := if c.key = 3 then 8 else 4

/-- R241: the most keys or pairs of one operation. -/
def SxCfg.most (c : SxCfg) : Nat := if c.key = 3 then 32 else 64

/-- R241: keys in their order as numbers: unsigned, two's complement, or the total order of FP32. -/
def SxCfg.rank (c : SxCfg) (n : Nat) : Nat :=
  match c.key with
  | 1 => (n + 2 ^ 31) % 2 ^ 32
  | 2 => if 2 ^ 31 ≤ n then 2 ^ 32 - 1 - n else n + 2 ^ 31
  | _ => n

/-- R241: whether a key stands strictly before another. -/
def SxCfg.before (c : SxCfg) (a b : Nat) : Bool :=
  if c.desc then decide (c.rank b < c.rank a) else decide (c.rank a < c.rank b)

/-- A key with its index. -/
abbrev SxPair := Nat × Nat

/-- R241: the order of pairs: by key, equal keys by rising index. -/
def SxCfg.pairBefore (c : SxCfg) (a b : SxPair) : Bool :=
  c.before a.1 b.1 || (!c.before b.1 a.1 && decide (a.2 < b.2))

/-- R241: the keys of a cell, or none where LEN does not fit them. -/
def SxCfg.keys (c : SxCfg) (x : Cell) : Option (List Nat) :=
  let n := x.len.toNat / c.size
  if x.len.toNat % c.size ≠ 0 ∨ c.most < n then none
  else some ((List.range n).map (fun i => x.num (c.size * i) c.size))

/-- R241: the pairs of a cell, or none. -/
def SxCfg.pairs (c : SxCfg) (x : Cell) : Option (List SxPair) :=
  let w := 2 * c.size
  let n := x.len.toNat / w
  if x.len.toNat % w ≠ 0 ∨ x.fmt ≠ 15 then none
  else some ((List.range n).map (fun i => (x.num (w * i) c.size, x.num (w * i + c.size) 4)))

/-- R241: the bytes of a pair. -/
def SxCfg.pairBytes (c : SxCfg) (p : SxPair) : List Byte := leBytes c.size p.1 ++ leBytes c.size p.2

/-- R241: an emission of pairs. -/
def SxCfg.pieces (c : SxCfg) (ps : List SxPair) : List Piece1 := runPieces 15 false (ps.flatMap c.pairBytes)

/-- R242: a run in order under a configuration. -/
def SxCfg.ordered (c : SxCfg) : List SxPair → Bool
  | [] => true
  | [_] => true
  | a :: b :: l => !c.before b.1 a.1 && SxCfg.ordered c (b :: l)

/-- R242: two runs merged, the first before the second at equal keys. -/
def SxCfg.merge (c : SxCfg) (a b : List SxPair) : List SxPair := b.foldl (fun l p => insertBy (fun x y => c.before x.1 y.1) p l) a

/-- R229: the pairs of an operation emitted, or its route refused. -/
def State.sxEmit (s : State) (b : Nat) (x : EngIn) (c : InCell) (R : Route) (cfg : SxCfg) (ps : List SxPair) : State :=
  match s.routeCheck c.side.lid R (cfg.pieces ps) with
  | some e => s.refuse b egSX x c e
  | none => (s.eat b egSX x).updBent b (fun B => B.emitAll egSX c.cell c.side R (cfg.pieces ps) (anyPoison x.ops) none)

/-- R242: `sx.sort`. -/
def execSxSort (b : Nat) (s : State) : Out :=
  s.engine b egSX 0x301 (fun _ x c =>
    s.withOperands b egSX x c 2
      (let cfg := SxCfg.of c.cell.arg
       match cfg.keys c.cell, x.ops[1]? with
       | some ks, some r => s.sxEmit b x c r.cell.route cfg (sortBy cfg.pairBefore (ks.zipIdx))
       | _, _ => s.refuse b egSX x c 0x0001))

/-- R242: `sx.merge`. -/
def execSxMerge (b : Nat) (s : State) : Out :=
  s.engine b egSX 0x302 (fun _ x c =>
    s.withOperands b egSX x c 3
      (let cfg := SxCfg.of c.cell.arg
       match cfg.pairs c.cell, (x.ops[1]?).bind (fun o => cfg.pairs o.cell), x.ops[2]? with
       | some p, some q, some r =>
         if p.length + q.length ≤ cfg.most ∧ cfg.ordered p = true ∧ cfg.ordered q = true then
           s.sxEmit b x c r.cell.route cfg (cfg.merge p q)
         else s.refuse b egSX x c 0x0001
       | _, _, _ => s.refuse b egSX x c 0x0001))

/-! ### Running top-k tiles (R242) -/

/-- The issuer of a top-k tile: launch, bent and strand. -/
def topkIssuer (c : Cell) : Nat := c.bent.toNat * 16 + c.strand.toNat

def Bent.topkOf (B : Bent) (i : Nat) : Option TopK := B.topk.find? (fun t => t.issuer == i)
def Bent.setTopk (B : Bent) (t : TopK) : Bent := { B with topk := B.topk.filter (fun u => u.issuer != t.issuer) ++ [t] }
def Bent.dropTopk (B : Bent) (i : Nat) : Bent := { B with topk := B.topk.filter (fun u => u.issuer != i) }

/-- R242: a tile with the keys of one more cell. -/
def TopK.add (t : TopK) (cfg : SxCfg) (ks : List Nat) : TopK :=
  { t with
    seen := t.seen + ks.length
    best := (sortBy cfg.pairBefore (t.best ++ ks.zipIdx.map (fun p => (p.1, t.seen + p.2)))).take cfg.k }

/-- R242: `sx.topk`: one operand, and a route block as a second on the cell that carries EOT. -/
def execSxTopk (b : Nat) (s : State) : Out :=
  s.engine b egSX 0x303 (fun B x c =>
    s.withOperands b egSX x c (if c.cell.eot then 2 else 1)
      (let i := topkIssuer c.cell
       let old := B.topkOf i
       let t := old.getD { issuer := i, cfg := c.cell.arg, seen := 0, best := [], poison := false }
       let cfg := SxCfg.of t.cfg
       match cfg.keys c.cell with
       | none => s.refuse b egSX x c 0x0001
       | some ks =>
         if t.cfg ≠ c.cell.arg ∨ (old.isNone = true ∧ 16 ≤ B.topk.length) then s.refuse b egSX x c 0x0001
         else
           let t1 := { t.add cfg ks with poison := t.poison || anyPoison x.ops }
           if c.cell.eot = false then (s.eat b egSX x).updBent b (fun B => B.setTopk t1)
           else
             match x.ops[1]? with
             | none => s.refuse b egSX x c 0x0001
             | some r =>
               match s.routeCheck c.side.lid r.cell.route (cfg.pieces t1.best) with
               | some e => s.refuse b egSX x c e
               | none =>
                 ((s.eat b egSX x).updBent b (fun B => B.dropTopk i)).updBent b (fun B =>
                   B.emitAll egSX c.cell c.side r.cell.route (cfg.pieces t1.best) t1.poison none)))

end Sys2Proof.Machine
end

