-- ==== Sys2Proof/Machine/Vt.lean ====
section
/-! DEFINITION. The voter (R244), the vote log (R373) and the disagreement counts (R374). -/

namespace Sys2Proof.Machine

def egVT : Nat := 10

/-- R244: copies of one piece of work. -/
def sameVote (a b : Cell) : Bool := a.bent == b.bent && a.strand == b.strand && a.round == b.round && a.seq == b.seq

/-- R244: two copies agree. -/
def agree (a b : Cell) : Bool :=
  a.len == b.len && a.fmt == b.fmt && a.tag == b.tag && a.poison == b.poison && a.eor == b.eor && a.eot == b.eot
    && a.addr == b.addr && a.arg == b.arg && a.bytes == b.bytes

def Vote.is (v : Vote) (c : Cell) : Bool := v.cells.any (fun x => sameVote x.1.cell c)

/-- R244: the tenon that emitted a copy, where a feedback ingress of the own bent brought it. -/
def InCell.emitter (c : InCell) : Option Nat :=
  if c.ing < 12 then none
  else match c.side.src with
    | .engine e => some e
    | _ => none

/-- R374: bent of a partition and tenon as one number. -/
def tenonPlace (j k : Nat) : Nat := j * 8 + k

/-- R374: a tenon quarantined when its count has reached the threshold. -/
def Part.judge (P : Part) (j k : Nat) : Part :=
  if P.vtthr ≤ NMap.getD P.disagree (tenonPlace j k) 0 then
    { P with quarantined := NMap.modify P.quarantined j 0 (fun m => m ||| 2 ^ k) }
  else P

/-- R374: the count of a tenon raised. -/
def Part.disagreed (P : Part) (j k : Nat) : Part :=
  { P with disagree := NMap.modify P.disagree (tenonPlace j k) 0 (fun n => Nat.min 127 (n + 1)) }.judge j k

/-- R373: an entry in the ring of 16. -/
def Bent.logVote (B : Bent) (e : VoteEntry) : Bent :=
  if B.votelog.length < 16 then { B with votelog := B.votelog ++ [e] }
  else
    match B.votelog.drop 1 with
    | [] => { B with votelog := [{ e with ovf := true }] }
    | x :: xs => { B with votelog := { x with ovf := true } :: xs ++ [e] }

def voteEntry (c : Cell) (e kind : Nat) : VoteEntry :=
  { egr := e, bent := c.bent, strand := c.strand, round := c.round, seq := c.seq, kind := kind }

/-- R244, R373, R374: a copy that disagrees; a quarantine may leave a candidate too few bents (R323). -/
def State.disagreed (s : State) (b : Nat) (c : Cell) (e kind : Nat) (count : Bool) : State :=
  let s1 := s.updBent b (fun B => B.logVote (voteEntry c e kind))
  if count then (s1.updPart (b / 24) (fun P => P.disagreed (b % 24) e)).refresh (b / 24) else s1

/-- R244: the forwarded cell. -/
def forwarded (c : Cell) (poison : Bool) : Cell :=
  let n := c.arg.toNat
  { c with
    dest := oneHot (n / 2 ^ 16 % 16), kind := BitVec.ofNat 4 (n / 2 ^ 28), code := BitVec.ofNat 8 (n / 2 ^ 20)
    arg := BitVec.ofNat 32 (n % 2 ^ 16), cls := 0, vote := false, poison := c.poison || poison }

/-- R244: a copy forwarded, where its destination accepts the OP; the VT numbers it by its own counter for the strand and the
destination, as a cell that an engine emits (DESIGN CHOICE, log entry 49). -/
def State.forward (s : State) (b : Nat) (c : InCell) (poison : Bool) : State :=
  let f := forwarded c.cell poison
  if (headerCheck f false).isSome then s.engFault c.side 0x0001
  else s.updBent b (fun B => B.offer egVT { c.side with src := .engine egVT, via := none } f .nothing)

def Bent.setVote (B : Bent) (v : Vote) (c : Cell) : Bent :=
  { B with votes := B.votes.filter (fun u => !u.is c) ++ (if v.cells.length = 3 then [] else [v]) }

/-- R244: a copy joins its vote. -/
def State.vote (s : State) (b : Nat) (v : Vote) (c : InCell) (e : Nat) : State :=
  let cs := v.cells ++ [(c, e)]
  match v.forwarded with
  | some k =>
    let s1 := s.updBent b (fun B => B.setVote { v with cells := cs } c.cell)
    (match cs[k]? with
     | some f => if agree f.1.cell c.cell then s1 else s1.disagreed b c.cell e 0 true
     | none => s1)
  | none =>
    if v.cells.any (fun x => agree x.1.cell c.cell) then
      let s1 := (s.updBent b (fun B => B.setVote { cells := cs, forwarded := some v.cells.length } c.cell)).forward b c false
      (v.cells.filter (fun x => !agree x.1.cell c.cell)).foldl (fun t x => t.disagreed b x.1.cell x.2 0 true) s1
    else
      let s1 := s.updBent b (fun B => B.setVote { cells := cs, forwarded := none } c.cell)
      match cs with
      | [x, y, z] =>
        (((s1.forward b x.1 true).disagreed b x.1.cell x.2 1 false).disagreed b y.1.cell y.2 1 true).disagreed b z.1.cell z.2 1
          true
      | _ => s1

/-- R244: `vt.vote`. -/
def execVtVote (b : Nat) (s : State) : Out :=
  s.engine b egVT 0x501 (fun B x c =>
    s.withOperands b egVT x c 1
      (match (if c.cell.vote then c.emitter else none) with
       | none => s.refuse b egVT x c 0x0001
       | some e =>
         match B.votes.find? (fun v => v.is c.cell) with
         | some v =>
           if v.cells.any (fun y => y.2 == e) then s.refuse b egVT x c 0x0001
           else (s.eat b egVT x).vote b v c e
         | none =>
           if 32 ≤ B.votes.length then s
           else (s.eat b egVT x).vote b { cells := [], forwarded := none } c e))

end Sys2Proof.Machine
end

