-- ==== Sys2Proof/Machine/Recover.lean ====
section
/-! DEFINITION. Errors and repair (R365 to R367, R374 to R376, R354), rollback of a region (R289, R303, R368 to R370, R372), restart
(R371), and host writes through the data window (R352). -/

namespace Sys2Proof.Machine

/-! ### Error counts (R365 to R367) -/

/-- R365, R367: a corrected error. -/
def execCorrectedError (p : Nat) (_u : ErrUnit) (s : State) : Out :=
  .next (s.updPart p (fun P => { P with ce := Nat.min (2 ^ 32 - 1) (P.ce + 1) }))

/-- R365: a patrol scrub leaves nothing that a program can see. -/
def execPatrolScrub (_p _addr : Nat) (s : State) : Out := .next s

/-- R367. -/
def execEccstatClear (p : Nat) (s : State) : Out := .next (s.updPart p (fun P => { P with ce := 0, ue := 0 }))

/-- R371: an error strikes while a region is being restored. -/
def State.strikeRestore (s : State) (lid : Nat) : State :=
  s.updLaunch lid (fun L => if L.phase = .rolling then { L with restoreError := true } else L)

/-- R366, R372: the launch on a bent rolls back, or has one more reason for the rollback in progress. -/
def State.rollbackBent (s : State) (b : Nat) : State :=
  match (s.bent b).launch with
  | some lid => s.startRollback lid
  | none => s

/-- R370, R371: a unit of memory that the restore of a launch reads or writes: scratchpad of its region, or what its undo areas hold. -/
def Launch.restores (L : Launch) (a : Nat) : Bool :=
  (match spadOf a with | some (b, _) => L.region.contains b | none => false) || L.undo.any (fun u => inRange u.base u.old.length a)

/-- R79: the oldest cell in an egress input buffer discarded. -/
def Bent.loseHead (B : Bent) (e : Nat) : Bent := { B with inbuf := NMap.modify B.inbuf e [] (fun l => l.drop 1) }

/-- R366, R79: what an uncorrectable error does to its unit. -/
def State.spoil (s : State) (u : ErrUnit) : State :=
  match u with
  | .mem a =>
    ((s.launches.filter (fun l => l.2.restores a)).foldl (fun t l => t.strikeRestore l.1)
      { s with poison := insertSorted (a / unitSize a * unitSize a) s.poison })
  | .engine b _ => s.rollbackBent b
  | .header b e => (s.updBent b (fun B => B.loseHead e)).rollbackBent b

/-- R366, R367. -/
def execUncorrectableError (p : Nat) (u : ErrUnit) (s : State) : Out :=
  .next (((s.spoil u).updPart p (fun P => { P with ue := Nat.min (2 ^ 32 - 1) (P.ue + 1) })).toHostMsg (.uncorrectable p u))

/-! ### Rollback (R370) -/

/-- Whether a round lies after the cut of a launch. -/
def Launch.afterCut (L : Launch) (r : BitVec 16) : Bool := match L.cutRound with | some n => !notAfter r n | none => true

/-- R370 step 4: a unit of memory with its mark and shadow word as they were; commands in the slots of an enabled queue stay as
appended (R319). -/
def State.undoOne (s : State) (u : Undo) : State :=
  if s.inQueueSlots u.base then s else
  let s1 := { s with mem := Memory.putBytes s.mem u.base u.old, poison := setMark s.poison u.base u.poisoned }
  match u.granule with
  | some g => s1.updGranule u.base (fun _ => g)
  | none => s1

/-- R370 step 4: memory, the latest change first. -/
def State.undoMemory (s : State) (lid : Nat) : State :=
  let L := s.launch lid
  (L.undo.filter (fun u => L.afterCut u.round)).foldl State.undoOne s

/-- R289: the publishes after the cut undone. -/
def Launch.unpublish (L : Launch) : Launch :=
  (L.publishes.filter (fun x => L.afterCut x.1)).foldl (fun L x =>
    { L with bufs := NMap.modify L.bufs x.2 default (fun B => { B with swap := !B.swap }) }) L

/-- R370: the elements of a dataflow channel sent after the cut. -/
def Launch.sentAfter (L : Launch) (h : Nat) : Nat :=
  (L.opLog.filter (fun x => L.afterCut x.1 && x.2 == .sent h)).length

/-- R303, R370: a channel at the cut: a dataflow channel without what was sent since, a request channel as it was opened, with no
request under way. -/
def Launch.cutChan (L : Launch) (h : Nat) (c : Chan) : Chan :=
  match c with
  | .request ob os t n _ => .request ob os t n 0
  | .data n w _ =>
    (match NMap.get? L.chans h with
     | some (.data _ _ es) => .data n w (es.take (es.length - L.sentAfter h))
     | _ => c)

/-- R261, R370: the identifiers taken after the cut, to be handed out again in order. -/
def Launch.idsBack (L : Launch) : NMap (List Nat) :=
  let taken := L.opLog.filterMap (fun x => match x.2 with | .id j n => if L.afterCut x.1 then some (j, n) else none | _ => none)
  (List.range L.region.length).map (fun j =>
    (j, (taken.filter (fun t => t.1 == j)).map Prod.snd ++ NMap.getD L.returnedIds j []))

/-- R289, R303, R370: what the command processor keeps of a launch, at its cut. -/
def Launch.atCut (L : Launch) : Launch :=
  let L1 := L.unpublish
  { L1 with
    bars := L.cutHandles.bars, queues := L.cutHandles.queues
    chans := L.cutHandles.chans.map (fun c => (c.1, L.cutChan c.1 c.2))
    bufs := L1.bufs.map (fun p => (p.1, { p.2 with rankMap := NMap.get? L.cutHandles.ranks p.1 }))
    returnedIds := L.idsBack, conts := [], readyList := []
    scarfs := L.scarfs.filter (fun c => !L.afterCut c.2.writer.round)
    pubAfter := [], pubWait := [], strandMarks := [], unitMarks := [], opLog := [], undo := []
    lastWrites := L.lastWrites.map (fun e => (e.1, e.2.filter (fun w => !L.afterCut w.round)))
    syncs := L.syncs.map (fun e => (e.1, e.2.filter (fun r => !L.afterCut r.round)))
    publishes := [], posLog := [], nonReplayable := [], unrecoverable := [], restoreError := false, rolledAt := some L.cutRound }

/-- R370: a rendezvous entry at the cut: the operands that had come by then. -/
def Bent.cutEntry (U : Bent) (L : Launch) (key : Nat) (r : RvEntry) : RvEntry :=
  match NMap.get? U.rv key with
  | some q =>
    if q.lid = r.lid ∧ q.ownerBent = r.ownerBent ∧ q.ownerSlot = r.ownerSlot then
      { r with operands := q.operands.filter (fun c => !L.afterCut c.2.cell.round) }
    else r
  | none => r

/-- R370: the sink slots at the cut: those that SQ had filled by then, and those emptied since. -/
def Bent.cutSinks (U : Bent) (L : Launch) (j : Nat) : NMap SinkSlot :=
  let filled := U.sinks.filter (fun v => !L.afterCut v.2.round)
  L.opLog.foldl (fun m x =>
    match x.2 with
    | .sunk i n v => if i = j ∧ L.afterCut x.1 = true ∧ L.afterCut v.round = false then NMap.set m n v else m
    | _ => m) filled

/-- R370: the bent of a region index as a unit left it at the cut. -/
def Launch.unitAt (L : Launch) (lid j : Nat) (B : Bent) (e : Nat) : Bent :=
  match L.cutUnits.find? (fun m => m.unit == j * 16 + e) with
  | some m => m.bent
  | none => B.placed lid j

/-- A map made from the values that units had at some numbers. -/
def gatherUnits {α : Type} (n base : Nat) (unit : Nat → Bent) (f : Bent → NMap α) : NMap α :=
  (List.range n).filterMap (fun k => (NMap.get? (f (unit (base + k))) k).map (fun v => (k, v)))

/-- R370 step 6: the number of a stream's next cell at the cut: those sent since are sent again, with the numbers that they had. -/
def Launch.cutStream (L : Launch) (j : Nat) (x : Nat × BitVec 16) : Nat × BitVec 16 :=
  let sent := (L.posLog.filter (fun p => p.1 / 65536 == logKey j x.1 0 / 65536 && L.afterCut (BitVec.ofNat 16 (p.1 % 65536)))).map Prod.snd
  (x.1, x.2 - BitVec.ofNat 16 sent.sum)

/-- R345, R370: the next numbers of the cells that engines emit, as their units had them at the cut (`seqKey`). -/
def cutEngSeq (U : Nat → Bent) : NMap (BitVec 16) :=
  (List.range 16).foldl (fun m e => ((U e).engSeq.filter (fun x => x.1 / 2 ^ 32 == e)).foldl (fun m x => NMap.set m x.1 x.2) m) []

/-- R370 steps 2 and 5: a bent at the cut: its cells gone but for those that its engines hand on again, its engines and its control
registers as they were, the walks issued later discarded. -/
def Launch.cutBent (L : Launch) (lid j : Nat) (B : Bent) : Bent :=
  let U := L.unitAt lid j B
  let ctl := NMap.getD L.cutHandles.ctls j (256, 4096)
  { B with
    ageLimit := ctl.1, dlWindow := ctl.2, dlLive := ctl.2, ageLive := ctl.1, transBad := [], engSeq := cutEngSeq U
    streamSeq := B.streamSeq.map (L.cutStream j)
    strands := [], deferred := [], granules := B.granules.map (fun g => (g.1, { g.2 with npr := 0 }))
    voq := [], mq := [], landing := [], inbuf := [], fired := [], rvWait := [], stills := [], pairs := [], fbSent := []
    gs := [], gr := [], gsSent := [], gsMarks := [], emit := gatherUnits 16 0 U Bent.emit
    rv := (L.cutStrands.flatMap (fun m => (m.rv.filter (fun r => r.1 == j)).map (fun r =>
      (r.2.1, (U (r.2.1 / 32)).cutEntry L r.2.1 r.2.2)))).foldl (fun m r => NMap.set m r.1 r.2) []
    sinks := (U egSQ).cutSinks L j, sinkCount := (U egSQ).sinkCount
    unitRound := match L.cutRound with | some n => (List.range 16).map (fun e => (e, n + 1)) | none => []
    mx := gatherUnits 4 0 U Bent.mx, tenons := gatherUnits 4 4 U Bent.tenons, topk := (U egSX).topk, cn := (U egCN).cn
    votes := (U egVT).votes, held := (U egAT).held
    walks := B.walks.map (fun w => (w.1, w.2.filter (fun x => !L.afterCut x.round))) }

/-- R370 step 5: a strand at the cut: what it had in flight is carried out again. -/
def Strand.replay (st : Strand) : Strand := { st with transBad := none, ops := st.ops.map (fun o => { o with parked := false }) }

/-- R183, R184: the requests that a strand has to send again. -/
def Strand.requests (st : Strand) : List (Nat × Packet) :=
  st.ops.filterMap (fun o =>
    match o.path, spadOf o.loc with
    | .request h, some (t, _) =>
      if o.done then none
      else some (h, { lid := st.lid, bent := st.ownerBent, slot := st.ownerSlot, opId := o.id, target := t, off := o.loc
                      write := o.kind == .rst, data := o.data, poison := o.dpois })
    | _, _ => none)

def State.resend (s : State) (st : Strand) : State :=
  st.requests.foldl (fun t r => { (t.updLaunch st.lid (fun L => L.useSlot r.1 (· + 1))) with packets := t.packets ++ [r.2] }) s

/-- R370 step 5: a strand put back where it was; where two stood in one slot, the second resumes when a slot is free. -/
def State.putBack (s : State) (lid : Nat) (m : StrandMark) : State :=
  let st := m.st.replay
  let b := (s.regionOf lid).getD m.bent 0
  let s1 := s.resend st
  match s1.strand? b m.slot with
  | none => s1.setStrand b m.slot st
  | some _ =>
    s1.updLaunch lid (fun L =>
      { L with readyList := L.readyList ++ [{ st := st, live := BitVec.allOnes 48, waitOn := 0, waitLoc := none }] })

/-- R183, R294: the reassembly places of a bent that channels and walks of a launch do not hold. -/
def State.poolLeft (s : State) (lid t : Nat) : Nat :=
  let chans := (NMap.vals (s.launch lid).chans).map (fun c => match c with | .request _ _ u n _ => if u = t then n else 0 | .data _ _ _ => 0)
  let walks := (s.walksOf lid).filter (fun w => w.2.2.reserved == some t)
  256 - (chans.sum + 8 * walks.length)

/-- R370 step 2: the parked walks of a partition that are still there. -/
def State.keepParked (s : State) (p : Nat) : State :=
  s.updPart p (fun P => { P with parked := P.parked.filter (fun q =>
    (NMap.getD (s.bent q.2.1).walks q.2.2 []).any (fun w => w.parkedTok == some q.1)) })

/-- R370: the region at its last cut. -/
def State.restoreCut (s : State) (lid : Nat) : State :=
  let s1 := s.undoMemory lid
  let L := s1.launch lid
  let s2 := L.region.zipIdx.foldl (fun t x => t.updBent x.1 (fun B => L.cutBent lid x.2 B)) s1
  let s3 := { s2.setLaunch lid { L.atCut with phase := .running, lastProgress := s.dtime } with
    packets := s2.packets.filter (fun q => q.lid != lid) }
  let s4 := L.cutStrands.foldl (fun t m => t.putBack lid m) s3
  let s5 := L.region.foldl (fun t b => t.updBent b (fun B => { B with pool := s4.poolLeft lid b })) s4
  (L.bufs.foldl (fun t p => t.foldsOf L.region p.1) s5).keepParked L.part

/-- R377 to R379: a rollback or restart in a command's record. -/
def State.journalRoll (s : State) (p seq state : Nat) : State :=
  s.journal p seq (fun j => { j with state := state, rolls := Nat.min 255 (j.rolls + 1) })

/-! ### Restart (R371) -/

/-- R371: a launch ends with a fault of its restart. -/
def State.failRestart (s : State) (lid fault : Nat) : State :=
  s.updLaunch lid (fun L => { L with fault := fault, tfault := s.dtime, phase := .draining })

/-- R371, R349: the region drained and the launch placed again from its command. -/
def State.restart (s : State) (lid : Nat) : State :=
  let L := s.launch lid
  let r := (s.drainRegion lid).loadBox L.part L.ctx L.cbase.toNat
  match r.2 with
  | .inl f => r.1.failRestart lid f
  | .inr x =>
    let s1 := r.1.eraseLaunch lid
    let region := s1.chooseBents L.part x.head.region x.images
    if region.length < x.head.region ∨ partBytes < s1.hbmUsed L.part + x.bytes then r.1.failRestart lid 0x04
    else
      ((s1.begin_ { launchFrom L.cmd L.tapp L.seq L.part L.queue x region with
          tier := L.tier, deadline := L.deadline, tdisp := L.tdisp, restarts := L.restarts + 1 } x).journalRoll L.part L.seq 0x06).refresh
        L.part

/-- R371: what makes a rollback a restart. -/
def Launch.escalates (L : Launch) : Bool :=
  L.unrecoverable.any L.afterCut || L.restoreError || L.nonReplayable.any L.afterCut || L.rolledAt == some L.cutRound

/-- R370, R371, R372. -/
def execRegionRollback (launch : Nat) (s : State) : Out :=
  match s.launch? launch with
  | none => .next s
  | some L =>
    if L.phase = .rolling then
      .next (if L.escalates then
          (if 1 ≤ L.restarts ∨ L.noRestart = true then s.launchFault launch 0x0C 0 0 0 else s.restart launch)
        else (s.restoreCut launch).journalRoll L.part L.seq 0x05)
    else .next s

/-! ### Host writes (R352) -/

/-- Where a byte of a host write lies: the front of a placed launch's buffer, else where its context maps it. -/
def State.hostLoc (s : State) (p c va : Nat) : State × Option Nat :=
  let home := s.launches.findSome? (fun l =>
    if l.2.part = p ∧ l.2.ctx = c then (l.2.devBuffer va).map (fun x => (l.1, l.2, x)) else none)
  match home with
  | some (lid, L, bt, B) => (s, some (backAddr lid bt (B.shadow && B.swap) (va - (L.bufva.toNat + B.boff))))
  | none =>
    let x := s.cpTouch p c false true va 1
    (x.1, x.2.map Prod.fst)

/-- Where the bytes of a host write lie; none where one of them does not translate. -/
def State.hostLocs (s : State) (p c va n : Nat) : State × Option (List Nat) :=
  (List.range n).foldl (fun r k =>
    match r.2 with
    | none => r
    | some l =>
      let x := r.1.hostLoc p c (va + k)
      (x.1, x.2.map (fun a => l ++ [a]))) (s, some [])

/-- Bytes at addresses as runs of neighbouring bytes. -/
def byteRuns : List Nat → List Byte → List (Nat × List Byte)
  | a :: as, v :: vs =>
    (match byteRuns as vs with
     | (c, l) :: rest => if c = a + 1 then (a, v :: l) :: rest else (a, [v]) :: (c, l) :: rest
     | [] => [(a, [v])])
  | _, _ => []

/-- R319, R352: a host write, or its refusal. -/
def execHostWindowWrite (p c : Nat) (addr : Word) (bytes : List Byte) (s : State) : Out :=
  if 2 ^ 52 ≤ addr.toNat then .next (s.toHostMsg (.windowRefused p addr.toNat))
  else
    let r := s.hostLocs p c addr.toNat bytes.length
    match r.2 with
    | none => .next (r.1.toHostMsg (.windowRefused p addr.toNat))
    | some l => .next ((byteRuns l bytes).foldl (fun t x => t.poke x.1 x.2) r.1)

/-! ### REPAIR (R375) -/

/-- R375: fields of REPAIR. -/
def repairUnmapBit (v : Word) : Bool := v.getLsbD 16
def repairBent (v : Word) : Nat := v.toNat / 2 ^ 8 % 256
def repairSpare (v : Word) : Nat := v.toNat % 2

/-- R375: a write taken: BUSY reads 1. -/
def State.beginRepair (s : State) (p : Nat) (v : Word) (unmap : Bool) : State :=
  let b := repairBent v
  if (s.part p).repairing.isSome ∨ 192 ≤ b ∨ (s.part (b / 24)).offline = false then s
  else
    s.updPart p (fun P =>
      { P with repair := (v &&& 0xFF01) ||| 0x8000000000000000, repairing := some (unmap, b, repairSpare v) })

def execRepairMap (p : Nat) (v : Word) (s : State) : Out :=
  if repairUnmapBit v then .next s else .next (s.beginRepair p v false)

def execRepairUnmap (p : Nat) (v : Word) (s : State) : Out :=
  if repairUnmapBit v then .next (s.beginRepair p v true) else .next s

/-- R375: another bent of the die that a spare answers for, by a `REPAIR` or by fuses. -/
def State.spareUsed (s : State) (b spare : Nat) : Bool :=
  s.device.spares.any (fun m => m.1 != b && dieOf m.1 == dieOf b && m.2 == spare)
    || (List.range 192).any (fun m => m != b && dieOf m == dieOf b && (Config.fusedMap m).any (fun n => n % 2 == spare))

/-- R375: the hardware behind a bent number changes: its scratchpad is zeroed, and its word of R374 reads 0. -/
def State.newBent (s : State) (b : Nat) (spares : NMap Nat) : State :=
  let s1 := (s.setBent b {}).zeroSpad b
  { s1.updPart (b / 24) (fun P =>
      { P with
        disagree := P.disagree.filter (fun d => d.1 / 8 != b % 24), quarantined := NMap.erase P.quarantined (b % 24) }) with
    device := { s1.device with spares := spares } }

/-- R375: what a mapping comes to. -/
def State.repairResult (s : State) (unmap : Bool) (b spare : Nat) : State × Nat :=
  if (Config.fusedMap b).isSome then (s, 2)
  else if unmap then (if NMap.has s.device.spares b then (s.newBent b (NMap.erase s.device.spares b), 1) else (s, 1))
  else if s.spareUsed b spare then (s, 2)
  else if Config.spareFaulty (dieOf b) spare then (s, 3)
  else (s.newBent b (NMap.set s.device.spares b spare), 1)

/-- R323, R375: the mapping is finished; a bent may be placeable again. -/
def execRepairMappingDone (p : Nat) (s : State) : Out :=
  match (s.part p).repairing with
  | none => .next s
  | some (unmap, b, spare) =>
    let r := s.repairResult unmap b spare
    .next ((r.1.updPart p (fun P =>
      { P with repairing := none, repair := (P.repair &&& 0xFF01) ||| BitVec.ofNat 64 (r.2 * 2 ^ 61) })).refresh (b / 24))

/-! ### Links (R354, R376) -/

def State.setLink (s : State) (l : Nat) (x : Link) : State := { s with links := NMap.set s.links l x }

/-- R376: the send window, arbiter weight and routing cost of a link. -/
def State.linkWindow (s : State) (l : Nat) : Nat := if (s.link l).half then Config.linkWindow l / 2 else Config.linkWindow l
def State.linkWeight (s : State) (l : Nat) : Nat := if (s.link l).half then Config.linkWeight l / 2 else Config.linkWeight l
def State.linkCost (s : State) (l : Nat) : Nat := if (s.link l).half then Config.linkCost l * 2 else Config.linkCost l

/-- R376: a link at half or full width: its new cost is advertised to its neighbours, and the host is told. -/
def State.setWidth (s : State) (link : Nat) (half : Bool) : State :=
  let s1 := s.setLink link { s.link link with half := half }
  (s1.toPeer (.cost link (s1.linkCost link))).toHostMsg (.lane link half)

/-- R376. -/
def execLaneLoss (link : Nat) (s : State) : Out :=
  let x := s.link link
  if x.half ∨ x.failed then .next s else .next (s.setWidth link true)

def execLaneRestore (link : Nat) (s : State) : Out :=
  let x := s.link link
  if x.half = false ∨ x.failed = true then .next s else .next (s.setWidth link false)

/-- R354: a flit sent again; the messages in it are delivered once. -/
def execFlitReplay (link : Nat) (s : State) : Out :=
  let x := s.link link
  if x.failed then .next s else .next (s.setLink link { x with replays := x.replays + 1 })

/-- The first n elements of a list that a test holds of removed. -/
def dropFirst {α : Type} (p : α → Bool) : Nat → List α → List α
  | _, [] => []
  | 0, l => l
  | n + 1, x :: l => if p x then dropFirst p n l else x :: dropFirst p (n + 1) l

/-- R354: a link is lost, with the last of its messages, which are not delivered: how many they are is open (log entry 11). -/
def execLinkFailure (link : Nat) (s : State) : Out :=
  let x := s.link link
  if x.failed then .next s
  else
    let on (m : PeerMsg) : Bool := m.device.any (fun d => portTo d == link)
    .next { s.setLink link { x with failed := true } with
      toPeers := (dropFirst on (Config.undelivered s.nonce) s.toPeers.reverse).reverse, nonce := s.nonce + 1 }

end Sys2Proof.Machine
end

