-- ==== Sys2Proof/Machine/Device.lean ====
section
/-! DEFINITION. The device window: firmware (R380, R381), attestation (R383), key slots (R384), debug (R385), supplies and
bring-up (R386, R387), power (R388), the fabric identifier (R398); and window registers without a row of their own (R319, R325,
R338, R340, R344, R348, R374, R388). -/

namespace Sys2Proof.Machine

def State.updDevice (s : State) (f : Device → Device) : State := { s with device := f s.device }

/-! ### Firmware (R380, R381) -/

/-- R381: an accepted image installed; its version is the new minimum. -/
def Device.install (D : Device) (kind version : Nat) (image : List Byte) : Device :=
  { D with
    fwImage := NMap.set D.fwImage kind image, fwVersion := NMap.set D.fwVersion kind version
    fwMin := NMap.set D.fwMin kind version }

/-- R380, R381: a firmware image supplied for a partition that is offline, or after a refusal at bring-up. -/
def execFirmwareReplace (p kind version : Nat) (image : List Byte) (s : State) : Out :=
  let D := s.device
  if ((s.part p).offline || D.refusedImage.isSome) && decide (kind < 3) && D.verifies kind version image then
    .next { s with device := D.install kind version image }
  else .next (s.toHostMsg (.firmwareRefused kind))

/-! ### Attestation (R383) -/

/-- R383: the 380 bytes of a report that are signed. -/
def State.reportBody (s : State) (nonce : List Byte) : List Byte :=
  let D := s.device
  let keys := ((List.range 64).filter (fun k => NMap.has D.keySlots k)).foldl (fun n k => n + 2 ^ k) 0
  let off := ((List.range 8).filter (fun p => (s.part p).offline)).foldl (fun n p => n + 2 ^ (p + 1)) 0
  leBytes 8 (0x4B525A39 * 2 ^ 32 + 0x00A0) ++ leBytes 8 s.dtime ++ padTo 64 0 nonce
    ++ (List.range 3).flatMap (fun k => padTo 64 0 (sha512 (D.image k))) ++ leBytes 8 keys
    ++ leBytes 8 ((if D.debug then 1 else 0) + off) ++ List.replicate 92 0

/-- R383: the report. -/
def State.reportOf (s : State) (nonce : List Byte) : List Byte :=
  s.reportBody nonce ++ padTo 132 0 (Config.attestationSignature (s.reportBody nonce))

/-- R383: a nonce starts a report, or waits for the one being formed. -/
def execAttestationRequest (nonce : List Byte) (s : State) : Out :=
  .next (s.updDevice (fun D =>
    if D.forming.isSome then { D with nonces := D.nonces ++ [nonce] } else { D with forming := some nonce }))

/-- R383: the report is complete; the next nonce starts. -/
def execAttestationReportDone (s : State) : Out :=
  match s.device.forming with
  | none => .next s
  | some n =>
    .next (s.updDevice (fun D =>
      { D with report := s.reportOf n, lastNonce := padTo 64 0 n, forming := D.nonces.head?, nonces := D.nonces.drop 1 }))

/-! ### Key slots (R384) -/

def keyOp (v : Word) : Nat := v.toNat / 2 ^ 58 % 4
def keySlot (v : Word) : Nat := v.toNat / 2 ^ 48 % 64
def keyAddr (v : Word) : Nat := v.toNat % 2 ^ 48 / 64 * 64

/-- R384: a write of KEYCMD taken: BUSY reads 1. -/
def State.beginKey (s : State) (v : Word) (load : Bool) : State :=
  if s.device.keyBusy.isSome then s
  else s.updDevice (fun D =>
    { D with keycmd := (v &&& 0x003FFFFFFFFFFFC0) ||| 0x8000000000000000, keyBusy := some (load, keySlot v, keyAddr v) })

def execKeyLoad (v : Word) (s : State) : Out := if keyOp v = 1 then .next (s.beginKey v true) else .next s
def execKeyClear (v : Word) (s : State) : Out := if keyOp v = 2 then .next (s.beginKey v false) else .next s

/-- R384: a slot that an enabled context or image names. -/
def State.keyInUse (s : State) (slot : Nat) : Bool :=
  (List.range 8).any (fun p =>
    (NMap.vals (s.part p).images).any (fun i => i.en && i.kslot == slot))
    || (NMap.vals s.ctxs).any (fun c => c.en && c.kslot == slot)

/-- R384: the blob at a physical address. -/
def State.keyBlob (s : State) (addr : Nat) : List Byte := if addr + 193 ≤ hbmBytes then Memory.getBytes s.mem addr 193 else []

/-- R384: RESULT of an operation, and the slots after it. -/
def State.keyResult (s : State) (load : Bool) (slot addr : Nat) : Nat × NMap (List Byte) :=
  let keys := s.device.keySlots
  let blob := s.keyBlob addr
  if load && s.device.debug then (4, keys)
  else if s.keyInUse slot then (3, keys)
  else if !load then (1, NMap.erase keys slot)
  else if blob.isEmpty || !Config.keyBlobOk slot blob then (2, keys)
  else (1, NMap.set keys slot blob)

/-- R384: the operation is over. -/
def execKeycmdDone (s : State) : Out :=
  match s.device.keyBusy with
  | none => .next s
  | some (load, slot, addr) =>
    let r := s.keyResult load slot addr
    .next (s.updDevice (fun D =>
      { D with keyBusy := none, keySlots := r.2, keycmd := (D.keycmd &&& 0x003FFFFFFFFFFFC0) ||| BitVec.ofNat 64 (r.1 * 2 ^ 60) }))

/-! ### Debug (R385) -/

/-- Host memory: what lies outside the device. -/
def isHost (a : Nat) : Bool := decide (2 ^ 60 ≤ a) && decide (a < 2 ^ 80)

/-- R385: a launch ended as drain ends it, without a record: with the fault that it was draining for, else as an abort. -/
def State.endUnrecorded (s : State) (lid : Nat) : State :=
  let L := s.launch lid
  ((s.journalEnd L.part L.seq (if L.fault = 0 then 0x0B else L.fault)).endPreempt L.part lid 0).eraseLaunch lid

/-- R385: HBM and every SRAM zeroed. -/
def State.zeroDevice (s : State) : State :=
  { s with
    mem := s.mem.filter (fun c => isHost c.1), poison := s.poison.filter isHost, scrubQueue := [], bents := [], packets := []
    dies := [] }

/-- R385: a token unlocks debug, once keys, memory and launches are gone. -/
def execDebugUnlock (token : List Byte) (s : State) : Out :=
  if s.device.lastNonce ≠ [] ∧ Config.debugTokenOk (token ++ s.device.lastNonce) = true then
    let s1 := ((s.launches.map Prod.fst).foldl State.endUnrecorded s).zeroDevice
    .next ((List.range 8).foldl (fun t p => t.refresh p) (s1.updDevice (fun D => { D with keySlots := [], pageKeys := [], debug := true })))
  else .next s

/-! ### Reset (R386 to R388) -/

/-- R387: the device after bring-up: what lies outside it, its fuses and its firmware remain (log entry 27). -/
def State.bringUp (s : State) : State :=
  let D : Device := { fwImage := s.device.fwImage, fwVersion := s.device.fwVersion, fwMin := s.device.fwMin }
  { State.reset with
    agenda := s.agenda, auto := s.auto, dtime := s.dtime, nonce := s.nonce, toHost := s.toHost, toPeers := s.toPeers
    mem := s.mem.filter (fun c => isHost c.1), poison := s.poison.filter isHost
    device := D }

/-- R387: reset is released. -/
def execResetRelease (s : State) : Out := if s.device.inReset then .next s.bringUp else .next s

/-- R386: a rail leaves its range. -/
def execSupplyOutOfRange (_rail : Nat) (s : State) : Out := .next (s.updDevice (fun D => { D with inReset := true }))

/-- R388: the junction reaches 115 °C: the device enters reset, and the journal keeps what it holds. -/
def execThermalShutdown (s : State) : Out := .next (s.updDevice (fun D => { D with inReset := true }))

/-! ### Power (R388) -/

/-- R388: the slots gated of 16: above a limit 1 to 15 of them, else no more than before. -/
def Device.gateAfter (D : Device) (watts tj n : Nat) : Nat :=
  let g := Config.gatedSlots watts D.pwrcap (tj % 2 ^ 12 + 2 ^ 12 * n)
  if D.pwrcap < watts ∨ 840 < tj then 1 + g % 15 else Nat.min D.gate (g % 16)

/-- R388: the millisecond measurement; at 115 °C the device enters reset. -/
def execPowerMeasurement (watts tj : Nat) (s : State) : Out :=
  .next { s.updDevice (fun D =>
    { D with
      inReset := D.inReset || decide (920 ≤ tj % 2 ^ 12)
      watts := watts % 2 ^ 12, tj := tj % 2 ^ 12, mv := clampTo 420 520 (Config.coreMillivolts s.nonce)
      gate := D.gateAfter watts tj (s.nonce + 1) }) with nonce := s.nonce + 2 }

/-! ### FABID (R398) -/

/-- R398: a collective of the device is running. -/
def State.scarfRunning (s : State) : Bool := s.launches.any (fun l => !l.2.scarfs.isEmpty)

def execFabidWrite (v : Word) (s : State) : Out :=
  if s.scarfRunning then .next s else .next (s.updDevice (fun D => { D with fabid := v.extractLsb' 0 16, fabidValid := true }))

/-! ### Registers without a row of their own -/

/-- R319: a number of slots that SLOTS takes. -/
def slotsOk (n : Nat) : Bool := decide (16 ≤ n) && decide (n ≤ 65536) && n == 2 ^ Nat.log2 n

/-- R319: BASE and SLOTS. -/
def Qcb.store (Q : Qcb) (f : Nat) (v : Word) : Qcb :=
  if Q.en then Q
  else if f = 0 then (if v.toNat % 4096 = 0 then { Q with base := v.toNat } else Q)
  else if f = 8 then (if slotsOk (v.toNat % 2 ^ 32) then { Q with slots := v.toNat % 2 ^ 32 } else Q)
  else Q

/-- R338: the fields of a context other than EN. -/
def Ctx.store (C : Ctx) (f : Nat) (v : Word) : Ctx :=
  if C.en then C
  else if f = 0 then { C with droot := v.toNat }
  else if f = 8 then { C with hroot := v.toNat }
  else if f = 16 then { C with kslot := v.toNat % 64, pmask := v.toNat / 2 ^ 8 % 256 }
  else C

/-- R340: the fields of a registered image. -/
def ImageReg.store (I : ImageReg) (f : Nat) (v : Word) : ImageReg :=
  let n := v.toNat
  let en := n / 2 ^ 56 % 2 == 1
  if I.en then (if f = 0 then { I with en := en } else I)
  else if f = 0 then { I with imgid := n % 2 ^ 32, version := n / 2 ^ 32 % 2 ^ 16, kslot := n / 2 ^ 48 % 64, en := en }
  else if f = 8 then { I with grant := v }
  else if f = 16 then { I with base := n }
  else if f = 24 then { I with bytes := n }
  else I

/-- R374: every tenon judged again. -/
def Part.judgeAll (P : Part) : Part := (List.range 192).foldl (fun P n => P.judge (n / 8) (n % 8)) P

/-- R374: the counts of a bent. -/
def Part.storeCounts (P : Part) (j : Nat) (v : Word) : Part :=
  ({ P with disagree := (List.range 8).foldl (fun m k => NMap.set m (tenonPlace j k) (v.toNat / 2 ^ (7 * k) % 128)) P.disagree }).judgeAll

/-- R325: TIEROFF. -/
def Part.storeTier (P : Part) (t : Nat) (v : Word) : Part :=
  { P with tierOff := if h : t < 8 then P.tierOff.set t (v.toNat % 2 ^ 40) h else P.tierOff }

/-- R344: a write of PREEMPT that starts nothing. -/
def Part.storePreempt (P : Part) (v : Word) : Part :=
  if P.preempting.isSome ∨ preemptOp v = 1 ∨ preemptOp v = 2 then P
  else { P with preempt := (v &&& 0xC000FFFFFFFFFFFF) ||| (P.preempt &&& 0x3000000000000000) }

/-- A write to a partition's management window. -/
def Part.store (P : Part) (off : Nat) (v : Word) : Part :=
  if off % 8 ≠ 0 then P
  else if 0x800 ≤ off ∧ off < 0x840 then P.storeTier ((off - 0x800) / 8) v
  else if off = 0x840 then { P with floor := clampTo 4 64 v.toNat }
  else if off = 0x860 then P.storePreempt v
  else if off = 0x868 then { P with hangNs := clampTo (10 ^ 6) (2 ^ 40 - 1) v.toNat }
  else if off = 0x880 then ({ P with vtthr := Nat.max 1 (v.toNat % 128) }).judgeAll
  else if 0x2000 ≤ off ∧ off < 0x2800 then
    { P with images := NMap.modify P.images ((off - 0x2000) / 32) {} (fun I => I.store (off % 32) v) }
  else if 0x3000 ≤ off ∧ off < 0x30C0 then P.storeCounts ((off - 0x3000) / 8) v
  else if 0x4000 ≤ off ∧ off < 0x8000 then
    { P with qcbs := NMap.modify P.qcbs ((off - 0x4000) / 64) {} (fun Q => Q.store (off % 64) v) }
  else P

/-- R388: PWRCAP, at the offset of the device window that this model gives it (log entry 28). -/
def Device.store (D : Device) (off : Nat) (v : Word) : Device :=
  if off = 0 then { D with pwrcap := clampTo 600 2100 v.toNat } else D

/-- A write to a window register whose table alone says what it does. -/
def execRegisterWrite (w : Window) (off : Nat) (v : Word) (s : State) : Out :=
  match w with
  | .partition p =>
    if 8 ≤ p then .next s
    else if 0x1000 ≤ off ∧ off < 0x2000 then
      .next (if off % 8 = 0 then (s.updCtx ((off - 0x1000) / 64) (fun C => C.store (off % 64) v)).refreshAll else s)
    else .next ((s.updPart p (fun P => P.store off v)).refresh p)
  | .device => .next (s.updDevice (fun D => D.store off v))

/-! ### What windows read as (R344, R350, R367, R374, R375, R383, R384, R388, R398) -/

/-- R367. -/
def Part.readEccstat (P : Part) : Word := BitVec.ofNat 64 (P.ce * 2 ^ 32 + P.ue)

/-- R350. -/
def Part.readPsvc (P : Part) : Word := BitVec.ofNat 64 ((if P.offline then 4 else 0) + P.psvc)

/-- R374. -/
def Part.readDisagree (P : Part) (j : Nat) : Word :=
  BitVec.ofNat 64 (NMap.getD P.quarantined j 0 % 256 * 2 ^ 56
    + (List.range 8).foldl (fun n k => n + NMap.getD P.disagree (tenonPlace j k) 0 % 128 * 2 ^ (7 * k)) 0)

/-- R382: Krealmya's certificate for the identity key, and the public key-wrap key that the identity key has signed. -/
def Device.readCertificate (_D : Device) : List Byte := Config.identityCertificate
def Device.readKeyWrapKey (_D : Device) : List Byte := Config.signedKeyWrapKey

/-- R380: FWSTAT: the image that the boot ROM refused, if one. -/
def Device.readFwstat (D : Device) : Option Nat := D.refusedImage

/-- R388. -/
def Device.readPwrstat (D : Device) : Word :=
  BitVec.ofNat 64 (D.watts * 2 ^ 36 + D.mv * 2 ^ 24 + D.tj * 2 ^ 12 + D.gate)

/-- R398. -/
def Device.readFabid (D : Device) : Word := BitVec.ofNat 64 ((if D.fabidValid then 2 ^ 16 else 0) + D.fabid.toNat)

/-- R378: a record slot of the journal. -/
def Part.readJournal (P : Part) (slot : Nat) : List Byte := (NMap.getD P.journal slot {}).bytes

end Sys2Proof.Machine
end

