-- ==== Sys2Proof/Machine/Float.lean ====
section
/-! DEFINITION. Scalar floating point (R122 to R130). -/

namespace Sys2Proof.Machine

/-- A checked arithmetic instruction of two sources: `op` gives the exact result in a mode, `cnt` its count. -/
def State.fpOp (s : State) (fn : Nat) (d a b : FReg) (r : Rnd) (op : Ex → Ex → Mode → Ex)
    (cnt : FVal → FVal → Ex → Nat) : Out :=
  s.issue { rf := [a, b], wf := [d] } (fun bt k st =>
    let x := st.rf a
    let y := st.rf b
    let v := f32 (op x.ex y.ex (st.mode r)) (st.mode r)
    let res := FVal.mk' v (cnt x y (val32 v))
    s.sigWrite bt k st fn d (some x) (some y) none res)

/-- The count of a sum of two registers (R46). -/
def countAdd2 (x y : FVal) (res : Ex) : Nat := plumbAdd [(x.ex, x.c.toNat), (y.ex, y.c.toNat)] res 24
def countMul2 (x y : FVal) (res : Ex) : Nat := countMul x.ex x.c.toNat 24 y.ex y.c.toNat 24 res 24
def countDiv2 (x y : FVal) (res : Ex) : Nat := countDiv x.ex x.c.toNat 24 y.c.toNat 24 res 24

/-- R57: OPC of a sequencer instruction is its major opcode. -/
def majorFp : Nat := 0x20
def majorFma : Nat := 0x21

def execFadd (d a b : FReg) (r : Rnd) (s : State) : Out := s.fpOp majorFp d a b r (fun x y m => x.add y m) countAdd2
def execFsub (d a b : FReg) (r : Rnd) (s : State) : Out := s.fpOp majorFp d a b r (fun x y m => x.add y.negate m) countAdd2
def execFmul (d a b : FReg) (r : Rnd) (s : State) : Out := s.fpOp majorFp d a b r (fun x y _ => x.mul y) countMul2
def execFdiv (d a b : FReg) (r : Rnd) (s : State) : Out := s.fpOp majorFp d a b r (fun x y _ => x.div y) countDiv2

def execFsqrt (d a : FReg) (r : Rnd) (s : State) : Out :=
  s.issue { rf := [a], wf := [d] } (fun bt k st =>
    let x := st.rf a
    let v := f32 x.ex.sqrt (st.mode r)
    let res := FVal.mk' v (countRoot true x.ex x.c.toNat 24 (val32 v) 24)
    s.sigWrite bt k st majorFp d (some x) none none res)

/-- R124: a × b + c, rounded once. -/
def execFma (d a b c : FReg) (r : Rnd) (s : State) : Out :=
  s.issue { rf := [a, b, c], wf := [d] } (fun bt k st =>
    let x := st.rf a
    let y := st.rf b
    let z := st.rf c
    let p := x.ex.mul y.ex
    let v := f32 (p.add z.ex (st.mode r)) (st.mode r)
    let cp := countMul x.ex x.c.toNat 24 y.ex y.c.toNat 24 p 24
    let res := FVal.mk' v (plumbAdd [(p, cp), (z.ex, z.c.toNat)] (val32 v) 24)
    s.sigWrite bt k st majorFma d (some x) (some y) (some z) res)

/-- R125. -/
def execFmin (d a b : FReg) (s : State) : Out :=
  s.local { rf := [a, b], wf := [d] } (fun st => (st.wf d (fminmax false (st.rf a) (st.rf b))).next)
def execFmax (d a b : FReg) (s : State) : Out :=
  s.local { rf := [a, b], wf := [d] } (fun st => (st.wf d (fminmax true (st.rf a) (st.rf b))).next)

/-- R126. -/
def execFabs (d a : FReg) (s : State) : Out :=
  s.local { rf := [a], wf := [d] } (fun st => (st.wf d ⟨(st.rf a).v &&& 0x7FFFFFFF, (st.rf a).c⟩).next)
def execFneg (d a : FReg) (s : State) : Out :=
  s.local { rf := [a], wf := [d] } (fun st => (st.wf d ⟨(st.rf a).v ^^^ 0x80000000, (st.rf a).c⟩).next)
def execFmov (d a : FReg) (s : State) : Out :=
  s.local { rf := [a], wf := [d] } (fun st => (st.wf d (st.rf a)).next)
def execFmovXf (d : FReg) (a : XReg) (s : State) : Out :=
  s.local { rx := [a], wf := [d] } (fun st => (st.wf d (FVal.ofBits ((st.rx a).extractLsb' 0 32))).next)
def execFmovFx (d : XReg) (a : FReg) (s : State) : Out :=
  s.local { rf := [a], wx := [d] } (fun st => (st.wx d ((st.rf a).v.zeroExtend 64)).next)

/-- R127. -/
def State.fcompare (s : State) (d : CReg) (a b : FReg) (c : FCond) : Out :=
  s.local { rf := [a, b] } (fun st => (st.wc d (c.holds (st.rf a).ex (st.rf b).ex)).next)

def execFcmpEq (d : CReg) (a b : FReg) (s : State) : Out := s.fcompare d a b .eq
def execFcmpLt (d : CReg) (a b : FReg) (s : State) : Out := s.fcompare d a b .lt
def execFcmpLe (d : CReg) (a b : FReg) (s : State) : Out := s.fcompare d a b .le
def execFcmpNe (d : CReg) (a b : FReg) (s : State) : Out := s.fcompare d a b .ne

/-- R128. -/
def execFclass (d : XReg) (a : FReg) (s : State) : Out :=
  s.local { rf := [a], wx := [d] } (fun st => (st.wx d (BitVec.ofNat 64 (fclassMask (st.rf a)))).next)

/-- R129: the integer format that B names. -/
def fmtInt (fmt : BitVec 5) : IFmt :=
  match SFmt.ofCode fmt.toNat with
  | some (.int f) => f
  | _ => .int64

/-- R129: the floating format that B names. -/
def fmtFlt (fmt : BitVec 5) : FFmt :=
  match SFmt.ofCode fmt.toNat with
  | some (.flt f) => f
  | _ => .fp32

/-- R129: the saturated integer, extended to 64 bits. -/
def fcvtFxValue (f : IFmt) (x : Ex) (m : Mode) : Word := BitVec.ofInt 64 (f.ofEx x m)

def execFcvtFx (d : XReg) (a : FReg) (fmt : BitVec 5) (r : Rnd) (s : State) : Out :=
  s.local { rf := [a], wx := [d] } (fun st => (st.wx d (fcvtFxValue (fmtInt fmt) (st.rf a).ex (st.mode r))).next)

/-- R129, R45: an integer as FP32, count 24 when exact and 23 when rounded. -/
def fcvtXfValue (f : IFmt) (x : Word) (m : Mode) : FVal :=
  let e := Ex.ofInt (f.decode x.toNat)
  let v := f32 e m
  FVal.mk' v (if (val32 v).eqv e then 24 else 23)

def execFcvtXf (d : FReg) (a : XReg) (fmt : BitVec 5) (r : Rnd) (s : State) : Out :=
  s.local { rx := [a], wf := [d] } (fun st => (st.wf d (fcvtXfValue (fmtInt fmt) (st.rx a) (st.mode r))).next)

/-- R129: a narrowing held as its exact FP32 value; to FP32 nothing is rounded, and a NaN becomes the canonical one
(log entry 14). -/
def fcvtFfValue (f : FFmt) (x : FVal) (m : Mode) : FVal :=
  let res := f.roundEx x.ex m
  FVal.mk' (f32 res .rne) (countCvt x.ex x.c.toNat f m)

def execFcvtFf (d a : FReg) (fmt : BitVec 5) (r : Rnd) (s : State) : Out :=
  s.issue { rf := [a], wf := [d] } (fun bt k st =>
    s.sigWrite bt k st majorFp d (some (st.rf a)) none none (fcvtFfValue (fmtFlt fmt) (st.rf a) (st.mode r)))

/-- R130. -/
def execFsig (d : XReg) (a : FReg) (s : State) : Out :=
  s.local { rf := [a], wx := [d] } (fun st => (st.wx d ((st.rf a).c.zeroExtend 64)).next)

/-- R130, R54: the count set, 0 on a non-finite value. -/
def fsigsetValue (v : FVal) (x : Word) : FVal :=
  ⟨v.v, if v.ex.isFinite then BitVec.ofNat 5 (sat x.toInt 0 24).toNat else 0⟩

/-- R130, R107: the destination is no source: its poison flag stays as it is. -/
def execFsigset (d : FReg) (a : XReg) (s : State) : Out :=
  s.local { rx := [a], wf := [d] } (fun st => (st.wfp d (fsigsetValue (st.rf d) (st.rx a)) (st.poisonF d)).next)

end Sys2Proof.Machine
end

