-- ==== Sys2Proof/Machine/Dispatch.lean ====
section
/-! DEFINITION. One arm for every constructor of Instr, in the order of Syntax.lean. -/

namespace Sys2Proof.Machine

def exec (i : Instr) (s : State) : Host.Outcome State Fault Refusal :=
  match i with
  | .add d a b t => Sys2Proof.Machine.execAdd d a b t s
  | .sub d a b t => Sys2Proof.Machine.execSub d a b t s
  | .mul d a b t => Sys2Proof.Machine.execMul d a b t s
  | .mulh d a b t => Sys2Proof.Machine.execMulh d a b t s
  | .div d a b t => Sys2Proof.Machine.execDiv d a b t s
  | .rem d a b t => Sys2Proof.Machine.execRem d a b t s
  | .and d a b t => Sys2Proof.Machine.execAnd d a b t s
  | .or d a b t => Sys2Proof.Machine.execOr d a b t s
  | .xor d a b t => Sys2Proof.Machine.execXor d a b t s
  | .sll d a b t => Sys2Proof.Machine.execSll d a b t s
  | .srl d a b t => Sys2Proof.Machine.execSrl d a b t s
  | .sra d a b t => Sys2Proof.Machine.execSra d a b t s
  | .min d a b t => Sys2Proof.Machine.execMin d a b t s
  | .max d a b t => Sys2Proof.Machine.execMax d a b t s
  | .clz d a t => Sys2Proof.Machine.execClz d a t s
  | .ctz d a t => Sys2Proof.Machine.execCtz d a t s
  | .popc d a t => Sys2Proof.Machine.execPopc d a t s
  | .sext d a t => Sys2Proof.Machine.execSext d a t s
  | .zext d a t => Sys2Proof.Machine.execZext d a t s
  | .addi d a imm => Sys2Proof.Machine.execAddi d a imm s
  | .andi d a imm => Sys2Proof.Machine.execAndi d a imm s
  | .ori d a imm => Sys2Proof.Machine.execOri d a imm s
  | .xori d a imm => Sys2Proof.Machine.execXori d a imm s
  | .slli d a n => Sys2Proof.Machine.execSlli d a n s
  | .srli d a n => Sys2Proof.Machine.execSrli d a n s
  | .srai d a n => Sys2Proof.Machine.execSrai d a n s
  | .liZ d h imm => Sys2Proof.Machine.execLiZ d h imm s
  | .liK d h imm => Sys2Proof.Machine.execLiK d h imm s
  | .bfx d a pos wm1 => Sys2Proof.Machine.execBfx d a pos wm1 s
  | .bfi d a pos wm1 => Sys2Proof.Machine.execBfi d a pos wm1 s
  | .cmpEq d a b => Sys2Proof.Machine.execCmpEq d a b s
  | .cmpNe d a b => Sys2Proof.Machine.execCmpNe d a b s
  | .cmpLt d a b => Sys2Proof.Machine.execCmpLt d a b s
  | .cmpGe d a b => Sys2Proof.Machine.execCmpGe d a b s
  | .cmpLtu d a b => Sys2Proof.Machine.execCmpLtu d a b s
  | .cmpGeu d a b => Sys2Proof.Machine.execCmpGeu d a b s
  | .cselX d c a b => Sys2Proof.Machine.execCselX d c a b s
  | .cselF d c a b => Sys2Proof.Machine.execCselF d c a b s
  | .lea d off => Sys2Proof.Machine.execLea d off s
  | .widf d k => Sys2Proof.Machine.execWidf d k s
  | .widNext d => Sys2Proof.Machine.execWidNext d s
  | .brEq a b off => Sys2Proof.Machine.execBrEq a b off s
  | .brNe a b off => Sys2Proof.Machine.execBrNe a b off s
  | .brLt a b off => Sys2Proof.Machine.execBrLt a b off s
  | .brGe a b off => Sys2Proof.Machine.execBrGe a b off s
  | .brLtu a b off => Sys2Proof.Machine.execBrLtu a b off s
  | .brGeu a b off => Sys2Proof.Machine.execBrGeu a b off s
  | .bcS c off => Sys2Proof.Machine.execBcS c off s
  | .bcC c off => Sys2Proof.Machine.execBcC c off s
  | .bsigLt a n off => Sys2Proof.Machine.execBsigLt a n off s
  | .bsigGe a n off => Sys2Proof.Machine.execBsigGe a n off s
  | .jal d off => Sys2Proof.Machine.execJal d off s
  | .jr d a imm => Sys2Proof.Machine.execJr d a imm s
  | .lbeg lv a off => Sys2Proof.Machine.execLbeg lv a off s
  | .lend lv => Sys2Proof.Machine.execLend lv s
  | .fadd d a b r => Sys2Proof.Machine.execFadd d a b r s
  | .fsub d a b r => Sys2Proof.Machine.execFsub d a b r s
  | .fmul d a b r => Sys2Proof.Machine.execFmul d a b r s
  | .fdiv d a b r => Sys2Proof.Machine.execFdiv d a b r s
  | .fsqrt d a r => Sys2Proof.Machine.execFsqrt d a r s
  | .fmin d a b => Sys2Proof.Machine.execFmin d a b s
  | .fmax d a b => Sys2Proof.Machine.execFmax d a b s
  | .fabs d a => Sys2Proof.Machine.execFabs d a s
  | .fneg d a => Sys2Proof.Machine.execFneg d a s
  | .fcmpEq d a b => Sys2Proof.Machine.execFcmpEq d a b s
  | .fcmpLt d a b => Sys2Proof.Machine.execFcmpLt d a b s
  | .fcmpLe d a b => Sys2Proof.Machine.execFcmpLe d a b s
  | .fcmpNe d a b => Sys2Proof.Machine.execFcmpNe d a b s
  | .fclass d a => Sys2Proof.Machine.execFclass d a s
  | .fmov d a => Sys2Proof.Machine.execFmov d a s
  | .fmovXf d a => Sys2Proof.Machine.execFmovXf d a s
  | .fmovFx d a => Sys2Proof.Machine.execFmovFx d a s
  | .fcvtFx d a fmt r => Sys2Proof.Machine.execFcvtFx d a fmt r s
  | .fcvtXf d a fmt r => Sys2Proof.Machine.execFcvtXf d a fmt r s
  | .fcvtFf d a fmt r => Sys2Proof.Machine.execFcvtFf d a fmt r s
  | .fsig d a => Sys2Proof.Machine.execFsig d a s
  | .fsigset d a => Sys2Proof.Machine.execFsigset d a s
  | .fma d a b c r => Sys2Proof.Machine.execFma d a b c r s
  | .ld d a sc o t off => Sys2Proof.Machine.execLd d a sc o t off s
  | .st d a sc o t off => Sys2Proof.Machine.execSt d a sc o t off s
  | .ldt d a sc o off => Sys2Proof.Machine.execLdt d a sc o off s
  | .stt d a sc o off => Sys2Proof.Machine.execStt d a sc o off s
  | .ldfe d a sc t off => Sys2Proof.Machine.execLdfe d a sc t off s
  | .stfe d a sc t off => Sys2Proof.Machine.execStfe d a sc t off s
  | .ldnb d a sc t off => Sys2Proof.Machine.execLdnb d a sc t off s
  | .amoSwap d a b sc o w => Sys2Proof.Machine.execAmoSwap d a b sc o w s
  | .amoCas d a b sc o w => Sys2Proof.Machine.execAmoCas d a b sc o w s
  | .amoAdd d a b sc o w => Sys2Proof.Machine.execAmoAdd d a b sc o w s
  | .amoFadd d a b sc o => Sys2Proof.Machine.execAmoFadd d a b sc o s
  | .amoAnd d a b sc o w => Sys2Proof.Machine.execAmoAnd d a b sc o w s
  | .amoOr d a b sc o w => Sys2Proof.Machine.execAmoOr d a b sc o w s
  | .amoXor d a b sc o w => Sys2Proof.Machine.execAmoXor d a b sc o w s
  | .amoMin d a b sc o w => Sys2Proof.Machine.execAmoMin d a b sc o w s
  | .amoMax d a b sc o w => Sys2Proof.Machine.execAmoMax d a b sc o w s
  | .amoMinu d a b sc o w => Sys2Proof.Machine.execAmoMinu d a b sc o w s
  | .amoMaxu d a b sc o w => Sys2Proof.Machine.execAmoMaxu d a b sc o w s
  | .fence sc => Sys2Proof.Machine.execFence sc s
  | .barInit a sc h => Sys2Proof.Machine.execBarInit a sc h s
  | .barArrive d sc h => Sys2Proof.Machine.execBarArrive d sc h s
  | .barWait a sc h => Sys2Proof.Machine.execBarWait a sc h s
  | .barTest d a sc h => Sys2Proof.Machine.execBarTest d a sc h s
  | .publish h => Sys2Proof.Machine.execPublish h s
  | .publishComplete launch bt => Sys2Proof.Machine.execPublishComplete launch bt s
  | .cell d a b cl => Sys2Proof.Machine.execCell d a b cl s
  | .cellm d a b cl => Sys2Proof.Machine.execCellm d a b cl s
  | .cellv d a b cl => Sys2Proof.Machine.execCellv d a b cl s
  | .inj d a b cl => Sys2Proof.Machine.execInj d a b cl s
  | .rvres d e => Sys2Proof.Machine.execRvres d e s
  | .rvrel a e => Sys2Proof.Machine.execRvrel a e s
  | .sinkX d n => Sys2Proof.Machine.execSinkX d n s
  | .sinkF d n => Sys2Proof.Machine.execSinkF d n s
  | .walk d a b cl => Sys2Proof.Machine.execWalk d a b cl s
  | .walkb d a b cl => Sys2Proof.Machine.execWalkb d a b cl s
  | .wlst d a b => Sys2Proof.Machine.execWlst d a b s
  | .mxGang a => Sys2Proof.Machine.execMxGang a s
  | .sxCfg a => Sys2Proof.Machine.execSxCfg a s
  | .iqPush a h => Sys2Proof.Machine.execIqPush a h s
  | .iqTest d h => Sys2Proof.Machine.execIqTest d h s
  | .rmark a => Sys2Proof.Machine.execRmark a s
  | .chopen a h => Sys2Proof.Machine.execChopen a h s
  | .rld d a h => Sys2Proof.Machine.execRld d a h s
  | .rst d a h => Sys2Proof.Machine.execRst d a h s
  | .chsend a h => Sys2Proof.Machine.execChsend a h s
  | .chrecv a h => Sys2Proof.Machine.execChrecv a h s
  | .split d a => Sys2Proof.Machine.execSplit d a s
  | .yield d => Sys2Proof.Machine.execYield d s
  | .scarf a h => Sys2Proof.Machine.execScarf a h s
  | .scarfWait d h => Sys2Proof.Machine.execScarfWait d h s
  | .rankmap a h => Sys2Proof.Machine.execRankmap a h s
  | .trap d code => Sys2Proof.Machine.execTrap d code s
  | .ident d sel => Sys2Proof.Machine.execIdent d sel s
  | .ctlRd d n => Sys2Proof.Machine.execCtlRd d n s
  | .ctlWr a n => Sys2Proof.Machine.execCtlWr a n s
  | .evqRead d => Sys2Proof.Machine.execEvqRead d s
  | .votelogRead d => Sys2Proof.Machine.execVotelogRead d s
  | .vadd t d a b rtz y x => Sys2Proof.Machine.execVadd t d a b rtz y x s
  | .vaddSat d a b y x => Sys2Proof.Machine.execVaddSat d a b y x s
  | .vsub t d a b rtz y x => Sys2Proof.Machine.execVsub t d a b rtz y x s
  | .vsubSat d a b y x => Sys2Proof.Machine.execVsubSat d a b y x s
  | .vmul t d a b rtz y x => Sys2Proof.Machine.execVmul t d a b rtz y x s
  | .vmulSat d a b y x => Sys2Proof.Machine.execVmulSat d a b y x s
  | .vfma t d a b rtz y x => Sys2Proof.Machine.execVfma t d a b rtz y x s
  | .vmin t d a b y x => Sys2Proof.Machine.execVmin t d a b y x s
  | .vmax t d a b y x => Sys2Proof.Machine.execVmax t d a b y x s
  | .vabs t d a x => Sys2Proof.Machine.execVabs t d a x s
  | .vneg t d a x => Sys2Proof.Machine.execVneg t d a x s
  | .vdiv d a b rtz y x => Sys2Proof.Machine.execVdiv d a b rtz y x s
  | .vrcp d a x => Sys2Proof.Machine.execVrcp d a x s
  | .vrsqrt d a x => Sys2Proof.Machine.execVrsqrt d a x s
  | .vsqrt d a rtz x => Sys2Proof.Machine.execVsqrt d a rtz x s
  | .vexp2 d a x => Sys2Proof.Machine.execVexp2 d a x s
  | .vlog2 d a x => Sys2Proof.Machine.execVlog2 d a x s
  | .vcmpEq t d a b y x => Sys2Proof.Machine.execVcmpEq t d a b y x s
  | .vcmpLt t d a b y x => Sys2Proof.Machine.execVcmpLt t d a b y x s
  | .vcmpLe t d a b y x => Sys2Proof.Machine.execVcmpLe t d a b y x s
  | .vcmpNe t d a b y x => Sys2Proof.Machine.execVcmpNe t d a b y x s
  | .vselL0 d a b y x => Sys2Proof.Machine.execVselL0 d a b y x s
  | .vselL1 d a b y x => Sys2Proof.Machine.execVselL1 d a b y x s
  | .vand d a b y x => Sys2Proof.Machine.execVand d a b y x s
  | .vor d a b y x => Sys2Proof.Machine.execVor d a b y x s
  | .vxor d a b y x => Sys2Proof.Machine.execVxor d a b y x s
  | .vnot d a x => Sys2Proof.Machine.execVnot d a x s
  | .vshl d a b y x => Sys2Proof.Machine.execVshl d a b y x s
  | .vshrL d a b y x => Sys2Proof.Machine.execVshrL d a b y x s
  | .vshrA d a b y x => Sys2Proof.Machine.execVshrA d a b y x s
  | .vcvt t d a f rtz x => Sys2Proof.Machine.execVcvt t d a f rtz x s
  | .vquant t d a f x => Sys2Proof.Machine.execVquant t d a f x s
  | .vdequant t d a f x => Sys2Proof.Machine.execVdequant t d a f x s
  | .vredAdd t d a l rtz x => Sys2Proof.Machine.execVredAdd t d a l rtz x s
  | .vredMin t d a l rtz x => Sys2Proof.Machine.execVredMin t d a l rtz x s
  | .vredMax t d a l rtz x => Sys2Proof.Machine.execVredMax t d a l rtz x s
  | .vscanAdd t d a l rtz x => Sys2Proof.Machine.execVscanAdd t d a l rtz x s
  | .vscanMin t d a l rtz x => Sys2Proof.Machine.execVscanMin t d a l rtz x s
  | .vscanMax t d a l rtz x => Sys2Proof.Machine.execVscanMax t d a l rtz x s
  | .vperm d a b y x => Sys2Proof.Machine.execVperm d a b y x s
  | .vbcast d a n x => Sys2Proof.Machine.execVbcast d a n x s
  | .vsigLt t d a n x => Sys2Proof.Machine.execVsigLt t d a n x s
  | .vsigGe t d a n x => Sys2Proof.Machine.execVsigGe t d a n x s
  | .vsigCnt t d a n x => Sys2Proof.Machine.execVsigCnt t d a n x s
  | .cin d a x => Sys2Proof.Machine.execCin d a x s
  | .cout d a x => Sys2Proof.Machine.execCout d a x s
  | .cfwd a e x => Sys2Proof.Machine.execCfwd a e x s
  | .tcfg d q => Sys2Proof.Machine.execTcfg d q s
  | .tcfgDiscard d q => Sys2Proof.Machine.execTcfgDiscard d q s
  | .vloop n l => Sys2Proof.Machine.execVloop n l s
  | .vbrAll a off x => Sys2Proof.Machine.execVbrAll a off x s
  | .vbrAny a off x => Sys2Proof.Machine.execVbrAny a off x s
  | .vrec d a b y x => Sys2Proof.Machine.execVrec d a b y x s
  | .mxWload b e => Sys2Proof.Machine.execMxWload b e s
  | .mxFire b e => Sys2Proof.Machine.execMxFire b e s
  | .mxFireStrict b e => Sys2Proof.Machine.execMxFireStrict b e s
  | .mxFireSp b e => Sys2Proof.Machine.execMxFireSp b e s
  | .mxFireSpStrict b e => Sys2Proof.Machine.execMxFireSpStrict b e s
  | .mxRowFire b e k => Sys2Proof.Machine.execMxRowFire b e k s
  | .mxDrain b e => Sys2Proof.Machine.execMxDrain b e s
  | .mxClear b e => Sys2Proof.Machine.execMxClear b e s
  | .sxSort b => Sys2Proof.Machine.execSxSort b s
  | .sxMerge b => Sys2Proof.Machine.execSxMerge b s
  | .sxTopk b => Sys2Proof.Machine.execSxTopk b s
  | .cnIngest b => Sys2Proof.Machine.execCnIngest b s
  | .cnCons b => Sys2Proof.Machine.execCnCons b s
  | .cnJoin b => Sys2Proof.Machine.execCnJoin b s
  | .cnFlush b => Sys2Proof.Machine.execCnFlush b s
  | .vtVote b => Sys2Proof.Machine.execVtVote b s
  | .atSwap b => Sys2Proof.Machine.execAtSwap b s
  | .atCas b => Sys2Proof.Machine.execAtCas b s
  | .atAdd b => Sys2Proof.Machine.execAtAdd b s
  | .atFadd b => Sys2Proof.Machine.execAtFadd b s
  | .atAnd b => Sys2Proof.Machine.execAtAnd b s
  | .atOr b => Sys2Proof.Machine.execAtOr b s
  | .atXor b => Sys2Proof.Machine.execAtXor b s
  | .atMin b => Sys2Proof.Machine.execAtMin b s
  | .atMax b => Sys2Proof.Machine.execAtMax b s
  | .atMinu b => Sys2Proof.Machine.execAtMinu b s
  | .atMaxu b => Sys2Proof.Machine.execAtMaxu b s
  | .strandWake b k => Sys2Proof.Machine.execStrandWake b k s
  | .strandDone b k => Sys2Proof.Machine.execStrandDone b k s
  | .loadReturn b k id => Sys2Proof.Machine.execLoadReturn b k id s
  | .storeCompletion b k id => Sys2Proof.Machine.execStoreCompletion b k id s
  | .pendingTrapDelivery b k => Sys2Proof.Machine.execPendingTrapDelivery b k s
  | .continuationReady launch k => Sys2Proof.Machine.execContinuationReady launch k s
  | .continuationResume b k => Sys2Proof.Machine.execContinuationResume b k s
  | .rendezvousOperand b e => Sys2Proof.Machine.execRendezvousOperand b e s
  | .markerReceipt b e => Sys2Proof.Machine.execMarkerReceipt b e s
  | .vxCellDelivery b e => Sys2Proof.Machine.execVxCellDelivery b e s
  | .longLatencyComplete b t r => Sys2Proof.Machine.execLongLatencyComplete b t r s
  | .partialCombine b t r => Sys2Proof.Machine.execPartialCombine b t r s
  | .routineEnd b t r => Sys2Proof.Machine.execRoutineEnd b t r s
  | .firingLanded b e k => Sys2Proof.Machine.execFiringLanded b e k s
  | .sinkData b => Sys2Proof.Machine.execSinkData b s
  | .writeback b e => Sys2Proof.Machine.execWriteback b e s
  | .girtSend b => Sys2Proof.Machine.execGirtSend b s
  | .mortiseSlot b => Sys2Proof.Machine.execMortiseSlot b s
  | .feedbackAccept b e => Sys2Proof.Machine.execFeedbackAccept b e s
  | .roundEntry b e => Sys2Proof.Machine.execRoundEntry b e s
  | .hbmAtomicRoundClose launch channel => Sys2Proof.Machine.execHbmAtomicRoundClose launch channel s
  | .grReservation b => Sys2Proof.Machine.execGrReservation b s
  | .grEnqueue b k => Sys2Proof.Machine.execGrEnqueue b k s
  | .walkBegin b w => Sys2Proof.Machine.execWalkBegin b w s
  | .walkCellEmit b w => Sys2Proof.Machine.execWalkCellEmit b w s
  | .walkbCounterRead b w => Sys2Proof.Machine.execWalkbCounterRead b w s
  | .walkCompletion b w => Sys2Proof.Machine.execWalkCompletion b w s
  | .launchCompletion launch => Sys2Proof.Machine.execLaunchCompletion launch s
  | .scarfStepComplete launch bt => Sys2Proof.Machine.execScarfStepComplete launch bt s
  | .scarfStepTimeout launch bt => Sys2Proof.Machine.execScarfStepTimeout launch bt s
  | .headAged b ing h => Sys2Proof.Machine.execHeadAged b ing h s
  | .deadlockDetection b k => Sys2Proof.Machine.execDeadlockDetection b k s
  | .remoteRequest k => Sys2Proof.Machine.execRemoteRequest k s
  | .remoteResponse k => Sys2Proof.Machine.execRemoteResponse k s
  | .goldenEpoch die => Sys2Proof.Machine.execGoldenEpoch die s
  | .fenceComplete b k => Sys2Proof.Machine.execFenceComplete b k s
  | .faultackResume p token => Sys2Proof.Machine.execFaultackResume p token s
  | .faultackEnd p token => Sys2Proof.Machine.execFaultackEnd p token s
  | .tableWalk die => Sys2Proof.Machine.execTableWalk die s
  | .tlbMissRetry die => Sys2Proof.Machine.execTlbMissRetry die s
  | .pageScrub page => Sys2Proof.Machine.execPageScrub page s
  | .append p q cmd => Sys2Proof.Machine.execAppend p q cmd s
  | .dispatchDecision p => Sys2Proof.Machine.execDispatchDecision p s
  | .placement p => Sys2Proof.Machine.execPlacement p s
  | .qcbEnable p q => Sys2Proof.Machine.execQcbEnable p q s
  | .qcbDisable p q => Sys2Proof.Machine.execQcbDisable p q s
  | .contextEnable p c => Sys2Proof.Machine.execContextEnable p c s
  | .contextDisable p c => Sys2Proof.Machine.execContextDisable p c s
  | .contextResidencyEnd p c => Sys2Proof.Machine.execContextResidencyEnd p c s
  | .tlbinvPage p v => Sys2Proof.Machine.execTlbinvPage p v s
  | .tlbinvAll p v => Sys2Proof.Machine.execTlbinvAll p v s
  | .tlbinvComplete p => Sys2Proof.Machine.execTlbinvComplete p s
  | .preemptRequest p v => Sys2Proof.Machine.execPreemptRequest p v s
  | .abortRequest p v => Sys2Proof.Machine.execAbortRequest p v s
  | .preemptQuiescent p => Sys2Proof.Machine.execPreemptQuiescent p s
  | .preemptTimeout p => Sys2Proof.Machine.execPreemptTimeout p s
  | .hangDetected launch => Sys2Proof.Machine.execHangDetected launch s
  | .regionDrain launch => Sys2Proof.Machine.execRegionDrain launch s
  | .psvcServe p => Sys2Proof.Machine.execPsvcServe p s
  | .psvcStopDispatch p => Sys2Proof.Machine.execPsvcStopDispatch p s
  | .psvcPreemptAll p => Sys2Proof.Machine.execPsvcPreemptAll p s
  | .psvcDrainAll p => Sys2Proof.Machine.execPsvcDrainAll p s
  | .partitionOffline p => Sys2Proof.Machine.execPartitionOffline p s
  | .correctedError p u => Sys2Proof.Machine.execCorrectedError p u s
  | .uncorrectableError p u => Sys2Proof.Machine.execUncorrectableError p u s
  | .patrolScrub p addr => Sys2Proof.Machine.execPatrolScrub p addr s
  | .eccstatClear p => Sys2Proof.Machine.execEccstatClear p s
  | .regionRollback launch => Sys2Proof.Machine.execRegionRollback launch s
  | .repairMap p v => Sys2Proof.Machine.execRepairMap p v s
  | .repairUnmap p v => Sys2Proof.Machine.execRepairUnmap p v s
  | .laneLoss link => Sys2Proof.Machine.execLaneLoss link s
  | .laneRestore link => Sys2Proof.Machine.execLaneRestore link s
  | .flitReplay link => Sys2Proof.Machine.execFlitReplay link s
  | .hostWindowWrite p c addr bytes => Sys2Proof.Machine.execHostWindowWrite p c addr bytes s
  | .scarfMessage launch bt m => Sys2Proof.Machine.execScarfMessage launch bt m s
  | .scarfAbort launch bt collid gen step rank by_ => Sys2Proof.Machine.execScarfAbort launch bt collid gen step rank by_ s
  | .scarfResend launch bt => Sys2Proof.Machine.execScarfResend launch bt s
  | .firmwareReplace p kind version image => Sys2Proof.Machine.execFirmwareReplace p kind version image s
  | .attestationRequest nonce => Sys2Proof.Machine.execAttestationRequest nonce s
  | .keyLoad v => Sys2Proof.Machine.execKeyLoad v s
  | .keyClear v => Sys2Proof.Machine.execKeyClear v s
  | .debugUnlock token => Sys2Proof.Machine.execDebugUnlock token s
  | .supplyOutOfRange rail => Sys2Proof.Machine.execSupplyOutOfRange rail s
  | .fabidWrite v => Sys2Proof.Machine.execFabidWrite v s
  | .powerMeasurement watts tj => Sys2Proof.Machine.execPowerMeasurement watts tj s
  | .registerWrite w off v => Sys2Proof.Machine.execRegisterWrite w off v s
  | .repairMappingDone p => Sys2Proof.Machine.execRepairMappingDone p s
  | .linkFailure link => Sys2Proof.Machine.execLinkFailure link s
  | .exit => Sys2Proof.Machine.execExit s
  | .exitAbandon => Sys2Proof.Machine.execExitAbandon s
  | .nop => Sys2Proof.Machine.execNop s
  | .rft => Sys2Proof.Machine.execRft s
  | .vend => Sys2Proof.Machine.execVend s
  | .resetRelease => Sys2Proof.Machine.execResetRelease s
  | .thermalShutdown => Sys2Proof.Machine.execThermalShutdown s
  | .illegalInstruction => Sys2Proof.Machine.execIllegalInstruction s
  | .instructionFetchFault => Sys2Proof.Machine.execInstructionFetchFault s
  | .keycmdDone => Sys2Proof.Machine.execKeycmdDone s
  | .attestationReportDone => Sys2Proof.Machine.execAttestationReportDone s

end Sys2Proof.Machine
end

