-- ==== Sys2Proof/Machine/Run.lean ====
section
/-! DEFINITION. Running an act: the prepared instruction executed and its progress credited (R348); and a word placed as the
next instruction of a machine, as the loader of R326 would leave it. -/

namespace Sys2Proof.Machine

/-- What an instruction answers, its progress credited. -/
def State.credited (s : State) : Out → Out
  | .next t => .next (s.credit t)
  | .fault r => .fault r
  | .refused r => .refused r

/-- An act taken: its instruction executed, or what follows where there is none. -/
def State.run (s : State) (a : Act) : Out :=
  match s.prepare a with
  | some (i, t) => t.credited (exec i t)
  | none => .next (s.unfetched a)

/-! ### A word as the next instruction -/

/-- The launch whose text, and whose one routine, hold a word. -/
def launchOf (w : Nat) : Launch :=
  { region := [0], origin := [0], text := bytesOfWord (BitVec.ofNat 32 w), opwords := [BitVec.ofNat 32 w], entries := [some 0] }

/-- The routine that starts at the word. -/
def routineOf : Routine := { entry := 0, pc := 0, lo := 0, hi := 1, start := {}, side := {} }

/-- Bent 0 with a strand, or with a routine. -/
def bentOf (routine : Bool) (B : Bent) : Bent :=
  if routine then
    { B with launch := some 0, index := 0, tenons := NMap.set B.tenons 0 { NMap.getD B.tenons 0 {} with routines := [(0, routineOf)] } }
  else { B with launch := some 0, index := 0, strands := NMap.set B.strands 0 {} }

/-- Whether a word is an op-word and no sequencer word. -/
def onlyOpw (w : Nat) : Bool := (decodeSeq (BitVec.ofNat 32 w)).isNone && (decodeOpw (BitVec.ofNat 32 w)).isSome

/-- A machine whose next step runs the instruction of a word of 32 bits. -/
def State.placeWord (s : State) (w : Nat) : State :=
  let r := onlyOpw w
  { s with
    launches := NMap.set s.launches 0 (launchOf w)
    bents := NMap.set s.bents 0 (bentOf r (s.bent 0))
    device := { s.device with inReset := false }
    agenda := { act := if r then .routine 0 0 0 else .strand 0 0 } :: s.agenda }

end Sys2Proof.Machine
end

