-- ==== Sys2Proof/Machine/Auto.lean ====
section
/-! DEFINITION. The automatic policy's turns: an act is run as the agenda's acts are, a step of a unit is its meaning. -/

namespace Sys2Proof.Machine

/-- The meaning of a unit's step. -/
def Auto.meaning (a : Auto) (s : State) : Out :=
  match a with
  | .act x => s.run x
  | .remoteRequest k => Sys2Proof.Machine.execRemoteRequest k s
  | .remoteResponse k => Sys2Proof.Machine.execRemoteResponse k s
  | .tableWalk die => Sys2Proof.Machine.execTableWalk die s
  | .tlbMissRetry die => Sys2Proof.Machine.execTlbMissRetry die s
  | .pageScrub page => Sys2Proof.Machine.execPageScrub page s
  | .dispatchDecision p => Sys2Proof.Machine.execDispatchDecision p s
  | .placement p => Sys2Proof.Machine.execPlacement p s
  | .contextResidencyEnd p c => Sys2Proof.Machine.execContextResidencyEnd p c s
  | .tlbinvComplete p => Sys2Proof.Machine.execTlbinvComplete p s
  | .preemptQuiescent p => Sys2Proof.Machine.execPreemptQuiescent p s
  | .preemptTimeout p => Sys2Proof.Machine.execPreemptTimeout p s
  | .hangDetected launch => Sys2Proof.Machine.execHangDetected launch s
  | .regionDrain launch => Sys2Proof.Machine.execRegionDrain launch s
  | .regionRollback launch => Sys2Proof.Machine.execRegionRollback launch s
  | .partitionOffline p => Sys2Proof.Machine.execPartitionOffline p s
  | .scarfStepTimeout launch bt => Sys2Proof.Machine.execScarfStepTimeout launch bt s
  | .scarfResend launch bt => Sys2Proof.Machine.execScarfResend launch bt s
  | .deadlockDetection b k => Sys2Proof.Machine.execDeadlockDetection b k s

/-- A turn taken: an act of the agenda or the policy, or a unit's step, its progress credited; none in reset. -/
def State.runAuto (s : State) (a : Auto) : Out :=
  match a with
  | .act x => s.run x
  | u => if s.device.inReset then .next s else { s with cur := .none }.credited (u.meaning { s with cur := .none })

end Sys2Proof.Machine
end

