-- ==== Sys2Proof/Machine/Step.lean ====
section
/-! DEFINITION. One step of the machine, and a word placed where the next step fetches. -/

namespace Sys2Proof.Machine

/-- One step: the act of the turn, or the automatic policy's. -/
def step (s : State) : Host.Outcome State Fault Refusal :=
  match s.turn with
  | (some a, t) => t.runAuto a
  | (none, t) => .next t

/-- A machine whose next step runs the instruction of an opcode-table word: the loader's work (R326) done for it. -/
def State.withFetchWord (s : State) (_nbits w : Nat) : State := s.placeWord w

end Sys2Proof.Machine
end

