-- ==== Sys2Proof/Safety.lean ====
section
/-! DEFINITION. What claims are stated with: the invariant of the machine's memory, when a strand's instruction issues, what a
strand's instruction leaves as it was, and the registers that the instructions of one strand name. -/

namespace Sys2Proof.Machine

/-- The memory has its one canonical form. -/
def State.Ordered (s : State) : Prop := Memory.wf s.mem = true

/-- An answer that, where it is a next state, has a property. -/
def Out.Holds (P : State → Prop) : Out → Prop
  | .next t => P t
  | .fault _ => True
  | .refused _ => True

/-- A byte of the machine's memory by its storage address. -/
def State.byte (s : State) (a : Nat) : Byte := Memory.get s.mem a

/-- The strand in slot k of bent b is the current one, is ready, and its launch runs. -/
def State.Current (s : State) (b k : Nat) (st : Strand) : Prop :=
  s.cur = .strand b k ∧ s.strand? b k = some st ∧ st.state = .ready ∧ ∃ L, s.launch? st.lid = some L ∧ L.phase = .running

/-- R106, R107: an instruction that uses the registers of u issues: its strand is current, none of these registers waits for a
load or an atomic, and no source is poisoned. -/
def State.Issues (s : State) (u : Uses) (b k : Nat) (st : Strand) : Prop :=
  s.Current b k st ∧ st.blocking u = [] ∧ st.poisonedUse u = false

/-- A strand with the registers that instructions name, and the place of its next instruction, left out. -/
def Strand.fixed (st : Strand) : Strand :=
  { st with
    x := Vector.replicate 32 0, px := Vector.replicate 32 false, f := Vector.replicate 16 FVal.zero, pf := Vector.replicate 16 false
    c := Vector.replicate 8 false, pc := 0, suppress := false }

/-- Every register outside the lists, with its poison flag, and every special register is as it was. -/
def Strand.SameExcept (st t : Strand) (xs : List XReg) (fs : List FReg) (cs : List CReg) : Prop :=
  (∀ r, r ∉ xs → t.rx r = st.rx r ∧ t.poisonX r = st.poisonX r) ∧
  (∀ r, r ∉ fs → t.rf r = st.rf r ∧ t.poisonF r = st.poisonF r) ∧
  (∀ r, r ∉ cs → t.rc r = st.rc r) ∧ t.fixed = st.fixed

/-- Every register of a strand, with its poison flag, is as it was. -/
def Strand.SameRegisters (v st : Strand) : Prop :=
  v.x = st.x ∧ v.px = st.px ∧ v.f = st.f ∧ v.pf = st.pf ∧ v.c = st.c

/-- The cells of one class that wait between an ingress and an egress of a bent, oldest first. -/
def Bent.queued (B : Bent) (i e c : Nat) : List Cell := (B.sub i e c).map (fun q => q.cell)

/-- Operands for the instructions of the list below. -/
structure Fields where
  d : XReg
  a : XReg
  b : XReg
  fd : FReg
  fa : FReg
  fb : FReg
  cd : CReg
  cm : CReg
  t : ITy
  imm : BitVec 15
  n : BitVec 6
  pos : BitVec 6
  wm1 : BitVec 6
  h : BitVec 2
  wide : BitVec 16
  k : BitVec 3
  off : BitVec 12
  off20 : BitVec 20
  cnt : BitVec 5
  fmt : BitVec 5
  r : Rnd
  deriving DecidableEq, Repr, Inhabited

/-- An instruction, the registers that it uses, and the registers that it writes. -/
abbrev Form := Instr × Uses × List XReg × List FReg × List CReg

/-- The instructions that change nothing but registers of their own strand and the place of its next instruction: integer group,
immediates, compares and selects; branches; floating-point moves, compares and conversions. -/
def integerForms (o : Fields) : List Form :=
  [(.add o.d o.a o.b o.t, { rx := [o.a, o.b], wx := [o.d] }, [o.d], [], []),
   (.sub o.d o.a o.b o.t, { rx := [o.a, o.b], wx := [o.d] }, [o.d], [], []),
   (.mul o.d o.a o.b o.t, { rx := [o.a, o.b], wx := [o.d] }, [o.d], [], []),
   (.mulh o.d o.a o.b o.t, { rx := [o.a, o.b], wx := [o.d] }, [o.d], [], []),
   (.div o.d o.a o.b o.t, { rx := [o.a, o.b], wx := [o.d] }, [o.d], [], []),
   (.rem o.d o.a o.b o.t, { rx := [o.a, o.b], wx := [o.d] }, [o.d], [], []),
   (.and o.d o.a o.b o.t, { rx := [o.a, o.b], wx := [o.d] }, [o.d], [], []),
   (.or o.d o.a o.b o.t, { rx := [o.a, o.b], wx := [o.d] }, [o.d], [], []),
   (.xor o.d o.a o.b o.t, { rx := [o.a, o.b], wx := [o.d] }, [o.d], [], []),
   (.sll o.d o.a o.b o.t, { rx := [o.a, o.b], wx := [o.d] }, [o.d], [], []),
   (.srl o.d o.a o.b o.t, { rx := [o.a, o.b], wx := [o.d] }, [o.d], [], []),
   (.sra o.d o.a o.b o.t, { rx := [o.a, o.b], wx := [o.d] }, [o.d], [], []),
   (.min o.d o.a o.b o.t, { rx := [o.a, o.b], wx := [o.d] }, [o.d], [], []),
   (.max o.d o.a o.b o.t, { rx := [o.a, o.b], wx := [o.d] }, [o.d], [], []),
   (.clz o.d o.a o.t, { rx := [o.a], wx := [o.d] }, [o.d], [], []),
   (.ctz o.d o.a o.t, { rx := [o.a], wx := [o.d] }, [o.d], [], []),
   (.popc o.d o.a o.t, { rx := [o.a], wx := [o.d] }, [o.d], [], []),
   (.sext o.d o.a o.t, { rx := [o.a], wx := [o.d] }, [o.d], [], []),
   (.zext o.d o.a o.t, { rx := [o.a], wx := [o.d] }, [o.d], [], []),
   (.addi o.d o.a o.imm, { rx := [o.a], wx := [o.d] }, [o.d], [], []),
   (.andi o.d o.a o.imm, { rx := [o.a], wx := [o.d] }, [o.d], [], []),
   (.ori o.d o.a o.imm, { rx := [o.a], wx := [o.d] }, [o.d], [], []),
   (.xori o.d o.a o.imm, { rx := [o.a], wx := [o.d] }, [o.d], [], []),
   (.slli o.d o.a o.n, { rx := [o.a], wx := [o.d] }, [o.d], [], []),
   (.srli o.d o.a o.n, { rx := [o.a], wx := [o.d] }, [o.d], [], []),
   (.srai o.d o.a o.n, { rx := [o.a], wx := [o.d] }, [o.d], [], []),
   (.liZ o.d o.h o.wide, { wx := [o.d] }, [o.d], [], []),
   (.liK o.d o.h o.wide, { rx := [o.d], wx := [o.d] }, [o.d], [], []),
   (.bfx o.d o.a o.pos o.wm1, { rx := [o.a], wx := [o.d] }, [o.d], [], []),
   (.bfi o.d o.a o.pos o.wm1, { rx := [o.d, o.a], wx := [o.d] }, [o.d], [], []),
   (.cmpEq o.cd o.a o.b, { rx := [o.a, o.b] }, [], [], [o.cd]),
   (.cmpNe o.cd o.a o.b, { rx := [o.a, o.b] }, [], [], [o.cd]),
   (.cmpLt o.cd o.a o.b, { rx := [o.a, o.b] }, [], [], [o.cd]),
   (.cmpGe o.cd o.a o.b, { rx := [o.a, o.b] }, [], [], [o.cd]),
   (.cmpLtu o.cd o.a o.b, { rx := [o.a, o.b] }, [], [], [o.cd]),
   (.cmpGeu o.cd o.a o.b, { rx := [o.a, o.b] }, [], [], [o.cd]),
   (.cselX o.d o.cm o.a o.b, { rx := [o.a, o.b], wx := [o.d] }, [o.d], [], []),
   (.cselF o.fd o.cm o.fa o.fb, { rf := [o.fa, o.fb], wf := [o.fd] }, [], [o.fd], []),
   (.lea o.d o.off20, { wx := [o.d] }, [o.d], [], []),
   (.widf o.d o.k, { wx := [o.d] }, [o.d], [], [])]

def branchForms (o : Fields) : List Form :=
  [(.brEq o.a o.b o.off, { rx := [o.a, o.b] }, [], [], []),
   (.brNe o.a o.b o.off, { rx := [o.a, o.b] }, [], [], []),
   (.brLt o.a o.b o.off, { rx := [o.a, o.b] }, [], [], []),
   (.brGe o.a o.b o.off, { rx := [o.a, o.b] }, [], [], []),
   (.brLtu o.a o.b o.off, { rx := [o.a, o.b] }, [], [], []),
   (.brGeu o.a o.b o.off, { rx := [o.a, o.b] }, [], [], []),
   (.bcS o.cm o.off, {}, [], [], []),
   (.bcC o.cm o.off, {}, [], [], []),
   (.bsigLt o.fa o.cnt o.off, { rf := [o.fa] }, [], [], []),
   (.bsigGe o.fa o.cnt o.off, { rf := [o.fa] }, [], [], []),
   (.jal o.d o.off20, { wx := [o.d] }, [o.d], [], []),
   (.nop, {}, [], [], [])]

def floatForms (o : Fields) : List Form :=
  [(.fmin o.fd o.fa o.fb, { rf := [o.fa, o.fb], wf := [o.fd] }, [], [o.fd], []),
   (.fmax o.fd o.fa o.fb, { rf := [o.fa, o.fb], wf := [o.fd] }, [], [o.fd], []),
   (.fabs o.fd o.fa, { rf := [o.fa], wf := [o.fd] }, [], [o.fd], []),
   (.fneg o.fd o.fa, { rf := [o.fa], wf := [o.fd] }, [], [o.fd], []),
   (.fcmpEq o.cd o.fa o.fb, { rf := [o.fa, o.fb] }, [], [], [o.cd]),
   (.fcmpLt o.cd o.fa o.fb, { rf := [o.fa, o.fb] }, [], [], [o.cd]),
   (.fcmpLe o.cd o.fa o.fb, { rf := [o.fa, o.fb] }, [], [], [o.cd]),
   (.fcmpNe o.cd o.fa o.fb, { rf := [o.fa, o.fb] }, [], [], [o.cd]),
   (.fclass o.d o.fa, { rf := [o.fa], wx := [o.d] }, [o.d], [], []),
   (.fmov o.fd o.fa, { rf := [o.fa], wf := [o.fd] }, [], [o.fd], []),
   (.fmovXf o.fd o.a, { rx := [o.a], wf := [o.fd] }, [], [o.fd], []),
   (.fmovFx o.d o.fa, { rf := [o.fa], wx := [o.d] }, [o.d], [], []),
   (.fcvtFx o.d o.fa o.fmt o.r, { rf := [o.fa], wx := [o.d] }, [o.d], [], []),
   (.fcvtXf o.fd o.a o.fmt o.r, { rx := [o.a], wf := [o.fd] }, [], [o.fd], []),
   (.fsig o.d o.fa, { rf := [o.fa], wx := [o.d] }, [o.d], [], []),
   (.fsigset o.fd o.a, { rx := [o.a], wf := [o.fd] }, [], [o.fd], [])]

def registerForms (o : Fields) : List Form := integerForms o ++ branchForms o ++ floatForms o

/-- R25, R30: the integer j is v × 2^e rounded in a mode. -/
def Mode.Rounds (mode : Mode) (v e j : Int) : Prop :=
  let n := v * 2 ^ e.toNat
  let u : Int := 2 ^ (-e).toNat
  match mode with
  | .rne => 2 * |j * u - n| ≤ u ∧ (2 * |j * u - n| = u → j % 2 = 0)
  | .rna => 2 * |j * u - n| ≤ u ∧ (2 * |j * u - n| = u → |n| < |j * u|)
  | .rtz => j = n.tdiv u
  | .rup => n ≤ j * u ∧ j * u < n + u
  | .rdn => j * u ≤ n ∧ n < j * u + u

/-- R29: how many times 2^q an exact value is. -/
def Ex.units (q : Int) : Ex → Int
  | .fin n m e _ => (if n then -1 else 1) * ((m * 2 ^ (e - q).toNat : Nat) : Int)
  | _ => 0

/-- A finite value that is a multiple of 2^q as it stands. -/
def Ex.Above (q : Int) : Ex → Prop
  | .fin _ _ e st => q ≤ e ∧ st = false
  | _ => False

/-! ### Op-words -/

/-- R70, R71, R219: the routine r of tenon t issues an op-word with these sources and this destination: it runs, none of its
emissions is outstanding, its tiles are configured, and its operands are full. -/
def State.OpIssues (s : State) (b t r : Nat) (R : Routine) (srcs : List (VCode × Bool)) (d : Option VCode) : Prop :=
  s.cur = .routine b t r ∧ NMap.get? (s.tenon b t).routines r = some R ∧ R.hold = .running ∧ R.couts = 0 ∧
  (∀ c ∈ srcs.map Prod.fst ++ d.toList, isTile c.toNat = true → ((s.tenon b t).tile c.toNat).configured = true) ∧
  ∀ c ∈ srcs.map Prod.fst ++ d.toList, (s.tenon b t).full c.toNat = true

/-- R69: a routine of tenon t has written x to the register or slot d, with the last-result file: what was in l0 is in l1 and x is
in l0, but a write to l1 writes l1 alone. No other register and no tile has changed, and the routine has gone on to R. -/
def State.Wrote (s u : State) (b t r d : Nat) (x : VReg) (R : Routine) : Prop :=
  u.mem = s.mem ∧ (u.tenon b t).reg d = x ∧ (u.tenon b t).tiles = (s.tenon b t).tiles ∧
  (u.tenon b t).reg 72 = (if d = 73 then (s.tenon b t).reg 72 else x) ∧
  (d ≠ 73 → (u.tenon b t).reg 73 = (s.tenon b t).reg 72) ∧
  (∀ c, c ≠ d → c ≠ 72 → c ≠ 73 → (u.tenon b t).reg c = (s.tenon b t).reg c) ∧
  NMap.get? (u.tenon b t).routines r = some R ∧ ∀ q, q ≠ r → NMap.get? (u.tenon b t).routines q = NMap.get? (s.tenon b t).routines q

/-- Operands for the op-words of the lists below. -/
structure VFields where
  t : VTy
  d : VCode
  a : VCode
  b : VCode
  f : VCode
  n6 : BitVec 6
  n5 : BitVec 5
  rtz : Bool
  y : Bool
  x : Bool
  deriving DecidableEq, Repr, Inhabited

/-- An op-word, how it is issued, and the elements that it makes of the lanes of its operands. -/
abbrev VForm := Instr × Ew × (Mode → List FVal → List FVal → List FVal → List VEl)

/-- The element-wise op-words with their operation (R206 to R209). -/
def elementForms (o : VFields) : List VForm :=
  let two (opn : Nat) (t : VTy) (rtz checked long : Bool) : Ew := ew2 opn t o.a o.b rtz o.y o.x checked long
  let one (opn : Nat) (t : VTy) (rtz checked long : Bool) : Ew := ew1 opn t o.a rtz o.x checked long
  let lane (opn : Nat) (b : Option (VCode × Bool)) (third : Option VCode) : Ew := ewU opn o.a o.x b third
  [(.vadd o.t o.d o.a o.b o.rtz o.y o.x, two 0x00 o.t o.rtz true false, EOp.add.run o.t false),
   (.vaddSat o.d o.a o.b o.y o.x, two 0x00 .i32 false true false, EOp.add.run .i32 true),
   (.vsub o.t o.d o.a o.b o.rtz o.y o.x, two 0x01 o.t o.rtz true false, EOp.sub.run o.t false),
   (.vsubSat o.d o.a o.b o.y o.x, two 0x01 .i32 false true false, EOp.sub.run .i32 true),
   (.vmul o.t o.d o.a o.b o.rtz o.y o.x, two 0x02 o.t o.rtz true false, EOp.mul.run o.t false),
   (.vmulSat o.d o.a o.b o.y o.x, two 0x02 .i32 false true false, EOp.mul.run .i32 true),
   (.vfma o.t o.d o.a o.b o.rtz o.y o.x, { two 0x03 o.t o.rtz true false with third := some o.d }, EOp.fma.run o.t false),
   (.vmin o.t o.d o.a o.b o.y o.x, two 0x04 o.t false false false, EOp.min.run o.t false),
   (.vmax o.t o.d o.a o.b o.y o.x, two 0x05 o.t false false false, EOp.max.run o.t false),
   (.vabs o.t o.d o.a o.x, one 0x06 o.t false false false, EOp.abs.run o.t false),
   (.vneg o.t o.d o.a o.x, one 0x07 o.t false false false, EOp.neg.run o.t false),
   (.vdiv o.d o.a o.b o.rtz o.y o.x, two 0x08 .f32 o.rtz true true, EOp.div.run .f32 false),
   (.vrcp o.d o.a o.x, one 0x09 .f32 false true true, EOp.rcp.run .f32 false),
   (.vrsqrt o.d o.a o.x, one 0x0A .f32 false true true, EOp.rsqrt.run .f32 false),
   (.vsqrt o.d o.a o.rtz o.x, one 0x0B .f32 o.rtz true true, EOp.sqrt.run .f32 false),
   (.vexp2 o.d o.a o.x, one 0x0C .f32 false true true, EOp.exp2.run .f32 false),
   (.vlog2 o.d o.a o.x, one 0x0D .f32 false true true, EOp.log2.run .f32 false),
   (.vcmpEq o.t o.d o.a o.b o.y o.x, two 0x0E o.t false false false, (EOp.cmp .eq).run o.t false),
   (.vcmpLt o.t o.d o.a o.b o.y o.x, two 0x0F o.t false false false, (EOp.cmp .lt).run o.t false),
   (.vcmpLe o.t o.d o.a o.b o.y o.x, two 0x10 o.t false false false, (EOp.cmp .le).run o.t false),
   (.vcmpNe o.t o.d o.a o.b o.y o.x, two 0x11 o.t false false false, (EOp.cmp .ne).run o.t false),
   (.vselL0 o.d o.a o.b o.y o.x, lane 0x12 (some (o.b, o.y)) (some 72), fun _ => laneRun vselLane),
   (.vselL1 o.d o.a o.b o.y o.x, lane 0x12 (some (o.b, o.y)) (some 73), fun _ => laneRun vselLane),
   (.vand o.d o.a o.b o.y o.x, lane 0x13 (some (o.b, o.y)) none, fun _ => laneRun (bitLane (· &&& ·))),
   (.vor o.d o.a o.b o.y o.x, lane 0x14 (some (o.b, o.y)) none, fun _ => laneRun (bitLane (· ||| ·))),
   (.vxor o.d o.a o.b o.y o.x, lane 0x15 (some (o.b, o.y)) none, fun _ => laneRun (bitLane (· ^^^ ·))),
   (.vnot o.d o.a o.x, lane 0x16 none none, fun _ => laneRun (bitLane (fun v _ => ~~~v))),
   (.vshl o.d o.a o.b o.y o.x, lane 0x17 (some (o.b, o.y)) none, fun _ => laneRun (bitLane vshl32)),
   (.vshrL o.d o.a o.b o.y o.x, lane 0x18 (some (o.b, o.y)) none, fun _ => laneRun (bitLane vshrL32)),
   (.vshrA o.d o.a o.b o.y o.x, lane 0x18 (some (o.b, o.y)) none, fun _ => laneRun (bitLane vshrA32))]

/-! ### Engines -/

/-- R227, R229: engine e of bent b takes an operation: it stands before it, with its operands, its first operand is c, its OP value
is op, and the engine's last result has been handed on or it has none. -/
def State.Takes (s : State) (b e op : Nat) (i : EngIn) (c : InCell) : Prop :=
  (s.bent b).engIn e = some i ∧ i.ops.head? = some c ∧ (s.bent b).engFree e = true ∧
  c.cell.kind.toNat * 256 + c.cell.code.toNat = op

/-- The operation that engine e took is gone from its input. -/
def State.Fed (s u : State) (b e : Nat) (i : EngIn) : Prop :=
  (u.bent b).inbuf = ((s.bent b).consume e i).inbuf ∧ (u.bent b).fired = ((s.bent b).consume e i).fired

/-- The cells that an engine has emitted and its feedback port has not accepted, oldest first. -/
def State.emitted (s : State) (b e : Nat) : List Cell := (NMap.getD (s.bent b).emit e []).map (fun m => m.cell)

/-- R229: c is the cell that an engine makes of a piece of a result by the route block R, on the cell `trig`. -/
def Route.Makes (R : Route) (trig : Cell) (poison : Bool) (p : Piece1) (c : Cell) : Prop :=
  let place := R.address + BitVec.ofInt 64 p.off
  c.dest = R.desc.extractLsb' 0 16 ∧ c.code = R.desc.extractLsb' 16 8 ∧ c.kind = R.desc.extractLsb' 24 4 ∧ c.arg = R.arg ∧
  c.len = BitVec.ofNat 9 p.len ∧ c.payload = padTo 256 0 p.bytes ∧ c.fmt = p.fmt ∧ c.tag = p.tag ∧ c.iqrec = p.iqrec ∧
  c.eor = p.eor ∧ c.eot = p.eot ∧ c.poison = (poison || p.pois) ∧ c.cls = trig.cls ∧ c.round = trig.round ∧ c.bent = trig.bent ∧
  c.strand = trig.strand ∧ c.ctx = trig.ctx ∧ c.modes = trig.modes ∧
  (R.bt.isSome = true → c.addr = place.extractLsb' 0 48) ∧
  (R.bt = none → c.addr = if takesAddr c then (addrField place).getD 0 else 0)

/-- R229: an engine has emitted these pieces behind what it had emitted, numbered from its counter on; SEQP is SEQ - 1 (the first one
as the model chooses it, log entry 49). -/
def State.EmittedBy (s u : State) (b e : Nat) (trig : InCell) (R : Route) (poison : Bool) (ps : List Piece1) : Prop :=
  ∃ cs, u.emitted b e = s.emitted b e ++ cs ∧ cs.length = ps.length ∧
    ∀ n p, ps[n]? = some p → ∃ c, cs[n]? = some c ∧ R.Makes trig.cell poison p c ∧
      c.seq = (s.bent b).nextSeq e trig.side c.dest + BitVec.ofNat 16 n ∧ c.seqs = c.seq ∧ c.seqp = c.seq - 1

/-- R229: bytes cut into cells of 256, the last with EOT; no bytes make one empty cell. -/
def Cut (fmt : BitVec 5) (iqrec : Bool) (bytes : List Byte) (ps : List Piece1) : Prop :=
  ps.length = max 1 ((bytes.length + 255) / 256) ∧
  ∀ n p, ps[n]? = some p → p.bytes = (bytes.drop (256 * n)).take 256 ∧ p.len = p.bytes.length ∧ p.off = 256 * (n : Int) ∧ p.fmt = fmt ∧
    p.iqrec = iqrec ∧ p.tag = false ∧ p.eor = false ∧ p.pois = false ∧ (p.eot = true ↔ n + 1 = ps.length)

end Sys2Proof.Machine
end

