-- ==== Sys2Proof/Certificates/Slice0/Obligations.lean ====
section
/-! DEFINITION. The statements for the provers, one per family of instructions and kind of state, and of the whole machine: decoding,
the step, the state after reset and the form of the memory. -/

open Sys2Proof Sys2Proof.Machine

/-- x0 and c0 are hard-wired and discard writes; a register written reads back, with no poison, and every other register reads
as before. (Rests on R61, R62, R107.) An instruction of the register forms of a current strand: while a register that it names
waits for a load, it does not issue, and where an atomic of the current round of a deterministic launch is among what it waits
for, or an access queued behind one, it takes the trap with cause 0x0001; with none waiting and a poisoned source it takes the trap with cause 0x0031. (Rests on
R62, R106, R107, R153.) FRAME of the register forms: whatever their operands, they answer a next state in which only their own
strand differs, and of it only the registers that they name as destinations and the place of its next instruction. Where the
spec leaves a point open this is the choice of the model: log entry 45. -/
def Obligations.RegisterReadsWritesAndFrame : Prop :=
  (∀ (st : Strand) (d r : XReg) (v : Word) (fd fr : FReg) (w : FVal) (cd cr : CReg) (c : Bool),
     st.rx 0 = 0 ∧ st.poisonX 0 = false ∧ st.rc 0 = true ∧ st.wx 0 v = st ∧ st.wc 0 c = st ∧
     (d ≠ 0 → (st.wx d v).rx d = v ∧ (st.wx d v).poisonX d = false) ∧
     (r ≠ d → (st.wx d v).rx r = st.rx r ∧ (st.wx d v).poisonX r = st.poisonX r) ∧
     (st.wf fd w).rf fd = w ∧ (st.wf fd w).poisonF fd = false ∧
     (fr ≠ fd → (st.wf fd w).rf fr = st.rf fr ∧ (st.wf fd w).poisonF fr = st.poisonF fr) ∧
     (cd ≠ 0 → (st.wc cd c).rc cd = c) ∧ (cr ≠ cd → (st.wc cd c).rc cr = st.rc cr)) ∧
  (∀ (o : Fields) (s : State) (b k : Nat) (st : Strand), s.Current b k st →
     ∀ p ∈ registerForms o,
       (let held := st.blocking p.2.1
        (held ≠ [] → (s.launch st.lid).det = false ∨ held.any st.stuck = false → exec p.1 s = .next s) ∧
        ((s.launch st.lid).det = true → held.any st.stuck = true → exec p.1 s = .next (s.trap b k st 0x0001))) ∧
       (st.blocking p.2.1 = [] → st.poisonedUse p.2.1 = true → exec p.1 s = .next (s.trap b k st 0x0031))) ∧
  (∀ (o : Fields) (s : State) (b k : Nat) (st : Strand), ∀ p ∈ registerForms o, s.Issues p.2.1 b k st →
     ∃ st' : Strand, exec p.1 s = .next (s.setStrand b k st') ∧ st.SameExcept st' p.2.2.1 p.2.2.2.1 p.2.2.2.2 ∧
       ∀ a : Nat, (s.setStrand b k st').byte a = s.byte a)

/-- R108, R110: An operand of a type is its low w bits as two's complement or unsigned, and a result is reduced modulo 2^w and
sign- or zero-extended. `add`, `sub`, `mul`, `mulh`, the logical operations, the shifts, `min` and `max` write the result of their
row. The instructions of one source: leading and trailing zeros, and ones. `sext` and `zext` of .b, .h and .w write the extension of
the low w bits; with any other type code in the M field their words are no instruction. -/
def Obligations.IntegerResults : Prop :=
  (∀ (t : ITy) (x : Word) (v : Int),
     (tySigned t = true → operand t x = x.toInt.bmod (2 ^ tyWidth t) ∧ (extend t v).toInt = v.bmod (2 ^ tyWidth t)) ∧
     (tySigned t = false → operand t x = x.toNat % 2 ^ tyWidth t ∧ ((extend t v).toNat : Int) = v % 2 ^ tyWidth t)) ∧
  (∀ (s : State) (d a b : XReg) (t : ITy) (bt k : Nat) (st : Strand), s.Issues { rx := [a, b], wx := [d] } bt k st →
     let w := tyWidth t
     let x := operand t (st.rx a)
     let y := operand t (st.rx b)
     let n := (st.rx b).toNat % w
     let put (v : Int) : Out := .next (s.setStrand bt k (st.wx d (extend t v)).next)
     exec (.add d a b t) s = put (x + y) ∧ exec (.sub d a b t) s = put (x - y) ∧ exec (.mul d a b t) s = put (x * y) ∧
     exec (.mulh d a b t) s = put (x * y / 2 ^ w) ∧
     exec (.and d a b t) s = put (st.rx a &&& st.rx b).toInt ∧ exec (.or d a b t) s = put (st.rx a ||| st.rx b).toInt ∧
     exec (.xor d a b t) s = put (st.rx a ^^^ st.rx b).toInt ∧
     exec (.sll d a b t) s = put (x * 2 ^ n) ∧
     exec (.srl d a b t) s = put (((st.rx a).toNat % 2 ^ w / 2 ^ n : Nat) : Int) ∧
     exec (.sra d a b t) s = put ((st.rx a).toInt.bmod (2 ^ w) / 2 ^ n) ∧
     exec (.min d a b t) s = put (min x y) ∧ exec (.max d a b t) s = put (max x y)) ∧
  (∀ (s : State) (d a : XReg) (t : ITy) (bt k : Nat) (st : Strand), s.Issues { rx := [a], wx := [d] } bt k st →
     let w := tyWidth t
     let x := st.rx a
     let put (v : Word) : Out := .next (s.setStrand bt k (st.wx d v).next)
     (∃ n : Nat, exec (.clz d a t) s = put (BitVec.ofNat 64 n) ∧ n ≤ w ∧ (∀ i, i < n → x.getLsbD (w - 1 - i) = false) ∧
       (n < w → x.getLsbD (w - 1 - n) = true)) ∧
     (∃ n : Nat, exec (.ctz d a t) s = put (BitVec.ofNat 64 n) ∧ n ≤ w ∧ (∀ i, i < n → x.getLsbD i = false) ∧
       (n < w → x.getLsbD n = true)) ∧
     exec (.popc d a t) s = put (BitVec.ofNat 64 ((List.range w).filter (fun i => x.getLsbD i)).length) ∧
     (t = .b ∨ t = .h ∨ t = .w →
       exec (.sext d a t) s = put ((x.setWidth w).signExtend 64) ∧ exec (.zext d a t) s = put ((x.setWidth w).zeroExtend 64))) ∧
  (∀ (d a : XReg) (m : BitVec 3), m ≠ 0 → m ≠ 2 → m ≠ 4 →
     decodeSeq (RegW.pack 0x01 ⟨d, a, 0, m, 0x11⟩) = none ∧ decodeSeq (RegW.pack 0x01 ⟨d, a, 0, m, 0x12⟩) = none)

/-- R109: Quotient and remainder, with the fixed results of a zero divisor and of signed overflow; neither traps. -/
def Obligations.DivideAndRemainder : Prop :=
  ∀ (s : State) (d a b : XReg) (t : ITy) (bt k : Nat) (st : Strand), s.Issues { rx := [a, b], wx := [d] } bt k st →
    let w := tyWidth t
    let x := operand t (st.rx a)
    let y := operand t (st.rx b)
    let put (v : Int) : Out := .next (s.setStrand bt k (st.wx d (extend t v)).next)
    (y = 0 → exec (.div d a b t) s = put (2 ^ w - 1) ∧ exec (.rem d a b t) s = put x) ∧
    (tySigned t = true → x = -(2 ^ (w - 1)) → y = -1 → exec (.div d a b t) s = put x ∧ exec (.rem d a b t) s = put 0) ∧
    (y ≠ 0 → ¬(tySigned t = true ∧ x = -(2 ^ (w - 1)) ∧ y = -1) →
      exec (.div d a b t) s = put (x.tdiv y) ∧ exec (.rem d a b t) s = put (x - x.tdiv y * y))

/-- The immediate forms act on 64 bits; `li.z` writes its shifted immediate. (Rests on R111, R112.) `li.k` and `bfi` replace a
field of their destination and keep its other bits; `bfx` writes a field. (Rests on R112, R113.) -/
def Obligations.ImmediateAndFieldResults : Prop :=
  (∀ (s : State) (d a : XReg) (imm : BitVec 15) (n : BitVec 6) (h : BitVec 2) (wide : BitVec 16) (bt k : Nat) (st : Strand),
     let put (v : Word) : Out := .next (s.setStrand bt k (st.wx d v).next)
     (s.Issues { rx := [a], wx := [d] } bt k st →
       exec (.addi d a imm) s = put (st.rx a + imm.signExtend 64) ∧ exec (.andi d a imm) s = put (st.rx a &&& imm.zeroExtend 64) ∧
       exec (.ori d a imm) s = put (st.rx a ||| imm.zeroExtend 64) ∧ exec (.xori d a imm) s = put (st.rx a ^^^ imm.zeroExtend 64) ∧
       exec (.slli d a n) s = put (st.rx a <<< n.toNat) ∧ exec (.srli d a n) s = put (st.rx a >>> n.toNat) ∧
       exec (.srai d a n) s = put ((st.rx a).sshiftRight n.toNat)) ∧
     (s.Issues { wx := [d] } bt k st → exec (.liZ d h wide) s = put (wide.signExtend 64 <<< (16 * h.toNat)))) ∧
  (∀ (s : State) (d a : XReg) (h : BitVec 2) (imm : BitVec 16) (pos wm1 : BitVec 6) (bt k : Nat) (st : Strand),
     (s.Issues { rx := [d], wx := [d] } bt k st →
       ∃ v : Word, exec (.liK d h imm) s = .next (s.setStrand bt k (st.wx d v).next) ∧
         ∀ i, i < 64 → v.getLsbD i =
           if 16 * h.toNat ≤ i ∧ i < 16 * h.toNat + 16 then imm.getLsbD (i - 16 * h.toNat) else (st.rx d).getLsbD i) ∧
     (pos.toNat + wm1.toNat < 64 → s.Issues { rx := [a], wx := [d] } bt k st →
       ∃ v : Word, exec (.bfx d a pos wm1) s = .next (s.setStrand bt k (st.wx d v).next) ∧
         ∀ i, v.getLsbD i = if i ≤ wm1.toNat then (st.rx a).getLsbD (pos.toNat + i) else false) ∧
     (pos.toNat + wm1.toNat < 64 → s.Issues { rx := [d, a], wx := [d] } bt k st →
       ∃ v : Word, exec (.bfi d a pos wm1) s = .next (s.setStrand bt k (st.wx d v).next) ∧
         ∀ i, i < 64 → v.getLsbD i =
           if pos.toNat ≤ i ∧ i ≤ pos.toNat + wm1.toNat then (st.rx a).getLsbD (i - pos.toNat) else (st.rx d).getLsbD i))

/-- Compares write their condition, selects the source that the condition chooses. (Rests on R46, R114, R115.) `widf` reads a
field of the work identifier, and `wid.next` moves the strand to the next identifier of its bent's allocator, or writes all ones
where none is left. (Rests on R116, R186, R261.) -/
def Obligations.CompareSelectAndWorkIdentifiers : Prop :=
  (∀ (s : State) (cd cm : CReg) (d a b : XReg) (fd fa fb : FReg) (bt k : Nat) (st : Strand),
     let put (v : Bool) : Out := .next (s.setStrand bt k (st.wc cd v).next)
     (s.Issues { rx := [a, b] } bt k st →
       exec (.cmpEq cd a b) s = put (decide (st.rx a = st.rx b)) ∧ exec (.cmpNe cd a b) s = put (decide (st.rx a ≠ st.rx b)) ∧
       exec (.cmpLt cd a b) s = put (decide ((st.rx a).toInt < (st.rx b).toInt)) ∧
       exec (.cmpGe cd a b) s = put (decide ((st.rx b).toInt ≤ (st.rx a).toInt)) ∧
       exec (.cmpLtu cd a b) s = put (decide ((st.rx a).toNat < (st.rx b).toNat)) ∧
       exec (.cmpGeu cd a b) s = put (decide ((st.rx b).toNat ≤ (st.rx a).toNat))) ∧
     (s.Issues { rx := [a, b], wx := [d] } bt k st →
       exec (.cselX d cm a b) s = .next (s.setStrand bt k (st.wx d (if st.rc cm then st.rx a else st.rx b)).next)) ∧
     (s.Issues { rf := [fa, fb], wf := [fd] } bt k st →
       let x := st.rf fa
       let y := st.rf fb
       let chosen := if st.rc cm then x else y
       exec (.cselF fd cm fa fb) s = .next (s.setStrand bt k
         (st.wf fd ⟨chosen.v, if x.ex.eqv y.ex then (if x.c.toNat ≤ y.c.toNat then x.c else y.c) else chosen.c⟩).next))) ∧
  (∀ (s : State) (d : XReg) (f : BitVec 3) (bt k : Nat) (st : Strand), s.Issues { wx := [d] } bt k st →
     let L := s.launch st.lid
     (∀ w, L.widths[f.toNat]? = some w → exec (.widf d f) s = .next (s.setStrand bt k
       (st.wx d (BitVec.ofNat 64 (st.wid.toNat / 2 ^ (L.widths.take f.toNat).sum % 2 ^ w))).next)) ∧
     (L.widths[f.toNat]? = none → exec (.widf d f) s = .next (s.setStrand bt k (st.wx d 0).next)) ∧
     (∀ id L', L.takeId (s.bent bt).index st.round = (some id, L') →
       exec (.widNext d) s = .next ((s.setLaunch st.lid L').setStrand bt k
         ({ st.wx d (BitVec.ofNat 64 id) with wid := BitVec.ofNat 64 id }).next)) ∧
     (∀ L', L.takeId (s.bent bt).index st.round = (none, L') →
       exec (.widNext d) s = .next (s.setStrand bt k (st.wx d 0xFFFFFFFFFFFFFFFF).next)))

/-- R117: A branch goes to its target where its condition holds, and to the next word where it does not; offsets count words from
the address of the instruction itself; a jump links and goes, a `jr` to a misaligned target traps and writes no link, and `lea`
forms an address. -/
def Obligations.BranchAndJumpResults : Prop :=
  ∀ (s : State) (d a b : XReg) (c : CReg) (f : FReg) (n : BitVec 5) (off : BitVec 12) (off20 : BitVec 20) (imm : BitVec 15) (bt k : Nat)
    (st : Strand),
    let go (p : Prop) [Decidable p] : Out :=
      .next (s.setStrand bt k (st.goto (if p then st.pc + off.signExtend 64 * 4 else st.pc + 4)))
    (s.Issues { rx := [a, b] } bt k st →
      exec (.brEq a b off) s = go (st.rx a = st.rx b) ∧ exec (.brNe a b off) s = go (st.rx a ≠ st.rx b) ∧
      exec (.brLt a b off) s = go ((st.rx a).toInt < (st.rx b).toInt) ∧
      exec (.brGe a b off) s = go ((st.rx b).toInt ≤ (st.rx a).toInt) ∧
      exec (.brLtu a b off) s = go ((st.rx a).toNat < (st.rx b).toNat) ∧
      exec (.brGeu a b off) s = go ((st.rx b).toNat ≤ (st.rx a).toNat)) ∧
    (s.Issues {} bt k st → exec (.bcS c off) s = go (st.rc c = true) ∧ exec (.bcC c off) s = go (st.rc c = false)) ∧
    (s.Issues { rf := [f] } bt k st →
      exec (.bsigLt f n off) s = go ((st.rf f).c.toNat < n.toNat) ∧ exec (.bsigGe f n off) s = go (n.toNat ≤ (st.rf f).c.toNat)) ∧
    (s.Issues { wx := [d] } bt k st →
      exec (.jal d off20) s = .next (s.setStrand bt k ((st.wx d (st.pc + 4)).goto (st.pc + off20.signExtend 64 * 4))) ∧
      exec (.lea d off20) s = .next (s.setStrand bt k (st.wx d (st.pc + off20.signExtend 64 * 4)).next)) ∧
    (s.Issues { rx := [a], wx := [d] } bt k st →
      let t := st.rx a + imm.signExtend 64
      exec (.jr d a imm) s = if t.toNat % 4 = 0 then .next (s.setStrand bt k ((st.wx d (st.pc + 4)).goto t))
        else .next (s.trap bt k st 0x0002))

/-- R119, R120: `lbeg` opens a loop, or passes over it where its count is 0; `lend` goes round it while iterations remain, then
ends it; a `lend` that ends no active loop traps. `nop` has no effect: the strand goes on with its next instruction, and nothing
else changes; an `addi` to x0 has none either. -/
def Obligations.LoopsAndNop : Prop :=
  (∀ (s : State) (a : XReg) (lv : BitVec 1) (off : BitVec 12) (bt k : Nat) (st : Strand),
     let l := st.loop lv
     (s.Issues { rx := [a] } bt k st →
       exec (.lbeg lv a off) s = .next (s.setStrand bt k
         (if st.rx a = 0 then st.goto (st.pc + off.signExtend 64 * 4 + 4)
          else (st.setLoop lv { start := st.pc + 4, stop := st.pc + off.signExtend 64 * 4, remaining := st.rx a, active := true }).next))) ∧
     (s.Issues {} bt k st →
       (l.active = false ∨ st.pc ≠ l.stop → exec (.lend lv) s = .next (s.trap bt k st 0x0001)) ∧
       (l.active = true → st.pc = l.stop → l.remaining - 1 ≠ 0 →
         exec (.lend lv) s = .next (s.setStrand bt k ((st.setLoop lv { l with remaining := l.remaining - 1 }).goto l.start))) ∧
       (l.active = true → st.pc = l.stop → l.remaining = 1 →
         exec (.lend lv) s = .next (s.setStrand bt k (st.setLoop lv { l with remaining := 0, active := false }).next)))) ∧
  (decodeSeq 0xA0000000 = some .nop ∧
   ∀ (s : State) (imm : BitVec 15) (bt k : Nat) (st : Strand), s.Issues {} bt k st →
     exec .nop s = .next (s.setStrand bt k st.next) ∧ exec (.addi 0 0 imm) s = .next (s.setStrand bt k st.next))

/-- Minimum, maximum, moves and sign forms, compares, conversions of integers and counts write what their rows say. A conversion to
an integer writes the value rounded in the instruction's mode and saturated to the format, 0 for a NaN and the end of the range for
an infinity. A conversion from an integer writes the integer rounded to FP32, with count 24 when exact and 23 when rounded. (Rests on
R25, R30, R45, R125 to R127, R129, R130.) -/
def Obligations.FloatRegisterResults : Prop :=
  ∀ (s : State) (d a : XReg) (fd fa fb : FReg) (cd : CReg) (r : Rnd) (bt k : Nat) (st : Strand),
    let x := st.rf fa
    let y := st.rf fb
    let putF (v : FVal) : Out := .next (s.setStrand bt k (st.wf fd v).next)
    let putX (v : Word) : Out := .next (s.setStrand bt k (st.wx d v).next)
    let putC (v : Bool) : Out := .next (s.setStrand bt k (st.wc cd v).next)
    (s.Issues { rf := [fa, fb], wf := [fd] } bt k st →
      (x.ex.isNan = true ∨ y.ex.isNan = true →
        exec (.fmin fd fa fb) s = putF ⟨0x7FC00000, 0⟩ ∧ exec (.fmax fd fa fb) s = putF ⟨0x7FC00000, 0⟩) ∧
      (x.ex.isNan = false → y.ex.isNan = false → x.ex.eqv y.ex = false →
        exec (.fmin fd fa fb) s = putF (if y.ex.lt x.ex then y else x) ∧
        exec (.fmax fd fa fb) s = putF (if x.ex.lt y.ex then y else x)) ∧
      (x.ex.isNan = false → y.ex.isNan = false → x.ex.eqv y.ex = true →
        let c := if x.c.toNat ≤ y.c.toNat then x.c else y.c
        exec (.fmin fd fa fb) s = putF ⟨if y.ex.neg? && !x.ex.neg? then y.v else x.v, c⟩ ∧
        exec (.fmax fd fa fb) s = putF ⟨if x.ex.neg? && !y.ex.neg? then y.v else x.v, c⟩)) ∧
    (s.Issues { rf := [fa], wf := [fd] } bt k st →
      exec (.fmov fd fa) s = putF x ∧ exec (.fabs fd fa) s = putF ⟨x.v &&& 0x7FFFFFFF, x.c⟩ ∧
      exec (.fneg fd fa) s = putF ⟨x.v ^^^ 0x80000000, x.c⟩) ∧
    (s.Issues { rx := [a], wf := [fd] } bt k st →
      exec (.fmovXf fd a) s = putF ⟨(st.rx a).setWidth 32, if (val32 ((st.rx a).setWidth 32)).isFinite then 24 else 0⟩ ∧
      (∀ q ∈ ([(1, (st.rx a).toInt.bmod (2 ^ 8)), (2, (st.rx a).toInt % 2 ^ 8), (3, (st.rx a).toInt.bmod (2 ^ 16)),
          (4, (st.rx a).toInt.bmod (2 ^ 32)), (5, (st.rx a).toInt)] : List (BitVec 5 × Int)),
        let v := f32 (Ex.ofInt q.2) (st.mode r)
        exec (.fcvtXf fd a q.1 r) s = putF ⟨v, if (val32 v).eqv (Ex.ofInt q.2) then 24 else 23⟩) ∧
      exec (.fsigset fd a) s = .next (s.setStrand bt k (st.wfp fd ⟨(st.rf fd).v,
        if (st.rf fd).ex.isFinite then (if (st.rx a).toInt < 0 then 0 else if 24 < (st.rx a).toInt then 24 else (st.rx a).setWidth 5)
        else 0⟩ (st.poisonF fd)).next)) ∧
    (s.Issues { rf := [fa], wx := [d] } bt k st →
      exec (.fmovFx d fa) s = putX (x.v.zeroExtend 64) ∧
      (∀ q ∈ ([(1, -128, 127), (2, 0, 255), (3, -32768, 32767), (4, -2147483648, 2147483647),
          (5, -9223372036854775808, 9223372036854775807)] : List (BitVec 5 × Int × Int)),
        ∃ i : Int, exec (.fcvtFx d fa q.1 r) s = putX (BitVec.ofInt 64 i) ∧ (x.ex.isNan = true → i = 0) ∧
          (∀ n, x.ex = .inf n → i = if n then q.2.1 else q.2.2) ∧
          (∀ n m e u, x.ex = .fin n m e u →
            ∃ j : Int, (st.mode r).Rounds (if n then -(m : Int) else m) e j ∧ i = min q.2.2 (max q.2.1 j))) ∧
      exec (.fsig d fa) s = putX (x.c.zeroExtend 64)) ∧
    (s.Issues { rf := [fa, fb] } bt k st →
      exec (.fcmpEq cd fa fb) s = putC (x.ex.eqv y.ex) ∧ exec (.fcmpNe cd fa fb) s = putC (!x.ex.eqv y.ex) ∧
      exec (.fcmpLt cd fa fb) s = putC (x.ex.lt y.ex) ∧ exec (.fcmpLe cd fa fb) s = putC (x.ex.lt y.ex || x.ex.eqv y.ex))

/-- R128: `fclass` writes a mask: bit 0 to 8 says which class the value is of, exactly one of them, and bit 9 that its count is
below 24, always set for infinities and NaNs. -/
def Obligations.ClassMask : Prop :=
  ∀ (s : State) (d : XReg) (a : FReg) (b k : Nat) (st : Strand), s.Issues { rf := [a], wx := [d] } b k st →
    let x := st.rf a
    let e := (x.v.extractLsb' 23 8).toNat
    let fr := (x.v.extractLsb' 0 23).toNat
    let normal : Prop := e ≠ 0 ∧ e ≠ 255
    let subnormal : Prop := e = 0 ∧ fr ≠ 0
    ∃ m : Word, exec (.fclass d a) s = .next (s.setStrand b k (st.wx d m).next) ∧
      (m.getLsbD 0 = true ↔ x.v = 0xFF800000) ∧ (m.getLsbD 1 = true ↔ x.v.msb = true ∧ normal) ∧
      (m.getLsbD 2 = true ↔ x.v.msb = true ∧ subnormal) ∧ (m.getLsbD 3 = true ↔ x.v = 0x80000000) ∧ (m.getLsbD 4 = true ↔ x.v = 0) ∧
      (m.getLsbD 5 = true ↔ x.v.msb = false ∧ subnormal) ∧ (m.getLsbD 6 = true ↔ x.v.msb = false ∧ normal) ∧
      (m.getLsbD 7 = true ↔ x.v = 0x7F800000) ∧ (m.getLsbD 8 = true ↔ e = 255 ∧ fr ≠ 0) ∧
      (m.getLsbD 9 = true ↔ x.c.toNat < 24 ∨ e = 255) ∧ (∃ n, n < 9 ∧ m.extractLsb' 0 9 = BitVec.twoPow 9 n) ∧
      m.extractLsb' 10 54 = 0

/-- A result of a checked instruction fails the check exactly where SQE is 1, the strand is not in its handler nor re-executing
after one, its count lies below TH, and it is not a non-finite result that NFX exempts. (Rests on R56, R59, R60, R122.) The count
of a sum: 0 where an operand or the result is non-finite, p where every operand is zero, 0 where only the result is zero, else
what remains below the largest weight; and the count of a product. (Rests on R22, R46.) Where the spec leaves a point open this is
the choice of the model: log entry 19. -/
def Obligations.CountsAndTheirCheck : Prop :=
  (∀ (st : Strand) (res : Ex) (count : Nat),
     st.sigFails res count = true ↔
       st.sigen.getLsbD 0 = true ∧ st.saved = none ∧ st.suppress = false ∧ count < st.sigth.toNat ∧
         ¬(st.sigen.getLsbD 2 = true ∧ res.isFinite = false)) ∧
  ((∀ (ops : List (Ex × Nat)) (res : Ex) (p : Nat),
     ((∃ o ∈ ops, o.1.isFinite = false) ∨ res.isFinite = false → plumbAdd ops res p = 0) ∧
     ((∀ o ∈ ops, o.1.isZero = true) → res.isFinite = true → plumbAdd ops res p = p) ∧
     ((∀ o ∈ ops, o.1.isFinite = true) → (∃ o ∈ ops, o.1.isZero = false) → res.isFinite = true →
       (res.exp? = none → plumbAdd ops res p = 0) ∧
       (∀ e w : Int, res.exp? = some e → (∃ o ∈ ops, ∃ x, o.1.exp? = some x ∧ w = x - o.2 + 1) →
         (∀ o ∈ ops, ∀ x, o.1.exp? = some x → x - o.2 + 1 ≤ w) → (plumbAdd ops res p : Int) = min (p : Int) (max (e - w + 1) 0)))) ∧
   (∀ ca pa cb pb p : Nat,
     plumbMul ca pa cb pb p = if ca = pa ∨ cb = pb then min (min ca cb) p else max (min ca cb - 1) 0))

/-- The checked instructions: the exact result rounded once in the instruction's mode, with its count, 0 where it is non-finite,
is written where the significance check passes; where it fails, the significance trap is taken and no register is written. (Rests
on R46, R122 to R124, R129.) Where the spec leaves a point open this is the choice of the model: log entry 14. -/
def Obligations.CheckedFloatResults : Prop :=
  ∀ (s : State) (d a b c : FReg) (fmt : BitVec 5) (r : Rnd) (bt k : Nat) (st : Strand),
    let x := st.rf a
    let y := st.rf b
    let z := st.rf c
    let m := st.mode r
    let rounded (e : Ex) : Word32 := f32 e m
    let gives (i : Instr) (opc : Nat) (p q w : Option FVal) (v : Word32) (cnt : Nat) : Prop :=
      let res := FVal.mk' v cnt
      (st.sigFails res.ex res.c.toNat = false → exec i s = .next (s.setStrand bt k (st.wf d res).next)) ∧
      (st.sigFails res.ex res.c.toNat = true →
        exec i s = .next (s.takeTrap bt k st 0x0021 none (sigReport 0 0 opc 0 0 p q w res st.sigth.toNat)))
    (s.Issues { rf := [a, b], wf := [d] } bt k st →
      gives (.fadd d a b r) 0x20 (some x) (some y) none (rounded (x.ex.add y.ex m))
        (plumbAdd [(x.ex, x.c.toNat), (y.ex, y.c.toNat)] (val32 (rounded (x.ex.add y.ex m))) 24) ∧
      gives (.fsub d a b r) 0x20 (some x) (some y) none (rounded (x.ex.add y.ex.negate m))
        (plumbAdd [(x.ex, x.c.toNat), (y.ex, y.c.toNat)] (val32 (rounded (x.ex.add y.ex.negate m))) 24) ∧
      gives (.fmul d a b r) 0x20 (some x) (some y) none (rounded (x.ex.mul y.ex))
        (countMul x.ex x.c.toNat 24 y.ex y.c.toNat 24 (val32 (rounded (x.ex.mul y.ex))) 24) ∧
      gives (.fdiv d a b r) 0x20 (some x) (some y) none (rounded (x.ex.div y.ex))
        (countDiv x.ex x.c.toNat 24 y.c.toNat 24 (val32 (rounded (x.ex.div y.ex))) 24)) ∧
    (s.Issues { rf := [a], wf := [d] } bt k st →
      gives (.fsqrt d a r) 0x20 (some x) none none (rounded x.ex.sqrt)
        (countRoot true x.ex x.c.toNat 24 (val32 (rounded x.ex.sqrt)) 24) ∧
      gives (.fcvtFf d a fmt r) 0x20 (some x) none none (f32 ((fmtFlt fmt).roundEx x.ex m) .rne)
        (countCvt x.ex x.c.toNat (fmtFlt fmt) m)) ∧
    (s.Issues { rf := [a, b, c], wf := [d] } bt k st →
      let p := x.ex.mul y.ex
      gives (.fma d a b c r) 0x21 (some x) (some y) (some z) (rounded (p.add z.ex m))
        (plumbAdd [(p, countMul x.ex x.c.toNat 24 y.ex y.c.toNat 24 p 24), (z.ex, z.c.toNat)] (val32 (rounded (p.add z.ex m))) 24))

/-- A trap other than consumed poison, taken by a strand with a handler that is not in it, sets TRAPCAUSE and TRAPPC, saves x1 to
x31, f0 to f15 with counts and poison flags, c1 to c7, the loop state and FPMODE, and goes to TRAPVEC with those registers
unchanged; `rft` then restores what was saved and continues at TRAPPC. (Rests on R22, R194, R195.) Where the spec leaves a point
open this is the choice of the model: log entries 13 and 19. -/
def Obligations.TrapEntryAndReturn : Prop :=
  ∀ (s : State) (b k : Nat) (st : Strand) (cause : BitVec 16), s.Current b k st → st.trapvec ≠ 0 → st.saved = none → cause ≠ 0x0031 →
    ∃ (t : Strand) (fr : TrapFrame), s.trap b k st cause = s.setStrand b k t ∧
      t.trapcause = cause ∧ t.trappc = st.pc ∧ t.pc = st.trapvec ∧ t.saved = some fr ∧ t.state = .ready ∧
      t.x = st.x ∧ t.f = st.f ∧ t.c = st.c ∧ t.px = st.px ∧ t.pf = st.pf ∧ t.loops = st.loops ∧ t.fpmode = st.fpmode ∧
      fr.x = st.x ∧ fr.f = st.f ∧ fr.c = st.c ∧ fr.px = st.px ∧ fr.pf = st.pf ∧ fr.loops = st.loops ∧ fr.fpmode = st.fpmode ∧
      ∀ (u : State) (v : Strand), u.Issues {} b k v → v.saved = some fr →
        ∃ w : Strand, exec .rft u = .next (u.setStrand b k w) ∧ w.pc = v.trappc ∧ w.saved = none ∧ w.x = st.x ∧ w.f = st.f ∧
          w.c = st.c ∧ w.px = st.px ∧ w.pf = st.pf ∧ w.loops = st.loops ∧ w.fpmode = st.fpmode ∧ w.state = .ready

/-- A trap with no handler, or within one, ends the strand with a launch fault, and the region enters drain; consumed
poison starts a rollback and enters no handler. (Rests on R62, R65, R194, R331, R348, R369.) `trap` writes its code and traps with cause
0x0050; `rft` outside a handler traps with cause 0x0001. (Rests on R194, R195.) A strand outside its handler takes the first of
its pending traps at an instruction boundary: the traps of frozen tenons first. (Rests on R58, R60.) Where the spec leaves a point
open this is the choice of the model: log entry 19. -/
def Obligations.TrapEnds : Prop :=
  (∀ (s : State) (b k : Nat) (st : Strand) (cause : BitVec 16), s.Current b k st →
     (cause ≠ 0x0031 → st.trapvec = 0 ∨ st.saved ≠ none →
       let t := s.trap b k st cause
       t.strand? b k = none ∧ (t.launch st.lid).phase = (if (s.launch st.lid).fault = 0 then .draining else .running) ∧
       ((s.launch st.lid).fault = 0 → (t.launch st.lid).fault = 0x05 ∧ (t.launch st.lid).trapCause = cause ∧
         (t.launch st.lid).fpc = st.pc)) ∧
     (let t := s.trap b k st 0x0031
      (t.launch st.lid).phase = .rolling ∧ ∃ w, t.strand? b k = some w ∧ w.pc = st.pc ∧ w.saved = st.saved)) ∧
  (∀ (s : State) (d : XReg) (code : BitVec 10) (b k : Nat) (st : Strand),
     (s.Issues { wx := [d] } b k st → exec (.trap d code) s = .next (s.trap b k (st.wx d (code.zeroExtend 64)) 0x0050)) ∧
     (s.Issues {} b k st → st.saved = none → exec .rft s = .next (s.trap b k st 0x0001))) ∧
  (∀ (s : State) (b k : Nat) (st : Strand) (p : PendTrap) (L : Launch),
     s.strand? b k = some st → st.saved = none → st.firstPend = some p → s.launch? st.lid = some L → L.phase = .running →
     st.trapvec ≠ 0 → p.cause ≠ 0x0031 →
       ∃ (t : State) (w : Strand), exec (.pendingTrapDelivery b k) s = .next t ∧ t.strand? b k = some w ∧ w.trapcause = p.cause ∧
         w.trappc = st.pc ∧ w.pc = st.trapvec ∧ w.pend = removeFirst (fun q => q == p) st.pend ∧ w.x = st.x ∧ w.f = st.f ∧
         p ∈ st.pend ∧ ∀ q ∈ st.pend, q.before p = false)

/-- A read of a control register gives what the strand, its bent, its launch or the device holds under its number, and of a number
that is not allocated traps with cause 0x0001; `ident` gives the value of its selector, and beyond the last traps with cause 0x0001.
Writes are clamped, lose reserved bits, and of a number that is read-only or not allocated trap with cause 0x0001. (Rests on R55, R64 to
R66, R131, R132, R196, R258.) -/
def Obligations.ControlRegisters : Prop :=
  ∀ (s : State) (d a : XReg) (n : BitVec 10) (b k : Nat) (st : Strand),
    (s.Issues { wx := [d] } b k st →
      let L := s.launch st.lid
      let B := s.bent b
      let held : List (BitVec 10 × Word) :=
        [(0x000, st.fpmode.zeroExtend 64), (0x001, st.sigth.zeroExtend 64), (0x002, st.sigen.zeroExtend 64), (0x004, st.siglog[0]),
         (0x005, st.siglog[1]), (0x006, st.siglog[2]), (0x007, st.siglog[3]), (0x010, st.trapvec), (0x011, st.trapcause.zeroExtend 64),
         (0x012, st.trappc), (0x020, st.wid), (0x021, st.round.zeroExtend 64), (0x022, if L.det then 1 else 0), (0x024, L.bufva),
         (0x030, BitVec.ofNat 64 B.ageLimit), (0x031, BitVec.ofNat 64 B.dlWindow), (0x032, B.dlsnap[0]), (0x033, B.dlsnap[1]),
         (0x034, B.dlsnap[2]), (0x035, B.dlsnap[3]), (0x041, BitVec.ofNat 64 s.dtime)]
      let names : List (BitVec 10 × Word) :=
        [(0, 0x4B525A39000000A0), (1, BitVec.ofNat 64 b), (2, BitVec.ofNat 64 (b / 48)), (3, BitVec.ofNat 64 L.part),
         (4, BitVec.ofNat 64 L.region.length), (5, BitVec.ofNat 64 B.index), (6, BitVec.ofNat 64 k), (7, BitVec.ofNat 64 L.ctx),
         (8, BitVec.ofNat 64 L.seq), (9, (if s.device.fabidValid then 0x10000 else 0) + s.device.fabid.zeroExtend 64)]
      (∀ p ∈ held, exec (.ctlRd d p.1) s = .next (s.setStrand b k (st.wx d p.2).next)) ∧
      (n ≠ 0x023 → n ≠ 0x040 → n ∉ held.map Prod.fst → exec (.ctlRd d n) s = .next (s.trap b k st 0x0001)) ∧
      (∀ p ∈ names, exec (.ident d p.1) s = .next (s.setStrand b k (st.wx d p.2).next)) ∧
      (10 ≤ n.toNat → exec (.ident d n) s = .next (s.trap b k st 0x0001))) ∧
    (s.Issues { rx := [a] } b k st →
      let x := st.rx a
      exec (.ctlWr a 0x000) s = .next (s.setStrand b k ({ st with fpmode := x.setWidth 3 }).next) ∧
      exec (.ctlWr a 0x001) s = .next (s.setStrand b k
        ({ st with sigth := if 25 ≤ x.toNat % 32 then 24 else x.setWidth 5 }).next) ∧
      exec (.ctlWr a 0x002) s = .next (s.setStrand b k ({ st with sigen := x.setWidth 3 }).next) ∧
      exec (.ctlWr a 0x010) s = .next (s.setStrand b k ({ st with trapvec := x &&& ~~~3 }).next) ∧
      exec (.ctlWr a 0x012) s = .next (s.setStrand b k ({ st with trappc := x &&& ~~~3 }).next) ∧
      (∃ u : State, exec (.ctlWr a 0x030) s = .next u ∧ u.mem = s.mem ∧
        u.bents = ((s.updBent b (fun B => { B with ageLimit := min 4096 (max 4 x.toNat) })).setStrand b k st.next).bents) ∧
      (∃ u : State, exec (.ctlWr a 0x031) s = .next u ∧ u.mem = s.mem ∧
        u.bents = ((s.updBent b (fun B => { B with dlWindow := min 65536 (max 64 x.toNat) })).setStrand b k st.next).bents) ∧
      (n ∉ ([0x000, 0x001, 0x002, 0x010, 0x012, 0x030, 0x031] : List (BitVec 10)) →
        exec (.ctlWr a n) s = .next (s.trap b k st 0x0001)))

/-- A read of EVQ or VOTELOG returns 0 where the queue is empty, else its oldest entry, which it removes, with the bit that says
the entry is valid; nine entries posted to EVQ keep the last eight, the first of them marked OVF. (Rests on R268, R269, R373.) -/
def Obligations.EventAndVoteQueues : Prop :=
  ∀ (s : State) (d : XReg) (b k : Nat) (st : Strand), s.Issues { wx := [d] } b k st →
    (st.evq = [] → exec (.evqRead d) s = .next (s.setStrand b k (st.wx d 0).next)) ∧
    (∀ e es, st.evq = e :: es → ∃ v : Word, v.getLsbD 63 = true ∧ v.getLsbD 62 = e.ovf ∧ v.extractLsb' 0 52 = e.addr ∧
      exec (.evqRead d) s = .next (s.setStrand b k ({ st.wx d v with evq := es }).next)) ∧
    ((s.bent b).votelog = [] → exec (.votelogRead d) s = .next (s.setStrand b k (st.wx d 0).next)) ∧
    (∀ e es, (s.bent b).votelog = e :: es → ∃ v : Word, v.getLsbD 63 = true ∧ v.getLsbD 62 = e.ovf ∧
      exec (.votelogRead d) s = .next ((s.updBent b (fun B => { B with votelog := es })).setStrand b k (st.wx d v).next)) ∧
    (∀ (q : List EvEntry) (x e : EvEntry), q.length = 7 →
      ∃ f l, pushEvent (x :: q) e = f :: l ∧ l.length = 7 ∧ f.ovf = true ∧ l.getLast? = some e)

/-- `exit` and `exit.abandon` leave the strand retiring, but with an atomic of the current round of a deterministic launch
outstanding, for `exit.abandon` one that is not among the cells it discards, they take the trap with cause 0x0001; a retiring strand with nothing outstanding is done and its slot free; `split`
on a word still zero and `yield` leave the strand as a continuation that keeps the registers of its live mask, which becomes
ready when it has fired and is resumed by a free slot. (Rests on R153, R187 to R190, R197, R263, R266, R267.) Where the spec
leaves a point open this is the choice of the model: log entry 24. -/
def Obligations.StrandEndsAndContinuations : Prop :=
  ∀ (s : State) (d a : XReg) (b k : Nat) (st : Strand),
    let ready (L : Launch) (c : Cont) : List Cont :=
      L.readyList.filter (fun d => d.before c) ++ [c] ++ L.readyList.filter (fun d => !d.before c)
    (s.Issues {} b k st →
      (s.atomHolds st = false → exec .exit s = .next (s.setStrand b k { st.next with state := .retiring false })) ∧
      (s.atomHolds st = true → exec .exit s = .next (s.trap b k st 0x0001)) ∧
      (let t := s.mapRegion st.lid (fun _ B => B.abandon st)
       (t.atomHolds st = false → exec .exitAbandon s = .next (t.setStrand b k { st.next with state := .retiring true })) ∧
       (t.atomHolds st = true → exec .exitAbandon s = .next (s.trap b k st 0x0001)))) ∧
    (∀ q, s.strand? b k = some st → st.state = .retiring q → s.retired st = true → st.pend = [] →
      ∃ t, exec (.strandDone b k) s = .next t ∧ t.strand? b k = none) ∧
    (s.Issues { rx := [d] } b k st → st.saved = none → liveOk (st.rx d) = true → st.loads = [] →
      (s.launch st.lid).records < (s.launch st.lid).cstore →
      ∃ t c, exec (.yield d) s = .next t ∧ t.strand? b k = none ∧ (t.launch st.lid).readyList = ready (s.launch st.lid) c ∧
        c.st.pc = st.pc + 4 ∧ c.st.wid = st.wid ∧ c.st.round = st.round ∧
        ∀ r : XReg, (st.rx d).getLsbD r.toNat = true → r ≠ 0 → c.st.rx r = st.rx r) ∧
    (∀ loc path bd, s.Issues { rx := [d, a] } b k st → st.saved = none → liveOk (st.rx d) = true → st.loads = [] →
      (s.launch st.lid).records < (s.launch st.lid).cstore → s.waitWord b k st (st.rx a) = .ok loc path bd →
      (s.readNat loc 8 % 4 ≠ 0 → exec (.split d a) s = .next (s.setStrand b k st.next)) ∧
      (s.readNat loc 8 % 4 = 0 →
        ∃ t, exec (.split d a) s = .next t ∧ t.strand? b k = none ∧
          (t.launch st.lid).conts.length = (s.launch st.lid).conts.length + 1 ∧
          ∃ c ∈ (t.launch st.lid).conts, c.st.pc = st.pc + 4 ∧ c.waitOn = st.rx a ∧ c.isOwner st.ownerBent st.ownerSlot = true)) ∧
    (∀ (lid n : Nat) (L : Launch) (c : Cont), s.launch? lid = some L → L.conts[n]? = some c → c.fired = true →
      exec (.continuationReady lid n) s =
        .next (s.setLaunch lid { L with conts := L.conts.eraseIdx n, readyList := ready L c })) ∧
    (∀ (lid : Nat) (c : Cont), (s.bent b).launch = some lid → s.strand? b k = none → k < (s.launch lid).nStrands →
      (s.launch lid).phase = .running → ((s.launch lid).det = false → s.slotBefore lid b k = false) →
      (s.launch lid).takes (s.bent b).index k = some c →
      ∃ t w, exec (.continuationResume b k) s = .next t ∧ t.strand? b k = some w ∧ w.pc = c.st.pc ∧ w.x = c.st.x ∧ w.f = c.st.f ∧
        w.state = .ready)

/-- With no acquire of the strand in flight, a load traps with 0x0002 at a misaligned address, else with 0x0004 at an address of
no space, else with 0x0001 at another bent's scratchpad; an `ldfe`, which takes own scratchpad only, traps with 0x0001 at device
virtual and host addresses. (Rests on R136, R137, R275.) An access to own scratchpad lies at its offset of the bent's scratchpad;
where the offset is in the front of a buffer whose backings are swapped, it lies as far into the buffer's second range; its sill is
that of the offset addressed. An offset in the second range of a buffer traps with cause 0x0004. The second range begins after the
first, at a multiple of 256 bytes from it. (Rests on R276, R278, R288, R329.) -/
def Obligations.AddressChecksAndScratchpad : Prop :=
  (∀ (s : State) (d a : XReg) (sc : Scope) (o : Order) (t : ITy) (off : BitVec 7) (b k : Nat) (st : Strand),
     s.Issues { rx := [a], wx := [d] } b k st → st.ops = [] →
     let ea := st.rx a + BitVec.ofInt 64 (off.toInt * (tySize t : Int))
     (ea.toNat % tySize t ≠ 0 →
       exec (.ld d a sc o t off) s = .next (s.trap b k st 0x0002) ∧ exec (.ldfe d a sc t off) s = .next (s.trap b k st 0x0002)) ∧
     (ea.toNat % tySize t = 0 → spaceOf b ea = .bad →
       exec (.ld d a sc o t off) s = .next (s.trap b k st 0x0004) ∧ exec (.ldfe d a sc t off) s = .next (s.trap b k st 0x0004)) ∧
     (∀ c x, ea.toNat % tySize t = 0 → spaceOf b ea = .named c x →
       exec (.ld d a sc o t off) s = .next (s.trap b k st 0x0001) ∧ exec (.ldfe d a sc t off) s = .next (s.trap b k st 0x0001)) ∧
     (∀ x, ea.toNat % tySize t = 0 → spaceOf b ea = .dev x ∨ spaceOf b ea = .host x →
       exec (.ldfe d a sc t off) s = .next (s.trap b k st 0x0001))) ∧
  (∀ (s : State) (b k : Nat) (st : Strand) (acc : Accepts) (write : Bool) (ea : Word) (size off : Nat),
     ea.toNat % size = 0 → spaceOf b ea = .own off →
     let L := s.launch st.lid
     let front (p : Nat × Buffer) : Prop := p.2.spad = true ∧ p.2.boff ≤ off ∧ off < p.2.boff + p.2.bytes
     let back (p : Nat × Buffer) : Prop :=
       p.2.spad = true ∧ p.2.shadow = true ∧ p.2.boff + (p.2.bytes + 255) / 256 * 256 ≤ off ∧
         off < p.2.boff + (p.2.bytes + 255) / 256 * 256 + p.2.bytes
     let lies (place : Nat) (bound : Option (Nat × Bool)) : Prop :=
       s.access b k st acc write ea size = .ok (2 ^ 41 + b * 2 ^ 22 + place) (.sill (off / 256 % 8)) bound
     ((∀ p ∈ L.bufs, ¬front p ∧ ¬back p) → lies off none) ∧
     (∀ p ∈ L.bufs, front p → (∀ q ∈ L.bufs, front q → q = p) →
       (p.2.shadow = false → lies off none) ∧
       (p.2.shadow = true → p.2.swap = false → lies off (some (p.1, false))) ∧
       (p.2.shadow = true → p.2.swap = true →
         lies (p.2.boff + (p.2.bytes + 255) / 256 * 256 + (off - p.2.boff)) (some (p.1, true)))) ∧
     (∀ p ∈ L.bufs, back p → (∀ q ∈ L.bufs, ¬front q) → s.access b k st acc write ea size = .trap 0x0004 s))

/-- A load of a strand with nothing in flight, to an address that its checks accept, goes on its way: the strand goes on with one
load entry that names the place, the size and the destination; nothing else of the machine changes. (Rests on R138 to R141, R145,
R149.) Where the spec leaves a point open this is the choice of the model: log entry 23. -/
def Obligations.LoadsIssue : Prop :=
  ∀ (s : State) (d a : XReg) (fd : FReg) (sc : Scope) (o : Order) (t : ITy) (off : BitVec 7) (b k : Nat) (st : Strand)
    (loc : Nat) (path : Path) (bd : Option (Nat × Bool)), st.ops = [] →
    let entry (i : Instr) (kind : MemKind) (n : Nat) (dst : Dest) (acq : Bool) : Prop :=
      ∃ (w : Strand) (e : MemOp), exec i s = .next (s.setStrand b k w) ∧ w.ops = [e] ∧ w.pc = st.pc + 4 ∧
        st.SameExcept { w with ops := [], nextOp := st.nextOp } [] [] [] ∧ e.kind = kind ∧ e.loc = loc ∧ e.path = path ∧ e.size = n ∧
        e.dest = dst ∧ e.acq = acq ∧ e.got = none
    (raceChecked sc o = false ∨ (∀ n, path ≠ .sill n) → s.Issues { rx := [a], wx := [d] } b k st →
      s.access b k st allSpaces false (st.ea a off (tySize t)) (tySize t) = .ok loc path bd →
      entry (.ld d a sc o t off) .load (tySize t) (.x d t) (isAcq o)) ∧
    (ldnbType t = true → s.Issues { rx := [a], wx := [d] } b k st →
      s.access b k st ownOnly false (st.ea a off (tySize t)) (tySize t) = .ok loc path bd →
      entry (.ldnb d a sc t off) .ldnb (tySize t) (.x d t) false) ∧
    (∀ tag p bd', raceChecked sc o = false ∨ (∀ n, path ≠ .sill n) → s.Issues { rx := [a], wf := [fd] } b k st →
      (st.ea a off 4).toNat % 4 = 0 →
      spaceOf b (st.ea a off 4) ≠ .bad → s.tagAccess b k st false (st.ea a off 4) = .ok tag p bd' →
      s.access b k st allSpaces false (st.ea a off 4) 4 = .ok loc path bd →
      entry (.ldt fd a sc o off) .ldt 4 (.f fd) (isAcq o)) ∧
    (s.Issues { rx := [a], wx := [d] } b k st →
      s.access b k st ownOnly false (st.ea a off (tySize t)) (tySize t) = .ok loc path bd →
      ∃ (w : Strand) (e : MemOp), exec (.ldfe d a sc t off) s = .next (s.setStrand b k w) ∧ w.ops = [e] ∧ e.kind = .ldfe ∧ e.loc = loc ∧
        e.dest = .x d t ∧ w.state = .waiting (.deferred e.id) ∧ w.pc = st.pc)

/-- A store of a strand with nothing in flight, a release with no cell outstanding either, goes on its way: the strand goes on
with one store entry that holds the place and the low bytes of its register, with the register's poison; a type that is not
signed is no store. (Rests on R138 to R141, R145, R147.) Where the spec leaves a point open this is the choice of the model: log
entry 23. -/
def Obligations.StoresIssue : Prop :=
  ∀ (s : State) (d a : XReg) (fd : FReg) (sc : Scope) (o : Order) (t : ITy) (off : BitVec 7) (b k : Nat) (st : Strand)
    (loc : Nat) (path : Path) (bd : Option (Nat × Bool)), st.ops = [] →
    let entry (i : Instr) (kind : MemKind) (data : List Byte) (pois rel : Bool) : Prop :=
      (rel = true → s.cellsOut st = false) →
      ∃ (t : State) (w : Strand) (e : MemOp), exec i s = .next (t.setStrand b k w) ∧ t.mem = s.mem ∧ (rel = false → t = s) ∧
        w.ops = [e] ∧ w.pc = st.pc + 4 ∧
        st.SameExcept { w with ops := [], nextOp := st.nextOp } [] [] [] ∧ e.kind = kind ∧ e.loc = loc ∧ e.path = path ∧
        e.size = data.length ∧ e.data = data ∧ e.dpois = pois ∧ e.rel = rel ∧ e.got = none
    (raceChecked sc o = false ∨ (∀ n, path ≠ .sill n) → tySigned t = true → s.Issues { rx := [a], dx := [d] } b k st →
      s.access b k st allSpaces true (st.ea a off (tySize t)) (tySize t) = .ok loc path bd →
      entry (.st d a sc o t off) .store (leBytes (tySize t) (st.rx d).toNat) (st.poisonX d) (isRel o)) ∧
    (∀ tag p bd', raceChecked sc o = false ∨ (∀ n, path ≠ .sill n) → s.Issues { rx := [a], df := [fd] } b k st →
      (st.ea a off 4).toNat % 4 = 0 →
      spaceOf b (st.ea a off 4) ≠ .bad → s.tagAccess b k st true (st.ea a off 4) = .ok tag p bd' →
      s.access b k st allSpaces true (st.ea a off 4) 4 = .ok loc path bd →
      entry (.stt fd a sc o off) .stt (leBytes 4 (st.rf fd).v.toNat) (st.poisonF fd) (isRel o)) ∧
    (tySigned t = true → s.Issues { rx := [a], dx := [d] } b k st →
      s.access b k st ownOnly true (st.ea a off (tySize t)) (tySize t) = .ok loc path bd →
      entry (.stfe d a sc t off) (.stfe (d != 0)) (leBytes (tySize t) (st.rx d).toNat) (st.poisonX d) true) ∧
    (tySigned t = false → s.Issues {} b k st → exec (.st d a sc o t off) s = .next (s.trap b k st 0x0001))

/-- A scratchpad access of scope .strand and order .rlx that would race traps with cause 0x0030 and stores nothing; of `ldt` and
`stt` both the value and its tag byte are checked. One that does not race goes on its way with its check passed: the strand goes on
with one entry that names its places and, of a store, its bytes; the access is performed later, and every byte of memory reads as
before. (Rests on R51, R142, R143, R145, R279.) Where the spec leaves a point open this is the choice of the model: log entries 3
and 22. -/
def Obligations.RaceCheckedAccesses : Prop :=
  ∀ (s : State) (d a : XReg) (f : FReg) (t : ITy) (off : BitVec 7) (b k : Nat) (st : Strand) (loc n : Nat) (bd : Option (Nat × Bool)),
    st.ops = [] →
    let entry (u : State) (w : Strand) (kind : MemKind) (size : Nat) (data : List Byte) : Prop :=
      u.mem = s.mem ∧ u.strand? b k = some w ∧ w.pc = st.pc + 4 ∧
        st.SameExcept { w with ops := [], nextOp := st.nextOp } [] [] [] ∧
        ∃ e : MemOp, w.ops = [e] ∧ e.kind = kind ∧ e.loc = loc ∧ e.path = .sill n ∧ e.size = size ∧ e.data = data ∧ e.got = none ∧
          e.half = none
    (s.Issues { rx := [a], wx := [d] } b k st →
      s.access b k st allSpaces false (st.ea a off (tySize t)) (tySize t) = .ok loc (.sill n) bd →
      (s.races b k st loc (tySize t) = true → exec (.ld d a .strand .rlx t off) s = .next (s.trap b k st 0x0030)) ∧
      (s.races b k st loc (tySize t) = false → ∃ w : Strand,
        exec (.ld d a .strand .rlx t off) s = .next (s.setStrand b k w) ∧ entry (s.setStrand b k w) w .load (tySize t) [] ∧
        ∃ e ∈ w.ops, e.dest = .x d t)) ∧
    (tySigned t = true → s.Issues { rx := [a], dx := [d] } b k st →
      s.access b k st allSpaces true (st.ea a off (tySize t)) (tySize t) = .ok loc (.sill n) bd →
      (s.races b k st loc (tySize t) = true → exec (.st d a .strand .rlx t off) s = .next (s.trap b k st 0x0030)) ∧
      (s.races b k st loc (tySize t) = false → ∃ (u : State) (w : Strand),
        exec (.st d a .strand .rlx t off) s = .next u ∧ entry u w .store (tySize t) (leBytes (tySize t) (st.rx d).toNat))) ∧
    (∀ tag p bd', (st.ea a off 4).toNat % 4 = 0 → spaceOf b (st.ea a off 4) ≠ .bad →
      (s.Issues { rx := [a], wf := [f] } b k st → s.tagAccess b k st false (st.ea a off 4) = .ok tag p bd' →
        s.access b k st allSpaces false (st.ea a off 4) 4 = .ok loc (.sill n) bd →
        (s.races b k st loc 4 = true ∨ s.races b k st tag 1 = true →
          exec (.ldt f a .strand .rlx off) s = .next (s.trap b k st 0x0030)) ∧
        (s.races b k st loc 4 = false → s.races b k st tag 1 = false → ∃ w : Strand,
          exec (.ldt f a .strand .rlx off) s = .next (s.setStrand b k w) ∧ entry (s.setStrand b k w) w .ldt 4 [] ∧
          ∃ e ∈ w.ops, e.dest = .f f ∧ e.tagLoc = tag)) ∧
      (s.Issues { rx := [a], df := [f] } b k st → s.tagAccess b k st true (st.ea a off 4) = .ok tag p bd' →
        s.access b k st allSpaces true (st.ea a off 4) 4 = .ok loc (.sill n) bd →
        (s.races b k st loc 4 = true ∨ s.races b k st tag 1 = true →
          exec (.stt f a .strand .rlx off) s = .next (s.trap b k st 0x0030)) ∧
        (s.races b k st loc 4 = false → s.races b k st tag 1 = false → ∃ (u : State) (w : Strand),
          exec (.stt f a .strand .rlx off) s = .next u ∧ entry u w .stt 4 (leBytes 4 (st.rf f).v.toNat) ∧
          ∃ e ∈ w.ops, e.tagLoc = tag ∧ e.expected = [(st.rf f).c.zeroExtend 8])))

/-- An atomic of a strand with nothing in flight, a release with no cell outstanding either: to HBM it goes on its way as an
entry with its operand; to own scratchpad it goes through SI to the AT as a cell whose code is the operation's. `amo.fadd` has 4
bytes only. (Rests on R150, R245.) What an atomic leaves where a value was: for w bits, the sum modulo 2^w, the operand where
the expected value stood, the logical combination, and the smaller or larger value, signed or unsigned; of `amo.fadd` the FP32 sum,
rounded to nearest with ties to even. (Rests on R28, R29, R140, R150.)
Where the spec leaves a point open this is the choice of the model: log entry 21. -/
def Obligations.AtomicsIssueAndCompute : Prop :=
  (∀ (s : State) (d a x : XReg) (sc : Scope) (o : Order) (w : Bool) (b k : Nat) (st : Strand) (loc : Nat) (path : Path)
     (bd : Option (Nat × Bool)), st.ops = [] → (isRel o = true → s.cellsOut st = false) →
     (∀ q ∈ [(Instr.amoSwap d a x sc o w, 0, w), (.amoCas d a x sc o w, 1, w), (.amoAdd d a x sc o w, 2, w), (.amoFadd d a x sc o, 3, false),
         (.amoAnd d a x sc o w, 4, w), (.amoOr d a x sc o w, 5, w), (.amoXor d a x sc o w, 6, w), (.amoMin d a x sc o w, 7, w),
         (.amoMax d a x sc o w, 8, w), (.amoMinu d a x sc o w, 9, w), (.amoMaxu d a x sc o w, 10, w)],
       let aop := q.2.1
       let n := if q.2.2 then 8 else 4
       s.Issues { rx := if aop = 1 then [a, x, d] else [a, x], wx := [d] } b k st →
       s.access b k st noHost true (st.rx a) n = .ok loc path bd →
       (∀ c, path = .channel c → ∃ (t : State) (v : Strand) (e : MemOp),
         exec q.1 s = .next (t.setStrand b k v) ∧ t.mem = s.mem ∧ (isRel o = false → t = s) ∧ v.ops = [e] ∧
         v.pc = st.pc + 4 ∧ e.kind = .amo aop q.2.2 ∧ e.loc = loc ∧ e.path = path ∧ e.size = n ∧ e.data = leBytes n (st.rx x).toNat ∧
         e.expected = leBytes n (st.rx d).toNat ∧ e.dest = amoDest aop d q.2.2) ∧
       (∀ m, path = .sill m → (s.bent b).voqRoom portSI egAT (tierClass (s.launch st.lid).tier).toNat = true →
         ∃ (t : State) (v : Strand) (e : MemOp) (c : Cell), exec q.1 s = .next t ∧ t.mem = s.mem ∧ t.strand? b k = some v ∧
           v.ops = [e] ∧ v.pc = st.pc + 4 ∧ e.kind = .amo aop q.2.2 ∧
           ((t.bent b).sub portSI egAT (tierClass (s.launch st.lid).tier).toNat).map (fun q => q.cell) =
             ((s.bent b).sub portSI egAT (tierClass (s.launch st.lid).tier).toNat).map (fun q => q.cell) ++ [c] ∧
           c.kind = 6 ∧ c.code = BitVec.ofNat 8 (aop + 1) ∧ c.dest = oneHot egAT))) ∧
  (∀ (w m x e : Nat), 0 < w → m < 2 ^ w → x < 2 ^ w →
     amoNew 0 w m x e = x ∧ amoNew 1 w m x e = (if m = e then x else m) ∧ amoNew 2 w m x e = (m + x) % 2 ^ w ∧
     amoNew 4 w m x e = m &&& x ∧ amoNew 5 w m x e = m ||| x ∧ amoNew 6 w m x e = m ^^^ x ∧
     (w = 32 → amoNew 3 w m x e =
       (f32 ((val32 (BitVec.ofNat 32 m)).add (val32 (BitVec.ofNat 32 x)) .rne) .rne).toNat) ∧
     ((amoNew 7 w m x e = m ∨ amoNew 7 w m x e = x) ∧ (BitVec.ofNat w (amoNew 7 w m x e)).toInt = min (BitVec.ofNat w m).toInt (BitVec.ofNat w x).toInt) ∧
     ((amoNew 8 w m x e = m ∨ amoNew 8 w m x e = x) ∧ (BitVec.ofNat w (amoNew 8 w m x e)).toInt = max (BitVec.ofNat w m).toInt (BitVec.ofNat w x).toInt) ∧
     amoNew 9 w m x e = min m x ∧ amoNew 10 w m x e = max m x)

/-- The data of a load entry returns: the register receives the bytes at its place, extended by its type, and the entry is free,
which of an acquire ends the holding of later accesses too; through a leaf of an image the bytes read under the image's key; `ldnb` of
an empty granule gives all ones; an `ldfe` of a full granule goes on with its value; an `ldt` reads its value and then its tag byte,
and its register receives the value with the byte's count, at most 24 and 0 for a value that is not finite; an atomic at an HBM channel
leaves its new value and returns the old one, and changes no byte outside its place. (Rests on R51, R138 to R141, R145, R146, R149,
R150, R154, R339.) The completion of a store entry: its bytes stand at its place, no byte outside them has changed, and the entry is
free; `stt` writes its value and then its tag byte; `stfe` also sets FE of its granule, or with D = 0 clears it and stores nothing.
(Rests on R51, R138, R140, R145, R147.) A place in the slots of an enabled command queue is left out. Where the spec leaves a point
open this is the choice of the model: log entries 3, 21 and 23. -/
def Obligations.AccessesReturn : Prop :=
  (∀ (s : State) (b k : Nat) (st : Strand) (o : MemOp) (d : XReg) (t : ITy),
     s.strand? b k = some st → st.ops = [o] → o.got = none → o.parked = false → o.preTrap = false → o.dest = .x d t →
     0 < o.size → s.foreignPage st.lid o = none →
     (o.kind = .load → o.acq = false → (∀ c i, o.path ≠ .image c i) → exec (.loadReturn b k o.id) s = .next (s.setStrand b k
       ({ st.wxp d (extend t (s.readNat o.loc o.size)) (s.poisonedAt o.loc o.size) with ops := [] }))) ∧
     (∀ c i, o.kind = .load → o.acq = false → o.path = .image c i → exec (.loadReturn b k o.id) s = .next (s.setStrand b k
       ({ st.wxp d (extend t (leNat (s.bytesUnder (s.imageKey (s.launch o.writer.lid).part i) o.loc o.size))) (s.poisonedAt o.loc o.size)
          with ops := [] }))) ∧
     (o.kind = .load → (∀ c i, o.path ≠ .image c i) → o.acq = true → ∃ (u : State) (v : Strand),
       exec (.loadReturn b k o.id) s = .next u ∧ u.mem = s.mem ∧ u.strand? b k = some v ∧
         v = { st.wxp d (extend t (s.readNat o.loc o.size)) (s.poisonedAt o.loc o.size) with ops := [] }) ∧
     (o.kind = .ldfe → (s.granule o.loc).fe = true → st.state = .waiting (.deferred o.id) → (∀ c i, o.path ≠ .image c i) →
       ∃ (u : State) (v : Strand), exec (.loadReturn b k o.id) s = .next u ∧ u.mem = s.mem ∧ u.strand? b k = some v ∧ v.ops = [] ∧
         v.state = .ready ∧ v.pc = st.pc + 4 ∧ v.rx d = (if d = 0 then 0 else extend t (s.readNat o.loc o.size)) ∧
         (u.granule o.loc).fe = true) ∧
     (o.kind = .ldnb → o.acq = false → exec (.loadReturn b k o.id) s = .next (s.setStrand b k
       (if (s.granule o.loc).fe then { st.wxp d (extend t (s.readNat o.loc o.size)) (s.poisonedAt o.loc o.size) with ops := [] }
        else { st.wx d (BitVec.allOnes 64) with ops := [] }))) ∧
     (∀ aop w c, o.kind = .amo aop w → o.path = .channel c → s.meetsQueue o.loc o.size = false → (s.launch st.lid).det = false → o.writer.lid = st.lid → s.Ordered →
       ∃ (u : State) (v : Strand), exec (.loadReturn b k o.id) s = .next u ∧ u.strand? b k = some v ∧ v.ops = [] ∧
         v.rx d = (if d = 0 then 0 else extend t (s.readNat o.loc o.size)) ∧
         (∀ x, x < o.loc ∨ o.loc + o.size ≤ x → u.byte x = s.byte x) ∧
         (s.poisonedAt o.loc o.size = false → u.readNat o.loc o.size =
           amoNew aop (8 * o.size) (s.readNat o.loc o.size) (leNat o.data % 2 ^ (8 * o.size)) (leNat o.expected % 2 ^ (8 * o.size)) %
             2 ^ (8 * o.size)))) ∧
  (∀ (s : State) (b k : Nat) (st : Strand) (o : MemOp) (f : FReg),
     s.strand? b k = some st → st.ops = [o] → o.kind = .ldt → o.got = none → o.parked = false → o.preTrap = false → o.acq = false →
     o.dest = .f f → s.foreignPage st.lid o = none →
     (o.half = none → exec (.loadReturn b k o.id) s =
       .next (s.setStrand b k { st with ops := [{ o with half := some (s.read o.loc o.size) }] })) ∧
     (∀ bytes p, o.half = some (bytes, p) → bytes.length = 4 →
       let v : Word32 := BitVec.ofNat 32 (leNat bytes)
       let g := (s.byte o.tagLoc).toNat % 32
       exec (.loadReturn b k o.id) s = .next (s.setStrand b k
         { st.wfp f ⟨v, if (val32 v).isFinite then BitVec.ofNat 5 (min g 24) else 0⟩ (p || s.poisonedAt o.tagLoc 1) with ops := [] }))) ∧
  (∀ (s : State) (b k : Nat) (st : Strand) (o : MemOp),
     s.strand? b k = some st → st.ops = [o] → o.got = none → o.data.length = o.size → o.writer.lid = st.lid →
     (s.launch st.lid).det = false → s.Ordered → s.foreignPage st.lid o = none →
     (∀ c, o.path = .channel c → s.meetsQueue o.loc o.size = false ∧ s.meetsQueue o.tagLoc 1 = false) →
     (o.kind = .stt → o.half = none →
       ∃ (u : State) (v : Strand) (e : MemOp), exec (.storeCompletion b k o.id) s = .next u ∧ u.strand? b k = some v ∧ v.ops = [e] ∧
         e.id = o.id ∧ e.kind = .stt ∧ e.half = some ([], false) ∧ e.tagLoc = o.tagLoc ∧ e.expected = o.expected ∧ v.x = st.x ∧
         (∀ x, x < o.loc ∨ o.loc + o.size ≤ x → u.byte x = s.byte x) ∧
         (∀ j, j < o.size → u.byte (o.loc + j) = o.data.getD j 0)) ∧
     (∀ h g, o.kind = .stt → o.half = some h → o.expected = [g] →
       ∃ (u : State) (v : Strand), exec (.storeCompletion b k o.id) s = .next u ∧ u.strand? b k = some v ∧ v.ops = [] ∧ v.x = st.x ∧
         (∀ x, x ≠ o.tagLoc → u.byte x = s.byte x) ∧ u.byte o.tagLoc = g) ∧
     (o.kind = .store ∨ (o.kind = .stfe true ∧ ∃ c off, spadOf o.loc = some (c, off)) →
       ∃ (u : State) (v : Strand), exec (.storeCompletion b k o.id) s = .next u ∧ u.strand? b k = some v ∧ v.ops = [] ∧ v.x = st.x ∧
         (∀ x, x < o.loc ∨ o.loc + o.size ≤ x → u.byte x = s.byte x) ∧
         (∀ j, j < o.size → u.byte (o.loc + j) = o.data.getD j 0) ∧ (o.kind = .stfe true → (u.granule o.loc).fe = true)) ∧
     (∀ c off, o.kind = .stfe false → spadOf o.loc = some (c, off) →
       ∃ u : State, exec (.storeCompletion b k o.id) s = .next u ∧ u.mem = s.mem ∧ (u.granule o.loc).fe = false))

/-- A fence of a strand with nothing outstanding completes; with something outstanding its strand waits, and is ready again once
all of it has been performed; with an atomic of the current round of a deterministic launch among it, or an access queued behind one,
the fence takes the trap with cause 0x0001. A waiting strand wakes where its condition has cleared, and only there. (Rests on R153, R156, R157, R263.)
Where the spec leaves a point open this is the choice of the model: log entry 45. -/
def Obligations.FencesAndWaits : Prop :=
  ∀ (s : State) (sc : Scope) (b k : Nat) (st : Strand) (w : Wait),
    (s.Issues {} b k st →
      let amo := (s.launch st.lid).det && (s.atomCells st || st.ops.any st.stuck)
      (s.performed st = true → exec (.fence sc) s = .next (s.setStrand b k st.next)) ∧
      (s.performed st = false →
        (amo = false → exec (.fence sc) s = .next (s.setStrand b k { st with state := .waiting (.performed sc) })) ∧
        (amo = true → exec (.fence sc) s = .next (s.trap b k st 0x0001)))) ∧
    (s.strand? b k = some st → st.state = .waiting (.performed sc) → s.performed st = true →
      exec (.fenceComplete b k) s = .next (s.setStrand b k { st with state := .ready })) ∧
    (s.strand? b k = some st → st.state = .waiting w →
      exec (.strandWake b k) s = .next (if s.cleared b k st w then s.setStrand b k { st with state := .ready } else s))

/-- The barrier instructions and `publish` wait while an acquire of their strand is in flight. (Rests on R139.) With none in flight,
a descriptor sets level and parties, and keeps the counters of a barrier that has no arrival
counted, and traps with cause 0x0001 where it has one; an arrival of a 65th group traps with cause 0x0001; an arrival returns
the phase counter and counts, and the arrival that makes the parties complete moves the counter on; a wait goes on where the
phase has passed, and waits where it has not; a test returns how far the counter has moved; both touch the group's counter. An
uninitialised barrier traps with cause 0x0006. (Rests on R158, R159.) `publish` of a shadow buffer whose writes are all made
swaps its backings, and the publish is complete once no access is bound to the old front; `publish` of an undeclared buffer
traps with cause 0x0006, of one without shadow with cause 0x0001. (Rests on R160.) Where the spec leaves a point open this is
the choice of the model: log entry 24. -/
def Obligations.BarriersAndPublish : Prop :=
  (∀ (s : State) (a d : XReg) (sc : Scope) (h : BitVec 8) (b k : Nat) (st : Strand),
     (∃ o ∈ st.ops, o.acq = true) → (s.launch st.lid).det = false → s.Issues { rx := [a], wx := [d] } b k st →
     ∀ i ∈ [Instr.barInit a sc h, .barArrive d sc h, .barWait a sc h, .barTest d a sc h, .publish h],
       exec i s = .next (s.setStrand b k { st with state := .waiting .acquire })) ∧
  (∀ (s : State) (a d : XReg) (sc : Scope) (h : BitVec 8) (b k : Nat) (st : Strand), (∀ o ∈ st.ops, o.acq = false) →
     let L := s.launch st.lid
     (∀ level parties, s.Issues { rx := [a] } b k st → barDesc (st.rx a) = some (level, parties) → NMap.get? L.bars h.toNat = none →
       ∃ t, exec (.barInit a sc h) s = .next t ∧ NMap.get? (t.launch st.lid).bars h.toNat = some ⟨level, parties, []⟩ ∧
         t.strand? b k = some st.next) ∧
     (s.Issues { wx := [d] } b k st → NMap.get? L.bars h.toNat = none → exec (.barArrive d sc h) s = .next (s.trap b k st 0x0006)) ∧
     (s.Issues { rx := [a] } b k st → NMap.get? L.bars h.toNat = none → exec (.barWait a sc h) s = .next (s.trap b k st 0x0006)) ∧
     (s.Issues { rx := [a], wx := [d] } b k st → NMap.get? L.bars h.toNat = none →
       exec (.barTest d a sc h) s = .next (s.trap b k st 0x0006)) ∧
     (s.Issues { rx := [a] } b k st → barDesc (st.rx a) = none → exec (.barInit a sc h) s = .next (s.trap b k st 0x0001)) ∧
     (∀ level parties B, s.Issues { rx := [a] } b k st → barDesc (st.rx a) = some (level, parties) →
       NMap.get? L.bars h.toNat = some B →
       ((∃ q ∈ B.groups, q.2.2 ≠ 0) → exec (.barInit a sc h) s = .next (s.trap b k st 0x0001)) ∧
       ((∀ q ∈ B.groups, q.2.2 = 0) →
         ∃ t, exec (.barInit a sc h) s = .next t ∧ NMap.get? (t.launch st.lid).bars h.toNat = some ⟨level, parties, B.groups⟩ ∧
           t.strand? b k = some st.next)) ∧
     (∀ B, NMap.get? L.bars h.toNat = some B →
       let g := groupOf L.widths B.level st.wid
       let ctr := B.counter g
       let n := (NMap.getD B.groups g (0, 0)).2
       let touched (t : State) : Prop := ∃ B', NMap.get? (t.launch st.lid).bars h.toNat = some B' ∧ B'.counter g = ctr ∧
         (B.groups.length < 64 → NMap.has B'.groups g = true)
       (s.Issues { wx := [d] } b k st → B.full g = true → exec (.barArrive d sc h) s = .next (s.trap b k st 0x0001)) ∧
       (s.Issues { wx := [d] } b k st → B.full g = false → s.performed st = true →
         ∃ t, exec (.barArrive d sc h) s = .next t ∧ t.strand? b k = some (st.wx d (ctr.zeroExtend 64)).next ∧
           ∃ B', NMap.get? (t.launch st.lid).bars h.toNat = some B' ∧
             NMap.getD B'.groups g (0, 0) = (if n + 1 = B.parties then (ctr + 1, 0) else (ctr, n + 1))) ∧
       (s.Issues { rx := [a] } b k st → phasePassed ctr ((st.rx a).setWidth 16) = true →
         ∃ t v, exec (.barWait a sc h) s = .next t ∧ t.mem = s.mem ∧ t.strand? b k = some v ∧ v.pc = st.pc + 4 ∧ v.x = st.x ∧
           v.phs = (if h = 0 then ctr.setWidth 8 else st.phs) ∧ touched t) ∧
       (s.Issues { rx := [a] } b k st → phasePassed ctr ((st.rx a).setWidth 16) = false →
         ∃ t, exec (.barWait a sc h) s = .next t ∧ t.mem = s.mem ∧ touched t ∧
           t.strand? b k = some { st with state := .waiting (.barrier h.toNat st.wid ((st.rx a).setWidth 16)) }) ∧
       (s.Issues { rx := [a], wx := [d] } b k st →
         ∃ t v, exec (.barTest d a sc h) s = .next t ∧ t.mem = s.mem ∧ t.strand? b k = some v ∧ v.pc = st.pc + 4 ∧
           v.rx d = (if d = 0 then 0 else (ctr - (st.rx a).setWidth 16).zeroExtend 64) ∧ touched t))) ∧
  (∀ (s : State) (h : BitVec 8) (b k : Nat) (st : Strand), s.Issues {} b k st → st.ops = [] →
     let L := s.launch st.lid
     let bt := h.toNat
     (NMap.get? L.bufs bt = none → exec (.publish h) s = .next (s.trap b k st 0x0006)) ∧
     (∀ B, NMap.get? L.bufs bt = some B → B.shadow = false → exec (.publish h) s = .next (s.trap b k st 0x0001)) ∧
     (∀ B, NMap.get? L.bufs bt = some B → B.shadow = true → s.cleared b k st (.shadowWrites bt) = true →
       ∃ t, exec (.publish h) s = .next t ∧ t.strand? b k = some st.next ∧ t.mem = s.mem ∧
         NMap.get? (t.launch st.lid).bufs bt = some { B with swap := !B.swap } ∧ bt ∈ (t.launch st.lid).pubAfter) ∧
     (∀ (u : State) (M : Launch) (B : Buffer), u.launch? st.lid = some M → NMap.get? M.bufs bt = some B → M.pubAfter.contains bt = true →
       u.boundTo st.lid bt (!B.swap) = false → exec (.publishComplete st.lid bt) u =
         .next (u.setLaunch st.lid { M with pubAfter := removeFirst (fun x => x == bt) M.pubAfter })))

/-- `cell`, `cellm`, `cellv` and `inj` of a strand with nothing in flight. The checks of the header in their order, then those of the
instruction: the first that fails gives the cause of the trap. Where none fails and the queues have room, the instruction completes:
`cell`, `cellv` and `inj` enter one cell in the queue of every egress that DEST names, `cellm` one in the multicast queue; the cell
has the fields of the descriptor, ARG or ADDR from X[B], ATARG or SXCFG, the issuer's identity, context, modes, round and sequence
number, and the payload from scratchpad, from X[D] or of zeros. No register and no byte of memory changes. Where a queue has no room
the strand waits. (Rests on R75 to R78, R93, R162 to R166, R246, R396, R400.) Where the spec leaves a point open this is the choice
of the model: log entry 16. -/
def Obligations.CellInstructions : Prop :=
  ∀ (s : State) (d a x : XReg) (cl : BitVec 3) (b k : Nat) (st : Strand), s.Issues { dx := [a, x, d] } b k st → st.ops = [] →
    let D := st.rx a
    let X := st.rx x
    let c := descCell D
    let L := s.launch st.lid
    let addressed := c.kind == 6 || (c.kind == 0 && c.dest &&& 0x3800 != 0)
    let header : List (Bool × BitVec 16) :=
      [(c.dest == 0, 0x0001), (popMask c.dest != 1 && !inOneGroup c.dest, 0x0005), (c.dest &&& ~~~kindMask c.kind != 0, 0x0005),
       (decide (c.opcnt.toNat < c.opix.toNat), 0x0001), (lenBad c, 0x0001), (fmtBad c, 0x0001),
       (addressed && !addrOk L.region X, 0x0004), (!codeOk c.kind c.code, 0x0001)]
    ∀ q ∈ [(Instr.cell d a x cl, CellFn.cell), (.cellm d a x cl, .cellm), (.cellv d a x cl, .cellv), (.inj d a x cl, .inj)],
      let fn := q.2
      let reads := fn != .inj && d != 0
      let place := payloadOffset b c (st.rx d)
      let own : List (Bool × BitVec 16) :=
        [(descReserved D || clBad fn cl, 0x0001), (!destOk fn c.dest, 0x0001),
         (c.opcnt != 0 && (fn == .cellm || fn == .cellv), 0x0001),
         (c.opcnt != 0 && !(s.bent b).holdsRv st (firstEgress c.dest) c.rvt.toNat, 0x0001),
         (fn == .inj && (decide (8 < c.len.toNat) || c.tag), 0x0001),
         ((!addressed && c.kind != 3 && X.extractLsb' 32 32 != 0) || (c.kind == 3 && x != 0), 0x0001),
         (reads && (match place with | .inl e => e == 0x0002 | .inr _ => false), 0x0002),
         (reads && (match place with | .inl _ => true | .inr _ => false), 0x0001),
         (st.poisonX a || st.poisonX x || (reads && st.poisonX d), 0x0031)]
      let n := (cellClass fn cl L.tier).toNat
      let sent (i : Nat) (p : List Byte × Bool) : Prop :=
        let room : Prop := if fn = .cellm then (s.bent b).mqRoom i n = true else ∀ e ∈ bitsOf c.dest, (s.bent b).voqRoom i e n = true
        (¬room → ∃ w, exec q.1 s = .next (s.setStrand b k { st with state := .waiting w })) ∧
        (room → ∃ (t : State) (v : Strand) (h : Cell), exec q.1 s = .next t ∧ t.mem = s.mem ∧ t.strand? b k = some v ∧
          v.SameRegisters st ∧ v.pc = st.pc + 4 ∧ v.seqNext = st.seqNext + 1 ∧ h.dest = D.extractLsb' 0 16 ∧
          h.code = D.extractLsb' 16 8 ∧ h.kind = D.extractLsb' 24 4 ∧ h.rvt = D.extractLsb' 28 5 ∧ h.opix = D.extractLsb' 33 2 ∧
          h.opcnt = D.extractLsb' 35 2 ∧ h.eor = D.getLsbD 37 ∧ h.eot = D.getLsbD 38 ∧ h.fmt = D.extractLsb' 40 5 ∧
          h.tag = D.getLsbD 45 ∧ h.len = D.extractLsb' 46 9 ∧ h.iqrec = D.getLsbD 55 ∧ h.cls.toNat = n ∧
          (h.kind = 6 → h.arg = (D.extractLsb' 56 5).zeroExtend 32) ∧ (h.kind = 3 → h.arg = st.sxcfg) ∧
          (addressed = true → addrField X = some h.addr) ∧ (addressed = false → h.addr = 0) ∧
          (addressed = false → h.kind ≠ 3 → h.arg = X.setWidth 32) ∧ (addressed = true → h.kind = 0 → h.arg = 0) ∧
          h.round = st.round ∧ h.bent = BitVec.ofNat 8 b ∧ h.strand = BitVec.ofNat 4 k ∧ h.ctx = BitVec.ofNat 6 L.ctx ∧
          h.modes = st.fpmode ++ st.sigth ++ st.sigen ∧ h.seq = st.seqNext ∧
          h.seqp = NMap.getD st.seqLast c.dest.toNat 0 ∧ h.seqs = st.seqNext ∧ h.vote = (fn == .cellv) ∧
          h.payload = padTo 256 0 p.1 ∧ h.poison = p.2 ∧
          (if fn = .cellm then ((t.bent b).mcast i).map (fun q => q.cell) = ((s.bent b).mcast i).map (fun q => q.cell) ++ [h]
           else ∀ e ∈ bitsOf c.dest, (t.bent b).queued i e n = (s.bent b).queued i e n ++ [h]))
      (∀ e, firstFail (header ++ own) = some e → exec q.1 s = .next (s.trap b k st e)) ∧
      (firstFail (header ++ own) = none →
        (fn = .inj → sent 11 (leBytes 8 (st.rx d).toNat, st.poisonX d)) ∧
        (fn ≠ .inj → d = 0 → sent 11 ([], false)) ∧
        (∀ off, fn ≠ .inj → d ≠ 0 → place = .inr off →
          (L.spadMap off = none → exec q.1 s = .next (s.trap b k st 0x0004)) ∧
          (∀ o bd, L.spadMap off = some (o, bd) → sent (off / 256 % 8) (s.read (spadAddr b o) (payloadBytes c)))))

/-- `rvres` gives its strand the lowest free rendezvous entry of an egress where it is its turn, waits where none is free, and
traps at an egress without entries and for a ninth entry; `rvrel` frees an entry that its strand holds once no operand of it is on
its way, and traps for one it does not hold. (Rests on R168, R169.) `sink` takes the contents of a full slot where it is the
strand's turn, with their poison, and empties the slot; it waits at an empty one; the f form of an FP32 slot gives its element 0
with the lesser of its count and 24, and of a slot of another kind than floating point it traps with cause 0x0001. (Rests on R62,
R170, R171.) Where the spec leaves a point open this is the choice of the model: log entries 30, 45 and 47. -/
def Obligations.RendezvousAndSink : Prop :=
  (∀ (s : State) (d a : XReg) (e : BitVec 4) (b k : Nat) (st : Strand),
     let n := e.toNat
     let B := s.bent b
     let i := (st.rx a).toNat
     (s.Issues { wx := [d] } b k st →
       (¬(n ≤ 10 ∨ n = 14) ∨ 8 ≤ B.heldAt st n → exec (.rvres d e) s = .next (s.trap b k st 0x0001)) ∧
       (∀ idx, n ≤ 10 ∨ n = 14 → B.heldAt st n < 8 → B.turn k n = true → B.freeRv n = some idx →
         ∃ t, exec (.rvres d e) s = .next t ∧ t.mem = s.mem ∧ t.strand? b k = some (st.wx d (BitVec.ofNat 64 idx)).next ∧
           (t.bent b).holdsRv st n idx = true ∧ ∀ m, m ≠ 32 * n + idx → NMap.get? (t.bent b).rv m = NMap.get? B.rv m) ∧
       (n ≤ 10 ∨ n = 14 → B.heldAt st n < 8 → B.freeRv n = none →
         ∃ t, exec (.rvres d e) s = .next t ∧ t.mem = s.mem ∧ t.strand? b k = some { st with state := .waiting (.rendezvous n) })) ∧
     (s.Issues { rx := [a] } b k st →
       (¬(n ≤ 10 ∨ n = 14) ∨ 32 ≤ i ∨ B.holdsRv st n i = false → exec (.rvrel a e) s = .next (s.trap b k st 0x0001)) ∧
       (n ≤ 10 ∨ n = 14 → i < 32 → B.holdsRv st n i = true →
         (s.operandOut b st n i = false →
           ∃ t, exec (.rvrel a e) s = .next t ∧ t.mem = s.mem ∧ t.strand? b k = some st.next ∧
             NMap.get? (t.bent b).rv (32 * n + i) = none ∧
             ∀ m, m ≠ 32 * n + i → NMap.get? (t.bent b).rv m = NMap.get? B.rv m) ∧
         (s.operandOut b st n i = true →
           exec (.rvrel a e) s = .next (s.setStrand b k { st with state := .waiting (.operandsArrived n i) }))))) ∧
  (∀ (s : State) (d : XReg) (f : FReg) (n : BitVec 4) (b k : Nat) (st : Strand) (v : SinkSlot),
     let B := s.bent b
     let m := n.toNat
     let empty (t : State) : Prop := t.mem = s.mem ∧ NMap.get? (t.bent b).sinks m = none ∧
       ∀ j, j ≠ m → NMap.get? (t.bent b).sinks j = NMap.get? B.sinks j
     (s.Issues { wx := [d] } b k st → NMap.get? B.sinks m = some v → B.turn k (32 + m) = true →
       ∃ t, exec (.sinkX d n) s = .next t ∧ empty t ∧
         t.strand? b k = some (st.wxp d (BitVec.ofNat 64 (leNat v.bytes)) v.poison).next) ∧
     (s.Issues { wf := [f] } b k st → NMap.get? B.sinks m = some v → B.turn k (32 + m) = true →
       (∀ r, v.result = some r → ∃ t, exec (.sinkF f n) s = .next t ∧ empty t ∧ t.strand? b k = some (st.wfp f r v.poison).next) ∧
       (v.fmt = 6 → v.tag = true → v.result = some
         (FVal.mk' (BitVec.ofNat 32 (leNat (v.bytes.take 4)))
           (if (val32 (BitVec.ofNat 32 (leNat (v.bytes.take 4)))).isFinite then min v.count 24 else 0))) ∧
       (v.fmt.toNat < 6 ∨ 13 < v.fmt.toNat →
         ∃ t : State, exec (.sinkF f n) s = .next (t.trap b k st 0x0001) ∧ t.mem = s.mem ∧ (t.bent b).sinks = B.sinks)) ∧
     (NMap.get? B.sinks m = none →
       (s.Issues { wx := [d] } b k st → ∃ t, exec (.sinkX d n) s = .next t ∧ t.mem = s.mem ∧
         t.strand? b k = some { st with state := .waiting (.sink m) }) ∧
       (s.Issues { wf := [f] } b k st → ∃ t, exec (.sinkF f n) s = .next t ∧ t.mem = s.mem ∧
         t.strand? b k = some { st with state := .waiting (.sink m) })))

/-- `walk` and `walkb` of a strand with nothing in flight, with a class, an aligned descriptor in own scratchpad and an aligned
completion word: a descriptor that fails a check traps, one that passes joins the queue of its stream's engine, with a ticket that
no live walk of the bent has; `wlst` sets the rows of a live bounded walk, never below what it has begun, and returns 1, returns 0
for a walk that has ended, and traps for a ticket that was never given. (Rests on R173, R174, R178.) Where the spec leaves a point
open this is the choice of the model: log entries 8 and 18. -/
def Obligations.WalkCommands : Prop :=
  ∀ (s : State) (d a x : XReg) (cl : BitVec 3) (b k : Nat) (st : Strand), s.Issues { rx := [a, x], wx := [d] } b k st → st.ops = [] →
    let L := s.launch st.lid
    let B := s.bent b
    let W := st.rx x
    (∀ q ∈ [(Instr.walk d a x cl, false), (.walkb d a x cl, true)], ∀ off o bd, cl ≠ 0 → (st.rx a).toNat % 64 = 0 → W.toNat % 8 = 0 →
      (∃ w, spaceOf b W = .own w ∨ spaceOf b W = .dev w) → spaceOf b (st.rx a) = .own off → L.spadMap off = some (o, bd) →
      let r := s.read (spadAddr b o) 64
      let D := WalkDesc.of r.1
      (r.2 = true → exec q.1 s = .next (s.trap b k st 0x0031)) ∧
      (∀ e, r.2 = false → s.walkCheck b st D q.2 = some e → exec q.1 s = .next (s.trap b k st e)) ∧
      (r.2 = false → s.walkCheck b st D q.2 = none → (NMap.getD B.walks (L.engineOf D.stream) []).length < 32 →
        ∃ (t : State) (w : Walk), exec q.1 s = .next t ∧ t.mem = s.mem ∧ t.strand? b k = some (st.wx d (w.ticket.zeroExtend 64)).next ∧
          NMap.getD (t.bent b).walks (L.engineOf D.stream) [] = NMap.getD B.walks (L.engineOf D.stream) [] ++ [w] ∧
          w.src = D.src ∧ w.stride = D.stride ∧ w.rowLen = D.rowLen ∧ w.rows = D.rows ∧ w.hdr = D.hdr ∧ w.argx = D.argx ∧
          w.copy = (D.mode == 1) ∧ w.bounded = q.2 ∧ w.cntr = D.cntr ∧ w.word = W ∧ w.round = st.round ∧ w.row = 0 ∧ w.off = 0 ∧
          w.begun = false ∧ w.ended = none ∧
          (((NMap.vals B.walks).flatMap (fun l => l)).length < 65535 → ∀ l ∈ NMap.vals B.walks, ∀ v ∈ l, v.ticket ≠ w.ticket))) ∧
    (let T := (st.rx a).extractLsb' 0 16
     let hit := (NMap.vals B.walks).any (fun l => l.any (fun w => w.live T))
     ((st.rx a).toNat ≥ 65536 ∨ B.tickets.contains T = false → exec (.wlst d a x) s = .next (s.trap b k st 0x0001)) ∧
     ((st.rx a).toNat < 65536 → B.tickets.contains T = true → hit = false →
       exec (.wlst d a x) s = .next (s.setStrand b k (st.wx d 0).next)) ∧
     ((st.rx a).toNat < 65536 → B.tickets.contains T = true → hit = true →
       ∃ t, exec (.wlst d a x) s = .next t ∧ t.mem = s.mem ∧ t.strand? b k = some (st.wx d 1).next ∧
         ∀ e, NMap.getD (t.bent b).walks e [] = (NMap.getD B.walks e []).map (fun w =>
           if w.live T then { w with rows := max W.toNat w.emitted } else w)))

/-- The steps of the walk at the head of an engine: it begins, reserving eight places at another bent that it reads; its counter
read sets the rows it may send; its next cell enters the Mortise with the bytes of the rows and the marks of a row's and of the
walk's end, a copy writes its next bytes and no others; an ended walk leaves once its completion word stands, with the rows sent
and its status, and no other byte has changed. (Rests on R174 to R178, R190, R294, R315.) A walk parked by a fault goes on under
its token with RESUME = 1; with RESUME = 0 a copy ends with status 3 and a stream sends poisoned cells; the token is free again.
(Rests on R176, R337.) Where the spec leaves a point open this is the choice of the model: log entries 3 and 29. -/
def Obligations.WalkStepsAndFaults : Prop :=
  (∀ (s : State) (b e : Nat) (w : Walk), s.walkHead b e = some w →
     (w.begun = false → w.cancelled = false → s.walkGate w = true → s.walkReady w = true → w.rows * w.rowLen ≠ 0 →
       (walkTarget b w = none →
         ∃ t v, exec (.walkBegin b e) s = .next t ∧ t.mem = s.mem ∧ t.walkHead b e = some v ∧ v.begun = true ∧ v.row = w.row) ∧
       (∀ c, walkTarget b w = some c → 8 ≤ (s.bent c).pool →
         ∃ t v, exec (.walkBegin b e) s = .next t ∧ t.mem = s.mem ∧ t.walkHead b e = some v ∧ v.begun = true ∧ v.reserved = some c ∧
           (t.bent c).pool = (s.bent c).pool - 8)) ∧
     (w.begun = true → w.bounded = true → w.ended = none → s.walkGate w = true → ∀ loc img, s.walkLoc b e w w.cntr = .ok loc img →
       ∃ t v, exec (.walkbCounterRead b e) s = .next t ∧ t.mem = s.mem ∧ t.walkHead b e = some v ∧ v.allowed = s.readNat loc 8) ∧
     (∀ p bytes pois img, w.begun = true → w.ended = none → w.parkedTok = none → s.walkGate w = true → w.piece = some p →
       s.walkRead b e w p.addrs true (.ok [] false none) = .ok bytes pois img →
       (w.copy = false → w.poisonRest = false → w.dmask = w.hdr.extractLsb' 0 16 → (s.bent b).walkRoom e w = true →
         ∃ t v c, exec (.walkCellEmit b e) s = .next t ∧ t.mem = s.mem ∧ t.walkHead b e = some v ∧ v.row = p.after.row ∧
           v.off = p.after.off ∧ c.payload = padTo 256 0 bytes ∧ c.poison = pois ∧ c.eor = p.eor ∧ c.eot = p.eot ∧
           c.len = BitVec.ofNat 9 p.addrs.length ∧ c.dest = w.dmask ∧ c.round = w.round ∧
           c.seq = (s.bent b).streamNext w.stream ∧ (t.bent b).streamNext w.stream = (s.bent b).streamNext w.stream + 1 ∧
           (popMask w.dmask = 1 → (t.bent b).queued (8 + e) (firstEgress w.dmask) w.cls.toNat =
             (s.bent b).queued (8 + e) (firstEgress w.dmask) w.cls.toNat ++ [c]) ∧
           (popMask w.dmask ≠ 1 → ((t.bent b).mcast (8 + e)).map (fun q => q.cell) =
             ((s.bent b).mcast (8 + e)).map (fun q => q.cell) ++ [c])) ∧
       (w.copy = true → pois = false →
         (s.launch w.lid).pubAfter.contains w.bt = false ∨ w.frontWhich = (NMap.getD (s.launch w.lid).bufs w.bt default).swap → s.Ordered → (s.launch w.lid).det = false →
         let to_ := s.copyLoc b w (p.first.1 * w.rowLen + p.first.2)
         ∃ t v, exec (.walkCellEmit b e) s = .next t ∧ t.walkHead b e = some v ∧ v.row = p.after.row ∧ v.off = p.after.off ∧
           (∀ y, y < to_ ∨ to_ + bytes.length ≤ y → t.byte y = s.byte y) ∧
           ∀ j, j < bytes.length → t.byte (to_ + j) = bytes.getD j 0)) ∧
     (∀ q loc img, (NMap.getD (s.bent b).walks e []).all (fun v => !v.cancelled) = true → w.ended = some q → w.parkedTok = none →
       w.noWord = false → s.wordLoc b e w = .ok loc img → s.Ordered → (s.launch w.lid).det = false →
       ∃ t, exec (.walkCompletion b e) s = .next t ∧
         NMap.getD (t.bent b).walks e [] = (NMap.getD (s.bent b).walks e []).drop 1 ∧
         t.readNat loc 8 = w.row % 2 ^ 32 * 256 + q.toNat ∧
         ∀ y, y < loc ∨ loc + 8 ≤ y → t.byte y = s.byte y)) ∧
  (∀ (s : State) (p : Nat) (token : BitVec 32) (b e : Nat) (w : Walk), s.parkedWalk p token = some (b, e, w) → s.walkHead b e = some w →
     (∃ t v, exec (.faultackResume p token) s = .next t ∧ t.mem = s.mem ∧ t.walkHead b e = some v ∧ v.parkedTok = none ∧
       v.ended = w.ended ∧ v.row = w.row ∧ v.poisonRest = w.poisonRest ∧ (t.part p).parked.any (fun q => q.1 == token) = false) ∧
     (w.ended = none →
       ∃ t v, exec (.faultackEnd p token) s = .next t ∧ t.mem = s.mem ∧ t.walkHead b e = some v ∧ v.parkedTok = none ∧
         (t.part p).parked.any (fun q => q.1 == token) = false ∧
         if w.copy then v.ended = some 3 else v.ended = none ∧ v.poisonRest = true))

/-- `mx.gang` sets the gang of every tenon that its mask names, once they are idle, and waits until then; a descriptor with a reserved
bit or a position beyond its size traps. `sx.cfg` sets the strand's word, and traps for a reserved bit. `iq.push` sends its records,
with the strand's round in each, to the home of the queue and counts them in INFL; it traps with 0x0006 for an undeclared queue,
with 0x0001 for a reserved bit or an address outside own scratchpad, with 0x0002 where the records cross a 256-byte block, with
0x0004 in the second range of a buffer, and waits while its queue has no room. `iq.test` returns the queue's state, in flight and
last round. (Rests on R22, R179 to R182, R297, R299, R302, R329.) `rmark` of a strand with nothing outstanding, room for every
marker and its round within 32,768 of every other's completes: the round is then one later, with no cells counted. A strand that
has sent no cell in the round sends a marker with number 0 from each ingress of strands to each egress of its mask; one that has
sent n cells on one pair, and marks with mask 0, sends a marker with number n there, and one with number 0 from every other ingress
of strands to that egress. A mask of more than 16 bits traps. (Rests on
R172, R272, R368.) Where the spec leaves a point open this is the choice of the model: log entries 16, 23, 30 and 34. -/
def Obligations.EngineCommandsAndMarkers : Prop :=
  (∀ (s : State) (a d : XReg) (h : BitVec 8) (b k : Nat) (st : Strand),
     let L := s.launch st.lid
     let B := s.bent b
     let waits (i : Instr) : Prop := ∃ w, exec i s = .next (s.setStrand b k { st with state := .waiting w })
     (s.Issues { rx := [a] } b k st →
       let x := (st.rx a).toNat
       let size := x / 2 ^ 16 % 8
       let pos := x / 2 ^ 12 % 8
       let mask := x / 2 ^ 8 % 16
       let named := if mask = 0 then 15 else mask
       (2 ^ 19 ≤ x ∨ x / 2 ^ 15 % 2 = 1 ∨ size < pos → exec (.mxGang a) s = .next (s.trap b k st 0x0001)) ∧
       (x < 2 ^ 19 → x / 2 ^ 15 % 2 = 0 → pos ≤ size →
         (B.gangBusy named = true → waits (.mxGang a)) ∧
         (B.gangBusy named = false →
           ∃ t, exec (.mxGang a) s = .next t ∧ t.mem = s.mem ∧ t.strand? b k = some st.next ∧
             ∀ e, e < 4 → (NMap.getD (t.bent b).mx e {}).gang =
               if named / 2 ^ e % 2 = 1 then (if mask = 0 then none else some (x % 256, size + 1, pos))
               else (NMap.getD B.mx e {}).gang)) ∧
       (2 ^ 10 ≤ x ∨ x / 8 % 2 = 1 → exec (.sxCfg a) s = .next (s.trap b k st 0x0001)) ∧
       (x < 2 ^ 10 → x / 8 % 2 = 0 →
         exec (.sxCfg a) s = .next (s.setStrand b k ({ st with sxcfg := (st.rx a).setWidth 32 }).next)) ∧
       (st.ops = [] →
         (NMap.get? L.queues h.toNat = none → exec (.iqPush a h) s = .next (s.trap b k st 0x0006)) ∧
         ∀ Q, NMap.get? L.queues h.toNat = some Q →
           (x / 8 % 4 ≠ 0 → exec (.iqPush a h) s = .next (s.trap b k st 0x0001)) ∧
           (x / 8 % 4 = 0 → (∀ off, spaceOf b (st.rx a &&& ~~~31) ≠ .own off) →
             exec (.iqPush a h) s = .next (s.trap b k st 0x0001)) ∧
           (∀ off, x / 8 % 4 = 0 → spaceOf b (st.rx a &&& ~~~31) = .own off →
             (256 < off % 256 + 32 * (x % 8 + 1) → exec (.iqPush a h) s = .next (s.trap b k st 0x0002)) ∧
             (off % 256 + 32 * (x % 8 + 1) ≤ 256 →
               (L.spadMap off = none → exec (.iqPush a h) s = .next (s.trap b k st 0x0004)) ∧
               ∀ o bd, L.spadMap off = some (o, bd) →
                 let home := L.region.getD (h.toNat % max L.region.length 1) 0
                 let e := if home = b then 9 else 13
                 let n := (tierClass L.tier).toNat
                 let r := s.read (spadAddr b o) (32 * (x % 8 + 1))
                 (B.voqRoom (off / 256 % 8) e n = false → waits (.iqPush a h)) ∧
                 (B.voqRoom (off / 256 % 8) e n = true →
                   ∃ t v c Q', exec (.iqPush a h) s = .next t ∧ t.mem = s.mem ∧ t.strand? b k = some v ∧ v.pc = st.pc + 4 ∧
                     v.SameRegisters st ∧ (t.bent b).queued (off / 256 % 8) e n = B.queued (off / 256 % 8) e n ++ [c] ∧
                     c.kind = 4 ∧ c.code = 1 ∧ c.iqrec = true ∧ c.fmt = 14 ∧ c.arg = BitVec.ofNat 32 h.toNat ∧
                     c.len = BitVec.ofNat 9 (32 * (x % 8 + 1)) ∧ c.round = st.round ∧
                     c.payload = padTo 256 0 (stampRecords st.round r.1) ∧ c.poison = r.2 ∧
                     NMap.get? (t.launch st.lid).queues h.toNat = some Q' ∧ Q'.infl = Q.infl + (x % 8 + 1)))))) ∧
     (s.Issues { wx := [d] } b k st → st.ops = [] →
       (NMap.get? L.queues h.toNat = none → exec (.iqTest d h) s = .next (s.trap b k st 0x0006)) ∧
       (∀ Q, NMap.get? L.queues h.toNat = some Q →
         let last := Q.last.getD 0
         let done := s.roundComplete st.lid h.toNat last
         ∃ t, exec (.iqTest d h) s = .next t ∧ t.mem = s.mem ∧ t.strand? b k = some (st.wx d (BitVec.ofNat 64
           (last.toNat * 2 ^ 40 + min Q.infl (2 ^ 32 - 1) * 2 ^ 8 + (if done then 2 else 0) +
             (if done && Q.infl == 0 then 1 else 0)))).next))) ∧
  (∀ (s : State) (a : XReg) (b k : Nat) (st : Strand), s.Issues { rx := [a] } b k st →
     let m := st.rx a
     let B := s.bent b
     let ix := B.index
     let marks (t : State) (i e n : Nat) : Prop := ∃ c : Cell, (t.bent b).queued i e 0 = B.queued i e 0 ++ [c] ∧ c.rmk = true ∧
       c.arg = BitVec.ofNat 32 n ∧ c.dest = oneHot e ∧ c.round = st.round
     (65536 ≤ m.toNat → exec (.rmark a) s = .next (s.trap b k st 0x0001)) ∧
     (m.toNat < 65536 → s.walkSending st = false → st.ops = [] → (∀ r ∈ s.rounds st.lid, (st.round + 1 - r).toNat < 32768) →
       s.cleared b k st (markRoom (s.regionOf st.lid) (st.markPairs ix (m.setWidth 16))) = true →
       ∃ t v, exec (.rmark a) s = .next t ∧ t.mem = s.mem ∧ t.strand? b k = some v ∧ v.SameRegisters st ∧ v.pc = st.pc + 4 ∧
         v.round = st.round + 1 ∧ v.roundCells = [] ∧
         (st.marked = false → (s.regionOf st.lid).getD ix 0 = b →
           (∀ n, st.roundCells = [] → m = BitVec.ofNat 64 (2 ^ n) → n < 16 → ∀ i ∈ strandIngresses, marks t i n 0) ∧
           (∀ i e n, i < 16 → e < 16 → st.roundCells = [(pairKey ix i e, n)] → m = 0 →
             marks t i e n ∧ ∀ j ∈ strandIngresses, j ≠ i → marks t j e 0))))

/-- `chopen` opens a request channel with places of its target's pool, or waits for them, and closes one that is idle, giving them
back; it traps for a malformed descriptor, for a data channel, for another strand's channel, and with 0x0006 for one that is not
open. `rld` and `rst` check the channel, its owner and the offset in order; on a channel with a free place they send a request and
hold an entry, on another they wait; a request served at its target reads there, or writes its 8 bytes and no others; the response
of a read puts its data into the register and frees the entry. (Rests on R183, R184, R293, R329.) `chsend` adds an element read
from own scratchpad to a channel with a free place, once everything the strand issued is performed, and waits for a place;
`chrecv` takes the oldest element and stores it, changes no other byte, and waits at an empty channel; both trap for an undeclared
or a request channel and for a misaligned, foreign or crossing place. (Rests on R185, R295, R371.) Where the spec leaves a point
open this is the choice of the model: log entries 3, 18 and 30. -/
def Obligations.Channels : Prop :=
  (∀ (s : State) (a d : XReg) (h : BitVec 8) (b k : Nat) (st : Strand),
     let L := s.launch st.lid
     let x := (st.rx a).toNat
     let n := x / 2 ^ 8 % 16
     let c := x % 256
     let traps (i : Instr) (e : BitVec 16) : Prop := exec i s = .next (s.trap b k st e)
     let waits (i : Instr) : Prop := ∃ w, exec i s = .next (s.setStrand b k { st with state := .waiting w })
     (s.Issues { rx := [a] } b k st →
       (2 ^ 12 ≤ x ∨ 8 < n ∨ c ∉ L.region → traps (.chopen a h) 0x0001) ∧
       (∀ slots w es, NMap.get? L.chans h.toNat = some (.data slots w es) → traps (.chopen a h) 0x0001) ∧
       (x < 2 ^ 12 → n ≤ 8 → c ∈ L.region →
         (NMap.get? L.chans h.toNat = none → n = 0 → traps (.chopen a h) 0x0006) ∧
         (NMap.get? L.chans h.toNat = none → n ≠ 0 →
           ((s.bent c).pool < n → waits (.chopen a h)) ∧
           (n ≤ (s.bent c).pool →
             ∃ t, exec (.chopen a h) s = .next t ∧ t.mem = s.mem ∧ t.strand? b k = some st.next ∧
               (t.bent c).pool = (s.bent c).pool - n ∧
               NMap.get? (t.launch st.lid).chans h.toNat = some (.request st.ownerBent st.ownerSlot c n 0))) ∧
         (∀ ob os t' n' used, NMap.get? L.chans h.toNat = some (.request ob os t' n' used) →
           (n ≠ 0 ∨ ob ≠ st.ownerBent ∨ os ≠ st.ownerSlot → traps (.chopen a h) 0x0001) ∧
           (n = 0 → ob = st.ownerBent → os = st.ownerSlot → used ≠ 0 → waits (.chopen a h)) ∧
           (n = 0 → ob = st.ownerBent → os = st.ownerSlot → used = 0 →
             ∃ t, exec (.chopen a h) s = .next t ∧ t.mem = s.mem ∧ t.strand? b k = some st.next ∧
               (t.bent t').pool = (s.bent t').pool + n' ∧ NMap.get? (t.launch st.lid).chans h.toNat = none)))) ∧
     (s.Issues { rx := [a], wx := [d], dx := [d] } b k st → st.ops = [] → ∀ i ∈ [Instr.rld d a h, .rst d a h],
       (NMap.get? L.chans h.toNat = none → traps i 0x0006) ∧
       (∀ slots w es, NMap.get? L.chans h.toNat = some (.data slots w es) → traps i 0x0001) ∧
       (∀ ob os t n used, NMap.get? L.chans h.toNat = some (.request ob os t n used) →
         (ob ≠ st.ownerBent ∨ os ≠ st.ownerSlot ∨ 2 ^ 22 ≤ x → traps i 0x0001) ∧
         (ob = st.ownerBent → os = st.ownerSlot → x < 2 ^ 22 →
           (x % 8 ≠ 0 → traps i 0x0002) ∧
           (x % 8 = 0 → (L.spadMap x = none → traps i 0x0004) ∧ (L.spadMap x ≠ none → n ≤ used → waits i))))) ∧
     (∀ c n used o bd, NMap.get? L.chans h.toNat = some (.request st.ownerBent st.ownerSlot c n used) →
       st.ops = [] → x < 2 ^ 22 → x % 8 = 0 → L.spadMap x = some (o, bd) → used < n →
       let went (i : Instr) (kind : MemKind) (dest : Dest) (write : Bool) (data : List Byte) (pois : Bool) : Prop :=
         ∃ (t : State) (v : Strand) (e : MemOp) (p : Packet), exec i s = .next t ∧ t.mem = s.mem ∧ t.strand? b k = some v ∧
           v.SameRegisters st ∧ v.pc = st.pc + 4 ∧ v.ops = [e] ∧ e.kind = kind ∧ e.dest = dest ∧ e.loc = spadAddr c o ∧
           t.packets = s.packets ++ [p] ∧ p.target = c ∧ p.off = spadAddr c o ∧ p.write = write ∧ p.data = data ∧ p.poison = pois ∧
           p.response = false ∧ p.opId = e.id ∧
           NMap.get? (t.launch st.lid).chans h.toNat = some (.request st.ownerBent st.ownerSlot c n (used + 1))
       (s.Issues { rx := [a], wx := [d] } b k st → went (.rld d a h) .rld (.x d .d) false [] false) ∧
       (s.Issues { rx := [a], dx := [d] } b k st → went (.rst d a h) .rst .none true (leBytes 8 (st.rx d).toNat) (st.poisonX d))) ∧
     (∀ (j : Nat) (p : Packet), s.packets[j]? = some p → s.packetFirst j p = true →
       (p.response = false → p.write = false → ∃ t q, exec (.remoteRequest j) s = .next t ∧ t.mem = s.mem ∧ t.packets[j]? = some q ∧
         q.response = true ∧ (q.data, q.poison) = s.read p.off 8) ∧
       (p.response = false → p.write = true → p.data.length = 8 → s.Ordered → (∀ M ∈ NMap.vals s.launches, M.det = false) →
         ∃ t q, exec (.remoteRequest j) s = .next t ∧ t.packets[j]? = some q ∧ q.response = true ∧
           (∀ y, y < p.off ∨ p.off + 8 ≤ y → t.byte y = s.byte y) ∧ ∀ i, i < 8 → t.byte (p.off + i) = p.data.getD i 0) ∧
       (∀ o r, p.response = true → p.write = false → p.data.length = 8 → p.lid = st.lid → p.bent = st.ownerBent → p.slot = st.ownerSlot →
         s.findOwner st.lid st.ownerBent st.ownerSlot = some (b, k) → s.strand? b k = some st → st.ops = [o] → o.id = p.opId →
         o.dest = .x r .d → o.preTrap = false →
         ∃ t v, exec (.remoteResponse j) s = .next t ∧ t.mem = s.mem ∧ t.packets = s.packets.eraseIdx j ∧ t.strand? b k = some v ∧
           v.ops = [] ∧ (r ≠ 0 → v.rx r = BitVec.ofNat 64 (leNat p.data) ∧ v.poisonX r = p.poison)))) ∧
  (∀ (s : State) (a : XReg) (h : BitVec 8) (b k : Nat) (st : Strand), s.Issues { rx := [a] } b k st → st.ops = [] →
     let L := s.launch st.lid
     let traps (e : BitVec 16) : Prop :=
       exec (.chsend a h) s = .next (s.trap b k st e) ∧ exec (.chrecv a h) s = .next (s.trap b k st e)
     let waits (i : Instr) : Prop := ∃ w, exec i s = .next (s.setStrand b k { st with state := .waiting w })
     (NMap.get? L.chans h.toNat = none → traps 0x0006) ∧
     (∀ ob os t n used, NMap.get? L.chans h.toNat = some (.request ob os t n used) → traps 0x0001) ∧
     (∀ slots n es, NMap.get? L.chans h.toNat = some (.data slots n es) →
       ((st.rx a).toNat % 32 ≠ 0 → traps 0x0002) ∧
       ((st.rx a).toNat % 32 = 0 →
         ((∀ off, spaceOf b (st.rx a) ≠ .own off) → traps 0x0001) ∧
         (∀ off, spaceOf b (st.rx a) = .own off →
           (256 < off % 256 + n → traps 0x0001) ∧
           (off % 256 + n ≤ 256 →
             (L.spadMap off = none → traps 0x0004) ∧
             (∀ o bd, L.spadMap off = some (o, bd) →
               (s.cellsOut st = false → slots ≤ es.length → waits (.chsend a h)) ∧
               (s.cellsOut st = false → es.length < slots →
                 ∃ t e, exec (.chsend a h) s = .next t ∧ t.mem = s.mem ∧ t.strand? b k = some st.next ∧
                   NMap.get? (t.launch st.lid).chans h.toNat = some (.data slots n (es ++ [e])) ∧
                   (e.bytes, e.poison) = s.read (spadAddr b o) n) ∧
               (es = [] → waits (.chrecv a h)) ∧
               (∀ e rest, es = e :: rest → s.Ordered → L.det = false →
                 ∃ t, exec (.chrecv a h) s = .next t ∧ t.strand? b k = some st.next ∧
                   NMap.get? (t.launch st.lid).chans h.toNat = some (.data slots n rest) ∧
                   (∀ y, y < spadAddr b o ∨ spadAddr b o + e.bytes.length ≤ y → t.byte y = s.byte y) ∧
                   ∀ i, i < e.bytes.length → t.byte (spadAddr b o + i) = e.bytes.getD i 0)))))))

/-- `rankmap` sets a buffer's map from bytes that make one, and traps with 0x0001 for bytes that make none; `scarf` starts the
collective of a sound descriptor at step 0 with its strand's contribution, cut into chunks, and sends the first messages;
`scarf.wait` waits for its end and returns its status; all three trap with 0x0006 for an undeclared buffer. (Rests on R191 to R193,
R355, R356, R358, R359, R389.) Over links that have not failed: a message that the step awaits is kept and acknowledged, a repeated
one is acknowledged again, and one that comes before an earlier step's of the same rank is not taken; an acknowledgement is noted; unacknowledged messages go again, as they were, after 10 us; a step that is
done makes way for the next with its timer started anew; after the last the result stands in the shadow, which is published, with
status 1; with DET it does not depend on an order; a timeout ends with status 2 and aborts to every other rank, also where a message
or an abort comes after it; and an abort received ends with status 2, or 3 from a switch. (Rests on R268, R354, R357, R360 to R364, R390, R391, R397.) Where the spec leaves
a point open this is the choice of the model: log entries 3, 7, 11, 25 and 41. -/
def Obligations.ScarfCollectives : Prop :=
  (∀ (s : State) (a d : XReg) (h : BitVec 8) (b k : Nat) (st : Strand) (B : Buffer),
     let L := s.launch st.lid
     let A := st.rx a
     let bt := h.toNat
     let at_ (l : List (Nat × Option Nat)) : List Byte := l.map (s.byteVia L.part)
     (s.Issues { rx := [a] } b k st → st.ops = [] → NMap.get? L.bufs bt = none →
       exec (.scarf a h) s = .next (s.trap b k st 0x0006) ∧ exec (.rankmap a h) s = .next (s.trap b k st 0x0006)) ∧
     (∀ ls is, s.Issues { rx := [a] } b k st → st.ops = [] → NMap.get? L.bufs bt = some B →
       ownOrDev b A 64 = true → NMap.get? L.scarfs bt = none → s.gather b k st 16 A = .ok ls →
       (∀ y ∈ ls ++ is, s.poisonedAt y.1 1 = false) →
       (mapHeaderOk (at_ ls) = false → exec (.rankmap a h) s = .next (s.trap b k st 0x0001)) ∧
       (mapHeaderOk (at_ ls) = true → s.gather b k st (4 * (mapHeader (at_ ls)).1) (A + 16) = .ok is →
         (s.mapOf (at_ ls) (at_ is) = none → exec (.rankmap a h) s = .next (s.trap b k st 0x0001)) ∧
         ∀ m, s.mapOf (at_ ls) (at_ is) = some m →
           ∃ t, exec (.rankmap a h) s = .next t ∧ t.mem = s.mem ∧ t.strand? b k = some st.next ∧
             NMap.get? (t.launch st.lid).bufs bt = some { B with rankMap := some m })) ∧
     (∀ ls ts cs rows m, s.Issues { rx := [a] } b k st → st.ops = [] → s.cellsOut st = false →
       NMap.get? L.bufs bt = some B → B.shadow = true → ownOrDev b A 64 = true → NMap.get? L.scarfs bt = none →
       s.gather b k st 64 A = .ok ls → (∀ y ∈ ls ++ ts ++ cs, s.poisonedAt y.1 1 = false) →
       let e := ScarfDesc.of (at_ ls)
       let count := if e.kind = 8 then 0 else e.count
       let w := dtypeBytes e.dtype
       let tab := if e.steptab = 0 then 0 else scarfSteps e.kind m.1
       B.rankMap = some m →
       (e.bad B m = true → exec (.scarf a h) s = .next (s.trap b k st 0x0001)) ∧
       (e.bad B m = false → s.gather b k st (32 * tab) e.steptab = .ok ts → scarfRows tab (at_ ts) = some rows →
         s.gather b k st (count * w) e.src = .ok cs → 0 < scarfSteps e.kind m.2.2.2.length →
         ((NMap.vals s.launches).flatMap (fun M => M.scarfs.filter (fun c => c.2.die == dieOf b))).length < 16 →
         ∃ t C, exec (.scarf a h) s = .next t ∧ t.mem = s.mem ∧ t.strand? b k = some st.next ∧
           NMap.get? (t.launch st.lid).scarfs bt = some C ∧ C.step = 0 ∧ C.kind = e.kind ∧ C.dtype = e.dtype ∧ C.op = e.op ∧
           C.count = e.count ∧ C.collid = e.collid ∧ C.ids = m.2.2.2 ∧ C.rank = m.2.1 ∧ C.gen = m.2.2.1 ∧ C.rows = rows ∧
           C.timer = s.dtime ∧
           (e.kind ≠ 8 → ∀ j i, j < C.nChunks → i < C.chunkLen j →
             (C.part C.rank j).getD i 0 = leNat (((at_ cs).drop ((C.chunkAt j + i) * w)).take w)) ∧
           ((∀ q, (s.link (portTo q)).failed = false) →
             t.toPeers = s.toPeers ++ (C.sendsTo 0).map (fun q => PeerMsg.msg C.collid (C.device q) (C.message 0))))) ∧
     (s.Issues { wx := [d] } b k st →
       (NMap.get? L.bufs bt = none → exec (.scarfWait d h) s = .next (s.trap b k st 0x0006)) ∧
       (NMap.get? L.bufs bt = some B →
         (NMap.has L.scarfs bt = true → exec (.scarfWait d h) s = .next (s.setStrand b k { st with state := .waiting (.scarfEnded bt) })) ∧
         (NMap.has L.scarfs bt = false → ∃ t, exec (.scarfWait d h) s = .next t ∧ t.mem = s.mem ∧
           t.strand? b k = some (st.wx d B.scarfStatus).next)))) ∧
  (∀ (s : State) (l bt : Nat) (C : Scarf), NMap.get? (s.launch l).scarfs bt = some C → (∀ q, (s.link (portTo q)).failed = false) →
     let goes (i : Instr) (C' : Scarf) (msgs : List PeerMsg) : Prop :=
       ∃ t, exec i s = .next t ∧ t.mem = s.mem ∧ NMap.get? (t.launch l).scarfs bt = some C' ∧ t.toPeers = s.toPeers ++ msgs
     let ends (i : Instr) (status step rank : Nat) (msgs : List PeerMsg) : Prop :=
       ∃ t, exec i s = .next t ∧ NMap.get? (t.launch l).scarfs bt = none ∧ t.toPeers = s.toPeers ++ msgs ∧
         (NMap.getD (t.launch l).bufs bt default).scarfStatus =
           BitVec.ofNat 64 (rank % 2 ^ 16 * 2 ^ 16 + step % 2 ^ 8 * 2 ^ 8 + status)
     let aborts (q : Nat) : List PeerMsg := ((List.range C.p).filter (fun r => r != C.rank)).map (fun r =>
       PeerMsg.abort C.collid C.gen (C.device r) C.rank C.step q false)
     (∀ m : ScarfMsg, m.collid = C.collid → m.gen = C.gen → C.expired s.dtime = false →
       (m.ack = true → (∃ x ∈ C.sent, x.1 = (m.step, m.rank)) → (m.step, m.rank) ∉ C.acked →
         goes (.scarfMessage l bt m) { C with acked := C.acked ++ [(m.step, m.rank)] } []) ∧
       (m.ack = false → (∃ t, t < m.step ∧ m.rank ∈ C.awaits t ∧ (t, m.rank) ∉ C.arrived) → exec (.scarfMessage l bt m) s = .next s) ∧
       (m.ack = false → m.step < C.steps → m.rank ∈ C.awaits m.step → (∀ t, t < m.step → m.rank ∈ C.awaits t → (t, m.rank) ∈ C.arrived) →
         ¬(C.kind = 3 ∧ C.det = true ∧ m.parts = []) →
         let reply := PeerMsg.msg C.collid (C.device m.rank) { m with rank := C.rank, ack := true, parts := [] }
         ((m.step, m.rank) ∈ C.arrived → goes (.scarfMessage l bt m) C [reply]) ∧
         ((m.step, m.rank) ∉ C.arrived → C.carries m = true → goes (.scarfMessage l bt m) (C.take m) [reply] ∧
           (m.step, m.rank) ∈ (C.take m).arrived ∧
           ∀ x ∈ C.pieces m.step m.rank, ∃ y ∈ (C.take m).have_, y.1 = x.1 ∧ y.2.1 = x.2))) ∧
     (C.lastSend + 10000 ≤ s.dtime → C.step < C.steps →
       goes (.scarfResend l bt) { C with lastSend := s.dtime }
         ((C.sent.filter (fun x => x.1.1 == C.step && !C.acked.contains x.1)).map (fun x => .msg C.collid (C.device x.1.2) x.2))) ∧
     (C.step + 1 < C.steps → C.stepDone = true → (∀ r, C.rows[C.step]? = some r → r.1 = 0 ∧ r.2.1 = 0) →
       let n := C.step + 1
       ∃ C', goes (.scarfStepComplete l bt) C' ((C.sendsTo n).map (fun q => .msg C.collid (C.device q) (C'.message n))) ∧
         C'.step = n ∧ C'.timer = s.dtime + n * C.timeout / 16 ∧ C'.lastSend = s.dtime ∧
         C'.sent = C.sent ++ (C.sendsTo n).map (fun q => ((n, q), C'.message n))) ∧
     (C.steps ≤ C.step → (s.launch l).pubAfter.contains bt = false →
       ends (.scarfStepComplete l bt) 1 (C.steps - 1) 0xFFFF [] ∧
       (∀ B, C.kind ≠ 7 → NMap.get? (s.launch l).bufs bt = some B → B.shadow = true → B.spad = false → s.Ordered →
         (s.launch C.writer.lid).det = false →
         let bytes := (s.freshen (s.launch l) C C.unsent).resultBytes (s.nonce + 1)
         ∃ t B', exec (.scarfStepComplete l bt) s = .next t ∧ NMap.get? (t.launch l).bufs bt = some B' ∧ B'.swap = !B.swap ∧
           (∀ j, j < bytes.length → t.byte (backAddr l bt B'.swap j) = bytes.getD j 0) ∧
           ∀ y, y < backAddr l bt B'.swap 0 ∨ backAddr l bt B'.swap 0 + bytes.length ≤ y → t.byte y = s.byte y)) ∧
     (C.det = true → ∀ x y, C.result x = C.result y) ∧
     (∀ q, C.timer + C.timeout ≤ s.dtime → C.step < C.steps → C.waitsOn = some q →
       ends (.scarfStepTimeout l bt) 2 C.step q (aborts q) ∧
       (C.timer + C.timeout < s.dtime →
         (∀ m : ScarfMsg, m.collid = C.collid → m.gen = C.gen → ends (.scarfMessage l bt m) 2 C.step q (aborts q)) ∧
         ∀ step rank (x : AbortBy), ends (.scarfAbort l bt C.collid C.gen step rank x) 2 C.step q (aborts q))) ∧
     (∀ step rank (x : AbortBy), C.expired s.dtime = false →
       ends (.scarfAbort l bt C.collid C.gen step rank x) (if x.bySwitch then 3 else 2) step rank []))

/-- An element-wise op-word over registers: its operation applied to the lanes of its sources gives the lanes of its destination,
poisoned where a source is; a long-latency one leaves its destination and its place in the last-result file empty and holds the
result until it completes; one whose check fails freezes the routine. (Rests on R69, R70, R206 to R209.) Where the spec leaves a
point open this is the choice of the model: log entry 37. -/
def Obligations.VxElementwise : Prop :=
  ∀ (o : VFields) (s : State) (b tn r : Nat) (R : Routine), ∀ p ∈ elementForms o,
    let w := p.2.1
    let T := s.tenon b tn
    let row := w.row (p.2.2 (R.mode w.rtz)) T (fun _ => 0) 64
    let x : VReg :=
      { lanes := padTo 64 FVal.zero (ofElems w.ty row.els), full := true, poison := w.srcs.any (fun q => (T.reg q.1.toNat).poison) }
    s.OpIssues b tn r R w.srcs (some o.d) → (∀ c ∈ o.d :: w.srcs.map Prod.fst, isTile c.toNat = false) →
    (∀ f, R.checks = true → w.fail R [row] = some f → exec p.1 s = .next (s.vxFail b tn r R w.opc f)) ∧
    (R.checks = false ∨ w.fail R [row] = none →
      (w.long = false → ∃ u, exec p.1 s = .next u ∧ s.Wrote u b tn r o.d.toNat x R.next) ∧
      (w.long = true → ∃ u e, exec p.1 s = .next u ∧
        s.Wrote u b tn r o.d.toNat { T.reg o.d.toNat with full := false } R.next ∧
        e ∈ (u.tenon b tn).longs ∧ e.id = T.nextLong ∧ e.routine = r ∧ e.dst = o.d.toNat ∧ e.value = x ∧ e.elems = none ∧
        e.l0 = (o.d != 73) ∧ e.l1 = (o.d == 73)))

/-- An element-wise op-word with tile operands: tiles of other shapes or types fault; with a tile source and destination it acts
on every row, with a tile destination alone on the row of its write cursor, which moves on, and with a tile source alone on the
row of its read cursor, which moves on. The elements of every tile but the destination stay as they are, and so does every
register but a register destination; l0 and l1 change for a row alone. (Rests on R69, R204.) Where the spec leaves a point open
this is the choice of the model: log entry 37. -/
def Obligations.VxTileForms : Prop :=
  ∀ (o : VFields) (s : State) (b tn r : Nat) (R : Routine), ∀ p ∈ elementForms o,
    let w := p.2.1
    let T := s.tenon b tn
    let m := R.mode w.rtz
    let d := o.d.toNat
    let X := T.tile d
    let ts := tilesOf (d :: w.srcs.map (fun q => q.1.toNat))
    let at_ (row : Nat → Nat) (cols : Nat) : EwRow := w.row (p.2.2 m) T row cols
    let same (u : State) : Prop := u.mem = s.mem ∧ NMap.get? (u.tenon b tn).routines r = some R.next ∧
      (∀ c, isTile c = true → c ≠ d → ((u.tenon b tn).tile c).elems = (T.tile c).elems) ∧
      (∀ c, isTile c = false → c ≠ d → w.form d = .whole ∨ c ≠ 72 ∧ c ≠ 73 → (u.tenon b tn).reg c = T.reg c)
    s.OpIssues b tn r R w.srcs (some o.d) →
    (w.tilesOk T ts = false → exec p.1 s = .next (s.vxEnd b tn r R 0x0001)) ∧
    (w.tilesOk T ts = true →
      (w.form d = .whole →
        let rows := (List.range X.rows).map (fun i => at_ (fun _ => i) X.cols)
        R.checks = false ∨ w.fail R rows = none →
        ∃ u, exec p.1 s = .next u ∧ same u ∧ (u.tenon b tn).full d = !w.long ∧ ((u.tenon b tn).tile d).live = true ∧
          (w.long = false → ((u.tenon b tn).tile d).elems = X.putRows m 0 rows) ∧
          (w.long = true → ((u.tenon b tn).tile d).elems = X.elems ∧
            ∃ e ∈ (u.tenon b tn).longs, e.dst = d ∧ e.elems = some (X.putRows m 0 rows))) ∧
      (w.form d = .rowWrite →
        let row := at_ (fun _ => X.wcur) X.cols
        R.checks = false ∨ w.fail R [row] = none →
        ∃ u, exec p.1 s = .next u ∧ same u ∧ (u.tenon b tn).full d = !w.long ∧
          ((u.tenon b tn).tile d).wcur = (X.wcur + 1) % max X.rows 1 ∧
          (w.long = false → ((u.tenon b tn).tile d).elems =
            X.putRow X.wcur ((ofElems .f32 row.els).map (tileWrite X.fmt m)))) ∧
      (w.form d = .rowRead →
        let row := at_ (fun c => (T.tile c).rcur) 64
        R.checks = false ∨ w.fail R [row] = none →
        ∃ u, exec p.1 s = .next u ∧ same u ∧ ((u.tenon b tn).reg d).full = !w.long ∧
          (w.long = false → ((u.tenon b tn).reg d).lanes = padTo 64 FVal.zero (ofElems w.ty row.els)) ∧
          (w.long = true → ∃ e ∈ (u.tenon b tn).longs, e.dst = d ∧ e.elems = none ∧
            e.value.lanes = padTo 64 FVal.zero (ofElems w.ty row.els)) ∧
          ∀ c ∈ ts, (u.tenon b tn).tile c = (T.tile c).readOn))

/-- Before an op-word: a tile that is not configured faults with 0x0012; an empty first source waits with mode block and freezes
the routine with a trap of cause 0x0010 with mode trap; an empty destination waits. A frozen routine's trap is raised for the
strand of its starting cell, with the tenon named. (Rests on R70 to R72, R226, R58.) The elements: sums, differences and products
of `.i32` wrap, or with `.sat` stop at the ends of the range; those of a floating type are the exact result rounded once, with the
count of their operation, 0 where the result is not finite; an element that is not finite is read with count 0; compares give all
ones or zeros; selects take bits by the predicate; a shift by 32 or more gives 0, or copies of the sign. The approximating
operations have their special values; `vrcp` and `vrsqrt` else give one of the two FP32 values that bracket the exact result, and
`vexp2` and `vlog2` one within the bound of the model's reference value, or the one nearest to it. (Rests on R44, R46, R202, R206 to
R209.) The reference is the model's, to 90 and to 60 places: log entry 5. -/
def Obligations.VxOperandsAndElements : Prop :=
  (∀ (o : VFields) (s : State) (b tn r : Nat) (R : Routine), s.cur = .routine b tn r → NMap.get? (s.tenon b tn).routines r = some R →
     R.hold = .running → R.couts = 0 →
     let T := s.tenon b tn
     (∀ p ∈ elementForms o,
       (isTile o.a.toNat = true → (T.tile o.a.toNat).configured = false → exec p.1 s = .next (s.vxEnd b tn r R 0x0012)) ∧
       ((∀ c ∈ o.d :: p.2.1.srcs.map Prod.fst, isTile c.toNat = false) →
         (T.full o.a.toNat = false →
           (o.x = false → exec p.1 s = .next s) ∧ (o.x = true → exec p.1 s = .next (s.vxFreeze b tn r R 0x0010 []))) ∧
         ((∀ q ∈ p.2.1.srcs, T.full q.1.toNat = true) → T.full o.d.toNat = false → exec p.1 s = .next s))) ∧
     (∀ (cause : BitVec 16) (log : List Word) (c k : Nat) (st : Strand),
       s.findOwner R.side.lid R.side.ownerBent R.side.ownerSlot = some (c, k) → s.strand? c k = some st →
       let u := s.vxFreeze b tn r R cause log
       NMap.get? (u.tenon b tn).routines r = some { R with hold := .frozen } ∧
       u.strand? c k = some { st with
         pend := st.pend ++ [{ cause := cause, tenon := some (tenonKey (s.bent b).index tn, r), stamp := s.nonce, log := log }] })) ∧
  (∀ (m : Mode) (x y z : VEl), x.1 < 2 ^ 32 → y.1 < 2 ^ 32 →
     let i (n : Nat) : Int := (BitVec.ofNat 32 n).toInt
     let cl (v : Int) : Int := max (-(2 ^ 31)) (min (2 ^ 31 - 1) v)
     ((EOp.add.int false x y).1 = (x.1 + y.1) % 2 ^ 32 ∧ (EOp.mul.int false x y).1 = x.1 * y.1 % 2 ^ 32 ∧
       (EOp.sub.int false x y).1 = (x.1 + (2 ^ 32 - y.1)) % 2 ^ 32 ∧
       i (EOp.add.int true x y).1 = cl (i x.1 + i y.1) ∧ i (EOp.sub.int true x y).1 = cl (i x.1 - i y.1) ∧
       i (EOp.mul.int true x y).1 = cl (i x.1 * i y.1) ∧ i (EOp.min.int false x y).1 = min (i x.1) (i y.1) ∧
       i (EOp.max.int false x y).1 = max (i x.1) (i y.1) ∧
       (EOp.neg.int false x y).1 = (2 ^ 32 - x.1) % 2 ^ 32 ∧
       (x.1 ≠ 2 ^ 31 → i (EOp.abs.int false x y).1 = |i x.1|) ∧
       ((EOp.cmp .lt).int false x y).1 = (if i x.1 < i y.1 then 2 ^ 32 - 1 else 0) ∧
       ((EOp.cmp .eq).int false x y).1 = (if x.1 = y.1 then 2 ^ 32 - 1 else 0)) ∧
     (∀ t : VTy, t ≠ .i32 →
       let a := t.ex x
       let b := t.ex y
       let f := t.fmt
       let is (e : VEl) (v : Ex) (c : Nat) : Prop := e.1 = f.round v m ∧ e.2 = if (f.decode e.1).isFinite then c else 0
       let r (v : Ex) : Ex := f.decode (f.round v m)
       is (EOp.add.flt t m x y z) (a.add b m) (plumbAdd [(a, x.2), (b, y.2)] (r (a.add b m)) f.p) ∧
       is (EOp.sub.flt t m x y z) (a.add b.negate m) (plumbAdd [(a, x.2), (b, y.2)] (r (a.add b.negate m)) f.p) ∧
       is (EOp.mul.flt t m x y z) (a.mul b) (countMul a x.2 f.p b y.2 f.p (r (a.mul b)) f.p) ∧
       is (EOp.div.flt t m x y z) (a.div b) (countDiv a x.2 f.p y.2 f.p (r (a.div b)) f.p) ∧
       is (EOp.sqrt.flt t m x y z) a.sqrt (countRoot true a x.2 f.p (r a.sqrt) f.p) ∧
       is (EOp.fma.flt t m x y z) ((a.mul b).add (t.ex z) m)
         (plumbAdd [(a.mul b, countMul a x.2 f.p b y.2 f.p (a.mul b) f.p), (t.ex z, z.2)] (r ((a.mul b).add (t.ex z) m)) f.p) ∧
       (a.isNan = true ∨ b.isNan = true →
         EOp.min.flt t m x y z = (f.nanBits, 0) ∧ EOp.max.flt t m x y z = (f.nanBits, 0) ∧
         ((EOp.cmp .lt).flt t m x y z).1 = 0 ∧ ((EOp.cmp .eq).flt t m x y z).1 = 0 ∧ ((EOp.cmp .ne).flt t m x y z).1 = t.ones) ∧
       EOp.abs.flt t m x y z = (x.1 % f.signWeight, x.2) ∧
       EOp.neg.flt t m x y z = ((x.1 + f.signWeight) % (2 * f.signWeight), x.2)) ∧
     (∀ (t : VTy) (l : List FVal), ∀ e ∈ elems t l, t ≠ .i32 → (t.ex e).isFinite = false → e.2 = 0) ∧
     (∀ a b p : FVal,
       (vselLane a b p).1 = ((a.v &&& p.v) ||| (b.v &&& ~~~p.v)).toNat ∧
       (p.v = BitVec.allOnes 32 → a.v ≠ b.v → (vselLane a b p).2 = a.c.toNat) ∧ (p.v = 0 → a.v ≠ b.v → (vselLane a b p).2 = b.c.toNat) ∧
       vshl32 a.v b.v = a.v <<< b.v.toNat ∧ vshrL32 a.v b.v = a.v >>> b.v.toNat ∧
       (32 ≤ b.v.toNat → vshrA32 a.v b.v = if a.v.msb then BitVec.allOnes 32 else 0))) ∧
  (∀ (m : Mode) (v : Word32) (c : Nat) (y z : VEl),
     let e := val32 v
     let gives (o : EOp) (w : Nat) : Prop := (o.flt .f32 m (v.toNat, c) y z).1 = w
     let near (o : EOp) (ref : Ex) (q : Int) : Prop := ∃ w : Word32, gives o w.toNat ∧
       (within (val32 w) ref q = true ∨ w = f32 ref .rne)
     let brackets (o : EOp) (exact : Ex) : Prop := gives o (f32 exact .rdn).toNat ∨ gives o (f32 exact .rup).toNat
     let one : Ex := .fin false 1 0 false
     (e.isNan = true → ∀ o ∈ [EOp.rcp, .rsqrt, .exp2, .log2], gives o 0x7FC00000) ∧
     (v = 0 → gives .rcp 0x7F800000 ∧ gives .rsqrt 0x7F800000 ∧ gives .log2 0xFF800000) ∧
     (v = 0x80000000 → gives .rcp 0xFF800000 ∧ gives .rsqrt 0xFF800000 ∧ gives .log2 0xFF800000) ∧
     (v = 0x7F800000 → gives .rcp 0 ∧ gives .rsqrt 0 ∧ gives .exp2 0x7F800000 ∧ gives .log2 0x7F800000) ∧
     (v = 0xFF800000 → gives .rcp 0x80000000 ∧ gives .exp2 0) ∧
     (e.isNan = false → e.neg? = true → v ≠ 0x80000000 → gives .rsqrt 0x7FC00000 ∧ gives .log2 0x7FC00000) ∧
     (e.isFinite = true → e.isZero = false → brackets .rcp (one.div e) ∧ (e.neg? = false → brackets .rsqrt (one.div e).sqrt)) ∧
     (e.isFinite = true →
       let k := e.toInt .rdn
       (128 ≤ k → gives .exp2 0x7F800000) ∧
       (e.isIntegral = true → -149 ≤ k → k ≤ 127 →
         gives .exp2 (if -126 ≤ k then (k + 127).toNat * 2 ^ 23 else 2 ^ (k + 149).toNat)) ∧
       (k < 128 → ¬(e.isIntegral = true ∧ -149 ≤ k) →
         let ref := if k < -200 then Ex.fin false 1 (-200) true else exp2Ref e
         near .exp2 ref (ulpExp ref + 1))) ∧
     (∀ n x u, e = .fin false n x u → n ≠ 0 →
       (n = 2 ^ Nat.log2 n → gives .log2 (f32 (Ex.ofInt ((Nat.log2 n : Int) + x)) .rne).toNat) ∧
       (n ≠ 2 ^ Nat.log2 n → near .log2 (log2Ref e)
         (if (log2Ref e).abs.lt (.fin false 1 (-1) false) then -24 else ulpExp (log2Ref e) + 1))))

/-- The op-words that make lanes of lanes: `vperm` and `vbcast` choose lanes, `vcvt`, `vquant` and `vdequant` convert, `vsig`
tests counts, `vrec` builds records with the round, and `vred` and `vscan` at level reg combine the active lanes; of `.i32` sums,
these are the sum and the prefix sums modulo 2^32. The bytes of a conversion are its elements one after another, each rounded to its
format, or to an integer that stops at the ends of the range, then zeros; a lane of floating elements has the smallest of their
counts. The bytes of `vquant` are the blocks of its groups of 16 elements, then zeros: a NaN block where an element is a NaN, zeros
where all are zero, else each element's magnitude at the scale of its block and pair, at most the largest. An element of `vdequant` is
the value that its block gives it, rounded to nearest, with the count of its magnitude's bits. A record of `vrec` is six lanes of its
first operand, one of its second, and the round. (Rests on R25, R32 to R35, R45, R46, R69, R200, R209 to R214, R218, R223.) Where the spec leaves a point
open this is the choice of the model: log entry 37. -/
def Obligations.VxLaneResults : Prop :=
  (∀ (o : VFields) (s : State) (b tn r : Nat) (R : Routine),
    let T := s.tenon b tn
    let A := (T.reg o.a.toNat).lanes
    let B := (T.reg o.b.toNat).lanes
    let m := R.mode o.rtz
    let wrote (i : Instr) (srcs : List (VCode × Bool)) (l : List FVal) : Prop :=
      s.OpIssues b tn r R srcs (some o.d) → (∀ c ∈ o.d :: srcs.map Prod.fst, isTile c.toNat = false) →
      ∃ u, exec i s = .next u ∧
        s.Wrote u b tn r o.d.toNat { lanes := l, full := true, poison := srcs.any (fun p => (T.reg p.1.toNat).poison) } R.next
    let one := [(o.a, o.x)]
    wrote (.vperm o.d o.a o.b o.y o.x) [(o.a, o.x), (o.b, o.y)] (B.map (fun v => A.getD (v.v.toNat % 64) FVal.zero)) ∧
    wrote (.vbcast o.d o.a o.n6 o.x) one (List.replicate 64 (A.getD o.n6.toNat FVal.zero)) ∧
    wrote (.vsigLt o.t o.d o.a o.n5 o.x) one
      (ofElems o.t ((elems o.t A).map (fun e => (if e.2 < o.n5.toNat then o.t.ones else 0, 24)))) ∧
    wrote (.vsigGe o.t o.d o.a o.n5 o.x) one
      (ofElems o.t ((elems o.t A).map (fun e => (if o.n5.toNat ≤ e.2 then o.t.ones else 0, 24)))) ∧
    wrote (.vsigCnt o.t o.d o.a o.n5 o.x) one (ofElems o.t ((elems o.t A).map (fun e => (e.2, 24)))) ∧
    wrote (.vrec o.d o.a o.b o.y o.x) [(o.a, o.x), (o.b, o.y)] (vrecLanes A B R.start.round) ∧
    (∀ g, SFmt.ofCode o.f.toNat = some g → R.checks = false ∨ vcvtFail R o.t g A (vcvtElems o.t g m A) = none →
      wrote (.vcvt o.t o.d o.a o.f o.rtz o.x) one (vcvtLanes g (vcvtElems o.t g m A))) ∧
    (∀ g, SebFmt.ofCode o.f.toNat = some g →
      wrote (.vquant o.t o.d o.a o.f o.x) one (vquantLanes o.t g A) ∧ wrote (.vdequant o.t o.d o.a o.f o.x) one (vdequantLanes o.t g A)) ∧
    (∀ q ∈ [(Instr.vredAdd o.t o.d o.a .reg o.rtz o.x, Comb.add), (.vredMin o.t o.d o.a .reg o.rtz o.x, .min),
        (.vredMax o.t o.d o.a .reg o.rtz o.x, .max)],
      let n := (q.2.tree o.t m A R.aw).getD ⟨q.2.identity o.t, none⟩
      R.checks = false ∨ q.2.fail R.start.modes o.t R.aw (List.replicate (64 * o.t.per) n) = none → wrote q.1 one (splat o.t n.v)) ∧
    (∀ q ∈ [(Instr.vscanAdd o.t o.d o.a .reg o.rtz o.x, Comb.add), (.vscanMin o.t o.d o.a .reg o.rtz o.x, .min),
        (.vscanMax o.t o.d o.a .reg o.rtz o.x, .max)],
      let ns := q.2.scan o.t m none A R.aw
      R.checks = false ∨ q.2.fail R.start.modes o.t R.aw ns = none → wrote q.1 one (ofElems o.t (ns.map RedNode.v)))) ∧
  (∀ (m : Mode) (l : List FVal) (aw : Nat), l.length = 64 → 0 < aw → aw ≤ 64 →
    let sum (n : Nat) : Nat := ((l.take n).map (fun v => v.v.toNat)).sum % 2 ^ 32
    ((Comb.add.tree .i32 m l aw).map (fun n => n.v)) = some (sum aw, 24) ∧
    ∀ k, k < aw → ((Comb.add.scan .i32 m none l aw).map (fun n => n.v.1))[k]? = some (sum (k + 1))) ∧
  (∀ (t : VTy) (g : SFmt) (m : Mode) (A : List FVal), A.length = 64 →
    let x (k : Nat) : VEl := (elems t A).getD k (0, 0)
    let a (k : Nat) : Ex := if t = .i32 then Ex.ofInt (BitVec.ofNat 32 (x k).1).toInt else t.ex (x k)
    let bits (k : Nat) : Nat := match g with
      | .int f => (f.ofEx (a k) m % 2 ^ f.width).toNat
      | .flt f => f.round (a k) m
    let count (f : FFmt) (k : Nat) : Nat :=
      if t = .i32 then (if (f.decode (bits k)).isFinite then (if (f.decode (bits k)).eqv (a k) then f.p else f.p - 1) else 0)
      else countCvt (a k) (x k).2 f m
    let L := vcvtLanes g (vcvtElems t g m A)
    L.length = 64 ∧ (∀ k, k < 64 → (k + 1) * g.size ≤ 256 → ((laneBytes L).drop (k * g.size)).take g.size = leBytes g.size (bits k)) ∧
    (∀ n, 64 * g.size ≤ n → n < 256 → (laneBytes L).getD n 0 = 0) ∧
    (∀ j, j < 64 → match g with
      | .int _ => (L.getD j FVal.zero).c = 24
      | .flt f => (∃ k, k < 64 ∧ k * g.size / 4 = j) →
          (∃ k, k < 64 ∧ k * g.size / 4 = j ∧ (L.getD j FVal.zero).c.toNat = count f k) ∧
          ∀ k, k < 64 → k * g.size / 4 = j → (L.getD j FVal.zero).c.toNat ≤ count f k)) ∧
  (∀ (t : VTy) (g : SebFmt) (A : List FVal), A.length = 64 →
    let n := g.blockBytes
    let top := 2 ^ g.m
    let xs := (elems t A).map t.ex
    let Q := vquantLanes t g A
    let blocks := if t.packed then 8 else 4
    let block (l : List Byte) (j : Nat) : List Byte := (l.drop (j * n)).take n
    let slot (l : List Byte) (k : Nat) : Nat := leNat (l.drop 2) / 2 ^ (k * (g.m + 1)) % 2 ^ (g.m + 1)
    let pair (l : List Byte) (k : Nat) : Nat := (l.getD 1 0).toNat / 2 ^ (k / 2) % 2
    let step (l : List Byte) (k : Nat) : Int := ((l.getD 0 0).toNat : Int) - 127 - pair l k - (g.m - 1)
    (t ≠ .i32 → Q.length = 64 ∧ (∀ v ∈ Q, v.c = 24) ∧ (∀ k, blocks * n ≤ k → k < 256 → (laneBytes Q).getD k 0 = 0) ∧
      ∀ j, j < blocks →
        let ys := (xs.drop (16 * j)).take 16
        let B := block (laneBytes Q) j
        (ys.any Ex.isNan = true → B = 255 :: List.replicate (n - 1) 0) ∧ (ys.all Ex.isZero = true → B = List.replicate n 0) ∧
        (ys.any Ex.isNan = false → B ≠ List.replicate n 0 → (B.getD 0 0).toNat ≤ 254 ∧ ∀ k, k < 16 →
          let y := ys.getD k (.zero false)
          let M := if y.isInf then top - 1 else min (top - 1) (rniAt y (step B k))
          slot B k = if M = 0 then 0 else M + if y.neg? then top else 0)) ∧
    (let el (i : Nat) : VEl :=
       let B := block (laneBytes A) (i / 16)
       let k := i % 16
       let M := slot B k % top
       let v : Ex := if (B.getD 0 0).toNat = 255 then .nan else .fin (decide (slot B k / top = 1)) M (step B k) false
       let r := t.fmt.round v .rne
       (r, if (t.fmt.decode r).isFinite then min (if M = 0 then 24 else Nat.log2 M + 1) t.fmt.p else 0)
     (t = .f32 → vdequantLanes t g A = (List.range 64).map (fun i => ⟨BitVec.ofNat 32 (el i).1, BitVec.ofNat 5 (el i).2⟩)) ∧
     (t = .f16 ∨ t = .bf16 → vdequantLanes t g A = (List.range 64).map (fun i =>
       ⟨BitVec.ofNat 32 ((el (2 * i)).1 + 65536 * (el (2 * i + 1)).1), BitVec.ofNat 5 (min (el (2 * i)).2 (el (2 * i + 1)).2)⟩)))) ∧
  (∀ (A B : List FVal) (round : BitVec 16) (j : Nat), j < 8 →
    let L := vrecLanes A B round
    (∀ k, k < 6 → L[8 * j + k]? = some ⟨(A.getD (6 * j + k) FVal.zero).v, 24⟩) ∧
    L[8 * j + 6]? = some ⟨(B.getD j FVal.zero).v, 24⟩ ∧ L[8 * j + 7]? = some ⟨round.zeroExtend 32, 24⟩)

/-- A `vred` or `vscan` at a level above the register hands the active lanes of its routine's latest cell to the pending reduction
or scan of its destination, which is empty until the result is written; it waits while anything but earlier partials of its own keeps
the destination empty; a routine without a cell, a ninth destination and a partial
past the 1,024th fault with 0x0001. Partials are taken in the order of their cells; the one that ends the unit closes it: a
reduction's destination then holds, in every lane, what the partials combine to, in the order of their rounds and keys where the
launch is deterministic. A scan of a launch that is not writes each result as its partial is taken, from the carry of those before
it. (Rests on R212, R213, R223, R287.) Where the spec leaves a point open this is the choice of the model: log entry 37. -/
def Obligations.VxSpanningReductions : Prop :=
  ∀ (s : State) (b tn : Nat),
    let T := s.tenon b tn
    (∀ (o : VFields) (r : Nat) (R : Routine) (l : VLvl), l ≠ .reg → isTile o.a.toNat = false → isTile o.d.toNat = false →
      ∀ q ∈ [(Instr.vredAdd o.t o.d o.a l o.rtz o.x, Comb.add, false), (.vredMin o.t o.d o.a l o.rtz o.x, .min, false),
          (.vredMax o.t o.d o.a l o.rtz o.x, .max, false), (.vscanAdd o.t o.d o.a l o.rtz o.x, .add, true),
          (.vscanMin o.t o.d o.a l o.rtz o.x, .min, true), (.vscanMax o.t o.d o.a l o.rtz o.x, .max, true)],
        let A := (T.reg o.a.toNat).lanes
        let val := (q.2.1.tree o.t (R.mode o.rtz) A R.aw).map RedNode.v
        let old := T.pending? o.d.toNat q.2.2
        let had := (old.getD { dst := o.d.toNat, scan := q.2.2 }).waiting
        let done := (old.getD { dst := o.d.toNat, scan := q.2.2 }).taken
        let others := ((T.pendings.map Pending.dst).filter (fun d => d != o.d.toNat)).eraseDups
        let counted (l : List Partial) : Nat := (l.filter (fun y => y.counts q.2.2)).length
        s.OpIssues b tn r R [(o.a, o.x)] none →
        (T.full o.d.toNat = false → T.heldBy o.d.toNat q.2.2 = false → exec q.1 s = .next s) ∧
        (T.full o.d.toNat = true ∨ T.heldBy o.d.toNat q.2.2 = true →
        (R.ords = [] → exec q.1 s = .next (s.vxEnd b tn r R 0x0001)) ∧
        (∀ n, R.ords.getLast? = some n →
          (8 ≤ others.length → exec q.1 s = .next (s.vxEnd b tn r R 0x0001)) ∧
          (1024 ≤ counted (had ++ done) → val ≠ none → exec q.1 s = .next (s.vxEnd b tn r R 0x0001)) ∧
          (others.length < 8 → counted (had ++ done) < 1024 →
            ∃ u v x, exec q.1 s = .next u ∧ u.mem = s.mem ∧ (u.tenon b tn).full o.d.toNat = false ∧
              NMap.get? (u.tenon b tn).routines r = some R.next ∧ (u.tenon b tn).pending? o.d.toNat q.2.2 = some v ∧
              v.waiting = had ++ [x] ∧ v.taken = done ∧ x.ordinal = n ∧ Comb.ofCode x.comb = q.2.1 ∧ x.ty = o.t ∧ x.lvl = l ∧
              x.mode = R.mode o.rtz ∧ x.value = val ∧ x.aw = R.aw ∧ x.eor = R.markEor ∧ x.eot = R.markEot ∧
              x.key = R.cinKey ∧ x.round = R.cinRound ∧ (q.2.2 = true → x.lanes = A))))) ∧
    (∀ (p : Pending) (x : Partial), T.pendings.filter (fun q => q.dst == p.dst) = [p] → p.lowest = some x → T.blocked p x = true →
      exec (.partialCombine b tn p.dst) s = .next s) ∧
    (∀ (p : Pending) (x : Partial), T.pendings.filter (fun q => q.dst == p.dst) = [p] → p.lowest = some x → T.blocked p x = false →
      (NMap.vals T.closes).all (fun c => c.dst != p.dst) = true →
      let det := (s.launch x.side.lid).det
      let rest := removeFirst (fun y => y.ordinal == x.ordinal) p.waiting
      let now : Pending := { p with waiting := rest, taken := p.taken ++ [x] }
      let free (l : List Partial) : Bool := l.all (fun y => !y.held)
      let goes (P : State → Prop) : Prop := ∃ u, exec (.partialCombine b tn p.dst) s = .next u ∧ u.mem = s.mem ∧ P u
      (p.scan = false → x.ends = false → goes (fun u => (u.tenon b tn).pending? p.dst false = some now)) ∧
      (∀ acc, p.scan = false → x.ends = true → p.dst ≠ 72 → p.dst ≠ 73 →
        now.fold (if det then sortBy Partial.before now.taken else now.taken) = some acc → modesVxe acc.last.modes = false →
        goes (fun u => ((u.tenon b tn).reg p.dst).lanes = splat now.ty acc.v ∧ ((u.tenon b tn).reg p.dst).full = free rest ∧
          (rest = [] → (u.tenon b tn).pending? p.dst false = none) ∧
          (rest ≠ [] → ∃ v, (u.tenon b tn).pending? p.dst false = some v ∧ v.waiting = rest ∧ v.taken = []))) ∧
      (p.scan = true → det = false → p.dst ≠ 72 → p.dst ≠ 73 → modesVxe x.modes = false →
        let ns := (Comb.ofCode x.comb).scan x.ty x.mode p.carry x.lanes x.aw
        goes (fun u => ((u.tenon b tn).reg p.dst).lanes = ofElems x.ty (ns.map RedNode.v) ∧
          ((u.tenon b tn).reg p.dst).full = free (rest ++ p.taken) ∧
          (x.ends = false → 0 < x.aw → ∃ v, (u.tenon b tn).pending? p.dst true = some v ∧ v.waiting = rest ∧
            v.taken = p.taken ++ [{ x with held := false }] ∧
            v.carry = (ns[x.ty.per * x.aw - 1]?).map RedNode.v)))) ∧
    (∀ x y : Partial, x.round = y.round → x.key < y.key → Partial.before x y = true ∧ Partial.before y x = false)

/-- `cin` moves a cell from its slot to a register, or its rows into a tile, and sets the active width; `cout` offers a cell built
from two registers to FB2, or ends the routine with the cause that its header's checks give, and leaves its slot empty; `cfwd`
passes the cell of a slot on; the routine waits until FB2 has the cell. `vend` ends a routine once its late results and cells are
out. A late result is written when it completes; of a routine that a fault has ended nothing is written, and its destination is
full again as it was. A cell with a reserved ARG bit or an entry without a routine is consumed and its strand traps with 0x0001; one
with START starts its routine at its entry. (Rests on R69, R70, R94, R198, R199, R215 to R217, R219, R224, R226.) Where the spec
leaves a point open this is the choice of the model: log entry 37. -/
def Obligations.VxCellsAndEnd : Prop :=
  ∀ (s : State) (d a : VCode) (x : Bool) (e : BitVec 4) (b tn r : Nat) (R : Routine),
    let T := s.tenon b tn
    let h := NMap.getD T.slotHdr a.toNat default
    let v := T.reg a.toNat
    (s.OpIssues b tn r R [(a, x)] (some d) → isTile a.toNat = false →
      (isTile d.toNat = false → a ≠ d → a.toNat ≠ 72 → a.toNat ≠ 73 →
        ∃ u R', exec (.cin d a x) s = .next u ∧ u.mem = s.mem ∧ (u.tenon b tn).reg d.toNat = { v with full := true } ∧
          (u.tenon b tn).full a.toNat = false ∧ NMap.get? (u.tenon b tn).slotHdr a.toNat = none ∧
          NMap.get? (u.tenon b tn).routines r = some R' ∧ R'.aw = (h.cell.len.toNat + 3) / 4 ∧ R'.ords = R.ords ++ [T.ordinal] ∧
          R'.markEor = h.cell.eor ∧ R'.markEot = h.cell.eot ∧ (u.tenon b tn).ordinal = T.ordinal + 1) ∧
      (isTile d.toNat = true →
        let X := T.tile d.toNat
        let rowBytes := X.cols * X.fmt.size
        let n := h.cell.len.toNat / rowBytes
        (h.cell.len.toNat % rowBytes ≠ 0 ∨ X.rows < n → exec (.cin d a x) s = .next (s.vxEnd b tn r R 0x0001)) ∧
        (h.cell.len.toNat % rowBytes = 0 → n ≤ X.rows →
          ∃ u, exec (.cin d a x) s = .next u ∧ u.mem = s.mem ∧ ((u.tenon b tn).tile d.toNat).elems = (X.fill h.cell n).elems ∧
            ((u.tenon b tn).tile d.toNat).live = true ∧ ((u.tenon b tn).tile d.toNat).full = true ∧
            ((u.tenon b tn).reg a.toNat).full = false ∧ ∀ c, c ≠ a.toNat → (u.tenon b tn).reg c = T.reg c))) ∧
    (s.OpIssues b tn r R [(a, x)] (some d) → isTile a.toNat = false → isTile d.toNat = false →
      let c := R.outCell v.lanes
      (∀ cause, s.outCheck R.side.lid c v.lanes = some cause → exec (.cout d a x) s = .next (s.vxEnd b tn r R cause)) ∧
      (s.outCheck R.side.lid c v.lanes = none →
        ∃ u m, exec (.cout d a x) s = .next u ∧ u.mem = s.mem ∧ (u.tenon b tn).full d.toNat = false ∧
          NMap.get? (u.tenon b tn).routines r = some { R.next with couts := 1 } ∧
          NMap.getD (u.bent b).emit (4 + tn) [] = NMap.getD (s.bent b).emit (4 + tn) [] ++ [m] ∧ m.cell.dest = c.dest ∧
          m.cell.kind = c.kind ∧ m.cell.code = c.code ∧ m.cell.arg = c.arg ∧ m.cell.addr = c.addr ∧ m.cell.len = c.len ∧ m.cell.round = R.start.round ∧ m.cell.payload = outPayload c (T.reg d.toNat) ∧
          m.cell.poison = ((T.reg d.toNat).poison || v.poison))) ∧
    (s.OpIssues b tn r R [(a, x)] none → isTile a.toNat = false →
      (kindMask h.cell.kind &&& oneHot e.toNat = 0 → exec (.cfwd a e x) s = .next (s.vxEnd b tn r R 0x0005)) ∧
      (kindMask h.cell.kind &&& oneHot e.toNat ≠ 0 →
        ∃ u m, exec (.cfwd a e x) s = .next u ∧ u.mem = s.mem ∧ NMap.get? (u.tenon b tn).routines r = some { R.next with couts := 1 } ∧
          NMap.getD (u.bent b).emit (4 + tn) [] = NMap.getD (s.bent b).emit (4 + tn) [] ++ [m] ∧
          m.cell = { h.cell with dest := oneHot e.toNat } ∧ (u.tenon b tn).full a.toNat = true)) ∧
    (s.cur = .routine b tn r → NMap.get? T.routines r = some R → R.hold = .running → R.couts = 0 →
      ∃ u, exec .vend s = .next u ∧ u.mem = s.mem ∧ NMap.get? (u.tenon b tn).routines r = some { R with hold := .ending, suppress := false }) ∧
    (NMap.get? T.routines r = some R → R.hold = .ending → R.couts = 0 → T.longs.all (fun o => o.routine != r) = true →
      ∃ u, exec (.routineEnd b tn r) s = .next u ∧ u.mem = s.mem ∧ NMap.get? (u.tenon b tn).routines r = none) ∧
    (∀ o, T.longs.find? (fun q => q.id == r) = some o →
      ∃ u, exec (.longLatencyComplete b tn r) s = .next u ∧ u.mem = s.mem ∧ (u.tenon b tn).longs = T.longs.filter (fun q => q.id != r) ∧
        ((∃ R', NMap.get? T.routines o.routine = some R' ∧ R'.hold ≠ .faulted) →
          (o.elems = none → o.dst ≠ 72 → o.dst ≠ 73 → (u.tenon b tn).reg o.dst = { o.value with full := true } ∧
            (o.l0 = true → (u.tenon b tn).reg 72 = { o.value with full := true })) ∧
          (∀ l, o.elems = some l → ((u.tenon b tn).tile o.dst).elems = l ∧ ((u.tenon b tn).tile o.dst).full = true)) ∧
        ((∀ R', NMap.get? T.routines o.routine = some R' → R'.hold = .faulted) →
          (∀ c, ((u.tenon b tn).reg c).lanes = (T.reg c).lanes ∧ ((u.tenon b tn).tile c).elems = (T.tile c).elems) ∧
          (o.dst ≠ 72 → o.dst ≠ 73 → (u.tenon b tn).full o.dst = true))) ∧
    (∀ (c : InCell) (l : List InCell) (i : EngIn), (s.bent b).engIn (4 + tn) = some i → i.ops = c :: l → T.isFrozen = false →
      (∀ o, s.vxRefusal i = some o → exec (.vxCellDelivery b (4 + tn)) s = .next (s.refuse b (4 + tn) i o 0x0001)) ∧
      ((s.vxRefusal i).isSome = true ↔
        ∃ o ∈ c :: l, 16 ≤ o.cell.arg.toNat ∨ (s.launch o.side.lid).extent o.cell.code.toNat = none)) ∧
    (∀ (c : InCell) (i : EngIn) (lo hi : Nat), (s.bent b).engIn (4 + tn) = some i → i.ops = [c] → T.isFrozen = false →
      c.cell.arg.toNat < 16 → T.full (82 + c.cell.arg.toNat % 8) = false →
      (s.launch c.side.lid).extent c.cell.code.toNat = some (lo, hi) →
      (c.cell.arg.toNat < 8 → ∃ u, exec (.vxCellDelivery b (4 + tn)) s = .next u ∧ u.mem = s.mem ∧
        (u.tenon b tn).reg (82 + c.cell.arg.toNat % 8) = { lanes := c.cell.lanes, full := true, poison := c.cell.poison } ∧
        (u.tenon b tn).routines = T.routines) ∧
      (8 ≤ c.cell.arg.toNat → T.routines.length < 4 →
        ∃ u N, exec (.vxCellDelivery b (4 + tn)) s = .next u ∧ u.mem = s.mem ∧
          (u.tenon b tn).reg (82 + c.cell.arg.toNat % 8) = { lanes := c.cell.lanes, full := true, poison := c.cell.poison } ∧
          NMap.get? (u.tenon b tn).routines T.nextRoutine = some N ∧ N.pc = lo ∧ N.hi = hi ∧ N.start = c.cell ∧ N.hold = .running))

/-- `tcfg` gives a tile its shape and type, with every element zero and of its type's count, and faults with 0x0011 on a live one,
which `tcfg.discard` may replace; no other tile and no register changes, and both wait for an empty tile. `vloop` opens a loop, and
faults with 0x0001 as a third one or where its body passes the end of the loop around it or of the routine. `vbr` branches where all,
or any, of the active lanes are not 0, which ends the loops whose bodies do not hold its target. (Rests on R45, R72, R73, R220 to
R223.) -/
def Obligations.VxTilesAndControl : Prop :=
  ∀ (s : State) (d a : VCode) (q : BitVec 17) (n off : BitVec 14) (l : BitVec 7) (x : Bool) (b tn r : Nat) (R : Routine),
    let T := s.tenon b tn
    let X := T.tile d.toNat
    (s.OpIssues b tn r R [] none →
      (∀ i ∈ [Instr.tcfg d q, .tcfgDiscard d q], X.full = false → exec i s = .next s) ∧
      (X.full = true → X.configured = true → X.live = true → exec (.tcfg d q) s = .next (s.vxEnd b tn r R 0x0011)) ∧
      (∀ i ∈ [Instr.tcfg d q, .tcfgDiscard d q], X.full = true → X.live = false ∨ i = .tcfgDiscard d q →
        ∃ u, exec i s = .next u ∧ u.mem = s.mem ∧ NMap.get? (u.tenon b tn).routines r = some R.next ∧
          let Y := (u.tenon b tn).tile d.toNat
          Y.rows = (q.extractLsb' 0 6).toNat + 1 ∧ Y.cols = (q.extractLsb' 6 6).toNat + 1 ∧ Y.configured = true ∧ Y.live = false ∧
          Y.full = true ∧ Y.rcur = 0 ∧ Y.wcur = 0 ∧ (∀ c, isTile c = true → c ≠ d.toNat → isTile d.toNat = true → (u.tenon b tn).tile c = T.tile c) ∧
          (∀ c, (u.tenon b tn).reg c = T.reg c) ∧
          ∀ p ∈ ([(1, .int .int8, 24), (3, .int .int16, 24), (4, .int .int32, 24),
              (6, .flt .fp32, 24), (7, .flt .fp16, 11), (8, .flt .bf16, 8), (9, .flt .e4m3, 4), (10, .flt .e5m2, 3)] :
              List (BitVec 5 × SFmt × BitVec 5)),
            q.extractLsb' 12 5 = p.1 → Y.fmt = p.2.1 ∧ Y.elems = List.replicate (Y.rows * Y.cols) ⟨0, p.2.2⟩) ∧
      (let stop := R.pc + 1 + l.toNat
       (2 ≤ R.loops.length ∨ R.hi < stop ∨ (∃ y ∈ R.loops, y.2.1 < stop) →
         exec (.vloop n l) s = .next (s.vxEnd b tn r R 0x0001)) ∧
       (R.loops.length < 2 → stop ≤ R.hi → (∀ y ∈ R.loops, stop ≤ y.2.1) →
         ∃ u, exec (.vloop n l) s = .next u ∧ u.mem = s.mem ∧ NMap.get? (u.tenon b tn).routines r =
           some { R with loops := (R.pc + 1, stop, n.toNat) :: R.loops, pc := R.pc + 1, suppress := false }))) ∧
    (s.OpIssues b tn r R [(a, x)] none → isTile a.toNat = false →
      let act := (T.reg a.toNat).lanes.take R.aw
      let goes (i : Instr) (yes : Bool) : Prop := ∃ u R', exec i s = .next u ∧ u.mem = s.mem ∧
        NMap.get? (u.tenon b tn).routines r = some R' ∧
        (yes = false → R' = R.next) ∧
        (yes = true → 0 ≤ (R.pc : Int) + off.toInt → (R'.pc : Int) = (R.pc : Int) + off.toInt ∧
          let holds (y : Nat × Nat × Nat) : Prop := y.1 ≤ R'.pc ∧ R'.pc < y.2.1
          ∃ ended, R.loops = ended ++ R'.loops ∧ (∀ y ∈ ended, ¬holds y) ∧ ∀ y, R'.loops.head? = some y → holds y)
      goes (.vbrAll a off x) (act.all (fun v => v.v != 0)) ∧ goes (.vbrAny a off x) (act.any (fun v => v.v != 0)))

/-- A weight stream is gathered cell by cell, and at its end loads its image and moves the generation on, or traps with 0x0001 and
leaves the tenon without weights; a fire cell of the current generation adds to its row, or completes a row that traps with 0x0001,
and one of an old generation is refused; it waits where its rows do not all find room. A row that may fire becomes a firing with the sum
of every column, and in a deterministic launch one of a second issuer into one accumulator row traps. The sum of a column is the exact
sum of a[k] × B[k][n]; a product of a zero and a value that is not finite is skipped and sets SNF, or in a strict form makes the sum a
NaN. A firing that lands adds its sums to its accumulator row, in FP32 rounded to nearest with ties to even; an INT32 sum stops at the
ends of the range, and one that does sets SAT. (Rests on R37, R38, R40, R41, R230 to R235, R316, R342.) Where the spec leaves a point
open this is the choice of the model: log entries 32 and 49. -/
def Obligations.MatrixFirings : Prop :=
  (∀ (s : State) (b e : Nat) (i : EngIn) (c : InCell),
    let M := (s.bent b).mxAt e
    let of (u : State) : Mx := (u.bent b).mxAt e
    i.ops = [c] →
    (s.Takes b e 0x101 i c →
      let start : LoadStream :=
        { issuer := c.issuer, bytes := [], prov := c.side.prov, ctx := c.cell.ctx, round := c.cell.round, poison := false }
      let streams (L : LoadStream) : Prop := (M.load = some L ∧ L.issuer = c.issuer) ∨ (M.load = none ∧ M.busy = false ∧ L = start)
      (∀ L, streams L → c.cell.eot = false →
        ∃ u N, exec (.mxWload b e) s = .next u ∧ u.mem = s.mem ∧ s.Fed u b e i ∧ (of u).load = some N ∧
          N.bytes = L.bytes ++ c.cell.bytes ∧ N.issuer = c.issuer ∧ (of u).valid = M.valid ∧ (of u).wgen = M.wgen) ∧
      (∀ L, streams L → c.cell.eot = true →
        (∀ d I, loadImage (L.bytes ++ c.cell.bytes) (L.poison || c.cell.poison) = some (d, I) →
          s.matches (s.launch c.side.lid).part M d (L.add c) = false →
          ∃ u, exec (.mxWload b e) s = .next u ∧ u.mem = s.mem ∧ s.Fed u b e i ∧ (of u).load = none ∧ (of u).valid = true ∧
            (of u).image = I ∧ (of u).tag.imgid = d.id ∧ (of u).tag.version = d.version ∧ (of u).wgen = (M.wgen + 1) % 16) ∧
        (loadImage (L.bytes ++ c.cell.bytes) (L.poison || c.cell.poison) = none →
          ∃ u : State, exec (.mxWload b e) s = .next (u.engFault c.side 0x0001) ∧ u.mem = s.mem ∧ s.Fed u b e i ∧
            (of u).load = none ∧ (of u).valid = false ∧ (of u).wgen = (M.wgen + 1) % 16))) ∧
    (∀ q ∈ [(Instr.mxFire b e, 0x102, FireForm.mk false false), (.mxFireStrict b e, 0x103, ⟨false, true⟩),
        (.mxFireSp b e, 0x104, ⟨true, false⟩), (.mxFireSpStrict b e, 0x105, ⟨true, true⟩)], s.Takes b e q.2.1 i c → M.load = none →
      let gen := c.cell.arg.toNat / 2 ^ 28
      (8 ≤ (gen + 16 - M.wgen) % 16 → ∃ t : State, exec q.1 s = .next (t.refuse b e i c 0x0001) ∧ t.mem = s.mem) ∧
      (gen = M.wgen → ∀ N bad, M.takeRow c q.2.2 = (N, bad) →
        (8 < N.rows.length → exec q.1 s = .next s) ∧
        (N.rows.length ≤ 8 → bad = false → ∃ u, exec q.1 s = .next u ∧ u.mem = s.mem ∧ s.Fed u b e i ∧ of u = N) ∧
        (N.rows.length ≤ 8 → bad = true →
          ∃ u : State, exec q.1 s = .next (u.engFault c.side 0x0001) ∧ u.mem = s.mem ∧ s.Fed u b e i ∧ of u = N)))) ∧
  (∀ (s : State) (b e k : Nat) (r : ARow) (fa fb : MFmt),
    let M := (s.bent b).mxAt e
    M.rows[k]? = some r → M.mayFire k r = true →
    (((s.launch r.side.lid).det && M.secondKey r) = true →
      ∃ u : State, exec (.mxRowFire b e k) s = .next (u.engFault r.side 0x0001) ∧ u.mem = s.mem ∧
        ((u.bent b).mxAt e).rows = M.rows.eraseIdx k ∧ ((u.bent b).mxAt e).inFlight = M.inFlight) ∧
    (((s.launch r.side.lid).det && M.secondKey r) = false → MFmt.of r.fmt.toNat = some fa → MFmt.of M.image.fmt = some fb →
    ∃ u f, exec (.mxRowFire b e k) s = .next u ∧ u.mem = s.mem ∧
      let N := (u.bent b).mxAt e
      N.rows = M.rows.eraseIdx k ∧ N.inFlight = M.inFlight ++ [f] ∧ f.row = r.row ∧ N.firings = M.firings + 1 ∧ N.acc = M.acc ∧
      (N.snf = true ↔ M.snf = true ∨ ∃ n, n < 256 ∧ (M.column r fa fb n).skipped = true) ∧
      f.sums.length = 256 ∧ ∀ n, n < 256 → f.sums[n]? = some ((M.column r fa fb n).sum.getD (.zero false), (M.column r fa fb n).weight))) ∧
  (∀ (M : Mx) (r : ARow) (fa fb : MFmt) (n : Nat),
    let B (k : Nat) : Ex := M.image.logical fb k n
    let C := M.column r fa fb n
    let clash (k : Nat) (a : Ex) : Prop := (a.isZero = true ∧ (B k).isFinite = false) ∨ ((B k).isZero = true ∧ a.isFinite = false)
    (∀ ea eb : Int, ea ≤ 0 → eb ≤ 0 → r.vals ≠ [] → (∀ k a, r.vals[k]? = some a → a.1.Above ea ∧ (B k).Above eb) →
      ∃ S, C.sum = some S ∧ S.isFinite = true ∧ C.skipped = false ∧
        S.units (ea + eb) = (r.vals.zipIdx.map (fun x => x.1.1.units ea * (B x.2).units eb)).sum) ∧
    (C.skipped = true ↔ r.strict = false ∧ ∃ k a, r.vals[k]? = some a ∧ clash k a.1) ∧
    (∀ k a, r.strict = true → r.vals[k]? = some a → clash k a.1 → C.sum = some .nan)) ∧
  (∀ (s : State) (b e : Nat) (f : Firing),
    let M := (s.bent b).mxAt e
    M.inFlight.find? (fun g => g.id == f.id) = some f → f.sums.length = 256 →
    ∃ u, exec (.firingLanded b e f.id) s = .next u ∧ u.mem = s.mem ∧
      let N := (u.bent b).mxAt e
      N.inFlight = removeFirst (fun g => g.id == f.id) M.inFlight ∧
      (∀ n, n < 256 → ∀ x w, f.sums[n]? = some (x, w) →
        let old := NMap.getD M.acc (f.row * 256 + n) FVal.zero
        NMap.getD N.acc (f.row * 256 + n) FVal.zero = (if M.int32 then (accAddInt old x).1 else accAdd old x w) ∧
        (M.int32 = false → (NMap.getD N.acc (f.row * 256 + n) FVal.zero).v = f32 (old.ex.add x .rne) .rne)) ∧
      (N.sat = true ↔ M.sat = true ∨ (M.int32 = true ∧ ∃ n x w, n < 256 ∧ f.sums[n]? = some (x, w) ∧
        (accAddInt (NMap.getD M.acc (f.row * 256 + n) FVal.zero) x).2 = true)) ∧
      ∀ m, m / 256 ≠ f.row → NMap.get? N.acc m = NMap.get? M.acc m) ∧
  (∀ (x : AccElem) (sum : Ex),
    let v := x.v.toInt + sum.toInt .rtz
    (accAddInt x sum).1.v.toInt = max (-(2 ^ 31)) (min (2 ^ 31 - 1) v) ∧
    ((accAddInt x sum).2 = true ↔ v < -(2 ^ 31) ∨ 2 ^ 31 - 1 < v))

/-- A drain whose map or route breaks a rule is refused; one that may start emits its cells by its route. Row r is cut into cells of E
elements converted to the output format; that of its element c goes to ADDRESS + r × STRIDE + c × size, with the offset of a gang added;
the last of a row carries EOR, and the last cell of all carries EOT: the status cell where STAT asks for one. `mx.clear` empties the
accumulators and flags of an idle tenon and sets its type, and is refused for another ARG. (Rests on R46, R52, R229, R236 to R239.)
Where the spec leaves a point open this is the choice of the model: log entries 32 and 49. -/
def Obligations.MatrixDrainAndClear : Prop :=
  ∀ (s : State) (b e : Nat) (i : EngIn) (c : InCell), i.ops = [c] →
    let M := (s.bent b).mxAt e
    (s.Takes b e 0x106 i c →
      let d := DrainMap.of c.cell.arg
      let R := c.cell.route
      let ps := M.drainPieces e d R.stride
      (M.drainBad d = true → exec (.mxDrain b e) s = .next (s.refuse b e i c 0x0001)) ∧
      (M.drainBad d = false → M.drain = none → M.inRows d = false →
        (∀ cause, s.routeCheck c.side.lid R ps = some cause → exec (.mxDrain b e) s = .next (s.refuse b e i c cause)) ∧
        (s.routeCheck c.side.lid R ps = none →
          ∃ u D, exec (.mxDrain b e) s = .next u ∧ u.mem = s.mem ∧ s.Fed u b e i ∧ ((u.bent b).mxAt e).drain = some D ∧
            D.first = d.first ∧ D.rows = d.rows ∧ D.clear = d.clear ∧ ((u.bent b).mxAt e).acc = M.acc ∧
            s.EmittedBy u b e c R c.cell.poison ps)) ∧
      (M.drainBad d = false →
        let fmt := BitVec.ofNat 5 d.ofmt
        let size := elemSize d.ofmt
        let E := (if d.tag then (taggedBytes fmt).getD 256 else 256) / size
        let N := (255 + E) / E
        ps.length = d.rows * N + (if d.stat then 1 else 0) ∧
        (∀ r j, r < d.rows → j < N → ∃ p, ps[r * N + j]? = some p ∧
          let els := (List.range (min E (256 - j * E))).map (fun k =>
            drainElem d.ofmt (NMap.getD M.acc ((d.first + r) * 256 + (j * E + k)) FVal.zero))
          let bytes := els.flatMap (fun v => leBytes size v.1)
          p.bytes = (if d.tag then taggedPayload fmt bytes (els.map (fun v => v.2)) else bytes) ∧ p.len = size * els.length ∧
          p.fmt = fmt ∧ p.tag = d.tag ∧ p.iqrec = false ∧ (p.eor = true ↔ j + 1 = N) ∧
          (p.eot = true ↔ j + 1 = N ∧ r + 1 = d.rows ∧ d.stat = false) ∧
          p.off = (r : Int) * R.stride + ((j * E * size : Nat) : Int) + M.gangOff d e R.stride) ∧
        (d.stat = true → ∃ p, ps[d.rows * N]? = some p ∧ p.bytes = leBytes 8 M.status ∧ p.len = 8 ∧ p.fmt = 0 ∧ p.eor = false ∧
          p.eot = true ∧ p.off = (d.rows : Int) * R.stride + M.gangOff d e R.stride)) ∧
      (∀ f x, SFmt.ofCode d.ofmt = some (.flt f) →
        drainElem d.ofmt x = (f.round x.ex .rne, countCvt x.ex x.c.toNat f .rne))) ∧
    (s.Takes b e 0x107 i c →
      (2 ≤ c.cell.arg.toNat → exec (.mxClear b e) s = .next (s.refuse b e i c 0x0001)) ∧
      (c.cell.arg.toNat < 2 → M.busy = false → M.drain = none →
        ∃ u, exec (.mxClear b e) s = .next u ∧ u.mem = s.mem ∧ s.Fed u b e i ∧
          let N := (u.bent b).mxAt e
          N.acc = [] ∧ N.snf = false ∧ N.sat = false ∧ N.firings = 0 ∧ N.int32 = bit c.cell.arg 0 ∧ N.image = M.image ∧ N.valid = M.valid))

/-- `sx.sort` emits the keys of its cell with their indices in order by its route, `sx.merge` two ordered runs merged, `sx.topk`
gathers the best keys of a tile over its cells and emits them at its end; each cell of an emission goes to ADDRESS + 256 × i, the last
with EOT. Refused with 0x0001: keys that do not fit LEN, a merge of an operand out of order, of the wrong FMT, or of too many pairs, a
top-k cell of another configuration than its tile's, a seventeenth tile, and another number of operands; with the cause of its check, a
route block. A sort permutes, and orders: by KEY as unsigned numbers, as signed ones, or in the total order of FP32, upwards or with
DESC downwards, equal keys by rising index. A merge of ordered runs permutes them and is ordered, operand 0 first at equal keys.
(Rests on R180, R229, R241, R242.) Where the spec leaves a point open this is the choice of the model: log entries 33 and 49. -/
def Obligations.SortEngine : Prop :=
  (∀ (s : State) (b : Nat) (i : EngIn) (c : InCell),
    let x := c.cell
    let cfg := SxCfg.of x.arg
    let size := if x.arg.toNat % 4 = 3 then 8 else 4
    let most := if x.arg.toNat % 4 = 3 then 32 else 64
    let bytesOf (ps : List SxPair) : List Byte := ps.flatMap (fun p => leBytes size p.1 ++ leBytes size p.2)
    let badKeys : Prop := x.len.toNat % size ≠ 0 ∨ most < x.len.toNat / size
    let badPairs (y : Cell) : Prop := y.len.toNat % (2 * size) ≠ 0 ∨ y.fmt ≠ 15
    let keys : List Nat := (List.range (x.len.toNat / size)).map (fun n => x.num (size * n) size)
    let pairs (y : Cell) : List SxPair :=
      (List.range (y.len.toNat / (2 * size))).map (fun n => (y.num (2 * size * n) size, y.num (2 * size * n + size) 4))
    let refused (f : Instr) : Prop := exec f s = .next (s.refuse b 8 i c 0x0001)
    let emits (f : Instr) (r : InCell) (ps : List SxPair) (poison : Bool) (also : State → Prop) : Prop :=
      let cells := runPieces 15 false (bytesOf ps)
      (∀ cause, s.routeCheck c.side.lid r.cell.route cells = some cause → exec f s = .next (s.refuse b 8 i c cause)) ∧
      (s.routeCheck c.side.lid r.cell.route cells = none →
        ∃ u, exec f s = .next u ∧ u.mem = s.mem ∧ s.Fed u b 8 i ∧ s.EmittedBy u b 8 c r.cell.route poison cells ∧ also u)
    (s.Takes b 8 0x301 i c →
      (i.ops.length ≠ 2 ∨ badKeys → refused (.sxSort b)) ∧
      (∀ r, i.ops = [c, r] → ¬badKeys →
        emits (.sxSort b) r (sortBy cfg.pairBefore keys.zipIdx) (anyPoison i.ops) (fun _ => True))) ∧
    (s.Takes b 8 0x302 i c →
      (i.ops.length ≠ 3 → refused (.sxMerge b)) ∧
      (∀ q r, i.ops = [c, q, r] →
        let bad : Prop := badPairs x ∨ badPairs q.cell ∨ most < (pairs x).length + (pairs q.cell).length ∨
          cfg.ordered (pairs x) = false ∨ cfg.ordered (pairs q.cell) = false
        (bad → refused (.sxMerge b)) ∧
        (¬bad → emits (.sxMerge b) r (cfg.merge (pairs x) (pairs q.cell)) (anyPoison i.ops) (fun _ => True)))) ∧
    (s.Takes b 8 0x303 i c →
      let who := topkIssuer x
      let old := (s.bent b).topkOf who
      let bad : Prop := i.ops.length ≠ (if x.eot then 2 else 1) ∨ badKeys ∨ (∃ t, old = some t ∧ t.cfg ≠ x.arg) ∨
        (old = none ∧ 16 ≤ (s.bent b).topk.length)
      let seen := (old.map (fun t => t.seen)).getD 0
      let best := (sortBy cfg.pairBefore ((old.map (fun t => t.best)).getD [] ++ keys.zipIdx.map (fun p => (p.1, seen + p.2)))).take
        (x.arg.toNat / 16 % 64 + 1)
      let poison := (old.map (fun t => t.poison)).getD false || anyPoison i.ops
      (bad → refused (.sxTopk b)) ∧
      (¬bad → x.eot = false → ∃ u t, exec (.sxTopk b) s = .next u ∧ u.mem = s.mem ∧ s.Fed u b 8 i ∧
        (u.bent b).topkOf who = some t ∧ t.cfg = x.arg ∧ t.seen = seen + keys.length ∧ t.best = best ∧ t.poison = poison ∧
        ∀ w, w ≠ who → (u.bent b).topkOf w = (s.bent b).topkOf w) ∧
      (∀ r, ¬bad → x.eot = true → i.ops = [c, r] →
        emits (.sxTopk b) r best poison (fun u => ∀ w, (u.bent b).topkOf w = if w = who then none else (s.bent b).topkOf w)))) ∧
  (∀ (fmt : BitVec 5) (q : Bool) (bytes : List Byte), Cut fmt q bytes (runPieces fmt q bytes)) ∧
  (∀ (cfg : SxCfg) (l : List SxPair), (sortBy cfg.pairBefore l).Perm l ∧
    (sortBy cfg.pairBefore l).Pairwise (fun x y => cfg.pairBefore y x = false)) ∧
  (∀ (cfg : SxCfg) (p q : SxPair), cfg.key < 4 → p.1 < 2 ^ (8 * cfg.size) → q.1 < 2 ^ (8 * cfg.size) →
    let val (n : Nat) : Int :=
      if cfg.key = 1 then (BitVec.ofNat 32 n).toInt
      else if cfg.key = 2 then (if n < 2 ^ 31 then (n : Int) else 2 ^ 31 - 1 - (n : Int))
      else n
    (cfg.before p.1 q.1 = true ↔ if cfg.desc then val q.1 < val p.1 else val p.1 < val q.1) ∧
    (cfg.pairBefore p q = true ↔ cfg.before p.1 q.1 = true ∨ (p.1 = q.1 ∧ p.2 < q.2))) ∧
  (∀ (cfg : SxCfg) (l : List SxPair), cfg.ordered l = true ↔ l.Pairwise (fun p q => cfg.before q.1 p.1 = false)) ∧
  (∀ (cfg : SxCfg) (x y : List SxPair), (cfg.merge x y).Perm (x ++ y) ∧
    (cfg.ordered x = true → cfg.ordered y = true → cfg.ordered (cfg.merge x y) = true ∧
      ∀ k, (cfg.merge x y).filter (fun p => p.1 == k) = x.filter (fun p => p.1 == k) ++ y.filter (fun p => p.1 == k)))

/-- The first copy of a vote is kept; a second that agrees is forwarded as its ARG says, one that disagrees with the forwarded one
is logged and counted against its tenon; a cell that is no copy from a tenon of the bent is refused. (Rests on R244, R373, R374.)
Where the spec leaves a point open this is the choice of the model: log entry 33. -/
def Obligations.Voter : Prop :=
  ∀ (s : State) (b : Nat) (i : EngIn) (c : InCell), s.Takes b 10 0x501 i c → i.ops = [c] →
    let B := s.bent b
    let kept := B.votes.find? (fun v => v.is c.cell)
    (c.cell.vote = false ∨ c.emitter = none → exec (.vtVote b) s = .next (s.refuse b 10 i c 0x0001)) ∧
    (∀ e, c.cell.vote = true → c.emitter = some e →
      (kept = none → B.votes.length < 32 →
        ∃ u v, exec (.vtVote b) s = .next u ∧ u.mem = s.mem ∧ s.Fed u b 10 i ∧ u.emitted b 10 = s.emitted b 10 ∧ v ∈ (u.bent b).votes ∧
          v.cells = [(c, e)] ∧ v.forwarded = none) ∧
      (∀ y f, kept = some { cells := [(y, f)], forwarded := none } → f ≠ e → agree y.cell c.cell = true →
        headerCheck (forwarded c.cell false) false = none →
        ∃ u m, exec (.vtVote b) s = .next u ∧ u.mem = s.mem ∧ s.Fed u b 10 i ∧ u.emitted b 10 = s.emitted b 10 ++ [m] ∧
          m.dest = oneHot (c.cell.arg.toNat / 2 ^ 16 % 16) ∧ m.code = BitVec.ofNat 8 (c.cell.arg.toNat / 2 ^ 20) ∧
          m.kind = BitVec.ofNat 4 (c.cell.arg.toNat / 2 ^ 28) ∧ m.arg = BitVec.ofNat 32 (c.cell.arg.toNat % 2 ^ 16) ∧ m.vote = false ∧
          m.payload = c.cell.payload ∧ (u.bent b).votelog = B.votelog) ∧
      (∀ x y f g, kept = some { cells := [(x, f), (y, g)], forwarded := some 1 } → f ≠ e → g ≠ e → agree y.cell c.cell = false →
        ∃ u, exec (.vtVote b) s = .next u ∧ u.mem = s.mem ∧ s.Fed u b 10 i ∧ u.emitted b 10 = s.emitted b 10 ∧
          (u.bent b).votelog.getLast? = some (voteEntry c.cell e 0) ∧
          NMap.getD (u.part (b / 24)).disagree (b % 24 * 8 + e) 0 = min 127 (NMap.getD (s.part (b / 24)).disagree (b % 24 * 8 + e) 0 + 1)))

/-- `cn.ingest` adds its records to the pending set of its queue; `cn.cons` and `cn.flush` emit the consolidated records of the
rounds up to theirs, or of all, by the queue's route and remove them; `cn.join` emits its matches with an arrangement and keeps
its records to be folded; malformed cells are refused. Each (key, value, round) whose multiplicities do not sum to 0 is consolidated to
one record, in the order of key, value and round, with that sum; a joined record has the change's key and round, the low halves of both
values and the product of both multiplicities. A sum or product out of range stops at its end and sets bit 15 of the flags; the flags
of equal records are combined by OR. The entries of a key are those in a row from the one that the index gives. (Rests on R229, R243,
R296 to R302, R311.) Where the spec leaves a point open this is the choice of the model: log entries 5, 15, 34 and 49. -/
def Obligations.Consolidator : Prop :=
  (∀ (s : State) (b : Nat) (i : EngIn) (c : InCell), i.ops = [c] →
    let B := s.bent b
    let a := CnArg.of c.cell.arg
    let L := s.launch c.side.lid
    let R := Route.of (padTo 32 0 (NMap.getD L.queues a.q default).route)
    (s.Takes b 9 0x401 i c →
      (s.cnBad b c true false false = true → exec (.cnIngest b) s = .next (s.refuse b 9 i c 0x0001)) ∧
      (s.cnBad b c true false false = false → B.cn.count + c.cell.records.length ≤ 4096 →
        ∃ u, exec (.cnIngest b) s = .next u ∧ u.mem = s.mem ∧ s.Fed u b 9 i ∧
          (u.bent b).cn.pending.map (fun p => (p.q, p.r)) = B.cn.pending.map (fun p => (p.q, p.r)) ++ c.cell.records.map (fun r => (a.q, r)))) ∧
    (∀ q ∈ [(Instr.cnCons b, 0x402, true), (.cnFlush b, 0x404, false)], s.Takes b 9 q.2.1 i c →
      let upto (r : Rec) : Bool := if q.2.2 then notAfter r.round a.round else true
      let S := B.cn.taken a.q upto
      let ps := recordPieces (consolidate (S.map (fun p => p.r))) (.infl c.side.lid a.q S.length c.cell.round)
      (s.cnBad b c false q.2.2 false = true → exec q.1 s = .next (s.refuse b 9 i c 0x0001)) ∧
      (s.cnBad b c false q.2.2 false = false → s.routeCheck c.side.lid R ps = none →
        ∃ u, exec q.1 s = .next u ∧ u.mem = s.mem ∧ s.Fed u b 9 i ∧
          s.EmittedBy u b 9 c R (c.cell.poison || S.any (fun p => p.src.cell.poison)) ps ∧
          (u.bent b).cn.pending = B.cn.pending.filter (fun p => !(p.q == a.q && upto p.r)))) ∧
    (s.Takes b 9 0x403 i c → s.cnBad b c true false true = true ∨ s.arrangement c.side.lid b a.bt = none →
      exec (.cnJoin b) s = .next (s.refuse b 9 i c 0x0001)) ∧
    (∀ A, s.Takes b 9 0x403 i c → s.cnBad b c true false true = false → s.arrangement c.side.lid b a.bt = some A →
      B.foldHeld a.bt = false → B.cn.count + c.cell.records.length ≤ 4096 →
      let out := c.cell.records.flatMap (fun r => (s.arrEntries A r.key).map (fun e => (joined r e.1, e.2)))
      let ps := recordPieces (out.map Prod.fst) .nothing
      s.routeCheck c.side.lid R ps = none →
      ∃ u, exec (.cnJoin b) s = .next u ∧ u.mem = s.mem ∧ s.Fed u b 9 i ∧
        s.EmittedBy u b 9 c R (c.cell.poison || out.any (fun y => y.2)) ps ∧
        (u.bent b).cn.folds.map (fun f => (f.bt, f.r)) = B.cn.folds.map (fun f => (f.bt, f.r)) ++ c.cell.records.map (fun r => (a.bt, r)))) ∧
  (∀ (out : List Rec) (done : OnAccept),
    Cut 14 true (out.flatMap Rec.bytes) ((recordPieces out done).map (fun p => { p with done := .nothing }))) ∧
  (∀ (l : List Rec) (base : BitVec 16), (∀ r ∈ l, (r.round - base).toNat < 2 ^ 15) →
    let equal (r : Rec) : List Rec := l.filter (fun x => x.key == r.key && x.value == r.value && x.round == r.round)
    let sum (r : Rec) : Int := ((equal r).map (fun x => x.mult)).sum
    (∀ r ∈ consolidate l, sum r ≠ 0 ∧ r.mult = max (-(2 ^ 31)) (min (2 ^ 31 - 1) (sum r)) ∧
      r.flags = (equal r).foldl (fun f x => f ||| x.flags) 0 ||| (if r.mult = sum r then 0 else 0x8000)) ∧
    (∀ r ∈ l, sum r ≠ 0 → ∃ o ∈ consolidate l, o.key = r.key ∧ o.value = r.value ∧ o.round = r.round) ∧
    (consolidate l).Pairwise (fun x y => x.key < y.key ∨ (x.key = y.key ∧ (x.value < y.value ∨
      (x.value = y.value ∧ (x.round - base).toNat < (y.round - base).toNat))))) ∧
  (∀ c e : Rec,
    let j := joined c e
    let m := c.mult * e.mult
    j.key = c.key ∧ j.round = c.round ∧ j.value = c.value % 2 ^ 64 + e.value % 2 ^ 64 * 2 ^ 64 ∧
    j.mult = max (-(2 ^ 31)) (min (2 ^ 31 - 1) m) ∧ (j.mult ≠ m → j.flags.testBit 15 = true) ∧
    ∀ n, (j.mult ≠ m → n ≠ 15) → c.flags.testBit n = e.flags.testBit n → j.flags.testBit n = c.flags.testBit n) ∧
  (∀ (s : State) (lid b bt key : Nat) (A : Arr), s.arrangement lid b bt = some A →
    let start := key * 0x9E3779B97F4A7C15 % 2 ^ 64 / 2 ^ (64 - A.logs)
    let slot (n : Nat) : Nat := s.readNat (A.front (64 + 32 * A.cap + 4 * ((start + n) % 2 ^ A.logs))) 4
    let its (k : Nat) : Prop := k < A.count ∧ (s.arrEntry A k).1.key = key
    ∀ n, n < 2 ^ A.logs → (∀ m, m < n → slot m ≠ 2 ^ 32 - 1 ∧ ¬its (slot m)) →
      (slot n = 2 ^ 32 - 1 → s.arrEntries A key = []) ∧
      (∀ m, slot n ≠ 2 ^ 32 - 1 → 0 < m → (∀ k, k < m → its (slot n + k)) → ¬its (slot n + m) →
        s.arrEntries A key = (List.range m).map (fun k => s.arrEntry A (slot n + k))))

/-- An atomic cell that may be applied: its place receives the operation's new value and no other byte changes; with RET the old
value goes to the sink slot that ARG names; an `amo`'s entry has the old value. `at.fadd` leaves the FP32 sum, rounded to nearest
with ties to even. In a deterministic launch one of a round that is not over is held. Refused: 0x0002 at an ADDR that is not aligned,
0x0004 outside own scratchpad, 0x0001 with an unsuited FMT, a LEN below its operands, or a reserved bit of ARG. One into a shadow whose
publish is not complete waits. (Rests on R29, R150 to R152, R154, R160, R245, R329.) Where the spec leaves a point open this is the choice of the model: log entries
3 and 35. -/
def Obligations.AtomicUnit : Prop :=
  ∀ (s : State) (b : Nat) (i : EngIn) (c : InCell), i.ops = [c] → ∀ q ∈ [(Instr.atSwap b, 1), (.atCas b, 2), (.atAdd b, 3), (.atFadd b, 4),
      (.atAnd b, 5), (.atOr b, 6), (.atXor b, 7), (.atMin b, 8), (.atMax b, 9), (.atMinu b, 10), (.atMaxu b, 11)],
    s.Takes b 14 (0x600 + q.2) i c →
    let x := c.cell
    let n := if x.fmt = 5 then 8 else 4
    let publishing : Prop := ∃ bt, c.side.shadow = some bt ∧ (s.launch c.side.lid).pubAfter.contains bt = true
    (publishing → exec q.1 s = .next s) ∧
    (∀ cause, ¬publishing → s.atPlace b c = .inl cause → exec q.1 s = .next (s.refuse b 14 i c cause)) ∧
    (x.addr.toNat % n ≠ 0 → s.atPlace b c = .inl 0x0002) ∧
    (x.addr.toNat % n = 0 → s.atOffset b c = none → s.atPlace b c = .inl 0x0004) ∧
    (c.side.shadow = none → (∀ off, addrSpace b x.addr ≠ .own off) → s.atOffset b c = none) ∧
    (∀ off, c.side.shadow = none → c.side.amo = none → addrSpace b x.addr = .own off → s.atOffset b c = (s.launch c.side.lid).spadMap off) ∧
    (∀ off bound, x.addr.toNat % n = 0 → s.atOffset b c = some (off, bound) →
      let bad : Prop := (if q.2 = 4 then x.fmt ≠ 6 else x.fmt ≠ 4 ∧ x.fmt ≠ 5) ∨ x.len.toNat < (if q.2 = 2 then 16 else 8) ∨ 32 ≤ x.arg.toNat
      (bad → s.atPlace b c = .inl 0x0001) ∧ (¬bad → s.atPlace b c = .inr (spadAddr b off, bound))) ∧
    (∀ loc bound, ¬publishing → s.atPlace b c = .inr (loc, bound) → (s.launch c.side.lid).det = true →
      roundBefore x.round ((s.bent b).roundAt 14) = false → arriveSpills (s.bent b).heldAt' loc x.round = false →
      ∃ u h, exec q.1 s = .next u ∧ u.mem = s.mem ∧ s.Fed u b 14 i ∧ (u.bent b).held = (s.bent b).held ++ [h] ∧ h.loc = loc ∧
        h.cell = c) ∧
    (∀ loc bound, ¬publishing → s.atPlace b c = .inr (loc, bound) → (s.launch c.side.lid).det = false → s.Ordered →
      let old := s.readNat loc n
      (c.side.amo = none → s.poisonedAt loc n = false →
        ∃ u, exec q.1 s = .next u ∧ s.Fed u b 14 i ∧
          u.readNat loc n = amoNew (q.2 - 1) (8 * n) old (x.num 0 8 % 2 ^ (8 * n)) (x.num 8 8 % 2 ^ (8 * n)) % 2 ^ (8 * n) ∧
          (q.2 = 4 → u.readNat loc 4 = (f32 ((val32 (BitVec.ofNat 32 old)).add (val32 (BitVec.ofNat 32 (x.num 0 4))) .rne) .rne).toNat) ∧
          (∀ y, y < loc ∨ loc + n ≤ y → u.byte y = s.byte y) ∧
          (bit x.arg 4 = false → u.emitted b 14 = s.emitted b 14) ∧
          (bit x.arg 4 = true → ∃ m, u.emitted b 14 = s.emitted b 14 ++ [m] ∧ m.dest = oneHot 15 ∧
            m.arg = BitVec.ofNat 32 (x.arg.toNat % 16) ∧
            m.payload = padTo 256 0 (leBytes 8 (atReturn (q.2 - 1) n (Memory.getBytes s.mem loc n)).toNat))) ∧
      (∀ bb k st o, s.amoEntry c.side = some (bb, k, st, o) →
        ∃ u v, exec q.1 s = .next u ∧ u.strand? bb k = some v ∧
          (v.ops.find? (fun p => p.id == o.id)).map (fun p => p.got) = some (some (Memory.getBytes s.mem o.loc o.size, s.poisonedAt o.loc o.size)) ∧
          ((s.launch o.writer.lid).det = false → ∀ y, y < o.loc ∨ o.loc + o.size ≤ y → u.byte y = s.byte y)))

/-- A data cell fills an empty sink slot; a cell at WB0 or WB1 writes its bytes at its place and no others, or is refused; GS
sends on what holds a place at its target, which the oldest request is granted while fewer than 32 are taken; GR moves a cell, in
the order of its issuer, into its queue, and a marker into the queue of each egress that its cells went to, with their number.
(Rests on R170, R290, R294, R395, R396.) Where the spec leaves a point open this is the
choice of the model: log entries 3 and 36. -/
def Obligations.WritesBetweenBents : Prop :=
  ∀ (s : State) (b : Nat) (c : InCell),
    let B := s.bent b
    let gone (u : State) (e : Nat) : Prop := NMap.getD (u.bent b).inbuf e [] = (NMap.getD B.inbuf e []).drop 1
    (B.dataHead 15 = some c → NMap.get? B.sinks (c.cell.arg.toNat % 16) = none →
      ∃ u v, exec (.sinkData b) s = .next u ∧ u.mem = s.mem ∧ gone u 15 ∧ NMap.get? (u.bent b).sinks (c.cell.arg.toNat % 16) = some v ∧
        v.bytes = (List.range 8).map c.cell.byte ∧ v.fmt = c.cell.fmt ∧ v.tag = c.cell.tag ∧ v.poison = c.cell.poison) ∧
    (∀ e, e = 11 ∨ e = 12 → B.dataHead e = some c → (∀ x ∈ B.gs, x.egr ≠ e) →
      (s.reach b e c = .refused → ∃ t : State, exec (.writeback b e) s = .next (t.engFault c.side 0x0004) ∧ t.mem = s.mem ∧ gone t e) ∧
      (∀ loc, s.reach b e c = .here → c.side.shadow = none → s.Ordered → (s.launch c.side.lid).det = false →
        c.cell.addr.toNat % 256 + c.cell.len.toNat ≤ 256 → 0 < c.cell.len.toNat → s.writePlace b e c 0 = .ok loc →
        ∃ u, exec (.writeback b e) s = .next u ∧ gone u e ∧ (∀ y, y < loc ∨ loc + c.cell.len.toNat ≤ y → u.byte y = s.byte y) ∧
          ∀ j, j < c.cell.len.toNat → u.byte (loc + j) = c.cell.bytes.getD j 0) ∧
      (∀ t g, s.reach b e c = .girt t g → ∃ u x, exec (.writeback b e) s = .next u ∧ u.mem = s.mem ∧ (u.bent b).gs = B.gs ++ [x] ∧
        x.cell = c.cell ∧ x.target = t ∧ x.egress = g ∧ x.granted = false ∧ (u.bent b).inbuf = B.inbuf)) ∧
    (∃ u, exec (.girtSend b) s = .next u ∧ (∀ x ∈ (u.bent b).gs, x.granted = false) ∧
      ∀ x ∈ B.gs, x.granted = true → x.place B.index ∈ (u.bent x.target).gr) ∧
    (s.grTaken b < 32 → ∀ o y, s.oldestRequest b = some (o, y) → y ∈ (s.bent o).gs →
      ∃ u, exec (.grReservation b) s = .next u ∧ u.mem = s.mem ∧ (u.bent o).gs = grantFirst y (s.bent o).gs ∧
        { y with granted := true } ∈ (u.bent o).gs) ∧
    (32 ≤ s.grTaken b → exec (.grReservation b) s = .next s) ∧
    (∀ k p g m, B.gr[k]? = some p → B.grFirst p = true → p.cell.rmk = true → p.fan = [(g, m)] → B.voqRoom 10 g 0 = true →
      ∃ u, exec (.grEnqueue b k) s = .next u ∧ u.mem = s.mem ∧ (u.bent b).gr = B.gr.eraseIdx k ∧
        (u.bent b).queued 10 g p.cell.cls.toNat = B.queued 10 g p.cell.cls.toNat ++
          [({ p.cell with dest := oneHot g, arg := BitVec.ofNat 32 m } : Cell).seal]) ∧
    (∀ k p, B.gr[k]? = some p → B.grFirst p = true → p.cell.rmk = false → B.voqRoom 10 p.egress p.cell.cls.toNat = true →
      ∃ u, exec (.grEnqueue b k) s = .next u ∧ u.mem = s.mem ∧ (u.bent b).gr = B.gr.eraseIdx k ∧
        (u.bent b).queued 10 p.egress p.cell.cls.toNat = B.queued 10 p.egress p.cell.cls.toNat ++ [p.cell.seal])

/-- Every grant of a slot is of a head that has a copy for its egress, at an egress with input space, and no egress is granted
twice. (Rests on R250 to R252.) A gated slot only counts; another lands what was matched, each sound cell behind the others at its
egress, and matches again; each brings DL_WINDOW and AGE_LIMIT as written into use. A feedback port with room accepts an engine's
oldest result. A head that has waited as many slots as the AGE_LIMIT in use is aged. A marker is recorded on its pair. A cycle that has stood still for the
DL_WINDOW in use is recorded and traps the strand that its cells name. (Rests on R65, R79, R219, R247, R250, R253, R257, R258, R388,
R395.) Where the spec leaves a point open this is the choice of the model: log
entry 31. -/
def Obligations.MortiseMatchingAndSteps : Prop :=
  (∀ B : Bent, (∀ g ∈ B.match3.grants, B.reaches g.1 g.2.2 g.2.1 = true ∧ (NMap.getD B.inbuf g.2.1 []).length < 4) ∧
     (B.match3.grants.map (fun g => g.2.1)).Nodup) ∧
  (∀ (s : State) (b e : Nat),
     let B := s.bent b
     let sound (x : Nat × InCell) : Bool := x.2.cell.hcrc == x.2.cell.crc
     (B.gateCount % 16 < s.device.gate → ∃ u, exec (.mortiseSlot b) s = .next u ∧ u.mem = s.mem ∧ (u.bent b).slot = B.slot ∧
       (u.bent b).voq = B.voq ∧ (u.bent b).inbuf = B.inbuf ∧ (u.bent b).gateCount = B.gateCount + 1 ∧
       (u.bent b).landing = B.landing ∧ (u.bent b).dlLive = B.dlWindow ∧ (u.bent b).ageLive = B.ageLimit) ∧
     (s.device.gate ≤ B.gateCount % 16 → ∃ u, exec (.mortiseSlot b) s = .next u ∧ u.mem = s.mem ∧ (u.bent b).slot = B.slot + 1 ∧
       (u.bent b).dlLive = B.dlWindow ∧ (u.bent b).ageLive = B.ageLimit ∧
       ∀ e, NMap.getD (u.bent b).inbuf e [] = NMap.getD B.inbuf e [] ++ (B.landing.filter (fun x => sound x && x.1 == e)).map (fun x => x.2)) ∧
     (∀ f m ms, fbOf e = some f → NMap.getD B.emit e [] = m :: ms → B.fbRoom f m.cell = true → popMask m.cell.dest = 1 →
       ∃ u rest, exec (.feedbackAccept b e) s = .next u ∧ u.mem = s.mem ∧ NMap.getD (u.bent b).emit e [] = ms ∧
         (u.bent b).queued f (firstEgress m.cell.dest) m.cell.cls.toNat =
           B.queued f (firstEgress m.cell.dest) m.cell.cls.toNat ++ m.cell.seal :: rest) ∧
     (∀ i h q, B.headCell i h = some q → q.cell.cls ≠ 0 → ∃ u v, exec (.headAged b i h) s = .next u ∧ u.mem = s.mem ∧
       (u.bent b).headCell i h = some v ∧ v.cell = q.cell ∧ v.age = q.age ∧
       (q.age < B.ageLive → v.agedAt = none) ∧ (B.ageLive ≤ q.age → v.agedAt = some (q.agedAt.getD B.slot))) ∧
     (∀ c, (NMap.getD B.inbuf e []).head? = some c → c.cell.rmk = true → e ≠ 13 →
       ∃ u p, exec (.markerReceipt b e) s = .next u ∧ u.mem = s.mem ∧ NMap.getD (u.bent b).inbuf e [] = (NMap.getD B.inbuf e []).drop 1 ∧
         p ∈ (u.bent b).pairs ∧ p.is c.ing e (issuerOf B.index c.ing c.side) c.cell.round = true ∧ p.marker = some c.cell.arg.toNat) ∧
     (∀ k t, B.stills[k]? = some t → B.dlLive ≤ t.count →
       ∃ u, exec (.deadlockDetection b k) s = .next u ∧ u.mem = s.mem ∧ (u.bent b).dlsnap = B.snapshot s.dtime t.queues ∧
         ∀ lid ob os c j st, s.cycleStrands b t.queues = [(lid, ob, os)] → s.findOwner lid ob os = some (c, j) →
           s.strand? c j = some st → ∃ v, u.strand? c j = some v ∧ v.pend = st.pend ++ [{ cause := 0x0040, stamp := s.nonce }]))

/-- An operand is stored in its rendezvous entry, the last one that the entry awaits fires the operation, and one that finds no
entry or its place taken traps its strand; a unit whose inputs are satisfied enters the next round, with no row or tile left open,
another does not; a matrix tenon first closes its open rows, one by one; the close of
a round applies a channel's held atomics, by round and then by strand, once each page has its context's owner again; an epoch of the
girt network ends. (Rests on R80, R81, R152, R168, R255, R273, R274, R292, R343.)
Where the spec leaves a point open this is the choice of the model: log entries 3, 21, 31 and 49. -/
def Obligations.RoundsAndRendezvous : Prop :=
  ∀ (s : State) (b e : Nat),
    let B := s.bent b
    (∀ c, B.headIn e = some c → c.cell.rmk = false → c.cell.opcnt ≠ 0 →
      let key := 32 * e + c.cell.rvt.toNat
      let rest := (NMap.getD B.inbuf e []).drop 1
      (NMap.get? B.rv key = none → ∃ t : State, exec (.rendezvousOperand b e) s = .next (t.engFault c.side 0x0001) ∧ t.mem = s.mem ∧
        NMap.getD (t.bent b).inbuf e [] = rest) ∧
      (∀ v, NMap.get? B.rv key = some v → NMap.has v.operands c.cell.opix.toNat = true →
        ∃ t : State, exec (.rendezvousOperand b e) s = .next (t.engFault c.side 0x0001) ∧ t.mem = s.mem ∧ (t.bent b).rv = B.rv) ∧
      (∀ v, NMap.get? B.rv key = some v → NMap.has v.operands c.cell.opix.toNat = false →
        let ops := NMap.set v.operands c.cell.opix.toNat c
        let all := (List.range (c.cell.opcnt.toNat + 1)).all (fun k => NMap.has ops k)
        ∃ u, exec (.rendezvousOperand b e) s = .next u ∧ u.mem = s.mem ∧ NMap.getD (u.bent b).inbuf e [] = rest ∧
          (all = false → NMap.get? (u.bent b).rv key = some { v with operands := ops } ∧ (u.bent b).fired = B.fired) ∧
          (all = true → NMap.get? (u.bent b).rv key = none ∧
            (u.bent b).fired = B.fired ++ [(e, (List.range (c.cell.opcnt.toNat + 1)).filterMap (NMap.get? ops))]))) ∧
    (s.satisfied b e = false → exec (.roundEntry b e) s = .next s) ∧
    (s.satisfied b e = true → 4 ≤ e ∨ (B.mxAt e).partialRow = [] →
      ∃ u, exec (.roundEntry b e) s = .next u ∧ (u.bent b).roundAt e = B.roundAt e + 1 ∧
        (e < 4 → ((u.bent b).mxAt e).cursors = []) ∧ (e = 8 → (u.bent b).topk = [])) ∧
    (∀ k r l, s.satisfied b e = true → e < 4 → (B.mxAt e).partialRow = (k, r) :: l → ∀ M bad, (B.mxAt e).closeRow r true = (M, bad) →
      (bad = false → ∃ u, exec (.roundEntry b e) s = .next u ∧ u.mem = s.mem ∧ (u.bent b).mxAt e = M ∧ (u.bent b).roundAt e = B.roundAt e) ∧
      (bad = true → ∃ u : State, exec (.roundEntry b e) s = .next (u.engFault r.side 0x0001) ∧ u.mem = s.mem ∧ (u.bent b).mxAt e = M)) ∧
    (∀ l c x st o, s.closing l c = [x] → s.heldEntry x = some (st, o) → s.foreignPage l o = none → s.Ordered →
      ∃ u v, exec (.hbmAtomicRoundClose l c) s = .next u ∧ u.strand? x.bent x.slot = some v ∧
        (v.ops.find? (fun p => p.id == o.id)).map (fun p => p.got) =
          some (some (Memory.getBytes s.mem o.loc o.size, s.poisonedAt o.loc o.size)) ∧
        ∀ y, y < o.loc ∨ o.loc + o.size ≤ y → u.byte y = s.byte y) ∧
    (∀ l c page, (s.closing l c).findSome? (fun x => (s.heldEntry x).bind (fun e => s.foreignPage l e.2)) = some page →
      exec (.hbmAtomicRoundClose l c) s = .next (s.queueScrub page (s.launch l).ctx)) ∧
    (∀ x y : HeldOp, x.round = y.round → x.key < y.key → HeldOp.before x y = true ∧ HeldOp.before y x = false) ∧
    (∀ d, ∃ u, exec (.goldenEpoch d) s = .next u ∧ u.mem = s.mem ∧ (u.die d).epoch = (s.die d).epoch + 1)

/-- The oldest walk of a die finishes for every source that joined it: with the entry that the three levels of its context's tables
give, in the bent's TLB and that of the walk engine, or with a failure, which each source of that context then meets; and the oldest queued miss
starts. A retried miss joins a walk of its page, starts one, or waits in the queue. A scrubbed page reads zero, but for the commands
of an enabled queue, and has its new owner and key, and no other byte changes. An invalidation is busy from its write, waits for the
accesses translated through what it covers, and then removes exactly the entries that it covers, in every bent. (Rests on R319, R332
to R336, R339, R343.) Where the spec leaves a point open this is the choice of the model: log entries 3 and 38. -/
def Obligations.TranslationSteps : Prop :=
  ∀ (s : State) (die p page : Nat) (v : Word),
    let D := s.die die
    let P := s.part p
    (∀ m l, D.walks = m :: l →
      let key := transKey m.host (m.vpn * 65536)
      (∃ t, exec (.tableWalk die) s = .next t ∧ t.mem = s.mem ∧ (t.die die).walks = l ++ D.queue.take 1 ∧
        (t.die die).queue = D.queue.drop 1 ∧
        (∀ e, m.entry s = some e → ∀ q ∈ m.sources, e ∈ (t.bent q.1).tlb ∧
          ∀ w < 2, q.2 = 16 + w → e ∈ NMap.getD (t.bent q.1).walkTlb w []) ∧
        (m.entry s = none → (∀ b, (t.bent b).tlb = (s.bent b).tlb ∧ (t.bent b).walkTlb = (s.bent b).walkTlb) ∧ ∀ q ∈ m.sources,
          (16 ≤ q.2 → (s.bent q.1).launch.all (fun lid => (s.launch lid).ctx == m.ctx) = true →
            NMap.get? (t.bent q.1).transBad q.2 = some key) ∧
          (q.2 < 16 → ∀ st, s.strand? q.1 q.2 = some st → st.state = .waiting (.translation key) → (s.launch st.lid).ctx = m.ctx →
            ∃ z, t.strand? q.1 q.2 = some z ∧ z.transBad = some key))) ∧
      let C := s.ctx m.ctx
      let level1 := (if m.host then C.hroot else C.droot) + m.vpn / 2 ^ 21 % 2 ^ 15 * 8
      (s.tableEntry m.ctx level1 = none → m.entry s = none) ∧
      ∀ e1, s.tableEntry m.ctx level1 = some e1 →
        (pteTable (2 ^ 15) e1 = none → m.entry s = none) ∧
        ∀ t1 e2, pteTable (2 ^ 15) e1 = some t1 → s.tableEntry m.ctx (t1 + m.vpn / 2 ^ 9 % 2 ^ 12 * 8) = some e2 →
          (e2.testBit 2 = true → pteLeaf (2 ^ 25) e2 = none → m.entry s = none) ∧
          (e2.testBit 2 = false → pteTable (2 ^ 12) e2 = none → m.entry s = none) ∧
          (∀ pa w i, e2.testBit 2 = true → pteLeaf (2 ^ 25) e2 = some (pa, w, i) →
            m.entry s = some { ctx := m.ctx, host := m.host, vpn := m.vpn, big := true, pa := pa, w := w, img := i }) ∧
          ∀ t2 e3, e2.testBit 2 = false → pteTable (2 ^ 12) e2 = some t2 →
            s.tableEntry m.ctx (t2 + m.vpn % 2 ^ 9 * 8) = some e3 →
            (pteLeaf (2 ^ 16) e3 = none → m.entry s = none) ∧
            ∀ pa w i, pteLeaf (2 ^ 16) e3 = some (pa, w, i) →
              m.entry s = some { ctx := m.ctx, host := m.host, vpn := m.vpn, big := false, pa := pa, w := w, img := i }) ∧
    (∀ m l, D.retry = m :: l →
      let walked := D.walks.any (fun x => x.same m.ctx m.host m.vpn)
      let queued := D.queue.any (fun x => x.same m.ctx m.host m.vpn)
      ∃ t, exec (.tlbMissRetry die) s = .next t ∧ t.mem = s.mem ∧ t.bents = s.bents ∧
        (walked = true → (t.die die).retry = l ∧ ∀ q ∈ m.sources, ∃ x ∈ (t.die die).walks, x.same m.ctx m.host m.vpn = true ∧ q ∈ x.sources) ∧
        (walked = false → queued = false →
          (D.walks.length < 32 → (t.die die).walks = D.walks ++ [m] ∧ (t.die die).retry = l) ∧
          (32 ≤ D.walks.length → D.queue.length < 512 → (t.die die).queue = D.queue ++ [m] ∧ (t.die die).retry = l))) ∧
    (∀ q, s.scrubQueue.find? (fun x => x.1 == page) = some q →
      ∃ t, exec (.pageScrub page) s = .next t ∧ NMap.get? t.pageOwner page = some q.2 ∧
        NMap.get? t.device.pageKeys page = some (s.ctxKey q.2) ∧
        ∀ a, t.byte a =
          if page * 65536 ≤ a ∧ a < page * 65536 + 65536 ∧ s.inQueueSlots a = false then 0 else s.byte a) ∧
    (let x : Word := v &&& 0x7F80000FFFFFFFFF
     let queued (t : State) : Prop := t.mem = s.mem ∧ t.bents = s.bents ∧ (t.part p).tlbinvPending = P.tlbinvPending ++ [x] ∧
       (t.part p).readTlbinv = x ||| 0x8000000000000000
     (v.getLsbD 56 = false → ∃ t, exec (.tlbinvPage p v) s = .next t ∧ queued t) ∧
     (v.getLsbD 56 = true → ∃ t, exec (.tlbinvAll p v) s = .next t ∧ queued t)) ∧
    ∀ w l, P.tlbinvPending = w :: l →
      (s.invBusy w = true → exec (.tlbinvComplete p) s = .next s) ∧
      (s.invBusy w = false → ∃ t, exec (.tlbinvComplete p) s = .next t ∧ t.mem = s.mem ∧ (t.part p).tlbinvPending = l ∧
        ∀ b, (t.bent b).tlb = (s.bent b).tlb.filter (fun e => !invCovers w e) ∧ (t.bent b).strands = (s.bent b).strands ∧
          ∀ n, NMap.getD (t.bent b).walkTlb n [] = (NMap.getD (s.bent b).walkTlb n []).filter (fun e => !invCovers w e))

/-- An append to a queue that is not enabled, to a full one, and of a command whose fields a check refuses is answered so and
changes nothing else; any other takes the partition's next sequence number, a slot at the tail, and a journal record in state 1. A
queue enabled starts empty; one disabled discards its commands, whose records say so. (Rests on R319 to R322, R378.) Where the
spec leaves a point open this is the choice of the model: log entry 20. -/
def Obligations.CommandQueues : Prop :=
  ∀ (s : State) (p q : Nat) (cmd : List Byte),
    let P := s.part p
    let Q := P.qcb q
    let c := padTo 128 0 cmd
    let bad := bytesAt c 0 1 ≠ 1 ∨ (8 ≤ bytesAt c 1 1 ∧ bytesAt c 1 1 ≠ 0xFF) ∨ 64 ≤ bytesAt c 2 1 ∨ 2 ≤ bytesAt c 3 1 ∨
      (∃ x ∈ c.drop 40, x ≠ 0) ∨ bytesAt c 16 8 % 64 ≠ 0 ∨ bytesAt c 24 8 % 64 ≠ 0 ∨ bytesAt c 32 8 % 65536 ≠ 0
    (Q.en = false → exec (.append p q cmd) s = .next (s.toHostMsg (.disabled p q))) ∧
    (Q.en = true → Q.tail - Q.head = Q.slots → exec (.append p q cmd) s = .next (s.toHostMsg (.full p q))) ∧
    (Q.en = true → Q.tail - Q.head ≠ Q.slots → bad → exec (.append p q cmd) s = .next (s.toHostMsg (.refused p q))) ∧
    (Q.en = true → Q.tail - Q.head ≠ Q.slots → ¬bad →
      ∃ (t : State) (j : Journal), exec (.append p q cmd) s = .next t ∧ t.toHost.getLast? = some (.accepted p q P.jnext) ∧
        (t.part p).qcb q = { Q with tail := Q.tail + 1, pend := Q.pend ++ [(P.jnext, s.dtime)] } ∧
        (t.part p).jnext = P.jnext + 1 ∧ NMap.get? (t.part p).journal (P.jnext % 65536) = some j ∧
        (j.seq, j.queue, j.state, j.tapp, j.tlast, j.hash) = (P.jnext, q, 0x01, s.dtime, s.dtime, (sha512 c).take 16) ∧
        (s.Ordered → (∀ n, (s.ctx n).en = false) → Q.slots ≠ 0 → Q.base + 128 * Q.slots ≤ 768 * 2 ^ 30 →
          Memory.getBytes t.mem (Q.base + 128 * (Q.tail % Q.slots)) 128 = c)) ∧
    (Q.en = false → Q.slots ≠ 0 → ∃ t, exec (.qcbEnable p q) s = .next t ∧ t.mem = s.mem ∧
      (t.part p).qcb q = { Q with en := true, head := 0, tail := 0, pend := [] }) ∧
    (Q.en = true → ∃ t, exec (.qcbDisable p q) s = .next t ∧
      (t.part p).qcb q = { Q with en := false, head := Q.tail, pend := [] } ∧ (t.part p).selected ≠ some q ∧
      ∀ x ∈ Q.pend, ∀ j, NMap.get? P.journal (x.1 % 65536) = some j → j.seq = x.1 →
        (NMap.getD (t.part p).journal (x.1 % 65536) {}).state = 0x09)

/-- A decision of a partition in service that has none selected, with what its queues offer as read, selects of the eligible
candidates the one with the earliest effective deadline, then the lowest tier, then the lowest sequence number; every FLOOR-th
decision selects the highest tier, then the lowest sequence number; a command whose header is bad ends with its fault. A selected
command is placed once its bents are free: its container read, its launch runs in the region chosen, each slot for which the bent's
allocator has an identifier with a strand at the entry and the identifier; one whose container is refused, whose header is not the
one held, or that does not fit beside the partition's launches ends with its fault. A pre-empted launch resumes on as many bents
with its strands. (Rests on R261, R323, R324, R326, R347, R399.) Where the spec
leaves a point open this is the choice of the model: log entries 20 and 39. -/
def Obligations.DispatchAndPlacement : Prop :=
  ∀ (s : State) (p : Nat),
    let r := s.refresh p
    let P := r.part p
    let l := (r.cands p).filter (r.eligible p)
    (P.psvc = 0 → P.offline = false → s.device.refusedImage = none → P.selected = none → ∀ c ∈ l,
      (∀ x ∈ l, x ≠ c → if P.decision % max P.floor 1 = 0 then x.tier < c.tier ∨ (x.tier = c.tier ∧ c.seq < x.seq)
        else c.deadline < x.deadline ∨ (c.deadline = x.deadline ∧ (c.tier < x.tier ∨ (c.tier = x.tier ∧ c.seq < x.seq)))) →
      ∃ t, exec (.dispatchDecision p) s = .next t ∧ (t.part p).decision = P.decision + 1 ∧
        (c.fault = 0 → (t.part p).selected = some c.sel) ∧
        (c.fault ≠ 0 → (t.part p).selected = none ∧ ((t.part p).qcb c.sel).head = (P.qcb c.sel).head + 1 ∧
          ∀ j, NMap.get? P.journal (c.seq % 65536) = some j → j.seq = c.seq →
            ∃ k, NMap.get? (t.part p).journal (c.seq % 65536) = some k ∧ (k.state, k.fault) = (0x08, c.fault))) ∧
    (let d := s.deselect p
     ∀ c, d.selectedCand p = some c → (d.part p).psvc = 0 → (d.part p).offline = false → d.device.refusedImage = none →
      c.need ≤ (d.freeBents p).length →
      (∀ seq tapp l2 h x r2, c.sel < 256 → ((d.part p).qcb c.sel).pend = (seq, tapp) :: l2 → NMap.get? (d.part p).held c.sel = some h →
        let cmd := d.cmdAt p c.sel ((d.part p).qcb c.sel).head
        d.loadBox p (Cmd.of cmd).ctx (Cmd.of cmd).cbase = (r2, .inr x) → x.raw = h.header → r2.hbmUsed p + x.bytes ≤ partBytes →
        let lid := seq * 8 + p
        let region := r2.chooseBents p x.head.region x.images
        ∃ (t : State) (L : Launch), exec (.placement p) s = .next t ∧ t.launch? lid = some L ∧ L.phase = .running ∧
          L.region = region ∧ L.text = x.text ∧ L.bufs = x.bufs ∧ L.weights = x.weights ∧ L.hbm = x.bytes ∧ (L.seq, L.part, L.queue, L.tdisp) = (seq, p, c.sel, s.dtime) ∧
          (∀ n < region.length, (t.bent (region.getD n 0)).launch = some lid ∧ (t.bent (region.getD n 0)).index = n) ∧
          ∀ n < region.length, ∀ k < x.head.strands,
            (L.idAt n k = none → t.strand? (region.getD n 0) k = none) ∧
            ∀ id, L.idAt n k = some id → ∃ v, t.strand? (region.getD n 0) k = some v ∧ v.lid = lid ∧ v.state = .ready ∧
              v.pc = BitVec.ofNat 64 x.head.entry ∧ v.rx 1 = BitVec.ofNat 64 id ∧ v.wid = BitVec.ofNat 64 id) ∧
      (∀ seq tapp l2 h f r2, c.sel < 256 → ((d.part p).qcb c.sel).pend = (seq, tapp) :: l2 → NMap.get? (d.part p).held c.sel = some h →
        let cmd := d.cmdAt p c.sel ((d.part p).qcb c.sel).head
        let fails (code : Nat) : Prop := ∃ t, exec (.placement p) s = .next t ∧
          ((t.part p).qcb c.sel).head = ((d.part p).qcb c.sel).head + 1 ∧
          ∀ j, NMap.get? (d.part p).journal (seq % 65536) = some j → j.seq = seq →
            ∃ k, NMap.get? (t.part p).journal (seq % 65536) = some k ∧ (k.state, k.fault) = (0x08, code)
        (d.loadBox p (Cmd.of cmd).ctx (Cmd.of cmd).cbase = (r2, .inl f) → fails f) ∧
        ∀ x, d.loadBox p (Cmd.of cmd).ctx (Cmd.of cmd).cbase = (r2, .inr x) →
          (x.raw ≠ h.header → fails 0x03) ∧ (x.raw = h.header → partBytes < r2.hbmUsed p + x.bytes → fails 0x04)) ∧
      (256 ≤ c.sel → ∃ (t : State) (L : Launch), exec (.placement p) s = .next t ∧ t.launch? (c.sel - 256) = some L ∧
        L.phase = .running ∧ L.region = d.chooseBents p (d.launch (c.sel - 256)).savedRegion.length [] ∧
        ∀ n < L.region.length, (t.bent (L.region.getD n 0)).strands =
          (NMap.getD (d.launch (c.sel - 256)).savedBents n {}).strands))

/-- EN of a context set; cleared, its residency ends when no launch of it is placed or pre-empted, and then no translation of it
is left; a request to pre-empt or abort; a quiescent launch saved and its bents free; the gates reopen when quiescence has not come
within HANGNS, or where the memory for the saved state cannot be allocated; and the values of PSVC: serve, stop, pre-empt all, drain
all but the launches that the mode before saved, and offline. (Rests on R338, R344, R346, R350.) Where the spec leaves a point open this is the
choice of the model: log entries 3, 20 and 39. -/
def Obligations.ContextsAndPreemption : Prop :=
  ∀ (s : State) (p c : Nat) (v : Word),
    let P := s.part p
    let C := s.ctx c
    let ended (t : State) : Prop := t.ctx c = { C with en := false, ending := false } ∧ ∀ b, ∀ e ∈ (t.bent b).tlb, e.ctx ≠ c
    let seq := v.toNat % 2 ^ 48
    let op := v.toNat / 2 ^ 62
    let busy : Word := (v &&& 0xC000FFFFFFFFFFFF) ||| 0x0800000000000000
    let aborted (L : Launch) : Launch :=
      { L with fault := 0x0B, trapCause := 0, fpc := 0, fwho := 0, tfault := s.dtime, phase := .draining }
    (∃ t, exec (.contextEnable p c) s = .next t ∧ t.ctx c = { C with en := true, ending := false }) ∧
    (C.en = true → s.ctxBusy c = false → ∃ t, exec (.contextDisable p c) s = .next t ∧ ended t) ∧
    (C.en = true → s.ctxBusy c = true → ∃ t, exec (.contextDisable p c) s = .next t ∧ t.ctx c = { C with ending := true }) ∧
    (C.en = true → C.ending = true → s.ctxBusy c = false →
      ∃ t, exec (.contextResidencyEnd p c) s = .next t ∧ t.mem = s.mem ∧ ended t) ∧
    (∀ q ∈ [(Instr.preemptRequest p v, 1), (.abortRequest p v, 2)],
      (op = q.2 → P.preempting = none → s.launchOfSeq p seq = none → ∃ t, exec q.1 s = .next t ∧ t.launches = s.launches ∧
        (t.part p).preempt = (v &&& 0xC000FFFFFFFFFFFF) ||| 0x2000000000000000) ∧
      (P.preempting.isSome = true → exec q.1 s = .next s)) ∧
    (∀ lid L, P.preempting = none → s.launchOfSeq p seq = some lid → s.launch? lid = some L →
      (op = 1 → L.phase ≠ .preempted → ∃ t, exec (.preemptRequest p v) s = .next t ∧ t.launches = s.launches ∧
        (t.part p).preempt = busy ∧ (t.part p).preempting = some ⟨false, lid⟩) ∧
      (op = 2 → L.fault = 0 → L.phase ≠ .ended → ∃ t, exec (.abortRequest p v) s = .next t ∧ (t.part p).preempt = busy ∧
        t.launch? lid = some (aborted L))) ∧
    (∀ lid L, s.launchesOf p = [lid] → s.launch? lid = some L → L.part = p →
      (L.phase = .gating false → s.quiescent lid = true → partBytes < s.hbmUsed p + Config.saveBytes L.region.length →
        ∃ t, exec (.preemptQuiescent p) s = .next t ∧ t.mem = s.mem ∧
          t.launch? lid = some { L with phase := .running, lastProgress := s.dtime } ∧
          ∀ r, P.preempting = some r → r.lid = lid → (t.part p).preempting = none ∧
            (t.part p).preempt = (P.preempt &&& 0xC000FFFFFFFFFFFF) ||| 0x3000000000000000) ∧
      (L.phase = .gating false → s.quiescent lid = true → s.hbmUsed p + Config.saveBytes L.region.length ≤ partBytes →
        ∃ (t : State) (K : Launch), exec (.preemptQuiescent p) s = .next t ∧ t.launch? lid = some K ∧ K.phase = .preempted ∧
          K.region = [] ∧ K.savedRegion = L.region ∧ (∀ n < L.region.length, NMap.get? K.savedBents n =
            some (s.bent (L.region.getD n 0)).saved) ∧ ∀ b ∈ L.region, (t.bent b).launch = none ∧ (t.bent b).strands = []) ∧
      (L.phase = .running → L.scarfs = [] → P.wants lid = true → s.quiescent lid = false →
        ∃ t, exec (.preemptQuiescent p) s = .next t ∧ t.mem = s.mem ∧
          t.launch? lid = some { L with phase := .gating false, gatedAt := s.dtime }) ∧
      (L.phase = .gating false → L.gatedAt + P.hangNs ≤ s.dtime →
        ∃ t, exec (.preemptTimeout p) s = .next t ∧ t.mem = s.mem ∧
          t.launch? lid = some { L with phase := .running, lastProgress := s.dtime } ∧
          ∀ r, P.preempting = some r → r.lid = lid → (t.part p).preempting = none ∧
            (t.part p).preempt = (P.preempt &&& 0xC000FFFFFFFFFFFF) ||| 0x3000000000000000)) ∧
    (∃ t, exec (.psvcServe p) s = .next t ∧ (t.part p).readPsvc = 0 ∧
      (P.offline = true → ∀ b, b / 24 = p → ∀ off < 2 ^ 22, t.byte (spadAddr b off) = 0)) ∧
    (P.offline = false → ∃ t, exec (.psvcStopDispatch p) s = .next t ∧ t.mem = s.mem ∧ t.launches = s.launches ∧ (t.part p).readPsvc = 1) ∧
    (P.offline = false → ∃ t, exec (.psvcPreemptAll p) s = .next t ∧ t.mem = s.mem ∧ (t.part p).readPsvc = 2 ∧
      ∀ lid ∈ s.launchesOf p, ∀ L, s.launch? lid = some L → L.phase = .running → L.scarfs = [] →
        t.launch? lid = some { L with phase := .gating false, gatedAt := s.dtime }) ∧
    (P.offline = false → ∃ t, exec (.psvcDrainAll p) s = .next t ∧ t.mem = s.mem ∧ (t.part p).readPsvc = 3 ∧
      ∀ lid ∈ s.launchesOf p, ∀ L, s.launch? lid = some L →
        (L.phase ≠ .preempted ∨ L.savedByMode = false → L.phase ≠ .ended → L.fault = 0 → t.launch? lid = some (aborted L)) ∧
        (L.phase = .preempted → L.savedByMode = true → t.launch? lid = some L)) ∧
    (P.psvc ≠ 0 → (∀ lid ∈ s.launchesOf p, (s.launch lid).phase = .preempted) → P.preempting = none →
      ∃ t, exec (.partitionOffline p) s = .next t ∧ t.mem = s.mem ∧ t.launches = s.launches ∧
        (t.part p).readPsvc = BitVec.ofNat 64 (4 + P.psvc))

/-- A launch with nothing in progress completes when its sinks have counted what its command says, and else faults once none of its
cells can still reach a sink; one that makes
no progress for HANGNS drains; a draining launch loses its strands, cells, walks, parked work and packets, and once its closing
marker has passed it ends; an ended launch leaves its bents free, its journal record in its last state, and, at its end by
completion, its completion record where its command asks for it; a rollback puts memory, strands and control registers back to the
last cut with the cells gone, but for commands in enabled queues, where the cut holds no fold that still has to be carried out; one that escalates restarts the launch from its container, or ends it with the container's fault, and
a launch that cannot restart drains with 0x0C. (Rests on R271, R330, R348, R349, R369 to R372.)
Where the spec leaves a point open this is the choice of the model: log entry 40. -/
def Obligations.LaunchesEnd : Prop :=
  ∀ (s : State) (lid : Nat) (L : Launch), s.launch? lid = some L →
    let P := s.part L.part
    let gone (t : State) : Prop := t.launch? lid = none ∧ (∀ b ∈ L.region, (t.bent b).launch = none ∧ (t.bent b).strands = []) ∧
      (∀ j, NMap.get? P.journal (L.seq % 65536) = some j → j.seq = L.seq → ∃ k,
        NMap.get? (t.part L.part).journal (L.seq % 65536) = some k ∧
        (k.state, k.fault, k.tlast) = (if L.fault = 0 then 0x07 else 0x08, L.fault, s.dtime))
    let drains (t : State) (code : Nat) : Prop :=
      t.launch? lid = some { L with fault := code, trapCause := 0, fpc := 0, fwho := 0, tfault := s.dtime, phase := .draining }
    let tdone := if L.fault = 0 then s.dtime else L.tfault
    (s.finished lid = true →
      (s.sinkSum lid = L.sinks → ∃ t, exec (.launchCompletion lid) s = .next t ∧ gone t ∧
        (s.Ordered → (∀ q, (P.qcb q).pend = []) → ∀ va loc i j, spaceOf 0 L.compl = .host va →
          s.cpWalk L.part L.ctx true true va = .ok loc i → s.cpWalk L.part L.ctx true true (va + 8) = .ok (loc + 8) j →
          s.meetsQueue loc 64 = false →
          Memory.getBytes t.mem loc 64 =
            leBytes 8 (statusWord (if L.fault = 0 then 1 else 2) (decide (L.deadline < tdone)) L.fault L.trapCause) ++
              leBytes 8 L.seq ++ leBytes 8 L.tdisp ++ leBytes 8 tdone ++ leBytes 8 L.fpc.toNat ++ leBytes 2 L.fwho ++
              List.replicate 22 0)) ∧
      (s.sinkSum lid < L.sinks → s.maySink lid = true → exec (.launchCompletion lid) s = .next s) ∧
      (s.sinkSum lid < L.sinks → s.maySink lid = false → L.fault = 0 → ∃ t, exec (.launchCompletion lid) s = .next t ∧ t.mem = s.mem ∧ drains t 0x09) ∧
      (L.sinks < s.sinkSum lid → L.fault = 0 → ∃ t, exec (.launchCompletion lid) s = .next t ∧ t.mem = s.mem ∧ drains t 0x0A)) ∧
    (L.phase = .running → P.hangNs ≤ s.dtime - L.lastProgress → L.fault = 0 →
      ∃ t, exec (.hangDetected lid) s = .next t ∧ t.mem = s.mem ∧ drains t 0x0B) ∧
    (L.phase = .draining → ∃ (t : State) (K : Launch), exec (.regionDrain lid) s = .next t ∧ t.launch? lid = some K ∧
      K.phase = .closing ∧ (K.fault, K.tfault, K.region) = (L.fault, L.tfault, L.region) ∧ K.conts = [] ∧ K.readyList = [] ∧
      K.scarfs = [] ∧ (∀ q ∈ t.packets, q.lid ≠ lid) ∧
      ∀ b ∈ L.region, (s.bent b).launch = some lid → (t.bent b).launch = some lid ∧ (t.bent b).strands = [] ∧ (t.bent b).cells = [] ∧
        (t.bent b).walks = []) ∧
    (L.phase = .closing → ∃ t, exec (.regionDrain lid) s = .next t ∧ gone t) ∧
    (L.phase = .rolling →
      (L.escalates = false → (∀ m ∈ L.cutUnits, m.bent.cn.folds = []) →
        ∃ (t : State) (K : Launch), exec (.regionRollback lid) s = .next t ∧ t.launch? lid = some K ∧
        K.phase = .running ∧ K.cutRound = L.cutRound ∧ K.rolledAt = some L.cutRound ∧ K.undo = [] ∧
        t.mem = (L.undo.filter (fun u => L.afterCut u.round && !s.inQueueSlots u.base)).foldl
          (fun m u => Memory.putBytes m u.base u.old) s.mem ∧
        (L.region.Nodup → ∀ j < L.region.length, let B := t.bent (L.region.getD j 0)
          (B.ageLimit, B.dlWindow) = NMap.getD L.cutHandles.ctls j (256, 4096) ∧ B.voq = [] ∧ B.mq = [] ∧ B.inbuf = []) ∧
        (L.region.Nodup → (L.cutStrands.map (fun m => (m.bent, m.slot))).Nodup → (∀ m ∈ L.cutStrands, m.bent < L.region.length) →
          ∀ m ∈ L.cutStrands, t.strand? (L.region.getD m.bent 0) m.slot = some m.st.replay)) ∧
      (L.escalates = true → 1 ≤ L.restarts ∨ L.noRestart = true → L.fault = 0 →
        ∃ t, exec (.regionRollback lid) s = .next t ∧ t.mem = s.mem ∧ drains t 0x0C) ∧
      (L.escalates = true → L.restarts = 0 → L.noRestart = false → lid = L.seq * 8 + L.part →
        (∀ t1 f, (s.drainRegion lid).loadBox L.part L.ctx L.cbase.toNat = (t1, .inl f) →
          ∃ (t : State) (K : Launch), exec (.regionRollback lid) s = .next t ∧ t.launch? lid = some K ∧ K.phase = .draining ∧
            (K.fault, K.tfault) = (f, s.dtime)) ∧
        ∀ t1 x, (s.drainRegion lid).loadBox L.part L.ctx L.cbase.toNat = (t1, .inr x) →
          (t1.eraseLaunch lid).hbmUsed L.part + x.bytes ≤ partBytes →
          ((t1.eraseLaunch lid).chooseBents L.part x.head.region x.images).length = x.head.region →
          ∃ (t : State) (K : Launch), exec (.regionRollback lid) s = .next t ∧ t.launch? lid = some K ∧ K.phase = .running ∧
            K.restarts = 1 ∧ K.text = x.text ∧ (K.seq, K.part, K.deadline, K.tdisp) = (L.seq, L.part, L.deadline, L.tdisp)))

/-- Errors are counted and what they hit is poisoned, rolled back or lost; a patrol scrub changes nothing; a repair is busy from
its write, and ends with the spare mapped or unmapped and the bent clean, or with the result that says why not; a link that loses
lanes has half its window and weight and twice its cost until they are back, and advertises the cost; a link that fails loses
messages of its own only. (Rests on R354, R365 to R367, R371, R375, R376, R79.) Where
the spec leaves a point open this is the choice of the model: log entries 3, 10, 11 and 42. -/
def Obligations.ErrorsAndRepair : Prop :=
  ∀ (s : State) (p a b e l : Nat) (u : ErrUnit) (v : Word),
    let P := s.part p
    let up (n : Nat) : Nat := min (2 ^ 32 - 1) (n + 1)
    (∃ t, exec (.correctedError p u) s = .next t ∧ t.mem = s.mem ∧ t.poison = s.poison ∧ t.bents = s.bents ∧
      t.part p = { P with ce := up P.ce }) ∧
    exec (.patrolScrub p a) s = .next s ∧
    (∃ t, exec (.eccstatClear p) s = .next t ∧ t.mem = s.mem ∧ (t.part p).readEccstat = 0) ∧
    (∃ t, exec (.uncorrectableError p u) s = .next t ∧ t.mem = s.mem ∧ (t.part p).ue = up P.ue ∧
      t.toHost.getLast? = some (.uncorrectable p u)) ∧
    (∃ t, exec (.uncorrectableError p (.mem a)) s = .next t ∧ t.poisonedUnit (unitBase a) = true ∧ t.bents = s.bents) ∧
    (∀ lid L, (s.bent b).launch = some lid → s.launch? lid = some L →
      let hit : Launch := { L with phase := .rolling }
      L.phase = .running ∨ L.phase = .rolling →
      (∃ t, exec (.uncorrectableError p (.engine b e)) s = .next t ∧ t.launch? lid = some hit) ∧
      ∃ t, exec (.uncorrectableError p (.header b e)) s = .next t ∧ t.launch? lid = some hit ∧
        NMap.getD (t.bent b).inbuf e [] = (NMap.getD (s.bent b).inbuf e []).drop 1) ∧
    (∀ q ∈ [(Instr.repairMap p v, false), (.repairUnmap p v, true)],
      let n := v.toNat / 2 ^ 8 % 256
      v.getLsbD 16 = q.2 → P.repairing = none → n < 192 → (s.part (n / 24)).offline = true →
      ∃ t, exec q.1 s = .next t ∧ t.mem = s.mem ∧ (t.part p).repair = (v &&& 0xFF01) ||| 0x8000000000000000 ∧
        (t.part p).repairing = some (q.2, n, v.toNat % 2)) ∧
    (∀ unmap n spare, P.repairing = some (unmap, n, spare) →
      let result (t : State) (r : Nat) : Prop := (t.part p).repairing = none ∧
        (t.part p).repair = (P.repair &&& 0xFF01) ||| BitVec.ofNat 64 (r * 2 ^ 61)
      let clean (t : State) : Prop := (∀ off < 2 ^ 22, t.byte (spadAddr n off) = 0) ∧ t.bent n = {} ∧
        (t.part (n / 24)).readDisagree (n % 24) = 0
      ((Config.fusedMap n).isSome = true → ∃ t, exec (.repairMappingDone p) s = .next t ∧ result t 2 ∧ t.device = s.device ∧ t.bents = s.bents) ∧
      ((Config.fusedMap n).isSome = false → unmap = true → NMap.has s.device.spares n = true →
        ∃ t, exec (.repairMappingDone p) s = .next t ∧ result t 1 ∧ clean t ∧ NMap.get? t.device.spares n = none) ∧
      ((Config.fusedMap n).isSome = false → unmap = true → NMap.has s.device.spares n = false →
        ∃ t, exec (.repairMappingDone p) s = .next t ∧ result t 1 ∧ t.device = s.device ∧ t.bents = s.bents) ∧
      ((Config.fusedMap n).isSome = false → unmap = false → s.spareUsed n spare = true →
        ∃ t, exec (.repairMappingDone p) s = .next t ∧ result t 2 ∧ t.device = s.device ∧ t.bents = s.bents) ∧
      ((Config.fusedMap n).isSome = false → unmap = false → s.spareUsed n spare = false → Config.spareFaulty (n / 48) spare = true →
        ∃ t, exec (.repairMappingDone p) s = .next t ∧ result t 3 ∧ t.device = s.device ∧ t.bents = s.bents) ∧
      ((Config.fusedMap n).isSome = false → unmap = false → s.spareUsed n spare = false → Config.spareFaulty (n / 48) spare = false →
        ∃ t, exec (.repairMappingDone p) s = .next t ∧ result t 1 ∧ clean t ∧ NMap.get? t.device.spares n = some spare)) ∧
    (∀ x, s.link l = x → x.failed = false →
      (x.half = false → ∃ t, exec (.laneLoss l) s = .next t ∧ t.linkWindow l = Config.linkWindow l / 2 ∧
        t.linkWeight l = Config.linkWeight l / 2 ∧ t.linkCost l = Config.linkCost l * 2 ∧ t.toHost = s.toHost ++ [.lane l true] ∧
        t.toPeers = s.toPeers ++ [.cost l (Config.linkCost l * 2)]) ∧
      (x.half = true → ∃ t, exec (.laneRestore l) s = .next t ∧ t.linkWindow l = Config.linkWindow l ∧
        t.linkWeight l = Config.linkWeight l ∧ t.linkCost l = Config.linkCost l ∧ t.toHost = s.toHost ++ [.lane l false] ∧
        t.toPeers = s.toPeers ++ [.cost l (Config.linkCost l)]) ∧
      ∃ t, exec (.flitReplay l) s = .next t ∧ t.mem = s.mem ∧ t.link l = { x with replays := x.replays + 1 }) ∧
    ∃ t, exec (.linkFailure l) s = .next t ∧ t.mem = s.mem ∧ (t.link l).failed = true ∧ t.toPeers.Sublist s.toPeers ∧
      ∀ m ∈ s.toPeers, (∀ d, m.device = some d → portTo d ≠ l) → m ∈ t.toPeers

/-- Host writes through the data window; firmware supplied and taken or refused; reports of nonces in order; key slots loaded and
cleared with their results; debug unlocked behind a token, with memory zero, keys gone and no launch left; supplies, temperature
and reset; the measurement of power; the fabric identifier while no collective runs; and registers whose tables alone say what a
write does. (Rests on R352, R380, R381, R383 to R388, R398.) Where the spec leaves a point open this is the choice of the model:
log entries 3, 9, 11, 27, 28 and 42. -/
def Obligations.DeviceWindow : Prop :=
  ∀ (s : State) (p c n w tj : Nat) (v addr : Word) (l x : List Byte),
    let D := s.device
    let P := s.part p
    let K := s.device.keySlots
    (2 ^ 52 ≤ addr.toNat → exec (.hostWindowWrite p c addr l) s = .next (s.toHostMsg (.windowRefused p addr.toNat))) ∧
    (addr.toNat < 2 ^ 52 → ∀ t1, s.hostLocs p c addr.toNat l.length = (t1, none) →
      exec (.hostWindowWrite p c addr l) s = .next (t1.toHostMsg (.windowRefused p addr.toNat))) ∧
    (addr.toNat < 2 ^ 52 → s.Ordered → ∀ t1 as, s.hostLocs p c addr.toNat l.length = (t1, some as) → as.Nodup →
      ∃ t, exec (.hostWindowWrite p c addr l) s = .next t ∧ (∀ k < l.length, t.byte (as.getD k 0) = l.getD k 0) ∧
        ∀ a, a ∉ as → t.byte a = t1.byte a) ∧
    (let ok := (P.offline = true ∨ D.refusedImage.isSome = true) ∧ n < 3 ∧ Config.firmwareSignatureOk x = true ∧
       NMap.getD D.fwMin n 0 ≤ w
     (¬ok → exec (.firmwareReplace p n w x) s = .next (s.toHostMsg (.firmwareRefused n))) ∧
     (ok → ∃ t, exec (.firmwareReplace p n w x) s = .next t ∧ t.mem = s.mem ∧ t.device.image n = x ∧
       NMap.get? t.device.fwVersion n = some w ∧ NMap.get? t.device.fwMin n = some w)) ∧
    (D.forming = none → ∃ t, exec (.attestationRequest x) s = .next t ∧ t.device.forming = some x ∧ t.device.nonces = D.nonces) ∧
    (D.forming.isSome = true → ∃ t, exec (.attestationRequest x) s = .next t ∧ t.device.forming = D.forming ∧
      t.device.nonces = D.nonces ++ [x]) ∧
    (D.forming = some x → ∃ t, exec .attestationReportDone s = .next t ∧ t.device.lastNonce = padTo 64 0 x ∧
      t.device.report = s.reportBody x ++ padTo 132 0 (Config.attestationSignature (s.reportBody x)) ∧
      t.device.report.length = 512 ∧ t.device.forming = D.nonces.head? ∧ t.device.nonces = D.nonces.drop 1) ∧
    (∀ q ∈ [(Instr.keyLoad v, 1, true), (.keyClear v, 2, false)], v.toNat / 2 ^ 58 % 4 = q.2.1 → D.keyBusy = none →
      ∃ t, exec q.1 s = .next t ∧ t.mem = s.mem ∧ t.device.keySlots = K ∧
        t.device.keycmd = (v &&& 0x003FFFFFFFFFFFC0) ||| 0x8000000000000000 ∧
        t.device.keyBusy = some (q.2.2, v.toNat / 2 ^ 48 % 64, v.toNat % 2 ^ 48 / 64 * 64)) ∧
    (∀ load slot a, D.keyBusy = some (load, slot, a) →
      let blob := Memory.getBytes s.mem a 193
      let done (r : Nat) (K2 : NMap (List Byte)) : Prop := ∃ t, exec .keycmdDone s = .next t ∧ t.mem = s.mem ∧
        t.device.keyBusy = none ∧ t.device.keySlots = K2 ∧
        t.device.keycmd = (D.keycmd &&& 0x003FFFFFFFFFFFC0) ||| BitVec.ofNat 64 (r * 2 ^ 60)
      (load = true → D.debug = true → done 4 K) ∧
      (load = false ∨ D.debug = false → s.keyInUse slot = true → done 3 K) ∧
      (load = false → s.keyInUse slot = false → done 1 (NMap.erase K slot)) ∧
      (load = true → D.debug = false → s.keyInUse slot = false → a + 193 ≤ 768 * 2 ^ 30 →
        (Config.keyBlobOk slot blob = true → done 1 (NMap.set K slot blob)) ∧
        (Config.keyBlobOk slot blob = false → done 2 K))) ∧
    (D.lastNonce ≠ [] → Config.debugTokenOk (x ++ D.lastNonce) = true →
      ∃ t, exec (.debugUnlock x) s = .next t ∧ t.device.debug = true ∧ t.device.keySlots = [] ∧ t.launches = [] ∧ t.bents = [] ∧
        ∀ a, (2 ^ 60 ≤ a ∧ a < 2 ^ 80) ∨ t.byte a = 0) ∧
    (D.lastNonce = [] ∨ Config.debugTokenOk (x ++ D.lastNonce) = false → exec (.debugUnlock x) s = .next s) ∧
    (∀ i ∈ [Instr.supplyOutOfRange n, .thermalShutdown], ∃ t, exec i s = .next t ∧ t.mem = s.mem ∧ t.parts = s.parts ∧
      t.device = { D with inReset := true }) ∧
    (D.inReset = true → ∃ t, exec .resetRelease s = .next t ∧ t.launches = [] ∧ t.parts = [] ∧ t.bents = [] ∧ t.dtime = s.dtime ∧
      t.device.inReset = false ∧ (t.device.debug, t.device.keySlots, t.device.fabidValid, t.device.pwrcap) = (false, [], false, 2100) ∧
      ∀ a, t.byte a = if 2 ^ 60 ≤ a ∧ a < 2 ^ 80 then s.byte a else 0) ∧
    (∃ t, exec (.powerMeasurement w tj) s = .next t ∧ t.mem = s.mem ∧ t.device.watts = w % 2 ^ 12 ∧ t.device.tj = tj % 2 ^ 12 ∧
      420 ≤ t.device.mv ∧ t.device.mv ≤ 520 ∧ t.device.gate ≤ max 15 D.gate ∧ (w ≤ D.pwrcap → tj ≤ 840 → t.device.gate ≤ D.gate) ∧
      (D.pwrcap < w ∨ 840 < tj → 1 ≤ t.device.gate ∧ t.device.gate ≤ 15) ∧
      t.device.inReset = (D.inReset || decide (920 ≤ tj % 2 ^ 12))) ∧
    (s.scarfRunning = true → exec (.fabidWrite v) s = .next s) ∧
    (s.scarfRunning = false → ∃ t, exec (.fabidWrite v) s = .next t ∧ t.mem = s.mem ∧
      t.device.readFabid = BitVec.ofNat 64 (2 ^ 16 + v.toNat % 2 ^ 16)) ∧
    (let wrote (off : Nat) (f : State → Prop) : Prop := ∃ t, exec (.registerWrite (.partition p) off v) s = .next t ∧ f t
     p < 8 →
      (∀ k < 8, wrote (0x800 + 8 * k) (fun t => (t.part p).tierOff.toList.getD k 0 = v.toNat % 2 ^ 40)) ∧
      wrote 0x840 (fun t => (t.part p).floor = min 64 (max 4 v.toNat)) ∧
      wrote 0x868 (fun t => (t.part p).hangNs = min (2 ^ 40 - 1) (max (10 ^ 6) v.toNat)) ∧
      wrote 0x880 (fun t => (t.part p).vtthr = max 1 (v.toNat % 128)) ∧
      (∀ k < 64, (s.ctx k).en = false →
        wrote (0x1000 + 64 * k) (fun t => t.ctx k = { s.ctx k with droot := v.toNat }) ∧
        wrote (0x1008 + 64 * k) (fun t => t.ctx k = { s.ctx k with hroot := v.toNat }) ∧
        wrote (0x1010 + 64 * k) (fun t => t.ctx k =
          { s.ctx k with kslot := v.toNat % 64, pmask := v.toNat / 2 ^ 8 % 256 })) ∧
      ∀ k < 256, (P.qcb k).en = false →
        (v.toNat % 4096 = 0 → wrote (0x4000 + 64 * k) (fun t => (t.part p).qcb k = { P.qcb k with base := v.toNat })) ∧
        ∀ e, 4 ≤ e → e ≤ 16 → v.toNat % 2 ^ 32 = 2 ^ e →
          wrote (0x4008 + 64 * k) (fun t => (t.part p).qcb k = { P.qcb k with slots := 2 ^ e })) ∧
    ∃ t, exec (.registerWrite .device 0 v) s = .next t ∧ t.mem = s.mem ∧ t.device = { D with pwrcap := min 2100 (max 600 v.toNat) }

/-- Words written out from their encodings decode to the instructions they stand for, a word of each family; the words 0 and
0xFFFFFFFF, a reserved type code and a reserved field are no instructions. (Rests on R82 to R92.) -/
def Obligations.WordsDecode : Prop :=
  (∀ p ∈ [((0b0000001_11110_01010_10110_100_0000000 : Word32), Instr.add 30 10 22 .w),
      (0b0000110_10110_10010_000000010_110000, .srai 22 18 48), (0b0001000_01001_10111_010101_011110_000, .bfx 9 23 21 30),
      (0b1010000_00000_00000_0000000000_00000, .nop), (0b1010000_00000_00000_0000000000_00010, .rft)],
    decodeSeq p.1 = some p.2) ∧
  (∀ d a : XReg, ∀ off : BitVec 7, decodeSeq ((0b0101000#7 : BitVec 7) ++ d ++ a ++ 1#3 ++ 1#2 ++ 4#3 ++ off) =
    some (.ld d a .bent .acq .w off)) ∧
  (∀ d a : XReg, ∀ n : BitVec 10, n ≠ 0x023 → n ≠ 0x040 →
    decodeSeq ((0b1010001#7 : BitVec 7) ++ d ++ 0#5 ++ n ++ 0#5) = some (.ctlRd d n) ∧
    decodeSeq ((0b1010001#7 : BitVec 7) ++ 0#5 ++ a ++ n ++ 1#5) = some (.ctlWr a n)) ∧
  decodeOpw 0b001000_00_0001001_1000110_0001100_1_1_0 = some (.vdiv 9 70 12 true true false) ∧
  decodeOpw 0b101000_00_0000000_0000000_0000000_000 = some .vend ∧
  decodeSeq 0 = none ∧ decodeSeq 0xFFFFFFFF = none ∧ decodeSeq 0b0000001_11110_01010_10110_111_0000000 = none ∧
  decodeSeq 0b1010000_00001_00000_0000000000_00000 = none

/-- The word of every well-formed sequencer instruction and op-word, with every operand at every value its encoding admits,
decodes to that instruction: no bit of an operand is dropped. (Rests on R82 to R92.) -/
def Obligations.EncodedWordsDecode : Prop :=
  ∀ (i : Instr) (w : Word32), WellFormed i = true → encode i = [w] → decodeSeq w = some i ∨ decodeOpw w = some i

/-- A strand whose next word is no instruction, or lies outside its launch's text, takes the trap with cause 0x0001 or 0x0003 in
place of an instruction. (Rests on R84, R118.) -/
def Obligations.WordsThatAreNoInstruction : Prop :=
  (∀ (L : Launch) (pc : Word),
    (L.text.length < pc.toNat + 4 → L.fetch pc = .instructionFetchFault) ∧
    (pc.toNat + 4 ≤ L.text.length → ∃ w, L.word pc = some w ∧ L.fetch pc = (decodeSeq w).getD .illegalInstruction) ∧
    ∀ w, L.word pc = some w → decodeSeq w = none → L.fetch pc = .illegalInstruction) ∧
  (∀ (s : State) (b k : Nat) (st : Strand), s.Current b k st →
    exec .illegalInstruction s = .next (s.trap b k st 0x0001) ∧ exec .instructionFetchFault s = .next (s.trap b k st 0x0003))

/-- A step takes the act at the head of the agenda after its time: a strand runs the instruction that its word decodes to, a
routine its op-word, an engine the operation that stands before it, a unit or the host its step, each as `exec` runs it; what is
added is the time at which a launch that advanced made progress. In a gated slot no engine consumes, and a device in reset does
nothing before its release. With an empty agenda the automatic policy of log entry 1 picks,
and its unit steps are those that `exec` runs. Where the spec leaves a point open this is the choice of the model: log entries 1
and 45. -/
def Obligations.StepRunsTheInstruction : Prop :=
  (∀ (s : State) (dt : Nat) (a : Act) (l : List Turn), s.agenda = { dt := dt, act := a } :: l → s.device.inReset = false →
    let u : State := { s with agenda := l, dtime := s.dtime + dt }
    let runs (i : Instr) (c : Cur) : Prop :=
      let v : State := { u with cur := c }
      (∀ t, exec i v = .next t → step s = .next (v.credit t) ∧
        ({ v.credit t with launches := t.launches } : State) = t ∧
        ∀ lid L, t.launch? lid = some L → ∃ n, (v.credit t).launch? lid = some { L with lastProgress := n }) ∧
      (∀ f, exec i v = .fault f → step s = .fault f) ∧ ∀ r, exec i v = .refused r → step s = .refused r
    (∀ b k st w i, a = .strand b k → s.strand? b k = some st → st.saved.isSome = true ∨ st.pend = [] →
      (s.launch st.lid).word st.pc = some w → decodeSeq w = some i → runs i (.strand b k)) ∧
    (∀ b k st, a = .strand b k → s.strand? b k = some st → st.saved = none → st.pend ≠ [] → runs (.pendingTrapDelivery b k) .none) ∧
    (∀ b t r R w i, a = .routine b t r → NMap.get? (s.tenon b t).routines r = some R → R.lo ≤ R.pc → R.pc < R.hi →
      (s.launch R.side.lid).opwords[R.pc]? = some w → decodeOpw w = some i → runs i (.routine b t r)) ∧
    (∀ b e i, a = .engine b e → s.gated b = false → u.engineInstr b e = some i → runs i .none) ∧
    (∀ b e, a = .engine b e → s.gated b = true → step s = .next u) ∧
    (∀ i, a = .device i → WellFormed i = true → isStep i = true → (∀ b, consumer i = some b → s.gated b = false) → runs i .none) ∧
    (∀ i b, a = .device i → consumer i = some b → s.gated b = true → step s = .next u)) ∧
  (∀ (s : State) (dt : Nat) (a : Act) (l : List Turn), s.agenda = { dt := dt, act := a } :: l → s.device.inReset = true →
    a ≠ .device .resetRelease → step s = .next { s with agenda := l, dtime := s.dtime + dt }) ∧
  (∀ s : State, s.agenda = [] → s.pick = none → step s = .next { s with auto := s.auto + 1, dtime := s.dtime + 1 }) ∧
  (∀ (s : State) (x : Auto), s.agenda = [] → s.pick = some x → step s = ({ s with auto := s.auto + 1, dtime := s.dtime + 1 } : State).runAuto x) ∧
  ∀ (s : State) (n m : Nat), ∀ q ∈ [(Auto.remoteRequest n, Instr.remoteRequest n), (.remoteResponse n, .remoteResponse n),
      (.tableWalk n, .tableWalk n), (.tlbMissRetry n, .tlbMissRetry n), (.pageScrub n, .pageScrub n),
      (.dispatchDecision n, .dispatchDecision n), (.placement n, .placement n), (.contextResidencyEnd n m, .contextResidencyEnd n m),
      (.tlbinvComplete n, .tlbinvComplete n), (.preemptQuiescent n, .preemptQuiescent n), (.preemptTimeout n, .preemptTimeout n),
      (.hangDetected n, .hangDetected n), (.regionDrain n, .regionDrain n), (.regionRollback n, .regionRollback n),
      (.partitionOffline n, .partitionOffline n), (.scarfStepTimeout n m, .scarfStepTimeout n m), (.scarfResend n m, .scarfResend n m),
      (.deadlockDetection n m, .deadlockDetection n m)], q.1.meaning s = exec q.2 s

/-- What the spec says of the machine after reset (R319, R324, R325, R344, R348, R350, R367, R374, R378, R387, R388): no launch is
placed, every queue is disabled, FLOOR, the tier offsets, HANGNS and VTTHR have their values, the journal's next number is 1,
debug is locked, no key is loaded and no fabric identifier is valid; the memory, of which nothing is listed (log entry 3), has its
canonical form. The registers of a bent at placement: R62, R64, R253, R257. Where the spec leaves a point open this is the choice
of the model: log entries 2 and 3. -/
def Obligations.ResetState : Prop :=
  let r := State.reset
  r.Ordered ∧ r.launches = [] ∧ (r.device.debug, r.device.keySlots, r.device.fabidValid, r.device.pwrcap) = (false, [], false, 2100) ∧
  (∀ p, (∀ q, ((r.part p).qcb q).en = false) ∧ (∀ c, (r.ctx c).en = false) ∧ (r.part p).decision = 1 ∧ (r.part p).floor = 16 ∧
    (r.part p).tierOff.toList = [7000000, 6000000, 5000000, 4000000, 3000000, 2000000, 1000000, 0] ∧ (r.part p).hangNs = 10 ^ 8 ∧
    (r.part p).vtthr = 16 ∧ (r.part p).jnext = 1 ∧ (r.part p).readPsvc = 0 ∧ (r.part p).readEccstat = 0 ∧
    ∀ j, (r.part p).readDisagree j = 0) ∧
  ∀ (B : Bent) (lid ix : Nat), (B.placed lid ix).ageLimit = 256 ∧ (B.placed lid ix).dlWindow = 4096 ∧ (B.placed lid ix).strands = [] ∧
    (B.placed lid ix).granules = [] ∧ (B.placed lid ix).sinks = [] ∧ (B.placed lid ix).cells = []

/-- Every step keeps the canonical form of the memory: addresses rising, and no listed byte zero. Where the spec leaves a point
open this is the choice of the model: log entry 3. -/
def Obligations.StepKeepsMemoryOrdered : Prop :=
  ∀ s t : State, s.Ordered → step s = .next t → t.Ordered
end

