-- ==== Sys2Proof/Laws/Encoding.lean ====
section
/-! SUPPORT. Fields of a packed word: each is what was packed, in every format of R82 and R90, and the small-valued fields of R83
are read back from their codes. -/

namespace Sys2Proof

theorem extract_append_low {m n : Nat} (x : BitVec m) (y : BitVec n) (lo k : Nat) (h : lo + k ≤ n) :
    (x ++ y).extractLsb' lo k = y.extractLsb' lo k := by
  ext i hi
  simp [BitVec.getLsbD_append, show lo + i < n by omega]

theorem extract_append_high {m n : Nat} (x : BitVec m) (y : BitVec n) (lo k : Nat) (h : n ≤ lo) :
    (x ++ y).extractLsb' lo k = x.extractLsb' (lo - n) k := by
  ext i hi
  simp [BitVec.getLsbD_append, show ¬ lo + i < n by omega, show lo + i - n = lo - n + i by omega]

theorem RegW.of_pack (m : BitVec 7) (f : RegW) : RegW.of (RegW.pack m f) = f ∧ major (RegW.pack m f) = m := by
  cases f
  simp (disch := omega) only [RegW.of, RegW.pack, major, extract_append_low, extract_append_high, Nat.reduceSub,
    BitVec.extractLsb'_eq_self, and_self]

theorem TriW.of_pack (m : BitVec 7) (f : TriW) : TriW.of (TriW.pack m f) = f ∧ major (TriW.pack m f) = m := by
  cases f
  simp (disch := omega) only [TriW.of, TriW.pack, major, extract_append_low, extract_append_high, Nat.reduceSub,
    BitVec.extractLsb'_eq_self, and_self]

theorem ImmW.of_pack (m : BitVec 7) (f : ImmW) : ImmW.of (ImmW.pack m f) = f ∧ major (ImmW.pack m f) = m := by
  cases f
  simp (disch := omega) only [ImmW.of, ImmW.pack, major, extract_append_low, extract_append_high, Nat.reduceSub,
    BitVec.extractLsb'_eq_self, and_self]

theorem WideW.of_pack (m : BitVec 7) (f : WideW) : WideW.of (WideW.pack m f) = f ∧ major (WideW.pack m f) = m := by
  cases f
  simp (disch := omega) only [WideW.of, WideW.pack, major, extract_append_low, extract_append_high, Nat.reduceSub,
    BitVec.extractLsb'_eq_self, and_self]

theorem BfW.of_pack (m : BitVec 7) (f : BfW) : BfW.of (BfW.pack m f) = f ∧ major (BfW.pack m f) = m := by
  cases f
  simp (disch := omega) only [BfW.of, BfW.pack, major, extract_append_low, extract_append_high, Nat.reduceSub,
    BitVec.extractLsb'_eq_self, and_self]

theorem BrW.of_pack (m : BitVec 7) (f : BrW) : BrW.of (BrW.pack m f) = f ∧ major (BrW.pack m f) = m := by
  cases f
  simp (disch := omega) only [BrW.of, BrW.pack, major, extract_append_low, extract_append_high, Nat.reduceSub,
    BitVec.extractLsb'_eq_self, and_self]

theorem JmpW.of_pack (m : BitVec 7) (f : JmpW) : JmpW.of (JmpW.pack m f) = f ∧ major (JmpW.pack m f) = m := by
  cases f
  simp (disch := omega) only [JmpW.of, JmpW.pack, major, extract_append_low, extract_append_high, Nat.reduceSub,
    BitVec.extractLsb'_eq_self, and_self]

theorem MemW.of_pack (m : BitVec 7) (f : MemW) : MemW.of (MemW.pack m f) = f ∧ major (MemW.pack m f) = m := by
  cases f
  simp (disch := omega) only [MemW.of, MemW.pack, major, extract_append_low, extract_append_high, Nat.reduceSub,
    BitVec.extractLsb'_eq_self, and_self]

theorem AmoW.of_pack (m : BitVec 7) (f : AmoW) : AmoW.of (AmoW.pack m f) = f ∧ major (AmoW.pack m f) = m := by
  cases f
  simp (disch := omega) only [AmoW.of, AmoW.pack, major, extract_append_low, extract_append_high, Nat.reduceSub,
    BitVec.extractLsb'_eq_self, and_self]

theorem HndW.of_pack (m : BitVec 7) (f : HndW) : HndW.of (HndW.pack m f) = f ∧ major (HndW.pack m f) = m := by
  cases f
  simp (disch := omega) only [HndW.of, HndW.pack, major, extract_append_low, extract_append_high, Nat.reduceSub,
    BitVec.extractLsb'_eq_self, and_self]

theorem SysW.of_pack (m : BitVec 7) (f : SysW) : SysW.of (SysW.pack m f) = f ∧ major (SysW.pack m f) = m := by
  cases f
  simp (disch := omega) only [SysW.of, SysW.pack, major, extract_append_low, extract_append_high, Nat.reduceSub,
    BitVec.extractLsb'_eq_self, and_self]

theorem OpW.of_pack (n : BitVec 6) (f : OpW) : OpW.of (OpW.pack n f) = f ∧ opn (OpW.pack n f) = n := by
  cases f
  simp (disch := omega) only [OpW.of, OpW.pack, opn, extract_append_low, extract_append_high, Nat.reduceSub,
    BitVec.extractLsb'_eq_self, and_self]

@[simp] theorem ITy.ofCode_code (t : ITy) : ITy.ofCode t.code = some t := by cases t <;> rfl
@[simp] theorem Scope.ofCode_code (s : Scope) : Scope.ofCode s.code = some s := by cases s <;> rfl
@[simp] theorem Order.ofCode_code (o : Order) : Order.ofCode o.code = o := by cases o <;> rfl
@[simp] theorem Rnd.ofCode_code (r : Rnd) : Rnd.ofCode r.code = some r := by cases r <;> rfl
@[simp] theorem VTy.ofCode_code (t : VTy) : VTy.ofCode t.code = t := by cases t <;> rfl
@[simp] theorem VLvl.ofCode_code (l : VLvl) : VLvl.ofCode l.code = l := by cases l <;> rfl

@[simp] theorem fReg_fField (r : FReg) : fReg (fField r) = some r := by
  simp (disch := omega) only [fReg, fField, extract_append_low, extract_append_high, Nat.reduceSub, BitVec.extractLsb'_eq_self]
  rfl

@[simp] theorem cReg_cField (r : CReg) : cReg (cField r) = some r := by
  simp (disch := omega) only [cReg, cField, extract_append_low, extract_append_high, Nat.reduceSub, BitVec.extractLsb'_eq_self]
  rfl

@[simp] theorem need_true {c : Bool} (h : c = true) : need c = some () := by simp [need, h]

@[simp] theorem mBits_m2 (t : BitVec 2) (d a b : BitVec 7) (z y x : Bool) : OpW.m2 ⟨t, d, a, b, mBits z y x⟩ = z := by
  simp only [OpW.m2]; cases z <;> cases y <;> cases x <;> decide
@[simp] theorem mBits_m1 (t : BitVec 2) (d a b : BitVec 7) (z y x : Bool) : OpW.m1 ⟨t, d, a, b, mBits z y x⟩ = y := by
  simp only [OpW.m1]; cases z <;> cases y <;> cases x <;> decide
@[simp] theorem mBits_m0 (t : BitVec 2) (d a b : BitVec 7) (z y x : Bool) : OpW.m0 ⟨t, d, a, b, mBits z y x⟩ = x := by
  simp only [OpW.m0]; cases z <;> cases y <;> cases x <;> decide

/-! The decoder at each major opcode (R85): the group it hands the word to. -/

theorem decodeSeq_01 (f : RegW) : decodeSeq (RegW.pack 0x01 f) = decInt f := by
  unfold decodeSeq; rw [(RegW.of_pack 0x01 f).2, (RegW.of_pack 0x01 f).1]; rfl
theorem decodeSeq_02 (f : ImmW) : decodeSeq (ImmW.pack 0x02 f) = some (.addi f.d f.a f.imm) := by
  unfold decodeSeq; rw [(ImmW.of_pack 0x02 f).2, (ImmW.of_pack 0x02 f).1]; rfl
theorem decodeSeq_03 (f : ImmW) : decodeSeq (ImmW.pack 0x03 f) = some (.andi f.d f.a f.imm) := by
  unfold decodeSeq; rw [(ImmW.of_pack 0x03 f).2, (ImmW.of_pack 0x03 f).1]; rfl
theorem decodeSeq_04 (f : ImmW) : decodeSeq (ImmW.pack 0x04 f) = some (.ori f.d f.a f.imm) := by
  unfold decodeSeq; rw [(ImmW.of_pack 0x04 f).2, (ImmW.of_pack 0x04 f).1]; rfl
theorem decodeSeq_05 (f : ImmW) : decodeSeq (ImmW.pack 0x05 f) = some (.xori f.d f.a f.imm) := by
  unfold decodeSeq; rw [(ImmW.of_pack 0x05 f).2, (ImmW.of_pack 0x05 f).1]; rfl
theorem decodeSeq_06 (f : ImmW) : decodeSeq (ImmW.pack 0x06 f) = decShift f := by
  unfold decodeSeq; rw [(ImmW.of_pack 0x06 f).2, (ImmW.of_pack 0x06 f).1]; rfl
theorem decodeSeq_07 (f : WideW) : decodeSeq (WideW.pack 0x07 f) = decWide f := by
  unfold decodeSeq; rw [(WideW.of_pack 0x07 f).2, (WideW.of_pack 0x07 f).1]; rfl
theorem decodeSeq_08 (f : BfW) : decodeSeq (BfW.pack 0x08 f) = decBf f := by
  unfold decodeSeq; rw [(BfW.of_pack 0x08 f).2, (BfW.of_pack 0x08 f).1]; rfl
theorem decodeSeq_09 (f : RegW) : decodeSeq (RegW.pack 0x09 f) = decCmp f := by
  unfold decodeSeq; rw [(RegW.of_pack 0x09 f).2, (RegW.of_pack 0x09 f).1]; rfl
theorem decodeSeq_0A (f : RegW) : decodeSeq (RegW.pack 0x0A f) = decCsel f := by
  unfold decodeSeq; rw [(RegW.of_pack 0x0A f).2, (RegW.of_pack 0x0A f).1]; rfl
theorem decodeSeq_0B (f : JmpW) : decodeSeq (JmpW.pack 0x0B f) = some (.lea f.d f.off) := by
  unfold decodeSeq; rw [(JmpW.of_pack 0x0B f).2, (JmpW.of_pack 0x0B f).1]; rfl
theorem decodeSeq_0C (f : RegW) : decodeSeq (RegW.pack 0x0C f) = decWid f := by
  unfold decodeSeq; rw [(RegW.of_pack 0x0C f).2, (RegW.of_pack 0x0C f).1]; rfl
theorem decodeSeq_10 (f : BrW) : decodeSeq (BrW.pack 0x10 f) = decBr f := by
  unfold decodeSeq; rw [(BrW.of_pack 0x10 f).2, (BrW.of_pack 0x10 f).1]; rfl
theorem decodeSeq_11 (f : BrW) : decodeSeq (BrW.pack 0x11 f) = decBc f := by
  unfold decodeSeq; rw [(BrW.of_pack 0x11 f).2, (BrW.of_pack 0x11 f).1]; rfl
theorem decodeSeq_12 (f : BrW) : decodeSeq (BrW.pack 0x12 f) = decBsig f := by
  unfold decodeSeq; rw [(BrW.of_pack 0x12 f).2, (BrW.of_pack 0x12 f).1]; rfl
theorem decodeSeq_13 (f : JmpW) : decodeSeq (JmpW.pack 0x13 f) = some (.jal f.d f.off) := by
  unfold decodeSeq; rw [(JmpW.of_pack 0x13 f).2, (JmpW.of_pack 0x13 f).1]; rfl
theorem decodeSeq_14 (f : ImmW) : decodeSeq (ImmW.pack 0x14 f) = some (.jr f.d f.a f.imm) := by
  unfold decodeSeq; rw [(ImmW.of_pack 0x14 f).2, (ImmW.of_pack 0x14 f).1]; rfl
theorem decodeSeq_15 (f : BrW) : decodeSeq (BrW.pack 0x15 f) = decLbeg f := by
  unfold decodeSeq; rw [(BrW.of_pack 0x15 f).2, (BrW.of_pack 0x15 f).1]; rfl
theorem decodeSeq_20 (f : RegW) : decodeSeq (RegW.pack 0x20 f) = decFp f := by
  unfold decodeSeq; rw [(RegW.of_pack 0x20 f).2, (RegW.of_pack 0x20 f).1]; rfl
theorem decodeSeq_21 (f : TriW) : decodeSeq (TriW.pack 0x21 f) = decFma f := by
  unfold decodeSeq; rw [(TriW.of_pack 0x21 f).2, (TriW.of_pack 0x21 f).1]; rfl
theorem decodeSeq_28 (f : MemW) : decodeSeq (MemW.pack 0x28 f) = decMem 0 f := by
  unfold decodeSeq; rw [(MemW.of_pack 0x28 f).2, (MemW.of_pack 0x28 f).1]; rfl
theorem decodeSeq_29 (f : MemW) : decodeSeq (MemW.pack 0x29 f) = decMem 1 f := by
  unfold decodeSeq; rw [(MemW.of_pack 0x29 f).2, (MemW.of_pack 0x29 f).1]; rfl
theorem decodeSeq_2A (f : MemW) : decodeSeq (MemW.pack 0x2A f) = decMem 2 f := by
  unfold decodeSeq; rw [(MemW.of_pack 0x2A f).2, (MemW.of_pack 0x2A f).1]; rfl
theorem decodeSeq_2B (f : MemW) : decodeSeq (MemW.pack 0x2B f) = decMem 3 f := by
  unfold decodeSeq; rw [(MemW.of_pack 0x2B f).2, (MemW.of_pack 0x2B f).1]; rfl
theorem decodeSeq_2C (f : MemW) : decodeSeq (MemW.pack 0x2C f) = decMem 4 f := by
  unfold decodeSeq; rw [(MemW.of_pack 0x2C f).2, (MemW.of_pack 0x2C f).1]; rfl
theorem decodeSeq_2D (f : MemW) : decodeSeq (MemW.pack 0x2D f) = decMem 5 f := by
  unfold decodeSeq; rw [(MemW.of_pack 0x2D f).2, (MemW.of_pack 0x2D f).1]; rfl
theorem decodeSeq_2E (f : MemW) : decodeSeq (MemW.pack 0x2E f) = decMem 6 f := by
  unfold decodeSeq; rw [(MemW.of_pack 0x2E f).2, (MemW.of_pack 0x2E f).1]; rfl
theorem decodeSeq_2F (f : AmoW) : decodeSeq (AmoW.pack 0x2F f) = decAmo f := by
  unfold decodeSeq; rw [(AmoW.of_pack 0x2F f).2, (AmoW.of_pack 0x2F f).1]; rfl
theorem decodeSeq_30 (f : MemW) : decodeSeq (MemW.pack 0x30 f) = decFence f := by
  unfold decodeSeq; rw [(MemW.of_pack 0x30 f).2, (MemW.of_pack 0x30 f).1]; rfl
theorem decodeSeq_31 (f : HndW) : decodeSeq (HndW.pack 0x31 f) = decBar f := by
  unfold decodeSeq; rw [(HndW.of_pack 0x31 f).2, (HndW.of_pack 0x31 f).1]; rfl
theorem decodeSeq_32 (f : HndW) : decodeSeq (HndW.pack 0x32 f) = decPublish f := by
  unfold decodeSeq; rw [(HndW.of_pack 0x32 f).2, (HndW.of_pack 0x32 f).1]; rfl
theorem decodeSeq_38 (f : RegW) : decodeSeq (RegW.pack 0x38 f) = decCell f := by
  unfold decodeSeq; rw [(RegW.of_pack 0x38 f).2, (RegW.of_pack 0x38 f).1]; rfl
theorem decodeSeq_39 (f : RegW) : decodeSeq (RegW.pack 0x39 f) = decRv f := by
  unfold decodeSeq; rw [(RegW.of_pack 0x39 f).2, (RegW.of_pack 0x39 f).1]; rfl
theorem decodeSeq_3A (f : RegW) : decodeSeq (RegW.pack 0x3A f) = decSink f := by
  unfold decodeSeq; rw [(RegW.of_pack 0x3A f).2, (RegW.of_pack 0x3A f).1]; rfl
theorem decodeSeq_3B (f : RegW) : decodeSeq (RegW.pack 0x3B f) = decWalk f := by
  unfold decodeSeq; rw [(RegW.of_pack 0x3B f).2, (RegW.of_pack 0x3B f).1]; rfl
theorem decodeSeq_3C (f : RegW) : decodeSeq (RegW.pack 0x3C f) = decCfg f := by
  unfold decodeSeq; rw [(RegW.of_pack 0x3C f).2, (RegW.of_pack 0x3C f).1]; rfl
theorem decodeSeq_3D (f : HndW) : decodeSeq (HndW.pack 0x3D f) = decIq f := by
  unfold decodeSeq; rw [(HndW.of_pack 0x3D f).2, (HndW.of_pack 0x3D f).1]; rfl
theorem decodeSeq_3E (f : RegW) : decodeSeq (RegW.pack 0x3E f) = decRmark f := by
  unfold decodeSeq; rw [(RegW.of_pack 0x3E f).2, (RegW.of_pack 0x3E f).1]; rfl
theorem decodeSeq_40 (f : HndW) : decodeSeq (HndW.pack 0x40 f) = decChan f := by
  unfold decodeSeq; rw [(HndW.of_pack 0x40 f).2, (HndW.of_pack 0x40 f).1]; rfl
theorem decodeSeq_41 (f : SysW) : decodeSeq (SysW.pack 0x41 f) = decStrand f := by
  unfold decodeSeq; rw [(SysW.of_pack 0x41 f).2, (SysW.of_pack 0x41 f).1]; rfl
theorem decodeSeq_42 (f : HndW) : decodeSeq (HndW.pack 0x42 f) = decScarf f := by
  unfold decodeSeq; rw [(HndW.of_pack 0x42 f).2, (HndW.of_pack 0x42 f).1]; rfl
theorem decodeSeq_50 (f : SysW) : decodeSeq (SysW.pack 0x50 f) = decSys f := by
  unfold decodeSeq; rw [(SysW.of_pack 0x50 f).2, (SysW.of_pack 0x50 f).1]; rfl
theorem decodeSeq_51 (f : SysW) : decodeSeq (SysW.pack 0x51 f) = decCtl f := by
  unfold decodeSeq; rw [(SysW.of_pack 0x51 f).2, (SysW.of_pack 0x51 f).1]; rfl

end Sys2Proof
end

