-- ==== Sys2Proof/Laws/Maps.lean ====
section
/-! SUPPORT. Reads after writes in a finite map. -/

namespace Sys2Proof.Machine

theorem NMap.get?_cons {α : Type} (j : Nat) (v : α) (m : NMap α) (k : Nat) :
    NMap.get? ((j, v) :: m) k = if k = j then some v else NMap.get? m k := by
  by_cases h : k = j
  · simp [NMap.get?, h]
  · simp [NMap.get?, h, Ne.symm h]

@[simp] theorem NMap.get?_set {α : Type} (m : NMap α) (n k : Nat) (a : α) :
    NMap.get? (NMap.set m n a) k = if k = n then some a else NMap.get? m k := by
  induction m with
  | nil => exact NMap.get?_cons n a [] k
  | cons p m ih =>
    obtain ⟨j, v⟩ := p
    simp only [NMap.set]
    split
    · rw [NMap.get?_cons]
    · split
      · next h => subst h; rw [NMap.get?_cons, NMap.get?_cons]; split <;> rfl
      · next h =>
        rw [NMap.get?_cons, ih, NMap.get?_cons]
        split
        · next h2 => subst h2; rw [if_neg (fun e => h e.symm)]
        · rfl

@[simp] theorem NMap.getD_set {α : Type} (m : NMap α) (n k : Nat) (a d : α) :
    NMap.getD (NMap.set m n a) k d = if k = n then a else NMap.getD m k d := by
  unfold NMap.getD; rw [NMap.get?_set]; split <;> rfl

@[simp] theorem NMap.get?_erase {α : Type} (m : NMap α) (n k : Nat) :
    NMap.get? (NMap.erase m n) k = if k = n then none else NMap.get? m k := by
  unfold NMap.erase
  induction m with
  | nil => simp [NMap.get?]
  | cons p m ih =>
    obtain ⟨j, v⟩ := p
    rw [List.filter_cons, NMap.get?_cons]
    by_cases h : j = n
    · subst h
      rw [if_neg (by simp), ih]; split <;> rfl
    · rw [if_pos (by simpa using h), NMap.get?_cons, ih]
      split
      · next h2 => subst h2; rw [if_neg h]
      · rfl

@[simp] theorem NMap.getD_modify {α : Type} (m : NMap α) (n k : Nat) (d e : α) (f : α → α) :
    NMap.getD (NMap.modify m n d f) k e = if k = n then f (NMap.getD m n d) else NMap.getD m k e := by
  simp [NMap.modify]

end Sys2Proof.Machine
end

