-- ==== Sys2Proof/Laws/State.lean ====
section
/-! SUPPORT. One lemma per field and update of State and of Strand: what an update leaves as it was. -/

namespace Sys2Proof.Machine

/-! ### `State.setBent` -/

@[simp] theorem State.setBent_agenda (s : State) (b : Nat) (B : Bent) : (s.setBent b B).agenda = s.agenda := rfl
@[simp] theorem State.setBent_cur (s : State) (b : Nat) (B : Bent) : (s.setBent b B).cur = s.cur := rfl
@[simp] theorem State.setBent_auto (s : State) (b : Nat) (B : Bent) : (s.setBent b B).auto = s.auto := rfl
@[simp] theorem State.setBent_dtime (s : State) (b : Nat) (B : Bent) : (s.setBent b B).dtime = s.dtime := rfl
@[simp] theorem State.setBent_nonce (s : State) (b : Nat) (B : Bent) : (s.setBent b B).nonce = s.nonce := rfl
@[simp] theorem State.setBent_mem (s : State) (b : Nat) (B : Bent) : (s.setBent b B).mem = s.mem := rfl
@[simp] theorem State.setBent_poison (s : State) (b : Nat) (B : Bent) : (s.setBent b B).poison = s.poison := rfl
@[simp] theorem State.setBent_pageOwner (s : State) (b : Nat) (B : Bent) : (s.setBent b B).pageOwner = s.pageOwner := rfl
@[simp] theorem State.setBent_scrubQueue (s : State) (b : Nat) (B : Bent) : (s.setBent b B).scrubQueue = s.scrubQueue := rfl
@[simp] theorem State.setBent_launches (s : State) (b : Nat) (B : Bent) : (s.setBent b B).launches = s.launches := rfl
@[simp] theorem State.setBent_ctxs (s : State) (b : Nat) (B : Bent) : (s.setBent b B).ctxs = s.ctxs := rfl
@[simp] theorem State.setBent_parts (s : State) (b : Nat) (B : Bent) : (s.setBent b B).parts = s.parts := rfl
@[simp] theorem State.setBent_dies (s : State) (b : Nat) (B : Bent) : (s.setBent b B).dies = s.dies := rfl
@[simp] theorem State.setBent_links (s : State) (b : Nat) (B : Bent) : (s.setBent b B).links = s.links := rfl
@[simp] theorem State.setBent_packets (s : State) (b : Nat) (B : Bent) : (s.setBent b B).packets = s.packets := rfl
@[simp] theorem State.setBent_device (s : State) (b : Nat) (B : Bent) : (s.setBent b B).device = s.device := rfl
@[simp] theorem State.setBent_toHost (s : State) (b : Nat) (B : Bent) : (s.setBent b B).toHost = s.toHost := rfl
@[simp] theorem State.setBent_toPeers (s : State) (b : Nat) (B : Bent) : (s.setBent b B).toPeers = s.toPeers := rfl

/-! ### `State.updBent` -/

@[simp] theorem State.updBent_agenda (s : State) (b : Nat) (f : Bent → Bent) : (s.updBent b f).agenda = s.agenda := rfl
@[simp] theorem State.updBent_cur (s : State) (b : Nat) (f : Bent → Bent) : (s.updBent b f).cur = s.cur := rfl
@[simp] theorem State.updBent_auto (s : State) (b : Nat) (f : Bent → Bent) : (s.updBent b f).auto = s.auto := rfl
@[simp] theorem State.updBent_dtime (s : State) (b : Nat) (f : Bent → Bent) : (s.updBent b f).dtime = s.dtime := rfl
@[simp] theorem State.updBent_nonce (s : State) (b : Nat) (f : Bent → Bent) : (s.updBent b f).nonce = s.nonce := rfl
@[simp] theorem State.updBent_mem (s : State) (b : Nat) (f : Bent → Bent) : (s.updBent b f).mem = s.mem := rfl
@[simp] theorem State.updBent_poison (s : State) (b : Nat) (f : Bent → Bent) : (s.updBent b f).poison = s.poison := rfl
@[simp] theorem State.updBent_pageOwner (s : State) (b : Nat) (f : Bent → Bent) : (s.updBent b f).pageOwner = s.pageOwner := rfl
@[simp] theorem State.updBent_scrubQueue (s : State) (b : Nat) (f : Bent → Bent) : (s.updBent b f).scrubQueue = s.scrubQueue := rfl
@[simp] theorem State.updBent_launches (s : State) (b : Nat) (f : Bent → Bent) : (s.updBent b f).launches = s.launches := rfl
@[simp] theorem State.updBent_ctxs (s : State) (b : Nat) (f : Bent → Bent) : (s.updBent b f).ctxs = s.ctxs := rfl
@[simp] theorem State.updBent_parts (s : State) (b : Nat) (f : Bent → Bent) : (s.updBent b f).parts = s.parts := rfl
@[simp] theorem State.updBent_dies (s : State) (b : Nat) (f : Bent → Bent) : (s.updBent b f).dies = s.dies := rfl
@[simp] theorem State.updBent_links (s : State) (b : Nat) (f : Bent → Bent) : (s.updBent b f).links = s.links := rfl
@[simp] theorem State.updBent_packets (s : State) (b : Nat) (f : Bent → Bent) : (s.updBent b f).packets = s.packets := rfl
@[simp] theorem State.updBent_device (s : State) (b : Nat) (f : Bent → Bent) : (s.updBent b f).device = s.device := rfl
@[simp] theorem State.updBent_toHost (s : State) (b : Nat) (f : Bent → Bent) : (s.updBent b f).toHost = s.toHost := rfl
@[simp] theorem State.updBent_toPeers (s : State) (b : Nat) (f : Bent → Bent) : (s.updBent b f).toPeers = s.toPeers := rfl

/-! ### `State.setLaunch` -/

@[simp] theorem State.setLaunch_agenda (s : State) (lid : Nat) (L : Launch) : (s.setLaunch lid L).agenda = s.agenda := rfl
@[simp] theorem State.setLaunch_cur (s : State) (lid : Nat) (L : Launch) : (s.setLaunch lid L).cur = s.cur := rfl
@[simp] theorem State.setLaunch_auto (s : State) (lid : Nat) (L : Launch) : (s.setLaunch lid L).auto = s.auto := rfl
@[simp] theorem State.setLaunch_dtime (s : State) (lid : Nat) (L : Launch) : (s.setLaunch lid L).dtime = s.dtime := rfl
@[simp] theorem State.setLaunch_nonce (s : State) (lid : Nat) (L : Launch) : (s.setLaunch lid L).nonce = s.nonce := rfl
@[simp] theorem State.setLaunch_mem (s : State) (lid : Nat) (L : Launch) : (s.setLaunch lid L).mem = s.mem := rfl
@[simp] theorem State.setLaunch_poison (s : State) (lid : Nat) (L : Launch) : (s.setLaunch lid L).poison = s.poison := rfl
@[simp] theorem State.setLaunch_pageOwner (s : State) (lid : Nat) (L : Launch) : (s.setLaunch lid L).pageOwner = s.pageOwner := rfl
@[simp] theorem State.setLaunch_scrubQueue (s : State) (lid : Nat) (L : Launch) : (s.setLaunch lid L).scrubQueue = s.scrubQueue := rfl
@[simp] theorem State.setLaunch_bents (s : State) (lid : Nat) (L : Launch) : (s.setLaunch lid L).bents = s.bents := rfl
@[simp] theorem State.setLaunch_ctxs (s : State) (lid : Nat) (L : Launch) : (s.setLaunch lid L).ctxs = s.ctxs := rfl
@[simp] theorem State.setLaunch_parts (s : State) (lid : Nat) (L : Launch) : (s.setLaunch lid L).parts = s.parts := rfl
@[simp] theorem State.setLaunch_dies (s : State) (lid : Nat) (L : Launch) : (s.setLaunch lid L).dies = s.dies := rfl
@[simp] theorem State.setLaunch_links (s : State) (lid : Nat) (L : Launch) : (s.setLaunch lid L).links = s.links := rfl
@[simp] theorem State.setLaunch_packets (s : State) (lid : Nat) (L : Launch) : (s.setLaunch lid L).packets = s.packets := rfl
@[simp] theorem State.setLaunch_device (s : State) (lid : Nat) (L : Launch) : (s.setLaunch lid L).device = s.device := rfl
@[simp] theorem State.setLaunch_toHost (s : State) (lid : Nat) (L : Launch) : (s.setLaunch lid L).toHost = s.toHost := rfl
@[simp] theorem State.setLaunch_toPeers (s : State) (lid : Nat) (L : Launch) : (s.setLaunch lid L).toPeers = s.toPeers := rfl

/-! ### `State.setPart` -/

@[simp] theorem State.setPart_agenda (s : State) (p : Nat) (P : Part) : (s.setPart p P).agenda = s.agenda := rfl
@[simp] theorem State.setPart_cur (s : State) (p : Nat) (P : Part) : (s.setPart p P).cur = s.cur := rfl
@[simp] theorem State.setPart_auto (s : State) (p : Nat) (P : Part) : (s.setPart p P).auto = s.auto := rfl
@[simp] theorem State.setPart_dtime (s : State) (p : Nat) (P : Part) : (s.setPart p P).dtime = s.dtime := rfl
@[simp] theorem State.setPart_nonce (s : State) (p : Nat) (P : Part) : (s.setPart p P).nonce = s.nonce := rfl
@[simp] theorem State.setPart_mem (s : State) (p : Nat) (P : Part) : (s.setPart p P).mem = s.mem := rfl
@[simp] theorem State.setPart_poison (s : State) (p : Nat) (P : Part) : (s.setPart p P).poison = s.poison := rfl
@[simp] theorem State.setPart_pageOwner (s : State) (p : Nat) (P : Part) : (s.setPart p P).pageOwner = s.pageOwner := rfl
@[simp] theorem State.setPart_scrubQueue (s : State) (p : Nat) (P : Part) : (s.setPart p P).scrubQueue = s.scrubQueue := rfl
@[simp] theorem State.setPart_bents (s : State) (p : Nat) (P : Part) : (s.setPart p P).bents = s.bents := rfl
@[simp] theorem State.setPart_launches (s : State) (p : Nat) (P : Part) : (s.setPart p P).launches = s.launches := rfl
@[simp] theorem State.setPart_ctxs (s : State) (p : Nat) (P : Part) : (s.setPart p P).ctxs = s.ctxs := rfl
@[simp] theorem State.setPart_dies (s : State) (p : Nat) (P : Part) : (s.setPart p P).dies = s.dies := rfl
@[simp] theorem State.setPart_links (s : State) (p : Nat) (P : Part) : (s.setPart p P).links = s.links := rfl
@[simp] theorem State.setPart_packets (s : State) (p : Nat) (P : Part) : (s.setPart p P).packets = s.packets := rfl
@[simp] theorem State.setPart_device (s : State) (p : Nat) (P : Part) : (s.setPart p P).device = s.device := rfl
@[simp] theorem State.setPart_toHost (s : State) (p : Nat) (P : Part) : (s.setPart p P).toHost = s.toHost := rfl
@[simp] theorem State.setPart_toPeers (s : State) (p : Nat) (P : Part) : (s.setPart p P).toPeers = s.toPeers := rfl

/-! ### `State.updPart` -/

@[simp] theorem State.updPart_agenda (s : State) (p : Nat) (f : Part → Part) : (s.updPart p f).agenda = s.agenda := rfl
@[simp] theorem State.updPart_cur (s : State) (p : Nat) (f : Part → Part) : (s.updPart p f).cur = s.cur := rfl
@[simp] theorem State.updPart_auto (s : State) (p : Nat) (f : Part → Part) : (s.updPart p f).auto = s.auto := rfl
@[simp] theorem State.updPart_dtime (s : State) (p : Nat) (f : Part → Part) : (s.updPart p f).dtime = s.dtime := rfl
@[simp] theorem State.updPart_nonce (s : State) (p : Nat) (f : Part → Part) : (s.updPart p f).nonce = s.nonce := rfl
@[simp] theorem State.updPart_mem (s : State) (p : Nat) (f : Part → Part) : (s.updPart p f).mem = s.mem := rfl
@[simp] theorem State.updPart_poison (s : State) (p : Nat) (f : Part → Part) : (s.updPart p f).poison = s.poison := rfl
@[simp] theorem State.updPart_pageOwner (s : State) (p : Nat) (f : Part → Part) : (s.updPart p f).pageOwner = s.pageOwner := rfl
@[simp] theorem State.updPart_scrubQueue (s : State) (p : Nat) (f : Part → Part) : (s.updPart p f).scrubQueue = s.scrubQueue := rfl
@[simp] theorem State.updPart_bents (s : State) (p : Nat) (f : Part → Part) : (s.updPart p f).bents = s.bents := rfl
@[simp] theorem State.updPart_launches (s : State) (p : Nat) (f : Part → Part) : (s.updPart p f).launches = s.launches := rfl
@[simp] theorem State.updPart_ctxs (s : State) (p : Nat) (f : Part → Part) : (s.updPart p f).ctxs = s.ctxs := rfl
@[simp] theorem State.updPart_dies (s : State) (p : Nat) (f : Part → Part) : (s.updPart p f).dies = s.dies := rfl
@[simp] theorem State.updPart_links (s : State) (p : Nat) (f : Part → Part) : (s.updPart p f).links = s.links := rfl
@[simp] theorem State.updPart_packets (s : State) (p : Nat) (f : Part → Part) : (s.updPart p f).packets = s.packets := rfl
@[simp] theorem State.updPart_device (s : State) (p : Nat) (f : Part → Part) : (s.updPart p f).device = s.device := rfl
@[simp] theorem State.updPart_toHost (s : State) (p : Nat) (f : Part → Part) : (s.updPart p f).toHost = s.toHost := rfl
@[simp] theorem State.updPart_toPeers (s : State) (p : Nat) (f : Part → Part) : (s.updPart p f).toPeers = s.toPeers := rfl

/-! ### `State.setDie` -/

@[simp] theorem State.setDie_agenda (s : State) (d : Nat) (D : Die) : (s.setDie d D).agenda = s.agenda := rfl
@[simp] theorem State.setDie_cur (s : State) (d : Nat) (D : Die) : (s.setDie d D).cur = s.cur := rfl
@[simp] theorem State.setDie_auto (s : State) (d : Nat) (D : Die) : (s.setDie d D).auto = s.auto := rfl
@[simp] theorem State.setDie_dtime (s : State) (d : Nat) (D : Die) : (s.setDie d D).dtime = s.dtime := rfl
@[simp] theorem State.setDie_nonce (s : State) (d : Nat) (D : Die) : (s.setDie d D).nonce = s.nonce := rfl
@[simp] theorem State.setDie_mem (s : State) (d : Nat) (D : Die) : (s.setDie d D).mem = s.mem := rfl
@[simp] theorem State.setDie_poison (s : State) (d : Nat) (D : Die) : (s.setDie d D).poison = s.poison := rfl
@[simp] theorem State.setDie_pageOwner (s : State) (d : Nat) (D : Die) : (s.setDie d D).pageOwner = s.pageOwner := rfl
@[simp] theorem State.setDie_scrubQueue (s : State) (d : Nat) (D : Die) : (s.setDie d D).scrubQueue = s.scrubQueue := rfl
@[simp] theorem State.setDie_bents (s : State) (d : Nat) (D : Die) : (s.setDie d D).bents = s.bents := rfl
@[simp] theorem State.setDie_launches (s : State) (d : Nat) (D : Die) : (s.setDie d D).launches = s.launches := rfl
@[simp] theorem State.setDie_ctxs (s : State) (d : Nat) (D : Die) : (s.setDie d D).ctxs = s.ctxs := rfl
@[simp] theorem State.setDie_parts (s : State) (d : Nat) (D : Die) : (s.setDie d D).parts = s.parts := rfl
@[simp] theorem State.setDie_links (s : State) (d : Nat) (D : Die) : (s.setDie d D).links = s.links := rfl
@[simp] theorem State.setDie_packets (s : State) (d : Nat) (D : Die) : (s.setDie d D).packets = s.packets := rfl
@[simp] theorem State.setDie_device (s : State) (d : Nat) (D : Die) : (s.setDie d D).device = s.device := rfl
@[simp] theorem State.setDie_toHost (s : State) (d : Nat) (D : Die) : (s.setDie d D).toHost = s.toHost := rfl
@[simp] theorem State.setDie_toPeers (s : State) (d : Nat) (D : Die) : (s.setDie d D).toPeers = s.toPeers := rfl

/-! ### `State.setStrand` -/

@[simp] theorem State.setStrand_agenda (s : State) (b k : Nat) (st : Strand) : (s.setStrand b k st).agenda = s.agenda := rfl
@[simp] theorem State.setStrand_cur (s : State) (b k : Nat) (st : Strand) : (s.setStrand b k st).cur = s.cur := rfl
@[simp] theorem State.setStrand_auto (s : State) (b k : Nat) (st : Strand) : (s.setStrand b k st).auto = s.auto := rfl
@[simp] theorem State.setStrand_dtime (s : State) (b k : Nat) (st : Strand) : (s.setStrand b k st).dtime = s.dtime := rfl
@[simp] theorem State.setStrand_nonce (s : State) (b k : Nat) (st : Strand) : (s.setStrand b k st).nonce = s.nonce := rfl
@[simp] theorem State.setStrand_mem (s : State) (b k : Nat) (st : Strand) : (s.setStrand b k st).mem = s.mem := rfl
@[simp] theorem State.setStrand_poison (s : State) (b k : Nat) (st : Strand) : (s.setStrand b k st).poison = s.poison := rfl
@[simp] theorem State.setStrand_pageOwner (s : State) (b k : Nat) (st : Strand) : (s.setStrand b k st).pageOwner = s.pageOwner := rfl
@[simp] theorem State.setStrand_scrubQueue (s : State) (b k : Nat) (st : Strand) : (s.setStrand b k st).scrubQueue = s.scrubQueue := rfl
@[simp] theorem State.setStrand_launches (s : State) (b k : Nat) (st : Strand) : (s.setStrand b k st).launches = s.launches := rfl
@[simp] theorem State.setStrand_ctxs (s : State) (b k : Nat) (st : Strand) : (s.setStrand b k st).ctxs = s.ctxs := rfl
@[simp] theorem State.setStrand_parts (s : State) (b k : Nat) (st : Strand) : (s.setStrand b k st).parts = s.parts := rfl
@[simp] theorem State.setStrand_dies (s : State) (b k : Nat) (st : Strand) : (s.setStrand b k st).dies = s.dies := rfl
@[simp] theorem State.setStrand_links (s : State) (b k : Nat) (st : Strand) : (s.setStrand b k st).links = s.links := rfl
@[simp] theorem State.setStrand_packets (s : State) (b k : Nat) (st : Strand) : (s.setStrand b k st).packets = s.packets := rfl
@[simp] theorem State.setStrand_device (s : State) (b k : Nat) (st : Strand) : (s.setStrand b k st).device = s.device := rfl
@[simp] theorem State.setStrand_toHost (s : State) (b k : Nat) (st : Strand) : (s.setStrand b k st).toHost = s.toHost := rfl
@[simp] theorem State.setStrand_toPeers (s : State) (b k : Nat) (st : Strand) : (s.setStrand b k st).toPeers = s.toPeers := rfl

/-! ### `State.dropStrand` -/

@[simp] theorem State.dropStrand_agenda (s : State) (b k : Nat) : (s.dropStrand b k).agenda = s.agenda := rfl
@[simp] theorem State.dropStrand_cur (s : State) (b k : Nat) : (s.dropStrand b k).cur = s.cur := rfl
@[simp] theorem State.dropStrand_auto (s : State) (b k : Nat) : (s.dropStrand b k).auto = s.auto := rfl
@[simp] theorem State.dropStrand_dtime (s : State) (b k : Nat) : (s.dropStrand b k).dtime = s.dtime := rfl
@[simp] theorem State.dropStrand_nonce (s : State) (b k : Nat) : (s.dropStrand b k).nonce = s.nonce := rfl
@[simp] theorem State.dropStrand_mem (s : State) (b k : Nat) : (s.dropStrand b k).mem = s.mem := rfl
@[simp] theorem State.dropStrand_poison (s : State) (b k : Nat) : (s.dropStrand b k).poison = s.poison := rfl
@[simp] theorem State.dropStrand_pageOwner (s : State) (b k : Nat) : (s.dropStrand b k).pageOwner = s.pageOwner := rfl
@[simp] theorem State.dropStrand_scrubQueue (s : State) (b k : Nat) : (s.dropStrand b k).scrubQueue = s.scrubQueue := rfl
@[simp] theorem State.dropStrand_launches (s : State) (b k : Nat) : (s.dropStrand b k).launches = s.launches := rfl
@[simp] theorem State.dropStrand_ctxs (s : State) (b k : Nat) : (s.dropStrand b k).ctxs = s.ctxs := rfl
@[simp] theorem State.dropStrand_parts (s : State) (b k : Nat) : (s.dropStrand b k).parts = s.parts := rfl
@[simp] theorem State.dropStrand_dies (s : State) (b k : Nat) : (s.dropStrand b k).dies = s.dies := rfl
@[simp] theorem State.dropStrand_links (s : State) (b k : Nat) : (s.dropStrand b k).links = s.links := rfl
@[simp] theorem State.dropStrand_packets (s : State) (b k : Nat) : (s.dropStrand b k).packets = s.packets := rfl
@[simp] theorem State.dropStrand_device (s : State) (b k : Nat) : (s.dropStrand b k).device = s.device := rfl
@[simp] theorem State.dropStrand_toHost (s : State) (b k : Nat) : (s.dropStrand b k).toHost = s.toHost := rfl
@[simp] theorem State.dropStrand_toPeers (s : State) (b k : Nat) : (s.dropStrand b k).toPeers = s.toPeers := rfl

/-! ### `State.toHostMsg` -/

@[simp] theorem State.toHostMsg_agenda (s : State) (m : HostMsg) : (s.toHostMsg m).agenda = s.agenda := rfl
@[simp] theorem State.toHostMsg_cur (s : State) (m : HostMsg) : (s.toHostMsg m).cur = s.cur := rfl
@[simp] theorem State.toHostMsg_auto (s : State) (m : HostMsg) : (s.toHostMsg m).auto = s.auto := rfl
@[simp] theorem State.toHostMsg_dtime (s : State) (m : HostMsg) : (s.toHostMsg m).dtime = s.dtime := rfl
@[simp] theorem State.toHostMsg_nonce (s : State) (m : HostMsg) : (s.toHostMsg m).nonce = s.nonce := rfl
@[simp] theorem State.toHostMsg_mem (s : State) (m : HostMsg) : (s.toHostMsg m).mem = s.mem := rfl
@[simp] theorem State.toHostMsg_poison (s : State) (m : HostMsg) : (s.toHostMsg m).poison = s.poison := rfl
@[simp] theorem State.toHostMsg_pageOwner (s : State) (m : HostMsg) : (s.toHostMsg m).pageOwner = s.pageOwner := rfl
@[simp] theorem State.toHostMsg_scrubQueue (s : State) (m : HostMsg) : (s.toHostMsg m).scrubQueue = s.scrubQueue := rfl
@[simp] theorem State.toHostMsg_bents (s : State) (m : HostMsg) : (s.toHostMsg m).bents = s.bents := rfl
@[simp] theorem State.toHostMsg_launches (s : State) (m : HostMsg) : (s.toHostMsg m).launches = s.launches := rfl
@[simp] theorem State.toHostMsg_ctxs (s : State) (m : HostMsg) : (s.toHostMsg m).ctxs = s.ctxs := rfl
@[simp] theorem State.toHostMsg_parts (s : State) (m : HostMsg) : (s.toHostMsg m).parts = s.parts := rfl
@[simp] theorem State.toHostMsg_dies (s : State) (m : HostMsg) : (s.toHostMsg m).dies = s.dies := rfl
@[simp] theorem State.toHostMsg_links (s : State) (m : HostMsg) : (s.toHostMsg m).links = s.links := rfl
@[simp] theorem State.toHostMsg_packets (s : State) (m : HostMsg) : (s.toHostMsg m).packets = s.packets := rfl
@[simp] theorem State.toHostMsg_device (s : State) (m : HostMsg) : (s.toHostMsg m).device = s.device := rfl
@[simp] theorem State.toHostMsg_toPeers (s : State) (m : HostMsg) : (s.toHostMsg m).toPeers = s.toPeers := rfl

/-! ### `State.poke` -/

@[simp] theorem State.poke_agenda (s : State) (a : Nat) (l : List Byte) : (s.poke a l).agenda = s.agenda := rfl
@[simp] theorem State.poke_cur (s : State) (a : Nat) (l : List Byte) : (s.poke a l).cur = s.cur := rfl
@[simp] theorem State.poke_auto (s : State) (a : Nat) (l : List Byte) : (s.poke a l).auto = s.auto := rfl
@[simp] theorem State.poke_dtime (s : State) (a : Nat) (l : List Byte) : (s.poke a l).dtime = s.dtime := rfl
@[simp] theorem State.poke_nonce (s : State) (a : Nat) (l : List Byte) : (s.poke a l).nonce = s.nonce := rfl
@[simp] theorem State.poke_pageOwner (s : State) (a : Nat) (l : List Byte) : (s.poke a l).pageOwner = s.pageOwner := rfl
@[simp] theorem State.poke_scrubQueue (s : State) (a : Nat) (l : List Byte) : (s.poke a l).scrubQueue = s.scrubQueue := rfl
@[simp] theorem State.poke_bents (s : State) (a : Nat) (l : List Byte) : (s.poke a l).bents = s.bents := rfl
@[simp] theorem State.poke_launches (s : State) (a : Nat) (l : List Byte) : (s.poke a l).launches = s.launches := rfl
@[simp] theorem State.poke_ctxs (s : State) (a : Nat) (l : List Byte) : (s.poke a l).ctxs = s.ctxs := rfl
@[simp] theorem State.poke_parts (s : State) (a : Nat) (l : List Byte) : (s.poke a l).parts = s.parts := rfl
@[simp] theorem State.poke_dies (s : State) (a : Nat) (l : List Byte) : (s.poke a l).dies = s.dies := rfl
@[simp] theorem State.poke_links (s : State) (a : Nat) (l : List Byte) : (s.poke a l).links = s.links := rfl
@[simp] theorem State.poke_packets (s : State) (a : Nat) (l : List Byte) : (s.poke a l).packets = s.packets := rfl
@[simp] theorem State.poke_device (s : State) (a : Nat) (l : List Byte) : (s.poke a l).device = s.device := rfl
@[simp] theorem State.poke_toHost (s : State) (a : Nat) (l : List Byte) : (s.poke a l).toHost = s.toHost := rfl
@[simp] theorem State.poke_toPeers (s : State) (a : Nat) (l : List Byte) : (s.poke a l).toPeers = s.toPeers := rfl

/-! ### `State.zero` -/

@[simp] theorem State.zero_agenda (s : State) (a n : Nat) : (s.zero a n).agenda = s.agenda := rfl
@[simp] theorem State.zero_cur (s : State) (a n : Nat) : (s.zero a n).cur = s.cur := rfl
@[simp] theorem State.zero_auto (s : State) (a n : Nat) : (s.zero a n).auto = s.auto := rfl
@[simp] theorem State.zero_dtime (s : State) (a n : Nat) : (s.zero a n).dtime = s.dtime := rfl
@[simp] theorem State.zero_nonce (s : State) (a n : Nat) : (s.zero a n).nonce = s.nonce := rfl
@[simp] theorem State.zero_pageOwner (s : State) (a n : Nat) : (s.zero a n).pageOwner = s.pageOwner := rfl
@[simp] theorem State.zero_scrubQueue (s : State) (a n : Nat) : (s.zero a n).scrubQueue = s.scrubQueue := rfl
@[simp] theorem State.zero_bents (s : State) (a n : Nat) : (s.zero a n).bents = s.bents := rfl
@[simp] theorem State.zero_launches (s : State) (a n : Nat) : (s.zero a n).launches = s.launches := rfl
@[simp] theorem State.zero_ctxs (s : State) (a n : Nat) : (s.zero a n).ctxs = s.ctxs := rfl
@[simp] theorem State.zero_parts (s : State) (a n : Nat) : (s.zero a n).parts = s.parts := rfl
@[simp] theorem State.zero_dies (s : State) (a n : Nat) : (s.zero a n).dies = s.dies := rfl
@[simp] theorem State.zero_links (s : State) (a n : Nat) : (s.zero a n).links = s.links := rfl
@[simp] theorem State.zero_packets (s : State) (a n : Nat) : (s.zero a n).packets = s.packets := rfl
@[simp] theorem State.zero_device (s : State) (a n : Nat) : (s.zero a n).device = s.device := rfl
@[simp] theorem State.zero_toHost (s : State) (a n : Nat) : (s.zero a n).toHost = s.toHost := rfl
@[simp] theorem State.zero_toPeers (s : State) (a n : Nat) : (s.zero a n).toPeers = s.toPeers := rfl

/-! ### `State.updLaunch` -/

@[simp] theorem State.updLaunch_agenda (s : State) (lid : Nat) (f : Launch → Launch) : (s.updLaunch lid f).agenda = s.agenda := by
  unfold State.updLaunch; split <;> rfl
@[simp] theorem State.updLaunch_cur (s : State) (lid : Nat) (f : Launch → Launch) : (s.updLaunch lid f).cur = s.cur := by
  unfold State.updLaunch; split <;> rfl
@[simp] theorem State.updLaunch_auto (s : State) (lid : Nat) (f : Launch → Launch) : (s.updLaunch lid f).auto = s.auto := by
  unfold State.updLaunch; split <;> rfl
@[simp] theorem State.updLaunch_dtime (s : State) (lid : Nat) (f : Launch → Launch) : (s.updLaunch lid f).dtime = s.dtime := by
  unfold State.updLaunch; split <;> rfl
@[simp] theorem State.updLaunch_nonce (s : State) (lid : Nat) (f : Launch → Launch) : (s.updLaunch lid f).nonce = s.nonce := by
  unfold State.updLaunch; split <;> rfl
@[simp] theorem State.updLaunch_mem (s : State) (lid : Nat) (f : Launch → Launch) : (s.updLaunch lid f).mem = s.mem := by
  unfold State.updLaunch; split <;> rfl
@[simp] theorem State.updLaunch_poison (s : State) (lid : Nat) (f : Launch → Launch) : (s.updLaunch lid f).poison = s.poison := by
  unfold State.updLaunch; split <;> rfl
@[simp] theorem State.updLaunch_pageOwner (s : State) (lid : Nat) (f : Launch → Launch) : (s.updLaunch lid f).pageOwner = s.pageOwner := by
  unfold State.updLaunch; split <;> rfl
@[simp] theorem State.updLaunch_scrubQueue (s : State) (lid : Nat) (f : Launch → Launch) : (s.updLaunch lid f).scrubQueue = s.scrubQueue := by
  unfold State.updLaunch; split <;> rfl
@[simp] theorem State.updLaunch_bents (s : State) (lid : Nat) (f : Launch → Launch) : (s.updLaunch lid f).bents = s.bents := by
  unfold State.updLaunch; split <;> rfl
@[simp] theorem State.updLaunch_ctxs (s : State) (lid : Nat) (f : Launch → Launch) : (s.updLaunch lid f).ctxs = s.ctxs := by
  unfold State.updLaunch; split <;> rfl
@[simp] theorem State.updLaunch_parts (s : State) (lid : Nat) (f : Launch → Launch) : (s.updLaunch lid f).parts = s.parts := by
  unfold State.updLaunch; split <;> rfl
@[simp] theorem State.updLaunch_dies (s : State) (lid : Nat) (f : Launch → Launch) : (s.updLaunch lid f).dies = s.dies := by
  unfold State.updLaunch; split <;> rfl
@[simp] theorem State.updLaunch_links (s : State) (lid : Nat) (f : Launch → Launch) : (s.updLaunch lid f).links = s.links := by
  unfold State.updLaunch; split <;> rfl
@[simp] theorem State.updLaunch_packets (s : State) (lid : Nat) (f : Launch → Launch) : (s.updLaunch lid f).packets = s.packets := by
  unfold State.updLaunch; split <;> rfl
@[simp] theorem State.updLaunch_device (s : State) (lid : Nat) (f : Launch → Launch) : (s.updLaunch lid f).device = s.device := by
  unfold State.updLaunch; split <;> rfl
@[simp] theorem State.updLaunch_toHost (s : State) (lid : Nat) (f : Launch → Launch) : (s.updLaunch lid f).toHost = s.toHost := by
  unfold State.updLaunch; split <;> rfl
@[simp] theorem State.updLaunch_toPeers (s : State) (lid : Nat) (f : Launch → Launch) : (s.updLaunch lid f).toPeers = s.toPeers := by
  unfold State.updLaunch; split <;> rfl

/-! ### `Strand.goto` -/

@[simp] theorem Strand.goto_lid (st : Strand) (v : Word) : (st.goto v).lid = st.lid := rfl
@[simp] theorem Strand.goto_ownerBent (st : Strand) (v : Word) : (st.goto v).ownerBent = st.ownerBent := rfl
@[simp] theorem Strand.goto_ownerSlot (st : Strand) (v : Word) : (st.goto v).ownerSlot = st.ownerSlot := rfl
@[simp] theorem Strand.goto_x (st : Strand) (v : Word) : (st.goto v).x = st.x := rfl
@[simp] theorem Strand.goto_f (st : Strand) (v : Word) : (st.goto v).f = st.f := rfl
@[simp] theorem Strand.goto_c (st : Strand) (v : Word) : (st.goto v).c = st.c := rfl
@[simp] theorem Strand.goto_px (st : Strand) (v : Word) : (st.goto v).px = st.px := rfl
@[simp] theorem Strand.goto_pf (st : Strand) (v : Word) : (st.goto v).pf = st.pf := rfl
@[simp] theorem Strand.goto_fpmode (st : Strand) (v : Word) : (st.goto v).fpmode = st.fpmode := rfl
@[simp] theorem Strand.goto_sigth (st : Strand) (v : Word) : (st.goto v).sigth = st.sigth := rfl
@[simp] theorem Strand.goto_sigen (st : Strand) (v : Word) : (st.goto v).sigen = st.sigen := rfl
@[simp] theorem Strand.goto_siglog (st : Strand) (v : Word) : (st.goto v).siglog = st.siglog := rfl
@[simp] theorem Strand.goto_trapvec (st : Strand) (v : Word) : (st.goto v).trapvec = st.trapvec := rfl
@[simp] theorem Strand.goto_trapcause (st : Strand) (v : Word) : (st.goto v).trapcause = st.trapcause := rfl
@[simp] theorem Strand.goto_trappc (st : Strand) (v : Word) : (st.goto v).trappc = st.trappc := rfl
@[simp] theorem Strand.goto_wid (st : Strand) (v : Word) : (st.goto v).wid = st.wid := rfl
@[simp] theorem Strand.goto_round (st : Strand) (v : Word) : (st.goto v).round = st.round := rfl
@[simp] theorem Strand.goto_evq (st : Strand) (v : Word) : (st.goto v).evq = st.evq := rfl
@[simp] theorem Strand.goto_loops (st : Strand) (v : Word) : (st.goto v).loops = st.loops := rfl
@[simp] theorem Strand.goto_sxcfg (st : Strand) (v : Word) : (st.goto v).sxcfg = st.sxcfg := rfl
@[simp] theorem Strand.goto_phs (st : Strand) (v : Word) : (st.goto v).phs = st.phs := rfl
@[simp] theorem Strand.goto_seqNext (st : Strand) (v : Word) : (st.goto v).seqNext = st.seqNext := rfl
@[simp] theorem Strand.goto_seqLast (st : Strand) (v : Word) : (st.goto v).seqLast = st.seqLast := rfl
@[simp] theorem Strand.goto_saved (st : Strand) (v : Word) : (st.goto v).saved = st.saved := rfl
@[simp] theorem Strand.goto_pend (st : Strand) (v : Word) : (st.goto v).pend = st.pend := rfl
@[simp] theorem Strand.goto_state (st : Strand) (v : Word) : (st.goto v).state = st.state := rfl
@[simp] theorem Strand.goto_marked (st : Strand) (v : Word) : (st.goto v).marked = st.marked := rfl
@[simp] theorem Strand.goto_transBad (st : Strand) (v : Word) : (st.goto v).transBad = st.transBad := rfl
@[simp] theorem Strand.goto_ops (st : Strand) (v : Word) : (st.goto v).ops = st.ops := rfl
@[simp] theorem Strand.goto_nextOp (st : Strand) (v : Word) : (st.goto v).nextOp = st.nextOp := rfl
@[simp] theorem Strand.goto_roundCells (st : Strand) (v : Word) : (st.goto v).roundCells = st.roundCells := rfl

/-! ### `Strand.next` -/

@[simp] theorem Strand.next_lid (st : Strand)  : (st.next).lid = st.lid := rfl
@[simp] theorem Strand.next_ownerBent (st : Strand)  : (st.next).ownerBent = st.ownerBent := rfl
@[simp] theorem Strand.next_ownerSlot (st : Strand)  : (st.next).ownerSlot = st.ownerSlot := rfl
@[simp] theorem Strand.next_x (st : Strand)  : (st.next).x = st.x := rfl
@[simp] theorem Strand.next_f (st : Strand)  : (st.next).f = st.f := rfl
@[simp] theorem Strand.next_c (st : Strand)  : (st.next).c = st.c := rfl
@[simp] theorem Strand.next_px (st : Strand)  : (st.next).px = st.px := rfl
@[simp] theorem Strand.next_pf (st : Strand)  : (st.next).pf = st.pf := rfl
@[simp] theorem Strand.next_fpmode (st : Strand)  : (st.next).fpmode = st.fpmode := rfl
@[simp] theorem Strand.next_sigth (st : Strand)  : (st.next).sigth = st.sigth := rfl
@[simp] theorem Strand.next_sigen (st : Strand)  : (st.next).sigen = st.sigen := rfl
@[simp] theorem Strand.next_siglog (st : Strand)  : (st.next).siglog = st.siglog := rfl
@[simp] theorem Strand.next_trapvec (st : Strand)  : (st.next).trapvec = st.trapvec := rfl
@[simp] theorem Strand.next_trapcause (st : Strand)  : (st.next).trapcause = st.trapcause := rfl
@[simp] theorem Strand.next_trappc (st : Strand)  : (st.next).trappc = st.trappc := rfl
@[simp] theorem Strand.next_wid (st : Strand)  : (st.next).wid = st.wid := rfl
@[simp] theorem Strand.next_round (st : Strand)  : (st.next).round = st.round := rfl
@[simp] theorem Strand.next_evq (st : Strand)  : (st.next).evq = st.evq := rfl
@[simp] theorem Strand.next_loops (st : Strand)  : (st.next).loops = st.loops := rfl
@[simp] theorem Strand.next_sxcfg (st : Strand)  : (st.next).sxcfg = st.sxcfg := rfl
@[simp] theorem Strand.next_phs (st : Strand)  : (st.next).phs = st.phs := rfl
@[simp] theorem Strand.next_seqNext (st : Strand)  : (st.next).seqNext = st.seqNext := rfl
@[simp] theorem Strand.next_seqLast (st : Strand)  : (st.next).seqLast = st.seqLast := rfl
@[simp] theorem Strand.next_saved (st : Strand)  : (st.next).saved = st.saved := rfl
@[simp] theorem Strand.next_pend (st : Strand)  : (st.next).pend = st.pend := rfl
@[simp] theorem Strand.next_state (st : Strand)  : (st.next).state = st.state := rfl
@[simp] theorem Strand.next_marked (st : Strand)  : (st.next).marked = st.marked := rfl
@[simp] theorem Strand.next_transBad (st : Strand)  : (st.next).transBad = st.transBad := rfl
@[simp] theorem Strand.next_ops (st : Strand)  : (st.next).ops = st.ops := rfl
@[simp] theorem Strand.next_nextOp (st : Strand)  : (st.next).nextOp = st.nextOp := rfl
@[simp] theorem Strand.next_roundCells (st : Strand)  : (st.next).roundCells = st.roundCells := rfl

/-! ### `Strand.wfp` -/

@[simp] theorem Strand.wfp_lid (st : Strand) (r : FReg) (v : FVal) (p : Bool) : (st.wfp r v p).lid = st.lid := rfl
@[simp] theorem Strand.wfp_ownerBent (st : Strand) (r : FReg) (v : FVal) (p : Bool) : (st.wfp r v p).ownerBent = st.ownerBent := rfl
@[simp] theorem Strand.wfp_ownerSlot (st : Strand) (r : FReg) (v : FVal) (p : Bool) : (st.wfp r v p).ownerSlot = st.ownerSlot := rfl
@[simp] theorem Strand.wfp_pc (st : Strand) (r : FReg) (v : FVal) (p : Bool) : (st.wfp r v p).pc = st.pc := rfl
@[simp] theorem Strand.wfp_x (st : Strand) (r : FReg) (v : FVal) (p : Bool) : (st.wfp r v p).x = st.x := rfl
@[simp] theorem Strand.wfp_c (st : Strand) (r : FReg) (v : FVal) (p : Bool) : (st.wfp r v p).c = st.c := rfl
@[simp] theorem Strand.wfp_px (st : Strand) (r : FReg) (v : FVal) (p : Bool) : (st.wfp r v p).px = st.px := rfl
@[simp] theorem Strand.wfp_fpmode (st : Strand) (r : FReg) (v : FVal) (p : Bool) : (st.wfp r v p).fpmode = st.fpmode := rfl
@[simp] theorem Strand.wfp_sigth (st : Strand) (r : FReg) (v : FVal) (p : Bool) : (st.wfp r v p).sigth = st.sigth := rfl
@[simp] theorem Strand.wfp_sigen (st : Strand) (r : FReg) (v : FVal) (p : Bool) : (st.wfp r v p).sigen = st.sigen := rfl
@[simp] theorem Strand.wfp_siglog (st : Strand) (r : FReg) (v : FVal) (p : Bool) : (st.wfp r v p).siglog = st.siglog := rfl
@[simp] theorem Strand.wfp_trapvec (st : Strand) (r : FReg) (v : FVal) (p : Bool) : (st.wfp r v p).trapvec = st.trapvec := rfl
@[simp] theorem Strand.wfp_trapcause (st : Strand) (r : FReg) (v : FVal) (p : Bool) : (st.wfp r v p).trapcause = st.trapcause := rfl
@[simp] theorem Strand.wfp_trappc (st : Strand) (r : FReg) (v : FVal) (p : Bool) : (st.wfp r v p).trappc = st.trappc := rfl
@[simp] theorem Strand.wfp_wid (st : Strand) (r : FReg) (v : FVal) (p : Bool) : (st.wfp r v p).wid = st.wid := rfl
@[simp] theorem Strand.wfp_round (st : Strand) (r : FReg) (v : FVal) (p : Bool) : (st.wfp r v p).round = st.round := rfl
@[simp] theorem Strand.wfp_evq (st : Strand) (r : FReg) (v : FVal) (p : Bool) : (st.wfp r v p).evq = st.evq := rfl
@[simp] theorem Strand.wfp_loops (st : Strand) (r : FReg) (v : FVal) (p : Bool) : (st.wfp r v p).loops = st.loops := rfl
@[simp] theorem Strand.wfp_sxcfg (st : Strand) (r : FReg) (v : FVal) (p : Bool) : (st.wfp r v p).sxcfg = st.sxcfg := rfl
@[simp] theorem Strand.wfp_phs (st : Strand) (r : FReg) (v : FVal) (p : Bool) : (st.wfp r v p).phs = st.phs := rfl
@[simp] theorem Strand.wfp_seqNext (st : Strand) (r : FReg) (v : FVal) (p : Bool) : (st.wfp r v p).seqNext = st.seqNext := rfl
@[simp] theorem Strand.wfp_seqLast (st : Strand) (r : FReg) (v : FVal) (p : Bool) : (st.wfp r v p).seqLast = st.seqLast := rfl
@[simp] theorem Strand.wfp_saved (st : Strand) (r : FReg) (v : FVal) (p : Bool) : (st.wfp r v p).saved = st.saved := rfl
@[simp] theorem Strand.wfp_suppress (st : Strand) (r : FReg) (v : FVal) (p : Bool) : (st.wfp r v p).suppress = st.suppress := rfl
@[simp] theorem Strand.wfp_pend (st : Strand) (r : FReg) (v : FVal) (p : Bool) : (st.wfp r v p).pend = st.pend := rfl
@[simp] theorem Strand.wfp_state (st : Strand) (r : FReg) (v : FVal) (p : Bool) : (st.wfp r v p).state = st.state := rfl
@[simp] theorem Strand.wfp_marked (st : Strand) (r : FReg) (v : FVal) (p : Bool) : (st.wfp r v p).marked = st.marked := rfl
@[simp] theorem Strand.wfp_transBad (st : Strand) (r : FReg) (v : FVal) (p : Bool) : (st.wfp r v p).transBad = st.transBad := rfl
@[simp] theorem Strand.wfp_ops (st : Strand) (r : FReg) (v : FVal) (p : Bool) : (st.wfp r v p).ops = st.ops := rfl
@[simp] theorem Strand.wfp_nextOp (st : Strand) (r : FReg) (v : FVal) (p : Bool) : (st.wfp r v p).nextOp = st.nextOp := rfl
@[simp] theorem Strand.wfp_roundCells (st : Strand) (r : FReg) (v : FVal) (p : Bool) : (st.wfp r v p).roundCells = st.roundCells := rfl

/-! ### `Strand.wf` -/

@[simp] theorem Strand.wf_lid (st : Strand) (r : FReg) (v : FVal) : (st.wf r v).lid = st.lid := rfl
@[simp] theorem Strand.wf_ownerBent (st : Strand) (r : FReg) (v : FVal) : (st.wf r v).ownerBent = st.ownerBent := rfl
@[simp] theorem Strand.wf_ownerSlot (st : Strand) (r : FReg) (v : FVal) : (st.wf r v).ownerSlot = st.ownerSlot := rfl
@[simp] theorem Strand.wf_pc (st : Strand) (r : FReg) (v : FVal) : (st.wf r v).pc = st.pc := rfl
@[simp] theorem Strand.wf_x (st : Strand) (r : FReg) (v : FVal) : (st.wf r v).x = st.x := rfl
@[simp] theorem Strand.wf_c (st : Strand) (r : FReg) (v : FVal) : (st.wf r v).c = st.c := rfl
@[simp] theorem Strand.wf_px (st : Strand) (r : FReg) (v : FVal) : (st.wf r v).px = st.px := rfl
@[simp] theorem Strand.wf_fpmode (st : Strand) (r : FReg) (v : FVal) : (st.wf r v).fpmode = st.fpmode := rfl
@[simp] theorem Strand.wf_sigth (st : Strand) (r : FReg) (v : FVal) : (st.wf r v).sigth = st.sigth := rfl
@[simp] theorem Strand.wf_sigen (st : Strand) (r : FReg) (v : FVal) : (st.wf r v).sigen = st.sigen := rfl
@[simp] theorem Strand.wf_siglog (st : Strand) (r : FReg) (v : FVal) : (st.wf r v).siglog = st.siglog := rfl
@[simp] theorem Strand.wf_trapvec (st : Strand) (r : FReg) (v : FVal) : (st.wf r v).trapvec = st.trapvec := rfl
@[simp] theorem Strand.wf_trapcause (st : Strand) (r : FReg) (v : FVal) : (st.wf r v).trapcause = st.trapcause := rfl
@[simp] theorem Strand.wf_trappc (st : Strand) (r : FReg) (v : FVal) : (st.wf r v).trappc = st.trappc := rfl
@[simp] theorem Strand.wf_wid (st : Strand) (r : FReg) (v : FVal) : (st.wf r v).wid = st.wid := rfl
@[simp] theorem Strand.wf_round (st : Strand) (r : FReg) (v : FVal) : (st.wf r v).round = st.round := rfl
@[simp] theorem Strand.wf_evq (st : Strand) (r : FReg) (v : FVal) : (st.wf r v).evq = st.evq := rfl
@[simp] theorem Strand.wf_loops (st : Strand) (r : FReg) (v : FVal) : (st.wf r v).loops = st.loops := rfl
@[simp] theorem Strand.wf_sxcfg (st : Strand) (r : FReg) (v : FVal) : (st.wf r v).sxcfg = st.sxcfg := rfl
@[simp] theorem Strand.wf_phs (st : Strand) (r : FReg) (v : FVal) : (st.wf r v).phs = st.phs := rfl
@[simp] theorem Strand.wf_seqNext (st : Strand) (r : FReg) (v : FVal) : (st.wf r v).seqNext = st.seqNext := rfl
@[simp] theorem Strand.wf_seqLast (st : Strand) (r : FReg) (v : FVal) : (st.wf r v).seqLast = st.seqLast := rfl
@[simp] theorem Strand.wf_saved (st : Strand) (r : FReg) (v : FVal) : (st.wf r v).saved = st.saved := rfl
@[simp] theorem Strand.wf_suppress (st : Strand) (r : FReg) (v : FVal) : (st.wf r v).suppress = st.suppress := rfl
@[simp] theorem Strand.wf_pend (st : Strand) (r : FReg) (v : FVal) : (st.wf r v).pend = st.pend := rfl
@[simp] theorem Strand.wf_state (st : Strand) (r : FReg) (v : FVal) : (st.wf r v).state = st.state := rfl
@[simp] theorem Strand.wf_marked (st : Strand) (r : FReg) (v : FVal) : (st.wf r v).marked = st.marked := rfl
@[simp] theorem Strand.wf_transBad (st : Strand) (r : FReg) (v : FVal) : (st.wf r v).transBad = st.transBad := rfl
@[simp] theorem Strand.wf_ops (st : Strand) (r : FReg) (v : FVal) : (st.wf r v).ops = st.ops := rfl
@[simp] theorem Strand.wf_nextOp (st : Strand) (r : FReg) (v : FVal) : (st.wf r v).nextOp = st.nextOp := rfl
@[simp] theorem Strand.wf_roundCells (st : Strand) (r : FReg) (v : FVal) : (st.wf r v).roundCells = st.roundCells := rfl

/-! ### `Strand.setLoop` -/

@[simp] theorem Strand.setLoop_lid (st : Strand) (lv : BitVec 1) (l : Loop) : (st.setLoop lv l).lid = st.lid := rfl
@[simp] theorem Strand.setLoop_ownerBent (st : Strand) (lv : BitVec 1) (l : Loop) : (st.setLoop lv l).ownerBent = st.ownerBent := rfl
@[simp] theorem Strand.setLoop_ownerSlot (st : Strand) (lv : BitVec 1) (l : Loop) : (st.setLoop lv l).ownerSlot = st.ownerSlot := rfl
@[simp] theorem Strand.setLoop_pc (st : Strand) (lv : BitVec 1) (l : Loop) : (st.setLoop lv l).pc = st.pc := rfl
@[simp] theorem Strand.setLoop_x (st : Strand) (lv : BitVec 1) (l : Loop) : (st.setLoop lv l).x = st.x := rfl
@[simp] theorem Strand.setLoop_f (st : Strand) (lv : BitVec 1) (l : Loop) : (st.setLoop lv l).f = st.f := rfl
@[simp] theorem Strand.setLoop_c (st : Strand) (lv : BitVec 1) (l : Loop) : (st.setLoop lv l).c = st.c := rfl
@[simp] theorem Strand.setLoop_px (st : Strand) (lv : BitVec 1) (l : Loop) : (st.setLoop lv l).px = st.px := rfl
@[simp] theorem Strand.setLoop_pf (st : Strand) (lv : BitVec 1) (l : Loop) : (st.setLoop lv l).pf = st.pf := rfl
@[simp] theorem Strand.setLoop_fpmode (st : Strand) (lv : BitVec 1) (l : Loop) : (st.setLoop lv l).fpmode = st.fpmode := rfl
@[simp] theorem Strand.setLoop_sigth (st : Strand) (lv : BitVec 1) (l : Loop) : (st.setLoop lv l).sigth = st.sigth := rfl
@[simp] theorem Strand.setLoop_sigen (st : Strand) (lv : BitVec 1) (l : Loop) : (st.setLoop lv l).sigen = st.sigen := rfl
@[simp] theorem Strand.setLoop_siglog (st : Strand) (lv : BitVec 1) (l : Loop) : (st.setLoop lv l).siglog = st.siglog := rfl
@[simp] theorem Strand.setLoop_trapvec (st : Strand) (lv : BitVec 1) (l : Loop) : (st.setLoop lv l).trapvec = st.trapvec := rfl
@[simp] theorem Strand.setLoop_trapcause (st : Strand) (lv : BitVec 1) (l : Loop) : (st.setLoop lv l).trapcause = st.trapcause := rfl
@[simp] theorem Strand.setLoop_trappc (st : Strand) (lv : BitVec 1) (l : Loop) : (st.setLoop lv l).trappc = st.trappc := rfl
@[simp] theorem Strand.setLoop_wid (st : Strand) (lv : BitVec 1) (l : Loop) : (st.setLoop lv l).wid = st.wid := rfl
@[simp] theorem Strand.setLoop_round (st : Strand) (lv : BitVec 1) (l : Loop) : (st.setLoop lv l).round = st.round := rfl
@[simp] theorem Strand.setLoop_evq (st : Strand) (lv : BitVec 1) (l : Loop) : (st.setLoop lv l).evq = st.evq := rfl
@[simp] theorem Strand.setLoop_sxcfg (st : Strand) (lv : BitVec 1) (l : Loop) : (st.setLoop lv l).sxcfg = st.sxcfg := rfl
@[simp] theorem Strand.setLoop_phs (st : Strand) (lv : BitVec 1) (l : Loop) : (st.setLoop lv l).phs = st.phs := rfl
@[simp] theorem Strand.setLoop_seqNext (st : Strand) (lv : BitVec 1) (l : Loop) : (st.setLoop lv l).seqNext = st.seqNext := rfl
@[simp] theorem Strand.setLoop_seqLast (st : Strand) (lv : BitVec 1) (l : Loop) : (st.setLoop lv l).seqLast = st.seqLast := rfl
@[simp] theorem Strand.setLoop_saved (st : Strand) (lv : BitVec 1) (l : Loop) : (st.setLoop lv l).saved = st.saved := rfl
@[simp] theorem Strand.setLoop_suppress (st : Strand) (lv : BitVec 1) (l : Loop) : (st.setLoop lv l).suppress = st.suppress := rfl
@[simp] theorem Strand.setLoop_pend (st : Strand) (lv : BitVec 1) (l : Loop) : (st.setLoop lv l).pend = st.pend := rfl
@[simp] theorem Strand.setLoop_state (st : Strand) (lv : BitVec 1) (l : Loop) : (st.setLoop lv l).state = st.state := rfl
@[simp] theorem Strand.setLoop_marked (st : Strand) (lv : BitVec 1) (l : Loop) : (st.setLoop lv l).marked = st.marked := rfl
@[simp] theorem Strand.setLoop_transBad (st : Strand) (lv : BitVec 1) (l : Loop) : (st.setLoop lv l).transBad = st.transBad := rfl
@[simp] theorem Strand.setLoop_ops (st : Strand) (lv : BitVec 1) (l : Loop) : (st.setLoop lv l).ops = st.ops := rfl
@[simp] theorem Strand.setLoop_nextOp (st : Strand) (lv : BitVec 1) (l : Loop) : (st.setLoop lv l).nextOp = st.nextOp := rfl
@[simp] theorem Strand.setLoop_roundCells (st : Strand) (lv : BitVec 1) (l : Loop) : (st.setLoop lv l).roundCells = st.roundCells := rfl

/-! ### `Strand.wxp` -/

@[simp] theorem Strand.wxp_lid (st : Strand) (r : XReg) (v : Word) (p : Bool) : (st.wxp r v p).lid = st.lid := by
  unfold Strand.wxp; split <;> rfl
@[simp] theorem Strand.wxp_ownerBent (st : Strand) (r : XReg) (v : Word) (p : Bool) : (st.wxp r v p).ownerBent = st.ownerBent := by
  unfold Strand.wxp; split <;> rfl
@[simp] theorem Strand.wxp_ownerSlot (st : Strand) (r : XReg) (v : Word) (p : Bool) : (st.wxp r v p).ownerSlot = st.ownerSlot := by
  unfold Strand.wxp; split <;> rfl
@[simp] theorem Strand.wxp_pc (st : Strand) (r : XReg) (v : Word) (p : Bool) : (st.wxp r v p).pc = st.pc := by
  unfold Strand.wxp; split <;> rfl
@[simp] theorem Strand.wxp_f (st : Strand) (r : XReg) (v : Word) (p : Bool) : (st.wxp r v p).f = st.f := by
  unfold Strand.wxp; split <;> rfl
@[simp] theorem Strand.wxp_c (st : Strand) (r : XReg) (v : Word) (p : Bool) : (st.wxp r v p).c = st.c := by
  unfold Strand.wxp; split <;> rfl
@[simp] theorem Strand.wxp_pf (st : Strand) (r : XReg) (v : Word) (p : Bool) : (st.wxp r v p).pf = st.pf := by
  unfold Strand.wxp; split <;> rfl
@[simp] theorem Strand.wxp_fpmode (st : Strand) (r : XReg) (v : Word) (p : Bool) : (st.wxp r v p).fpmode = st.fpmode := by
  unfold Strand.wxp; split <;> rfl
@[simp] theorem Strand.wxp_sigth (st : Strand) (r : XReg) (v : Word) (p : Bool) : (st.wxp r v p).sigth = st.sigth := by
  unfold Strand.wxp; split <;> rfl
@[simp] theorem Strand.wxp_sigen (st : Strand) (r : XReg) (v : Word) (p : Bool) : (st.wxp r v p).sigen = st.sigen := by
  unfold Strand.wxp; split <;> rfl
@[simp] theorem Strand.wxp_siglog (st : Strand) (r : XReg) (v : Word) (p : Bool) : (st.wxp r v p).siglog = st.siglog := by
  unfold Strand.wxp; split <;> rfl
@[simp] theorem Strand.wxp_trapvec (st : Strand) (r : XReg) (v : Word) (p : Bool) : (st.wxp r v p).trapvec = st.trapvec := by
  unfold Strand.wxp; split <;> rfl
@[simp] theorem Strand.wxp_trapcause (st : Strand) (r : XReg) (v : Word) (p : Bool) : (st.wxp r v p).trapcause = st.trapcause := by
  unfold Strand.wxp; split <;> rfl
@[simp] theorem Strand.wxp_trappc (st : Strand) (r : XReg) (v : Word) (p : Bool) : (st.wxp r v p).trappc = st.trappc := by
  unfold Strand.wxp; split <;> rfl
@[simp] theorem Strand.wxp_wid (st : Strand) (r : XReg) (v : Word) (p : Bool) : (st.wxp r v p).wid = st.wid := by
  unfold Strand.wxp; split <;> rfl
@[simp] theorem Strand.wxp_round (st : Strand) (r : XReg) (v : Word) (p : Bool) : (st.wxp r v p).round = st.round := by
  unfold Strand.wxp; split <;> rfl
@[simp] theorem Strand.wxp_evq (st : Strand) (r : XReg) (v : Word) (p : Bool) : (st.wxp r v p).evq = st.evq := by
  unfold Strand.wxp; split <;> rfl
@[simp] theorem Strand.wxp_loops (st : Strand) (r : XReg) (v : Word) (p : Bool) : (st.wxp r v p).loops = st.loops := by
  unfold Strand.wxp; split <;> rfl
@[simp] theorem Strand.wxp_sxcfg (st : Strand) (r : XReg) (v : Word) (p : Bool) : (st.wxp r v p).sxcfg = st.sxcfg := by
  unfold Strand.wxp; split <;> rfl
@[simp] theorem Strand.wxp_phs (st : Strand) (r : XReg) (v : Word) (p : Bool) : (st.wxp r v p).phs = st.phs := by
  unfold Strand.wxp; split <;> rfl
@[simp] theorem Strand.wxp_seqNext (st : Strand) (r : XReg) (v : Word) (p : Bool) : (st.wxp r v p).seqNext = st.seqNext := by
  unfold Strand.wxp; split <;> rfl
@[simp] theorem Strand.wxp_seqLast (st : Strand) (r : XReg) (v : Word) (p : Bool) : (st.wxp r v p).seqLast = st.seqLast := by
  unfold Strand.wxp; split <;> rfl
@[simp] theorem Strand.wxp_saved (st : Strand) (r : XReg) (v : Word) (p : Bool) : (st.wxp r v p).saved = st.saved := by
  unfold Strand.wxp; split <;> rfl
@[simp] theorem Strand.wxp_suppress (st : Strand) (r : XReg) (v : Word) (p : Bool) : (st.wxp r v p).suppress = st.suppress := by
  unfold Strand.wxp; split <;> rfl
@[simp] theorem Strand.wxp_pend (st : Strand) (r : XReg) (v : Word) (p : Bool) : (st.wxp r v p).pend = st.pend := by
  unfold Strand.wxp; split <;> rfl
@[simp] theorem Strand.wxp_state (st : Strand) (r : XReg) (v : Word) (p : Bool) : (st.wxp r v p).state = st.state := by
  unfold Strand.wxp; split <;> rfl
@[simp] theorem Strand.wxp_marked (st : Strand) (r : XReg) (v : Word) (p : Bool) : (st.wxp r v p).marked = st.marked := by
  unfold Strand.wxp; split <;> rfl
@[simp] theorem Strand.wxp_transBad (st : Strand) (r : XReg) (v : Word) (p : Bool) : (st.wxp r v p).transBad = st.transBad := by
  unfold Strand.wxp; split <;> rfl
@[simp] theorem Strand.wxp_ops (st : Strand) (r : XReg) (v : Word) (p : Bool) : (st.wxp r v p).ops = st.ops := by
  unfold Strand.wxp; split <;> rfl
@[simp] theorem Strand.wxp_nextOp (st : Strand) (r : XReg) (v : Word) (p : Bool) : (st.wxp r v p).nextOp = st.nextOp := by
  unfold Strand.wxp; split <;> rfl
@[simp] theorem Strand.wxp_roundCells (st : Strand) (r : XReg) (v : Word) (p : Bool) : (st.wxp r v p).roundCells = st.roundCells := by
  unfold Strand.wxp; split <;> rfl

/-! ### `Strand.wx` -/

@[simp] theorem Strand.wx_lid (st : Strand) (r : XReg) (v : Word) : (st.wx r v).lid = st.lid := Strand.wxp_lid st r v false
@[simp] theorem Strand.wx_ownerBent (st : Strand) (r : XReg) (v : Word) : (st.wx r v).ownerBent = st.ownerBent := Strand.wxp_ownerBent st r v false
@[simp] theorem Strand.wx_ownerSlot (st : Strand) (r : XReg) (v : Word) : (st.wx r v).ownerSlot = st.ownerSlot := Strand.wxp_ownerSlot st r v false
@[simp] theorem Strand.wx_pc (st : Strand) (r : XReg) (v : Word) : (st.wx r v).pc = st.pc := Strand.wxp_pc st r v false
@[simp] theorem Strand.wx_f (st : Strand) (r : XReg) (v : Word) : (st.wx r v).f = st.f := Strand.wxp_f st r v false
@[simp] theorem Strand.wx_c (st : Strand) (r : XReg) (v : Word) : (st.wx r v).c = st.c := Strand.wxp_c st r v false
@[simp] theorem Strand.wx_pf (st : Strand) (r : XReg) (v : Word) : (st.wx r v).pf = st.pf := Strand.wxp_pf st r v false
@[simp] theorem Strand.wx_fpmode (st : Strand) (r : XReg) (v : Word) : (st.wx r v).fpmode = st.fpmode := Strand.wxp_fpmode st r v false
@[simp] theorem Strand.wx_sigth (st : Strand) (r : XReg) (v : Word) : (st.wx r v).sigth = st.sigth := Strand.wxp_sigth st r v false
@[simp] theorem Strand.wx_sigen (st : Strand) (r : XReg) (v : Word) : (st.wx r v).sigen = st.sigen := Strand.wxp_sigen st r v false
@[simp] theorem Strand.wx_siglog (st : Strand) (r : XReg) (v : Word) : (st.wx r v).siglog = st.siglog := Strand.wxp_siglog st r v false
@[simp] theorem Strand.wx_trapvec (st : Strand) (r : XReg) (v : Word) : (st.wx r v).trapvec = st.trapvec := Strand.wxp_trapvec st r v false
@[simp] theorem Strand.wx_trapcause (st : Strand) (r : XReg) (v : Word) : (st.wx r v).trapcause = st.trapcause := Strand.wxp_trapcause st r v false
@[simp] theorem Strand.wx_trappc (st : Strand) (r : XReg) (v : Word) : (st.wx r v).trappc = st.trappc := Strand.wxp_trappc st r v false
@[simp] theorem Strand.wx_wid (st : Strand) (r : XReg) (v : Word) : (st.wx r v).wid = st.wid := Strand.wxp_wid st r v false
@[simp] theorem Strand.wx_round (st : Strand) (r : XReg) (v : Word) : (st.wx r v).round = st.round := Strand.wxp_round st r v false
@[simp] theorem Strand.wx_evq (st : Strand) (r : XReg) (v : Word) : (st.wx r v).evq = st.evq := Strand.wxp_evq st r v false
@[simp] theorem Strand.wx_loops (st : Strand) (r : XReg) (v : Word) : (st.wx r v).loops = st.loops := Strand.wxp_loops st r v false
@[simp] theorem Strand.wx_sxcfg (st : Strand) (r : XReg) (v : Word) : (st.wx r v).sxcfg = st.sxcfg := Strand.wxp_sxcfg st r v false
@[simp] theorem Strand.wx_phs (st : Strand) (r : XReg) (v : Word) : (st.wx r v).phs = st.phs := Strand.wxp_phs st r v false
@[simp] theorem Strand.wx_seqNext (st : Strand) (r : XReg) (v : Word) : (st.wx r v).seqNext = st.seqNext := Strand.wxp_seqNext st r v false
@[simp] theorem Strand.wx_seqLast (st : Strand) (r : XReg) (v : Word) : (st.wx r v).seqLast = st.seqLast := Strand.wxp_seqLast st r v false
@[simp] theorem Strand.wx_saved (st : Strand) (r : XReg) (v : Word) : (st.wx r v).saved = st.saved := Strand.wxp_saved st r v false
@[simp] theorem Strand.wx_suppress (st : Strand) (r : XReg) (v : Word) : (st.wx r v).suppress = st.suppress := Strand.wxp_suppress st r v false
@[simp] theorem Strand.wx_pend (st : Strand) (r : XReg) (v : Word) : (st.wx r v).pend = st.pend := Strand.wxp_pend st r v false
@[simp] theorem Strand.wx_state (st : Strand) (r : XReg) (v : Word) : (st.wx r v).state = st.state := Strand.wxp_state st r v false
@[simp] theorem Strand.wx_marked (st : Strand) (r : XReg) (v : Word) : (st.wx r v).marked = st.marked := Strand.wxp_marked st r v false
@[simp] theorem Strand.wx_transBad (st : Strand) (r : XReg) (v : Word) : (st.wx r v).transBad = st.transBad := Strand.wxp_transBad st r v false
@[simp] theorem Strand.wx_ops (st : Strand) (r : XReg) (v : Word) : (st.wx r v).ops = st.ops := Strand.wxp_ops st r v false
@[simp] theorem Strand.wx_nextOp (st : Strand) (r : XReg) (v : Word) : (st.wx r v).nextOp = st.nextOp := Strand.wxp_nextOp st r v false
@[simp] theorem Strand.wx_roundCells (st : Strand) (r : XReg) (v : Word) : (st.wx r v).roundCells = st.roundCells := Strand.wxp_roundCells st r v false

/-! ### `Strand.wc` -/

@[simp] theorem Strand.wc_lid (st : Strand) (r : CReg) (v : Bool) : (st.wc r v).lid = st.lid := by
  unfold Strand.wc; split <;> rfl
@[simp] theorem Strand.wc_ownerBent (st : Strand) (r : CReg) (v : Bool) : (st.wc r v).ownerBent = st.ownerBent := by
  unfold Strand.wc; split <;> rfl
@[simp] theorem Strand.wc_ownerSlot (st : Strand) (r : CReg) (v : Bool) : (st.wc r v).ownerSlot = st.ownerSlot := by
  unfold Strand.wc; split <;> rfl
@[simp] theorem Strand.wc_pc (st : Strand) (r : CReg) (v : Bool) : (st.wc r v).pc = st.pc := by
  unfold Strand.wc; split <;> rfl
@[simp] theorem Strand.wc_x (st : Strand) (r : CReg) (v : Bool) : (st.wc r v).x = st.x := by
  unfold Strand.wc; split <;> rfl
@[simp] theorem Strand.wc_f (st : Strand) (r : CReg) (v : Bool) : (st.wc r v).f = st.f := by
  unfold Strand.wc; split <;> rfl
@[simp] theorem Strand.wc_px (st : Strand) (r : CReg) (v : Bool) : (st.wc r v).px = st.px := by
  unfold Strand.wc; split <;> rfl
@[simp] theorem Strand.wc_pf (st : Strand) (r : CReg) (v : Bool) : (st.wc r v).pf = st.pf := by
  unfold Strand.wc; split <;> rfl
@[simp] theorem Strand.wc_fpmode (st : Strand) (r : CReg) (v : Bool) : (st.wc r v).fpmode = st.fpmode := by
  unfold Strand.wc; split <;> rfl
@[simp] theorem Strand.wc_sigth (st : Strand) (r : CReg) (v : Bool) : (st.wc r v).sigth = st.sigth := by
  unfold Strand.wc; split <;> rfl
@[simp] theorem Strand.wc_sigen (st : Strand) (r : CReg) (v : Bool) : (st.wc r v).sigen = st.sigen := by
  unfold Strand.wc; split <;> rfl
@[simp] theorem Strand.wc_siglog (st : Strand) (r : CReg) (v : Bool) : (st.wc r v).siglog = st.siglog := by
  unfold Strand.wc; split <;> rfl
@[simp] theorem Strand.wc_trapvec (st : Strand) (r : CReg) (v : Bool) : (st.wc r v).trapvec = st.trapvec := by
  unfold Strand.wc; split <;> rfl
@[simp] theorem Strand.wc_trapcause (st : Strand) (r : CReg) (v : Bool) : (st.wc r v).trapcause = st.trapcause := by
  unfold Strand.wc; split <;> rfl
@[simp] theorem Strand.wc_trappc (st : Strand) (r : CReg) (v : Bool) : (st.wc r v).trappc = st.trappc := by
  unfold Strand.wc; split <;> rfl
@[simp] theorem Strand.wc_wid (st : Strand) (r : CReg) (v : Bool) : (st.wc r v).wid = st.wid := by
  unfold Strand.wc; split <;> rfl
@[simp] theorem Strand.wc_round (st : Strand) (r : CReg) (v : Bool) : (st.wc r v).round = st.round := by
  unfold Strand.wc; split <;> rfl
@[simp] theorem Strand.wc_evq (st : Strand) (r : CReg) (v : Bool) : (st.wc r v).evq = st.evq := by
  unfold Strand.wc; split <;> rfl
@[simp] theorem Strand.wc_loops (st : Strand) (r : CReg) (v : Bool) : (st.wc r v).loops = st.loops := by
  unfold Strand.wc; split <;> rfl
@[simp] theorem Strand.wc_sxcfg (st : Strand) (r : CReg) (v : Bool) : (st.wc r v).sxcfg = st.sxcfg := by
  unfold Strand.wc; split <;> rfl
@[simp] theorem Strand.wc_phs (st : Strand) (r : CReg) (v : Bool) : (st.wc r v).phs = st.phs := by
  unfold Strand.wc; split <;> rfl
@[simp] theorem Strand.wc_seqNext (st : Strand) (r : CReg) (v : Bool) : (st.wc r v).seqNext = st.seqNext := by
  unfold Strand.wc; split <;> rfl
@[simp] theorem Strand.wc_seqLast (st : Strand) (r : CReg) (v : Bool) : (st.wc r v).seqLast = st.seqLast := by
  unfold Strand.wc; split <;> rfl
@[simp] theorem Strand.wc_saved (st : Strand) (r : CReg) (v : Bool) : (st.wc r v).saved = st.saved := by
  unfold Strand.wc; split <;> rfl
@[simp] theorem Strand.wc_suppress (st : Strand) (r : CReg) (v : Bool) : (st.wc r v).suppress = st.suppress := by
  unfold Strand.wc; split <;> rfl
@[simp] theorem Strand.wc_pend (st : Strand) (r : CReg) (v : Bool) : (st.wc r v).pend = st.pend := by
  unfold Strand.wc; split <;> rfl
@[simp] theorem Strand.wc_state (st : Strand) (r : CReg) (v : Bool) : (st.wc r v).state = st.state := by
  unfold Strand.wc; split <;> rfl
@[simp] theorem Strand.wc_marked (st : Strand) (r : CReg) (v : Bool) : (st.wc r v).marked = st.marked := by
  unfold Strand.wc; split <;> rfl
@[simp] theorem Strand.wc_transBad (st : Strand) (r : CReg) (v : Bool) : (st.wc r v).transBad = st.transBad := by
  unfold Strand.wc; split <;> rfl
@[simp] theorem Strand.wc_ops (st : Strand) (r : CReg) (v : Bool) : (st.wc r v).ops = st.ops := by
  unfold Strand.wc; split <;> rfl
@[simp] theorem Strand.wc_nextOp (st : Strand) (r : CReg) (v : Bool) : (st.wc r v).nextOp = st.nextOp := by
  unfold Strand.wc; split <;> rfl
@[simp] theorem Strand.wc_roundCells (st : Strand) (r : CReg) (v : Bool) : (st.wc r v).roundCells = st.roundCells := by
  unfold Strand.wc; split <;> rfl
/-! ### What the updates set -/

@[simp] theorem Strand.goto_pc (st : Strand) (v : Word) : (st.goto v).pc = v := rfl
@[simp] theorem Strand.goto_suppress (st : Strand) (v : Word) : (st.goto v).suppress = false := rfl
@[simp] theorem Strand.next_pc (st : Strand) : st.next.pc = st.pc + 4 := rfl
@[simp] theorem Strand.next_suppress (st : Strand) : st.next.suppress = false := rfl

end Sys2Proof.Machine
end

