-- ==== Sys2Proof/Laws/Memory.lean ====
section
/-! SUPPORT. The memory's canonical form, kept by every operation, and reads after writes. -/

namespace Sys2Proof.Machine

/-! ### The canonical form -/

theorem Memory.wfFrom_mono (m : List Host.Cell) {lo lo' : Nat} (h : lo' ≤ lo) (w : Memory.wfFrom lo m = true) :
    Memory.wfFrom lo' m = true := by
  cases m with
  | nil => rfl
  | cons c m =>
    obtain ⟨k, v⟩ := c
    simp only [Memory.wfFrom, Bool.and_eq_true, decide_eq_true_eq] at w ⊢
    exact ⟨⟨by omega, w.1.2⟩, w.2⟩

theorem Memory.put_wfFrom (m : List Host.Cell) (lo a : Nat) (v : Byte) (h : lo ≤ a) (w : Memory.wfFrom lo m = true) :
    Memory.wfFrom lo (Memory.put m a v) = true := by
  induction m generalizing lo with
  | nil =>
    simp only [Memory.put]
    split
    · rfl
    · next hv =>
      simp only [Memory.wfFrom, Bool.and_true, Bool.and_eq_true, decide_eq_true_eq]
      exact ⟨h, by simpa using hv⟩
  | cons c m ih =>
    obtain ⟨k, x⟩ := c
    simp only [Memory.wfFrom, Bool.and_eq_true, decide_eq_true_eq] at w
    obtain ⟨⟨h1, h2⟩, h3⟩ := w
    simp only [Memory.put]
    split
    · next hk =>
      split
      · simp only [Memory.wfFrom, Bool.and_eq_true, decide_eq_true_eq]
        exact ⟨⟨h1, h2⟩, h3⟩
      · next hv =>
        simp only [Memory.wfFrom, Bool.and_eq_true, decide_eq_true_eq]
        exact ⟨⟨h, by simpa using hv⟩, ⟨by omega, h2⟩, h3⟩
    · split
      · next he =>
        subst he
        split
        · exact Memory.wfFrom_mono m (by omega) h3
        · next hv =>
          simp only [Memory.wfFrom, Bool.and_eq_true, decide_eq_true_eq]
          exact ⟨⟨h, by simpa using hv⟩, h3⟩
      · simp only [Memory.wfFrom, Bool.and_eq_true, decide_eq_true_eq]
        exact ⟨⟨h1, h2⟩, ih (k + 1) (by omega) h3⟩

theorem Memory.put_wf (m : List Host.Cell) (a : Nat) (v : Byte) (w : Memory.wf m = true) : Memory.wf (Memory.put m a v) = true :=
  Memory.put_wfFrom m 0 a v (Nat.zero_le a) w

theorem Memory.putBytes_wf (l : List Byte) (m : List Host.Cell) (a : Nat) (w : Memory.wf m = true) :
    Memory.wf (Memory.putBytes m a l) = true := by
  induction l generalizing m a with
  | nil => exact w
  | cons v l ih => exact ih _ _ (Memory.put_wf m a v w)

theorem applyBytes_wf (L : Launch) (w : Writer) (l : List Byte) (m : List Host.Cell) (a : Nat) (h : Memory.wf m = true) :
    Memory.wf (applyBytes L w m a l) = true := by
  induction l generalizing m a with
  | nil => exact h
  | cons v l ih =>
    simp only [applyBytes]
    apply ih
    split
    · exact Memory.put_wf m a v h
    · exact h

theorem Memory.filter_wfFrom (p : Host.Cell → Bool) (m : List Host.Cell) (lo : Nat) (w : Memory.wfFrom lo m = true) :
    Memory.wfFrom lo (m.filter p) = true := by
  induction m generalizing lo with
  | nil => rfl
  | cons c m ih =>
    obtain ⟨k, v⟩ := c
    simp only [Memory.wfFrom, Bool.and_eq_true, decide_eq_true_eq] at w
    obtain ⟨⟨h1, h2⟩, h3⟩ := w
    rw [List.filter_cons]
    split
    · simp only [Memory.wfFrom, Bool.and_eq_true, decide_eq_true_eq]
      exact ⟨⟨h1, h2⟩, ih _ h3⟩
    · exact ih lo (Memory.wfFrom_mono m (by omega) h3)

theorem Memory.filter_wf (p : Host.Cell → Bool) (m : List Host.Cell) (w : Memory.wf m = true) : Memory.wf (m.filter p) = true :=
  Memory.filter_wfFrom p m 0 w

theorem Memory.clear_wf (m : List Host.Cell) (a n : Nat) (w : Memory.wf m = true) : Memory.wf (Memory.clear m a n) = true :=
  Memory.filter_wf _ m w

theorem Memory.puts_wf (f : Host.Cell → Nat) (l m : List Host.Cell) (w : Memory.wf m = true) :
    Memory.wf (l.foldl (fun m c => Memory.put m (f c) c.2) m) = true := by
  induction l generalizing m with
  | nil => exact w
  | cons c l ih => exact ih _ (Memory.put_wf m _ _ w)

/-! ### Reads after writes -/

theorem Memory.get_of_lt (m : List Host.Cell) (lo a : Nat) (w : Memory.wfFrom lo m = true) (h : a < lo) : Memory.get m a = 0 := by
  induction m generalizing lo with
  | nil => rfl
  | cons c m ih =>
    obtain ⟨k, v⟩ := c
    simp only [Memory.wfFrom, Bool.and_eq_true, decide_eq_true_eq] at w
    simp only [Memory.get]
    rw [if_neg (by omega)]
    exact ih _ w.2 (by omega)

theorem Memory.get_put_from (m : List Host.Cell) (lo a : Nat) (v : Byte) (b : Nat) (w : Memory.wfFrom lo m = true) :
    Memory.get (Memory.put m a v) b = if b = a then v else Memory.get m b := by
  induction m generalizing lo with
  | nil =>
    simp only [Memory.put]
    split
    · next h => subst h; simp [Memory.get]
    · simp only [Memory.get, eq_comm]
  | cons c m ih =>
    obtain ⟨k, x⟩ := c
    simp only [Memory.wfFrom, Bool.and_eq_true, decide_eq_true_eq] at w
    simp only [Memory.put]
    split
    · next hk =>
      split
      · next hv =>
        subst hv
        split
        · next hb =>
          subst hb
          simp only [Memory.get]
          rw [if_neg (by omega)]
          exact Memory.get_of_lt m _ b w.2 (by omega)
        · rfl
      · simp only [Memory.get, eq_comm]
    · split
      · next he =>
        subst he
        split
        · next hv =>
          subst hv
          split
          · next hb => subst hb; exact Memory.get_of_lt m _ b w.2 (by omega)
          · next hb => simp only [Memory.get]; rw [if_neg (fun e => hb e.symm)]
        · simp only [Memory.get]
          by_cases hb : b = a
          · simp [hb]
          · rw [if_neg (fun e => hb e.symm), if_neg hb, if_neg (fun e => hb e.symm)]
      · next h1 h2 =>
        simp only [Memory.get, ih _ w.2]
        by_cases hb : k = b
        · subst hb; rw [if_pos rfl, if_neg (fun e => h2 e.symm), if_pos rfl]
        · simp [hb]

/-- A read after a write of a byte. -/
theorem Memory.get_put (m : List Host.Cell) (a : Nat) (v : Byte) (b : Nat) (w : Memory.wf m = true) :
    Memory.get (Memory.put m a v) b = if b = a then v else Memory.get m b := Memory.get_put_from m 0 a v b w

theorem Memory.get_putBytes_of_outside (l : List Byte) (m : List Host.Cell) (a b : Nat) (w : Memory.wf m = true)
    (h : b < a ∨ a + l.length ≤ b) : Memory.get (Memory.putBytes m a l) b = Memory.get m b := by
  induction l generalizing m a with
  | nil => rfl
  | cons v l ih =>
    simp only [List.length_cons] at h
    simp only [Memory.putBytes]
    rw [ih _ _ (Memory.put_wf m a v w) (by omega), Memory.get_put m a v b w, if_neg (by omega)]

theorem Memory.get_putBytes (l : List Byte) (m : List Host.Cell) (a k : Nat) (w : Memory.wf m = true) (h : k < l.length) :
    Memory.get (Memory.putBytes m a l) (a + k) = l[k] := by
  induction l generalizing m a k with
  | nil => simp at h
  | cons v l ih =>
    simp only [Memory.putBytes]
    cases k with
    | zero =>
      rw [Memory.get_putBytes_of_outside l _ _ _ (Memory.put_wf m a v w) (by omega), Memory.get_put m a v _ w]
      simp
    | succ k =>
      have := ih (Memory.put m a v) (a + 1) k (Memory.put_wf m a v w) (by simpa using h)
      rw [show a + (k + 1) = a + 1 + k by omega, this]
      simp

theorem applyBytes_get_of_outside (L : Launch) (x : Writer) (l : List Byte) (m : List Host.Cell) (a b : Nat)
    (w : Memory.wf m = true) (h : b < a ∨ a + l.length ≤ b) : Memory.get (applyBytes L x m a l) b = Memory.get m b := by
  induction l generalizing m a with
  | nil => rfl
  | cons v l ih =>
    simp only [List.length_cons] at h
    simp only [applyBytes]
    split
    · rw [ih _ _ (Memory.put_wf m a v w) (by omega), Memory.get_put m a v b w, if_neg (by omega)]
    · exact ih _ _ w (by omega)

/-- R286: without the deterministic mode every byte of a write is applied. -/
theorem applyBytes_free (L : Launch) (x : Writer) (l : List Byte) (m : List Host.Cell) (a : Nat) (h : L.det = false) :
    applyBytes L x m a l = Memory.putBytes m a l := by
  induction l generalizing m a with
  | nil => rfl
  | cons v l ih => simp [applyBytes, Memory.putBytes, Launch.applies, h, ih]

/-! ### The machine's memory -/

theorem State.ordered_of_mem {s t : State} (h : t.mem = s.mem) (w : s.Ordered) : t.Ordered := by
  unfold State.Ordered at *; rw [h]; exact w

@[simp] theorem State.recordUndo_mem (s : State) (w : Writer) (a n : Nat) : (s.recordUndo w a n).mem = s.mem := by
  unfold State.recordUndo
  split
  · rfl
  · split <;> rfl

theorem State.write_mem (s : State) (w : Writer) (a : Nat) (l : List Byte) (p : Bool) :
    (s.write w a l p).mem = applyBytes ((s.recordUndo w a l.length).launch w.lid) w s.mem a l := by
  unfold State.write
  dsimp only
  rw [State.recordUndo_mem]
  split <;> split <;> rfl

/-- A write keeps the canonical form. -/
theorem State.write_ordered (s : State) (w : Writer) (a : Nat) (l : List Byte) (p : Bool) (h : s.Ordered) :
    (s.write w a l p).Ordered := by
  unfold State.Ordered
  rw [State.write_mem]
  exact applyBytes_wf _ w l s.mem a h

/-- A write leaves every byte outside it as it was. -/
theorem State.write_byte_of_outside (s : State) (w : Writer) (a : Nat) (l : List Byte) (p : Bool) (b : Nat) (h : s.Ordered)
    (o : b < a ∨ a + l.length ≤ b) : (s.write w a l p).byte b = s.byte b := by
  unfold State.byte
  rw [State.write_mem]
  exact applyBytes_get_of_outside _ w l s.mem a b h o

@[simp] theorem Launch.recordUnit_det (s : State) (w : Writer) (L : Launch) (u : Nat) : (Launch.recordUnit s w L u).det = L.det := by
  unfold Launch.recordUnit
  split
  · rfl
  · dsimp only; split <;> rfl

theorem Launch.recordUnits_det (s : State) (w : Writer) (us : List Nat) (L : Launch) :
    (us.foldl (Launch.recordUnit s w) L).det = L.det := by
  induction us generalizing L with
  | nil => rfl
  | cons u us ih => rw [List.foldl_cons, ih, Launch.recordUnit_det]

@[simp] theorem State.recordUndo_launch_det (s : State) (w : Writer) (a n l : Nat) :
    ((s.recordUndo w a n).launch l).det = (s.launch l).det := by
  unfold State.recordUndo
  split
  · rfl
  · next L hL =>
    split
    · rfl
    · unfold State.launch
      simp only [State.setLaunch, NMap.getD_set]
      split
      · next e =>
        subst e
        rw [Launch.recordUnits_det]
        unfold State.launch? at hL
        unfold NMap.getD
        rw [hL]; rfl
      · rfl

/-- Without the deterministic mode a write's bytes stand where they were written. -/
theorem State.write_byte_inside (s : State) (w : Writer) (a : Nat) (l : List Byte) (p : Bool) (k : Nat) (h : s.Ordered)
    (hd : (s.launch w.lid).det = false) (hk : k < l.length) : (s.write w a l p).byte (a + k) = l[k] := by
  unfold State.byte
  rw [State.write_mem, applyBytes_free]
  · exact Memory.get_putBytes l s.mem a k h hk
  · rw [State.recordUndo_launch_det]; exact hd

theorem State.poke_ordered (s : State) (a : Nat) (l : List Byte) (h : s.Ordered) : (s.poke a l).Ordered :=
  Memory.putBytes_wf l s.mem a h

theorem State.zero_ordered (s : State) (a n : Nat) (h : s.Ordered) : (s.zero a n).Ordered := Memory.clear_wf s.mem a n h

theorem State.reset_ordered : State.reset.Ordered := rfl

end Sys2Proof.Machine
end

