-- ==== Sys2Proof/Laws/Strand.lean ====
section
/-! SUPPORT. What one strand's registers read after a write, when its instruction issues, and what the register writes leave. -/

namespace Sys2Proof.Machine

theorem State.ready_of_issues {s : State} {u : Uses} {b k : Nat} {st : Strand} (h : s.Issues u b k st) : s.ready u = .go b k st := by
  obtain ⟨⟨hc, hs, hr, L, hl, hp⟩, hb, hq⟩ := h
  simp [State.ready, hc, hs, State.open?, hr, hl, hp, hb, hq]

theorem State.issue_of_issues {s : State} {u : Uses} {b k : Nat} {st : Strand} (h : s.Issues u b k st) (body) :
    s.issue u body = body b k st := by simp [State.issue, State.ready_of_issues h]

theorem State.local_of_issues {s : State} {u : Uses} {b k : Nat} {st : Strand} (h : s.Issues u b k st) (f) :
    s.local u f = .next (s.setStrand b k (f st)) := by simp [State.local, State.issue_of_issues h]

theorem Strand.rx_wx (st : Strand) (d r : XReg) (v : Word) :
    (st.wx d v).rx r = if r = d then (if d = 0 then 0 else v) else st.rx r := by
  unfold Strand.wx Strand.wxp Strand.rx
  by_cases h0 : d = 0
  · subst h0
    simp only [↓reduceIte]
    split <;> rfl
  · by_cases h : r = d
    · subst h; simp only [if_neg h0, ↓reduceIte, Vector.getElem_set_self]
    · have : d.toNat ≠ r.toNat := fun e => h (BitVec.eq_of_toNat_eq e.symm)
      simp only [if_neg h0, if_neg h]
      split
      · rfl
      · exact Vector.getElem_set_ne _ _ this
theorem Strand.poisonX_wx (st : Strand) (d r : XReg) (v : Word) :
    (st.wx d v).poisonX r = if r = d then false else st.poisonX r := by
  unfold Strand.wx Strand.wxp Strand.poisonX
  by_cases h0 : d = 0
  · subst h0
    simp only [↓reduceIte]
    split <;> rfl
  · by_cases h : r = d
    · subst h; simp only [if_neg h0, ↓reduceIte, Vector.getElem_set_self]
    · have : d.toNat ≠ r.toNat := fun e => h (BitVec.eq_of_toNat_eq e.symm)
      simp only [if_neg h0, if_neg h]
      split
      · rfl
      · exact Vector.getElem_set_ne _ _ this
theorem Strand.rf_wfp (st : Strand) (d r : FReg) (v : FVal) (p : Bool) :
    (st.wfp d v p).rf r = if r = d then v else st.rf r := by
  unfold Strand.wfp Strand.rf
  by_cases h : r = d
  · subst h; simp only [↓reduceIte, Vector.getElem_set_self]
  · have : d.toNat ≠ r.toNat := fun e => h (BitVec.eq_of_toNat_eq e.symm)
    rw [if_neg h]; exact Vector.getElem_set_ne d.isLt r.isLt this
theorem Strand.poisonF_wfp (st : Strand) (d r : FReg) (v : FVal) (p : Bool) :
    (st.wfp d v p).poisonF r = if r = d then p else st.poisonF r := by
  unfold Strand.wfp Strand.poisonF
  by_cases h : r = d
  · subst h; simp only [↓reduceIte, Vector.getElem_set_self]
  · have : d.toNat ≠ r.toNat := fun e => h (BitVec.eq_of_toNat_eq e.symm)
    rw [if_neg h]; exact Vector.getElem_set_ne d.isLt r.isLt this
theorem Strand.rc_wc (st : Strand) (d r : CReg) (v : Bool) :
    (st.wc d v).rc r = if r = d then (if d = 0 then true else v) else st.rc r := by
  unfold Strand.wc Strand.rc
  by_cases h0 : d = 0
  · subst h0
    simp only [↓reduceIte]
    split <;> rfl
  · by_cases h : r = d
    · subst h; simp only [if_neg h0, ↓reduceIte, Vector.getElem_set_self]
    · have : d.toNat ≠ r.toNat := fun e => h (BitVec.eq_of_toNat_eq e.symm)
      simp only [if_neg h0, if_neg h]
      split
      · rfl
      · exact Vector.getElem_set_ne _ _ this

theorem Strand.wx_fixed (st : Strand) (d : XReg) (v : Word) (p : Bool) : (st.wxp d v p).fixed = st.fixed := by
  unfold Strand.wxp; split <;> rfl
theorem Strand.wc_fixed (st : Strand) (d : CReg) (v : Bool) : (st.wc d v).fixed = st.fixed := by
  unfold Strand.wc; split <;> rfl
theorem Strand.rf_wxp (st : Strand) (d : XReg) (v p r) : (st.wxp d v p).rf r = st.rf r ∧ (st.wxp d v p).poisonF r = st.poisonF r := by
  unfold Strand.wxp; split <;> exact ⟨rfl, rfl⟩
theorem Strand.rc_wxp (st : Strand) (d : XReg) (v p r) : (st.wxp d v p).rc r = st.rc r := by unfold Strand.wxp; split <;> rfl
theorem Strand.rx_wc (st : Strand) (d : CReg) (v r) : (st.wc d v).rx r = st.rx r ∧ (st.wc d v).poisonX r = st.poisonX r := by
  unfold Strand.wc; split <;> exact ⟨rfl, rfl⟩
theorem Strand.rf_wc (st : Strand) (d : CReg) (v r) : (st.wc d v).rf r = st.rf r ∧ (st.wc d v).poisonF r = st.poisonF r := by
  unfold Strand.wc; split <;> exact ⟨rfl, rfl⟩

theorem Strand.same_goto (st : Strand) (v xs fs cs) : st.SameExcept (st.goto v) xs fs cs := ⟨fun _ _ => ⟨rfl, rfl⟩, fun _ _ => ⟨rfl, rfl⟩, fun _ _ => rfl, rfl⟩
theorem Strand.same_wx (st : Strand) (d v w fs cs) : st.SameExcept ((st.wx d v).goto w) [d] fs cs := by
  refine ⟨fun r h => ?_, fun r _ => ?_, fun r _ => ?_, ?_⟩
  · have h : r ≠ d := by simpa using h
    have h1 := Strand.rx_wx st d r v
    have h2 := Strand.poisonX_wx st d r v
    rw [if_neg h] at h1 h2
    exact ⟨h1, h2⟩
  · exact Strand.rf_wxp st d v false r
  · exact Strand.rc_wxp st d v false r
  · exact Strand.wx_fixed st d v false
theorem Strand.same_wf (st : Strand) (d v p w xs cs) : st.SameExcept ((st.wfp d v p).goto w) xs [d] cs := by
  refine ⟨fun r _ => ⟨rfl, rfl⟩, fun r h => ?_, fun r _ => rfl, rfl⟩
  have h : r ≠ d := by simpa using h
  have h1 := Strand.rf_wfp st d r v p
  have h2 := Strand.poisonF_wfp st d r v p
  rw [if_neg h] at h1 h2
  exact ⟨h1, h2⟩
theorem Strand.same_wc (st : Strand) (d v w xs fs) : st.SameExcept ((st.wc d v).goto w) xs fs [d] := by
  refine ⟨fun r _ => Strand.rx_wc st d v r, fun r _ => Strand.rf_wc st d v r, fun r h => ?_, Strand.wc_fixed st d v⟩
  have h : r ≠ d := by simpa using h
  have h1 := Strand.rc_wc st d r v
  rw [if_neg h] at h1
  exact h1
theorem Strand.same_branch (st : Strand) (c off xs fs cs) : st.SameExcept (st.branch c off) xs fs cs := by
  unfold Strand.branch; split <;> exact Strand.same_goto st _ xs fs cs


end Sys2Proof.Machine
end

