-- ==== Sys2Proof/Laws/Traps.lean ====
section
/-! SUPPORT. Everything that issuing, a launch fault, a trap and a return from one can do, said once (R22, R106, R194, R195, R348,
R369), and that none of them touches memory. -/

namespace Sys2Proof.Machine

/-- An instruction that issues through `issue` has no agent, stops before its own effect, or has that effect. -/
theorem State.issue_cases (s : State) (u : Uses) (body : Nat → Nat → Strand → Out) :
    (s.ready u = .noAgent ∧ s.issue u body = .fault .noAgent) ∨ (∃ t, s.ready u = .stop t ∧ s.issue u body = .next t) ∨
    ∃ b k st, s.ready u = .go b k st ∧ s.issue u body = body b k st := by
  unfold State.issue
  cases h : s.ready u with
  | noAgent => exact .inl ⟨rfl, rfl⟩
  | stop t => exact .inr (.inl ⟨t, rfl, rfl⟩)
  | go b k st => exact .inr (.inr ⟨b, k, st, rfl, rfl⟩)

/-- Where an instruction goes on to its own effect, its strand is the current one, is in its slot and may issue. -/
theorem State.of_ready_go {s : State} {u : Uses} {b k : Nat} {st : Strand} (h : s.ready u = .go b k st) :
    s.cur = .strand b k ∧ s.strand? b k = some st ∧ s.open? st = true ∧ (st.blocking u).isEmpty = true ∧
      st.poisonedUse u = false := by
  unfold State.ready at h
  split at h
  · rename_i b' k' hc
    split at h
    · cases h
    · rename_i st' hs
      split at h
      · cases h
      · rename_i ho
        split at h
        · split at h <;> cases h
        · rename_i hb
          split at h
          · cases h
          · rename_i hp
            injection h with h1 h2 h3
            subst h1 h2 h3
            exact ⟨hc, hs, by simpa using ho, by simpa using hb, by simpa using hp⟩
  · cases h

/-- A launch fault changes nothing, or records itself in its launch and starts the drain. -/
theorem State.launchFault_cases (s : State) (lid code : Nat) (cause : BitVec 16) (pc : Word) (w : Nat) :
    s.launchFault lid code cause pc w = s ∨
    ∃ L, s.launch? lid = some L ∧ L.fault = 0 ∧ L.phase ≠ .ended ∧ s.launchFault lid code cause pc w =
      s.setLaunch lid { L with fault := code, trapCause := cause, fpc := pc, fwho := w, phase := .draining, tfault := s.dtime } := by
  unfold State.launchFault
  cases h : s.launch? lid with
  | none => exact .inl rfl
  | some L =>
    by_cases hc : L.fault ≠ 0 ∨ L.phase = .ended
    · exact .inl (by simp only [if_pos hc])
    · simp only [if_neg hc]
      exact .inr ⟨L, rfl, by simpa using fun e => hc (.inl e), fun e => hc (.inr e), rfl⟩

/-- A rollback trigger changes nothing, or starts the rollback of its launch. -/
theorem State.startRollback_cases (s : State) (lid : Nat) :
    s.startRollback lid = s ∨ ∃ L, s.launch? lid = some L ∧ L.phase ≠ .draining ∧ L.phase ≠ .closing ∧ L.phase ≠ .ended ∧
      s.startRollback lid = s.setLaunch lid { L with phase := .rolling } := by
  unfold State.startRollback
  cases h : s.launch? lid with
  | none => exact .inl rfl
  | some L =>
    by_cases hc : L.phase = .draining ∨ L.phase = .closing ∨ L.phase = .ended
    · exact .inl (by simp only [if_pos hc])
    · simp only [if_neg hc]
      exact .inr ⟨L, rfl, fun e => hc (.inl e), fun e => hc (.inr (.inl e)), fun e => hc (.inr (.inr e)), rfl⟩

/-- A trap starts a rollback, ends its strand with a launch fault, or enters the handler. -/
theorem State.takeTrap_cases (s : State) (b k : Nat) (st : Strand) (cause : BitVec 16) (tenon : Option (Nat × Nat))
    (log : List Word) :
    (cause = 0x0031 ∧ s.takeTrap b k st cause tenon log =
      (s.setStrand b k { st with trapcause := cause, trappc := st.pc }).startRollback st.lid) ∨
    (cause ≠ 0x0031 ∧ (st.trapvec = 0 ∨ st.inHandler = true) ∧ s.takeTrap b k st cause tenon log =
      (s.dropStrand b k).launchFault st.lid 0x05 cause st.pc (who b k)) ∨
    (cause ≠ 0x0031 ∧ st.trapvec ≠ 0 ∧ st.inHandler = false ∧
      s.takeTrap b k st cause tenon log = s.setStrand b k (st.enter cause tenon log)) := by
  unfold State.takeTrap
  by_cases h1 : cause = 0x0031
  · exact .inl ⟨h1, by simp only [if_pos h1]⟩
  · by_cases h2 : st.trapvec = 0 ∨ st.inHandler = true
    · exact .inr (.inl ⟨h1, h2, by simp only [if_neg h1, if_pos h2]⟩)
    · refine .inr (.inr ⟨h1, fun e => h2 (.inl e), ?_, by simp only [if_neg h1, if_neg h2]⟩)
      cases hh : st.inHandler
      · rfl
      · exact absurd (.inr hh) h2

theorem State.launchFault_mem (s : State) (lid code : Nat) (cause : BitVec 16) (pc : Word) (w : Nat) :
    (s.launchFault lid code cause pc w).mem = s.mem := by
  obtain h | ⟨L, -, -, -, h⟩ := s.launchFault_cases lid code cause pc w <;> rw [h]
  simp

theorem State.startRollback_mem (s : State) (lid : Nat) : (s.startRollback lid).mem = s.mem := by
  obtain h | ⟨L, -, -, -, -, h⟩ := s.startRollback_cases lid <;> rw [h]
  simp

/-- A trap writes no memory. -/
theorem State.takeTrap_mem (s : State) (b k : Nat) (st : Strand) (cause : BitVec 16) (tenon : Option (Nat × Nat)) (log : List Word) :
    (s.takeTrap b k st cause tenon log).mem = s.mem := by
  obtain ⟨-, h⟩ | ⟨-, -, h⟩ | ⟨-, -, -, h⟩ := s.takeTrap_cases b k st cause tenon log <;> rw [h]
  · rw [State.startRollback_mem]; simp
  · rw [State.launchFault_mem]; simp
  · simp

/-- What a trap entry leaves in the strand (R194). -/
theorem Strand.enter_fields (st : Strand) (cause : BitVec 16) (tenon : Option (Nat × Nat)) (log : List Word) :
    (st.enter cause tenon log).trapcause = cause ∧ (st.enter cause tenon log).trappc = st.pc ∧
    (st.enter cause tenon log).pc = st.trapvec ∧ (st.enter cause tenon log).inHandler = true ∧
    (st.enter cause tenon log).state = .ready ∧ (st.enter cause tenon log).x = st.x ∧ (st.enter cause tenon log).f = st.f := by
  unfold Strand.enter Strand.report
  split <;> exact ⟨rfl, rfl, rfl, rfl, rfl, rfl, rfl⟩

/-- What a return restores (R195). -/
theorem Strand.restore_fields (st : Strand) (fr : TrapFrame) :
    (st.restore fr).pc = st.trappc ∧ (st.restore fr).x = fr.x ∧ (st.restore fr).f = fr.f ∧ (st.restore fr).c = fr.c ∧
    (st.restore fr).loops = fr.loops ∧ (st.restore fr).fpmode = fr.fpmode ∧ (st.restore fr).inHandler = false :=
  ⟨rfl, rfl, rfl, rfl, rfl, rfl, rfl⟩

end Sys2Proof.Machine
end

