-- ==== Sys2Proof/Tests/Slice0.lean ====
section
/-! SUPPORT. Tests: words written out from their encodings, a term that each well-formedness check refuses, steps whose results the
manual gives, and for every statement a state and operands that meet its hypotheses, clause by clause. -/

open Sys2Proof Sys2Proof.Machine

namespace Sys2Proof.Tests

set_option Elab.async false

/-! ### Decoding -/

/-- R86, R108 to R110: words written out from their encodings. -/
theorem test_decode_integer :
    ∀ p ∈ [((0b0000001_11110_01010_10110_100_0000000 : Word32), Instr.add 30 10 22 .w),
      (0b0000001_10001_00100_11110_101_0000001, Instr.sub 17 4 30 .wu),
      (0b0000001_00011_11111_01001_110_0000010, Instr.mul 3 31 9 .d),
      (0b0000001_11110_01010_10110_000_0000011, Instr.mulh 30 10 22 .b),
      (0b0000001_00011_11111_01001_001_0000100, Instr.div 3 31 9 .bu),
      (0b0000001_01001_10111_10001_010_0000101, Instr.rem 9 23 17 .h),
      (0b0000001_00011_11111_01001_011_0000110, Instr.and 3 31 9 .hu),
      (0b0000001_10110_10010_00011_100_0000111, Instr.or 22 18 3 .w),
      (0b0000001_01001_10111_10001_101_0001000, Instr.xor 9 23 17 .wu),
      (0b0000001_10001_00100_11110_110_0001001, Instr.sll 17 4 30 .d),
      (0b0000001_11110_01010_10110_000_0001010, Instr.srl 30 10 22 .b),
      (0b0000001_01001_10111_10001_001_0001011, Instr.sra 9 23 17 .bu),
      (0b0000001_00011_11111_01001_010_0001100, Instr.min 3 31 9 .h),
      (0b0000001_00011_11111_01001_011_0001101, Instr.max 3 31 9 .hu),
      (0b0000001_10110_10010_00000_101_0001110, Instr.clz 22 18 .wu),
      (0b0000001_11110_01010_00000_110_0001111, Instr.ctz 30 10 .d),
      (0b0000001_11110_01010_00000_000_0010000, Instr.popc 30 10 .b),
      (0b0000001_10001_00100_00000_010_0010001, Instr.sext 17 4 .h),
      (0b0000001_10001_00100_00000_100_0010010, Instr.zext 17 4 .w)],
      decodeSeq p.1 = some p.2 := by decide

/-- R111 to R113: words written out from their encodings. -/
theorem test_decode_immediate :
    ∀ p ∈ [((0b0000010_01001_10111_100111010011111 : Word32), Instr.addi 9 23 20127),
      (0b0000011_11110_01010_011101001111100, Instr.andi 30 10 14972),
      (0b0000100_10001_00100_100111010011111, Instr.ori 17 4 20127),
      (0b0000101_10110_10010_100100111010011, Instr.xori 22 18 18899),
      (0b0000110_00011_11111_000000000_100001, Instr.slli 3 31 33),
      (0b0000110_01001_10111_000000001_001111, Instr.srli 9 23 15),
      (0b0000110_10110_10010_000000010_110000, Instr.srai 22 18 48),
      (0b0000111_10110_01_00_0100111010011111, Instr.liZ 22 1 20127),
      (0b0000111_01001_10_01_1100100111010011, Instr.liK 9 2 51667),
      (0b0001000_01001_10111_010101_011110_000, Instr.bfx 9 23 21 30),
      (0b0001000_11110_01010_010101_011110_001, Instr.bfi 30 10 21 30)],
      decodeSeq p.1 = some p.2 := by decide

/-- R114 to R116: words written out from their encodings. -/
theorem test_decode_select :
    ∀ p ∈ [((0b000100100_010_01010_10110_0000000000 : Word32), Instr.cmpEq 2 10 22),
      (0b000100100_001_01010_10110_0010000000, Instr.cmpNe 1 10 22),
      (0b000100100_000_00100_11110_0100000000, Instr.cmpLt 0 4 30),
      (0b000100100_000_10010_00011_0110000000, Instr.cmpGe 0 18 3),
      (0b000100100_011_10010_00011_1000000000, Instr.cmpLtu 3 18 3),
      (0b000100100_011_10111_10001_1010000000, Instr.cmpGeu 3 23 17),
      (0b0001010_01001_10001_00100_001_0000000, Instr.cselX 9 1 17 4),
      (0b00010100_1111_0_0011_0_0101_111_0000001, Instr.cselF 15 7 3 5),
      (0b0001011_00011_11001001110100111110, Instr.lea 3 826686),
      (0b0001100_10001_0000000000_100_0000000, Instr.widf 17 4),
      (0b0001100_01001_00000000000000000001, Instr.widNext 9)],
      decodeSeq p.1 = some p.2 := by decide

/-- R117 to R120: words written out from their encodings. -/
theorem test_decode_branch :
    ∀ p ∈ [((0b0010000_11110_01010_000_101001111100 : Word32), Instr.brEq 30 10 2684),
      (0b0010000_11110_01010_001_001111100001, Instr.brNe 30 10 993),
      (0b0010000_10001_00100_010_100111110000, Instr.brLt 17 4 2544),
      (0b0010000_10110_10010_011_111010011111, Instr.brGe 22 18 3743),
      (0b0010000_10110_10010_100_100111110000, Instr.brLtu 22 18 2544),
      (0b0010000_01001_10111_101_111010011111, Instr.brGeu 9 23 3743),
      (0b001000100_100_00000000_010011111000, Instr.bcS 4 1272),
      (0b001000100_000_00000001_001110100111, Instr.bcC 0 935),
      (0b00100100_0111_10011_000_011101001111, Instr.bsigLt 7 19 1871),
      (0b00100100_1111_10011_001_100111110000, Instr.bsigGe 15 19 2544),
      (0b0010011_01001_10010011101001111100, Instr.jal 9 604796),
      (0b0010100_10110_10010_101001111100001, Instr.jr 22 18 21473),
      (0b0010101_10111_0000000_1_010011010010, Instr.lbeg 1 23 1234),
      (0b10100000000000000000000000_1_00100, Instr.lend 1)],
      decodeSeq p.1 = some p.2 := by decide

/-- R122 to R130: words written out from their encodings. -/
theorem test_decode_float :
    ∀ p ∈ [((0b01000000_0101_0_0111_0_1001_000_0000000 : Word32), Instr.fadd 5 7 9 .rne),
      (0b01000000_0000_0_0010_0_0100_011_0000001, Instr.fsub 0 2 4 .rdn),
      (0b01000000_0000_0_0010_0_0100_001_0000010, Instr.fmul 0 2 4 .rtz),
      (0b01000000_0111_0_1001_0_1011_010_0000011, Instr.fdiv 7 9 11 .rup),
      (0b01000000_1100_0_1110_00000_100_0000100, Instr.fsqrt 12 14 .rna),
      (0b01000000_0110_0_1000_0_1010_0000000101, Instr.fmin 6 8 10),
      (0b01000000_1000_0_1010_0_1100_0000000110, Instr.fmax 8 10 12),
      (0b01000000_1100_0_1110_000000000000111, Instr.fabs 12 14),
      (0b01000000_1100_0_1110_000000000001000, Instr.fneg 12 14),
      (0b010000000_100_0_0110_0_1000_0000010000, Instr.fcmpEq 4 6 8),
      (0b010000000_110_0_0000_0_0010_0000010001, Instr.fcmpLt 6 0 2),
      (0b010000000_001_0_1011_0_1101_0000010010, Instr.fcmpLe 1 11 13),
      (0b010000000_011_0_1101_0_1111_0000010011, Instr.fcmpNe 3 13 15),
      (0b0100000_00011_0_0110_000000000010100, Instr.fclass 3 6),
      (0b01000000_1100_0_1110_000000000011000, Instr.fmov 12 14),
      (0b01000000_0010_11111_000000000011001, Instr.fmovXf 2 31),
      (0b0100000_10001_0_1000_000000000011010, Instr.fmovFx 17 8),
      (0b0100000_10110_0_1001_00011_100_0011100, Instr.fcvtFx 22 9 3 .rna),
      (0b01000000_1011_10111_00101_100_0011101, Instr.fcvtXf 11 23 5 .rna),
      (0b01000000_0001_0_0011_01000_100_0011110, Instr.fcvtFf 1 3 8 .rna),
      (0b0100000_00011_0_1101_000000000100000, Instr.fsig 3 13),
      (0b01000000_0011_11111_000000000100001, Instr.fsigset 3 31),
      (0b01000010_0000_0_0010_0_0100_0_0110_000_00, Instr.fma 0 2 4 6 .rne)],
      decodeSeq p.1 = some p.2 := by decide

/-- R89, R140 to R149: words written out from their encodings. -/
theorem test_decode_memory :
    ∀ p ∈ [((0b0101000_11110_01010_000_01_100_1100001 : Word32), Instr.ld 30 10 .strand .acq .w 97),
      (0b0101001_10001_00100_010_00_101_1010011, Instr.st 17 4 .region .rlx .wu 83),
      (0b01010100_1100_10111_100_01_100_0100111, Instr.ldt 12 23 .system .acq 39),
      (0b01010110_0001_11111_001_00_100_1001111, Instr.stt 1 31 .bent .rlx 79),
      (0b0101100_11110_01010_000_00_010_0111110, Instr.ldfe 30 10 .strand .h 62),
      (0b0101101_10001_00100_010_00_011_1111100, Instr.stfe 17 4 .region .hu 124),
      (0b0101110_10001_00100_010_00_100_1111100, Instr.ldnb 17 4 .region .w 124)],
      decodeSeq p.1 = some p.2 := by decide

/-- R89, R150: words written out from their encodings. -/
theorem test_decode_atomic :
    ∀ p ∈ [((0b0101111_10001_00100_11110_000_00_1_0000 : Word32), Instr.amoSwap 17 4 30 .strand .rlx true),
      (0b0101111_01001_10111_10001_010_00_1_0001, Instr.amoCas 9 23 17 .region .rlx true),
      (0b0101111_10001_00100_11110_000_10_1_0010, Instr.amoAdd 17 4 30 .strand .rel true),
      (0b0101111_10001_00100_11110_000_00_00011, Instr.amoFadd 17 4 30 .strand .rlx),
      (0b0101111_01001_10111_10001_010_00_1_0100, Instr.amoAnd 9 23 17 .region .rlx true),
      (0b0101111_00011_11111_01001_100_10_1_0101, Instr.amoOr 3 31 9 .system .rel true),
      (0b0101111_10001_00100_11110_000_10_1_0110, Instr.amoXor 17 4 30 .strand .rel true),
      (0b0101111_00011_11111_01001_100_11_0_0111, Instr.amoMin 3 31 9 .system .acqrel false),
      (0b0101111_00011_11111_01001_100_01_0_1000, Instr.amoMax 3 31 9 .system .acq false),
      (0b0101111_10001_00100_11110_000_10_1_1001, Instr.amoMinu 17 4 30 .strand .rel true),
      (0b0101111_10001_00100_11110_000_00_1_1010, Instr.amoMaxu 17 4 30 .strand .rlx true)],
      decodeSeq p.1 = some p.2 := by decide

/-- R89, R156 to R160: words written out from their encodings. -/
theorem test_decode_order :
    ∀ p ∈ [((0b01100000000000000_010_000000000000 : Word32), Instr.fence .region),
      (0b011000100000_01001_001_00001101_0000, Instr.barInit 9 .bent 13),
      (0b0110001_00011_00000_001_00001101_0001, Instr.barArrive 3 .bent 13),
      (0b011000100000_10110_010_00001101_0010, Instr.barWait 22 .region 13),
      (0b0110001_00011_11111_010_00001101_0011, Instr.barTest 3 31 .region 13),
      (0b01100100000000000000_11001001_0000, Instr.publish 201)],
      decodeSeq p.1 = some p.2 := by decide

/-- R163 to R171: words written out from their encodings. -/
theorem test_decode_cells :
    ∀ p ∈ [((0b0111000_00011_11111_01001_100_0000000 : Word32), Instr.cell 3 31 9 4),
      (0b0111000_11110_01010_10110_011_0000001, Instr.cellm 30 10 22 3),
      (0b0111000_01001_10111_10001_010_0000010, Instr.cellv 9 23 17 2),
      (0b0111000_01001_10111_10001_010_0000011, Instr.inj 9 23 17 2),
      (0b0111001_10001_000000_1111_0000000000, Instr.rvres 17 15),
      (0b011100100000_01001_0_0001_0000000001, Instr.rvrel 9 1),
      (0b0111010_11110_000000_0111_0000000000, Instr.sinkX 30 7),
      (0b01110100_0101_000000_0111_0000000001, Instr.sinkF 5 7)],
      decodeSeq p.1 = some p.2 := by decide

/-- R172 to R182: words written out from their encodings. -/
theorem test_decode_walks :
    ∀ p ∈ [((0b0111011_01001_10111_10001_010_0000000 : Word32), Instr.walk 9 23 17 2),
      (0b0111011_00011_11111_01001_100_0000001, Instr.walkb 3 31 9 4),
      (0b0111011_11110_01010_10110_0000000010, Instr.wlst 30 10 22),
      (0b011110000000_11110_000000000000000, Instr.mxGang 30),
      (0b011110000000_11110_000000000000001, Instr.sxCfg 30),
      (0b011110100000_11110_000_00001101_0000, Instr.iqPush 30 13),
      (0b0111101_00011_00000000_00001101_0001, Instr.iqTest 3 13),
      (0b011111000000_00011_000000000000000, Instr.rmark 3)],
      decodeSeq p.1 = some p.2 := by decide

/-- R183 to R185: words written out from their encodings. -/
theorem test_decode_channels :
    ∀ p ∈ [((0b100000000000_01001_000_00101001_0000 : Word32), Instr.chopen 9 41),
      (0b1000000_11110_01010_000_00001011_0001, Instr.rld 30 10 11),
      (0b1000000_10001_00100_000_00001011_0010, Instr.rst 17 4 11),
      (0b100000000000_00011_000_00101001_0011, Instr.chsend 3 41),
      (0b100000000000_01001_000_00101001_0100, Instr.chrecv 9 41)],
      decodeSeq p.1 = some p.2 := by decide

/-- R187 to R196: words written out from their encodings. -/
theorem test_decode_system :
    ∀ p ∈ [((0b1000001_10001_00100_000000000000000 : Word32), Instr.split 17 4),
      (0b1000001_00011_00000000000000000001, Instr.yield 3),
      (0b10000010000000000000000000000010, Instr.exit),
      (0b10000010000000000000000000000011, Instr.exitAbandon),
      (0b100001000000_10110_000_11001001_0000, Instr.scarf 22 201),
      (0b1000010_01001_00000000_11001001_0001, Instr.scarfWait 9 201),
      (0b100001000000_10110_000_11001001_0010, Instr.rankmap 22 201),
      (0b10100000000000000000000000000000, Instr.nop),
      (0b1010000_00011_00000_0111010011_00001, Instr.trap 3 467),
      (0b10100000000000000000000000000010, Instr.rft),
      (0b1010000_01001_00000_0011111000_00011, Instr.ident 9 248),
      (0b1010001_00011_00000_0000010010_00000, Instr.ctlRd 3 18),
      (0b101000100000_11110_0000010010_00001, Instr.ctlWr 30 18),
      (0b1010001_01001_00000_0000100011_00000, Instr.evqRead 9),
      (0b1010001_10110_00000_0001000000_00000, Instr.votelogRead 22)],
      decodeSeq p.1 = some p.2 := by decide

/-- R90, R91, R206 to R208: words written out from their encodings. -/
theorem test_decode_opw_arith :
    ∀ p ∈ [((0b000000_01_1100000_0010101_1011111_1_0_1 : Word32), Instr.vadd .f16 96 21 95 true false true),
      (0b00000011_1001001_1011111_0010101_1_0_1, Instr.vaddSat 73 95 21 false true),
      (0b000001_00_1001001_1000110_1010011_0_1_0, Instr.vsub .f32 73 70 83 false true false),
      (0b00000111_0000101_1010011_1000110_1_1_0, Instr.vsubSat 5 83 70 true false),
      (0b000010_00_1001001_1000110_1010011_0_1_0, Instr.vmul .f32 73 70 83 false true false),
      (0b00001011_0000101_1010011_1000110_1_1_0, Instr.vmulSat 5 83 70 true false),
      (0b000011_00_0101111_1010011_1000110_0_1_0, Instr.vfma .f32 47 83 70 false true false),
      (0b000100_10_0101111_1010011_1000110_0_0_1, Instr.vmin .bf16 47 83 70 false true),
      (0b000101_00_1001001_1000110_1010011_0_0_1, Instr.vmax .f32 73 70 83 false true),
      (0b000110_00_1001001_1000110_000000000_1, Instr.vabs .f32 73 70 true),
      (0b000111_00_1001001_1000110_000000000_1, Instr.vneg .f32 73 70 true),
      (0b00100000_0101111_0010101_1011111_0_1_0, Instr.vdiv 47 21 95 false true false),
      (0b00100100_1001001_1011111_000000000_1, Instr.vrcp 73 95 true),
      (0b00101000_1100000_1000110_000000000_0, Instr.vrsqrt 96 70 false),
      (0b00101100_0000101_1010011_0000000_0_0_1, Instr.vsqrt 5 83 false true),
      (0b00110000_0101111_0010101_000000000_1, Instr.vexp2 47 21 true),
      (0b00110100_1100000_1000110_000000000_0, Instr.vlog2 96 70 false)],
      decodeOpw p.1 = some p.2 := by decide

/-- R209: words written out from their encodings. -/
theorem test_decode_opw_lane :
    ∀ p ∈ [((0b001110_00_1001001_1000110_1010011_0_0_1 : Word32), Instr.vcmpEq .f32 73 70 83 false true),
      (0b001111_10_0101111_1010011_1000110_0_0_1, Instr.vcmpLt .bf16 47 83 70 false true),
      (0b010000_01_1100000_0010101_1011111_0_1_0, Instr.vcmpLe .f16 96 21 95 true false),
      (0b010001_11_0000101_1011111_0010101_0_1_0, Instr.vcmpNe .i32 5 95 21 true false),
      (0b01001000_1100000_1000110_1010011_0_1_0, Instr.vselL0 96 70 83 true false),
      (0b01001000_1001001_1011111_0010101_1_0_1, Instr.vselL1 73 95 21 false true),
      (0b01001100_0101111_0010101_1011111_0_0_1, Instr.vand 47 21 95 false true),
      (0b01010000_1001001_1011111_0010101_0_0_1, Instr.vor 73 95 21 false true),
      (0b01010100_1001001_1011111_0010101_0_0_1, Instr.vxor 73 95 21 false true),
      (0b01011000_1001001_1011111_000000000_1, Instr.vnot 73 95 true),
      (0b01011100_0101111_0010101_1011111_0_0_1, Instr.vshl 47 21 95 false true),
      (0b01100000_1001001_1011111_0010101_0_0_1, Instr.vshrL 73 95 21 false true),
      (0b01100000_0000101_1010011_1000110_1_1_0, Instr.vshrA 5 83 70 true false)],
      decodeOpw p.1 = some p.2 := by decide

/-- R210 to R214: words written out from their encodings. -/
theorem test_decode_opw_cross :
    ∀ p ∈ [((0b011001_01_1100000_0010101_0000110_1_0_0 : Word32), Instr.vcvt .f16 96 21 6 true false),
      (0b011010_10_1100000_0010101_0001101_00_1, Instr.vquant .bf16 96 21 13 true),
      (0b011011_10_1001001_1000110_0001101_00_0, Instr.vdequant .bf16 73 70 13 false),
      (0b011100_10_0101111_1010011_00_01_000_0_0_1, Instr.vredAdd .bf16 47 83 .row false true),
      (0b011100_11_0000101_1011111_01_10_000_0_0_0, Instr.vredMin .i32 5 95 .tile false false),
      (0b011100_01_1100000_0010101_10_00_000_1_0_0, Instr.vredMax .f16 96 21 .reg true false),
      (0b011101_00_1001001_1000110_00_11_000_0_0_1, Instr.vscanAdd .f32 73 70 .round false true),
      (0b011101_01_1100000_0010101_01_00_000_1_0_0, Instr.vscanMin .f16 96 21 .reg true false),
      (0b011101_11_0000101_1011111_10_10_000_0_0_0, Instr.vscanMax .i32 5 95 .tile false false),
      (0b01111000_1100000_1000110_1010011_0_1_0, Instr.vperm 96 70 83 true false),
      (0b01111100_1001001_1011111_0_100001_00_0, Instr.vbcast 73 95 33 false),
      (0b100000_00_0000101_1011111_00_10101_00_1, Instr.vsigLt .f32 5 95 21 true),
      (0b100000_01_0000101_1011111_01_10101_00_1, Instr.vsigGe .f16 5 95 21 true),
      (0b100000_10_0101111_1010011_10_10101_00_0, Instr.vsigCnt .bf16 47 83 21 false)],
      decodeOpw p.1 = some p.2 := by decide

/-- R215 to R224: words written out from their encodings. -/
theorem test_decode_opw_control :
    ∀ p ∈ [((0b10000100_1001111_1010101_000000000_0 : Word32), Instr.cin 79 85 false),
      (0b10001000_1011101_0101001_000000000_1, Instr.cout 93 41 true),
      (0b100011000000000_1011000_000_0001_00_0, Instr.cfwd 88 1 false),
      (0b10010000_1001101_00111000101010011, Instr.tcfg 77 29011),
      (0b10010100_1001101_00111000101010011, Instr.tcfgDiscard 77 29011),
      (0b10011000_00111010011111_1100001_000, Instr.vloop 3743 97),
      (0b10011100_1001110_1000010_1001111_10_1, Instr.vbrAll 66 10063 true),
      (0b10011100_1110100_1000010_1111100_00_0, Instr.vbrAny 66 14972 false),
      (0b10100000000000000000000000000000, Instr.vend),
      (0b10100100_1011011_1001001_0001100_0_1_0, Instr.vrec 91 73 12 true false)],
      decodeOpw p.1 = some p.2 := by decide

/-! ### Well-formedness: a term that each check refuses -/

theorem test_wf_sequencer : ∀ i ∈ [Instr.sext 1 2 .bu, .zext 1 2 .d, .bfx 1 2 32 32, .bfi 1 2 63 1, .widf 1 6, .bsigLt 1 25 0, .bsigGe 1 31 0,
    .lbeg 0 1 0, .lbeg 0 1 2048, .fcvtFx 1 2 0 .rtz, .fcvtXf 1 2 6 .dyn, .fcvtFf 1 2 5 .dyn, .fcvtFf 1 2 11 .dyn, .ld 1 2 .bent .rel .d 0,
    .st 1 2 .bent .acq .d 0, .ldt 1 2 .bent .acqrel 0, .stt 1 2 .bent .acq 0, .barInit 1 .strand 0, .barArrive 1 .system 0,
    .barWait 1 .bent 16, .barTest 1 2 .region 16, .cell 1 2 3 5, .inj 1 2 3 7, .walk 1 2 3 5, .iqPush 1 16, .iqTest 1 16, .chopen 1 64,
    .rld 1 2 64, .rst 1 2 64, .chsend 1 64, .chrecv 1 64, .ctlRd 1 0x023, .ctlRd 1 0x040], WellFormed i = false := by decide

theorem test_wf_opwords : ∀ i ∈ [Instr.vadd .i32 0 1 2 true false false, .vsub .f32 82 1 2 false false false, .vmul .f32 0 98 2 false false false,
    .vaddSat 0 1 127 false false, .vfma .i32 0 1 2 false false false, .vmin .f32 89 1 2 false false, .vabs .f32 0 98 false,
    .vdiv 0 1 98 false false false, .vrcp 82 1 false, .vsqrt 0 98 false false, .vcmpEq .i32 98 1 2 false false, .vselL0 0 1 98 false false,
    .vnot 98 0 false, .vcvt .f32 0 1 0 false false, .vcvt .f32 0 1 11 false false, .vquant .i32 0 1 11 false, .vdequant .f32 0 1 14 false,
    .vredAdd .f32 74 1 .reg false false, .vscanMin .f32 0 81 .reg false false, .vperm 0 1 74 false false, .vbcast 74 0 0 false,
    .vsigLt .f32 0 1 25 false, .vsigCnt .i32 0 1 0 false, .cin 82 82 false, .cin 0 81 false, .cout 81 0 false, .cout 90 74 false,
    .cfwd 90 0 false, .tcfg 73 0x01000, .tcfg 82 0x01000, .tcfgDiscard 74 0x02000, .vloop 0 1, .vloop 1 0, .vbrAll 74 0 false,
    .vrec 89 0 1 false false], WellFormed i = false := by decide

theorem test_wf_steps : ∀ i ∈ [Instr.publishComplete 0 256, .mxFire 192 0, .mxFire 0 4, .sxSort 192, .headAged 0 16 .multi, .deadlockDetection 192 0,
    .rendezvousOperand 0 16, .hbmAtomicRoundClose 0 384, .feedbackAccept 0 16, .vxCellDelivery 0 3, .vxCellDelivery 0 8,
    .routineEnd 0 4 0, .partialCombine 0 0 98, .pendingTrapDelivery 0 16, .sinkData 192, .writeback 0 10, .writeback 0 13, .goldenEpoch 4,
    .loadReturn 0 16 0, .walkBegin 0 2, .faultackResume 8 0, .tableWalk 4, .append 8 0 [], .append 0 256 [], .placement 8, .qcbEnable 0 256,
    .contextEnable 0 64, .tlbinvPage 8 0, .psvcServe 8, .repairMap 8 0, .laneLoss 64, .hostWindowWrite 0 64 0 [], .scarfResend 0 256,
    .firmwareReplace 8 0 0 [], .firingLanded 0 4 0], WellFormed i = false := by decide

/-! ### Small states -/

/-- A launch of two bents with three fields. -/
def L0 : Launch := { region := [0, 1], origin := [0, 1], widths := [6, 4, 10], nStrands := 2, cstore := 4 }

/-- A strand with some registers set. -/
def stx (l : List (XReg × Word)) : Strand := l.foldl (fun s p => s.wx p.1 p.2) {}

def stf (l : List (FReg × FVal)) : Strand := l.foldl (fun s p => s.wf p.1 p.2) {}

/-- A machine whose next instruction is of a strand in slot 0 of bent 0. -/
def sys (st : Strand) (L : Launch := L0) (B : Bent := {}) (mem : List Host.Cell := []) : State :=
  { cur := .strand 0 0, launches := [(0, L)], bents := [(0, { B with launch := some 0, strands := [(0, st)] })], mem := mem }

theorem current_sys (st : Strand) (L : Launch) (B : Bent) (mem : List Host.Cell) (h : st.state = .ready) (l : st.lid = 0)
    (r : L.phase = .running) : (sys st L B mem).Current 0 0 st :=
  ⟨rfl, rfl, h, L, by rw [l]; rfl, r⟩

theorem issues_sys (st : Strand) (L : Launch) (B : Bent) (mem : List Host.Cell) (u : Uses) (h : st.state = .ready) (l : st.lid = 0)
    (r : L.phase = .running) (b : st.blocking u = []) (p : st.poisonedUse u = false) : (sys st L B mem).Issues u 0 0 st :=
  ⟨current_sys st L B mem h l r, b, p⟩

/-- The same from one decidable fact, for a strand written out. -/
theorem issues_at {st : Strand} {L : Launch} {B : Bent} {mem : List Host.Cell} {u : Uses}
    (c : (st.state = .ready ∧ st.lid = 0 ∧ L.phase = .running) ∧ st.blocking u = [] ∧ st.poisonedUse u = false) :
    (sys st L B mem).Issues u 0 0 st :=
  issues_sys st L B mem u c.1.1 c.1.2.1 c.1.2.2 c.2.1 c.2.2

/-- What a next state shows. -/
def shows {α : Type} (o : Out) (f : State → α) : Option α :=
  match o with
  | .next t => some (f t)
  | .fault _ | .refused _ => none

def strandOf (t : State) : Strand := (t.strand? 0 0).getD {}

def xOf (r : XReg) (t : State) : Word := (strandOf t).rx r

def fOf (r : FReg) (t : State) : Word32 × BitVec 5 := (((strandOf t).rf r).v, ((strandOf t).rf r).c)

def causeOf (t : State) : BitVec 16 := (strandOf t).trapcause

/-- The rounds of the small machine are that of its strand. -/
theorem rounds_sys (L : Launch) (st : Strand) (r : L.region = [0, 1]) (c : L.conts = []) (d : L.readyList = []) (l : st.lid = 0) :
    (sys st L).rounds 0 = [st.round] := by
  have h : (sys st L).launch 0 = L := rfl
  have h0 : ((sys st L).bent 0).strands = [(0, st)] := rfl
  have h1 : ((sys st L).bent 1).strands = [] := rfl
  unfold State.rounds State.strandsOf State.regionOf
  rw [h, r, c, d]
  simp only [List.flatMap_cons, List.flatMap_nil, h0, h1]
  simp [l]

/-! ### Registers and integer instructions: witnesses of the hypotheses, and results of the manual's own examples -/

def o0 : Fields := { (default : Fields) with d := 5, a := 6, b := 7, fd := 5, fa := 6, fb := 7, t := .w }

/-- A strand that waits for a load to x5, one that waits for an atomic of its round, and one whose x6 is poisoned. -/
def stWaiting : Strand := { stx [(6, 1)] with ops := [{ id := 0, kind := .load, path := .host, loc := 0, size := 8, dest := .x 5 .d }] }
def stAtomic : Strand :=
  { stWaiting with ops := [{ id := 0, kind := .amo 2 true, path := .channel 0, loc := 0, size := 8, dest := .x 5 .d }] }
def stPoisoned : Strand := { stx [] with px := (Vector.replicate 32 false).set 6 true, trapvec := 0x100 }

theorem witness_RegisterReadsWritesAndFrame :
    ((5 : XReg) ≠ 0 ∧ (6 : XReg) ≠ 5 ∧ (15 : FReg) ≠ 0 ∧ (7 : CReg) ≠ 0 ∧ (6 : CReg) ≠ 7) ∧
    ((sys stWaiting).Current 0 0 stWaiting ∧ stWaiting.blocking { rx := [6, 7], wx := [5] } ≠ [] ∧
      ((sys stWaiting).launch stWaiting.lid).det = false) ∧
    ((sys stAtomic { L0 with det := true }).Current 0 0 stAtomic ∧ ((sys stAtomic { L0 with det := true }).launch 0).det = true ∧
      (stAtomic.blocking { rx := [6, 7], wx := [5] }).any stAtomic.roundAmo = true ∧
      (stWaiting.blocking { rx := [6, 7], wx := [5] }).any stWaiting.roundAmo = false) ∧
    ((sys stPoisoned).Current 0 0 stPoisoned ∧ stPoisoned.blocking { rx := [6, 7], wx := [5] } = [] ∧
      stPoisoned.poisonedUse { rx := [6, 7], wx := [5] } = true) ∧
    (Instr.add 5 6 7 .w, { rx := [6, 7], wx := [5] }, [5], [], []) ∈ registerForms o0 ∧
    (sys (stx [(6, 7)])).Issues { rx := [6, 7], wx := [5] } 0 0 (stx [(6, 7)]) := by
  repeat' with_reducible apply And.intro
  all_goals first | exact current_sys _ _ _ _ rfl rfl rfl | exact issues_at (by decide) | exact List.Mem.head _ | decide

/-- The statements of the integer group, of the immediates and of compares and selects: their one hypothesis. -/
theorem witness_IntegerResults :
    (tySigned .b = true ∧ tySigned .bu = false) ∧ (sys (stx [(6, 7), (7, 9)])).Issues { rx := [6, 7], wx := [5] } 0 0 (stx [(6, 7), (7, 9)]) ∧
    (sys (stx [(6, 7)])).Issues { rx := [6], wx := [0] } 0 0 (stx [(6, 7)]) :=
  ⟨by decide, issues_at (by decide), issues_at (by decide)⟩

/-- Each clause of division at a boundary: a zero divisor, the overflow, and both their neighbours. -/
theorem witness_DivideAndRemainder :
    (sys (stx [(6, 7), (7, 9)])).Issues { rx := [6, 7], wx := [5] } 0 0 (stx [(6, 7), (7, 9)]) ∧ operand .b 0x100 = 0 ∧
    (tySigned .b = true ∧ operand .b 0x80 = -(2 ^ (tyWidth .b - 1)) ∧ operand .b 0xFF = -1) ∧
    (operand .b 0xFF ≠ 0 ∧ ¬(tySigned .b = true ∧ operand .b 0x81 = -(2 ^ (tyWidth .b - 1)) ∧ operand .b 0xFF = -1)) ∧
    (operand .bu 0xFF ≠ 0 ∧ ¬(tySigned .bu = true ∧ operand .bu 0x80 = -(2 ^ (tyWidth .bu - 1)) ∧ operand .bu 0xFF = -1)) :=
  ⟨issues_at (by decide), by decide⟩

theorem witness_ImmediateAndFieldResults :
    (sys (stx [(5, 7)])).Issues { rx := [5], wx := [5] } 0 0 (stx [(5, 7)]) ∧ (sys (stx [])).Issues { wx := [5] } 0 0 (stx []) ∧
    (sys (stx [(5, 7)])).Issues { rx := [5, 6], wx := [5] } 0 0 (stx [(5, 7)]) ∧
    (63 : BitVec 6).toNat + (0 : BitVec 6).toNat < 64 ∧ (0 : BitVec 6).toNat + (63 : BitVec 6).toNat < 64 :=
  ⟨issues_at (by decide), issues_at (by decide),
    issues_at (by decide), by decide⟩

/-- Fields of the work identifier: the last declared one and the first that is not; an identifier left, and none left. -/
theorem witness_CompareSelectAndWorkIdentifiers :
    (sys (stx [(5, 7)])).Issues { rx := [5, 6], wx := [5] } 0 0 (stx [(5, 7)]) ∧
    (sys (stf [])).Issues { rf := [1, 2], wf := [3] } 0 0 (stf []) ∧
    L0.widths[(2 : BitVec 3).toNat]? = some 10 ∧ L0.widths[(3 : BitVec 3).toNat]? = none ∧
    (L0.takeId 0 0).1 = some 0 ∧ ({ L0 with nextId := [(0, 2 ^ 20)] }.takeId 0 0).1 = none :=
  ⟨issues_at (by decide), issues_at (by decide), by decide⟩

theorem witness_BranchAndJumpResults :
    (sys (stx [(6, 7)])).Issues { rx := [6, 7] } 0 0 (stx [(6, 7)]) ∧ (sys (stx [])).Issues {} 0 0 (stx []) ∧
    (sys (stf [])).Issues { rf := [1] } 0 0 (stf []) ∧ (sys (stx [])).Issues { wx := [31] } 0 0 (stx []) ∧
    (sys (stx [(31, 8)])).Issues { rx := [31], wx := [31] } 0 0 (stx [(31, 8)]) :=
  ⟨issues_at (by decide), issues_at (by decide),
    issues_at (by decide), issues_at (by decide),
    issues_at (by decide)⟩

/-- A strand at the end of its loop with n iterations left. -/
def stLoop (n : Word) : Strand := { stx [] with pc := 8, loops := #v[{ start := 4, stop := 8, remaining := n, active := true }, {}] }

theorem witness_LoopsAndNop :
    (sys (stx [(6, 7)])).Issues { rx := [6] } 0 0 (stx [(6, 7)]) ∧ (sys (stLoop 1)).Issues {} 0 0 (stLoop 1) ∧
    (((stLoop 1).loop 1).active = false ∧ (stLoop 1).pc ≠ ((stLoop 1).loop 1).stop) ∧
    (((stLoop 2).loop 0).active = true ∧ (stLoop 2).pc = ((stLoop 2).loop 0).stop ∧ ((stLoop 2).loop 0).remaining - 1 ≠ 0) ∧
    (((stLoop 1).loop 0).active = true ∧ (stLoop 1).pc = ((stLoop 1).loop 0).stop ∧ ((stLoop 1).loop 0).remaining = 1) :=
  ⟨issues_at (by decide), issues_at (by decide), by decide⟩

/-- The manual's table of narrow results, R110. -/
theorem test_integer_table :
    shows (exec (.add 5 6 7 .b) (sys (stx [(6, 0x7F), (7, 1)]))) (xOf 5) = some 0xFFFFFFFFFFFFFF80 ∧
    shows (exec (.add 5 6 7 .bu) (sys (stx [(6, 0xFF), (7, 1)]))) (xOf 5) = some 0 ∧
    shows (exec (.sra 5 6 7 .w) (sys (stx [(6, 0x80000000), (7, 4)]))) (xOf 5) = some 0xFFFFFFFFF8000000 ∧
    shows (exec (.clz 5 6 .w) (sys (stx [(6, 0x00010000)]))) (xOf 5) = some 15 := by decide

theorem test_division_table :
    shows (exec (.div 5 6 7 .w) (sys (stx [(6, 0xFFFFFFF9), (7, 2)]))) (xOf 5) = some 0xFFFFFFFFFFFFFFFD ∧
    shows (exec (.rem 5 6 7 .w) (sys (stx [(6, 0xFFFFFFF9), (7, 2)]))) (xOf 5) = some 0xFFFFFFFFFFFFFFFF ∧
    shows (exec (.div 5 6 7 .wu) (sys (stx [(6, 0xFFFFFFF9), (7, 2)]))) (xOf 5) = some 0x7FFFFFFC ∧
    shows (exec (.div 5 6 7 .b) (sys (stx [(6, 0x80), (7, 0xFF)]))) (xOf 5) = some 0xFFFFFFFFFFFFFF80 ∧
    shows (exec (.div 5 6 7 .d) (sys (stx [(6, 100)]))) (xOf 5) = some 0xFFFFFFFFFFFFFFFF ∧
    shows (exec (.rem 5 6 7 .d) (sys (stx [(6, 100)]))) (xOf 5) = some 100 := by decide

/-- The manual's example of `widf`, R116. -/
theorem test_widf :
    let st : Strand := { stx [] with wid := 0x3B2C5 }
    shows (exec (.widf 5 0) (sys st)) (xOf 5) = some 0x05 ∧ shows (exec (.widf 5 1) (sys st)) (xOf 5) = some 0xB ∧
    shows (exec (.widf 5 2) (sys st)) (xOf 5) = some 0xEC ∧ shows (exec (.widf 5 3) (sys st)) (xOf 5) = some 0 := by decide

/-- `jr x31, 0(x31)` jumps to the old value and links, R117; a misaligned target takes cause 0x0002 and writes no link. -/
theorem test_jr :
    shows (exec (.jr 31 31 0) (sys (stx [(31, 0x40)]))) (fun t => (xOf 31 t, (strandOf t).pc)) = some (4, 0x40) ∧
    shows (exec (.jr 30 31 2) (sys { stx [(31, 0x40)] with trapvec := 0x80 })) (fun t => (xOf 30 t, causeOf t, (strandOf t).pc)) =
      some (0, 2, 0x80) := by decide

/-! ### Floating point, traps, control registers and the ends of strands -/

theorem witness_FloatRegisterResults :
    ((sys (stf [])).Issues { rf := [1, 2], wf := [3] } 0 0 (stf []) ∧ (sys (stx [])).Issues { rx := [4], wf := [3] } 0 0 (stx []) ∧
      (sys (stf [])).Issues { rf := [1], wx := [5] } 0 0 (stf [])) ∧
    (FVal.ex ⟨0x7FC00000, 0⟩).isNan = true ∧
    ((FVal.ex ⟨0x3F800000, 24⟩).isNan = false ∧ (FVal.ex ⟨0xBF800000, 24⟩).isNan = false ∧
      (FVal.ex ⟨0x3F800000, 24⟩).eqv (FVal.ex ⟨0xBF800000, 24⟩) = false) ∧
    (FVal.ex ⟨0, 24⟩).eqv (FVal.ex ⟨0x80000000, 20⟩) = true :=
  ⟨⟨issues_at (by decide), issues_at (by decide),
    issues_at (by decide)⟩, by decide⟩

theorem witness_ClassMask : (sys (stf [(1, ⟨0xFF800000, 0⟩)])).Issues { rf := [1], wx := [5] } 0 0 (stf [(1, ⟨0xFF800000, 0⟩)]) :=
  issues_at (by decide)

/-- The manual's example of R125, and the least normal, the greatest subnormal, an infinity and a NaN of R128. -/
theorem test_fmin_fclass :
    shows (exec (.fmin 1 2 3) (sys (stf [(2, ⟨0, 24⟩), (3, ⟨0x80000000, 20⟩)]))) (fOf 1) = some (0x80000000, 20) ∧
    shows (exec (.fclass 5 1) (sys (stf [(1, ⟨0x00800000, 24⟩)]))) (xOf 5) = some 0x40 ∧
    shows (exec (.fclass 5 1) (sys (stf [(1, ⟨0x807FFFFF, 23⟩)]))) (xOf 5) = some 0x204 ∧
    shows (exec (.fclass 5 1) (sys (stf [(1, ⟨0x7F800000, 0⟩)]))) (xOf 5) = some 0x280 ∧
    shows (exec (.fclass 5 1) (sys (stf [(1, ⟨0x7F800001, 0⟩)]))) (xOf 5) = some 0x300 := by decide

/-- Each clause of the counts of sums: an infinite operand, zeros only, a cancelled result, and a result whose least weight is that of
the coarser operand. -/
theorem witness_CountsAndTheirCheck :
    (Ex.inf true).isFinite = false ∧ ((∀ o ∈ [(Ex.zero false, 24), (.zero true, 3)], o.1.isZero = true) ∧ (Ex.zero false).isFinite = true) ∧
    ((∀ o ∈ [(val32 0x3F800000, 24), (val32 0xBF800000, 10)], o.1.isFinite = true) ∧
      (∃ o ∈ [(val32 0x3F800000, 24), (val32 0xBF800000, 10)], o.1.isZero = false) ∧ (Ex.zero false).exp? = none) ∧
    ((val32 0x40000000).exp? = some 1 ∧
      (∃ o ∈ [(val32 0x3F800000, 24), (val32 0x3F800000, 10)], ∃ x, o.1.exp? = some x ∧ (-9 : Int) = x - o.2 + 1) ∧
      ∀ o ∈ [(val32 0x3F800000, 24), (val32 0x3F800000, 10)], ∀ x, o.1.exp? = some x → x - o.2 + 1 ≤ (-9 : Int)) := by
  have h : (val32 0x3F800000).exp? = some 0 := by decide
  refine ⟨by decide, by decide, by decide, by decide, ⟨_, .tail _ (.head _), 0, h, by decide⟩, ?_⟩
  intro o ho x hx
  simp only [List.mem_cons, List.not_mem_nil, or_false] at ho
  rcases ho with rfl | rfl <;> rw [h] at hx <;> cases hx <;> decide

/-- A strand that checks results of fewer than 10 bits: the last count that passes and the first that fails. -/
def stSig : Strand := { stf [(1, ⟨0x3F800000, 24⟩), (2, ⟨0x3F800000, 10⟩)] with sigen := 1, sigth := 10, trapvec := 0x100 }

theorem witness_CheckedFloatResults :
    (sys stSig).Issues { rf := [1, 2], wf := [3] } 0 0 stSig ∧ (sys stSig).Issues { rf := [1, 2, 3], wf := [4] } 0 0 stSig ∧
    (sys stSig).Issues { rf := [1], wf := [1] } 0 0 stSig ∧
    stSig.sigFails (val32 0x3F800000) 10 = false ∧ stSig.sigFails (val32 0x3F800000) 9 = true :=
  ⟨issues_at (by decide), issues_at (by decide),
    issues_at (by decide), by decide⟩

/-- 1 + 1 with 24 and 10 bits has 11 bits, R46; 1 − 1 of a full and a 10-bit value has none, so that the check fails. -/
theorem test_fadd_fsub :
    shows (exec (.fadd 3 1 2 .dyn) (sys stSig)) (fOf 3) = some (0x40000000, 11) ∧
    shows (exec (.fsub 3 1 2 .dyn) (sys stSig)) (fun t => (causeOf t, (strandOf t).pc)) = some (0x21, 0x100) := by decide

/-- A strand with a handler, and the same strand in it. -/
def stTrap : Strand := { stx [(6, 7)] with trapvec := 0x100 }
def stIn : Strand := strandOf ((sys stTrap).trap 0 0 stTrap 0x0050)

theorem witness_TrapEntryAndReturn :
    ((sys stTrap).Current 0 0 stTrap ∧ stTrap.trapvec ≠ 0 ∧ stTrap.saved = none ∧ (0x0050 : BitVec 16) ≠ 0x0031) ∧
    (sys stIn).Issues {} 0 0 stIn ∧ stIn.saved = some (stTrap.frame 0x0050 none) :=
  ⟨⟨current_sys _ _ _ _ rfl rfl rfl, by decide⟩, issues_at (by decide), by decide⟩

/-- A strand with a pending trap. -/
def stPend : Strand := { stTrap with pend := [{ cause := 0x0010, stamp := 4 }, { cause := 0x0012, tenon := some (0, 0), stamp := 5 }] }

theorem witness_TrapEnds :
    ((sys (stx [])).Current 0 0 (stx []) ∧ (0x0002 : BitVec 16) ≠ 0x0031 ∧ (stx []).trapvec = 0 ∧ ((sys (stx [])).launch 0).fault = 0) ∧
    ((sys stIn).Current 0 0 stIn ∧ stIn.saved ≠ none) ∧
    ((sys stTrap).Issues { wx := [5] } 0 0 stTrap ∧ (sys stTrap).Issues {} 0 0 stTrap ∧ stTrap.saved = none) ∧
    ((sys stPend).strand? 0 0 = some stPend ∧ stPend.saved = none ∧
      stPend.firstPend = some { cause := 0x0012, tenon := some (0, 0), stamp := 5 } ∧ (sys stPend).launch? stPend.lid = some L0 ∧
      L0.phase = .running ∧ stPend.trapvec ≠ 0 ∧ (0x0012 : BitVec 16) ≠ 0x0031) :=
  ⟨⟨current_sys _ _ _ _ rfl rfl rfl, by decide⟩, ⟨current_sys _ _ _ _ rfl rfl rfl, by decide⟩,
    ⟨issues_at (by decide), issues_at (by decide), rfl⟩,
    rfl, rfl, by decide, rfl, rfl, by decide⟩

theorem test_trap_and_return :
    shows (exec (.trap 5 0x3FF) (sys stTrap)) (fun t => (xOf 5 t, causeOf t, (strandOf t).pc, (strandOf t).trappc)) =
      some (0x3FF, 0x50, 0x100, 0) ∧
    shows (exec .rft (sys { stIn with trappc := 4 })) (fun t => ((strandOf t).pc, (strandOf t).saved.isSome)) = some (4, false) := by decide

/-- Every readable register of a strand, and the first and last register number whose write traps. -/
theorem witness_ControlRegisters :
    (sys stTrap).Issues { wx := [5] } 0 0 stTrap ∧ (sys stTrap).Issues { rx := [6] } 0 0 stTrap ∧
    ((0x010 : BitVec 10) ≠ 0x023 ∧ (0x010 : BitVec 10) ≠ 0x040 ∧ (sys stTrap).ctlValue 0 stTrap 0x010 = some 0x100) ∧
    (sys stTrap).identity 0 0 stTrap 4 = some 2 ∧
    ((0x011 : BitVec 10).toNat = 0x011 ∧ 4 ≤ (4 : BitVec 10).toNat ∧ (7 : BitVec 10).toNat ≤ 7) :=
  ⟨issues_at (by decide), issues_at (by decide), by decide⟩

/-- A written TH of 25 or more stores 24, R55; AGE_LIMIT is held within 4 to 4096, R64. -/
theorem test_ctl_writes :
    shows (exec (.ctlWr 6 0x001) (sys (stx [(6, 25)]))) (fun t => (strandOf t).sigth) = some 24 ∧
    shows (exec (.ctlWr 6 0x001) (sys (stx [(6, 24)]))) (fun t => (strandOf t).sigth) = some 24 ∧
    shows (exec (.ctlWr 6 0x030) (sys (stx [(6, 3)]))) (fun t => (t.bent 0).ageLimit) = some 4 ∧
    shows (exec (.ctlWr 6 0x030) (sys (stx [(6, 5000)]))) (fun t => (t.bent 0).ageLimit) = some 4096 := by decide

def ev (n : Nat) : EvEntry := { status := 1, kind := 2, space := 0, addr := BitVec.ofNat 52 n }
def stEv : Strand := { stx [] with evq := [ev 8, ev 16] }
def vote0 : VoteEntry := { egr := 0, bent := 0, strand := 0, round := 0, seq := 0, kind := 1 }

theorem witness_EventAndVoteQueues :
    ((sys stEv).Issues { wx := [5] } 0 0 stEv ∧ stEv.evq = ev 8 :: [ev 16]) ∧
    ((sys (stx [])).Issues { wx := [5] } 0 0 (stx []) ∧ (stx []).evq = [] ∧ ((sys (stx [])).bent 0).votelog = []) ∧
    ((sys (stx []) L0 { votelog := [vote0] }).Issues { wx := [5] } 0 0 (stx []) ∧
      ((sys (stx []) L0 { votelog := [vote0] }).bent 0).votelog = vote0 :: []) ∧
    ((List.range 7).map ev).length = 7 :=
  ⟨⟨issues_at (by decide), rfl⟩, ⟨issues_at (by decide), rfl, rfl⟩,
    ⟨issues_at (by decide), rfl⟩, rfl⟩

/-- A strand whose x5 is the mask of x6 alone, and whose x7 names a completion word in its scratchpad. -/
def stPark : Strand := stx [(5, 0x40), (6, 9), (7, 0x8000000000000100)]
def stRet : Strand := { stx [] with state := .retiring false }
def stEndAmo : Strand := { stx [] with ops := [{ id := 0, kind := .amo 2 true, path := .channel 0, loc := 0, size := 8, dest := .x 5 .d }] }
def c0 : Cont := { st := stPark, live := 0x40, waitOn := 0, waitLoc := none, fired := true }

theorem witness_StrandEndsAndContinuations :
    ((sys (stx [])).Issues {} 0 0 (stx []) ∧ (sys (stx [])).atomHolds (stx []) = false ∧
      (sys (stx []) { L0 with det := true }).atomHolds (stx []) = false) ∧
    ((sys stEndAmo { L0 with det := true }).Issues {} 0 0 stEndAmo ∧ (sys stEndAmo { L0 with det := true }).atomHolds stEndAmo = true) ∧
    ((sys stRet).strand? 0 0 = some stRet ∧ stRet.state = .retiring false ∧ (sys stRet).retired stRet = true ∧ stRet.pend = []) ∧
    ((sys stPark).Issues { rx := [5, 7] } 0 0 stPark ∧ stPark.saved = none ∧ liveOk (stPark.rx 5) = true ∧ stPark.loads = [] ∧
      ((sys stPark).launch 0).records < ((sys stPark).launch 0).cstore ∧
      (sys stPark).waitWord 0 0 stPark (stPark.rx 7) = .ok (2 ^ 41 + 0x100) (.sill 1) none ∧
      (sys stPark).readNat (2 ^ 41 + 0x100) 8 % 4 = 0 ∧
      (sys stPark L0 {} [(2 ^ 41 + 0x100, 1)]).readNat (2 ^ 41 + 0x100) 8 % 4 ≠ 0) ∧
    (let s := sys (stx []) { L0 with conts := [c0] }
     s.launch? 0 = some { L0 with conts := [c0] } ∧ { L0 with conts := [c0] }.conts[0]? = some c0 ∧ c0.fired = true) ∧
    (let s : State := { sys (stx []) { L0 with readyList := [c0] } with bents := [(0, { launch := some 0 })] }
     (s.bent 0).launch = some 0 ∧ s.strand? 0 0 = none ∧ 0 < (s.launch 0).nStrands ∧ (s.launch 0).phase = .running ∧
       s.slotBefore 0 0 0 = false ∧ (s.launch 0).takes (s.bent 0).index 0 = some c0) :=
  ⟨⟨issues_at (by decide), by decide⟩, ⟨issues_at (by decide), by decide⟩, by decide,
    ⟨issues_at (by decide), by decide⟩, by decide⟩

/-! ### Memory, fences, barriers and publish -/

def bufPlain : Buffer := { shadow := false, tagged := true, spad := false, width := 4, bytes := 0x1000, boff := 0, dataOff := none, tagOff := 0x800 }
def bufSpad : Buffer := { bufPlain with spad := true, boff := 0x10000 }
def bufShadow : Buffer := { bufPlain with shadow := true, tagged := false, boff := 0x10000 }

/-- A launch whose buffer 1 is device memory from 0x100000, whose buffer 2 is scratchpad from 0x10000, and whose buffer 3 has a shadow. -/
def L1 : Launch := { L0 with bufva := 0x100000, bufs := [(1, bufPlain), (2, bufSpad), (3, bufShadow)] }

/-- A strand with an address in x5 and a value in x6. -/
def stAt (a : Word) : Strand := stx [(5, a), (6, 0x1122334455667788)]

theorem witness_AddressChecksAndScratchpad :
    (sys (stAt 0x8000000000000001)).Issues { rx := [5], wx := [4] } 0 0 (stAt 0x8000000000000001) ∧ (stAt 1).ops = [] ∧
    (0x8000000000000001 : Word).toNat % tySize .h ≠ 0 ∧
    (∀ x ∈ [(0x8000000000400000 : Word), 0x9C00000000000000, 0xB000000000000000, 0x0010000000000000],
      x.toNat % tySize .d = 0 ∧ spaceOf 0 x = .bad) ∧
    ((0x90100000003FFFF8 : Word).toNat % tySize .d = 0 ∧ spaceOf 0 0x90100000003FFFF8 = .named 1 0x3FFFF8) ∧
    (spaceOf 0 0x000FFFFFFFFFFFF8 = .dev 0xFFFFFFFFFFFF8 ∧ spaceOf 0 0xA000000000000000 = .host 0) ∧
    (spaceOf 0 0x80000000003FFFF8 = .own 0x3FFFF8 ∧ ∀ p ∈ ((sys (stx []) L1).launch 0).bufs, p.2.spad = true →
      inRange p.2.boff p.2.bytes 0x3FFFF8 = false ∧ (p.2.shadow = true → inRange p.2.second p.2.bytes 0x3FFFF8 = false)) :=
  ⟨issues_at (by decide), rfl, by simp [tySize, tyWidth], by simp [tySize, tyWidth, spaceOf],
    by simp [tySize, tyWidth, spaceOf], by simp [spaceOf], by simp [spaceOf], by decide⟩

theorem witness_LoadsIssue :
    (sys (stAt 0x8000000000000010) L1).Issues { rx := [5], wx := [4] } 0 0 (stAt 0x8000000000000010) ∧
    (sys (stAt 0x100010) L1).Issues { rx := [5], wf := [4] } 0 0 (stAt 0x100010) ∧
    (raceChecked .bent .rlx = false ∧ raceChecked .strand .acq = false ∧ ldnbType .wu = true) ∧
    (sys (stAt 0x8000000000000010) L1).access 0 0 (stAt 0x8000000000000010) ownOnly false (Strand.ea (stAt 0x8000000000000010) 5 0 8) 8 =
      .ok (2 ^ 41 + 16) (.sill 0) none ∧
    ((stAt 0x100010).ea 5 0 4).toNat % 4 = 0 ∧ spaceOf 0 ((stAt 0x100010).ea 5 0 4) ≠ .bad ∧
    (sys (stAt 0x100010) L1).tagAccess 0 0 (stAt 0x100010) false ((stAt 0x100010).ea 5 0 4) =
      .ok (backAddr 0 1 false 0x804) (.channel 2) none ∧
    (sys (stAt 0x100010) L1).access 0 0 (stAt 0x100010) allSpaces false ((stAt 0x100010).ea 5 0 4) 4 =
      .ok (backAddr 0 1 false 16) (.channel 0) none ∧ (∀ n, Path.channel 0 ≠ .sill n) :=
  ⟨issues_at (by decide), issues_at (by decide), by decide, by decide, by decide, by decide, by decide, by decide, nofun⟩

theorem witness_StoresIssue :
    (sys (stAt 0x8000000000000010) L1).Issues { rx := [5], dx := [6] } 0 0 (stAt 0x8000000000000010) ∧
    (sys (stAt 0x100010) L1).Issues { rx := [5], df := [4] } 0 0 (stAt 0x100010) ∧ (sys (stx [])).Issues {} 0 0 (stx []) ∧
    isRel .rel = true ∧ (sys (stAt 0x8000000000000010) L1).cellsOut (stAt 0x8000000000000010) = false ∧
    tySigned .d = true ∧ tySigned .bu = false ∧
    (sys (stAt 0x8000000000000010) L1).access 0 0 (stAt 0x8000000000000010) ownOnly true (Strand.ea (stAt 0x8000000000000010) 5 0 8) 8 =
      .ok (2 ^ 41 + 16) (.sill 0) none ∧
    (sys (stAt 0x100010) L1).tagAccess 0 0 (stAt 0x100010) true ((stAt 0x100010).ea 5 0 4) = .ok (backAddr 0 1 false 0x804) (.channel 2) none :=
  ⟨issues_at (by decide), issues_at (by decide),
    issues_at (by decide), rfl, by decide⟩

/-- A bent whose granule 0 and that of the tag byte of an element of buffer 2 were last written by the strand of slot 3 of bent 1 in this phase. -/
def bentWritten : Bent := { granules := [(0, { lwb := 1, lws := 3 }), (0x840, { lwb := 1, lws := 3 })] }

/-- The same with a strand still in that slot. -/
def sysRace (st : Strand) : State :=
  { sys st L1 with bents := [(0, { bentWritten with launch := some 0, strands := [(0, st)] }), (1, { launch := some 0, strands := [(3, {})] })] }

theorem witness_RaceCheckedAccesses :
    (sys (stAt 0x8000000000000010) L1).Issues { rx := [5], wx := [4] } 0 0 (stAt 0x8000000000000010) ∧
    (sys (stAt 0x8000000000000010) L1).Issues { rx := [5], dx := [6] } 0 0 (stAt 0x8000000000000010) ∧
    (stAt 1).ops = [] ∧ ((sys (stAt 1) L1).launch 0).det = false ∧ (sys (stAt 1) L1).Ordered ∧ tySigned .d = true ∧
    (sys (stAt 0x8000000000000010) L1).races 0 0 (stAt 0x8000000000000010) (2 ^ 41 + 16) 8 = false ∧
    (sys (stAt 0x8000000000000018) L1 bentWritten).access 0 0 (stAt 0x8000000000000018) allSpaces true
      (Strand.ea (stAt 0x8000000000000018) 5 0 8) 8 = .ok (2 ^ 41 + 24) (.sill 0) none ∧
    (let st := stAt 0x8000000000010010
     (sys st L1).Issues { rx := [5], wf := [4] } 0 0 st ∧ (sys st L1).Issues { rx := [5], df := [4] } 0 0 st ∧
     (st.ea 5 0 4).toNat % 4 = 0 ∧ spaceOf 0 (st.ea 5 0 4) ≠ .bad ∧
     (∀ w ∈ [false, true], (sys st L1).tagAccess 0 0 st w (st.ea 5 0 4) = .ok (2 ^ 41 + 0x10804) (.sill 0) none ∧
       (sys st L1).access 0 0 st allSpaces w (st.ea 5 0 4) 4 = .ok (2 ^ 41 + 0x10010) (.sill 0) none) ∧
     (sys st L1).races 0 0 st (2 ^ 41 + 0x10010) 4 = false ∧ (sys st L1).races 0 0 st (2 ^ 41 + 0x10804) 1 = false ∧
     (sysRace st).races 0 0 st (2 ^ 41 + 0x10804) 1 = true) ∧
    (sysRace (stAt 0x8000000000000018)).races 0 0 (stAt 0x8000000000000018) (2 ^ 41 + 24) 8 = true ∧
    (sys (stAt 0x8000000000000018) L1 bentWritten).races 0 0 (stAt 0x8000000000000018) (2 ^ 41 + 24) 8 = false ∧
    (sys (stAt 0x8000000000000020) L1 bentWritten).races 0 0 (stAt 0x8000000000000020) (2 ^ 41 + 32) 8 = false :=
  ⟨issues_at (by decide), issues_at (by decide), rfl, rfl,
    by unfold State.Ordered; decide, by decide, by decide, by decide, ⟨issues_at (by decide), issues_at (by decide), by decide⟩, by decide⟩

/-- A race traps with cause 0x0030 and stores nothing; a store that does not race goes on its way with its bytes, the low byte
first, R15, R143. -/
theorem test_race_and_store :
    shows (exec (.st 6 5 .strand .rlx .d 0) (sysRace { stAt 0x8000000000000018 with trapvec := 4 }))
      (fun t => (causeOf t, t.byte (2 ^ 41 + 24))) = some (0x30, 0) ∧
    shows (exec (.st 6 5 .strand .rlx .h 1) (sys (stAt 0x8000000000000020) L1 bentWritten))
      (fun t => (t.byte (2 ^ 41 + 34), (strandOf t).ops.map (fun o => (o.loc, o.data)))) = some (0, [(2 ^ 41 + 34, [0x88, 0x77])]) := by
  decide

theorem witness_AtomicsIssueAndCompute :
    ((Instr.amoCas 4 5 6 .bent .rlx true, 1, true) ∈
      [(Instr.amoSwap 4 5 6 .bent .rlx true, 0, true), (.amoCas 4 5 6 .bent .rlx true, 1, true)]) ∧
    (sys (stAt 0x100010) L1).Issues { rx := [5, 6, 4], wx := [4] } 0 0 (stAt 0x100010) ∧ (stAt 0).ops = [] ∧ isRel .acq = false ∧
    (isRel .rel = true ∧ (sys (stAt 0x100010) L1).cellsOut (stAt 0x100010) = false) ∧
    (sys (stAt 0x100010) L1).access 0 0 (stAt 0x100010) noHost true ((stAt 0x100010).rx 5) 8 = .ok (backAddr 0 1 false 16) (.channel 0) none ∧
    (sys (stAt 0x8000000000000010) L1).access 0 0 (stAt 0x8000000000000010) noHost true ((stAt 0x8000000000000010).rx 5) 4 =
      .ok (2 ^ 41 + 16) (.sill 0) none ∧
    ((sys (stAt 0x8000000000000010) L1).bent 0).voqRoom portSI egAT (tierClass ((sys (stAt 1) L1).launch 0).tier).toNat = true ∧
    (0 < 32 ∧ 2 ^ 32 - 1 < 2 ^ 32) :=
  ⟨by simp, issues_at (by decide), rfl, rfl, by decide⟩

theorem test_amo_values :
    amoNew 2 32 0xFFFFFFFF 1 0 = 0 ∧ amoNew 7 32 0x80000000 0x7FFFFFFF 0 = 0x80000000 ∧ amoNew 9 32 0x80000000 0x7FFFFFFF 0 = 0x7FFFFFFF ∧
    amoNew 1 64 5 9 5 = 9 ∧ amoNew 1 64 5 9 4 = 5 := by decide

/-- A load, an atomic and a store on their way. -/
def opLoad : MemOp := { id := 3, kind := .load, path := .channel 0, loc := 2 ^ 41, size := 4, dest := .x 4 .w }
def opAmo : MemOp := { opLoad with kind := .amo 2 false, data := [1, 0, 0, 0] }
def opStore : MemOp := { id := 3, kind := .store, path := .sill 0, loc := 2 ^ 41, size := 4, data := [1, 2, 3, 4] }
def stOp (o : MemOp) : Strand := { stx [] with ops := [o] }

theorem witness_AccessesReturn :
    (∀ o ∈ [opLoad, { opLoad with kind := .ldnb }, opAmo], (sys (stOp o)).strand? 0 0 = some (stOp o) ∧ (stOp o).ops = [o] ∧
      o.got = none ∧ o.parked = false ∧ o.preTrap = false ∧ o.acq = false ∧ o.dest = .x 4 .w ∧ 0 < o.size ∧ o.path = .channel 0 ∧
      (sys (stOp o)).foreignPage (stOp o).lid o = none ∧ (sys (stOp { o with path := .image 0 1 })).foreignPage 0 { o with path := .image 0 1 } = none ∧
      ((sys (stOp o)).launch (stOp o).lid).det = false ∧ o.writer.lid = (stOp o).lid) ∧
    (opLoad.kind = .load ∧ opAmo.kind = .amo 2 false ∧ (sys (stOp opAmo)).Ordered ∧ (sys (stOp opAmo)).poisonedAt (2 ^ 41) 4 = false) ∧
    (∀ o ∈ [opStore, { opStore with kind := .stfe true }, { opStore with kind := .stfe false }],
      (sys (stOp o)).strand? 0 0 = some (stOp o) ∧ (stOp o).ops = [o] ∧ o.got = none ∧ o.data.length = o.size ∧ o.writer.lid = (stOp o).lid ∧
      ((sys (stOp o)).launch (stOp o).lid).det = false ∧ spadOf o.loc = some (0, 0) ∧ (sys (stOp o)).foreignPage (stOp o).lid o = none) :=
  ⟨by decide, ⟨rfl, rfl, by unfold State.Ordered; decide, by decide⟩, by decide⟩

/-- `ld.w` sign-extends, R140; a completed store's four bytes stand at its place and no fifth. -/
theorem test_returns :
    shows (exec (.loadReturn 0 0 3) (sys (stOp opLoad) L0 {} [(2 ^ 41, 1), (2 ^ 41 + 3, 0x80)])) (xOf 4) = some 0xFFFFFFFF80000001 ∧
    shows (exec (.loadReturn 0 0 3) (sys (stOp opAmo) L0 {} [(2 ^ 41, 0xFF)])) (fun t => (xOf 4 t, t.readNat (2 ^ 41) 4)) = some (0xFF, 0x100) ∧
    shows (exec (.storeCompletion 0 0 3) (sys (stOp opStore) L0 {} [(2 ^ 41 + 4, 9)])) (fun t => (t.readNat (2 ^ 41) 5, (strandOf t).ops.length)) =
      some (0x0904030201, 0) := by decide

def stFence : Strand := { stx [] with state := .waiting (.performed .bent) }

theorem witness_FencesAndWaits :
    ((sys (stx [])).Issues {} 0 0 (stx []) ∧ (sys (stx [])).performed (stx []) = true) ∧
    ((sys (stOp opLoad)).Issues {} 0 0 (stOp opLoad) ∧ (sys (stOp opLoad)).performed (stOp opLoad) = false) ∧
    (let s := sys (stOp opAmo) { L0 with det := true }
     s.Issues {} 0 0 (stOp opAmo) ∧ s.performed (stOp opAmo) = false ∧ ((s.launch 0).det && (stOp opAmo).ops.any (stOp opAmo).roundAmo) = true) ∧
    ((sys stFence).strand? 0 0 = some stFence ∧ stFence.state = .waiting (.performed .bent) ∧ (sys stFence).performed stFence = true ∧
      (sys stFence).cleared 0 0 stFence (.performed .bent) = true) :=
  ⟨⟨issues_at (by decide), by decide⟩, ⟨issues_at (by decide), by decide⟩, ⟨issues_at (by decide), by decide⟩,
    by decide⟩

/-- A launch with b0 and b15: two parties, of which none and one have arrived. -/
def L2 : Launch := { L1 with bars := [(0, ⟨2, 2, []⟩), (15, ⟨2, 2, [(0, (7, 1))]⟩)] }

theorem witness_BarriersAndPublish :
    ((sys (stAt 0x50180)).Issues { rx := [5] } 0 0 (stAt 0x50180) ∧ barDesc ((stAt 0x50180).rx 5) = some (5, 384) ∧
      NMap.get? ((sys (stAt 1)).launch 0).bars 15 = none ∧ (sys (stAt 1)).Issues { rx := [5], wx := [4] } 0 0 (stAt 1) ∧
      barDesc ((stAt 0x50001).rx 5) = some (5, 1) ∧ barDesc ((stAt 0x50000).rx 5) = none ∧ (sys (stAt 0x50000)).Issues { rx := [5] } 0 0 (stAt 0x50000)) ∧
    ((sys (stAt 7) L2).Issues { wx := [4] } 0 0 (stAt 7) ∧ (sys (stAt 7) L2).Issues { rx := [5], wx := [4] } 0 0 (stAt 7) ∧
      (∃ q ∈ [(0, ((7 : BitVec 16), 1))], q.2.2 ≠ 0) ∧ (∀ q ∈ ([] : NMap (BitVec 16 × Nat)), q.2.2 = 0) ∧
      NMap.get? ((sys (stAt 7) L2).launch 0).bars 0 = some ⟨2, 2, []⟩ ∧
      Barrier.full ⟨2, 2, (List.range 64).map (fun g => (g + 1, ((0 : BitVec 16), 0)))⟩ 0 = true ∧
      NMap.get? ((sys (stAt 7) L2).launch 0).bars 15 = some ⟨2, 2, [(0, (7, 1))]⟩ ∧ Barrier.full ⟨2, 2, [(0, (7, 1))]⟩ 0 = false ∧
      (sys (stAt 7) L2).performed (stAt 7) = true) ∧
    (phasePassed 8 7 = true ∧ phasePassed 7 7 = false ∧ phasePassed 0x8006 7 = true ∧ phasePassed 0x8007 7 = false) ∧
    ((sys (stx []) L1).Issues {} 0 0 (stx []) ∧ (stx []).ops = [] ∧ NMap.get? ((sys (stx []) L1).launch 0).bufs 255 = none ∧
      NMap.get? ((sys (stx []) L1).launch 0).bufs 1 = some bufPlain ∧ bufPlain.shadow = false ∧
      NMap.get? ((sys (stx []) L1).launch 0).bufs 3 = some bufShadow ∧ bufShadow.shadow = true ∧
      (sys (stx []) L1).cleared 0 0 (stx []) (.shadowWrites 3) = true) ∧
    ((sys (stx []) { L1 with pubAfter := [3] }).launch? 0 = some { L1 with pubAfter := [3] } ∧
      { L1 with pubAfter := [3] }.pubAfter.contains 3 = true ∧ (sys (stx []) { L1 with pubAfter := [3] }).boundTo 0 3 true = false) := by
  repeat' with_reducible apply And.intro
  all_goals first | exact issues_at (by decide) | decide

/-- R159: the second of two arrivals moves the counter on and returns the phase it arrived in. -/
theorem test_barrier :
    shows (exec (.barArrive 4 .region 15) (sys (stAt 7) L2))
      (fun t => (xOf 4 t, (NMap.get? (t.launch 0).bars 15).map (fun B => B.groups))) = some (7, some [(0, (8, 0))]) ∧
    shows (exec (.barTest 6 5 .region 15) (sys (stAt 5) L2)) (xOf 6) = some 2 := by decide

/-! ### Cells, rendezvous, the sink, walks, engine commands, channels and collectives -/

/-- A byte of bent 0's scratchpad. -/
def sb (off : Nat) (v : Byte) : Host.Cell := (2 ^ 41 + off, v)

/-- A descriptor in x5 of an 8-byte data cell to the sink, R162, with its argument in x6 and its payload named by x7. -/
def descSink : Word := 0x0002050000008000
def stCell (d : Word) : Strand := stx [(5, d), (6, 3), (7, 0x80000000000000E0)]

theorem witness_CellInstructions :
    (sys (stCell descSink)).Issues { dx := [5, 6, 7] } 0 0 (stCell descSink) ∧ (stCell descSink).ops = [] ∧
    ((Instr.cell 7 5 6 1, CellFn.cell) ∈ [(Instr.cell 7 5 6 1, CellFn.cell), (.cellm 7 5 6 1, .cellm)]) ∧
    (stCell 0).rx 5 = 0 ∧
    ((sys (stCell descSink)).cellCheck 0 (stCell descSink) .cell 7 5 6 1 = none ∧ CellFn.cell ≠ .inj ∧ (7 : XReg) ≠ 0 ∧
      payloadOffset 0 (descCell descSink) ((stCell descSink).rx 7) = .inr 0xE0 ∧
      ((sys (stCell descSink)).launch 0).spadMap 0xE0 = some (0xE0, none) ∧
      ∀ e ∈ bitsOf (descCell descSink).dest, ((sys (stCell descSink)).bent 0).voqRoom (0xE0 / 256 % 8) e 1 = true) ∧
    (sys (stCell descSink)).cellCheck 0 (stCell descSink) .inj 7 5 6 1 = none ∧
    (sys (stCell descSink)).cellCheck 0 (stCell descSink) .cell 0 5 6 3 = none ∧
    (sys (stCell (descSink + 0x4000))).cellCheck 0 (stCell (descSink + 0x4000)) .cell 7 5 6 1 = some 0x0005 ∧
    (sys (stCell 0x0002050001008000)).cellCheck 0 (stCell 0x0002050001008000) .cell 7 5 6 1 = some 0x0005 ∧
    (sys (stCell 0x0040450000008000)).cellCheck 0 (stCell 0x0040450000008000) .cell 7 5 6 1 = some 0x0001 ∧
    (sys (stCell 0x0002100000008000)).cellCheck 0 (stCell 0x0002100000008000) .cell 7 5 6 1 = some 0x0001 ∧
    ((sys (stCell 0x0002050002000030)).cellCheck 0 (stCell 0x0002050002000030) .cellm 0 5 6 2 = none ∧
      ((sys (stCell 0)).bent 0).mqRoom 11 2 = true) ∧
    (sys (stCell 0x0002050002000070)).cellCheck 0 (stCell 0x0002050002000070) .cellv 0 5 6 4 = none :=
  ⟨issues_at (by decide +kernel), rfl, by simp, by decide +kernel⟩

/-- The cell of R162 stands in its queue with its payload read from scratchpad; a cell of no egress traps. -/
theorem test_cell :
    shows (exec (.cell 7 5 6 1) (sys (stCell descSink) L0 {} [sb 0xE0 0x2A]))
      (fun t => ((t.bent 0).queued 0 15 1).map (fun c => (c.arg, c.len, c.payload.getD 0 0))) = some [(3, 8, 0x2A)] ∧
    shows (exec (.inj 7 5 6 1) (sys (stCell descSink))) (fun t => ((t.bent 0).queued 11 15 1).map (fun c => c.payload.take 2)) =
      some [[0xE0, 0]] ∧
    shows (exec (.cell 7 5 6 1) (sys { stCell 0 with trapvec := 4 })) causeOf = some 1 := by decide +kernel

/-- A bent whose strand 0 holds entry 2 of AT, and one of which every entry of MX0 is taken. -/
def rv0 : RvEntry := { lid := 0, ownerBent := 0, ownerSlot := 0 }
def bentRv : Bent := { rv := [(32 * 14 + 2, rv0)] }
def bentRvFull : Bent := { rv := (List.range 32).map (fun n => (n, { rv0 with ownerSlot := 1 })) }
def slot0 : SinkSlot := { bytes := [0, 0, 0x80, 0x3F, 0, 0, 0, 0], fmt := 6, tag := true, count := 31, poison := false, round := 0 }

theorem witness_RendezvousAndSink :
    ((sys (stx [])).Issues { wx := [4] } 0 0 (stx []) ∧ ¬((11 : BitVec 4).toNat ≤ 10 ∨ (11 : BitVec 4).toNat = 14)) ∧
    ((10 : BitVec 4).toNat ≤ 10 ∧ ((sys (stx [])).bent 0).heldAt (stx []) 10 < 8 ∧ ((sys (stx [])).bent 0).turn 0 10 = true ∧
      ((sys (stx [])).bent 0).freeRv 10 = some 0) ∧
    8 ≤ ({ rv := (List.range 8).map (fun n => (n, rv0)) } : Bent).heldAt (stx []) 0 ∧
    (((sys (stx []) L0 bentRvFull).bent 0).heldAt (stx []) 0 < 8 ∧ ((sys (stx []) L0 bentRvFull).bent 0).freeRv 0 = none) ∧
    ((sys (stAt 2) L0 bentRv).Issues { rx := [5] } 0 0 (stAt 2) ∧ ((stAt 2).rx 5).toNat < 32 ∧
      ((sys (stAt 2) L0 bentRv).bent 0).holdsRv (stAt 2) 14 2 = true ∧ (sys (stAt 2) L0 bentRv).operandOut 0 (stAt 2) 14 2 = false ∧
      ((sys (stAt 2) L0 bentRv).bent 0).holdsRv (stAt 2) 14 31 = false ∧ 32 ≤ ((stAt 32).rx 5).toNat) ∧
    ((sys (stx []) L0 { sinks := [(15, slot0)] }).Issues { wf := [4] } 0 0 (stx []) ∧
      NMap.get? ((sys (stx []) L0 { sinks := [(15, slot0)] }).bent 0).sinks 15 = some slot0 ∧
      ((sys (stx []) L0 { sinks := [(15, slot0)] }).bent 0).turn 0 (32 + 15) = true ∧ (slot0.fmt = 6 ∧ slot0.tag = true) ∧
      slot0.result = some ⟨0x3F800000, 24⟩ ∧ (({ slot0 with fmt := 5 } : SinkSlot).fmt.toNat < 6 ∧ 13 < ({ slot0 with fmt := 14 } : SinkSlot).fmt.toNat) ∧
      NMap.get? ((sys (stx [])).bent 0).sinks 0 = none) :=
  ⟨⟨issues_at (by decide +kernel), by decide +kernel⟩, by decide +kernel, by decide +kernel, by decide +kernel,
    ⟨issues_at (by decide +kernel), by decide +kernel⟩, issues_at (by decide +kernel), by decide +kernel⟩

/-- R170: `sink` of an FP32 slot gives its element with the lesser of its count and 24, and empties the slot. -/
theorem test_sink :
    shows (exec (.sinkF 4 15) (sys (stx []) L0 { sinks := [(15, slot0)] })) (fun t => (fOf 4 t, (t.bent 0).sinks.length)) =
      some ((0x3F800000, 24), 0) ∧
    shows (exec (.sinkX 4 15) (sys (stx []) L0 { sinks := [(15, slot0)] })) (xOf 4) = some 0x3F800000 := by decide +kernel

/-- A launch with stream 0, and a strand whose x5 names a descriptor at 0x40 and x6 a completion word at 0x20. -/
def L4 : Launch := { L1 with streams := [(0, (0, 0))] }
def stWalk : Strand := stx [(5, 0x8000000000000040), (6, 0x8000000000000020), (7, 9)]

/-- The descriptor of R173 of a walk of two rows of eight bytes from scratchpad to the sink. -/
def memWalk : List Host.Cell :=
  [sb 0x41 1, sb 0x47 0x80, sb 0x48 8, sb 0x50 8, sb 0x54 2, sb 0x59 0x80, sb 0x5D 5, sb 0x6A 1]

def walk0 : Walk :=
  { src := 0x8000000000000100, stride := 8, rowLen := 8, rows := 2, hdr := 0x0000050000008000, cls := 1, dmask := 0x8000, ticket := 9
    word := 0x8000000000000020 }

theorem witness_WalkCommands :
    (sys stWalk L4 {} memWalk).Issues { rx := [5, 6], wx := [4] } 0 0 stWalk ∧ stWalk.ops = [] ∧ (1 : BitVec 3) ≠ 0 ∧
    ((stWalk.rx 5).toNat % 64 = 0 ∧ (stWalk.rx 6).toNat % 8 = 0) ∧
    (spaceOf 0 (stWalk.rx 6) = .own 0x20 ∧ spaceOf 0 (stWalk.rx 5) = .own 0x40 ∧
      ((sys stWalk L4 {} memWalk).launch 0).spadMap 0x40 = some (0x40, none)) ∧
    (let s := sys stWalk L4 {} memWalk
     let r := s.read (spadAddr 0 0x40) 64
     r.2 = false ∧ s.walkCheck 0 stWalk (WalkDesc.of r.1) false = none ∧
       (NMap.getD (s.bent 0).walks ((s.launch 0).engineOf (WalkDesc.of r.1).stream) []).length < 32) ∧
    (let s := sys stWalk L1 {} memWalk
     let r := s.read (spadAddr 0 0x40) 64
     r.2 = false ∧ s.walkCheck 0 stWalk (WalkDesc.of r.1) false = some 0x0001) ∧
    (({ sys stWalk L4 {} memWalk with poison := [2 ^ 41 + 0x40] } : State).read (spadAddr 0 0x40) 64).2 = true ∧
    (let s := sys (stAt 9) L4 { tickets := [9], walks := [(0, [{ walk0 with bounded := true }])] }
     s.Issues { rx := [5, 6], wx := [4] } 0 0 (stAt 9) ∧ ((stAt 9).rx 5).toNat < 65536 ∧ (s.bent 0).tickets.contains 9 = true ∧
       (NMap.vals (s.bent 0).walks).any (fun l => l.any (fun w => w.live 9)) = true ∧ (s.bent 0).tickets.contains 10 = false) ∧
    (let s := sys (stAt 9) L4 { tickets := [9] }
     (NMap.vals (s.bent 0).walks).any (fun l => l.any (fun w => w.live 9)) = false) := by
  repeat' with_reducible apply And.intro
  all_goals first | exact issues_at (by decide) | decide +kernel

/-- A machine with a walk at the head of W0. -/
def sysWalk (w : Walk) (mem : List Host.Cell := []) : State := sys (stx []) L4 { walks := [(0, [w])] } mem
def walkB : Walk := { walk0 with begun := true }

theorem witness_WalkStepsAndFaults :
    ((sysWalk walk0).walkHead 0 0 = some walk0 ∧ walk0.begun = false ∧ walk0.cancelled = false ∧ (sysWalk walk0).walkGate walk0 = true ∧
      (sysWalk walk0).walkReady walk0 = true ∧ walk0.rows * walk0.rowLen ≠ 0 ∧ walkTarget 0 walk0 = none) ∧
    (walkTarget 0 { walk0 with src := 0x9010000000000100 } = some 1 ∧ 8 ≤ ((sysWalk walk0).bent 1).pool) ∧
    (let w := { walkB with bounded := true, cntr := 0x8000000000000008 }
     w.begun = true ∧ w.bounded = true ∧ w.ended = none ∧ (sysWalk w).walkGate w = true ∧
       (sysWalk w).walkLoc 0 0 w w.cntr = .ok (2 ^ 41 + 8) none) ∧
    (walkB.ended = none ∧ walkB.parkedTok = none ∧ ((walkB.piece.map (fun p => (p.addrs.length, p.eor, p.eot))) = some (8, true, false)) ∧
      (walkB.piece.map (fun p => (sysWalk walkB).walkRead 0 0 walkB p.addrs true (.ok [] false none))) =
        some (.ok (List.replicate 8 0) false none) ∧
      walkB.copy = false ∧ walkB.poisonRest = false ∧ walkB.dmask = walkB.hdr.extractLsb' 0 16 ∧
      ((sysWalk walkB).bent 0).walkRoom 0 walkB = true) ∧
    (let w := { walkB with copy := true, bt := 3 }
     (w.piece.map (fun p => (sysWalk w).walkRead 0 0 w p.addrs true (.ok [] false none))) = some (.ok (List.replicate 8 0) false none) ∧
       ((sysWalk w).launch w.lid).pubAfter.contains w.bt = false ∧ (sysWalk w).Ordered ∧ ((sysWalk w).launch w.lid).det = false) ∧
    (let w := { walkB with ended := some 1, row := 2 }
     (NMap.getD ((sysWalk w).bent 0).walks 0 []).all (fun v => !v.cancelled) = true ∧ w.ended = some 1 ∧ w.parkedTok = none ∧
       w.noWord = false ∧ (sysWalk w).wordLoc 0 0 w = .ok (2 ^ 41 + 0x20) none ∧ (sysWalk w).Ordered) ∧
    (let w := { walkB with parkedTok := some 5 }
     let s : State := { sysWalk w with parts := [(0, { parked := [(5, 0, 0)] })] }
     s.parkedWalk 0 5 = some (0, 0, w) ∧ s.walkHead 0 0 = some w ∧ w.ended = none) := by
  repeat' with_reducible apply And.intro
  all_goals first | decide +kernel | (unfold State.Ordered; decide)

/-- R175, R176: the first cell of a walk carries its row and ends it; the completion word has the rows and the status. -/
theorem test_walk :
    shows (exec (.walkCellEmit 0 0) (sysWalk walkB [sb 0x100 0x11, sb 0x107 0x22]))
      (fun t => ((t.bent 0).queued 8 15 1).map (fun c => (c.len, c.eor, c.eot, c.payload.getD 7 0))) = some [(8, true, false, 0x22)] ∧
    shows (exec (.walkCompletion 0 0) (sysWalk { walkB with ended := some 1, row := 2 })) (fun t => t.readNat (2 ^ 41 + 0x20) 8) =
      some 0x201 := by decide +kernel

/-- A launch with queue 1 and a strand with an operand in x5. -/
def Q0 : IncQueue := { onRound := false, route := List.replicate 32 0 }
def L5 : Launch := { L4 with queues := [(1, Q0)] }

theorem witness_EngineCommandsAndMarkers :
    ((sys (stAt 0) L5).Issues { rx := [5] } 0 0 (stAt 0) ∧
      (2 ^ 19 ≤ (0x80000 : Nat) ∧ 0x8000 / 2 ^ 15 % 2 = 1 ∧ 0x10000 / 2 ^ 16 % 8 < 0x12000 / 2 ^ 12 % 8) ∧
      (0x7FFFF - 2 ^ 15 < 2 ^ 19 ∧ (0x7FFFF - 2 ^ 15) / 2 ^ 15 % 2 = 0 ∧ (0x7FFFF - 2 ^ 15) / 2 ^ 12 % 8 ≤ (0x7FFFF - 2 ^ 15) / 2 ^ 16 % 8) ∧
      ((sys (stAt 0) L5).bent 0).gangBusy 15 = false ∧ (2 ^ 10 ≤ 0x400 ∧ 8 / 8 % 2 = 1 ∧ 0x3F7 < 2 ^ 10 ∧ 0x3F7 / 8 % 2 = 0) ∧
      NMap.get? ((sys (stAt 0) L5).launch 0).queues 0 = none) ∧
    (let st := stAt 0x80000000000000E0
     let s := sys st L5
     s.Issues { rx := [5] } 0 0 st ∧ NMap.get? (s.launch 0).queues 1 = some Q0 ∧ st.ops = [] ∧ (st.rx 5).toNat / 8 % 4 = 0 ∧
       spaceOf 0 (st.rx 5 &&& ~~~31) = .own 0xE0 ∧ 0xE0 % 256 + 32 * ((st.rx 5).toNat % 8 + 1) ≤ 256 ∧
       (s.launch 0).spadMap 0xE0 = some (0xE0, none) ∧ s.launch? 0 = some L5 ∧
       (s.bent 0).voqRoom (0xE0 / 256 % 8) 13 (tierClass (s.launch 0).tier).toNat = true) ∧
    ((sys (stAt 0) L5).Issues { wx := [4] } 0 0 (stAt 0) ∧ (stAt 0).ops = []) ∧
    (65536 ≤ (0x10000 : Word).toNat ∧ (0xFFFF : Word).toNat < 65536 ∧ (sys (stAt 2) L5).walkSending (stAt 2) = false ∧
      (∀ r ∈ (sys (stAt 2) L5).rounds 0, ((stAt 2).round + 1 - r).toNat < 32768) ∧
      (sys (stAt 2) L5).cleared 0 0 (stAt 2) (markRoom ((sys (stAt 2) L5).regionOf 0) ((stAt 2).markPairs 0 2)) = true ∧
      ((sys (stAt 2) L5).regionOf 0).getD 0 0 = 0 ∧ (stAt 2).roundCells = [] ∧ (2 : Word) = BitVec.ofNat 64 (2 ^ 1)) :=
  ⟨⟨issues_at (by decide +kernel), by decide +kernel⟩,
    ⟨issues_at (by decide +kernel), by decide +kernel⟩, ⟨issues_at (by decide +kernel), rfl⟩,
    by decide +kernel, by decide +kernel, by decide +kernel, by
      rw [rounds_sys _ _ rfl rfl rfl rfl]
      intro r h
      rw [List.mem_singleton.1 h]
      decide, by decide +kernel⟩

theorem test_engine_commands :
    shows (exec (.iqPush 5 1) (sys (stAt 0x80000000000000E0) L5))
      (fun t => ((NMap.get? (t.launch 0).queues 1).map (fun q => q.infl), ((t.bent 0).queued 0 13 1).map (fun c => (c.kind, c.len, c.iqrec)))) =
      some (some 1, [(4, 32, true)]) ∧
    shows (exec (.rmark 5) (sys (stAt 2) L5)) (fun t => ((strandOf t).round, ((t.bent 0).queued 11 1 0).map (fun c => (c.rmk, c.arg)))) =
      some (1, [(true, 0)]) ∧
    shows (exec (.mxGang 5) (sys (stAt 0x71903) L5)) (fun t => (NMap.getD (t.bent 0).mx 0 {}).gang) = some (some (3, 8, 1)) := by decide +kernel

/-- Open handles: a request channel to bent 1, and a dataflow channel of two slots that holds one element. -/
def L6 : Launch := { L4 with chans := [(1, .request 0 0 1 2 1), (2, .request 0 0 1 2 0), (3, .data 2 8 [{ bytes := [1, 2, 3, 4, 5, 6, 7, 8], poison := false }])] }
def packet0 : Packet :=
  { lid := 0, bent := 0, slot := 0, opId := 3, target := 1, off := 2 ^ 41 + 2 ^ 22, write := false, data := [], poison := false }

theorem witness_Channels :
    ((sys (stAt 0x801) L6).Issues { rx := [5] } 0 0 (stAt 0x801) ∧ (sys (stAt 0x801) L6).launch? 0 = some L6 ∧ 0x801 < 2 ^ 12 ∧
      0x801 / 2 ^ 8 % 16 ≤ 8 ∧ 0x801 % 256 ∈ L6.region ∧ NMap.get? L6.chans 63 = none ∧ 0x801 / 2 ^ 8 % 16 ≠ 0 ∧
      8 ≤ ((sys (stAt 0x801) L6).bent 1).pool ∧ 0x001 / 2 ^ 8 % 16 = 0 ∧ NMap.get? L6.chans 2 = some (.request 0 0 1 2 0)) ∧
    ((sys (stAt 0x3FFFF8) L6).Issues { rx := [5], wx := [4] } 0 0 (stAt 0x3FFFF8) ∧
      (sys (stAt 0x3FFFF8) L6).Issues { rx := [5], dx := [6] } 0 0 (stAt 0x3FFFF8) ∧ NMap.get? L6.chans 1 = some (.request 0 0 1 2 1) ∧
      (stAt 0x3FFFF8).ops = [] ∧ 0x3FFFF8 < 2 ^ 22 ∧ 0x3FFFF8 % 8 = 0 ∧ L6.spadMap 0x3FFFF8 = some (0x3FFFF8, none) ∧ 1 < 2) ∧
    (let st := stOp { opLoad with kind := .rld, path := .request 1, dest := .x 4 .d }
     let s (p : Packet) : State := { sys st L6 with packets := [p] }
     (s packet0).packets[0]? = some packet0 ∧ (s packet0).packetFirst 0 packet0 = true ∧ packet0.response = false ∧
       (∀ M ∈ NMap.vals (s packet0).launches, M.det = false) ∧ ({ packet0 with write := true, data := [1, 2, 3, 4, 5, 6, 7, 8] } : Packet).data.length = 8 ∧
       (let r := { packet0 with response := true, data := [1, 2, 3, 4, 5, 6, 7, 8] }
        (s r).packetFirst 0 r = true ∧ (s r).findOwner 0 0 0 = some (0, 0) ∧ (s r).strand? 0 0 = some st ∧
          (st.ops.map (fun o => (o.id, o.dest, o.preTrap))) = [(3, .x 4 .d, false)])) ∧
    (let st := stAt 0x80000000000000E0
     (sys st L6).Issues { rx := [5] } 0 0 st ∧ NMap.get? L6.chans 0 = none ∧
       NMap.get? L6.chans 3 = some (.data 2 8 [{ bytes := [1, 2, 3, 4, 5, 6, 7, 8], poison := false }]) ∧ (st.rx 5).toNat % 32 = 0 ∧
       spaceOf 0 (st.rx 5) = .own 0xE0 ∧ 0xE0 % 256 + 8 ≤ 256 ∧ L6.spadMap 0xE0 = some (0xE0, none) ∧ (sys st L6).cellsOut st = false ∧ 1 < 2 ∧
       (sys st L6).Ordered ∧ L6.det = false) := by
  refine ⟨⟨issues_at (by decide), by decide +kernel⟩,
    ⟨issues_at (by decide), issues_at (by decide), by decide +kernel⟩, by decide +kernel, ?_⟩
  repeat' with_reducible apply And.intro
  all_goals first | exact issues_at (by decide) | decide +kernel | (unfold State.Ordered; decide)

/-- A bent whose queue from an ingress to an egress holds all that class 1 may, and a launch whose scratchpad buffer has a shadow. -/
def qFull (i e : Nat) : Bent :=
  let l : List QCell := List.replicate 7 { cell := { (default : Cell) with cls := 1 }, side := {} }
  { voq := [(voqKey i e 1, l)], mq := [(11, l)], rv := [(0, rv0)], pool := 0 }
def elem0 : Elem := { bytes := [1, 2, 3, 4, 5, 6, 7, 8], poison := false }
def L9 : Launch := { L6 with bufs := [(2, { bufSpad with shadow := true })], chans := L6.chans ++ [(4, .data 1 8 [elem0]), (5, .data 1 8 [])] }
def stSecond : Strand := stx [(5, 0x8000000000011000), (6, 3), (7, 0x80000000000110E0)]

/-- The clauses of the last statements in which a strand waits for a place, or finds the second range of a scratchpad buffer. -/
theorem witness_WaitsForPlaces :
    (let s := sys (stCell descSink) L5 (qFull 0 15)
     s.Issues { dx := [5, 6, 7] } 0 0 (stCell descSink) ∧ s.cellCheck 0 (stCell descSink) .cell 7 5 6 1 = none ∧
       (s.bent 0).voqRoom (0xE0 / 256 % 8) 15 1 = false ∧ (s.bent 0).mqRoom 11 2 = false ∧ (s.bent 0).gangBusy 15 = true) ∧
    (let s := sys (stAt 0x80000000000000E0) L5 (qFull 0 13)
     s.Issues { rx := [5] } 0 0 (stAt 0x80000000000000E0) ∧ (s.bent 0).voqRoom (0xE0 / 256 % 8) 13 1 = false ∧
       256 < 0xE0 % 256 + 32 * (1 % 8 + 1)) ∧
    (let s := sys stSecond L9
     s.Issues { rx := [5] } 0 0 stSecond ∧ spaceOf 0 (stSecond.rx 5 &&& ~~~31) = .own 0x11000 ∧ L9.spadMap 0x11000 = none ∧
       payloadOffset 0 (descCell descSink) (stSecond.rx 7) = .inr 0x110E0 ∧ L9.spadMap 0x110E0 = none) ∧
    (let s := sys (stAt 0x801) L9 (qFull 0 15)
     s.Issues { rx := [5] } 0 0 (stAt 0x801) ∧ (s.bent 0).pool < 8 ∧ NMap.get? L9.chans 1 = some (.request 0 0 1 2 1) ∧
       NMap.get? L9.chans 9 = none ∧ NMap.get? L9.chans 3 = some (.data 2 8 [elem0]) ∧ (1 : Nat) ≤ 1) ∧
    (let s := sys (stAt 0x11000) L9
     s.Issues { rx := [5], wx := [6], dx := [6] } 0 0 (stAt 0x11000) ∧ L9.spadMap 0x11000 = none ∧ L9.spadMap 0x10000 ≠ none ∧
       (0x11001 : Nat) % 8 ≠ 0 ∧ ¬((0x3FFFFF : Nat) ≥ 2 ^ 22)) ∧
    (NMap.get? L9.chans 4 = some (.data 1 8 [elem0]) ∧ [elem0].length = 1 ∧ NMap.get? L9.chans 5 = some (.data 1 8 []) ∧
      (sys (stAt 0x80000000000000E0) L9).cellsOut (stAt 0x80000000000000E0) = false ∧ 256 < 0xFC % 256 + 8 ∧ 0xF8 % 256 + 8 ≤ 256) :=
  ⟨⟨issues_at (by decide), by decide +kernel⟩, ⟨issues_at (by decide), by decide +kernel⟩,
    ⟨issues_at (by decide), by decide +kernel⟩, ⟨issues_at (by decide), by decide +kernel⟩,
    ⟨issues_at (by decide), by decide +kernel⟩, by decide +kernel⟩

theorem test_channels :
    shows (exec (.chrecv 5 3) (sys (stAt 0x80000000000000E0) L6)) (fun t => t.readNat (2 ^ 41 + 0xE0) 8) = some 0x0807060504030201 ∧
    shows (exec (.rst 6 5 1) (sys (stAt 0x3FFFF8) L6)) (fun t => t.packets.map (fun p => (p.target, p.write, p.data.getD 0 0))) =
      some [(1, true, 0x88)] := by decide +kernel

/-- A launch whose buffer 3 has a map of two ranks, and a ring all-reduce of two words that has sent its first message. -/
def L7 : Launch := { L4 with bufs := [(3, { bufShadow with rankMap := some (2, 0, 1, [5, 6]) })] }
def scarf0 : Scarf :=
  { die := 0, bent := 0, slot := 0, ownerBent := 0, ownerSlot := 0, kind := 1, dtype := 4, op := 0, det := true, collid := 7, count := 2
    timeout := 1000, peer := 0, switch := 0, rank := 0, gen := 1, ids := [5, 6], rows := [], writer := {}, have_ := [(0, 0, [1]), (0, 1, [2])]
    sent := [((0, 1), { collid := 7, gen := 1, step := 0, rank := 0, ack := false, parts := [(0, 1, [2])] })] }
def dev5 : Device := { fabidValid := true, fabid := 5 }
def memMap : List Host.Cell := [sb 0x40 2, sb 0x44 1, sb 0x50 5, sb 0x54 6]
def memScarf : List Host.Cell :=
  [sb 0x40 1, sb 0x41 4, sb 0x43 1, sb 0x44 7, sb 0x48 2, sb 0x51 1, sb 0x57 0x80, sb 0x60 0xE8, sb 0x61 3, sb 0x100 1, sb 0x104 2]
def sysScarf (C : Scarf) : State := sys (stx []) { L7 with scarfs := [(3, C)] }
def msg0 : ScarfMsg := { collid := 7, gen := 1, step := 0, rank := 1, ack := false, parts := [(1, 0, [10])] }

theorem witness_ScarfCollectives :
    (let st := stAt 0x8000000000000040
     let s : State := { sys st L4 {} memMap with device := dev5 }
     let ls : List (Nat × Option Nat) := (List.range 16).map (fun n => (2 ^ 41 + 0x40 + n, none))
     let is : List (Nat × Option Nat) := (List.range 8).map (fun n => (2 ^ 41 + 0x50 + n, none))
     let at_ (l : List (Nat × Option Nat)) : List Byte := l.map (s.byteVia 0)
     NMap.get? (s.launch 0).bufs 255 = none ∧ s.launch? 0 = some L4 ∧ NMap.get? L4.bufs 3 = some bufShadow ∧ ownOrDev 0 (st.rx 5) 64 = true ∧
       NMap.get? L4.scarfs 3 = none ∧ s.gather 0 0 st 16 (st.rx 5) = .ok ls ∧ (∀ y ∈ ls ++ is, s.poisonedAt y.1 1 = false) ∧
       mapHeaderOk (at_ ls) = true ∧ s.gather 0 0 st (4 * (mapHeader (at_ ls)).1) (st.rx 5 + 16) = .ok is ∧
       s.mapOf (at_ ls) (at_ is) = some (2, 0, 1, [5, 6]) ∧ mapHeaderOk (List.replicate 16 0) = false ∧ s.mapOf (at_ ls) (at_ ls) = none) ∧
    (let st := stAt 0x8000000000000040
     let s := sys st L7 {} memScarf
     let ls : List (Nat × Option Nat) := (List.range 64).map (fun n => (2 ^ 41 + 0x40 + n, none))
     let cs : List (Nat × Option Nat) := (List.range 8).map (fun n => (2 ^ 41 + 0x100 + n, none))
     let at_ (l : List (Nat × Option Nat)) : List Byte := l.map (s.byteVia 0)
     let e := ScarfDesc.of (at_ ls)
     s.cellsOut st = false ∧ s.gather 0 0 st 64 (st.rx 5) = .ok ls ∧ (∀ y ∈ ls ++ cs, s.poisonedAt y.1 1 = false) ∧
       e.bad { bufShadow with rankMap := some (2, 0, 1, [5, 6]) } (2, 0, 1, [5, 6]) = false ∧ e.steptab = 0 ∧
       s.gather 0 0 st (32 * 0) e.steptab = .ok [] ∧ scarfRows 0 [] = some [] ∧ s.gather 0 0 st (e.count * dtypeBytes e.dtype) e.src = .ok cs ∧
       0 < scarfSteps e.kind 2 ∧ (ScarfDesc.of (at_ cs)).bad bufShadow (2, 0, 1, [5, 6]) = true ∧
       ((NMap.vals s.launches).flatMap (fun M => M.scarfs.filter (fun c => c.2.die == dieOf 0))).length < 16) ∧
    ((sys (stx []) L7).Issues { wx := [4] } 0 0 (stx []) ∧ NMap.has L7.scarfs 3 = false ∧ NMap.has ({ L7 with scarfs := [(3, scarf0)] } : Launch).scarfs 3 = true) ∧
    (NMap.get? ((sysScarf scarf0).launch 0).scarfs 3 = some scarf0 ∧ msg0.collid = scarf0.collid ∧ msg0.gen = scarf0.gen ∧
      ((∃ x ∈ scarf0.sent, x.1 = (0, 1)) ∧ (0, 1) ∉ scarf0.acked) ∧ msg0.step < scarf0.steps ∧ msg0.rank ∈ scarf0.awaits 0 ∧
      ¬(scarf0.kind = 3 ∧ scarf0.det = true ∧ msg0.parts = []) ∧ (0, 1) ∉ scarf0.arrived ∧ scarf0.carries msg0 = true ∧
      (0, 1) ∈ (scarf0.take msg0).arrived) ∧
    (scarf0.lastSend + 10000 ≤ 10000 ∧ scarf0.step < scarf0.steps ∧
      (let C := { scarf0 with arrived := [(0, 1)], acked := [(0, 1)] }
       C.step + 1 < C.steps ∧ C.stepDone = true ∧ ∀ r, C.rows[C.step]? = some r → r.1 = 0 ∧ r.2.1 = 0)) ∧
    (let C := { scarf0 with step := 2, have_ := [(0, 0, [1]), (0, 1, [2]), (1, 0, [10]), (2, 0, [11]), (2, 1, [22])] }
     C.steps ≤ C.step ∧ ((sysScarf C).launch 0).pubAfter.contains 3 = false ∧ C.kind ≠ 7 ∧
       NMap.get? ((sysScarf C).launch 0).bufs 3 = some { bufShadow with rankMap := some (2, 0, 1, [5, 6]) } ∧
       ((sysScarf C).launch C.writer.lid).det = false ∧ C.det = true) ∧
    (scarf0.timer + scarf0.timeout ≤ 1000 ∧ scarf0.waitsOn = some 1) ∧
    (bufShadow.shadow = true ∧ bufShadow.spad = false ∧ (sysScarf scarf0).Ordered ∧
      ∀ q, ((sysScarf scarf0).link (portTo q)).failed = false) := by
  refine ⟨?_, ?_, ⟨issues_at (by decide), ?_⟩, ?_, ⟨?_, ?_, ?_, ?_, fun r h => by simp [scarf0] at h⟩, ?_, ?_,
    rfl, rfl, ?_, fun _ => rfl⟩ <;> first | decide +kernel | (unfold State.Ordered; decide)

/-- R389: the deterministic ring of two ranks leaves the sums in the shadow and publishes it. -/
theorem test_scarf_result :
    shows (exec (.scarfStepComplete 0 3) (sysScarf { scarf0 with step := 2, have_ := [(0, 0, [1]), (0, 1, [2]), (1, 0, [10]), (2, 0, [11]), (2, 1, [22])] }))
      (fun t => (t.readNat (backAddr 0 3 true 0) 8, (NMap.getD (t.launch 0).bufs 3 default).swap)) = some (0x160000000B, true) := by decide +kernel

/-! ### Op-words -/

/-- A routine of tenon 0 of bent 0, of eight op-words, whose cell checks significance at threshold 31 where told. -/
def R0 : Routine := { entry := 0, pc := 0, lo := 0, hi := 8, start := { kind := 2, round := 7 }, side := {} }
def Rchk : Routine := { R0 with start := { kind := 2, modes := 0xFA } }

/-- A machine whose next op-word is of that routine. -/
def vx (T : Tenon) (R : Routine := R0) : State :=
  { sys (stx []) L0 { tenons := [(0, { T with routines := [(0, R)] })] } with cur := .routine 0 0 0 }

theorem issues_vx (T : Tenon) (R : Routine) (srcs : List (VCode × Bool)) (d : Option VCode) (h : R.hold = .running) (c : R.couts = 0)
    (f : ∀ c ∈ srcs.map Prod.fst ++ d.toList, (isTile c.toNat = true → (T.tile c.toNat).configured = true) ∧ T.full c.toNat = true) :
    (vx T R).OpIssues 0 0 0 R srcs d :=
  ⟨rfl, rfl, h, c, fun x m => (f x m).1, fun x m => (f x m).2⟩

/-- What tenon 0 shows. -/
def tenonOf (t : State) : Tenon := t.tenon 0 0

/-- A register of one value in every lane. -/
def all64 (n : Nat) (c : Nat := 24) : VReg := { lanes := List.replicate 64 ⟨BitVec.ofNat 32 n, BitVec.ofNat 5 c⟩ }

/-- Lanes 0 to 63 hold their number. -/
def iota : VReg := { lanes := (List.range 64).map (fun k => ⟨BitVec.ofNat 32 k, 24⟩) }

def vf (d a b : VCode) (t : VTy := .f32) (x : Bool := false) : VFields :=
  { t := t, d := d, a := a, b := b, f := 7, n6 := 63, n5 := 24, rtz := false, y := false, x := x }

theorem witness_VxElementwise :
    (∃ p ∈ elementForms (vf 0 1 2), (vx {} Rchk).OpIssues 0 0 0 Rchk p.2.1.srcs (some 0) ∧
      (∀ c ∈ 0 :: p.2.1.srcs.map Prod.fst, isTile c.toNat = false) ∧ Rchk.checks = true ∧ p.2.1.long = false ∧
      ∃ f, p.2.1.fail Rchk [p.2.1.row (p.2.2 (Rchk.mode p.2.1.rtz)) ((vx {} Rchk).tenon 0 0) (fun _ => 0) 64] = some f) ∧
    (∃ p ∈ elementForms (vf 73 1 2), (vx {}).OpIssues 0 0 0 R0 p.2.1.srcs (some 73) ∧
      (∀ c ∈ 73 :: p.2.1.srcs.map Prod.fst, isTile c.toNat = false) ∧ R0.checks = false ∧ p.2.1.long = false) ∧
    (∃ p ∈ elementForms (vf 72 1 2), (vx {}).OpIssues 0 0 0 R0 p.2.1.srcs (some 72) ∧
      (∀ c ∈ 72 :: p.2.1.srcs.map Prod.fst, isTile c.toNat = false) ∧ p.2.1.long = true) := by
  refine ⟨⟨_, List.mem_of_getElem? (i := 0) rfl, issues_vx _ _ _ _ rfl rfl (by decide), by decide, by decide, rfl,
    Option.isSome_iff_exists.1 (by decide +kernel)⟩, ⟨_, List.mem_of_getElem? (i := 1) rfl, issues_vx _ _ _ _ rfl rfl (by decide), by decide, by decide, rfl⟩,
    ⟨_, List.mem_of_getElem? (i := 11) rfl, issues_vx _ _ _ _ rfl rfl (by decide), by decide, rfl⟩⟩

/-- R46, R206: 1.0 + 1.0 is 2.0 with count 24, `.i32` sums wrap or stop; R70: a quotient is not there yet. -/
theorem test_vadd :
    shows (exec (.vadd .f32 0 1 2 false false false) (vx { v := [(1, all64 0x3F800000), (2, all64 0x3F800000)] }))
      (fun t => (((tenonOf t).reg 0).lanes.getD 63 FVal.zero, (tenonOf t).full 0)) = some (⟨0x40000000, 24⟩, true) ∧
    shows (exec (.vadd .i32 0 1 2 false false false) (vx { v := [(1, all64 0x7FFFFFFF), (2, all64 1)] }))
      (fun t => (((tenonOf t).reg 0).lanes.getD 0 FVal.zero).v) = some 0x80000000 ∧
    shows (exec (.vaddSat 0 1 2 false false) (vx { v := [(1, all64 0x7FFFFFFF), (2, all64 1)] }))
      (fun t => (((tenonOf t).reg 0).lanes.getD 0 FVal.zero).v) = some 0x7FFFFFFF := by decide +kernel

theorem test_vdiv :
    shows (exec (.vdiv 0 1 2 false false false) (vx { v := [(1, all64 0x3F800000), (2, all64 0x40000000)] }))
      (fun t => ((tenonOf t).full 0, (tenonOf t).longs.map (fun o => o.value.lanes.getD 0 FVal.zero))) =
      some (false, [⟨0x3F000000, 24⟩]) := by decide +kernel

/-- A tile of two rows of four FP32 elements. -/
def tile0 : Tile := { rows := 2, cols := 4, elems := List.replicate 8 FVal.zero, configured := true, wcur := 1, rcur := 1 }
def Ttile : Tenon := { tiles := [(0, tile0), (1, { tile0 with live := true }), (7, { tile0 with rows := 3 })] }

theorem witness_VxTileForms :
    (∃ p ∈ elementForms (vf 74 75 74), (vx Ttile).OpIssues 0 0 0 R0 p.2.1.srcs (some 74) ∧
      p.2.1.tilesOk ((vx Ttile).tenon 0 0) (tilesOf (74 :: p.2.1.srcs.map (fun q => q.1.toNat))) = true ∧ p.2.1.form 74 = .whole ∧
      p.2.1.long = false) ∧
    (∃ p ∈ elementForms (vf 74 75 1), p.2.1.form 74 = .whole ∧ p.2.1.long = true) ∧
    (∃ p ∈ elementForms (vf 74 1 2), (vx Ttile).OpIssues 0 0 0 R0 p.2.1.srcs (some 74) ∧
      p.2.1.tilesOk ((vx Ttile).tenon 0 0) (tilesOf (74 :: p.2.1.srcs.map (fun q => q.1.toNat))) = true ∧ p.2.1.form 74 = .rowWrite) ∧
    (∃ p ∈ elementForms (vf 1 75 74), (vx Ttile).OpIssues 0 0 0 R0 p.2.1.srcs (some 1) ∧
      p.2.1.tilesOk ((vx Ttile).tenon 0 0) (tilesOf (1 :: p.2.1.srcs.map (fun q => q.1.toNat))) = true ∧ p.2.1.form 1 = .rowRead) ∧
    (∃ p ∈ elementForms (vf 74 81 1), (vx Ttile).OpIssues 0 0 0 R0 p.2.1.srcs (some 74) ∧
      p.2.1.tilesOk ((vx Ttile).tenon 0 0) (tilesOf (74 :: p.2.1.srcs.map (fun q => q.1.toNat))) = false) := by
  refine ⟨⟨_, List.mem_of_getElem? (i := 0) rfl, issues_vx _ _ _ _ rfl rfl (by decide), by decide +kernel, rfl, rfl⟩,
    ⟨_, List.mem_of_getElem? (i := 11) rfl, rfl, rfl⟩,
    ⟨_, List.mem_of_getElem? (i := 0) rfl, issues_vx _ _ _ _ rfl rfl (by decide), by decide +kernel, rfl⟩,
    ⟨_, List.mem_of_getElem? (i := 0) rfl, issues_vx _ _ _ _ rfl rfl (by decide), by decide +kernel, rfl⟩,
    ⟨_, List.mem_of_getElem? (i := 0) rfl, issues_vx _ _ _ _ rfl rfl (by decide), by decide +kernel⟩⟩

/-- R204: a row written at WCUR, the last, wraps the cursor; the row read at RCUR ends the tile's liveness. -/
theorem test_tileRows :
    shows (exec (.vadd .f32 74 1 2 false false false) (vx { Ttile with v := [(1, all64 0x3F800000)] }))
      (fun t => let X := (tenonOf t).tile 74; (X.wcur, X.live, X.elems.map (fun e => e.v))) =
      some (0, true, [0, 0, 0, 0, 0x3F800000, 0x3F800000, 0x3F800000, 0x3F800000]) ∧
    shows (exec (.vabs .f32 1 75 false) (vx Ttile)) (fun t => ((tenonOf t).tile 75).live) = some false := by decide +kernel

/-- A tenon whose slot 82 is empty, and one with registers 0 and 72 empty. -/
def Tempty : Tenon := { v := [(0, { all64 0 with full := false })] }

theorem witness_VxOperandsAndElements :
    (vx Tempty).cur = .routine 0 0 0 ∧ NMap.get? ((vx Tempty).tenon 0 0).routines 0 = some R0 ∧ R0.hold = .running ∧ R0.couts = 0 ∧
    (isTile 81 = true ∧ (((vx Tempty).tenon 0 0).tile 81).configured = false) ∧
    (∃ p ∈ elementForms (vf 1 82 2), (∀ c ∈ 1 :: p.2.1.srcs.map Prod.fst, isTile c.toNat = false) ∧
      ((vx Tempty).tenon 0 0).full 82 = false ∧ (vf 1 82 2).x = false) ∧
    (vf 1 82 2 .f32 true).x = true ∧
    (∃ p ∈ elementForms (vf 0 1 2), (∀ c ∈ 0 :: p.2.1.srcs.map Prod.fst, isTile c.toNat = false) ∧
      (∀ q ∈ p.2.1.srcs, ((vx Tempty).tenon 0 0).full q.1.toNat = true) ∧ ((vx Tempty).tenon 0 0).full 0 = false) ∧
    (vx Tempty).findOwner R0.side.lid R0.side.ownerBent R0.side.ownerSlot = some (0, 0) ∧ (vx Tempty).strand? 0 0 = some (stx []) := by
  refine ⟨rfl, rfl, rfl, rfl, by decide +kernel, ⟨_, List.mem_of_getElem? (i := 1) rfl, by decide, by decide +kernel, rfl⟩, rfl,
    ⟨_, List.mem_of_getElem? (i := 1) rfl, by decide +kernel⟩, by decide +kernel, rfl⟩

/-- R71: the first source empty with mode trap freezes the routine and raises cause 0x0010 for the strand. -/
theorem test_emptyTrap :
    shows (exec (.vabs .f32 1 82 true) (vx Tempty))
      (fun t => ((NMap.get? (tenonOf t).routines 0).map (fun r => r.hold), (strandOf t).pend.map (fun p => p.cause))) =
      some (some .frozen, [0x10]) := by decide +kernel

theorem witness_VxOperandsAndElements_elements :
    (0xFFFFFFFF : Nat) < 2 ^ 32 ∧ (0xFFFFFFFF : Nat) ≠ 2 ^ 31 ∧ VTy.f32 ≠ .i32 ∧ (VTy.f32.ex (0x7FC00000, 0)).isNan = true ∧
    (∃ a b p : FVal, p.v = BitVec.allOnes 32 ∧ a.v ≠ b.v ∧ (0 : Word32) ≠ p.v) ∧ 32 ≤ ((⟨32, 24⟩ : FVal).v).toNat ∧
    (∃ e ∈ elems .f32 [⟨0x7F800000, 24⟩], (VTy.f32.ex e).isFinite = false) :=
  ⟨by decide, by decide, by decide, by decide +kernel, ⟨⟨1, 1⟩, ⟨2, 2⟩, ⟨BitVec.allOnes 32, 24⟩, by decide⟩, by decide, by decide +kernel⟩

/-- R206, R209: `vmul` counts the lesser significance, a compare gives all ones, a shift by 32 keeps only the sign. -/
theorem test_elements :
    shows (exec (.vmul .f32 0 1 2 false false false) (vx { v := [(1, all64 0x40400000 11), (2, all64 0x3FC00000 24)] }))
      (fun t => ((tenonOf t).reg 0).lanes.getD 5 FVal.zero) = some ⟨0x40900000, 11⟩ ∧
    shows (exec (.vcmpLt .i32 0 1 2 false false) (vx { v := [(1, all64 0xFFFFFFFF), (2, all64 0)] }))
      (fun t => (((tenonOf t).reg 0).lanes.getD 0 FVal.zero).v) = some 0xFFFFFFFF ∧
    shows (exec (.vshrA 0 1 2 false false) (vx { v := [(1, all64 0x80000000), (2, all64 32)] }))
      (fun t => (((tenonOf t).reg 0).lanes.getD 0 FVal.zero).v) = some 0xFFFFFFFF := by decide +kernel

theorem witness_VxLaneResults :
    ((vx {}).OpIssues 0 0 0 R0 [(1, false), (2, false)] (some 0) ∧ (vx {}).OpIssues 0 0 0 R0 [(1, false)] (some 73)) ∧
    (∀ c ∈ (0 : VCode) :: [1, 2], isTile c.toNat = false) ∧ SFmt.ofCode (vf 0 1 2).f.toNat = some (.flt .fp16) ∧
    SebFmt.ofCode (11 : VCode).toNat = some .seb2 ∧ R0.checks = false ∧
    (List.replicate 64 FVal.zero).length = 64 ∧ 0 < 64 ∧ 64 ≤ 64 ∧ 63 < 64 :=
  ⟨⟨issues_vx _ _ _ _ rfl rfl (by decide), issues_vx _ _ _ _ rfl rfl (by decide)⟩, by decide, rfl, rfl, rfl, by decide⟩

/-- R212, R214: the sum of 0 to 63 in every lane; the prefix sums; lane 63 broadcast; lanes reversed. -/
theorem test_lanes :
    shows (exec (.vredAdd .i32 0 1 .reg false false) (vx { v := [(1, iota)] }))
      (fun t => (((tenonOf t).reg 0).lanes.getD 63 FVal.zero).v) = some 2016 ∧
    shows (exec (.vscanAdd .i32 0 1 .reg false false) (vx { v := [(1, iota)] }))
      (fun t => (((tenonOf t).reg 0).lanes.take 4).map (fun x => x.v)) = some [0, 1, 3, 6] ∧
    shows (exec (.vbcast 0 1 63 false) (vx { v := [(1, iota)] }))
      (fun t => (((tenonOf t).reg 0).lanes.getD 0 FVal.zero).v) = some 63 := by decide +kernel

theorem test_vperm :
    shows (exec (.vperm 0 1 2 false false) (vx { v := [(1, iota), (2, all64 0xFFFFFFC5)] }))
      (fun t => (((tenonOf t).reg 0).lanes.getD 9 FVal.zero).v) = some 5 ∧
    shows (exec (.vsigLt .f32 0 1 24 false) (vx { v := [(1, all64 0x3F800000 23)] }))
      (fun t => (((tenonOf t).reg 0).lanes.getD 9 FVal.zero).v) = some 0xFFFFFFFF ∧
    shows (exec (.vcvt .f32 0 1 7 false false) (vx { v := [(1, all64 0x3F800000)] }))
      (fun t => (((tenonOf t).reg 0).lanes.getD 0 FVal.zero)) = some ⟨0x3C003C00, 11⟩ := by decide +kernel

/-- A routine that has taken a cell, and partials of a reduction into register 0. -/
def Rcin : Routine := { R0 with ords := [4], markEor := true }
def part0 (eor : Bool) : Partial :=
  { comb := 0, ty := .i32, lvl := .row, mode := .rne, ordinal := 4, key := 0, seq := 0, round := 7, value := some (3, 24), ops := none, lanes := [], aw := 64, eor := eor, eot := false, poison := false
    modes := 0, side := {}, entry := 0, off := 0, opc := 0 }
def pend0 (w : List Partial) (k : List Partial := []) : Pending :=
  { dst := 0, scan := false, waiting := w, taken := k }
def Tpend (p : Pending) : Tenon := { v := [(0, { all64 0 with full := false })], pendings := [p] }

theorem witness_VxSpanningReductions :
    ((vx {} Rcin).OpIssues 0 0 0 Rcin [(1, false)] none ∧ VLvl.row ≠ .reg ∧ Rcin.ords.getLast? = some 4 ∧ R0.ords = [] ∧ isTile 1 = false ∧
      isTile 0 = false ∧ ((vx {} Rcin).tenon 0 0).pending? 0 true = none ∧ ((vx {} Rcin).tenon 0 0).full 0 = true) ∧
    (let T := Tpend (pend0 [part0 false])
     (vx T Rcin).OpIssues 0 0 0 Rcin [(1, false)] none ∧ ((vx T Rcin).tenon 0 0).pending? 0 false = some (pend0 [part0 false]) ∧
      (pend0 [part0 false]).waiting ≠ [] ∧
      (((pend0 [part0 false]).waiting ++ (pend0 [part0 false]).taken).filter (fun y => y.counts false)).length < 1024) ∧
    (let eight : Tenon := { pendings := (List.range 8).map (fun n => { pend0 [part0 false] with dst := n + 1 }) }
     8 ≤ (((eight.pendings.map Pending.dst).filter (fun d => d != 0)).eraseDups).length ∧
      (((eight.pendings.map Pending.dst).filter (fun d => d != 1)).eraseDups).length < 8 ∧
      1024 ≤ (((pend0 (List.replicate 1024 (part0 false))).waiting).filter (fun y => y.counts false)).length) ∧
    (let p := pend0 [part0 false]
     let T := (vx (Tpend p) Rcin).tenon 0 0
     T.pendings.filter (fun q => q.dst == p.dst) = [p] ∧ p.scan = false ∧ p.lowest = some (part0 false) ∧ T.blocked p (part0 false) = false ∧
      (part0 false).ends = false ∧ T.blocked p { part0 false with ordinal := 5 } = true) ∧
    (let p := pend0 [part0 true] [{ part0 false with ordinal := 3 }]
     let s := vx (Tpend p) Rcin
     (s.tenon 0 0).blocked p (part0 true) = false ∧ p.lowest = some (part0 true) ∧ (part0 true).ends = true ∧ p.dst ≠ 72 ∧ p.dst ≠ 73 ∧
      (s.launch (part0 true).side.lid).det = false ∧ modesVxe (part0 true).modes = false ∧
      ∃ a, p.fold (p.taken ++ [part0 true]) = some a ∧ modesVxe a.last.modes = false) ∧
    ((part0 true).round = (part0 false).round ∧ (part0 true).key < ({ part0 true with key := 1 } : Partial).key ∧ 0 < (part0 true).aw) := by
  refine ⟨⟨issues_vx _ _ _ _ rfl rfl (by decide), by decide, rfl, rfl, rfl, rfl, rfl, rfl⟩,
    ⟨issues_vx _ _ _ _ rfl rfl (by decide), rfl, by decide⟩, by decide +kernel, by decide +kernel,
    ⟨by decide, by decide, rfl, by decide, by decide, rfl, by decide, _, rfl, rfl⟩, by decide⟩

/-- R212: the cell that ends the row closes the sum: 3 + 3 in every lane. -/
theorem test_partial :
    shows (exec (.partialCombine 0 0 0) (vx (Tpend (pend0 [part0 true] [{ part0 false with ordinal := 3 }])) Rcin))
      (fun t => ((((tenonOf t).reg 0).lanes.getD 63 FVal.zero).v, (tenonOf t).full 0, (tenonOf t).pendings.length)) =
      some (6, true, 0) ∧
    shows (exec (.vredMax .i32 0 1 .tile false false) (vx {} Rcin))
      (fun t => ((tenonOf t).full 0, (tenonOf t).pendings.map (fun p => p.waiting.map (fun x => x.ordinal)))) = some (false, [[4]]) := by
  decide +kernel

/-- The header of a cell in slot 82, of 32 bytes to the voter, and a tenon that holds it. -/
def cell82 : Cell := { dest := 0x0010, kind := 2, len := 32, eor := true, fmt := 6 }
def Tslot : Tenon :=
  { tiles := [(0, tile0), (1, { tile0 with cols := 3, rows := 1 })], v := [(82, all64 0x3F800000), (90, { all64 0 with full := true })]
    slotHdr := [(82, ⟨cell82, {}⟩)] }
/-- A register of the lanes of R216: a cell of 8 bytes to the sink, ARG 3. -/
def hdrReg (dest : Nat) : VReg :=
  { lanes := padTo 64 FVal.zero [⟨BitVec.ofNat 32 dest, 24⟩, ⟨0x00020500, 24⟩, ⟨3, 24⟩] }

def Tout (dest : Nat) : Tenon := { v := [(1, hdrReg dest), (90, all64 5)] }
def Rout : Routine := { R0 with start := { R0.start with cls := 1 } }
def long0 : LongOp := { id := 0, routine := 0, dst := 0, value := all64 5, elems := none, l0 := true, l1 := false }
def inCell (c : Cell) (ing : Nat := 0) : InCell := { cell := c, side := {}, ing := ing }

/-- A bent at whose VX0 a cell stands, with a routine of one op-word. -/
def vxIn (arg : BitVec 32) (T : Tenon := {}) : State :=
  sys (stx []) { L0 with entries := [some 0], opwords := [0, 0] }
    { tenons := [(0, T)], inbuf := [(4, [inCell { cell82 with arg := arg }])] }

theorem witness_VxCellsAndEnd :
    ((vx Tslot).OpIssues 0 0 0 R0 [(82, false)] (some 0) ∧ isTile 82 = false ∧ isTile 0 = false ∧ (82 : VCode) ≠ 0 ∧
      (vx Tslot).OpIssues 0 0 0 R0 [(82, false)] (some 74) ∧ isTile 74 = true ∧
      cell82.len.toNat % ((((vx Tslot).tenon 0 0).tile 74).cols * (((vx Tslot).tenon 0 0).tile 74).fmt.size) = 0 ∧
      cell82.len.toNat / 16 ≤ (((vx Tslot).tenon 0 0).tile 74).rows ∧
      cell82.len.toNat % ((((vx Tslot).tenon 0 0).tile 75).cols * (((vx Tslot).tenon 0 0).tile 75).fmt.size) ≠ 0) ∧
    ((vx (Tout 0x8000) Rout).OpIssues 0 0 0 Rout [(1, false)] (some 90) ∧
      (vx (Tout 0x8000) Rout).outCheck 0 (Rout.outCell (hdrReg 0x8000).lanes) (hdrReg 0x8000).lanes = none ∧
      (vx (Tout 0) Rout).outCheck 0 (Rout.outCell (hdrReg 0).lanes) (hdrReg 0).lanes = some 0x0001) ∧
    ((vx Tslot).OpIssues 0 0 0 R0 [(82, false)] none ∧ kindMask cell82.kind &&& oneHot (8 : BitVec 4).toNat = 0 ∧
      kindMask cell82.kind &&& oneHot (7 : BitVec 4).toNat ≠ 0) ∧
    (let R := { R0 with hold := .ending }
     NMap.get? ((vx {} R).tenon 0 0).routines 0 = some R ∧ R.hold = .ending ∧ R.couts = 0 ∧
      ((vx {} R).tenon 0 0).longs.all (fun o => o.routine != 0) = true) ∧
    (((vx { longs := [long0] }).tenon 0 0).longs.find? (fun q => q.id == 0) = some long0 ∧ long0.elems = none ∧ long0.dst ≠ 72 ∧
      long0.dst ≠ 73 ∧ long0.l0 = true ∧ NMap.get? ((vx { longs := [long0] }).tenon 0 0).routines 0 = some R0 ∧ R0.hold ≠ .faulted ∧
      (∀ R', NMap.get? ((vx { longs := [long0] } { R0 with hold := .faulted }).tenon 0 0).routines 0 = some R' → R'.hold = .faulted) ∧
      ({ long0 with elems := some [] } : LongOp).elems = some []) ∧
    (∃ i, ((vxIn 16).bent 0).engIn 4 = some i ∧ i.ops = [inCell { cell82 with arg := 16 }] ∧
      (vxIn 16).vxRefusal i = some (inCell { cell82 with arg := 16 }) ∧ ((vxIn 16).launch 0).extent 1 = none) ∧
    (∃ i, ((vxIn 15).bent 0).engIn 4 = some i ∧ i.ops = [inCell { cell82 with arg := 15 }] ∧ ((vxIn 15).tenon 0 0).isFrozen = false ∧
      (15 : BitVec 32).toNat < 16 ∧ ((vxIn 15).tenon 0 0).full (82 + 15 % 8) = false ∧ ((vxIn 15).tenon 0 0).routines.length < 4 ∧
      ((vxIn 15).launch 0).extent 0 = some (0, 2)) ∧
    (∃ i, ((vxIn 7).bent 0).engIn 4 = some i ∧ i.ops = [inCell { cell82 with arg := 7 }] ∧ (7 : BitVec 32).toNat < 8) := by
  repeat' with_reducible apply And.intro
  all_goals first
    | exact issues_vx _ _ _ _ rfl rfl (by decide +kernel)
    | decide +kernel

/-- R215, R216: `cin` empties the slot and sets the active width; `cout` offers the cell and leaves its slot empty. -/
theorem test_cells :
    shows (exec (.cin 0 82 false) (vx Tslot))
      (fun t => ((tenonOf t).full 82, (NMap.get? (tenonOf t).routines 0).map (fun r => (r.aw, r.markEor)))) = some (false, some (8, true)) ∧
    shows (exec (.cout 90 1 false) (vx (Tout 0x8000) Rout))
      (fun t => ((tenonOf t).full 90, (t.emitted 0 4).map (fun c => (c.dest, c.len, c.round)))) = some (false, [(0x8000, 8, 7)]) ∧
    shows (exec (.cfwd 82 7 false) (vx Tslot)) (fun t => (t.emitted 0 4).map (fun c => c.dest)) = some [0x80] := by decide +kernel

/-- R199, R201: a START cell delivered fills its slot and starts a routine at its entry. -/
theorem test_delivery :
    shows (exec (.vxCellDelivery 0 4) (vxIn 15))
      (fun t => ((tenonOf t).full 89, (NMap.get? (tenonOf t).routines 0).map (fun r => (r.lo, r.hi)))) = some (true, some (0, 2)) ∧
    shows (exec (.vxCellDelivery 0 4) (vxIn 16)) (fun t => ((tenonOf t).routines.length, (strandOf t).pend.map (fun p => p.cause))) =
      some (0, [1]) := by decide +kernel

theorem witness_VxTilesAndControl :
    (vx Ttile).OpIssues 0 0 0 R0 [] none ∧ (((vx Ttile).tenon 0 0).tile 74).full = true ∧ (((vx Ttile).tenon 0 0).tile 74).live = false ∧
    (({ tile0 with full := false } : Tile).full = false) ∧
    ((((vx Ttile).tenon 0 0).tile 75).full = true ∧ (((vx Ttile).tenon 0 0).tile 75).configured = true ∧
      (((vx Ttile).tenon 0 0).tile 75).live = true) ∧
    (let R := { R0 with loops := [(0, 8, 2), (0, 8, 2)] }
     (vx {} R).OpIssues 0 0 0 R [] none ∧ 2 ≤ R.loops.length) ∧
    (R0.loops.length < 2 ∧ R0.pc + 1 + (7 : BitVec 7).toNat ≤ R0.hi ∧ ∀ y ∈ R0.loops, R0.pc + 1 + 7 ≤ y.2.1) ∧
    ((vx {}).OpIssues 0 0 0 R0 [(1, false)] none ∧ isTile 1 = false ∧ 0 ≤ (R0.pc : Int) + (0 : BitVec 14).toInt) :=
  ⟨issues_vx _ _ _ _ rfl rfl (by decide), rfl, rfl, rfl, ⟨rfl, rfl, rfl⟩, ⟨issues_vx _ _ _ _ rfl rfl (by decide), by decide⟩,
    by decide, ⟨issues_vx _ _ _ _ rfl rfl (by decide), by decide⟩⟩

/-- R220 to R222: a tile configured; a live one faults; a branch on lanes of which one is 0. -/
theorem test_control :
    shows (exec (.tcfg 74 0x060C1) (vx {})) (fun t => let X := (tenonOf t).tile 74; (X.rows, X.cols, X.elems.length)) = some (2, 4, 8) ∧
    shows (exec (.tcfg 75 0x060C1) (vx Ttile)) (fun t => (strandOf t).pend.map (fun p => p.cause)) = some [0x11] ∧
    shows (exec (.vbrAny 1 4 false) (vx { v := [(1, iota)] })) (fun t => (NMap.get? (tenonOf t).routines 0).map (fun r => r.pc)) =
      some (some 4) ∧
    shows (exec (.vbrAll 1 4 false) (vx { v := [(1, iota)] })) (fun t => (NMap.get? (tenonOf t).routines 0).map (fun r => r.pc)) =
      some (some 1) := by decide +kernel

/-! ### Engines -/

/-- A machine at one of whose engines a cell stands, or an operation of several operands. -/
def atEngine (e : Nat) (c : InCell) (B : Bent := {}) (L : Launch := L0) (mem : List Host.Cell := []) : State :=
  sys (stx []) L { B with inbuf := [(e, [c])] } mem
def fired (e : Nat) (cs : List InCell) (B : Bent := {}) (L : Launch := L0) : State := sys (stx []) L { B with fired := [(e, cs)] }
def one (c : InCell) : EngIn := ⟨[c], false⟩

/-- A weight stream of one INT8 weight: descriptor and byte. -/
def weights : List Byte := [1, 0, 0, 0, 0, 0, 1, 0, 1, 0, 1, 0] ++ List.replicate 20 0 ++ [5]
def wCell (eot : Bool) (l : List Byte) : InCell :=
  inCell { dest := 1, kind := 1, code := 1, len := BitVec.ofNat 9 l.length, payload := l, eot := eot }
def stream0 : LoadStream := { issuer := 0, bytes := [], prov := none, ctx := 0, round := 0, poison := false }
def mxOf (M : Mx) : Bent := { mx := [(0, M)] }
/-- A tenon with that image, whose accumulators are INT32. -/
def mx0 : Mx :=
  { image := { fmt := 1, k := 1, n := 1, data := [5] }, valid := true, int32 := true }
def row0 : ARow :=
  { issuer := 0, row := 3, fmt := 1, sparse := false, strict := false, vals := List.replicate 128 (.fin false 3 0 false, 0), cells := 1, bad := false
    round := 0, poison := false }
def fireCell (arg : BitVec 32) (eot : Bool) : InCell := inCell { dest := 1, kind := 1, code := 2, fmt := 1, len := 128, arg := arg, eot := eot }
def firing0 (n : Nat) : Firing := { id := 2, row := 255, sums := List.replicate n (.fin false 15 0 false, none), round := 0, poison := false }

theorem witness_MatrixFirings :
    (let c := wCell false weights
     let s := atEngine 0 c
     s.Takes 0 0 0x101 (one c) c ∧ (one c).ops = [c] ∧ ((s.bent 0).mxAt 0).load = none ∧ ((s.bent 0).mxAt 0).busy = false ∧ c.cell.eot = false) ∧
    (let c := wCell false []
     ((atEngine 0 c (mxOf { load := some stream0 })).bent 0).mxAt 0 = { load := some stream0 } ∧ stream0.issuer = c.issuer ∧ c.cell.eot = false) ∧
    (let c := wCell true weights
     let M : Mx := { load := some stream0 }
     c.cell.eot = true ∧ (loadImage (stream0.bytes ++ c.cell.bytes) (stream0.poison || c.cell.poison)).isSome = true ∧
       (∀ d, (atEngine 0 c (mxOf M)).matches 0 M d (stream0.add c) = false) ∧
       loadImage (stream0.bytes ++ (wCell true [1]).cell.bytes) false = none) ∧
    (let c := fireCell 0x80000000 false
     (atEngine 0 c).Takes 0 0 0x102 (one c) c ∧ 8 ≤ (c.cell.arg.toNat / 2 ^ 28 + 16 - (({} : Mx).wgen)) % 16) ∧
    (let c := fireCell 0xF0000000 true
     let M : Mx := { mx0 with wgen := 15 }
     c.cell.arg.toNat / 2 ^ 28 = M.wgen ∧ M.rows.length < 8 ∧ M.load = none ∧ (M.takeRow c ⟨false, false⟩).2 = false ∧
       (M.takeRow c ⟨true, true⟩).2 = true) ∧
    (mx0.mayFire 0 row0 = true ∧ ({ mx0 with rows := [row0] } : Mx).rows[0]? = some row0 ∧
      (((atEngine 0 (fireCell 0 true)).launch row0.side.lid).det && mx0.secondKey row0) = false ∧
      (((atEngine 0 (fireCell 0 true) {} { L0 with det := true }).launch row0.side.lid).det &&
        ({ mx0 with rowKeys := [(0, 3, 1)] } : Mx).secondKey row0) = true ∧ MFmt.of row0.fmt.toNat = some (.int .int8) ∧
      MFmt.of mx0.image.fmt = some (.int .int8)) ∧
    (({ mx0 with inFlight := [firing0 256] } : Mx).inFlight.find? (fun g => g.id == (firing0 256).id) = some (firing0 256) ∧
      (firing0 256).sums.length = 256) :=
  ⟨⟨⟨rfl, rfl, rfl, rfl⟩, rfl, rfl, rfl, rfl⟩, by decide +kernel, ⟨rfl, by decide +kernel, fun d => rfl, by decide +kernel⟩,
    ⟨⟨rfl, rfl, rfl, rfl⟩, by decide +kernel⟩, by decide +kernel, by decide +kernel, ⟨rfl, List.length_replicate⟩⟩

/-- R231, R233: the image is loaded and the generation moves on; a fire cell of 128 elements is a row. -/
theorem test_mx_load_fire :
    shows (exec (.mxWload 0 0) (atEngine 0 (wCell true weights)))
      (fun t => let M := (t.bent 0).mxAt 0; (M.valid, M.wgen, M.image.data, M.tag.imgid)) = some (true, 1, [5], 1) ∧
    shows (exec (.mxFire 0 0) (atEngine 0 (fireCell 0x0FF00000 true) (mxOf mx0)))
      (fun t => ((t.bent 0).mxAt 0).rows.map (fun r => (r.row, r.vals.length))) = some [(255, 128)] := by decide +kernel

/-- R37, R38: 3 × 5 in column 0, nothing in column 1; the sum lands, and stops at the end of the range with SAT. -/
theorem test_mx_sum :
    (mx0.column row0 (.int .int8) (.int .int8) 0).sum = some (.fin false 15 0 false) ∧
    (accAddInt ⟨0x7FFFFFF1, 24⟩ (.fin false 15 0 false)).1.v = 0x7FFFFFFF ∧ (accAddInt ⟨0x7FFFFFF1, 24⟩ (.fin false 15 0 false)).2 = true ∧
    shows (exec (.firingLanded 0 0 2) (atEngine 0 (fireCell 0 true) (mxOf { mx0 with inFlight := [firing0 2] })))
      (fun t => let M := (t.bent 0).mxAt 0; (M.acc.map (fun a => (a.1, a.2.v)), M.inFlight.length)) =
      some ([(65280, 15), (65281, 15)], 0) := by decide +kernel

/-- A route block to WB0 whose ADDRESS is scratchpad 0x100, and one of no egress. -/
def route0 : List Byte := padTo 32 0 (leBytes 2 0x800 ++ leBytes 10 0 ++ leBytes 8 0x8000000000000100 ++ leBytes 5 0xFF00000000)
def routeBad : List Byte := List.replicate 32 0
def mCell (code : BitVec 8) (arg : BitVec 32) (l : List Byte := route0) : InCell :=
  inCell { dest := 1, kind := 1, code := code, len := 32, arg := arg, payload := l }

theorem witness_MatrixDrainAndClear :
    (let c := mCell 6 0x3000
     let s := atEngine 0 c
     s.Takes 0 0 0x106 (one c) c ∧ (one c).ops = [c] ∧ ({} : Mx).drainBad (DrainMap.of c.cell.arg) = false ∧ ({} : Mx).drain = none ∧
       ({} : Mx).inRows (DrainMap.of c.cell.arg) = false ∧
       s.routeCheck c.side.lid c.cell.route (({} : Mx).drainPieces 0 (DrainMap.of c.cell.arg) c.cell.route.stride) = none) ∧
    (let c := mCell 6 0x3000 routeBad
     (atEngine 0 c).routeCheck c.side.lid c.cell.route (({} : Mx).drainPieces 0 (DrainMap.of c.cell.arg) c.cell.route.stride) =
       some 0x0001) ∧
    ({} : Mx).drainBad (DrainMap.of 0xFF013000) = true ∧
    (let c := mCell 7 1
     (atEngine 0 c).Takes 0 0 0x107 (one c) c ∧ c.cell.arg.toNat < 2 ∧ ({} : Mx).busy = false ∧ 2 ≤ (mCell 7 2).cell.arg.toNat) :=
  ⟨⟨⟨rfl, rfl, rfl, rfl⟩, rfl, by decide +kernel⟩, by decide +kernel, by decide +kernel,
    ⟨rfl, rfl, rfl, rfl⟩, by decide +kernel⟩

/-- R236, R238: a row of FP32 is four cells, the last with EOR and EOT; `mx.clear` sets the type. -/
theorem test_mx_drain :
    shows (exec (.mxDrain 0 0) (atEngine 0 (mCell 6 0x3000)))
      (fun t => (t.emitted 0 0).map (fun c => (c.len, c.addr, c.eot))) =
      some [(256, 0x800000000100, false), (256, 0x800000000200, false), (256, 0x800000000300, false), (256, 0x800000000400, true)] ∧
    shows (exec (.mxClear 0 0) (atEngine 0 (mCell 7 1) (mxOf { snf := true }))) (fun t => let M := (t.bent 0).mxAt 0; (M.int32, M.snf)) =
      some (true, false) ∧
    shows (exec (.mxClear 0 0) (atEngine 0 (mCell 7 2))) (fun t => (strandOf t).pend.map (fun p => p.cause)) = some [1] := by decide +kernel

/-- Keys and pairs as cells, and a route to WB0. -/
def sxCell (code : BitVec 8) (l : List Byte) (fmt : BitVec 5 := 0) (eot : Bool := false) : InCell :=
  inCell { dest := 0x100, kind := 3, code := code, len := BitVec.ofNat 9 l.length, payload := l, fmt := fmt, eot := eot, arg := 0x10 }
def keys3 : List Byte := [7, 0, 0, 0, 3, 0, 0, 0, 7, 0, 0, 0]
def pairs1 (k i : Byte) : List Byte := [k, 0, 0, 0, i, 0, 0, 0]

theorem witness_SortEngine :
    (let c := sxCell 1 keys3
     let s := fired 8 [c, mCell 6 0]
     let cfg := SxCfg.of c.cell.arg
     s.Takes 0 8 0x301 ⟨[c, mCell 6 0], true⟩ c ∧ cfg.keys c.cell = some [7, 3, 7] ∧
       s.routeCheck 0 (mCell 6 0).cell.route (cfg.pieces (sortBy cfg.pairBefore [7, 3, 7].zipIdx)) = none ∧ cfg.keys (sxCell 1 [7]).cell = none) ∧
    (let c := sxCell 2 (pairs1 3 0) 15
     let q := sxCell 2 (pairs1 3 0) 15
     let s := fired 8 [c, q, mCell 6 0]
     let cfg := SxCfg.of c.cell.arg
     s.Takes 0 8 0x302 ⟨[c, q, mCell 6 0], true⟩ c ∧ cfg.pairs c.cell = some [(3, 0)] ∧ cfg.pairs q.cell = some [(3, 0)] ∧ 2 ≤ cfg.most ∧
       cfg.ordered [(3, 0)] = true ∧ s.routeCheck 0 (mCell 6 0).cell.route (cfg.pieces (cfg.merge [(3, 0)] [(3, 0)])) = none) ∧
    (let c := sxCell 3 keys3
     let s := atEngine 8 c
     s.Takes 0 8 0x303 (one c) c ∧ (SxCfg.of c.cell.arg).keys c.cell = some [7, 3, 7] ∧ (s.bent 0).topkOf (topkIssuer c.cell) = none ∧
       (s.bent 0).topk.length < 16 ∧ c.cell.eot = false ∧ (one c).ops = [c]) ∧
    (let c := sxCell 3 keys3 0 true
     let s := fired 8 [c, mCell 6 0]
     let cfg := SxCfg.of c.cell.arg
     s.Takes 0 8 0x303 ⟨[c, mCell 6 0], true⟩ c ∧ c.cell.eot = true ∧
       s.routeCheck 0 (mCell 6 0).cell.route (cfg.pieces ((sortBy cfg.pairBefore [7, 3, 7].zipIdx).take cfg.k)) = none) := by
  refine ⟨⟨?_, ?_⟩, ⟨?_, ?_⟩, ⟨?_, ?_⟩, ?_, ?_⟩ <;> first | decide +kernel | exact ⟨rfl, rfl, rfl, rfl⟩

/-- R241, R242: keys 7, 3, 7 sort to 3, 7, 7 with indices 1, 0, 2; k = 2 keeps the first two; the first run leads at equal keys. -/
theorem test_sx :
    shows (exec (.sxSort 0) (fired 8 [sxCell 1 keys3, mCell 6 0])) (fun t => (t.emitted 0 8).map (fun c => (c.len, c.payload.take 24))) =
      some [(24, pairs1 3 1 ++ pairs1 7 0 ++ pairs1 7 2)] ∧
    shows (exec (.sxTopk 0) (fired 8 [sxCell 3 keys3 0 true, mCell 6 0])) (fun t => (t.emitted 0 8).map (fun c => c.payload.take 16)) =
      some [pairs1 3 1 ++ pairs1 7 0] ∧
    shows (exec (.sxMerge 0) (fired 8 [sxCell 2 (pairs1 3 9) 15, sxCell 2 (pairs1 3 1) 15, mCell 6 0]))
      (fun t => (t.emitted 0 8).map (fun c => c.payload.take 16)) = some [pairs1 3 9 ++ pairs1 3 1] := by decide +kernel

/-- A copy of a vote from a tenon, to be forwarded to the sink with ARG 5. -/
def voteCell (e : Nat) (l : List Byte) (v : Bool := true) : InCell :=
  { cell := { dest := 0x400, kind := 5, code := 1, vote := v, len := 8, payload := l, arg := 0x000F0005 }, side := { src := .engine e }, ing := 12 }

theorem witness_Voter :
    (let c := voteCell 1 [1]
     let s := atEngine 10 c
     s.Takes 0 10 0x501 (one c) c ∧ (one c).ops = [c] ∧ c.cell.vote = true ∧ c.emitter = some 1 ∧ (voteCell 1 [1] false).cell.vote = false ∧
       (s.bent 0).votes.find? (fun v => v.is c.cell) = none ∧ (s.bent 0).votes.length < 32) ∧
    (let c := voteCell 1 [1]
     let y := voteCell 0 [1]
     ((atEngine 10 c { votes := [{ cells := [(y, 0)], forwarded := none }] }).bent 0).votes.find? (fun v => v.is c.cell) =
       some { cells := [(y, 0)], forwarded := none } ∧ 0 ≠ 1 ∧ agree y.cell c.cell = true ∧
       headerCheck (forwarded c.cell false) false = none) ∧
    (let c := voteCell 2 [2]
     let x := voteCell 0 [1]
     let y := voteCell 1 [1]
     ((atEngine 10 c { votes := [{ cells := [(x, 0), (y, 1)], forwarded := some 1 }] }).bent 0).votes.find? (fun v => v.is c.cell) =
       some { cells := [(x, 0), (y, 1)], forwarded := some 1 } ∧ agree y.cell c.cell = false) := by
  exact ⟨⟨⟨rfl, rfl, rfl, rfl⟩, rfl, rfl, rfl, rfl, rfl, by decide⟩, by decide +kernel⟩

/-- R244: the second of two copies that agree is forwarded; one that disagrees is logged and counted. -/
theorem test_vote :
    shows (exec (.vtVote 0) (atEngine 10 (voteCell 1 [1]) { votes := [{ cells := [(voteCell 0 [1], 0)], forwarded := none }] }))
      (fun t => (t.emitted 0 10).map (fun c => (c.dest, c.arg, c.vote))) = some [(0x8000, 5, false)] ∧
    shows (exec (.vtVote 0)
      (atEngine 10 (voteCell 2 [2]) { votes := [{ cells := [(voteCell 0 [1], 0), (voteCell 1 [1], 1)], forwarded := some 1 }] }))
      (fun t => ((t.bent 0).votelog.map (fun v => v.egr), (t.part 0).disagree)) = some ([2], [(2, 1)]) := by decide +kernel

/-- A launch with queue 0 routed to WB0, and one whose buffer 3 holds an arrangement of one entry. -/
def Q1 : IncQueue := { onRound := false, route := route0, infl := 2 }
def L8 : Launch := { L0 with queues := [(0, Q1)], bufs := [(3, { bufShadow with spad := true, boff := 0x1000 })] }
def recBytes (k m : Byte) : List Byte := [k] ++ List.replicate 23 0 ++ [m] ++ List.replicate 7 0
def cnCell (code : BitVec 8) (arg : BitVec 32) (l : List Byte) : InCell :=
  inCell { dest := 0x200, kind := 4, code := code, iqrec := true, len := BitVec.ofNat 9 l.length, payload := l, arg := arg, fmt := 14 }
def rec0 (k : Nat) (m : Int) : Rec := { key := k, value := 0, mult := m, round := 0, flags := 0 }
def pendRec (k : Nat) (m : Int) : PendRec := { q := 0, r := rec0 k m, src := cnCell 1 0 [] }
/-- An arrangement of capacity 1 at scratchpad 0x1000 with the entry (9, 0) of multiplicity 3. -/
def memArr : List Host.Cell :=
  [sb 0x1000 0x41, sb 0x1001 0x52, sb 0x1002 0x52, sb 0x1003 0x4E, sb 0x1004 1, sb 0x1008 1, sb 0x100C 4, sb 0x1040 9, sb 0x1058 3]
    ++ (List.range 64).filterMap (fun k => if k / 4 = arrHash 9 4 then none else some (sb (0x1060 + k) 0xFF))

theorem witness_Consolidator :
    (let c := cnCell 1 0 (recBytes 9 2)
     let s := atEngine 9 c {} L8
     s.Takes 0 9 0x401 (one c) c ∧ (one c).ops = [c] ∧ s.cnBad 0 c true false false = false ∧ (s.bent 0).cn.count + c.cell.records.length ≤ 4096 ∧
       s.cnBad 0 (cnCell 1 0x10 []) true false false = true) ∧
    (let c := cnCell 2 0xFFFF0000 []
     let s := atEngine 9 c { cn := { pending := [pendRec 9 2, pendRec 9 (-2)] } } L8
     s.Takes 0 9 0x402 (one c) c ∧ s.cnBad 0 c false true false = false ∧ s.cnBad 0 (cnCell 2 1 []) false true false = true ∧
       s.routeCheck 0 (Route.of (padTo 32 0 route0)) (recordPieces (consolidate [rec0 9 2, rec0 9 (-2)]) (.infl 0 0 2 0)) = none) ∧
    (let c := cnCell 4 0 []
     let s := atEngine 9 c {} L8
     s.Takes 0 9 0x404 (one c) c ∧ s.cnBad 0 c false false false = false ∧ s.routeCheck 0 (Route.of (padTo 32 0 route0))
       (recordPieces (consolidate []) (.infl 0 0 0 0)) = none) ∧
    (let c := cnCell 3 0x300 (recBytes 9 2)
     let s := atEngine 9 c {} L8 memArr
     s.Takes 0 9 0x403 (one c) c ∧ s.cnBad 0 c true false true = false ∧ ((s.arrangement 0 0 3).map (fun A => (A.count, A.cap, A.logs))) = some (1, 1, 4) ∧
       (s.arrangement 0 0 3).map (fun A => s.routeCheck 0 (Route.of (padTo 32 0 route0)) (recordPieces (c.cell.records.flatMap (fun r =>
         (s.arrEntries A r.key).map (fun e => joined r e.1))) .nothing)) = some none) := by
  refine ⟨⟨?_, ?_⟩, ⟨?_, ?_⟩, ⟨?_, ?_⟩, ?_, ?_⟩ <;> first | decide +kernel | exact ⟨rfl, rfl, rfl, rfl⟩

/-- R298, R299, R301: equal records add, a sum of 0 vanishes; a join multiplies, with the value of the change lower. -/
theorem test_consolidate :
    (consolidate [rec0 9 2, rec0 8 1, rec0 9 (-2)]).map (fun r => (r.key, r.mult)) = [(8, 1)] ∧
    (consolidate [rec0 9 (2 ^ 31 - 1), rec0 9 1]).map (fun r => (r.mult, r.flags)) = [(2 ^ 31 - 1, 0x8000)] ∧
    shows (exec (.cnFlush 0) (atEngine 9 (cnCell 4 0 []) { cn := { pending := [pendRec 9 2, pendRec 9 3] } } L8))
      (fun t => ((t.emitted 0 9).map (fun c => (c.len, c.payload.getD 24 0, c.eot)), (t.bent 0).cn.pending.length)) =
      some ([(32, 5, true)], 0) := by decide +kernel

theorem test_join :
    shows (exec (.cnJoin 0) (atEngine 9 (cnCell 3 0x300 (recBytes 9 2)) {} L8 memArr))
      (fun t => ((t.emitted 0 9).map (fun c => (c.payload.getD 0 0, c.payload.getD 24 0)), (t.bent 0).cn.folds.length)) =
      some ([(9, 6)], 1) := by decide +kernel

/-! ### Atomic unit, sink, writeback and the girt network -/

/-- An atomic addition of 5 to a word of scratchpad 0x40, its old value to sink slot 3. -/
def atCell (code : BitVec 8) (addr : BitVec 48) (arg : BitVec 32 := 0x13) : InCell :=
  inCell { dest := 0x4000, kind := 6, code := code, fmt := if code = 4 then 6 else 4, len := 16, payload := [5], addr := addr, arg := arg }

theorem witness_AtomicUnit :
    (let c := atCell 3 0x800000000040
     let s := atEngine 14 c {} L0 [sb 0x40 2]
     s.Takes 0 14 (0x600 + 3) (one c) c ∧ (one c).ops = [c] ∧ s.atPlace 0 c = .inr (2 ^ 41 + 0x40, none) ∧ (s.launch c.side.lid).det = false ∧ s.Ordered ∧
       c.side.amo = none ∧ s.poisonedAt (2 ^ 41 + 0x40) 4 = false ∧ bit c.cell.arg 4 = true ∧ bit (atCell 3 0 0).cell.arg 4 = false) ∧
    (let c := atCell 4 0x800000000040
     (atEngine 14 c).Takes 0 14 (0x600 + 4) (one c) c ∧ (atEngine 14 c).atPlace 0 c = .inr (2 ^ 41 + 0x40, none)) ∧
    (let c := atCell 11 0x800000000042
     (atEngine 14 c).Takes 0 14 (0x600 + 11) (one c) c ∧ c.cell.addr.toNat % 4 ≠ 0 ∧ (atEngine 14 c).atPlace 0 c = .inl 0x0002) ∧
    (let c := { atCell 3 0x800000000040 0 with side := { amo := some (0, 0, 3) } }
     let s : State := sys (stOp opAmo) L0 { inbuf := [(14, [c])] }
     s.amoEntry c.side = some (0, 0, stOp opAmo, opAmo) ∧ (s.launch opAmo.writer.lid).det = false) := by
  repeat' with_reducible apply And.intro
  all_goals first | decide +kernel | exact ⟨rfl, rfl, rfl, rfl⟩ | (unfold State.Ordered; decide)

/-- R245: 2 + 5 in place, and 2 in sink slot 3. -/
theorem test_at :
    shows (exec (.atAdd 0) (atEngine 14 (atCell 3 0x800000000040) {} L0 [sb 0x40 2]))
      (fun t => (t.readNat (2 ^ 41 + 0x40) 4, (t.emitted 0 14).map (fun c => (c.dest, c.arg, c.payload.getD 0 0)))) =
      some (7, [(0x8000, 3, 2)]) ∧
    shows (exec (.atMaxu 0) (atEngine 14 (atCell 11 0x800000000042))) (fun t => (strandOf t).pend.map (fun p => p.cause)) = some [2] := by
  decide +kernel

/-- Data cells: to the sink, to scratchpad, to the scratchpad of bent 1, to a bent outside the region. -/
def dataCell (dest : BitVec 16) (addr : BitVec 48) : InCell := inCell { dest := dest, len := 2, payload := [0x11, 0x22], addr := addr, arg := 15 }
def gsCell (granted : Bool) : GsCell :=
  { cell := (dataCell 0x2000 0x901000000000).cell, side := {}, egr := 13, ing := 0, target := 1, egress := 11, stamp := 0, granted := granted }
def grPlace0 : GrPlace := { cell := (dataCell 0x0800 0x800000000000).cell, side := {}, issuer := 0, egress := 11 }

theorem witness_WritesBetweenBents :
    (((atEngine 15 (dataCell 0x8000 0)).bent 0).dataHead 15 = some (dataCell 0x8000 0) ∧
      NMap.get? ((atEngine 15 (dataCell 0x8000 0)).bent 0).sinks 15 = none) ∧
    (let c := dataCell 0x0800 0x800000000100
     let s := atEngine 11 c
     (s.bent 0).dataHead 11 = some c ∧ (∀ x ∈ (s.bent 0).gs, x.egr ≠ 11) ∧ s.reach 0 11 c = .here ∧ c.side.shadow = none ∧ s.Ordered ∧
       (s.launch c.side.lid).det = false ∧ c.cell.addr.toNat % 256 + c.cell.len.toNat ≤ 256 ∧ 0 < c.cell.len.toNat ∧
       s.writePlace 0 11 c 0 = .ok (2 ^ 41 + 0x100)) ∧
    ((atEngine 12 (dataCell 0x1000 0x902000000000)).reach 0 12 (dataCell 0x1000 0x902000000000) = .refused ∧
      (atEngine 12 (dataCell 0x1000 0x901000000000)).reach 0 12 (dataCell 0x1000 0x901000000000) = .girt 1 12) ∧
    (let s := sys (stx []) L0 { gs := [gsCell true] }
     (∃ x ∈ (s.bent 0).gs, x.granted = true) ∧ s.grTaken 0 < 32) ∧
    (let s := sys (stx []) L0 { gs := [gsCell false] }
     s.grTaken 1 < 32 ∧ s.oldestRequest 1 = some (0, gsCell false) ∧ gsCell false ∈ (s.bent 0).gs) ∧
    32 ≤ (sys (stx []) L0 { gr := List.replicate 32 grPlace0 }).grTaken 0 ∧
    (let B : Bent := { gr := [grPlace0] }
     B.gr[0]? = some grPlace0 ∧ B.grFirst grPlace0 = true ∧ grPlace0.cell.rmk = false ∧ B.voqRoom 10 11 0 = true) ∧
    (let p : GrPlace := { grPlace0 with cell := { grPlace0.cell with rmk := true }, fan := [(11, 3)] }
     let B : Bent := { gr := [p] }
     B.gr[0]? = some p ∧ B.grFirst p = true ∧ p.cell.rmk = true ∧ p.fan = [(11, 3)] ∧ B.voqRoom 10 11 0 = true) := by
  refine ⟨by decide +kernel, ⟨rfl, by decide +kernel, by decide +kernel, rfl, ?_, rfl, by decide +kernel⟩,
    by decide +kernel, ⟨⟨gsCell true, by simp [sys, State.bent, NMap.getD, NMap.get?], rfl⟩, by decide +kernel⟩,
    ⟨by decide +kernel, by decide +kernel, by simp [sys, State.bent, NMap.getD, NMap.get?]⟩, by decide +kernel⟩
  unfold State.Ordered
  decide

/-- R170, R294, R396: a sink slot filled; two bytes written; a granted cell in the reassembly buffer of its target. -/
theorem test_writes :
    shows (exec (.sinkData 0) (atEngine 15 (dataCell 0x8000 0))) (fun t => (NMap.get? (t.bent 0).sinks 15).map (fun v => v.bytes.take 3)) =
      some (some [0x11, 0x22, 0]) ∧
    shows (exec (.writeback 0 11) (atEngine 11 (dataCell 0x0800 0x800000000100))) (fun t => t.readNat (2 ^ 41 + 0x100) 4) = some 0x2211 ∧
    shows (exec (.girtSend 0) (sys (stx []) L0 { gs := [gsCell true], inbuf := [(13, [dataCell 0x2000 0x901000000000])] }))
      (fun t => ((t.bent 1).gr.map (fun g => (g.egress, g.cell.dest)), (t.bent 0).gs.length, ((t.bent 0).buffer 13).length)) =
      some ([(11, 0x0800)], 0, 0) := by decide +kernel

/-! ### The Mortise and rounds -/

/-- A machine of bent B. -/
def bentSys (B : Bent) (L : Launch := L0) (st : Strand := stx []) : State := sys st L B
def qcell (c : Cell) (age : Nat := 0) : QCell := { cell := c.seal, side := {}, age := age }
def heads : Bent := { voq := [(voqKey 0 15 1, [qcell { dest := 0x8000, cls := 1, len := 8 } 256])] }
def still0 : Still := { queues := [(12, 0, false)], count := 4096, seen := [] }

theorem witness_MortiseMatchingAndSteps :
    ((heads.gateCount % 16 < ({ gate := 1 } : Device).gate) ∧ ({} : Device).gate ≤ heads.gateCount % 16) ∧
    (let m : Emission := { cell := { dest := 0x8000 }, side := {}, done := .nothing }
     let B : Bent := { emit := [(14, [m])] }
     fbOf 14 = some 15 ∧ NMap.getD B.emit 14 [] = [m] ∧ B.fbRoom 15 m.cell = true ∧ popMask m.cell.dest = 1) ∧
    (heads.headCell 0 (.uni 15 1) = some (qcell { dest := 0x8000, cls := 1, len := 8 } 256) ∧
      (qcell { dest := 0x8000, cls := 1, len := 8 } 256).cell.cls ≠ 0 ∧ heads.ageLimit ≤ 256 ∧ 255 < heads.ageLimit) ∧
    (let c := inCell { dest := 1, rmk := true, arg := 3 }
     (NMap.getD ({ inbuf := [(0, [c])] } : Bent).inbuf 0 []).head? = some c ∧ c.cell.rmk = true ∧ 0 ≠ 13) ∧
    (({ stills := [still0] } : Bent).stills[0]? = some still0 ∧ ({ stills := [still0] } : Bent).dlWindow ≤ still0.count) :=
  ⟨by decide, by decide +kernel⟩

/-- R247, R250: the head is matched in one slot and lands in the next. -/
theorem test_slot :
    shows (exec (.mortiseSlot 0) (bentSys heads)) (fun t => ((t.bent 0).landing.map (fun x => x.1), (t.bent 0).slot)) = some ([15], 1) ∧
    shows (exec (.mortiseSlot 0) (bentSys { landing := [(15, inCell (qcell { dest := 0x8000 }).cell)] }))
      (fun t => ((NMap.getD (t.bent 0).inbuf 15 []).length, (t.bent 0).pairs.map (fun p => p.arrived))) = some (1, [1]) := by decide +kernel

/-- R253, R257: a head of age 256 is aged; a cycle still for DL_WINDOW slots is recorded. -/
theorem test_aged :
    shows (exec (.headAged 0 0 (.uni 15 1)) (bentSys heads)) (fun t => ((t.bent 0).headCell 0 (.uni 15 1)).map (fun q => q.agedAt)) =
      some (some (some 0)) ∧
    shows (exec (.deadlockDetection 0 0) (bentSys { stills := [still0] })) (fun t => (t.bent 0).dlsnap.toList.getD 0 0) =
      some 0x0000000010001000 := by decide +kernel

/-- An operand of two at AT, and entry 2 that waits for it. -/
def opndCell (ix : BitVec 2) : InCell := inCell { dest := 0x4000, kind := 6, code := 1, rvt := 2, opix := ix, opcnt := 1 }
def rvHas : RvEntry := { rv0 with operands := [(0, opndCell 0)] }

theorem witness_RoundsAndRendezvous :
    (let c := opndCell 1
     let s := atEngine 14 c
     (s.bent 0).headIn 14 = some c ∧ c.cell.rmk = false ∧ c.cell.opcnt ≠ 0 ∧ NMap.get? (s.bent 0).rv (32 * 14 + c.cell.rvt.toNat) = none) ∧
    (let c := opndCell 1
     NMap.get? ((atEngine 14 c { rv := [(32 * 14 + 2, rvHas)] }).bent 0).rv (32 * 14 + 2) = some rvHas ∧
       NMap.has rvHas.operands c.cell.opix.toNat = false ∧ NMap.has rvHas.operands 0 = true ∧
       (List.range (c.cell.opcnt.toNat + 1)).all (fun k => NMap.has (NMap.set rvHas.operands 1 c) k) = true ∧
       (List.range (c.cell.opcnt.toNat + 1)).all (fun k => NMap.has (NMap.set rv0.operands 1 c) k) = false) ∧
    ((bentSys {} L0 { stx [] with round := 1 }).satisfied 0 11 = true ∧ (bentSys {}).satisfied 0 11 = false) ∧
    (let o := { opAmo with held := true }
     let st := { stOp o with round := 1 }
     let s := bentSys {} L0 st
     s.closing 0 0 = [⟨0, 0, 3, 0, 0⟩] ∧ s.heldEntry ⟨0, 0, 3, 0, 0⟩ = some (st, o) ∧ s.foreignPage 0 o = none ∧
       HeldOp.before ⟨0, 0, 3, 0, 0⟩ ⟨0, 1, 0, 0, 1⟩ = true ∧ s.Ordered) := by
  repeat' with_reducible apply And.intro
  all_goals first | decide +kernel | (unfold State.Ordered; decide)

/-- The waits of the consolidator and of the atomic unit, a held update, the strand of a cycle, and a page of another owner. -/
theorem witness_EngineWaits :
    ((atEngine 9 (cnCell 3 0x300 (recBytes 9 2)) {} L8 memArr).bent 0).foldHeld 3 = false ∧
    (atEngine 9 (cnCell 3 0x300 (recBytes 9 2)) {} L8).arrangement 0 0 3 = none ∧
    (let c := { atCell 3 0x800000000040 0 with side := { shadow := some 3 } }
     (atEngine 14 c {} { L1 with pubAfter := [3] }).Takes 0 14 (0x600 + 3) (one c) c ∧
       ((atEngine 14 c {} { L1 with pubAfter := [3] }).launch 0).pubAfter.contains 3 = true) ∧
    (let c := atCell 3 0x800000000040
     let s := atEngine 14 c {} { L0 with det := true }
     (s.launch c.side.lid).det = true ∧ c.side.shadow = none ∧ s.atPlace 0 c = .inr (2 ^ 41 + 0x40, none) ∧
       roundBefore c.cell.round ((s.bent 0).roundAt 14) = false ∧ arriveSpills (s.bent 0).heldAt' (2 ^ 41 + 0x40) c.cell.round = false) ∧
    (let s := bentSys { voq := [(voqKey 12 0 1, [qcell { dest := 1, cls := 1 }])], stills := [still0] }
     s.cycleStrands 0 still0.queues = [(0, 0, 0)] ∧ s.findOwner 0 0 0 = some (0, 0) ∧ s.strand? 0 0 = some (stx [])) ∧
    (let st := { stOp { opAmo with path := .channel 0, loc := 0x10000, held := true } with round := 1 }
     let s : State := { bentSys {} L0 st with pageOwner := [(1, 5)] }
     (s.closing 0 0).findSome? (fun x => (s.heldEntry x).bind (fun e => s.foreignPage 0 e.2)) = some 1) :=
  ⟨by decide +kernel, by decide +kernel, ⟨⟨rfl, rfl, rfl, rfl⟩, rfl⟩, by decide +kernel⟩

/-- R255: the second operand fires the operation; R168: a second with one OPIX traps its strand. -/
theorem test_rendezvous :
    shows (exec (.rendezvousOperand 0 14) (atEngine 14 (opndCell 1) { rv := [(32 * 14 + 2, rvHas)] }))
      (fun t => ((t.bent 0).rv.length, (t.bent 0).fired.map (fun f => f.2.length))) = some (0, [2]) ∧
    shows (exec (.rendezvousOperand 0 14) (atEngine 14 (opndCell 0) { rv := [(32 * 14 + 2, rvHas)] }))
      (fun t => (strandOf t).pend.map (fun p => p.cause)) = some [1] ∧
    shows (exec (.roundEntry 0 11) (bentSys {} L0 { stx [] with round := 1 })) (fun t => (t.bent 0).roundAt 11) = some 1 := by decide +kernel

/-! ### Translation and command queues -/

/-- Bytes at an address, as cells. -/
def cellsAt (a : Nat) (l : List Byte) : List Host.Cell := (l.zipIdx.filter (fun x => x.1 != 0)).map (fun x => (a + x.2, x.1))

/-- Tables at 0x100000 that map page 0 to 0x400000 and the 32 MiB from page 512 on to 0x2000000. -/
def tables : List Host.Cell :=
  cellsAt 0x100000 (leBytes 8 0x200001) ++ cellsAt 0x200000 (leBytes 8 0x300001 ++ leBytes 8 0x2000015) ++
    cellsAt 0x300000 (leBytes 8 0x400015)

/-- A container of a text of one `nop` and a launch header for one strand of one bent in tier 3. -/
def lhdr : List Byte :=
  List.replicate 16 0 ++ [1, 0, 0, 0, 0, 0, 1, 1, 1, 3] ++ List.replicate 14 0 ++ List.replicate 8 0xFF ++ List.replicate 16 0
def box : List Byte :=
  padTo 64 0 ([0x4E, 0x4C, 0x4F, 0x5A, 1, 0, 2, 0] ++ leBytes 8 64 ++ leBytes 8 256) ++
    padTo 32 0 (leBytes 8 1 ++ leBytes 8 128 ++ leBytes 8 4) ++ padTo 32 0 (leBytes 8 9 ++ leBytes 8 192 ++ leBytes 8 64) ++
    padTo 64 0 [0, 0, 0, 0xA0] ++ lhdr
def cmd0 : List Byte := padTo 128 0 [1, 3]

def ctx0 : Ctx := { droot := 0x100000, hroot := 0x100000, en := true, pmask := 1 }
def qcb0 : Qcb := { base := 0x500000, slots := 16, en := true, tail := 1, pend := [(1, 0)] }
def partD : Part := { qcbs := [(0, qcb0)], journal := [(1, { seq := 1 })], jnext := 2 }
/-- A device whose three images Krealmya has signed. -/
def devGood : Device := { fwImage := [(0, Config.signedImage), (1, Config.signedImage), (2, Config.signedImage)] }

theorem devGood_serves : devGood.refusedImage = none := by
  have h : ∀ k, k < 3 → devGood.verifies k (NMap.getD devGood.fwVersion k 0) (devGood.image k) = true := by
    intro k hk
    have : devGood.image k = Config.signedImage := by
      match k, hk with
      | 0, _ | 1, _ | 2, _ => rfl
    rw [this]
    simp [Device.verifies, Config.firmwareSignatureOk, devGood, NMap.getD, NMap.get?]
  exact List.find?_eq_none.2 (fun k hk => by simp [h k (List.mem_range.1 hk)])

def sysD (P : Part := partD) : State :=
  { mem := tables ++ cellsAt 0x400000 box ++ cellsAt 0x500000 cmd0, pageOwner := [(0x40, 0)], ctxs := [(0, ctx0)], parts := [(0, P)], device := devGood }

def miss0 (vpn : Nat) : Miss := { ctx := 0, host := false, vpn := vpn, write := false, sources := [(0, 0)] }
def tlb0 : TlbEntry := { ctx := 0, host := false, vpn := 0, big := false, pa := 0x400000, w := true, img := none }

/-- A strand that waits for a page of no entry. -/
def stTrans : Strand := { stx [] with state := .waiting (.translation (transKey false (2 ^ 21 * 65536))) }

theorem witness_TranslationSteps :
    (let s : State := { sysD with dies := [(0, { walks := [miss0 511] })] }
     (s.die 0).walks = [miss0 511] ∧
       (s.tableEntry 0 ((s.ctx 0).droot + 511 / 2 ^ 21 % 2 ^ 15 * 8)) = some 0x200001 ∧ (0 : Nat).testBit 0 = false ∧
       s.tableEntry 0 (0x100000 + 2 ^ 21 / 2 ^ 21 % 2 ^ 15 * 8) = some 0 ∧ pteTable (2 ^ 15) 0x200001 = some 0x200000 ∧
       s.tableEntry 0 (0x200000 + 512 / 2 ^ 9 % 2 ^ 12 * 8) = some 0x2000015 ∧ (0x2000015 : Nat).testBit 2 = true ∧
       pteLeaf (2 ^ 25) 0x2000015 = some (0x2000000, true, none) ∧
       s.tableEntry 0 (0x200000 + 0 / 2 ^ 9 % 2 ^ 12 * 8) = some 0x300001 ∧ (0x300001 : Nat).testBit 2 = false ∧
       pteTable (2 ^ 12) 0x300001 = some 0x300000 ∧ s.tableEntry 0 (0x300000 + 0 % 2 ^ 9 * 8) = some 0x400015 ∧
       pteLeaf (2 ^ 16) 0x400015 = some (0x400000, true, none) ∧ s.tableEntry 0 hbmBytes = none ∧ pteTable (2 ^ 15) 0 = none ∧
       pteLeaf (2 ^ 25) 0x1000015 = none ∧ pteTable (2 ^ 12) 0x301001 = some 0x301000 ∧ pteLeaf (2 ^ 16) 0x401015 = none ∧
       ((miss0 0).entry s).isSome = true ∧ ((miss0 (2 ^ 21)).entry s).isNone = true) ∧
    ((stTrans).state = .waiting (.translation (transKey false (2 ^ 21 * 65536))) ∧ (0, 0) ∈ (miss0 (2 ^ 21)).sources ∧ 16 ≤ 17) ∧
    (let D : Die := { retry := [miss0 7] }
     D.retry = miss0 7 :: [] ∧ (miss0 7).sources = [(0, 0)] ∧ dieOf 0 = 0 ∧ D.walks.length < 32 ∧
       D.walks.any (fun x => x.same 0 false 7) = false ∧ D.queue.any (fun x => x.same 0 false 7) = false ∧
       32 ≤ (List.replicate 32 (miss0 8)).length ∧ (List.replicate 32 (miss0 8)).any (fun x => x.same 0 false 7) = false) ∧
    (({ scrubQueue := [(5, 64)] } : State).scrubQueue.find? (fun x => x.1 == 5) = some (5, 64)) ∧
    (0x00800FFFFFFFFF : Word).getLsbD 56 = false ∧ (0x0100000000000000 : Word).getLsbD 56 = true ∧
    (let P : Part := { partD with tlbinvPending := [0] }
     let s (o : MemOp) : State := { sys (stOp o) L0 { tlb := [tlb0] } with parts := [(0, P)] }
     P.tlbinvPending = [0] ∧ (s { opLoad with loc := 0x400000 }).invBusy 0 = true ∧ (s { opLoad with loc := 0x410000 }).invBusy 0 = false) := by
  refine ⟨?_, ?_, ?_, ?_, ?_⟩ <;> decide +kernel

/-- R332 to R336: a walk ends with the page, or with a failure; an invalidation of page 0 removes its entry. -/
theorem test_translation :
    shows (exec (.tableWalk 0) { sysD with dies := [(0, { walks := [miss0 0] })] }) (fun t => (t.bent 0).tlb) = some [tlb0] ∧
    shows (exec (.tableWalk 0) { sysD with dies := [(0, { walks := [miss0 (2 ^ 21)] })], bents := [(0, { strands := [(0, stTrans)] })] })
      (fun t => ((t.bent 0).tlb, (strandOf t).transBad)) = some ([], some (transKey false (2 ^ 21 * 65536))) ∧
    shows (exec (.tlbinvComplete 0) { sys (stx []) L0 { tlb := [tlb0, { tlb0 with vpn := 1 }] } with parts := [(0, { tlbinvPending := [0] })] })
      (fun t => ((t.bent 0).tlb.map (fun e => e.vpn), (t.part 0).readTlbinv)) = some ([1], 0) := by decide +kernel

/-- R343: a page handed to a new owner reads zero. -/
theorem test_scrub :
    shows (exec (.pageScrub 5) { mem := [(0x4FFFF, 1), (0x50000, 2), (0x60000, 3)], scrubQueue := [(5, 64)] })
      (fun t => (t.byte 0x4FFFF, t.byte 0x50000, t.byte 0x60000, t.pageOwner)) = some (1, 0, 3, [(5, 64)]) := by decide +kernel

theorem witness_CommandQueues :
    (({} : Part).qcb 0).en = false ∧ (partD.qcb 0).en = true ∧
    (let Q : Qcb := { qcb0 with tail := 16 }
     Q.tail - Q.head = Q.slots) ∧ qcb0.tail - qcb0.head ≠ qcb0.slots ∧
    (bytesAt (padTo 128 0 ([2] : List Byte)) 0 1 ≠ 1 ∧ (8 ≤ bytesAt (padTo 128 0 ([1, 8] : List Byte)) 1 1 ∧ bytesAt (padTo 128 0 ([1, 8] : List Byte)) 1 1 ≠ 0xFF) ∧
      64 ≤ bytesAt (padTo 128 0 ([1, 0, 64] : List Byte)) 2 1 ∧ 2 ≤ bytesAt (padTo 128 0 ([1, 0, 0, 2] : List Byte)) 3 1) ∧
    (let c := padTo 128 0 ([1, 0xFF, 63, 1] ++ List.replicate 12 0 ++ [0x40] : List Byte)
     bytesAt c 0 1 = 1 ∧ bytesAt c 1 1 = 0xFF ∧ bytesAt c 2 1 < 64 ∧ bytesAt c 3 1 < 2 ∧ (∀ x ∈ c.drop 40, x = 0) ∧ bytesAt c 16 8 % 64 = 0 ∧
       bytesAt c 24 8 % 64 = 0 ∧ bytesAt c 32 8 % 65536 = 0) ∧
    (({ parts := [(0, { qcbs := [(0, qcb0)] })] } : State).Ordered ∧ (∀ n, ((({ parts := [(0, { qcbs := [(0, qcb0)] })] } : State).ctx n)).en = false) ∧ qcb0.slots ≠ 0 ∧
      qcb0.base + 128 * qcb0.slots ≤ 768 * 2 ^ 30) ∧
    (let Q : Qcb := { slots := 16 }
     Q.en = false ∧ Q.slots ≠ 0) ∧
    (qcb0.en = true ∧ ∀ x ∈ qcb0.pend, NMap.get? partD.journal (x.1 % 65536) = some { seq := 1 } ∧ ({ seq := 1 } : Journal).seq = x.1) := by
  refine ⟨rfl, rfl, rfl, by decide, by decide +kernel, by decide +kernel, ⟨?_, fun _ => rfl, by decide⟩, ⟨rfl, by decide⟩,
    ⟨rfl, by decide +kernel⟩⟩
  unfold State.Ordered
  decide +kernel

/-- R319, R320: an accepted command takes the next sequence number; a disabled queue discards its command, whose record says so. -/
theorem test_append :
    shows (exec (.append 0 0 cmd0) (sysD { qcbs := [(0, { qcb0 with tail := 0, pend := [] })] }))
      (fun t => (t.toHost, (t.part 0).jnext, (NMap.getD (t.part 0).journal 1 {}).state)) = some ([.accepted 0 0 1], 2, 1) ∧
    shows (exec (.append 0 0 [2]) sysD) (fun t => t.toHost) = some [.refused 0 0] ∧
    shows (exec (.qcbDisable 0 0) sysD) (fun t => ((NMap.getD (t.part 0).journal 1 {}).state, ((t.part 0).qcb 0).head)) = some (9, 1) := by
  decide +kernel

/-! ### Dispatch and placement -/

def held0 : Held := { seq := 1, fault := 0, header := lhdr }
def candD : Cand := { sel := 0, seq := 1, tier := 3, deadline := -4000000, need := 1, fault := 0 }
/-- A queue whose command is selected, and a launch that was pre-empted and is selected. -/
def partSel : Part := { partD with selected := some 0, held := [(0, held0)] }
def Lpre : Launch := { L0 with part := 0, queue := 5, seq := 9, phase := .preempted, region := [], savedRegion := [3], savedBents := [(0, { strands := [(0, stx [(2, 7)])] })] }
def sysPre : State := { device := devGood, parts := [(0, { selected := some (256 + 72) })], launches := [(72, Lpre)] }

theorem witness_DispatchAndPlacement :
    (let r := sysD.refresh 0
     let P := r.part 0
     P.psvc = 0 ∧ P.offline = false ∧ P.selected = none ∧ P.decision % max P.floor 1 ≠ 0 ∧ (r.cands 0).filter (r.eligible 0) = [candD] ∧
       candD.fault = 0) ∧
    sysD.device.refusedImage = none ∧
    (let d := (sysD partSel).deselect 0
     d.selectedCand 0 = some candD ∧ (d.part 0).psvc = 0 ∧ (d.part 0).offline = false ∧ candD.need ≤ (d.freeBents 0).length ∧
       candD.sel < 256 ∧ ((d.part 0).qcb 0).pend = (1, 0) :: [] ∧ NMap.get? (d.part 0).held 0 = some held0) ∧
    ((sysD partSel).deselect 0).device.refusedImage = none ∧
    (let d := (sysD partSel).deselect 0
     (d.loadBox 0 0 0).2.elim (fun _ => false) (fun x => decide (x.raw = held0.header) &&
       decide ((d.loadBox 0 0 0).1.hbmUsed 0 + x.bytes ≤ partBytes) && x.head.region == 1) = true ∧
       (Cmd.of (d.cmdAt 0 0 ((d.part 0).qcb 0).head)).cbase = 0) ∧
    ((sysD partSel).loadBox 0 1 0).2.elim (fun f => f == 0x01) (fun _ => false) = true ∧
    (let d := sysPre.deselect 0
     d.selectedCand 0 = some { sel := 328, seq := 9, tier := 0, deadline := -7000000, need := 1, fault := 0 } ∧ 256 ≤ 328 ∧
       1 ≤ (d.freeBents 0).length) :=
  ⟨by decide +kernel, devGood_serves, by decide +kernel, devGood_serves, by decide +kernel⟩

/-- The two steps that the firmware's verdict lets pass. -/
theorem decideNext_of (s : State) (p : Nat) (c : Cand) (d : s.device = devGood)
    (f : ¬((s.part p).psvc ≠ 0 ∨ (s.part p).offline = true ∨ (s.part p).selected.isSome = true))
    (h : decision (s.part p).decision (s.part p).floor ((s.cands p).filter (s.eligible p)) = some c) (g : c.fault = 0) :
    s.decideNext p = (s.updPart p (fun P => { P with decision := P.decision + 1 })).updPart p (fun P => { P with selected := some c.sel }) := by
  simp [State.decideNext, f, h, g, d, devGood_serves]

theorem placement_of (s : State) (p : Nat) (c : Cand) (d : (s.deselect p).device = devGood) (h : (s.deselect p).selectedCand p = some c)
    (f : ¬(((s.deselect p).part p).psvc ≠ 0 ∨ ((s.deselect p).part p).offline = true ∨ ((s.deselect p).freeBents p).length < c.need)) :
    exec (.placement p) s =
      .next (if c.sel < 256 then (s.deselect p).placeHead p c.sel else (s.deselect p).restore p (c.sel - 256)) := by
  show execPlacement p s = _
  simp only [not_or] at f
  simp only [execPlacement, h, d, devGood_serves, f, Option.isSome_none, or_self, if_false, Bool.false_eq_true]
  split <;> rfl

set_option maxRecDepth 100000 in
/-- R323, R324, R326: the command is selected; placed, its strand stands at its entry in bent 0. -/
theorem test_dispatch :
    shows (exec (.dispatchDecision 0) sysD) (fun t => ((t.part 0).selected, (t.part 0).decision)) = some (some 0, 2) := by
  show some (_, _) = _
  rw [decideNext_of (sysD.refresh 0) 0 candD rfl (by decide +kernel) (by decide +kernel) rfl]
  decide +kernel

theorem test_placement :
    shows (exec (.placement 0) (sysD partSel)) (fun t => ((t.launch 8).region, (t.bent 0).strands.map (fun k => (k.1, k.2.lid)))) =
      some ([0], [(0, 8)]) := by
  rw [placement_of _ 0 candD rfl (by decide +kernel) (by decide +kernel)]
  decide +kernel

theorem test_restore :
    shows (exec (.placement 0) sysPre) (fun t => ((t.launch 72).region, (t.strand? 0 0).map (fun k => k.rx 2))) = some ([0], some 7) := by
  rw [placement_of _ 0 { sel := 328, seq := 9, tier := 0, deadline := -7000000, need := 1, fault := 0 } rfl (by decide +kernel) (by decide +kernel)]
  decide +kernel

/-! ### Contexts, pre-emption and partitions -/

/-- A partition with one launch, of sequence number 1. -/
def Lrun (ph : Phase) : Launch := { L0 with seq := 1, part := 0, phase := ph, region := [0] }
def sysL (L : Launch) (P : Part := {}) (B : Bent := {}) : State :=
  { sys (stx []) L B with cur := .none, parts := [(0, P)] }
def busyBent : Bent := { inbuf := [(0, [inCell {}])] }

theorem witness_ContextsAndPreemption :
    (ctx0.en = true ∧ sysD.ctxBusy 0 = false ∧ (sysL (Lrun .running) partD).ctxBusy 0 = true ∧
      ({ ctx0 with ending := true } : Ctx).ending = true) ∧
    ((0x4000000000000002 : Word).toNat / 2 ^ 62 = 1 ∧ (0x8000000000000002 : Word).toNat / 2 ^ 62 = 2 ∧
      (sysL (Lrun .running)).launchOfSeq 0 2 = none ∧ ({ preempting := some ⟨false, 0⟩ } : Part).preempting.isSome = true) ∧
    (({} : Part).preempting = none ∧ (sysL (Lrun .running)).launchOfSeq 0 1 = some 0 ∧ (sysL (Lrun .running)).launch? 0 = some (Lrun .running) ∧
      (Lrun .running).phase ≠ .preempted ∧ (Lrun .running).fault = 0 ∧ (Lrun .running).phase ≠ .ended) ∧
    ((sysL (Lrun (.gating false))).launchesOf 0 = [0] ∧ (Lrun (.gating false)).part = 0 ∧ (sysL (Lrun (.gating false))).quiescent 0 = true) ∧
    (let P : Part := { psvc := 2 }
     (Lrun .running).scarfs = [] ∧ P.wants 0 = true ∧ (sysL (Lrun .running) P busyBent).quiescent 0 = false) ∧
    ((Lrun (.gating false)).gatedAt + ({} : Part).hangNs ≤ 100000000) ∧
    (({ offline := true } : Part).offline = true ∧ ({} : Part).offline = false ∧ (0 : Nat) ∈ (sysL (Lrun .running)).launchesOf 0) ∧
    (({ psvc := 1 } : Part).psvc ≠ 0 ∧ ∀ lid ∈ (sysL (Lrun .preempted) { psvc := 1 }).launchesOf 0,
      ((sysL (Lrun .preempted) { psvc := 1 }).launch lid).phase = .preempted) ∧
    ({ Lrun .preempted with savedByMode := true } : Launch).savedByMode = true ∧
    (partBytes < (sysL (Lrun (.gating false))).hbmUsed 0 + Config.saveBytes 1 ∨
      (sysL (Lrun (.gating false))).hbmUsed 0 + Config.saveBytes 1 ≤ partBytes) := by
  repeat' with_reducible apply And.intro
  all_goals first | exact Nat.lt_or_ge _ _ | decide +kernel

/-- R344, R346, R350: the gates close on a launch that is not quiescent; the gates reopen after HANGNS; a partition with no launch placed goes offline. -/
theorem test_preempt :
    shows (exec (.preemptQuiescent 0) { sysL (Lrun .running) { psvc := 2 } busyBent with dtime := 4 })
      (fun t => ((t.launch 0).phase, (t.launch 0).gatedAt)) = some (.gating false, 4) ∧
    shows (exec (.preemptTimeout 0) { sysL (Lrun (.gating false)) with dtime := 100000000 }) (fun t => (t.launch 0).phase) = some .running ∧
    shows (exec (.partitionOffline 0) (sysL (Lrun .preempted) { psvc := 1 })) (fun t => (t.part 0).readPsvc) = some 5 ∧
    shows (exec (.abortRequest 0 0x8000000000000001) (sysL (Lrun .running))) (fun t => ((t.launch 0).phase, (t.launch 0).fault)) =
      some (.draining, 0x0B) := by decide +kernel

/-- A launch of no strands whose command expects two sinks and whose record goes to host address 0x40. -/
def Lend (n : Nat) : Launch := { Lrun .running with sinks := n, compl := 0xA000000000000040, tdisp := 3, deadline := 100 }
def sysEnd (n : Nat) : State :=
  { sysD { journal := [(1, { seq := 1 })] } with
    launches := [(0, Lend n)], bents := [(0, { launch := some 0, sinkCount := 2 })], dtime := 5 }
def markD : StrandMark := { round := 0, key := 0, bent := 0, slot := 0, st := stx [(2, 9)], rv := [] }
def undo0 : Undo := { round := 1, bent := 0, base := 2 ^ 41, old := List.replicate 32 7, poisoned := false, granule := none }
def Lroll : Launch := { Lrun .rolling with cutRound := some 0, cutStrands := [markD], undo := [undo0] }
/-- A launch that restarts from the container of the command above. -/
def Lre : Launch := { Lroll with unrecoverable := [1], cmd := cmd0 }
def sysRe : State := { sysD with launches := [(8, Lre)], bents := [(0, { launch := some 8 })] }

theorem witness_LaunchesEnd :
    ((sysEnd 2).launch? 0 = some (Lend 2) ∧ (sysEnd 2).finished 0 = true ∧ (sysEnd 2).sinkSum 0 = (Lend 2).sinks ∧
      (sysEnd 3).sinkSum 0 < (Lend 3).sinks ∧ (Lend 3).fault = 0 ∧ (Lend 1).sinks < (sysEnd 1).sinkSum 0) ∧
    ((sysEnd 2).Ordered ∧ (∀ q, (((sysEnd 2).part 0).qcb q).pend = []) ∧ spaceOf 0 (Lend 2).compl = .host 0x40 ∧
      (sysEnd 2).cpWalk 0 0 true true 0x40 = .ok (hostAddr 0x400040) none ∧
      (sysEnd 2).cpWalk 0 0 true true (0x40 + 8) = .ok (hostAddr 0x400040 + 8) none) ∧
    ((Lrun .running).phase = .running ∧ ({} : Part).hangNs ≤ 100000000 - (Lrun .running).lastProgress ∧ (Lrun .draining).phase = .draining) ∧
    (Lroll.phase = .rolling ∧ Lroll.escalates = false ∧ Lroll.region.Nodup ∧ (Lroll.cutStrands.map (fun m => (m.bent, m.slot))).Nodup ∧
      (∀ m ∈ Lroll.cutStrands, m.bent < Lroll.region.length) ∧ Lroll.afterCut undo0.round = true) ∧
    (Lre.escalates = true ∧ Lre.fault = 0 ∧ 1 ≤ ({ Lre with restarts := 1 } : Launch).restarts ∧ Lre.restarts = 0 ∧ Lre.noRestart = false ∧
      8 = Lre.seq * 8 + Lre.part) ∧
    (let d := (sysRe.drainRegion 8).loadBox Lre.part Lre.ctx Lre.cbase.toNat
     d.2.elim (fun _ => false) (fun x => decide ((d.1.eraseLaunch 8).hbmUsed Lre.part + x.bytes ≤ partBytes) &&
      ((d.1.eraseLaunch 8).chooseBents Lre.part x.head.region x.images).length == x.head.region) = true) ∧
    ((sysRe.drainRegion 8).loadBox 0 1 0).2.elim (fun f => f == 0x01) (fun _ => false) = true ∧
    ((Lrun .closing).phase = .closing ∧ (sysEnd 2).meetsQueue (hostAddr 0x400040) 64 = false) := by
  refine ⟨by decide +kernel, ⟨?_, fun _ => rfl, by decide +kernel⟩, by decide +kernel⟩
  unfold State.Ordered
  decide +kernel

/-- R330: COMPLETE, then the sequence number; R271: too many cells at the sinks fault with 0x0A. -/
theorem test_end :
    shows (exec (.launchCompletion 0) (sysEnd 2)) (fun t => ((t.launch? 0).isSome, t.readNat (hostAddr 0x400040) 16)) =
      some (false, 1 + 2 ^ 64) ∧
    shows (exec (.launchCompletion 0) (sysEnd 1)) (fun t => ((t.launch 0).phase, (t.launch 0).fault)) = some (.draining, 0x0A) ∧
    shows (exec (.hangDetected 0) { sysL (Lrun .running) with dtime := 100000000 }) (fun t => (t.launch 0).fault) = some 0x0B := by decide +kernel

/-- R370, R371: memory and strand as at the cut; an unrecoverable launch starts again. -/
theorem test_rollback :
    shows (exec (.regionRollback 0) { launches := [(0, Lroll)], bents := [(0, { launch := some 0 })] })
      (fun t => ((t.strand? 0 0).map (fun k => k.rx 2), t.byte (2 ^ 41 + 31), (t.launch 0).phase)) = some (some 9, 7, .running) ∧
    shows (exec (.regionRollback 8) sysRe) (fun t => ((t.launch 8).restarts, (t.launch 8).region, (t.bent 0).strands.length)) =
      some (1, [0], 1) := by decide +kernel

/-! ### Errors, repair, links and the device window -/

/-- Verdicts on a spare, a signature or a token are free values: of the two clauses for each, one applies whichever the value. -/
theorem witness_ErrorsAndRepair :
    (let s := sysL (Lrun .running) {} busyBent
     (s.bent 0).launch = some 0 ∧ s.launch? 0 = some (Lrun .running) ∧ (Lrun .running).phase = .running ∧ (Lrun .rolling).phase = .rolling) ∧
    ((0xBF01 : Word).toNat / 2 ^ 8 % 256 < 192 ∧ (0xBF01 : Word).getLsbD 16 = false ∧ (0x1BF00 : Word).getLsbD 16 = true ∧
      ({} : Part).repairing = none ∧ ((({ parts := [(7, { offline := true })] } : State)).part (191 / 24)).offline = true) ∧
    (let s : State := { parts := [(7, { repairing := some (false, 191, 1) })], device := { spares := [(191, 0)] } }
     (s.part 7).repairing = some (false, 191, 1) ∧ ((Config.fusedMap 191).isSome = true ∨ (Config.fusedMap 191).isSome = false) ∧
       NMap.has s.device.spares 191 = true ∧ (s.spareUsed 191 1 = true ∨ s.spareUsed 191 1 = false) ∧
       (Config.spareFaulty (191 / 48) 1 = true ∨ Config.spareFaulty (191 / 48) 1 = false)) ∧
    (({} : State).link 3 = {} ∧ ({} : Link).failed = false ∧ ({} : Link).half = false ∧ ({ half := true } : Link).half = true) :=
  ⟨by decide +kernel, by decide +kernel, ⟨by decide +kernel, Bool.eq_false_or_eq_true _, by decide +kernel, Bool.eq_false_or_eq_true _,
    Bool.eq_false_or_eq_true _⟩, by decide +kernel⟩

/-- R365, R367: counts of corrected and uncorrected errors, and their clearing. -/
theorem test_errors :
    shows (exec (.uncorrectableError 2 (.mem 0x47)) { parts := [(2, { ce := 5 })] }) (fun t => ((t.part 2).readEccstat, t.poison)) =
      some (0x0000000500000001, [0x40]) ∧
    shows (exec (.correctedError 2 (.mem 0)) { parts := [(2, { ce := 2 ^ 32 - 1 })] }) (fun t => (t.part 2).ce) = some (2 ^ 32 - 1) ∧
    shows (exec (.repairMap 0 0xBF01) { parts := [(7, { offline := true })] }) (fun t => (t.part 0).repair) = some 0x800000000000BF01 ∧
    shows (exec (.flitReplay 3) { links := [(3, { failed := true })] }) (fun t => (t.link 3).replays) = some 0 := by decide +kernel

theorem witness_DeviceWindow :
    (2 ^ 52 ≤ (0x0010000000000000 : Word).toNat ∧ (0x000FFFFFFFFFFFFF : Word).toNat < 2 ^ 52 ∧ (sysD.hostLocs 0 0 0xFFFF 2).2 = none ∧
      (sysD.hostLocs 0 0 0xFFFE 2).2 = some [0x40FFFE, 0x40FFFF] ∧ [0x40FFFE, 0x40FFFF].Nodup ∧ sysD.Ordered) ∧
    (({ offline := true } : Part).offline = true ∧ 2 < 3 ∧ NMap.getD ({} : Device).fwMin 2 0 ≤ 0 ∧
      Config.firmwareSignatureOk Config.signedImage = true ∧ (Config.firmwareSignatureOk [1] = true ∨ Config.firmwareSignatureOk [1] = false) ∧ ¬(3 < 3)) ∧
    (({} : Device).forming = none ∧ ({ forming := some [1] } : Device).forming = some [1] ∧ (some ([1] : List Byte)).isSome = true) ∧
    ((0x043F000000000000 : Word).toNat / 2 ^ 58 % 4 = 1 ∧ (0x083F000000000000 : Word).toNat / 2 ^ 58 % 4 = 2 ∧ ({} : Device).keyBusy = none) ∧
    (let s (load : Bool) : State := { device := { keyBusy := some (load, 63, 0) }, ctxs := [(0, { kslot := 63, en := true })] }
     let u (load : Bool) : State := { device := { keyBusy := some (load, 63, 0) } }
     (s true).device.keyBusy = some (true, 63, 0) ∧ (s true).device.debug = false ∧ (s true).keyInUse 63 = true ∧ (u true).keyInUse 63 = false ∧
       (u false).keyInUse 63 = false ∧ 0 + 193 ≤ 768 * 2 ^ 30 ∧ ({ debug := true } : Device).debug = true ∧
       (Config.keyBlobOk 63 (Memory.getBytes (u true).mem 0 193) = true ∨ Config.keyBlobOk 63 (Memory.getBytes (u true).mem 0 193) = false)) ∧
    (({ lastNonce := [1] } : Device).lastNonce ≠ [] ∧ ({} : Device).lastNonce = [] ∧
      (Config.debugTokenOk ([2] ++ [1]) = true ∨ Config.debugTokenOk ([2] ++ [1]) = false)) ∧
    (({ inReset := true } : Device).inReset = true ∧ 840 ≤ 840 ∧ (2100 : Nat) ≤ ({} : Device).pwrcap ∧ sysD.scarfRunning = false ∧
      (sysScarf scarf0).scarfRunning = true) ∧
    ((0x1000 : Word).toNat % 4096 = 0 ∧ (0x10000 : Word).toNat % 2 ^ 32 = 2 ^ 16 ∧ (({} : State).ctx 63).en = false ∧
      (({} : Part).qcb 255).en = false ∧ 7 < 8) := by
  repeat' with_reducible apply And.intro
  all_goals first | exact Bool.eq_false_or_eq_true _ | (simp [Config.firmwareSignatureOk]; done) | decide +kernel | (unfold State.Ordered; decide +kernel)

/-- R352, R384, R387, R398: a host write lands where its context maps it; a slot in use refuses; debug is locked after reset. -/
theorem test_device :
    shows (exec (.hostWindowWrite 0 0 0xFFFE [0x11, 0x22]) sysD) (fun t => (t.byte 0x40FFFE, t.byte 0x40FFFF)) = some (0x11, 0x22) ∧
    shows (exec (.hostWindowWrite 0 0 0xFFFF [0x11, 0x22]) sysD) (fun t => t.toHost) = some [.windowRefused 0 0xFFFF] ∧
    shows (exec .keycmdDone { device := { keyBusy := some (false, 63, 0) }, ctxs := [(0, { kslot := 63, en := true })] })
      (fun t => t.device.keycmd) = some 0x3000000000000000 ∧
    shows (exec (.supplyOutOfRange 0) {}) (fun t => t.device.inReset) = some true := by decide +kernel

theorem test_registers :
    shows (exec (.registerWrite (.partition 0) 0x840 1) {}) (fun t => (t.part 0).floor) = some 4 ∧
    shows (exec (.registerWrite (.partition 7) 0x880 0x80) {}) (fun t => (t.part 7).vtthr) = some 1 ∧
    shows (exec (.registerWrite .device 0 5000) {}) (fun t => t.device.pwrcap) = some 2100 ∧
    shows (exec (.fabidWrite 0x12345) {}) (fun t => t.device.readFabid) = some 0x12345 ∧
    shows (exec (.correctedError 0 (.mem 0)) {}) (fun t => (t.part 0).readEccstat) = some 0x100000000 := by decide +kernel

/-! ### Encodings, reset and the step -/

theorem witness_WordsDecode : (0x022 : BitVec 10) ≠ 0x023 ∧ (0x022 : BitVec 10) ≠ 0x040 ∧ (0x3FF : BitVec 10) ≠ 0x040 := by decide

theorem witness_EncodedWordsDecode :
    (WellFormed (.add 31 0 31 .d) = true ∧ encode (.add 31 0 31 .d) = [0b0000001_11111_00000_11111_110_0000000]) ∧
    (WellFormed .vend = true ∧ encode .vend = [0b101000_00_0000000_0000000_0000000_000]) := by decide +kernel

/-- A launch whose text is one `nop`. -/
def Lnop : Launch := { L0 with text := [0, 0, 0, 0xA0] }

theorem witness_WordsThatAreNoInstruction :
    (Lnop.text.length < (1 : Word).toNat + 4 ∧ (0 : Word).toNat + 4 ≤ Lnop.text.length) ∧
    (({ L0 with text := [0, 0, 0, 0] } : Launch).word 0 = some 0 ∧ decodeSeq 0 = none) ∧ (sys (stx [])).Current 0 0 (stx []) :=
  ⟨by decide, by decide +kernel, current_sys _ _ _ _ rfl rfl rfl⟩

/-- The word 0 takes the trap with cause 0x0001. -/
theorem test_illegal :
    shows (exec .illegalInstruction (sys { stx [] with trapvec := 0x40 })) (fun t => (causeOf t, (strandOf t).pc)) = some (1, 0x40) ∧
    Lnop.fetch 4 = .instructionFetchFault ∧ Lnop.fetch 0 = .nop := by decide +kernel

def turn (a : Act) (s : State) : State := { s with agenda := [{ dt := 2, act := a }] }

theorem witness_StepRunsTheInstruction :
    (let s := turn (.strand 0 0) (sys (stx []) Lnop)
     s.agenda = [{ dt := 2, act := .strand 0 0 }] ∧ s.device.inReset = false ∧ s.strand? 0 0 = some (stx []) ∧ (stx []).pend = [] ∧
       (s.launch 0).word 0 = some 0xA0000000 ∧ decodeSeq 0xA0000000 = some .nop) ∧
    (stPend.saved = none ∧ stPend.pend ≠ []) ∧
    (let s := turn (.routine 0 0 0) { vx {} with launches := [(0, { L0 with opwords := [0xA0000000] })] }
     NMap.get? (s.tenon 0 0).routines 0 = some R0 ∧ R0.lo ≤ R0.pc ∧ R0.pc < R0.hi ∧
       (s.launch R0.side.lid).opwords[R0.pc]? = some 0xA0000000 ∧ decodeOpw 0xA0000000 = some .vend) ∧
    (let s (gate : Nat) : State := { atEngine 14 (atCell 3 0x800000000040) with device := { gate := gate } }
     (s 0).engineInstr 0 14 = some (.atAdd 0) ∧ (s 0).gated 0 = false ∧ (s 1).gated 0 = true ∧ consumer (.atAdd 0) = some 0) ∧
    (({ inReset := true } : Device).inReset = true ∧ Act.strand 0 0 ≠ .device .resetRelease) ∧
    (WellFormed (.mortiseSlot 191) = true ∧ isStep (.mortiseSlot 191) = true ∧ isStep .nop = false) ∧
    (State.reset.agenda = [] ∧ State.reset.pick = none ∧ sysD.agenda = [] ∧ sysD.pick = some (.dispatchDecision 0)) := by
  repeat' with_reducible apply And.intro
  all_goals decide +kernel

/-- A turn of a strand whose text is `nop`: 2 ns pass, and the next instruction is the next word. -/
theorem test_step :
    shows (step (turn (.strand 0 0) (sys (stx []) Lnop))) (fun t => ((strandOf t).pc, t.dtime, t.agenda, (t.launch 0).lastProgress)) =
      some (4, 2, [], 2) ∧
    shows (step (State.reset.withFetchWord 32 0xA0000000)) (fun t => (strandOf t).pc) = some 4 ∧
    shows (step (State.reset.withFetchWord 32 0xFFFFFFFF)) (fun t => ((t.launch 0).trapCause, (t.launch 0).fault)) = some (1, 5) := by decide +kernel

theorem witness_ResetState : (bentRv.placed 8 1).launch = some 8 ∧ bentRv.rv ≠ [] := by decide +kernel

theorem witness_StepKeepsMemoryOrdered :
    State.reset.Ordered ∧ step State.reset = .next { State.reset with auto := 1, dtime := 1 } := by
  refine ⟨?_, rfl⟩
  unfold State.Ordered
  decide

/-! ### Clauses of several kinds: further witnesses -/

/-- Numbers of control registers and identities that are not allocated, the last of `ident`, and atomics behind `exit.abandon`. -/
theorem witness_ControlRegisters_unallocated :
    (0x003 : BitVec 10) ∉ ([0x000, 0x001, 0x002, 0x004, 0x005, 0x006, 0x007, 0x010, 0x011, 0x012, 0x020, 0x021, 0x022, 0x024, 0x030, 0x031,
      0x032, 0x033, 0x034, 0x035, 0x041] : List (BitVec 10)) ∧ (0x003 : BitVec 10) ≠ 0x023 ∧ (0x003 : BitVec 10) ≠ 0x040 ∧
    (0x3FF : BitVec 10) ∉ ([0x000, 0x001, 0x002, 0x010, 0x012, 0x030, 0x031] : List (BitVec 10)) ∧ 10 ≤ (10 : BitVec 10).toNat := by decide

theorem witness_StrandEndsAndContinuations_abandon :
    (let s := sys (stx []) { L0 with det := true }
     (s.mapRegion 0 (fun _ B => B.abandon (stx []))).atomHolds (stx []) = false) ∧
    (let s := sys stEndAmo { L0 with det := true }
     (s.mapRegion 0 (fun _ B => B.abandon stEndAmo)).atomHolds stEndAmo = true) := by decide +kernel

/-- A launch whose scratchpad buffer 2 of 0x1000 bytes at 0x10000 has its backings swapped, and its first and last offsets. -/
def L17 (swap : Bool) : Launch := { L0 with bufs := [(2, { bufSpad with shadow := true, swap := swap })] }

theorem witness_AddressChecksAndScratchpad_ranges :
    (∀ x ∈ [(0x10000, true, false), (0x10FFF, true, false), (0x11000, false, true), (0x11FFF, false, true), (0xFFFF, false, false), (0x12000, false, false)],
      spaceOf 0 (BitVec.ofNat 64 (2 ^ 63 + x.1)) = .own x.1 ∧ ∀ p ∈ (L17 true).bufs, p.2.spad = true ∧ p.2.shadow = true ∧ p.2.swap = true ∧
        decide (p.2.boff ≤ x.1 ∧ x.1 < p.2.boff + p.2.bytes) = x.2.1 ∧
        decide (p.2.boff + (p.2.bytes + 255) / 256 * 256 ≤ x.1 ∧ x.1 < p.2.boff + (p.2.bytes + 255) / 256 * 256 + p.2.bytes) = x.2.2) ∧
    (∀ p ∈ (L17 true).bufs, ∀ q ∈ (L17 true).bufs, q = p) ∧ (∀ p ∈ (L17 false).bufs, p.2.swap = false) ∧ bufSpad.shadow = false := by
  decide +kernel

/-- A swapped front lies in the second range, R329; an offset in the second range of a buffer traps. -/
theorem test_swapped :
    shows (exec (.ld 4 5 .bent .rlx .d 0) (sys (stAt 0x8000000000010010) (L17 true))) (fun t => (strandOf t).ops.map (fun o => o.loc)) =
      some [2 ^ 41 + 0x11010] ∧
    shows (exec (.ld 4 5 .bent .rlx .d 0) (sys { stAt 0x8000000000011010 with trapvec := 4 } (L17 false))) causeOf = some 4 := by decide +kernel

/-- An acquire, an image's load, a full `ldfe`, and both parts of `ldt` and `stt`. -/
def opLdt : MemOp := { opLoad with kind := .ldt, dest := .f 3, tagLoc := 2 ^ 41 + 9, path := .sill 0 }
def opStt : MemOp := { opStore with kind := .stt, tagLoc := 2 ^ 41 + 9, expected := [7] }

theorem witness_AccessesReturn_clauses :
    (let o := { opLoad with acq := true, path := .sill 0 }
     (sys (stOp o)).strand? 0 0 = some (stOp o) ∧ o.got = none ∧ o.parked = false ∧ o.preTrap = false ∧ (sys (stOp o)).foreignPage 0 o = none) ∧
    (let o := { opLoad with kind := .ldfe, path := .sill 0 }
     let st := { stOp o with state := .waiting (.deferred 3) }
     let s := sys st L0 { granules := [(0, { fe := true })] }
     s.strand? 0 0 = some st ∧ st.ops = [o] ∧ (s.granule o.loc).fe = true ∧ st.state = .waiting (.deferred o.id) ∧ s.foreignPage 0 o = none) ∧
    (∀ o ∈ [opLdt, { opLdt with half := some ([0, 0, 0x80, 0x3F], false) }],
      (sys (stOp o)).strand? 0 0 = some (stOp o) ∧ o.got = none ∧ o.parked = false ∧ o.preTrap = false ∧ o.acq = false ∧ o.dest = .f 3 ∧
        (sys (stOp o)).foreignPage 0 o = none) ∧
    (∀ o ∈ [opStt, { opStt with half := some ([], false) }],
      (sys (stOp o)).strand? 0 0 = some (stOp o) ∧ o.got = none ∧ o.data.length = o.size ∧ o.writer.lid = (stOp o).lid ∧
        (sys (stOp o)).foreignPage 0 o = none ∧ o.expected = [7]) ∧
    ((sys (stOp opAmo)).meetsQueue opAmo.loc opAmo.size = false ∧ (sys (stOp opAmo)).meetsQueue opAmo.tagLoc 1 = false) ∧
    (sys (stOp opStt)).Ordered := by
  refine ⟨by decide +kernel, by decide +kernel, by decide +kernel, by decide +kernel, by decide +kernel, ?_⟩
  unfold State.Ordered
  decide

/-- R51, R145: `ldt` reads its value and then the byte of its count, which stops at 24; `stt` writes the value first. -/
theorem test_halves :
    shows (exec (.loadReturn 0 0 3) (sys (stOp { opLdt with half := some ([0, 0, 0x80, 0x3F], false) }) L0 {} [sb 9 31])) (fOf 3) =
      some (0x3F800000, 24) ∧
    shows (exec (.loadReturn 0 0 3) (sys (stOp opLdt) L0 {} [sb 3 0x40])) (fun t => (strandOf t).ops.map (fun o => o.half)) =
      some [some ([0, 0, 0, 0x40], false)] ∧
    shows (exec (.storeCompletion 0 0 3) (sys (stOp opStt))) (fun t => (t.readNat (2 ^ 41) 4, t.byte (2 ^ 41 + 9), (strandOf t).ops.length)) =
      some (0x04030201, 0, 1) := by decide +kernel

/-- A strand with an acquire in flight. -/
def stAcq : Strand := { stx [] with ops := [{ opLoad with acq := true }] }

theorem witness_BarriersAndPublish_acquire :
    (sys stAcq).Issues { rx := [5], wx := [6] } 0 0 stAcq ∧ (∃ o ∈ stAcq.ops, o.acq = true) ∧ ((sys stAcq).launch 0).det = false ∧
    ∀ o ∈ (stx []).ops, o.acq = false :=
  ⟨issues_at (by decide), ⟨{ opLoad with acq := true }, .head _, rfl⟩, rfl, by decide⟩

/-- A fence with an atomic of the current round of a deterministic launch among what it waits for, and without. -/
theorem witness_FencesAndWaits_atomics :
    (let s := sys stEndAmo { L0 with det := true }
     ((s.launch 0).det && (s.atomCells stEndAmo || stEndAmo.ops.any stEndAmo.stuck)) = true ∧ s.performed stEndAmo = false) ∧
    (let s := sys stEndAmo
     ((s.launch 0).det && (s.atomCells stEndAmo || stEndAmo.ops.any stEndAmo.stuck)) = false ∧ s.performed stEndAmo = false) := by
  decide +kernel

theorem witness_ScarfCollectives_order :
    (scarf0.expired 1000 = false ∧ scarf0.expired 1001 = true ∧ scarf0.timer + scarf0.timeout < 1001) ∧
    (let m := { msg0 with step := 1 }
     m.collid = scarf0.collid ∧ m.gen = scarf0.gen ∧ m.ack = false ∧ ∃ t, t < m.step ∧ m.rank ∈ scarf0.awaits t ∧ (t, m.rank) ∉ scarf0.arrived) ∧
    (∀ t, t < msg0.step → msg0.rank ∈ scarf0.awaits t → (t, msg0.rank) ∈ scarf0.arrived) ∧
    ({ msg0 with ack := true } : ScarfMsg).ack = true :=
  ⟨by decide +kernel, ⟨rfl, rfl, rfl, 0, by decide +kernel⟩, fun t h => absurd h (Nat.not_lt_zero t), rfl⟩

/-- The approximating operations: a NaN, both zeros and infinities, a negative value, an integral and a fractional exponent and one out of
range, a power of two and another value. -/
theorem witness_VxOperandsAndElements_approximations :
    (val32 0x7FC00000).isNan = true ∧ ((val32 0xC0400000).isNan = false ∧ (val32 0xC0400000).neg? = true) ∧
    ((val32 0x40400000).isFinite = true ∧ (val32 0x40400000).isZero = false ∧ (val32 0x40400000).neg? = false) ∧
    ((val32 0x40400000).isIntegral = true ∧ (val32 0x40400000).toInt .rdn = 3) ∧
    ((val32 0x3F000000).isFinite = true ∧ (val32 0x3F000000).isIntegral = false ∧ (val32 0x3F000000).toInt .rdn = 0) ∧
    (val32 0x43000000).toInt .rdn = 128 ∧ (val32 0xC3960000).toInt .rdn = -300 ∧
    (∃ n x u, val32 0x3F800000 = .fin false n x u ∧ n ≠ 0 ∧ n = 2 ^ Nat.log2 n) ∧
    (∃ n x u, val32 0x40400000 = .fin false n x u ∧ n ≠ 0 ∧ n ≠ 2 ^ Nat.log2 n) := by
  refine ⟨by decide +kernel, by decide +kernel, by decide +kernel, by decide +kernel, by decide +kernel, by decide +kernel,
    by decide +kernel, ?_, ?_⟩
  · exact ⟨2 ^ 23, -23, false, by decide +kernel⟩
  · exact ⟨3 * 2 ^ 22, -22, false, by decide +kernel⟩

theorem test_approximations :
    (EOp.exp2.flt .f32 .rne (0x40400000, 24) (0, 0) (0, 0)).1 = 0x41000000 ∧
    (EOp.log2.flt .f32 .rne (0x41000000, 24) (0, 0) (0, 0)).1 = 0x40400000 := by decide +kernel

/-- Lanes to convert: of FP32 to bytes of E4M3, and a block of which one element is a NaN. -/
theorem witness_VxLaneResults_conversions :
    (all64 0x3F800000).lanes.length = 64 ∧ SFmt.ofCode 9 = some (.flt .e4m3) ∧ (0 + 1) * SFmt.size (.flt .e4m3) ≤ 256 ∧
    64 * SFmt.size (.flt .e4m3) ≤ 64 ∧ (∃ k, k < 64 ∧ k * SFmt.size (.flt .e4m3) / 4 = 15) ∧ VTy.f32 ≠ .i32 ∧ 3 < 4 ∧
    (((elems .f32 (all64 0x7FC00000).lanes).map VTy.f32.ex).drop 16 |>.take 16).any Ex.isNan = true ∧
    (((elems .f32 (all64 0).lanes).map VTy.f32.ex).take 16).all Ex.isZero = true ∧
    (((elems .f32 (all64 0x3F800000).lanes).map VTy.f32.ex).take 16).any Ex.isNan = false := by
  refine ⟨rfl, rfl, by decide, by decide, ⟨63, by decide⟩, by decide +kernel⟩

/-- A reduction of a unit whose destination a second one holds, a scan, and partials of a scan. -/
theorem witness_VxSpanningReductions_holds :
    (let T : Tenon := { v := [(0, { all64 0 with full := false })] }
     ((vx T Rcin).tenon 0 0).full 0 = false ∧ ((vx T Rcin).tenon 0 0).heldBy 0 false = false) ∧
    (let p := { pend0 [part0 false] with scan := true }
     let T := (vx (Tpend p) Rcin).tenon 0 0
     T.pendings.filter (fun q => q.dst == p.dst) = [p] ∧ p.lowest = some (part0 false) ∧ T.blocked p (part0 false) = false ∧
       (NMap.vals T.closes).all (fun c => c.dst != p.dst) = true ∧ (part0 false).ends = false ∧ 0 < (part0 false).aw ∧ p.scan = true ∧
       p.dst ≠ 72 ∧ p.dst ≠ 73 ∧ modesVxe (part0 false).modes = false) := by decide +kernel

/-- A second operand that names no entry, at a rendezvous. -/
theorem witness_VxCellsAndEnd_operands :
    let bad : InCell := inCell { cell82 with code := 1, arg := 0 }
    let i : EngIn := ⟨[inCell { cell82 with arg := 8 }, bad], true⟩
    (vxIn 8).vxRefusal i = some bad ∧ ((vxIn 8).launch 0).extent 1 = none ∧ ((vxIn 8).tenon 0 0).isFrozen = false := by decide +kernel

/-- A loop whose body ends behind the loop around it, and one behind the routine. -/
theorem witness_VxTilesAndControl_bodies :
    (let R := { R0 with loops := [(0, 4, 2)] }
     (vx {} R).OpIssues 0 0 0 R [] none ∧ R.loops.length < 2 ∧ R.pc + 1 + (7 : BitVec 7).toNat ≤ R.hi ∧ ∃ y ∈ R.loops, y.2.1 < R.pc + 1 + 7) ∧
    R0.hi < R0.pc + 1 + (8 : BitVec 7).toNat ∧ (0x060C1 : BitVec 17).extractLsb' 12 5 = 6 :=
  ⟨⟨issues_vx _ _ _ _ rfl rfl (by decide), by decide, by decide, _, .head _, by decide⟩, by decide, by decide⟩

/-- A tenon whose row buffer is full, and columns of finite values, of a zero times an infinity, and of a strict form. -/
theorem witness_MatrixFirings_sums :
    (let c := fireCell 0 true
     8 < (({ mx0 with rows := List.replicate 8 row0 } : Mx).takeRow c ⟨false, false⟩).1.rows.length) ∧
    (row0.vals ≠ [] ∧ ∀ k < 128, ∀ a ∈ row0.vals[k]?, Ex.Above 0 a.1 ∧ Ex.Above 0 (mx0.image.logical (.int .int8) k 0)) ∧
    (let r := { row0 with vals := [(.inf false, 0)] }
     (Ex.inf false).isFinite = false ∧ (mx0.image.logical (.int .int8) 0 1).isZero = true ∧
       (mx0.column r (.int .int8) (.int .int8) 1).skipped = true ∧
       (mx0.column { r with strict := true } (.int .int8) (.int .int8) 1).sum = some .nan) ∧
    ({ mx0 with int32 := true } : Mx).int32 = true := by
  refine ⟨by decide +kernel, ⟨by decide, ?_⟩, by decide +kernel, rfl⟩
  intro k hk a ha
  have h : row0.vals = List.replicate 128 (.fin false 3 0 false, 0) := rfl
  rw [h, List.getElem?_replicate, if_pos hk] at ha
  cases ha
  have g : mx0.image.logical (.int .int8) k 0 = if k = 0 then .fin false 5 0 false else .zero false := by
    by_cases z : k = 0
    · subst z; decide +kernel
    · have o : 1 ≤ k := Nat.one_le_iff_ne_zero.2 z
      simp [Image.logical, mx0, Image.at, o, z]
  rw [g]
  exact ⟨⟨Int.le_refl 0, rfl⟩, by split <;> exact ⟨Int.le_refl 0, rfl⟩⟩

/-- A drain with a status cell, of tagged FP32. -/
theorem witness_MatrixDrainAndClear_cells :
    ({} : Mx).drainBad (DrainMap.of 0x00013500) = false ∧ (DrainMap.of 0x00013500).stat = true ∧ (DrainMap.of 0x00013500).tag = true ∧
    1 < (DrainMap.of 0x00013500).rows ∧ 5 < (255 + 48) / 48 ∧ SFmt.ofCode (DrainMap.of 0x00013500).ofmt = some (.flt .fp32) := by decide +kernel

/-- Refused and accepted operands of the sort engine: key bytes that do not fit, pairs out of order and too many, a running tile. -/
theorem witness_SortEngine_refusals :
    (sxCell 1 [7]).cell.len.toNat % 4 ≠ 0 ∧ ((sxCell 2 (pairs1 3 0)).cell.fmt ≠ 15 ∧ (sxCell 2 (pairs1 3 0)).cell.len.toNat % 8 = 0) ∧
    (SxCfg.of 0).ordered [(4, 0), (3, 1)] = false ∧ ((SxCfg.of 0).ordered [(3, 0), (4, 1)] = true ∧ (SxCfg.of 0).ordered [(3, 2)] = true) ∧
    (let c := sxCell 3 keys3
     let t : TopK := { issuer := topkIssuer c.cell, cfg := 0x10, seen := 3, best := [(3, 1), (7, 0)], poison := false }
     let s := atEngine 8 c { topk := [t] }
     s.Takes 0 8 0x303 (one c) c ∧ (s.bent 0).topkOf (topkIssuer c.cell) = some t ∧ t.cfg = c.cell.arg ∧ t.cfg ≠ 0x20) ∧
    16 ≤ (List.replicate 16 (default : TopK)).length ∧ (SxCfg.of 2).key < 4 ∧ 2 ^ 32 - 1 < 2 ^ (8 * (SxCfg.of 2).size) ∧
    (fired 8 [sxCell 1 keys3, mCell 6 0 routeBad]).routeCheck 0 (mCell 6 0 routeBad).cell.route (runPieces 15 false []) = some 1 := by
  refine ⟨by decide +kernel, by decide +kernel, by decide +kernel, by decide +kernel, ⟨⟨rfl, rfl, rfl, rfl⟩, by decide +kernel⟩, by decide +kernel⟩

/-- R241: in the total order of FP32, a negative NaN stands first and -0 before +0. -/
theorem test_order :
    (sortBy (SxCfg.of 2).pairBefore [(0, 0), (0x80000000, 1), (0xFFC00000, 2), (0x7F800000, 3)]).map Prod.snd = [2, 1, 0, 3] ∧
    ((SxCfg.of 4).merge [(7, 0), (3, 1)] [(7, 2), (1, 3)]).map Prod.snd = [0, 2, 1, 3] := by decide +kernel

/-- Records of one round, a product out of range, and the first slot of a search. -/
theorem witness_Consolidator_records :
    (∀ r ∈ [rec0 9 2, rec0 8 1, rec0 9 (-2)], (r.round - 0xFFFF).toNat < 2 ^ 15) ∧
    ((joined (rec0 9 (2 ^ 30)) (rec0 9 4)).mult ≠ 2 ^ 30 * 4 ∧ (rec0 9 1).flags.testBit 3 = (rec0 9 4).flags.testBit 3) ∧
    (let s := atEngine 9 (cnCell 3 0x300 []) {} L8 memArr
     (s.arrangement 0 0 3).map (fun A =>
       (s.readNat (A.front (64 + 32 * A.cap + 4 * (arrHash 9 A.logs % 2 ^ A.logs))) 4, A.count, (s.arrEntry A 0).1.key,
         (s.readNat (A.front (64 + 32 * A.cap + 4 * ((arrHash 9 A.logs + 1) % 2 ^ A.logs))) 4))) = some (0, 1, 9, 2 ^ 32 - 1)) := by
  decide +kernel

/-- Atomic cells outside scratchpad, of an unsuited FMT, too short, and with a reserved bit of ARG; and `at.fadd`. -/
theorem witness_AtomicUnit_causes :
    (∀ off, addrSpace 0 (0x100 : BitVec 48) ≠ .own off) ∧ (atCell 3 0x100).cell.addr.toNat % 4 = 0 ∧
    (atEngine 14 (atCell 3 0x100)).atOffset 0 (atCell 3 0x100) = none ∧
    addrSpace 0 (0x800000000040 : BitVec 48) = .own 0x40 ∧
    (atEngine 14 (atCell 3 0x800000000040)).atOffset 0 (atCell 3 0x800000000040) = some (0x40, none) ∧
    (let c := atCell 3 0x800000000040
     (c.cell.fmt = 4 ∧ ¬c.cell.len.toNat < 8 ∧ ¬32 ≤ c.cell.arg.toNat) ∧ 32 ≤ (atCell 3 0x800000000040 0x20).cell.arg.toNat ∧
       (atCell 4 0x800000000040).cell.fmt = 6) := by
  refine ⟨?_, by decide +kernel, by decide +kernel, by decide +kernel, by decide +kernel, by decide +kernel⟩
  intro off h
  have : addrSpace 0 (0x100 : BitVec 48) = .own off := h
  simp [addrSpace] at this

/-- R150: 1.0 + 2.0 by `at.fadd`. -/
theorem test_atFadd :
    shows (exec (.atFadd 0) (atEngine 14 { atCell 4 0x800000000040 0 with cell := { (atCell 4 0x800000000040 0).cell with payload := [0, 0, 0, 0x40] } } {} L0
      [sb 0x42 0x80, sb 0x43 0x3F])) (fun t => t.readNat (2 ^ 41 + 0x40) 4) = some 0x40400000 := by decide +kernel

/-- A matrix tenon with an open row at a round's end, sound and unsound. -/
theorem witness_RoundsAndRendezvous_rows :
    (let s (r : ARow) := bentSys (mxOf { mx0 with partialRow := [(0, r)] }) L0 { stx [] with round := 1 }
     (s row0).satisfied 0 0 = true ∧ ((s row0).bent 0 |>.mxAt 0).partialRow ≠ [] ∧
       (mx0.closeRow { row0 with vals := [], raw := List.replicate 128 (1, none) } true).2 = false ∧ (mx0.closeRow { row0 with bad := true } true).2 = true) ∧
    ((bentSys {} L0 { stx [] with round := 1 }).satisfied 0 8 = true ∧ 4 ≤ 8) := by decide +kernel

/-- Sinks that can be reached no more, and one that a round edge still reaches; a rollback whose undo meets no queue and whose cut holds no
fold; a failed walk of the context that waits. -/
theorem witness_LaunchesEnd_sinks :
    ((sysEnd 3).maySink 0 = false ∧ (sysEnd 3).sinkSum 0 < (Lend 3).sinks) ∧
    (let L : Launch := { Lend 3 with queues := [(0, { Q1 with onRound := true, route := padTo 32 0 (leBytes 2 0x8000) })] }
     let s : State := { sysEnd 3 with
       launches := [(0, L)], bents := [(0, { launch := some 0, cn := { pending := [pendRec 9 2] } })] }
     s.finished 0 = true ∧ s.maySink 0 = true ∧ s.sinkSum 0 < L.sinks) ∧
    (∀ m ∈ Lroll.cutUnits, m.bent.cn.folds = []) ∧
    (({ launches := [(0, Lroll)] } : State).inQueueSlots undo0.base = false ∧ ((sysD).launch 0).ctx = (miss0 (2 ^ 21)).ctx) := by decide +kernel

end Sys2Proof.Tests
end

section
/-! PROOFS. The values of the integer group (R108 to R110): operands and results as bit vectors of the type's width, and
what each of the model's value functions gives. -/

namespace Sys2Proof.Machine

/-! ### Widths, operands and results -/

theorem tyWidth_pos (t : ITy) : 0 < tyWidth t := by cases t <;> decide
theorem tyWidth_le (t : ITy) : tyWidth t ≤ 64 := by cases t <;> decide

theorem signedOf_eq_bmod {w : Nat} (hw : 0 < w) (n : Nat) : signedOf w n = (n : Int).bmod (2 ^ w) := by
  obtain ⟨k, rfl⟩ := Nat.exists_eq_add_one_of_ne_zero hw.ne'
  have hp : 2 ^ (k + 1) = 2 * 2 ^ k := by rw [pow_succ, mul_comm]
  simp only [signedOf, Int.bmod_def, Nat.add_sub_cancel]
  push_cast
  have hr : ((n % 2 ^ (k + 1) : Nat) : Int) = (n : Int) % 2 ^ (k + 1) := by push_cast; rfl
  have hk : ((2 ^ k : Nat) : Int) = 2 ^ k := by push_cast; rfl
  split <;> split <;> omega

theorem signedOf_toNat {w : Nat} (hw : 0 < w) (x : Word) : signedOf w x.toNat = (x.setWidth w).toInt := by
  rw [signedOf_eq_bmod hw, BitVec.toInt_setWidth]

theorem bmod_modEq (v : Int) (m : Nat) : v.bmod m ≡ v [ZMOD m] := (Int.modEq_iff_dvd.mpr Int.dvd_bmod_sub_self).symm

/-- A word's number and its two's complement agree modulo 2^w for the width of every type. -/
theorem toInt_modEq_toNat (t : ITy) (x : Word) : x.toInt ≡ x.toNat [ZMOD 2 ^ tyWidth t] := by
  rw [BitVec.toInt_eq_toNat_bmod]
  exact (bmod_modEq x.toNat (2 ^ 64)).of_dvd (by exact_mod_cast pow_dvd_pow 2 (tyWidth_le t))

theorem operand_of_signed {t : ITy} (h : tySigned t = true) (x : Word) : operand t x = x.toInt.bmod (2 ^ tyWidth t) := by
  rw [operand, if_pos h, signedOf_eq_bmod (tyWidth_pos t), BitVec.toInt_eq_toNat_bmod,
    Int.bmod_bmod_of_dvd (pow_dvd_pow 2 (tyWidth_le t))]

theorem operand_of_unsigned {t : ITy} (h : tySigned t = false) (x : Word) : operand t x = (x.toNat : Int) % 2 ^ tyWidth t := by
  simp [operand, h, lowBits]

/-- R108: an operand is its register's number modulo 2^w, signed or not. -/
theorem operand_modEq (t : ITy) (x : Word) : operand t x ≡ x.toNat [ZMOD 2 ^ tyWidth t] := by
  cases h : tySigned t with
  | true =>
    have hb : x.toInt.bmod (2 ^ tyWidth t) ≡ x.toInt [ZMOD 2 ^ tyWidth t] := by exact_mod_cast bmod_modEq x.toInt (2 ^ tyWidth t)
    rw [operand_of_signed h]
    exact hb.trans (toInt_modEq_toNat t x)
  | false =>
    rw [operand_of_unsigned h]
    exact Int.mod_modEq _ _

/-- R108: Ext of a signed type is the sign extension of the result's low w bits. -/
theorem extend_of_signed {t : ITy} (h : tySigned t = true) (v : Int) :
    extend t v = (BitVec.ofInt (tyWidth t) v).signExtend 64 := by
  have hn : ((v % 2 ^ tyWidth t).toNat : Int) = v % 2 ^ tyWidth t := Int.toNat_of_nonneg (Int.emod_nonneg _ (by positivity))
  simp only [extend, if_pos h, signedOf_eq_bmod (tyWidth_pos t), hn, BitVec.signExtend, BitVec.toInt_ofInt]
  have hm := Int.emod_bmod v (2 ^ tyWidth t)
  push_cast at hm
  rw [hm]

/-- R108: Ext of an unsigned type is the zero extension of the result's low w bits. -/
theorem extend_of_unsigned {t : ITy} (h : tySigned t = false) (v : Int) :
    extend t v = (BitVec.ofInt (tyWidth t) v).zeroExtend 64 := by
  apply BitVec.eq_of_toNat_eq
  simp [extend, h, BitVec.toNat_ofInt]

/-- A result counts only modulo 2^w. -/
theorem extend_congr {t : ITy} {v u : Int} (h : v ≡ u [ZMOD 2 ^ tyWidth t]) : extend t v = extend t u := by
  simp only [extend, show v % 2 ^ tyWidth t = u % 2 ^ tyWidth t from h]

theorem extend_toInt {t : ITy} (h : tySigned t = true) (v : Int) : (extend t v).toInt = v.bmod (2 ^ tyWidth t) := by
  rw [extend_of_signed h, BitVec.toInt_signExtend_of_le (tyWidth_le t), BitVec.toInt_ofInt]

theorem extend_toNat {t : ITy} (h : tySigned t = false) (v : Int) : ((extend t v).toNat : Int) = v % 2 ^ tyWidth t := by
  rw [extend_of_unsigned h, BitVec.toNat_setWidth_of_le (tyWidth_le t), BitVec.toNat_ofInt]
  push_cast
  exact Int.toNat_of_nonneg (Int.emod_nonneg _ (by positivity))

/-! ### The two-source operations (R108) -/

theorem lowBits_modEq (t : ITy) (x : Word) : (lowBits (tyWidth t) x : Int) ≡ x.toNat [ZMOD 2 ^ tyWidth t] := by
  simpa [lowBits] using Int.mod_modEq (x.toNat : Int) (2 ^ tyWidth t)

/-- The low w bits of a word stand for the word in a result. -/
theorem extend_lowBits (t : ITy) (x : Word) : extend t (lowBits (tyWidth t) x) = extend t x.toInt :=
  extend_congr ((lowBits_modEq t x).trans (toInt_modEq_toNat t x).symm)

theorem sllT_eq (t : ITy) (x y : Word) : sllT t x y = extend t (operand t x * 2 ^ (y.toNat % tyWidth t)) := by
  have h := ((lowBits_modEq t x).trans (operand_modEq t x).symm).mul_right (2 ^ (y.toNat % tyWidth t))
  rw [sllT, shiftAmount]
  push_cast
  exact extend_congr h

theorem sraT_eq (t : ITy) (x y : Word) :
    sraT t x y = extend t (x.toInt.bmod (2 ^ tyWidth t) / 2 ^ (y.toNat % tyWidth t)) := by
  rw [sraT, shiftAmount, signedOf_toNat (tyWidth_pos t), BitVec.toInt_setWidth, BitVec.toInt_eq_toNat_bmod,
    Int.bmod_bmod_of_dvd (pow_dvd_pow 2 (tyWidth_le t))]

theorem minT_eq (t : ITy) (x y : Word) : minT t x y = extend t (min (operand t x) (operand t y)) := by
  rw [minT, min_def]
  congr 1
  split <;> split <;> omega

theorem maxT_eq (t : ITy) (x y : Word) : maxT t x y = extend t (max (operand t x) (operand t y)) := by
  rw [maxT, max_def]
  congr 1
  split <;> split <;> omega

/-! ### Quotient and remainder (R109) -/

section
variable {t : ITy} {x y : Word}

theorem divT_remT_of_zero (h : operand t y = 0) :
    divT t x y = extend t (2 ^ tyWidth t - 1) ∧ remT t x y = extend t (operand t x) := by
  simp [divT, remT, h]

theorem divT_remT_of_overflow (hs : tySigned t = true) (hx : operand t x = -(2 ^ (tyWidth t - 1))) (hy : operand t y = -1) :
    divT t x y = extend t (operand t x) ∧ remT t x y = extend t 0 := by
  simp [divT, remT, hs, hx, hy]

theorem divT_remT_of_exact (h0 : operand t y ≠ 0)
    (ho : ¬(tySigned t = true ∧ operand t x = -(2 ^ (tyWidth t - 1)) ∧ operand t y = -1)) :
    divT t x y = extend t ((operand t x).tdiv (operand t y)) ∧
    remT t x y = extend t (operand t x - (operand t x).tdiv (operand t y) * operand t y) := by
  simp only [divT, remT, if_neg h0, if_neg ho, and_self]

end

/-! ### Counts of bits (R108) -/

theorem testBit_lowBits (w : Nat) (x : Word) (i : Nat) : (lowBits w x).testBit i = (decide (i < w) && x.getLsbD i) := by
  rw [lowBits, Nat.testBit_mod_two_pow, BitVec.getLsbD]

theorem testBit_lowBits_of_lt {w i : Nat} (x : Word) (h : i < w) : (lowBits w x).testBit i = x.getLsbD i := by
  simp [testBit_lowBits, h]

/-- `clz` counts the zeros above the highest one. -/
theorem clzT_spec (t : ITy) (x : Word) :
    ∃ n, clzT t x = BitVec.ofNat 64 n ∧ n ≤ tyWidth t ∧ (∀ i, i < n → x.getLsbD (tyWidth t - 1 - i) = false) ∧
      (n < tyWidth t → x.getLsbD (tyWidth t - 1 - n) = true) := by
  refine ⟨_, rfl, ?_⟩
  have hw := tyWidth_pos t
  by_cases h : lowBits (tyWidth t) x = 0
  · simp only [if_pos h]
    refine ⟨le_rfl, fun i hi => ?_, fun hn => absurd hn (lt_irrefl _)⟩
    rw [← testBit_lowBits_of_lt x (by omega : tyWidth t - 1 - i < tyWidth t), h, Nat.zero_testBit]
  · have hl : (lowBits (tyWidth t) x).log2 < tyWidth t := (Nat.log2_lt h).mpr (Nat.mod_lt _ (by positivity))
    simp only [if_neg h]
    refine ⟨by omega, fun i hi => ?_, fun _ => ?_⟩
    · rw [← testBit_lowBits_of_lt x (by omega : tyWidth t - 1 - i < tyWidth t)]
      exact Nat.testBit_lt_two_pow ((Nat.log2_lt h).mp (by omega))
    · rw [show tyWidth t - 1 - (tyWidth t - 1 - (lowBits (tyWidth t) x).log2) = (lowBits (tyWidth t) x).log2 by omega,
        ← testBit_lowBits_of_lt x hl, Nat.testBit_log2 h]

/-- `ctz` counts the zeros below the lowest one. -/
theorem ctzT_spec (t : ITy) (x : Word) :
    ∃ n, ctzT t x = BitVec.ofNat 64 n ∧ n ≤ tyWidth t ∧ (∀ i, i < n → x.getLsbD i = false) ∧
      (n < tyWidth t → x.getLsbD n = true) := by
  refine ⟨_, rfl, ?_⟩
  have hp : ∀ i, i < tyWidth t → (lowBits (tyWidth t) x / 2 ^ i % 2 == 1) = x.getLsbD i := fun i hi => by
    rw [← testBit_lowBits_of_lt x hi, Nat.testBit_eq_decide_div_mod_eq]; rfl
  cases h : (List.range (tyWidth t)).find? (fun i => lowBits (tyWidth t) x / 2 ^ i % 2 == 1) with
  | none =>
    refine ⟨le_rfl, fun i hi => ?_, fun hn => absurd hn (lt_irrefl _)⟩
    rw [← hp i hi]
    simpa using List.find?_range_eq_none.mp h i hi
  | some n =>
    obtain ⟨hn, hr, hlow⟩ := List.find?_range_eq_some.mp h
    have hr := List.mem_range.mp hr
    refine ⟨hr.le, fun i hi => ?_, fun _ => (hp n hr).symm.trans hn⟩
    rw [← hp i (hi.trans hr)]
    simpa using hlow i hi

theorem foldl_add_toNat_eq_length_filter (p : Nat → Bool) (l : List Nat) (c : Nat) :
    l.foldl (fun c i => c + (p i).toNat) c = c + (l.filter p).length := by
  induction l generalizing c with
  | nil => rfl
  | cons i l ih => cases h : p i <;> simp [ih, h]; omega

/-- `popc` counts the ones. -/
theorem popcT_eq (t : ITy) (x : Word) :
    popcT t x = BitVec.ofNat 64 ((List.range (tyWidth t)).filter (fun i => x.getLsbD i)).length := by
  rw [popcT, ← Nat.zero_add (List.length _), ← foldl_add_toNat_eq_length_filter]
  congr 1
  refine List.foldl_ext _ _ _ fun c i hi => ?_
  rw [← testBit_lowBits_of_lt x (List.mem_range.mp hi), Nat.toNat_testBit]

/-! ### Extensions (R110) -/

theorem sextW_eq_signExtend (t : ITy) (x : Word) : sextW (tyWidth t) x.toNat = (x.setWidth (tyWidth t)).signExtend 64 :=
  congrArg (BitVec.ofInt 64) (signedOf_toNat (tyWidth_pos t) x)

theorem ofNat_lowBits_eq_zeroExtend (t : ITy) (x : Word) :
    BitVec.ofNat 64 (lowBits (tyWidth t) x) = (x.setWidth (tyWidth t)).zeroExtend 64 := by
  apply BitVec.eq_of_toNat_eq
  simp [lowBits]

theorem ITy.extOk_of_ofCode {m : BitVec 3} {t : ITy} (h : ITy.ofCode m = some t) (he : t.extOk = true) :
    m = 0 ∨ m = 2 ∨ m = 4 := by
  revert m t
  decide

/-- R110: no word of `sext` or `zext` has another type code. -/
theorem decodeSeq_ext_eq_none (d a : XReg) {m : BitVec 3} (h0 : m ≠ 0) (h2 : m ≠ 2) (h4 : m ≠ 4) :
    decodeSeq (RegW.pack 0x01 ⟨d, a, 0, m, 0x11⟩) = none ∧ decodeSeq (RegW.pack 0x01 ⟨d, a, 0, m, 0x12⟩) = none := by
  rw [decodeSeq_01, decodeSeq_01]
  cases h : ITy.ofCode m with
  | none => simp [decInt, h]
  | some t =>
    have he : t.extOk = false := Bool.eq_false_iff.mpr fun he => by
      obtain h | h | h := ITy.extOk_of_ofCode h he
      · exact h0 h
      · exact h2 h
      · exact h4 h
    simp [decInt, h, need, he]

/-! ### The group issues -/

/-- Where a two-source instruction issues, it writes the value that its operation gives. -/
theorem State.intOp_of_issues {s : State} {d a b : XReg} {bt k : Nat} {st : Strand}
    (hi : s.Issues { rx := [a, b], wx := [d] } bt k st) {f : Word → Word → Word} {v : Word} (hv : f (st.rx a) (st.rx b) = v) :
    s.intOp d a b f = .next (s.setStrand bt k (st.wx d v).next) := hv ▸ State.local_of_issues hi _

/-- Where a one-source instruction issues, it writes the value that its operation gives. -/
theorem State.intOp1_of_issues {s : State} {d a : XReg} {bt k : Nat} {st : Strand}
    (hi : s.Issues { rx := [a], wx := [d] } bt k st) {f : Word → Word} {v : Word} (hv : f (st.rx a) = v) :
    s.intOp1 d a f = .next (s.setStrand bt k (st.wx d v).next) := hv ▸ State.local_of_issues hi _

theorem exec_sext_of_issues {s : State} {d a : XReg} {bt k : Nat} {st : Strand}
    (hi : s.Issues { rx := [a], wx := [d] } bt k st) (t : ITy) :
    exec (.sext d a t) s = .next (s.setStrand bt k (st.wx d (((st.rx a).setWidth (tyWidth t)).signExtend 64)).next) := by
  rw [← sextW_eq_signExtend]
  exact State.local_of_issues hi _

theorem exec_zext_of_issues {s : State} {d a : XReg} {bt k : Nat} {st : Strand}
    (hi : s.Issues { rx := [a], wx := [d] } bt k st) (t : ITy) :
    exec (.zext d a t) s = .next (s.setStrand bt k (st.wx d (((st.rx a).setWidth (tyWidth t)).zeroExtend 64)).next) := by
  rw [← ofNat_lowBits_eq_zeroExtend]
  exact State.local_of_issues hi _

end Sys2Proof.Machine
end

section
/-! PROOFS. The statements of the integer group. -/

open Sys2Proof Sys2Proof.Machine

namespace Sys2Proof.Proofs

/-- Settles O2: each value function is the extension of its row's result, and the group writes what its value function gives. -/
theorem integerResults : Obligations.IntegerResults := by
  unfold Obligations.IntegerResults
  refine ⟨fun t x v => ⟨fun h => ⟨operand_of_signed h x, extend_toInt h v⟩, fun h => ⟨operand_of_unsigned h x, extend_toNat h v⟩⟩,
    fun s d a b t bt k st hi => ?_, fun s d a t bt k st hi => ?_, fun d a m h0 h2 h4 => decodeSeq_ext_eq_none d a h0 h2 h4⟩
  · intro w x y n put
    exact ⟨State.intOp_of_issues hi rfl, State.intOp_of_issues hi rfl, State.intOp_of_issues hi rfl, State.intOp_of_issues hi rfl,
      State.intOp_of_issues hi (extend_lowBits t _), State.intOp_of_issues hi (extend_lowBits t _),
      State.intOp_of_issues hi (extend_lowBits t _), State.intOp_of_issues hi (sllT_eq t _ _), State.intOp_of_issues hi rfl,
      State.intOp_of_issues hi (sraT_eq t _ _), State.intOp_of_issues hi (minT_eq t _ _), State.intOp_of_issues hi (maxT_eq t _ _)⟩
  · intro w x put
    obtain ⟨nl, hl, hclz⟩ := clzT_spec t x
    obtain ⟨nt, ht, hctz⟩ := ctzT_spec t x
    exact ⟨⟨nl, State.intOp1_of_issues hi hl, hclz⟩, ⟨nt, State.intOp1_of_issues hi ht, hctz⟩,
      State.intOp1_of_issues hi (popcT_eq t x), fun _ => ⟨exec_sext_of_issues hi t, exec_zext_of_issues hi t⟩⟩

/-- Settles O3: the three cases of R109, each of which the group's value functions decide. -/
theorem divideAndRemainder : Obligations.DivideAndRemainder := by
  unfold Obligations.DivideAndRemainder
  intro s d a b t bt k st hi w x y put
  refine ⟨fun hy => ?_, fun hs hx hy => ?_, fun h0 ho => ?_⟩
  · obtain ⟨hq, hr⟩ := divT_remT_of_zero (x := st.rx a) hy
    exact ⟨State.intOp_of_issues hi hq, State.intOp_of_issues hi hr⟩
  · obtain ⟨hq, hr⟩ := divT_remT_of_overflow hs hx hy
    exact ⟨State.intOp_of_issues hi hq, State.intOp_of_issues hi hr⟩
  · obtain ⟨hq, hr⟩ := divT_remT_of_exact h0 ho
    exact ⟨State.intOp_of_issues hi hq, State.intOp_of_issues hi hr⟩

end Sys2Proof.Proofs
end

section
/-! PROOFS. Branches, jumps, hardware loops and nop (R117 to R120). -/

open Sys2Proof Sys2Proof.Machine

namespace Sys2Proof.Machine

/-! ### Targets and branches -/

/-- R82: an offset counts words of four bytes. -/
theorem target_eq {w : Nat} (pc : Word) (off : BitVec w) : target pc off = pc + off.signExtend 64 * 4 := by
  rw [target, BitVec.shiftLeft_eq_mul_twoPow]
  rfl

/-- R117: a branch whose condition says p goes to its target where p holds, and to the next word where it does not. -/
theorem State.local_branch_of_issues {s : State} {u : Uses} {bt k : Nat} {st : Strand} (hi : s.Issues u bt k st)
    {c : Strand → Bool} (off : BitVec 12) {p : Prop} [Decidable p] (hc : c st = true ↔ p) :
    s.local u (fun st => st.branch (c st) off) =
      .next (s.setStrand bt k (st.goto (if p then st.pc + off.signExtend 64 * 4 else st.pc + 4))) := by
  rw [State.local_of_issues hi, Strand.branch, target_eq, Strand.next]
  by_cases hp : p
  · rw [if_pos hp, if_pos (hc.mpr hp)]
  · rw [if_neg hp, if_neg (fun h => hp (hc.mp h))]

/-- R117: a branch on two x registers takes the way of its condition. -/
theorem State.branchX_of_issues {s : State} {a b : XReg} {bt k : Nat} {st : Strand} (hi : s.Issues { rx := [a, b] } bt k st)
    {c : Cond} (off : BitVec 12) {p : Prop} [Decidable p] (hc : c.holds (st.rx a) (st.rx b) = true ↔ p) :
    s.branchX a b c off = .next (s.setStrand bt k (st.goto (if p then st.pc + off.signExtend 64 * 4 else st.pc + 4))) :=
  State.local_branch_of_issues hi off hc

/-! ### The conditions of R114 -/

theorem Cond.holds_eq (x y : Word) : Cond.eq.holds x y = true ↔ x = y := by simp [Cond.holds]
theorem Cond.holds_ne (x y : Word) : Cond.ne.holds x y = true ↔ x ≠ y := by simp [Cond.holds]
theorem Cond.holds_lt (x y : Word) : Cond.lt.holds x y = true ↔ x.toInt < y.toInt := BitVec.slt_iff_toInt_lt
theorem Cond.holds_ge (x y : Word) : Cond.ge.holds x y = true ↔ y.toInt ≤ x.toInt := by
  simp [Cond.holds, BitVec.slt_eq_decide]
theorem Cond.holds_ltu (x y : Word) : Cond.ltu.holds x y = true ↔ x.toNat < y.toNat := BitVec.ult_iff_toNat_lt
theorem Cond.holds_geu (x y : Word) : Cond.geu.holds x y = true ↔ y.toNat ≤ x.toNat := by
  simp [Cond.holds, BitVec.ult_eq_decide]

/-! ### Jumps and lea -/

section
variable {s : State} {d a : XReg} {bt k : Nat} {st : Strand}

theorem exec_jal_of_issues (hi : s.Issues { wx := [d] } bt k st) (off : BitVec 20) :
    exec (.jal d off) s = .next (s.setStrand bt k ((st.wx d (st.pc + 4)).goto (st.pc + off.signExtend 64 * 4))) := by
  rw [← target_eq]
  exact State.local_of_issues hi _

theorem exec_lea_of_issues (hi : s.Issues { wx := [d] } bt k st) (off : BitVec 20) :
    exec (.lea d off) s = .next (s.setStrand bt k (st.wx d (st.pc + off.signExtend 64 * 4)).next) := by
  rw [← target_eq]
  exact State.local_of_issues hi _

theorem extractLsb'_two_eq_zero_iff (x : Word) : x.extractLsb' 0 2 = 0 ↔ x.toNat % 4 = 0 := by
  simp [← BitVec.toNat_inj, BitVec.extractLsb'_toNat]

/-- R117: `jr` reads its target before it links, and links only where the target is aligned. -/
theorem exec_jr_of_issues (hi : s.Issues { rx := [a], wx := [d] } bt k st) (imm : BitVec 15) :
    exec (.jr d a imm) s =
      if (st.rx a + imm.signExtend 64).toNat % 4 = 0 then
        .next (s.setStrand bt k ((st.wx d (st.pc + 4)).goto (st.rx a + imm.signExtend 64)))
      else .next (s.trap bt k st 0x0002) := by
  have h : exec (.jr d a imm) s = execJr d a imm s := rfl
  rw [h, execJr, State.issue_of_issues hi]
  simp only [ne_eq, ite_not, extractLsb'_two_eq_zero_iff]

end

/-! ### Loops -/

section
variable {s : State} {bt k : Nat} {st : Strand}

/-- R120: `lbeg`. -/
theorem exec_lbeg_of_issues {a : XReg} (hi : s.Issues { rx := [a] } bt k st) (lv : BitVec 1) (off : BitVec 12) :
    exec (.lbeg lv a off) s = .next (s.setStrand bt k
      (if st.rx a = 0 then st.goto (st.pc + off.signExtend 64 * 4 + 4)
       else (st.setLoop lv { start := st.pc + 4, stop := st.pc + off.signExtend 64 * 4, remaining := st.rx a, active := true }).next)) := by
  rw [← target_eq]
  exact State.local_of_issues hi _

variable (hi : s.Issues {} bt k st) (lv : BitVec 1)
include hi

theorem exec_lend_of_issues : exec (.lend lv) s =
    if (st.loop lv).active = false ∨ st.pc ≠ (st.loop lv).stop then .next (s.trap bt k st 0x0001)
    else if (st.loop lv).remaining - 1 ≠ 0 then
      .next (s.setStrand bt k ((st.setLoop lv { st.loop lv with remaining := (st.loop lv).remaining - 1 }).goto (st.loop lv).start))
    else .next (s.setStrand bt k
      (st.setLoop lv { st.loop lv with remaining := (st.loop lv).remaining - 1, active := false }).next) :=
  State.issue_of_issues hi _

/-- R120: a `lend` that ends no active loop traps. -/
theorem exec_lend_of_no_loop (h : (st.loop lv).active = false ∨ st.pc ≠ (st.loop lv).stop) :
    exec (.lend lv) s = .next (s.trap bt k st 0x0001) := by
  rw [exec_lend_of_issues hi, if_pos h]

/-- R120: a `lend` with iterations left goes round. -/
theorem exec_lend_of_more (ha : (st.loop lv).active = true) (hp : st.pc = (st.loop lv).stop)
    (hr : (st.loop lv).remaining - 1 ≠ 0) :
    exec (.lend lv) s = .next (s.setStrand bt k
      ((st.setLoop lv { st.loop lv with remaining := (st.loop lv).remaining - 1 }).goto (st.loop lv).start)) := by
  rw [exec_lend_of_issues hi, if_neg (by simp [ha, hp]), if_pos hr]

/-- R120: a `lend` of the last iteration ends its loop. -/
theorem exec_lend_of_last (ha : (st.loop lv).active = true) (hp : st.pc = (st.loop lv).stop)
    (hr : (st.loop lv).remaining = 1) :
    exec (.lend lv) s = .next (s.setStrand bt k
      (st.setLoop lv { st.loop lv with remaining := 0, active := false }).next) := by
  rw [exec_lend_of_issues hi, if_neg (by simp [ha, hp]), hr, if_neg (by decide)]
  rfl

end

/-! ### No operation -/

/-- R61: a write to x0 is discarded. -/
theorem Strand.wx_zero (st : Strand) (v : Word) : st.wx 0 v = st := rfl

/-- R61: x0 waits for nothing and is never poisoned, so an instruction of x0 alone issues where one of no register does. -/
theorem State.issues_x0 {s : State} {bt k : Nat} {st : Strand} (hi : s.Issues {} bt k st) :
    s.Issues { rx := [0], wx := [0] } bt k st := by
  obtain ⟨hcur, hblock, -⟩ := hi
  refine ⟨hcur, ?_, rfl⟩
  rw [← hblock, Strand.blocking, Strand.blocking]
  refine List.filter_congr fun o _ => ?_
  cases o.dest with
  | none => rfl
  | x d full => by_cases h : d = 0 <;> simp [h]
  | f d => rfl

/-- R119: an `addi` to x0 has no effect. -/
theorem exec_addi_x0_of_issues {s : State} {bt k : Nat} {st : Strand} (hi : s.Issues {} bt k st) (imm : BitVec 15) :
    exec (.addi 0 0 imm) s = .next (s.setStrand bt k st.next) :=
  (State.local_of_issues (State.issues_x0 hi) _).trans (by rw [Strand.wx_zero])

end Sys2Proof.Machine
end

section
/-! PROOFS. The statements of branches, jumps, loops and nop. -/

open Sys2Proof Sys2Proof.Machine

namespace Sys2Proof.Proofs

/-- Settles O6: each branch is decided by its condition, and each jump by its lemma. -/
theorem branchAndJumpResults : Obligations.BranchAndJumpResults := by
  unfold Obligations.BranchAndJumpResults
  intro s d a b c f n off off20 imm bt k st go
  refine ⟨fun hi => ?_, fun hi => ?_, fun hi => ?_, fun hi => ?_, fun hi => exec_jr_of_issues hi imm⟩
  · exact ⟨State.branchX_of_issues hi off (Cond.holds_eq ..), State.branchX_of_issues hi off (Cond.holds_ne ..),
      State.branchX_of_issues hi off (Cond.holds_lt ..), State.branchX_of_issues hi off (Cond.holds_ge ..),
      State.branchX_of_issues hi off (Cond.holds_ltu ..), State.branchX_of_issues hi off (Cond.holds_geu ..)⟩
  · exact ⟨State.local_branch_of_issues hi off Iff.rfl, State.local_branch_of_issues hi off (Bool.not_eq_true' _).to_iff⟩
  · exact ⟨State.local_branch_of_issues hi off decide_eq_true_iff, State.local_branch_of_issues hi off decide_eq_true_iff⟩
  · exact ⟨exec_jal_of_issues hi off20, exec_lea_of_issues hi off20⟩

/-- Settles O7: the two loop instructions by their cases; nop, and an `addi` of x0 alone, go on with the next word. -/
theorem loopsAndNop : Obligations.LoopsAndNop := by
  unfold Obligations.LoopsAndNop
  refine ⟨fun s a lv off bt k st => ⟨fun hi => exec_lbeg_of_issues hi lv off, fun hi => ?_⟩, by decide, fun s imm bt k st hi => ?_⟩
  · exact ⟨exec_lend_of_no_loop hi lv, exec_lend_of_more hi lv, exec_lend_of_last hi lv⟩
  · exact ⟨State.local_of_issues hi _, exec_addi_x0_of_issues hi imm⟩

end Sys2Proof.Proofs
end

section
/-! PROOFS. The class mask (R128): the class that the mask names, and the mask as a bit of the class and a bit of the count. -/

namespace Sys2Proof.Machine

/-! ### Sign, exponent and fraction of an FP32 encoding -/

/-- R26: the fields of an encoding are its number's digits to the bases 2^23 and 2^8, and its sign. -/
theorem fp32_fields (v : Word32) :
    (v.extractLsb' 23 8).toNat = v.toNat / 2 ^ 23 % 256 ∧ (v.extractLsb' 0 23).toNat = v.toNat % 2 ^ 23 ∧
      v.msb = decide (2 ^ 31 ≤ v.toNat) := by
  refine ⟨?_, ?_, BitVec.msb_eq_decide v⟩
  · rw [BitVec.extractLsb'_toNat, Nat.shiftRight_eq_div_pow]
  · rw [BitVec.extractLsb'_toNat, Nat.shiftRight_zero]

/-- The bit of `fclass` that says the class of a value of these fields (R128). -/
def classBit (neg : Bool) (e fr : Nat) : Nat :=
  if e = 255 then (if fr ≠ 0 then 8 else if neg then 0 else 7)
  else if e = 0 then (if fr = 0 then (if neg then 3 else 4) else if neg then 2 else 5)
  else if neg then 1 else 6

def FVal.classBit (x : FVal) : Nat :=
  Machine.classBit x.v.msb (x.v.extractLsb' 23 8).toNat (x.v.extractLsb' 0 23).toNat

/-- The mask is the bit of the class, and bit 9 beside it. -/
theorem fclassMask_eq (x : FVal) :
    fclassMask x = 2 ^ x.classBit + if (x.v.extractLsb' 23 8).toNat = 255 ∨ x.c.toNat < 24 then 2 ^ 9 else 0 := by
  obtain ⟨he, hf, hn⟩ := fp32_fields x.v
  rw [FVal.classBit, he, hf, hn]
  rfl

/-- An encoding is known by its sign, exponent and fraction. -/
theorem fp32_eq_iff_fields (v u : Word32) :
    v = u ↔ v.msb = u.msb ∧ (v.extractLsb' 23 8).toNat = (u.extractLsb' 23 8).toNat ∧
      (v.extractLsb' 0 23).toNat = (u.extractLsb' 0 23).toNat := by
  refine ⟨fun h => h ▸ ⟨rfl, rfl, rfl⟩, fun ⟨hn, he, hf⟩ => BitVec.eq_of_toNat_eq ?_⟩
  obtain ⟨hve, hvf, hvn⟩ := fp32_fields v
  obtain ⟨hue, huf, hun⟩ := fp32_fields u
  rw [hve, hue] at he
  rw [hvf, huf] at hf
  rw [hvn, hun, decide_eq_decide] at hn
  have hv := v.isLt
  have hu := u.isLt
  omega

/-! ### Which class -/

theorem classBit_lt (neg : Bool) (e fr : Nat) : classBit neg e fr < 9 := by
  unfold classBit
  split_ifs <;> decide

/-- R128: what the class bit says of the fields, class by class. -/
theorem classBit_eq_iff (neg : Bool) (e fr : Nat) :
    (classBit neg e fr = 0 ↔ neg = true ∧ e = 255 ∧ fr = 0) ∧
    (classBit neg e fr = 1 ↔ neg = true ∧ e ≠ 0 ∧ e ≠ 255) ∧
    (classBit neg e fr = 2 ↔ neg = true ∧ e = 0 ∧ fr ≠ 0) ∧
    (classBit neg e fr = 3 ↔ neg = true ∧ e = 0 ∧ fr = 0) ∧
    (classBit neg e fr = 4 ↔ neg = false ∧ e = 0 ∧ fr = 0) ∧
    (classBit neg e fr = 5 ↔ neg = false ∧ e = 0 ∧ fr ≠ 0) ∧
    (classBit neg e fr = 6 ↔ neg = false ∧ e ≠ 0 ∧ e ≠ 255) ∧
    (classBit neg e fr = 7 ↔ neg = false ∧ e = 255 ∧ fr = 0) ∧
    (classBit neg e fr = 8 ↔ e = 255 ∧ fr ≠ 0) := by
  unfold classBit
  by_cases h255 : e = 255
  · by_cases hf : fr = 0 <;> cases neg <;> simp [h255, hf]
  · by_cases h0 : e = 0
    · by_cases hf : fr = 0 <;> cases neg <;> simp [h0, hf]
    · cases neg <;> simp [h255, h0]

/-! ### The mask as a word -/

/-- A mask of one class bit, with bit 9 or without: its bits, one by one and together. -/
theorem mask_bits : ∀ (n : Fin 9) (q : Bool),
    let m : Word := BitVec.ofNat 64 (2 ^ n.val + if q = true then 2 ^ 9 else 0)
    (∀ i : Fin 9, m.getLsbD i = decide (n.val = i.val)) ∧ m.getLsbD 9 = q ∧ m.extractLsb' 0 9 = BitVec.twoPow 9 n ∧
      m.extractLsb' 10 54 = 0 := by decide

/-- R128: the mask of a value sets the bit of its class alone of bits 8 to 0, bit 9 by its count and exponent, and no other. -/
theorem fclassMask_bits (x : FVal) :
    let m : Word := BitVec.ofNat 64 (fclassMask x)
    (∀ i, i < 9 → (m.getLsbD i = true ↔ x.classBit = i)) ∧
    (m.getLsbD 9 = true ↔ x.c.toNat < 24 ∨ (x.v.extractLsb' 23 8).toNat = 255) ∧
    m.extractLsb' 0 9 = BitVec.twoPow 9 x.classBit ∧ m.extractLsb' 10 54 = 0 := by
  obtain ⟨hcls, hcnt, hone, hzero⟩ := mask_bits ⟨x.classBit, classBit_lt ..⟩
    (decide ((x.v.extractLsb' 23 8).toNat = 255 ∨ x.c.toNat < 24))
  simp only [decide_eq_true_eq, ← fclassMask_eq] at hcls hcnt hone hzero
  refine ⟨fun i hi => ?_, ?_, hone, hzero⟩
  · rw [hcls ⟨i, hi⟩, decide_eq_true_eq]
  · rw [hcnt, decide_eq_true_eq, or_comm]

end Sys2Proof.Machine
end

section
/-! PROOFS. The statement of the class mask. -/

open Sys2Proof Sys2Proof.Machine

namespace Sys2Proof.Proofs

/-- Settles O9: the mask's bit i is the class bit i, which the sign, exponent and fraction decide. -/
theorem classMask : Obligations.ClassMask := by
  unfold Obligations.ClassMask
  intro s d a b k st hi x e fr normal subnormal
  obtain ⟨hcls, hcnt, hone, hzero⟩ := fclassMask_bits x
  obtain ⟨h0, h1, h2, h3, h4, h5, h6, h7, h8⟩ := classBit_eq_iff x.v.msb e fr
  refine ⟨BitVec.ofNat 64 (fclassMask x), State.local_of_issues hi _, ?_, ?_, ?_, ?_, ?_, ?_, ?_, ?_, ?_, hcnt,
    ⟨x.classBit, classBit_lt .., hone⟩, hzero⟩
  · exact (hcls 0 (by decide)).trans (h0.trans (fp32_eq_iff_fields x.v 0xFF800000).symm)
  · exact (hcls 1 (by decide)).trans h1
  · exact (hcls 2 (by decide)).trans h2
  · exact (hcls 3 (by decide)).trans (h3.trans (fp32_eq_iff_fields x.v 0x80000000).symm)
  · exact (hcls 4 (by decide)).trans (h4.trans (fp32_eq_iff_fields x.v 0).symm)
  · exact (hcls 5 (by decide)).trans h5
  · exact (hcls 6 (by decide)).trans h6
  · exact (hcls 7 (by decide)).trans (h7.trans (fp32_eq_iff_fields x.v 0x7F800000).symm)
  · exact (hcls 8 (by decide)).trans h8

end Sys2Proof.Proofs
end

section
/-! PROOFS. Encoded words (R82 to R92): fields that are built of smaller ones, and the decoder on the encoder's words. -/

namespace Sys2Proof

/-! ### Fields that are built of smaller ones -/

@[simp] theorem encShift_amount (k : BitVec 2) (n : BitVec 6) : (encShift k n).extractLsb' 0 6 = n := by
  simp (disch := omega) only [encShift, extract_append_low, BitVec.extractLsb'_eq_self]

@[simp] theorem encShift_kind (k : BitVec 2) (n : BitVec 6) : (encShift k n).extractLsb' 6 2 = k := by
  simp (disch := omega) only [encShift, extract_append_low, extract_append_high, Nat.reduceSub, BitVec.extractLsb'_eq_self]

@[simp] theorem encShift_reserved (k : BitVec 2) (n : BitVec 6) : (encShift k n).extractLsb' 8 7 = 0#7 := by
  simp (disch := omega) only [encShift, extract_append_high, Nat.reduceSub, BitVec.extractLsb'_eq_self]

@[simp] theorem reduceField_op (k : BitVec 2) (l : VLvl) : (k ++ l.code ++ 0#3).extractLsb' 5 2 = k := by
  simp (disch := omega) only [extract_append_high, Nat.reduceSub, BitVec.extractLsb'_eq_self]

@[simp] theorem reduceField_level (k : BitVec 2) (l : VLvl) : (k ++ l.code ++ 0#3).extractLsb' 3 2 = l.code := by
  simp (disch := omega) only [extract_append_low, extract_append_high, Nat.reduceSub, BitVec.extractLsb'_eq_self]

@[simp] theorem reduceField_reserved (k : BitVec 2) (l : VLvl) : (k ++ l.code ++ 0#3).extractLsb' 0 3 = 0#3 := by
  simp (disch := omega) only [extract_append_low, BitVec.extractLsb'_eq_self]

theorem append_low_part {m n : Nat} (x : BitVec m) (y : BitVec n) : (x ++ y).extractLsb' 0 n = y := by
  simp (disch := omega) only [extract_append_low, BitVec.extractLsb'_eq_self]

theorem append_high_part {m n : Nat} (x : BitVec m) (y : BitVec n) : (x ++ y).extractLsb' n m = x := by
  simp (disch := omega) only [extract_append_high, Nat.sub_self, BitVec.extractLsb'_eq_self]

theorem append_of_two_parts (q : BitVec 14) : q.extractLsb' 7 7 ++ q.extractLsb' 0 7 = q := by
  ext i hi
  simp
  grind

theorem append_of_three_parts (q : BitVec 17) : q.extractLsb' 10 7 ++ q.extractLsb' 3 7 ++ q.extractLsb' 0 3 = q := by
  ext i hi
  simp
  grind

theorem ofBool_eq_one (w : Bool) : (BitVec.ofBool w == 1#1) = w := by cases w <;> rfl

/-- The m[2] of a saturating form is no rounding of its type. -/
theorem VTy.not_sat_of_rndOk {t : VTy} {r : Bool} (h : t.rndOk r = true) : ¬(t = .i32 ∧ r = true) := by
  rintro ⟨rfl, rfl⟩
  cases h

end Sys2Proof

open Sys2Proof

namespace Sys2Proof.Proofs

/-- Settles O56: each group of R85 and R91 reads its fields back, where the limits that make the instruction well formed are the
decoder's own conditions. -/
theorem encodedWordsDecode : Obligations.EncodedWordsDecode := by
  unfold Obligations.EncodedWordsDecode
  intro i w hi hw
  cases i with
  -- R86, R87: integer instructions, immediates and bit fields
  | add d a b t | sub d a b t | mul d a b t | mulh d a b t | div d a b t | rem d a b t | and d a b t | or d a b t | xor d a b t
  | sll d a b t | srl d a b t | sra d a b t | min d a b t | max d a b t | clz d a t | ctz d a t | popc d a t =>
    cases hw
    exact .inl ((decodeSeq_01 _).trans (by simp [decInt]))
  | sext d a t | zext d a t =>
    cases hw
    exact .inl ((decodeSeq_01 _).trans (by simp [decInt, need_true (c := t.extOk) hi]))
  | addi => cases hw; exact .inl (decodeSeq_02 _)
  | andi => cases hw; exact .inl (decodeSeq_03 _)
  | ori => cases hw; exact .inl (decodeSeq_04 _)
  | xori => cases hw; exact .inl (decodeSeq_05 _)
  | slli d a n | srli d a n | srai d a n => cases hw; exact .inl ((decodeSeq_06 _).trans (by simp [decShift]))
  | liZ | liK => cases hw; exact .inl (decodeSeq_07 _)
  | bfx d a p n | bfi d a p n =>
    cases hw
    simp only [WellFormed] at hi
    exact .inl ((decodeSeq_08 _).trans (by simp only [decBf, need_true hi]; rfl))
  -- R87: compares, selects, work identifiers, branches and loops
  | cmpEq d a b | cmpNe d a b | cmpLt d a b | cmpGe d a b | cmpLtu d a b | cmpGeu d a b =>
    cases hw
    exact .inl ((decodeSeq_09 _).trans (by simp [decCmp]))
  | cselX d c a b | cselF d c a b => cases hw; exact .inl ((decodeSeq_0A _).trans (by simp [decCsel]))
  | lea => cases hw; exact .inl (decodeSeq_0B _)
  | widf d k =>
    cases hw
    simp only [WellFormed] at hi
    exact .inl ((decodeSeq_0C _).trans (by simp only [decWid, need_true hi]; rfl))
  | widNext d => cases hw; exact .inl (decodeSeq_0C _)
  | brEq | brNe | brLt | brGe | brLtu | brGeu => cases hw; exact .inl (decodeSeq_10 _)
  | bcS c off | bcC c off => cases hw; exact .inl ((decodeSeq_11 _).trans (by simp [decBc]))
  | bsigLt a n off | bsigGe a n off =>
    cases hw
    simp only [WellFormed] at hi
    exact .inl ((decodeSeq_12 _).trans (by simp only [decBsig, need_true hi, fReg_fField]; rfl))
  | jal => cases hw; exact .inl (decodeSeq_13 _)
  | jr => cases hw; exact .inl (decodeSeq_14 _)
  | lbeg lv a off =>
    cases hw
    simp only [WellFormed] at hi
    exact .inl ((decodeSeq_15 _).trans (by
      simp only [decLbeg, need_true hi, append_low_part, append_high_part]; rfl))
  -- R88: scalar floating point
  | fadd d a b r | fsub d a b r | fmul d a b r | fdiv d a b r | fsqrt d a r | fmin d a b | fmax d a b | fabs d a | fneg d a
  | fcmpEq d a b | fcmpLt d a b | fcmpLe d a b | fcmpNe d a b | fclass d a | fmov d a | fmovXf d a | fmovFx d a | fsig d a
  | fsigset d a =>
    cases hw
    exact .inl ((decodeSeq_20 _).trans (by simp [decFp]))
  | fcvtFx d a f r | fcvtXf d a f r | fcvtFf d a f r =>
    cases hw
    simp only [WellFormed] at hi
    exact .inl ((decodeSeq_20 _).trans (by simp [decFp, need_true hi]))
  | fma d a b c r => cases hw; exact .inl ((decodeSeq_21 _).trans (by simp [decFma]))
  -- R89: memory, fences and barriers
  | ld d a sc o t off => cases hw; exact .inl ((decodeSeq_28 _).trans (by simp [decMem, need_true (c := o.loadOk) hi]))
  | st d a sc o t off => cases hw; exact .inl ((decodeSeq_29 _).trans (by simp [decMem, need_true (c := o.storeOk) hi]))
  | ldt d a sc o off =>
    cases hw
    exact .inl ((decodeSeq_2A _).trans (by simp [decMem, need_true (c := o.loadOk) hi, ITy.ofCode]))
  | stt d a sc o off =>
    cases hw
    exact .inl ((decodeSeq_2B _).trans (by simp [decMem, need_true (c := o.storeOk) hi, ITy.ofCode]))
  | ldfe d a sc t off => cases hw; exact .inl ((decodeSeq_2C _).trans (by simp [decMem, Order.ofCode]))
  | stfe d a sc t off => cases hw; exact .inl ((decodeSeq_2D _).trans (by simp [decMem, Order.ofCode]))
  | ldnb d a sc t off => cases hw; exact .inl ((decodeSeq_2E _).trans (by simp [decMem, Order.ofCode]))
  | amoSwap d a b sc o w | amoCas d a b sc o w | amoAdd d a b sc o w | amoFadd d a b sc o | amoAnd d a b sc o w
  | amoOr d a b sc o w | amoXor d a b sc o w | amoMin d a b sc o w | amoMax d a b sc o w | amoMinu d a b sc o w
  | amoMaxu d a b sc o w =>
    cases hw
    exact .inl ((decodeSeq_2F _).trans (by simp [decAmo, ofBool_eq_one]))
  | fence sc => cases hw; exact .inl ((decodeSeq_30 _).trans (by simp [decFence]))
  | barInit a sc h | barArrive d sc h | barWait a sc h | barTest d a sc h =>
    cases hw
    simp only [WellFormed] at hi
    exact .inl ((decodeSeq_31 _).trans (by simp [decBar, need_true hi]))
  | publish h => cases hw; exact .inl (decodeSeq_32 _)
  -- R89: cells, rendezvous, sink, walks, engines, queues and channels
  | cell d a b c | cellm d a b c | cellv d a b c | inj d a b c =>
    cases hw
    exact .inl ((decodeSeq_38 _).trans (by simp [decCell, need_true (c := clOk c) hi]))
  | rvres d e | rvrel a e => cases hw; exact .inl ((decodeSeq_39 _).trans (by simp [decRv]))
  | sinkX d n | sinkF d n => cases hw; exact .inl ((decodeSeq_3A _).trans (by simp [decSink]))
  | walk d a b c | walkb d a b c =>
    cases hw
    exact .inl ((decodeSeq_3B _).trans (by simp [decWalk, need_true (c := clOk c) hi]))
  | wlst d a b => cases hw; exact .inl (decodeSeq_3B _)
  | mxGang a | sxCfg a => cases hw; exact .inl (decodeSeq_3C _)
  | iqPush a h | iqTest d h =>
    cases hw
    simp only [WellFormed] at hi
    exact .inl ((decodeSeq_3D _).trans (by simp only [decIq, need_true hi]; rfl))
  | rmark a => cases hw; exact .inl (decodeSeq_3E _)
  | chopen a h | rld d a h | rst d a h | chsend a h | chrecv a h =>
    cases hw
    simp only [WellFormed] at hi
    exact .inl ((decodeSeq_40 _).trans (by simp only [decChan, need_true hi]; rfl))
  -- R85: strands, collectives, system and control registers
  | split | yield | exit | exitAbandon => cases hw; exact .inl (decodeSeq_41 _)
  | scarf | scarfWait | rankmap => cases hw; exact .inl (decodeSeq_42 _)
  | nop | trap | rft | ident => cases hw; exact .inl (decodeSeq_50 _)
  | lend lv => cases hw; exact .inl ((decodeSeq_50 _).trans (by simp only [decSys, append_low_part, append_high_part]; rfl))
  | ctlRd d n =>
    cases hw
    simp only [WellFormed, Bool.and_eq_true, decide_eq_true_eq] at hi
    exact .inl ((decodeSeq_51 _).trans (by simp [decCtl, hi]))
  | ctlWr | evqRead | votelogRead => cases hw; exact .inl (decodeSeq_51 _)
  -- R91: op-words of two sources
  | vadd t d a b r y x | vsub t d a b r y x | vmul t d a b r y x =>
    cases hw
    simp only [WellFormed, Bool.and_eq_true] at hi
    exact .inr (by simp [decodeOpw, OpW.of_pack, OpW.two, OpW.t, VTy.not_sat_of_rndOk, hi])
  | vaddSat d a b y x | vsubSat d a b y x | vmulSat d a b y x =>
    cases hw
    simp only [WellFormed, Bool.and_eq_true] at hi
    exact .inr (by simp [decodeOpw, OpW.of_pack, OpW.two, OpW.t, VTy.ofCode, hi])
  | vfma t d a b r y x | vmin t d a b y x | vmax t d a b y x | vcmpEq t d a b y x | vcmpLt t d a b y x | vcmpLe t d a b y x
  | vcmpNe t d a b y x =>
    cases hw
    simp only [WellFormed, Bool.and_eq_true] at hi
    exact .inr (by simp [decodeOpw, OpW.of_pack, OpW.two, OpW.t, hi])
  | vdiv d a b r y x | vselL0 d a b y x | vselL1 d a b y x | vand d a b y x | vor d a b y x | vxor d a b y x | vshl d a b y x
  | vshrL d a b y x | vshrA d a b y x | vperm d a b y x | vrec d a b y x =>
    cases hw
    simp only [WellFormed, Bool.and_eq_true] at hi
    exact .inr (by simp [decodeOpw, OpW.of_pack, OpW.two, OpW.untyped, hi])
  -- R91: op-words of one source
  | vabs t d a x | vneg t d a x =>
    cases hw
    simp only [WellFormed, Bool.and_eq_true] at hi
    exact .inr (by simp [decodeOpw, OpW.of_pack, OpW.one, OpW.t, hi])
  | vrcp d a x | vrsqrt d a x | vsqrt d a r x | vexp2 d a x | vlog2 d a x | vnot d a x =>
    cases hw
    simp only [WellFormed, Bool.and_eq_true] at hi
    exact .inr (by simp [decodeOpw, OpW.of_pack, OpW.one, OpW.untyped, hi])
  | vcvt t d a f r x | vquant t d a f x | vdequant t d a f x =>
    cases hw
    simp only [WellFormed, Bool.and_eq_true, decide_eq_true_eq] at hi
    exact .inr (by simp [decodeOpw, OpW.of_pack, OpW.flat, OpW.t, hi])
  | vredAdd t d a l r x | vredMin t d a l r x | vredMax t d a l r x | vscanAdd t d a l r x | vscanMin t d a l r x
  | vscanMax t d a l r x =>
    cases hw
    simp only [WellFormed, Bool.and_eq_true] at hi
    exact .inr (by simp [decodeOpw, decReduce, OpW.of_pack, OpW.flat, OpW.t, hi])
  | vbcast d a n x =>
    cases hw
    simp only [WellFormed, Bool.and_eq_true] at hi
    exact .inr (by
      simp only [decodeOpw, OpW.of_pack, append_low_part, append_high_part]
      simp [OpW.flat, OpW.untyped, hi])
  | vsigLt t d a n x | vsigGe t d a n x | vsigCnt t d a n x =>
    cases hw
    simp only [WellFormed, Bool.and_eq_true, decide_eq_true_eq] at hi
    exact .inr (by
      simp only [decodeOpw, decVsig, OpW.of_pack, append_low_part, append_high_part]
      simp [OpW.flat, OpW.t, hi])
  -- R91: cells, tiles and control
  | cin d a x | cout d a x =>
    cases hw
    simp only [WellFormed, Bool.and_eq_true] at hi
    exact .inr (by simp [decodeOpw, OpW.of_pack, OpW.untyped, hi])
  | cfwd a e x =>
    cases hw
    simp only [WellFormed] at hi
    exact .inr (by
      simp only [decodeOpw, OpW.of_pack, append_low_part, append_high_part]
      simp [OpW.untyped, hi])
  | tcfg d q | tcfgDiscard d q =>
    cases hw
    simp only [WellFormed, Bool.and_eq_true] at hi
    exact .inr (by simp [decodeOpw, OpW.of_pack, OpW.untyped, append_of_three_parts, hi])
  | vloop n l =>
    cases hw
    simp only [WellFormed, Bool.and_eq_true, decide_eq_true_eq] at hi
    exact .inr (by simp [decodeOpw, decVloop, OpW.of_pack, OpW.untyped, append_of_two_parts, hi])
  | vbrAll a off x | vbrAny a off x =>
    cases hw
    simp only [WellFormed] at hi
    exact .inr (by simp [decodeOpw, OpW.of_pack, OpW.untyped, append_of_two_parts, hi])
  | vend => cases hw; exact .inr rfl
  -- the steps of units have no encoding
  | _ => cases hw

end Sys2Proof.Proofs
end

section
/-! PROOFS. Answers that have a property, and the operations that leave the memory as it was. -/

open Sys2Proof

namespace Sys2Proof.Machine

/-! ### Answers -/

@[simp] theorem Out.holds_next (P : State → Prop) (t : State) : Out.Holds P (.next t) ↔ P t := Iff.rfl
@[simp] theorem Out.holds_fault (P : State → Prop) (f : Fault) : Out.Holds P (.fault f) ↔ True := Iff.rfl
@[simp] theorem Out.holds_refused (P : State → Prop) (r : Refusal) : Out.Holds P (.refused r) ↔ True := Iff.rfl
@[simp] theorem Out.holds_ite (P : State → Prop) (c : Prop) [Decidable c] (x y : Out) :
    Out.Holds P (if c then x else y) ↔ (c → Out.Holds P x) ∧ (¬ c → Out.Holds P y) := by
  split <;> simp [*]

theorem State.foldl_mem {α : Type} (f : State → α → State) (h : ∀ t a, (f t a).mem = t.mem) (l : List α) (s : State) :
    (l.foldl f s).mem = s.mem := by
  induction l generalizing s with
  | nil => rfl
  | cons a l ih => rw [List.foldl_cons, ih, h]

theorem State.foldl_fst_mem {α β : Type} (f : State × β → α → State × β) (h : ∀ r a, (f r a).1.mem = r.1.mem) (l : List α)
    (r : State × β) : (l.foldl f r).1.mem = r.1.mem := by
  induction l generalizing r with
  | nil => rfl
  | cons a l ih => rw [List.foldl_cons, ih, h]

/-! ### Operations that leave the memory as it was -/

@[simp] theorem State.trap_mem (s : State) (b k : Nat) (st : Strand) (cause : BitVec 16) :
    (s.trap b k st cause).mem = s.mem := s.takeTrap_mem b k st cause none []
@[simp] theorem State.updOwner_mem (s : State) (lid ob os : Nat) (f : Strand → Strand) :
    (s.updOwner lid ob os f).mem = s.mem := by unfold State.updOwner; (repeat' split) <;> simp
@[simp] theorem State.raiseTrap_mem (s : State) (lid ob os : Nat) (p : PendTrap) : (s.raiseTrap lid ob os p).mem = s.mem := by
  unfold State.raiseTrap; split <;> simp [State.launchFault_mem]
@[simp] theorem State.release_mem (s : State) (b : Nat) (st : Strand) (sc : Scope) (obj : Nat) :
    (s.release b st sc obj).mem = s.mem := by simp [State.release]
@[simp] theorem State.acquire_mem (s : State) (b : Nat) (st : Strand) (sc : Scope) (objs : List Nat) :
    (s.acquire b st sc objs).mem = s.mem := by simp [State.acquire]
@[simp] theorem State.tick_mem (s : State) (lid key : Nat) : (s.tick lid key).mem = s.mem := by simp [State.tick]
@[simp] theorem State.leave_mem (s : State) (w : Writer) (sc : Scope) (keep : Bool) (objs : List Nat) :
    (s.leave w sc keep objs).mem = s.mem := by simp [State.leave]
@[simp] theorem State.wrote_mem (s : State) (c : Cell) (d : Side) : (s.wrote c d).mem = s.mem := by
  unfold State.wrote; split <;> simp
@[simp] theorem State.postEvent_mem (s : State) (lid ob os : Nat) (e : EvEntry) : (s.postEvent lid ob os e).mem = s.mem := by
  unfold State.postEvent; (repeat' split) <;> simp
@[simp] theorem State.journal_mem (s : State) (p seq : Nat) (f : Journal → Journal) : (s.journal p seq f).mem = s.mem := by rfl
@[simp] theorem State.journalState_mem (s : State) (p seq state : Nat) : (s.journalState p seq state).mem = s.mem := by rfl
@[simp] theorem State.progress_mem (s : State) (lid : Nat) : (s.progress lid).mem = s.mem := by simp [State.progress]
@[simp] theorem State.addMiss_mem (s : State) (ctx : Nat) (host write : Bool) (va b src : Nat) :
    (s.addMiss ctx host write va b src).mem = s.mem := by rfl
@[simp] theorem State.queueScrub_mem (s : State) (page owner : Nat) : (s.queueScrub page owner).mem = s.mem := by
  unfold State.queueScrub; split <;> rfl
@[simp] theorem State.park_mem (s : State) (b k : Nat) (st : Strand) (w : Wait) : (s.park b k st w).mem = s.mem := by rfl
@[simp] theorem State.saveCont_mem (s : State) (b k : Nat) (st : Strand) (c : Cont) (ready : Bool) :
    (s.saveCont b k st c ready).mem = s.mem := by unfold State.saveCont; extract_lets; split <;> simp [State.launchFault_mem]
@[simp] theorem State.putSlotOrCont_mem (s : State) (b k : Nat) (inSlot : Bool) (st : Strand) :
    (s.putSlotOrCont b k inSlot st).mem = s.mem := by unfold State.putSlotOrCont; split <;> simp
@[simp] theorem State.updGranule_mem (s : State) (loc : Nat) (f : Granule → Granule) : (s.updGranule loc f).mem = s.mem := by
  unfold State.updGranule; split <;> rfl
@[simp] theorem State.fill_mem (s : State) (lid loc : Nat) : (s.fill lid loc).mem = s.mem := by
  unfold State.fill
  split
  · rfl
  · simp only [State.updLaunch_mem, State.updBent_mem]
    exact State.foldl_mem _ (fun t d => by split <;> simp) _ _
@[simp] theorem State.mapStrands_mem (s : State) (lid : Nat) (f : Strand → Strand) : (s.mapStrands lid f).mem = s.mem := by
  unfold State.mapStrands; exact State.foldl_mem _ (by intros; rfl) _ _
@[simp] theorem State.holdAtom_mem (s : State) (b k : Nat) (st : Strand) (o : MemOp) (c : Nat) :
    (s.holdAtom b k st o c).mem = s.mem := by simp only [State.holdAtom]; (repeat' split) <;> simp [State.launchFault_mem]
@[simp] theorem State.markWrite_mem (s : State) (w : Writer) (loc n : Nat) : (s.markWrite w loc n).mem = s.mem := by
  unfold State.markWrite; split <;> simp
@[simp] theorem State.feRead_mem (s : State) (b k : Nat) (st : Strand) (o : MemOp) : (s.feRead b k st o).mem = s.mem := by
  simp only [State.feRead]; (repeat' split) <;> simp
@[simp] theorem State.acquired_mem (s : State) (st : Strand) (seen : Clock) : (s.acquired st seen).mem = s.mem := by
  simp [State.acquired]
@[simp] theorem State.retireLoad_mem (s : State) (b k : Nat) (st : Strand) (o : MemOp) (bytes : List Byte) (p : Bool) :
    (s.retireLoad b k st o bytes p).mem = s.mem := by simp only [State.retireLoad]; (repeat' split) <;> simp
@[simp] theorem State.retireGot_mem (s : State) (b k id : Nat) : (s.retireGot b k id).mem = s.mem := by
  simp only [State.retireGot]; (repeat' split) <;> simp
@[simp] theorem State.touchBar_mem (s : State) (st : Strand) (h g : Nat) (B : Barrier) : (s.touchBar st h g B).mem = s.mem := by
  unfold State.touchBar; split <;> simp
@[simp] theorem State.arriveClock_mem (s : State) (b : Nat) (st : Strand) (sc : Scope) (h g : Nat) (done : Bool) :
    (s.arriveClock b st sc h g done).mem = s.mem := by unfold State.arriveClock; split <;> simp
@[simp] theorem State.sendCell_mem (s : State) (b k : Nat) (st : Strand) (fn : CellFn) (d : XReg) (i : Nat) (c : Cell) :
    (s.sendCell b k st fn d i c).mem = s.mem := by rfl
@[simp] theorem State.takeSink_mem (s : State) (b k n : Nat) (st : Strand) : (s.takeSink b k n st).mem = s.mem := by
  simp [State.takeSink]
@[simp] theorem State.waitSink_mem (s : State) (b k n : Nat) (st : Strand) : (s.waitSink b k n st).mem = s.mem := by rfl
@[simp] theorem State.setWalk_mem (s : State) (b e : Nat) (w : Walk) : (s.setWalk b e w).mem = s.mem := by rfl
@[simp] theorem State.walkSend_mem (s : State) (b e : Nat) (w : Walk) (c : Cell) (img : Option Nat) :
    (s.walkSend b e w c img).mem = s.mem := by simp [State.walkSend]
@[simp] theorem State.parkWalk_mem (s : State) (b e : Nat) (w : Walk) (va : Nat) (host write : Bool) :
    (s.parkWalk b e w va host write).mem = s.mem := by unfold State.parkWalk; dsimp only; split <;> rfl
@[simp] theorem State.walkStop_mem (s : State) (b e : Nat) (w : Walk) (write : Bool) (why : WLoc) :
    (s.walkStop b e w write why).mem = s.mem := by unfold State.walkStop; split <;> simp
@[simp] theorem State.walkEvent_mem (s : State) (w : Walk) (status : BitVec 2) (loc : Option Nat) :
    (s.walkEvent w status loc).mem = s.mem := by simp [State.walkEvent]
@[simp] theorem State.walkLeave_mem (s : State) (b e : Nat) (w : Walk) : (s.walkLeave b e w).mem = s.mem := by
  simp only [State.walkLeave]; (repeat' split) <;> simp
@[simp] theorem State.ackWalk_mem (s : State) (p : Nat) (token : BitVec 32) (f : Walk → Walk) :
    (s.ackWalk p token f).mem = s.mem := by unfold State.ackWalk; split <;> rfl
@[simp] theorem State.sendMark_mem (s : State) (b k : Nat) (st : Strand) (p : Nat × Nat) :
    (s.sendMark b k st p).1.mem = s.mem := by rfl
@[simp] theorem State.sendMarks_mem (s : State) (b k : Nat) (st : Strand) (ps : NMap Nat) :
    (s.sendMarks b k st ps).1.mem = s.mem := by
  unfold State.sendMarks; exact State.foldl_fst_mem _ (fun r p => r.1.sendMark_mem b k r.2 p) _ _
@[simp] theorem State.endRound_mem (s : State) (b k : Nat) (st : Strand) : (s.endRound b k st).mem = s.mem := by
  simp [State.endRound]
@[simp] theorem State.inflUp_mem (s : State) (lid q n : Nat) (round : BitVec 16) : (s.inflUp lid q n round).mem = s.mem := by
  simp [State.inflUp]
@[simp] theorem State.pool_mem (s : State) (t : Nat) (f : Nat → Nat) : (s.pool t f).mem = s.mem := by rfl
@[simp] theorem State.sendRemote_mem (s : State) (b k : Nat) (st : Strand) (h t loc : Nat) (write : Bool) (o : MemOp) :
    (s.sendRemote b k st h t loc write o).mem = s.mem := by simp [State.sendRemote]
@[simp] theorem State.mapRegion_mem (s : State) (lid : Nat) (f : Nat → Bent → Bent) : (s.mapRegion lid f).mem = s.mem := by
  unfold State.mapRegion; exact State.foldl_mem _ (by intros; rfl) _ _
@[simp] theorem State.orphanTraps_mem (s : State) (st : Strand) : (s.orphanTraps st).mem = s.mem := by
  unfold State.orphanTraps; exact State.foldl_mem _ (fun t _ => t.launchFault_mem ..) _ _
@[simp] theorem State.endFreeze_mem (s : State) (lid : Nat) (fr : TrapFrame) : (s.endFreeze lid fr).mem = s.mem := by
  unfold State.endFreeze; split <;> rfl
@[simp] theorem State.leaveLines_mem (s : State) (b k : Nat) (st : Strand) : (s.leaveLines b k st).mem = s.mem := by
  simp [State.leaveLines]
@[simp] theorem State.readEvq_mem (s : State) (b k : Nat) (st : Strand) (d : XReg) : (s.readEvq b k st d).mem = s.mem := by
  unfold State.readEvq; split <;> rfl
@[simp] theorem State.readVotelog_mem (s : State) (b k : Nat) (st : Strand) (d : XReg) :
    (s.readVotelog b k st d).mem = s.mem := by unfold State.readVotelog; split <;> rfl
@[simp] theorem State.logCtl_mem (s : State) (b : Nat) (st : Strand) : (s.logCtl b st).mem = s.mem := by simp [State.logCtl]
@[simp] theorem State.countUe_mem (s : State) (p : Nat) (u : ErrUnit) : (s.countUe p u).mem = s.mem := by rfl
@[simp] theorem State.land_mem (s : State) (b : Nat) (x : Nat × InCell) : (s.land b x).mem = s.mem := by
  simp only [State.land]; split <;> simp [State.startRollback_mem]
@[simp] theorem State.engFault_mem (s : State) (d : Side) (cause : BitVec 16) : (s.engFault d cause).mem = s.mem := by
  simp [State.engFault]
@[simp] theorem State.eat_mem (s : State) (b e : Nat) (x : EngIn) : (s.eat b e x).mem = s.mem := by rfl
@[simp] theorem State.refuse_mem (s : State) (b e : Nat) (x : EngIn) (c : InCell) (cause : BitVec 16) :
    (s.refuse b e x c cause).mem = s.mem := by simp [State.refuse]
@[simp] theorem State.sendFbMarks_mem (s : State) (b : Nat) : (s.sendFbMarks b).mem = s.mem := by
  unfold State.sendFbMarks
  split
  · rfl
  · exact State.foldl_mem _ (fun t p => by dsimp only; split <;> rfl) _ _
@[simp] theorem State.accepted_mem (s : State) (b e : Nat) (x : OnAccept) : (s.accepted b e x).mem = s.mem := by
  simp only [State.accepted]; (repeat' split) <;> simp
@[simp] theorem State.atHold_mem (s : State) (b : Nat) (c : InCell) (loc : Nat) (bound : Option (Nat × Bool)) :
    (s.atHold b c loc bound).mem = s.mem := by simp only [State.atHold]; split <;> simp [State.launchFault_mem]
@[simp] theorem State.updCn_mem (s : State) (b : Nat) (f : Cn → Cn) : (s.updCn b f).mem = s.mem := by rfl
@[simp] theorem State.cnEmit_mem (s : State) (b q : Nat) (trig : Cell) (d : Side) (out : List Rec) (poison : Bool) (iq : Option Nat)
    (done : OnAccept) : (s.cnEmit b q trig d out poison iq done).2.mem = s.mem := by
  simp only [State.cnEmit]; split <;> rfl
@[simp] theorem State.consolidate_mem (s : State) (b q : Nat) (upto : Rec → Bool) (trig : Cell) (d : Side) (poison : Bool) :
    (s.consolidate b q upto trig d poison).mem = s.mem := by simp only [State.consolidate]; split <;> simp
@[simp] theorem State.ingest_mem (s : State) (b q : Nat) (c : InCell) : (s.ingest b q c).mem = s.mem := by
  simp only [State.ingest]; (repeat' split) <;> simp
@[simp] theorem State.edgeQueue_mem (s : State) (b : Nat) (n : BitVec 16) (q : Nat) : (s.edgeQueue b n q).mem = s.mem := by
  unfold State.edgeQueue; split <;> simp
@[simp] theorem State.forwardMarks_mem (s : State) (b : Nat) : (s.forwardMarks b).mem = s.mem := by rfl
@[simp] theorem State.sendGranted_mem (s : State) (b : Nat) : (s.sendGranted b).mem = s.mem := by
  simp only [State.sendGranted]; exact State.foldl_mem _ (by intros; rfl) _ _
@[simp] theorem State.gsMarker_mem (s : State) (b : Nat) : (s.gsMarker b).mem = s.mem := by
  simp only [State.gsMarker]; (repeat' split) <;> simp
@[simp] theorem State.updMx_mem (s : State) (b e : Nat) (f : Mx → Mx) : (s.updMx b e f).mem = s.mem := by rfl
@[simp] theorem State.setTenon_mem (s : State) (b t : Nat) (T : Tenon) : (s.setTenon b t T).mem = s.mem := by rfl
@[simp] theorem State.vxEnd_mem (s : State) (b t r : Nat) (R : Routine) (cause : BitVec 16) :
    (s.vxEnd b t r R cause).mem = s.mem := by simp [State.vxEnd]
@[simp] theorem State.vxFreeze_mem (s : State) (b t r : Nat) (R : Routine) (cause : BitVec 16) (log : List Word) :
    (s.vxFreeze b t r R cause log).mem = s.mem := by simp [State.vxFreeze]
@[simp] theorem State.vxFail_mem (s : State) (b t r : Nat) (R : Routine) (opc : Nat) (f : VFail) :
    (s.vxFail b t r R opc f).mem = s.mem := by simp [State.vxFail]
@[simp] theorem State.vxDone_mem (s : State) (b t r : Nat) (T : Tenon) (R : Routine) : (s.vxDone b t r T R).mem = s.mem := by rfl
@[simp] theorem State.settle_mem (s : State) (b t : Nat) (p : Pending) (l0 l1 : Bool) (x : Partial) (reg : VReg) (fail : Option VFail) :
    (s.settle b t p l0 l1 x reg fail).mem = s.mem := by unfold State.settle; split <;> simp
@[simp] theorem State.scanOne_mem (s : State) (b t : Nat) (p : Pending) (x : Partial) : (s.scanOne b t p x).1.mem = s.mem := by
  simp [State.scanOne]
@[simp] theorem State.closeRed_mem (s : State) (b t : Nat) (p : Pending) (l : List Partial) :
    (s.closeRed b t p l).mem = s.mem := by unfold State.closeRed; split <;> simp
@[simp] theorem State.closeUnit_mem (s : State) (b t : Nat) (p : Pending) (det : Bool) : (s.closeUnit b t p det).mem = s.mem := by
  unfold State.closeUnit; extract_lets l s1
  have h1 : s1.mem = s.mem := State.setTenon_mem ..
  split
  · split
    · exact (State.foldl_fst_mem _ (fun r x => r.1.scanOne_mem b t r.2 x) _ _).trans h1
    · exact h1
  · exact (State.closeRed_mem ..).trans h1
@[simp] theorem State.takePartial_mem (s : State) (b t : Nat) (p : Pending) (x : Partial) :
    (s.takePartial b t p x).mem = s.mem := by simp only [State.takePartial]; (repeat' split) <;> simp
@[simp] theorem State.roundUnit_mem (s : State) (b t : Nat) (n : BitVec 16) (p : Pending) :
    (s.roundUnit b t n p).mem = s.mem := by
  unfold State.roundUnit; extract_lets due s1
  have h1 : s1.mem = s.mem := State.foldl_mem _ (fun t x => by split <;> simp) _ _
  split
  · split <;> simp [h1]
  · exact h1
@[simp] theorem State.vxEdge_mem (s : State) (b t : Nat) (n : BitVec 16) : (s.vxEdge b t n).mem = s.mem := by
  unfold State.vxEdge; exact State.foldl_mem _ (fun t p => t.roundUnit_mem b _ n p) _ _
@[simp] theorem State.cutAt_mem (s : State) (lid : Nat) (n : BitVec 16) : (s.cutAt lid n).mem = s.mem := by
  unfold State.cutAt; split <;> simp
@[simp] theorem State.keepUnit_mem (s : State) (lid b e : Nat) (n : BitVec 16) : (s.keepUnit lid b e n).mem = s.mem := by
  simp [State.keepUnit]
@[simp] theorem State.unfetched_mem (s : State) (a : Act) : (s.unfetched a).mem = s.mem := by
  simp only [State.unfetched]; (repeat' split) <;> simp
@[simp] theorem State.failSource_mem (s : State) (ctx key b src : Nat) : (s.failSource ctx key b src).mem = s.mem := by
  simp only [State.failSource]; (repeat' split) <;> simp
@[simp] theorem State.fillSource_mem (s : State) (m : Miss) (r : Option TlbEntry) (q : Nat × Nat) :
    (s.fillSource m r q).mem = s.mem := by unfold State.fillSource; split <;> simp
@[simp] theorem State.queueInv_mem (s : State) (p : Nat) (v : Word) : (s.queueInv p v).mem = s.mem := by rfl
@[simp] theorem State.dropEntries_mem (s : State) (f : TlbEntry → Bool) : (s.dropEntries f).mem = s.mem := by rfl
@[simp] theorem State.updQcb_mem (s : State) (p q : Nat) (f : Qcb → Qcb) : (s.updQcb p q f).mem = s.mem := by rfl
@[simp] theorem State.reportLarge_mem (s : State) (p : Nat) : (s.reportLarge p).mem = s.mem := by
  simp only [State.reportLarge]; exact State.foldl_mem _ (by intros; rfl) _ _
@[simp] theorem State.deselect_mem (s : State) (p : Nat) : (s.deselect p).mem = s.mem := by
  simp only [State.deselect]; (repeat' split) <;> simp
@[simp] theorem State.newRecord_mem (s : State) (p q state : Nat) (cmd : List Byte) :
    (s.newRecord p q state cmd).mem = s.mem := by rfl
@[simp] theorem State.popCmd_mem (s : State) (p q : Nat) : (s.popCmd p q).mem = s.mem := by rfl
@[simp] theorem State.journalDispatch_mem (s : State) (p seq tier : Nat) (deadline : Int) :
    (s.journalDispatch p seq tier deadline).mem = s.mem := by rfl
@[simp] theorem State.journalEnd_mem (s : State) (p seq fault : Nat) : (s.journalEnd p seq fault).mem = s.mem := by rfl
@[simp] theorem State.updCtx_mem (s : State) (c : Nat) (f : Ctx → Ctx) : (s.updCtx c f).mem = s.mem := by rfl
@[simp] theorem State.endResidency_mem (s : State) (c : Nat) : (s.endResidency c).mem = s.mem := by
  unfold State.endResidency; dsimp only; split <;> rfl
@[simp] theorem State.startSlot_mem (s : State) (lid b j k : Nat) : (s.startSlot lid b j k).mem = s.mem := by
  unfold State.startSlot; split <;> rfl
@[simp] theorem State.startStrands_mem (s : State) (lid : Nat) : (s.startStrands lid).mem = s.mem := by
  unfold State.startStrands
  exact State.foldl_mem _ (fun t _ => State.foldl_mem _ (by simp) _ t) _ _
@[simp] theorem State.startCut_mem (s : State) (lid : Nat) : (s.startCut lid).mem = s.mem := by simp [State.startCut]
@[simp] theorem State.toPeer_mem (s : State) (m : PeerMsg) : (s.toPeer m).mem = s.mem := by unfold State.toPeer; split <;> rfl
@[simp] theorem State.setScarf_mem (s : State) (lid bt : Nat) (C : Scarf) : (s.setScarf lid bt C).mem = s.mem := by
  simp [State.setScarf]
@[simp] theorem State.scarfSend_mem (s : State) (lid bt : Nat) (C : Scarf) : (s.scarfSend lid bt C).mem = s.mem := by
  simp only [State.scarfSend]
  split
  · exact (State.setScarf_mem ..).trans (State.foldl_mem _ (by simp) _ _)
  · exact State.setScarf_mem ..
@[simp] theorem State.scarfSettle_mem (s : State) (lid : Nat) (C : Scarf) : (s.scarfSettle lid C).1.mem = s.mem := by
  unfold State.scarfSettle; dsimp only; split <;> rfl
@[simp] theorem State.scarfAbortAll_mem (s : State) (C : Scarf) (step rank : Nat) (bySwitch : Bool) :
    (s.scarfAbortAll C step rank bySwitch).mem = s.mem := by unfold State.scarfAbortAll; exact State.foldl_mem _ (by simp) _ _
@[simp] theorem State.scarfAck_mem (s : State) (C : Scarf) (m : ScarfMsg) : (s.scarfAck C m).mem = s.mem := by
  simp [State.scarfAck]
@[simp] theorem State.endPreempt_mem (s : State) (p lid result : Nat) : (s.endPreempt p lid result).mem = s.mem := by rfl
@[simp] theorem State.eraseLaunch_mem (s : State) (lid : Nat) : (s.eraseLaunch lid).mem = s.mem := by
  simp only [State.eraseLaunch]; exact State.foldl_mem _ (by intros; rfl) _ _
@[simp] theorem State.gate_mem (s : State) (lid : Nat) : (s.gate lid).mem = s.mem := by simp [State.gate]
@[simp] theorem State.gateAll_mem (s : State) (p : Nat) : (s.gateAll p).mem = s.mem := by
  unfold State.gateAll; exact State.foldl_mem _ (fun t lid => t.gate_mem lid) _ _
@[simp] theorem State.reopen_mem (s : State) (p lid : Nat) : (s.reopen p lid).mem = s.mem := by simp [State.reopen]
@[simp] theorem State.ungate_mem (s : State) (p lid : Nat) : (s.ungate p lid).mem = s.mem := by
  unfold State.ungate; extract_lets; split <;> simp
@[simp] theorem State.setPsvc_mem (s : State) (p mode : Nat) : (s.setPsvc p mode).mem = s.mem := by rfl
@[simp] theorem State.sxEmit_mem (s : State) (b : Nat) (x : EngIn) (c : InCell) (R : Route) (cfg : SxCfg) (ps : List SxPair) :
    (s.sxEmit b x c R cfg ps).mem = s.mem := by unfold State.sxEmit; split <;> simp
@[simp] theorem State.forward_mem (s : State) (b : Nat) (c : InCell) (poison : Bool) : (s.forward b c poison).mem = s.mem := by
  unfold State.forward; extract_lets; split <;> simp
@[simp] theorem State.strikeRestore_mem (s : State) (lid : Nat) : (s.strikeRestore lid).mem = s.mem := by
  simp [State.strikeRestore]
@[simp] theorem State.rollbackBent_mem (s : State) (b : Nat) : (s.rollbackBent b).mem = s.mem := by
  unfold State.rollbackBent; split <;> simp [State.startRollback_mem]
@[simp] theorem State.spoil_mem (s : State) (u : ErrUnit) : (s.spoil u).mem = s.mem := by
  unfold State.spoil
  split
  · exact State.foldl_mem _ (by simp) _ _
  · exact s.rollbackBent_mem _
  · exact (State.rollbackBent_mem ..).trans rfl
@[simp] theorem State.resend_mem (s : State) (st : Strand) : (s.resend st).mem = s.mem := by
  unfold State.resend; exact State.foldl_mem _ (by simp) _ _
@[simp] theorem State.putBack_mem (s : State) (lid : Nat) (m : StrandMark) : (s.putBack lid m).mem = s.mem := by
  simp only [State.putBack]; split <;> simp
@[simp] theorem State.keepParked_mem (s : State) (p : Nat) : (s.keepParked p).mem = s.mem := by rfl
@[simp] theorem State.journalRoll_mem (s : State) (p seq state : Nat) : (s.journalRoll p seq state).mem = s.mem := by rfl
@[simp] theorem State.failRestart_mem (s : State) (lid fault : Nat) : (s.failRestart lid fault).mem = s.mem := by
  simp [State.failRestart]
@[simp] theorem State.beginRepair_mem (s : State) (p : Nat) (v : Word) (unmap : Bool) :
    (s.beginRepair p v unmap).mem = s.mem := by unfold State.beginRepair; dsimp only; split <;> rfl
@[simp] theorem State.setLink_mem (s : State) (l : Nat) (x : Link) : (s.setLink l x).mem = s.mem := by rfl
@[simp] theorem State.setWidth_mem (s : State) (link : Nat) (half : Bool) : (s.setWidth link half).mem = s.mem := by rfl
@[simp] theorem State.updDevice_mem (s : State) (f : Device → Device) : (s.updDevice f).mem = s.mem := by rfl
@[simp] theorem State.beginKey_mem (s : State) (v : Word) (load : Bool) : (s.beginKey v load).mem = s.mem := by
  unfold State.beginKey; split <;> rfl
@[simp] theorem State.endUnrecorded_mem (s : State) (lid : Nat) : (s.endUnrecorded lid).mem = s.mem := by
  simp [State.endUnrecorded]

end Sys2Proof.Machine
end

section
/-! PROOFS. The canonical form of the memory, kept by every instruction of a strand: what issuing, waiting and the places of
accesses leave, then each instruction. -/

open Sys2Proof

namespace Sys2Proof.Machine

/-- The canonical form in the terms that the laws of the memory are stated in. -/
theorem State.ordered_iff (s : State) : s.Ordered ↔ Memory.wf s.mem = true := Iff.rfl

theorem State.Ordered.wf {s : State} (h : s.Ordered) : Memory.wf s.mem = true := h

/-! ### Places that are not found yet -/

/-- The state in which an access traps or waits has a property. -/
def Acc.Holds (P : State → Prop) : Acc → Prop
  | .trap _ t => P t
  | .wait t _ => P t
  | .ok .. => True

@[inherit_doc Acc.Holds]
def Acc2.Holds (P : State → Prop) : Acc2 → Prop
  | .trap _ t => P t
  | .wait t _ => P t
  | .ok .. => True

@[inherit_doc Acc.Holds]
def Got.Holds (P : State → Prop) : Got → Prop
  | .trap _ t => P t
  | .wait t _ => P t
  | .ok .. => True

@[inherit_doc Acc.Holds]
def PlaceOf.Holds (P : State → Prop) : PlaceOf → Prop
  | .wait t => P t
  | .fault t _ => P t
  | .ok _ => True

theorem ite_holds {P : State → Prop} {c : Prop} [Decidable c] {x y : Out} (hx : x.Holds P) (hy : y.Holds P) :
    (if c then x else y).Holds P := by split <;> assumption

section
variable {s : State} (h : s.Ordered)
include h

theorem State.accessVa_ordered (b k : Nat) (st : Strand) (host write : Bool) (va : Nat) :
    (s.accessVa b k st host write va).Holds State.Ordered := by
  simp only [State.accessVa]
  (repeat' split) <;> simp [Acc.Holds, State.ordered_iff, h.wf]

theorem State.access_ordered (b k : Nat) (st : Strand) (acc : Accepts) (write : Bool) (ea : Word) (size : Nat) :
    (s.access b k st acc write ea size).Holds State.Ordered := by
  have ha := State.accessVa_ordered h b k st
  unfold State.access
  grind [Acc.Holds]

theorem State.tagAccess_ordered (b k : Nat) (st : Strand) (write : Bool) (ea : Word) :
    (s.tagAccess b k st write ea).Holds State.Ordered := by
  have ha := State.accessVa_ordered h b k st
  unfold State.tagAccess
  grind [Acc.Holds]

theorem State.access2_ordered (b k : Nat) (st : Strand) (r : MemReq) : (s.access2 b k st r).Holds State.Ordered := by
  have hd := State.access_ordered h b k st r.acc r.write r.ea r.size
  have ht := State.tagAccess_ordered h b k st r.write r.ea
  unfold State.access2
  grind [Acc.Holds, Acc2.Holds]

theorem State.waitWord_ordered (b k : Nat) (st : Strand) (x : Word) : (s.waitWord b k st x).Holds State.Ordered := by
  have ha := State.accessVa_ordered h b k st
  unfold State.waitWord
  grind [Acc.Holds]

theorem State.gather_ordered (b k : Nat) (st : Strand) (n : Nat) (a : Word) : (s.gather b k st n a).Holds State.Ordered := by
  induction n generalizing a with
  | zero => trivial
  | succ n ih =>
    have ha := State.access_ordered h b k st noHost false a 1
    have hr := ih (a + 1)
    unfold State.gather
    grind [Acc.Holds, Got.Holds]

theorem State.cellVa_ordered (b e : Nat) (d : Side) (ctx : Nat) (host : Bool) (va : Nat) :
    (s.cellVa b e d ctx host va).Holds State.Ordered := by
  simp only [State.cellVa]
  (repeat' split) <;> simp [PlaceOf.Holds, State.ordered_iff, h.wf]

theorem State.writePlace_ordered (b e : Nat) (c : InCell) (k : Nat) : (s.writePlace b e c k).Holds State.Ordered := by
  have ha := State.cellVa_ordered h b e
  unfold State.writePlace
  grind [PlaceOf.Holds]

theorem State.writePlaces_ordered (b e : Nat) (c : InCell) (l : List (Nat × Nat)) (x : PlaceOf)
    (hx : s.writePlaces b e c l = .inl x) : x.Holds State.Ordered := by
  induction l with
  | nil => cases hx
  | cons p l ih =>
    have ha := State.writePlace_ordered h b e c p.1
    unfold State.writePlaces at hx
    grind

/-! ### Issuing and waiting -/

theorem State.issue_ordered (u : Uses) {body : Nat → Nat → Strand → Out} (hb : ∀ b k st, (body b k st).Holds State.Ordered) :
    (s.issue u body).Holds State.Ordered := by
  obtain ⟨-, e⟩ | ⟨t, ht, e⟩ | ⟨b, k, st, -, e⟩ := s.issue_cases u body <;> rw [e]
  · trivial
  · have hm : t = s ∨ ∃ b k st c, t = s.trap b k st c := by
      unfold State.ready at ht
      grind
    obtain rfl | ⟨b, k, st, c, rfl⟩ := hm
    · exact h
    · exact State.ordered_of_mem (by simp) h
  · exact hb b k st

theorem State.local_ordered (u : Uses) (f : Strand → Strand) : (s.local u f).Holds State.Ordered :=
  State.issue_ordered h u fun _ _ _ => State.ordered_of_mem (by simp) h

theorem State.holdUntil_ordered (b k : Nat) (st : Strand) (w : Wait) {body : Out} (hb : body.Holds State.Ordered) :
    (s.holdUntil b k st w body).Holds State.Ordered := by
  unfold State.holdUntil; split <;> simp [State.ordered_iff, h.wf, hb]

theorem State.holdAtoms_ordered (b k : Nat) (st : Strand) (w : Wait) (behind : List MemOp) {body : Out}
    (hb : body.Holds State.Ordered) : (s.holdAtoms b k st w behind body).Holds State.Ordered := by
  unfold State.holdAtoms; (repeat' split) <;> simp [State.ordered_iff, h.wf, hb]

theorem State.afterAcquire_ordered (b k : Nat) (st : Strand) {body : Out} (hb : body.Holds State.Ordered) :
    (s.afterAcquire b k st body).Holds State.Ordered := State.holdAtoms_ordered h b k st _ _ hb

theorem State.afterLoads_ordered (b k : Nat) (st : Strand) {body : Out} (hb : body.Holds State.Ordered) :
    (s.afterLoads b k st body).Holds State.Ordered := State.holdAtoms_ordered h b k st _ _ hb

theorem State.afterTouching_ordered (b k : Nat) (st : Strand) (locs : List (Nat × Option Nat)) {body : Out}
    (hb : body.Holds State.Ordered) : (s.afterTouching b k st locs body).Holds State.Ordered :=
  State.holdAtoms_ordered h b k st _ _ hb

theorem State.afterAll_ordered (b k : Nat) (st : Strand) (sc : Scope) {body : Out} (hb : body.Holds State.Ordered) :
    (s.afterAll b k st sc body).Holds State.Ordered := by
  unfold State.afterAll; split
  · simp [State.ordered_iff, h.wf]
  · exact State.holdAtoms_ordered h b k st _ _ hb

theorem State.command_ordered (u : Uses) {body : Nat → Nat → Strand → Out} (hb : ∀ b k st, (body b k st).Holds State.Ordered) :
    (s.command u body).Holds State.Ordered :=
  State.issue_ordered h u fun b k st => State.afterAcquire_ordered h b k st (hb b k st)

theorem State.withEntry_ordered (b k : Nat) (st : Strand) (load : Bool) {body : Out} (hb : body.Holds State.Ordered) :
    (s.withEntry b k st load body).Holds State.Ordered := by
  unfold State.withEntry
  (repeat' split) <;> simp [State.ordered_iff, h.wf, hb, State.holdUntil_ordered h]

theorem State.withBytes_ordered (b k : Nat) (st : Strand) (a : Word) (n : Nat) {body : List Byte → Bool → Out}
    (hb : ∀ l p, (body l p).Holds State.Ordered) : (s.withBytes b k st a n body).Holds State.Ordered := by
  have hg := State.gather_ordered h b k st n a
  unfold State.withBytes
  split
  · next t e => rw [e] at hg; exact State.ordered_of_mem (by simp) hg
  · next t w e => rw [e] at hg; exact State.ordered_of_mem (by simp) hg
  · exact State.afterTouching_ordered h b k st _ (hb _ _)

theorem State.withClean_ordered (b k : Nat) (st : Strand) (a : Word) (n : Nat) {body : List Byte → Out}
    (hb : ∀ l, (body l).Holds State.Ordered) : (s.withClean b k st a n body).Holds State.Ordered :=
  State.withBytes_ordered h b k st a n fun l p => by simp [State.ordered_iff, h.wf, hb]

/-! ### The shared parts of instructions -/

theorem State.sigWrite_ordered (b k : Nat) (st : Strand) (opc : Nat) (d : FReg) (a x c : Option FVal) (res : FVal) :
    (s.sigWrite b k st opc d a x c res).Holds State.Ordered := by
  unfold State.sigWrite; split <;> simp [State.ordered_iff, State.takeTrap_mem, h.wf]

theorem State.fpOp_ordered (fn : Nat) (d a b : FReg) (r : Rnd) (op : Ex → Ex → Mode → Ex) (cnt : FVal → FVal → Ex → Nat) :
    (s.fpOp fn d a b r op cnt).Holds State.Ordered := State.issue_ordered h _ fun _ _ _ => State.sigWrite_ordered h ..

theorem State.checkedAccess_ordered (b k : Nat) (st : Strand) (o : MemOp) : (s.checkedAccess b k st o).Holds State.Ordered := by
  unfold State.checkedAccess
  split
  · refine State.holdUntil_ordered h b k st _ ?_
    have hm := State.foldl_mem (fun t (r : Nat × Nat) => t.markWrite o.writer r.1 r.2) (by simp) o.ranges s
    (repeat' split) <;> simp [State.ordered_iff, h.wf, hm]
  · simp [State.ordered_iff, h.wf]

theorem State.sendAccess_ordered (b k : Nat) (st : Strand) (r : MemReq) (o : MemOp) :
    (s.sendAccess b k st r o).Holds State.Ordered := by
  unfold State.sendAccess
  have h1 : (if r.rel = true then s.tick st.lid o.writer.key else s).Ordered := by split <;> simp [State.ordered_iff, h.wf]
  simp [State.checkedAccess_ordered h1, State.ordered_iff, h1.wf]

theorem State.memIssue_ordered (b k : Nat) (st : Strand) (r : MemReq) {send : State → Nat → Nat → Strand → MemReq → MemOp → Out}
    (hs : ∀ o, (send s b k st r o).Holds State.Ordered) : (s.memIssue b k st r send).Holds State.Ordered := by
  have ha := State.access2_ordered h b k st r
  unfold State.memIssue
  refine State.afterAcquire_ordered h b k st ?_
  split
  · next t e => rw [e] at ha; exact State.ordered_of_mem (by simp) ha
  · next t w e => rw [e] at ha; exact State.ordered_of_mem (by simp) ha
  · refine State.withEntry_ordered h b k st _ (State.holdAtoms_ordered h b k st _ _ ?_)
    simp [hs, State.afterAll_ordered h]

theorem State.sendAmo_ordered (b k : Nat) (st : Strand) (r : MemReq) (o : MemOp) : (s.sendAmo b k st r o).Holds State.Ordered := by
  unfold State.sendAmo
  split
  · refine State.holdUntil_ordered h b k st _ ?_
    split <;> simp [State.ordered_iff, h.wf]
  · exact State.sendAccess_ordered h ..

theorem State.amoInstr_ordered (aop : Nat) (d a x : XReg) (sc : Scope) (o : Order) (w : Bool) :
    (s.amoInstr aop d a x sc o w).Holds State.Ordered :=
  State.issue_ordered h _ fun b k st => State.memIssue_ordered h b k st _ (State.sendAmo_ordered h b k st _)

theorem State.afterPayload_ordered (b k : Nat) (st : Strand) (fn : CellFn) (d : XReg) (c : Cell) {body : Out}
    (hb : body.Holds State.Ordered) : (s.afterPayload b k st fn d c body).Holds State.Ordered := by
  unfold State.afterPayload
  (repeat' split) <;> simp [State.ordered_iff, h.wf, hb, State.holdUntil_ordered h, State.holdAtoms_ordered h]

theorem State.cellInstr_ordered (fn : CellFn) (d a x : XReg) (cl : BitVec 3) : (s.cellInstr fn d a x cl).Holds State.Ordered :=
  State.command_ordered h _ fun b k st => by
    split
    · simp [State.ordered_iff, h.wf]
    · exact State.afterPayload_ordered h b k st fn d _ (State.holdUntil_ordered h b k st _ (by simp [State.ordered_iff, h.wf]))

theorem State.walkInstr_ordered (bounded : Bool) (d a x : XReg) (cl : BitVec 3) :
    (s.walkInstr bounded d a x cl).Holds State.Ordered :=
  State.command_ordered h _ fun b k st => by
    have ht (c : BitVec 16) : (s.trap b k st c).Ordered := State.ordered_of_mem (by simp) h
    refine ite_holds (ht _) (ite_holds (ht _) (ite_holds (ht _) ?_))
    split
    · split
      · exact ht _
      · refine State.holdAtoms_ordered h b k st _ _ (State.holdUntil_ordered h b k st _ (ite_holds (ht _) ?_))
        split
        · exact ht _
        · exact State.holdUntil_ordered h b k st _ (State.ordered_of_mem (by simp) h)
    · exact ht _

theorem State.closeRound_ordered (b k : Nat) (st : Strand) : (s.closeRound b k st).Holds State.Ordered :=
  State.holdUntil_ordered h b k st _ (State.ordered_of_mem (by simp) h)

theorem State.engine_ordered (b e op : Nat) {body : Bent → EngIn → InCell → State} (hb : ∀ B x c, (body B x c).Ordered) :
    (s.engine b e op body).Holds State.Ordered := by
  simp only [State.engine]
  (repeat' split) <;> simp [h, hb]

theorem State.withOperands_ordered (b e : Nat) (x : EngIn) (c : InCell) (n : Nat) {body : State} (hb : body.Ordered) :
    (s.withOperands b e x c n body).Ordered := by
  unfold State.withOperands; split
  · exact hb
  · exact State.ordered_of_mem (by simp) h

theorem State.fire_ordered (b e op : Nat) (form : FireForm) : (s.fire b e op form).Holds State.Ordered :=
  State.engine_ordered h b e op fun B x c => State.withOperands_ordered h b e x c 1 (by
    dsimp only
    (repeat' split) <;> simp [State.ordered_iff, h.wf])

theorem State.routine_ordered {body : Nat → Nat → Nat → Tenon → Routine → Out}
    (hb : ∀ b t r T R, (body b t r T R).Holds State.Ordered) : (s.routine body).Holds State.Ordered := by
  unfold State.routine
  (repeat' split) <;> simp [h, hb]

theorem State.opword_ordered (srcs : List (VCode × Bool)) (dst : Option VCode) (again : Tenon → Bool)
    {body : Nat → Nat → Nat → Tenon → Routine → Out} (hb : ∀ b t r T R, (body b t r T R).Holds State.Ordered) :
    (s.opword srcs dst again body).Holds State.Ordered :=
  State.routine_ordered h fun b t r T R => by
    dsimp only
    (repeat' split) <;> simp [State.ordered_iff, h.wf, hb]

theorem State.vxWrite_ordered (b t r : Nat) (T : Tenon) (R : Routine) (opc : Nat) (fail : Option VFail) (d : VCode) (x : VReg) :
    (s.vxWrite b t r T R opc fail d x).Holds State.Ordered := by
  unfold State.vxWrite; split <;> simp [State.ordered_iff, h.wf]

theorem State.ew_ordered (o : Ew) (d : VCode) (run : Mode → List FVal → List FVal → List FVal → List VEl) :
    (s.ew o d run).Holds State.Ordered :=
  State.opword_ordered h _ _ _ fun b t r T R => by
    dsimp only
    split
    · simp [State.ordered_iff, h.wf]
    · generalize (match o.form d.toNat with | .none => _ | .whole => _ | .rowWrite => _ | .rowRead => _ : List EwRow) = rows
      (repeat' split) <;> simp [State.ordered_iff, h.wf]

theorem State.flat_ordered (srcs : List (VCode × Bool)) (d : VCode) (opc : Nat)
    (body : Tenon → Routine → List FVal × Option VFail) : (s.flat srcs d opc body).Holds State.Ordered :=
  State.opword_ordered h _ _ _ fun _ _ _ _ _ => State.vxWrite_ordered h ..

theorem State.spanning_ordered (scan : Bool) (c : Comb) (t : VTy) (d a : VCode) (l : VLvl) (rtz x : Bool) (opn : Nat) :
    (s.spanning scan c t d a l rtz x opn).Holds State.Ordered :=
  State.opword_ordered h _ _ _ fun _ _ _ _ _ => by
    dsimp only
    (repeat' split) <;> simp [State.ordered_iff, h.wf]

theorem State.vred_ordered (c : Comb) (t : VTy) (d a : VCode) (l : VLvl) (rtz x : Bool) :
    (s.vred c t d a l rtz x).Holds State.Ordered := by
  unfold State.vred; split
  · exact State.flat_ordered h ..
  · exact State.spanning_ordered h ..

theorem State.vscan_ordered (c : Comb) (t : VTy) (d a : VCode) (l : VLvl) (rtz x : Bool) :
    (s.vscan c t d a l rtz x).Holds State.Ordered := by
  unfold State.vscan; split
  · exact State.flat_ordered h ..
  · exact State.spanning_ordered h ..

theorem State.tileConfig_ordered (d : VCode) (q : BitVec 17) (discard : Bool) :
    (s.tileConfig d q discard).Holds State.Ordered :=
  State.routine_ordered h fun _ _ _ _ _ => by
    dsimp only
    (repeat' split) <;> simp [State.ordered_iff, h.wf]

theorem State.vbr_ordered (all : Bool) (a : VCode) (off : BitVec 14) (x : Bool) : (s.vbr all a off x).Holds State.Ordered :=
  State.opword_ordered h _ _ _ fun _ _ _ _ _ => State.ordered_of_mem (by simp) h

end

end Sys2Proof.Machine
end

section
/-! PROOFS. The canonical form of the memory, kept by the operations that write it: accesses, walks, atomics, cells, arrangements,
the command processor, collectives, the ends of launches and rollback. -/

open Sys2Proof

namespace Sys2Proof.Machine

theorem State.Ordered.of_mem {s t : State} (h : s.Ordered) (e : t.mem = s.mem) : t.Ordered := State.ordered_of_mem e h

theorem State.foldl_ordered {α : Type} (f : State → α → State) (hf : ∀ t a, t.Ordered → (f t a).Ordered) (l : List α) {s : State}
    (h : s.Ordered) : (l.foldl f s).Ordered := by
  induction l generalizing s with
  | nil => exact h
  | cons a l ih => exact ih (hf s a h)

theorem State.foldl_fst_ordered {α β : Type} (f : State × β → α → State × β) (hf : ∀ r a, r.1.Ordered → (f r a).1.Ordered)
    (l : List α) {r : State × β} (h : r.1.Ordered) : (l.foldl f r).1.Ordered := by
  induction l generalizing r with
  | nil => exact h
  | cons a l ih => exact ih (hf r a h)

theorem ite_ordered {c : Prop} [Decidable c] {s t : State} (hs : s.Ordered) (ht : t.Ordered) : (if c then s else t).Ordered := by
  split <;> assumption

section
variable {s : State} (h : s.Ordered)
include h

/-! ### Accesses of strands (R138 to R155) -/

theorem State.writeRel_ordered (w : Writer) (sc : Scope) (loc : Nat) (bytes : List Byte) (pois : Bool) :
    (s.writeRel w sc loc bytes pois).Ordered := (State.write_ordered s w loc bytes pois h).of_mem (by simp [State.writeRel])

theorem State.rmw_ordered (w : Writer) (loc n aop b e : Nat) (bpois : Bool) : (s.rmw w loc n aop b e bpois).1.Ordered := by
  simp only [State.rmw]
  split
  · exact h
  · simpa [State.ordered_iff] using (State.write_ordered s w loc _ bpois h).wf

theorem State.putBytes_ordered (o : MemOp) (loc : Nat) (bytes : List Byte) : (s.putBytes o loc bytes).Ordered :=
  ite_ordered h (ite_ordered (State.writeRel_ordered h ..) (State.write_ordered _ _ _ _ _ h))

theorem State.firstHalf_ordered (o : MemOp) : (s.firstHalf o).1.Ordered := by
  unfold State.firstHalf
  split
  · exact State.putBytes_ordered h ..
  · exact h

theorem State.writeOp_ordered (o : MemOp) : (s.writeOp o).Ordered := by
  unfold State.writeOp
  split
  · exact State.putBytes_ordered h ..
  · exact (State.putBytes_ordered h o o.loc o.data).of_mem (by simp)
  · exact h.of_mem (by simp)
  · exact State.putBytes_ordered h ..

theorem State.applyAtom_ordered (b k : Nat) (st : Strand) (o : MemOp) (aop : Nat) : (s.applyAtom b k st o aop).Ordered := by
  have hr : (if s.barred o o.loc o.size then (s, s.read o.loc o.size)
      else s.rmw (o.by st).writer o.loc o.size aop (leNat o.data) (leNat o.expected) o.dpois).1.Ordered := by
    split
    · exact h
    · exact State.rmw_ordered h ..
  unfold State.applyAtom
  extract_lets r s1
  have h1 : s1.Ordered := ite_ordered (hr.of_mem (by simp [r])) hr
  exact h1.of_mem (by simp)

theorem State.loadReturn_ordered (b k : Nat) (st : Strand) (o : MemOp) : (s.loadReturn b k st o).Ordered := by
  unfold State.loadReturn
  split
  · split <;> simp [State.ordered_iff, h.wf]
  · split
    · exact h
    · split
      · exact h.of_mem (by simp)
      · split
        · exact h.of_mem (by simp)
        · split <;> exact h.of_mem (by simp)
        · exact h.of_mem (by simp)
        · exact h.of_mem (by simp)
        · refine ite_ordered (ite_ordered h (h.of_mem (by simp))) ?_
          simpa [State.ordered_iff] using (State.applyAtom_ordered h b k st o _).wf
        · exact h

/-! ### Walks (R174 to R177) -/

theorem State.walkStep_ordered (b e : Nat) (w : Walk) : (s.walkStep b e w).Ordered := by
  unfold State.walkStep
  split
  · (repeat' split) <;> simp [State.ordered_iff, h.wf]
  · dsimp only
    split
    · split
      · exact h
      · split
        · exact h.of_mem (by simp)
        · split
          · exact h.of_mem (by simp)
          · simpa [State.ordered_iff] using (State.write_ordered _ _ _ _ _ h).wf
    · split
      · exact h
      · split
        · exact h.of_mem (by simp)
        · split <;> exact h.of_mem (by simp)

theorem State.walkWrite_ordered (b e : Nat) (w : Walk) (status : BitVec 2) (loc : Nat) :
    (s.walkWrite b e w status loc).Ordered := by
  have hw := State.writeRel_ordered h (s.walkWriter b w) .region loc (leBytes 8 (w.wordValue status)) false
  unfold State.walkWrite
  dsimp only
  split <;> exact hw.of_mem (by simp)

/-! ### The atomic unit (R151, R152) -/

theorem State.atApply_ordered (b : Nat) (c : InCell) (loc : Nat) (round : BitVec 16) : (s.atApply b c loc round).Ordered := by
  have hr (n aop x e : Nat) := State.rmw_ordered h (s.cellWriter c.cell c.side) loc n aop x e c.cell.poison
  simp only [State.atApply]
  split
  · exact State.applyAtom_ordered h ..
  · split <;> simpa [State.ordered_iff] using (hr ..).wf

theorem State.atClose_ordered (b : Nat) (n : BitVec 16) : (s.atClose b n).Ordered := by
  simp only [State.atClose]
  exact State.foldl_ordered _ (fun t x ht => State.atApply_ordered ht ..) _ (h.of_mem (by simp))

/-! ### Folds of arrangements (R300, R301) -/

theorem State.writeArr_ordered (A : Arr) (w : Writer) (n : BitVec 16) (es : List Rec) (poison : Bool) :
    (s.writeArr A w n es poison).Ordered := by
  have hw := State.write_ordered _ w (A.buf.place A.lid A.home A.bt false (64 + 32 * A.cap)) (arrIndex A.logs es) poison
    (State.write_ordered _ w (A.buf.place A.lid A.home A.bt false 64) (es.flatMap Rec.bytes) poison
      (State.write_ordered s w (A.buf.place A.lid A.home A.bt false 0) (arrHeader A n es.length) poison h))
  exact hw.of_mem (by simp [State.writeArr])

theorem State.foldOne_ordered (b : Nat) (n : BitVec 16) (bt : Nat) : (s.foldOne b n bt).Ordered := by
  simp only [State.foldOne]
  split
  · exact h.of_mem (by simp)
  · split
    · exact h.of_mem (by simp)
    · exact State.writeArr_ordered (h.of_mem (by simp)) ..

omit h in
theorem State.foldDue_ordered (b bt n : Nat) {s : State} (h : s.Ordered) : (s.foldDue b bt n).Ordered := by
  induction n generalizing s with
  | zero => exact h
  | succ n ih =>
    unfold State.foldDue
    split
    · exact h
    · exact ite_ordered h (ih (State.foldOne_ordered h ..))

theorem State.foldsOf_ordered (region : List Nat) (bt : Nat) : (s.foldsOf region bt).Ordered :=
  State.foldl_ordered _ (fun _ _ ht => State.foldDue_ordered _ _ _ ht) _ h

theorem State.cnEdge_ordered (b : Nat) (n : BitVec 16) : (s.cnEdge b n).Ordered := by
  simp only [State.cnEdge]
  refine State.foldl_ordered _ (fun _ _ ht => State.foldDue_ordered _ _ _ ht) _ ?_
  exact (State.foldl_ordered _ (fun t q ht => ht.of_mem (by simp)) _ h).of_mem (State.updCn_mem ..)

theorem State.edgeOf_ordered (b e : Nat) (n : BitVec 16) : (s.edgeOf b e n).Ordered := by
  unfold State.edgeOf
  (repeat' split) <;> simp [State.ordered_iff, h.wf, (State.atClose_ordered h b n).wf, (State.cnEdge_ordered h b n).wf]

/-! ### Data cells (R396) -/

theorem State.writeCell_ordered (c : InCell) (ps : List (Nat × Nat × Nat)) : (s.writeCell c ps).Ordered := by
  have hw := State.foldl_ordered (fun t (p : Nat × Nat × Nat) =>
    t.write (s.cellWriter c.cell c.side) p.1 ((c.cell.bytes.drop p.2.1).take p.2.2) c.cell.poison)
    (fun t p ht => State.write_ordered _ _ _ _ _ ht) ps h
  exact hw.of_mem (by simp [State.writeCell])

theorem State.carry_ordered (b e : Nat) : (s.carry b e).Ordered := by
  simp only [State.carry]
  split
  · exact h
  · refine ite_ordered h ?_
    split
    · exact h.of_mem (by simp)
    · exact ite_ordered h (h.of_mem (by simp))
    · refine ite_ordered h ?_
      have hp := State.writePlaces_ordered h b e
      split
      · exact State.writeCell_ordered (h.of_mem (by simp)) ..
      · next t e => exact hp _ _ _ e
      · next t cause e => exact (show t.Ordered from hp _ _ _ e).of_mem (by simp)
      · exact h

end

/-! ### The command processor (R321 to R326, R338, R339) -/

section
variable {s : State} (h : s.Ordered)
include h

theorem State.zeroPage_ordered (page owner : Nat) : (s.zeroPage page owner).Ordered := Memory.filter_wf _ _ h

theorem State.cpTouch_ordered (part ctx : Nat) (host write : Bool) (va n : Nat) :
    (s.cpTouch part ctx host write va n).1.Ordered := by
  simp only [State.cpTouch]
  split
  · exact State.zeroPage_ordered h ..
  · exact h

theorem State.cpRead_ordered (part ctx va n : Nat) : (s.cpRead part ctx va n).1.Ordered := by
  unfold State.cpRead
  refine State.foldl_fst_ordered _ (fun r p hr => ?_) _ h
  split
  · exact hr
  · exact State.cpTouch_ordered hr ..

theorem State.cpWrite_ordered (part ctx : Nat) (host : Bool) (va : Nat) (bytes : List Byte) :
    (s.cpWrite part ctx host va bytes).Ordered := by
  have ht := State.cpTouch_ordered h part ctx host true va bytes.length
  simp only [State.cpWrite]
  split
  · exact State.poke_ordered _ _ _ ht
  · exact ht

theorem State.boxAt_ordered (part ctx cbase : Nat) : (s.boxAt part ctx cbase).1.Ordered := by
  have h1 := State.cpRead_ordered h part ctx cbase 64
  unfold State.boxAt
  split
  · next e => rwa [e] at h1
  · next t l e =>
    rw [e] at h1
    dsimp only
    split
    · have h2 := State.cpRead_ordered h1 part ctx (cbase + (BoxHead.of l).secoff) (32 * (BoxHead.of l).nsec)
      split <;> next e2 => rwa [e2] at h2
    · exact h1

theorem State.sectsRead_ordered (part ctx cbase : Nat) (l : List Sect) : (s.sectsRead part ctx cbase l).1.Ordered := by
  unfold State.sectsRead
  refine State.foldl_fst_ordered _ (fun r p hr => ?_) _ h
  split
  · exact hr
  · split
    · exact hr
    · exact State.cpRead_ordered hr ..

theorem State.loadBox_ordered (part ctx cbase : Nat) : (s.loadBox part ctx cbase).1.Ordered := by
  have h1 := State.boxAt_ordered h part ctx cbase
  unfold State.loadBox
  split
  · next e => rwa [e] at h1
  · next t hd l e =>
    rw [e] at h1
    split
    · have h2 := State.sectsRead_ordered h1 part ctx cbase l
      split <;> next e2 => rwa [e2] at h2
    · exact h1

theorem State.readHead_ordered (part ctx cbase : Nat) : (s.readHead part ctx cbase).1.Ordered := by
  have h1 := State.boxAt_ordered h part ctx cbase
  unfold State.readHead
  split
  · next e => rwa [e] at h1
  · next t hd l e =>
    rw [e] at h1
    split
    · exact h1
    · next x _ =>
      have h2 := State.cpRead_ordered h1 part ctx (cbase + x.off) 64
      split <;> next e2 => rwa [e2] at h2

theorem State.writeRecord_ordered (part ctx compl : Nat) (r : Record) : (s.writeRecord part ctx compl r).Ordered := by
  unfold State.writeRecord
  split
  · exact State.cpWrite_ordered (State.cpWrite_ordered h ..) ..
  · exact State.cpWrite_ordered (State.cpWrite_ordered h ..) ..
  · exact h

theorem State.holdHeader_ordered (p q : Nat) : (s.holdHeader p q).Ordered := by
  simp only [State.holdHeader]
  split
  · exact h
  · refine ite_ordered h ?_
    simpa [State.ordered_iff] using (State.readHead_ordered h ..).wf

theorem State.refresh_ordered (p : Nat) : (s.refresh p).Ordered := by
  have hf := State.foldl_ordered (fun t q => t.holdHeader p q) (fun _ _ ht => State.holdHeader_ordered ht ..) (List.range 256) h
  exact hf.of_mem (by simp [State.refresh])

theorem State.refreshAll_ordered : s.refreshAll.Ordered :=
  State.foldl_ordered _ (fun _ _ ht => State.refresh_ordered ht _) _ h

theorem State.pokeHbm_ordered (pa : Nat) (bytes : List Byte) : (s.pokeHbm pa bytes).Ordered :=
  ite_ordered (State.poke_ordered _ _ _ h) h

theorem State.append_ordered (p q : Nat) (bytes : List Byte) : (s.append p q bytes).1.Ordered := by
  simp only [State.append]
  split
  · exact h
  · split
    · exact h
    · split
      · exact h
      · dsimp only
        refine State.refresh_ordered ?_ p
        simpa [State.ordered_iff] using (State.pokeHbm_ordered h ..).wf

theorem State.failCmd_ordered (p q fault : Nat) : (s.failCmd p q fault).Ordered := by
  simp only [State.failCmd]
  split
  · refine State.refresh_ordered ?_ p
    simpa [State.ordered_iff] using (State.writeRecord_ordered (h.of_mem (by simp)) ..).wf
  · exact h

theorem State.decideNext_ordered (p : Nat) : (s.decideNext p).Ordered := by
  simp only [State.decideNext]
  split
  · exact h
  · split
    · exact h
    · refine ite_ordered h (ite_ordered (h.of_mem (by simp)) (State.failCmd_ordered (h.of_mem (by simp)) ..))

theorem State.rekey_ordered (new : List Byte) (page : Nat) : (s.rekey new page).Ordered := by
  unfold State.rekey State.Ordered
  dsimp only
  split
  · split
    · exact h
    · exact Memory.putBytes_wf _ _ _ h
  · exact h

theorem State.underKey_ordered (c : Nat) : (s.underKey c).Ordered :=
  State.foldl_ordered _ (fun _ _ ht => State.rekey_ordered ht ..) _ h

/-! ### Placement (R326, R347) -/

theorem State.zeroSpad_ordered (b : Nat) : (s.zeroSpad b).Ordered := State.zero_ordered _ _ _ h

theorem State.placeBents_ordered (lid : Nat) (region : List Nat) : (s.placeBents lid region).Ordered :=
  State.foldl_ordered _ (fun _ x ht => (State.zeroSpad_ordered ht x.1).of_mem (State.updBent_mem ..)) _ h

theorem State.fillBuffer_ordered (lid : Nat) (region : List Nat) (x : Loaded) (p : Nat × Buffer) :
    (s.fillBuffer lid region x p).Ordered :=
  ite_ordered (State.foldl_ordered _ (fun _ _ ht => State.poke_ordered _ _ _ ht) _ h) (State.poke_ordered _ _ _ h)

theorem State.fillBuffers_ordered (lid : Nat) (region : List Nat) (x : Loaded) : (s.fillBuffers lid region x).Ordered :=
  State.foldl_ordered _ (fun _ _ ht => State.fillBuffer_ordered ht ..) _ (State.zero_ordered _ _ _ h)

theorem State.begin_ordered (L : Launch) (x : Loaded) : (s.begin_ L x).Ordered := by
  have h1 : (s.setLaunch (lidOf L.part L.seq) { L with lastProgress := s.dtime }).Ordered := h.of_mem (State.setLaunch_mem ..)
  have h2 := State.fillBuffers_ordered (State.placeBents_ordered h1 (lidOf L.part L.seq) L.region) (lidOf L.part L.seq) L.region x
  exact h2.of_mem ((State.startCut_mem ..).trans (State.startStrands_mem ..))

theorem State.placeHead_ordered (p q : Nat) : (s.placeHead p q).Ordered := by
  simp only [State.placeHead]
  split
  · next seq tapp hd cand _ _ _ =>
    have hl := State.loadBox_ordered h p (Cmd.of (s.cmdAt p q ((s.part p).qcb q).head)).ctx
      (Cmd.of (s.cmdAt p q ((s.part p).qcb q).head)).cbase
    split
    · exact State.failCmd_ordered hl ..
    · refine ite_ordered (State.failCmd_ordered hl ..) (ite_ordered (State.failCmd_ordered hl ..) ?_)
      exact State.refresh_ordered (State.begin_ordered (hl.of_mem (by simp)) ..) p
  · exact h

theorem State.loadSpads_ordered (L : Launch) (new : List Nat) : (s.loadSpads L new).Ordered := Memory.puts_wf _ _ _ h

theorem State.restore_ordered (p lid : Nat) : (s.restore p lid).Ordered := by
  simp only [State.restore]
  refine State.refresh_ordered (State.Ordered.of_mem (s := List.foldl _ (State.loadSpads _ _ _) _)
    (State.foldl_ordered _ (fun t x ht => ht.of_mem (State.updBent_mem ..)) _
      (State.loadSpads_ordered (State.foldl_ordered _ (fun _ _ ht => State.zeroSpad_ordered ht _) _ h) ..)) (by simp; rfl)) p

/-! ### Collectives (R355 to R364) -/

theorem State.writeShadow_ordered (lid bt : Nat) (w : Writer) (bytes : List Byte) : (s.writeShadow lid bt w bytes).Ordered :=
  State.foldl_ordered _ (fun _ _ ht => State.write_ordered _ _ _ _ _ ht) _ h

theorem State.spoilShadow_ordered (lid bt : Nat) (w : Writer) : (s.spoilShadow lid bt w).Ordered :=
  (State.writeShadow_ordered h lid bt w _).of_mem rfl

theorem State.scarfEnd_ordered (lid bt : Nat) (C : Scarf) (status step rank : Nat) :
    (s.scarfEnd lid bt C status step rank).Ordered := by
  have h1 : (if status = 1 ∨ C.kind = 7 then s else s.spoilShadow lid bt C.writer).Ordered :=
    ite_ordered h (State.spoilShadow_ordered h ..)
  exact h1.of_mem (by simp [State.scarfEnd])

theorem State.scarfFault_ordered (lid bt : Nat) (C : Scarf) (rank : Nat) : (s.scarfFault lid bt C rank).Ordered :=
  State.scarfEnd_ordered (h.of_mem (by simp)) ..

theorem State.scarfExpire_ordered (lid bt : Nat) (C : Scarf) : (s.scarfExpire lid bt C).Ordered := by
  unfold State.scarfExpire
  split
  · exact h
  · exact State.scarfEnd_ordered (h.of_mem (by simp)) ..

theorem State.scarfFinish_ordered (lid bt : Nat) : (s.scarfFinish lid bt).Ordered := by
  simp only [State.scarfFinish]
  split
  · exact h
  · refine ite_ordered h (State.scarfEnd_ordered (ite_ordered h ?_) ..)
    exact (State.writeShadow_ordered h lid bt _ _).of_mem (by simp; rfl)

theorem State.scarfStart_ordered (b k : Nat) (st : Strand) (bt : Nat) (d : ScarfDesc) (m : RankMap) (rows : List (Nat × Nat × Nat))
    (src : List (Nat × Option Nat)) (own : List Nat) (pois : Bool) : (s.scarfStart b k st bt d m rows src own pois).Ordered := by
  unfold State.scarfStart
  extract_lets L C js C1 s0 s1
  have h0 : s0.Ordered := h.of_mem (State.tick_mem ..)
  have h1 : s1.Ordered := h0.of_mem ((State.setStrand_mem ..).trans (State.updLaunch_mem ..))
  clear_value s1
  exact ite_ordered (State.scarfFault_ordered h1 ..) (State.scarfFinish_ordered (h1.of_mem (by simp)) ..)

theorem State.ctxLoc_ordered (lid : Nat) (write : Bool) (va n : Nat) : (s.ctxLoc lid write va n).1.Ordered := by
  simp only [State.ctxLoc]
  split
  · exact h
  · exact State.cpTouch_ordered h ..

theorem State.ctxRead_ordered (lid va n : Nat) : (s.ctxRead lid va n).1.Ordered := by
  unfold State.ctxRead
  refine State.foldl_fst_ordered _ (fun r p hr => ?_) _ h
  split
  · exact hr
  · exact State.ctxLoc_ordered hr ..

theorem State.releaseWord_ordered (lid : Nat) (C : Scarf) (word : Nat) : (s.releaseWord lid C word).Ordered := by
  unfold State.releaseWord
  extract_lets a value put fire
  have hput {t : State} (ht : t.Ordered) (loc : Nat) : (put t loc).Ordered := State.writeRel_ordered ht ..
  have hfire {t : State} (ht : t.Ordered) (own : Option Nat) : (fire t own).Ordered := ht.of_mem (State.updLaunch_mem ..)
  clear_value value put fire
  refine ite_ordered h ?_
  split
  · split
    · exact hfire ((hput h _).of_mem (State.fill_mem ..)) _
    · exact h
  · next va _ =>
    have hx := State.ctxLoc_ordered h lid true va 8
    dsimp only
    split
    · exact hfire (hput hx _) _
    · exact hfire hx _
  · exact h

theorem State.releaseCmd_ordered (lid cmd q : Nat) : (s.releaseCmd lid cmd q).Ordered := by
  have hx := State.ctxRead_ordered h lid cmd 128
  simp only [State.releaseCmd]
  refine ite_ordered h ?_
  split
  · exact hx
  · next l _ =>
    have ha := State.append_ordered hx (s.launch lid).part q l
    split <;> exact ha.of_mem (by simp)

theorem State.scarfRelease_ordered (lid : Nat) (C : Scarf) : (s.scarfRelease lid C).Ordered := by
  unfold State.scarfRelease
  split
  · exact h
  · next word cmd q _ =>
    have h1 : (if word = 0 then s else s.releaseWord lid C word).Ordered := ite_ordered h (State.releaseWord_ordered h ..)
    exact ite_ordered h1 (State.releaseCmd_ordered h1 ..)

/-! ### The ends of launches and pre-emption (R330, R345, R348, R349) -/

theorem State.endLaunch_ordered (lid : Nat) : (s.endLaunch lid).Ordered := by
  simp only [State.endLaunch]
  refine State.refresh_ordered ?_ _
  exact (State.writeRecord_ordered h ..).of_mem (by simp; rfl)

theorem State.drainWalk_ordered (b : Nat) (w : Walk) : (s.drainWalk b w).Ordered := by
  have hx := State.ctxLoc_ordered h w.lid true
  simp only [State.drainWalk]
  refine ite_ordered h ?_
  split
  · split
    · exact State.write_ordered _ _ _ _ _ h
    · exact h
  · split
    · exact State.write_ordered _ _ _ _ _ (hx ..)
    · exact hx ..
  · exact h

theorem State.drainSaved_ordered (B : Bent) (w : Walk) : (s.drainSaved B w).Ordered := by
  have hx := State.ctxLoc_ordered h w.lid true
  simp only [State.drainSaved]
  refine ite_ordered h ?_
  split
  · split
    · exact State.write_ordered _ _ _ _ _ (hx ..)
    · exact hx ..
  · exact h

theorem State.dropShadow_ordered (lid : Nat) (p : Nat × Buffer) : (s.dropShadow lid p).Ordered :=
  ite_ordered (State.foldl_ordered _ (fun _ _ ht => State.zero_ordered _ _ _ ht) _ h) h

theorem State.drainRegion_ordered (lid : Nat) : (s.drainRegion lid).Ordered := by
  unfold State.drainRegion
  extract_lets s0 s1 s2 s3
  have h0 : s0.Ordered := State.foldl_ordered _ (fun _ _ ht => State.drainWalk_ordered ht ..) _ h
  have h1 : s1.Ordered := State.foldl_ordered _ (fun _ _ ht => State.drainSaved_ordered ht ..) _ h0
  have h2 : s2.Ordered := State.foldl_ordered _ (fun _ _ ht => ht.of_mem (State.updBent_mem ..)) _ h1
  have h3 : s3.Ordered := State.foldl_ordered _ (fun _ _ ht => State.dropShadow_ordered ht ..) _ h2
  exact h3.of_mem (State.updLaunch_mem ..)

theorem State.zeroPart_ordered (p : Nat) : (s.zeroPart p).Ordered :=
  State.foldl_ordered _ (fun _ _ ht => State.zeroSpad_ordered ht _) _ h

theorem State.beginPreempt_ordered (p : Nat) (v : Word) (abort : Bool) : (s.beginPreempt p v abort).Ordered := by
  unfold State.beginPreempt
  split
  · exact h.of_mem (by simp)
  · split
    · exact h.of_mem (by simp)
    · extract_lets s0 s1
      have h0 : s0.Ordered := ite_ordered (State.zeroPart_ordered h p) h
      have h1 : s1.Ordered := h0.of_mem (State.updPart_mem ..)
      exact ite_ordered (h1.of_mem (State.launchFault_mem ..)) h1

theorem State.saveLaunch_ordered (lid : Nat) : (s.saveLaunch lid).Ordered := by
  unfold State.saveLaunch
  extract_lets L region s1 s2
  have h2 : s2.Ordered := (State.foldl_ordered _ (fun _ _ ht => ht.of_mem (State.updBent_mem ..)) _
    (show s1.Ordered from h.of_mem rfl)).of_mem (State.updPart_mem ..)
  exact ite_ordered (h.of_mem (by simp)) (State.refresh_ordered (h2.of_mem (by simp)) _)

/-! ### Votes, rollback, restart and repair (R244, R370, R371, R374, R375) -/

theorem State.disagreed_ordered (b : Nat) (c : Cell) (e kind : Nat) (count : Bool) : (s.disagreed b c e kind count).Ordered :=
  ite_ordered (State.refresh_ordered (h.of_mem (by simp)) _) (h.of_mem (by simp))

theorem State.vote_ordered (b : Nat) (v : Vote) (c : InCell) (e : Nat) : (s.vote b v c e).Ordered := by
  have hd {t : State} (ht : t.Ordered) (x : Cell) (e k : Nat) (n : Bool) := State.disagreed_ordered ht b x e k n
  simp only [State.vote]
  split
  · split
    · exact ite_ordered (h.of_mem (by simp)) (hd (h.of_mem (by simp)) ..)
    · exact h.of_mem (by simp)
  · split
    · exact State.foldl_ordered _ (fun _ _ ht => hd ht ..) _ (h.of_mem (by simp))
    · split
      · exact hd (hd (hd (h.of_mem (by simp)) ..) ..) ..
      · exact h.of_mem (by simp)

theorem State.undoOne_ordered (u : Undo) : (s.undoOne u).Ordered := by
  have h1 : Memory.wf (Memory.putBytes s.mem u.base u.old) = true := Memory.putBytes_wf _ _ _ h
  simp only [State.undoOne]
  refine ite_ordered h ?_
  split <;> simpa [State.ordered_iff] using h1

theorem State.undoMemory_ordered (lid : Nat) : (s.undoMemory lid).Ordered :=
  State.foldl_ordered _ (fun _ _ ht => State.undoOne_ordered ht _) _ h

theorem State.restoreCut_ordered (lid : Nat) : (s.restoreCut lid).Ordered := by
  unfold State.restoreCut
  extract_lets s1 L s2 L1 s2' s3 s4 s5
  have h1 : s1.Ordered := State.undoMemory_ordered h lid
  have h2 : s2.Ordered := State.foldl_ordered _ (fun _ _ ht => ht.of_mem (State.updBent_mem ..)) _ h1
  have h3 : s3.Ordered := h2
  have h4 : s4.Ordered := State.foldl_ordered _ (fun _ _ ht => ht.of_mem (State.putBack_mem ..)) _ h3
  have h5 : s5.Ordered := State.foldl_ordered _ (fun _ _ ht => ht.of_mem (State.updBent_mem ..)) _ h4
  exact (State.foldl_ordered _ (fun _ _ ht => State.foldsOf_ordered ht ..) _ h5).of_mem (State.keepParked_mem ..)

theorem State.restart_ordered (lid : Nat) : (s.restart lid).Ordered := by
  have hr (a b c : Nat) := State.loadBox_ordered (State.drainRegion_ordered h lid) a b c
  simp only [State.restart]
  split
  · exact (hr ..).of_mem (State.failRestart_mem ..)
  · refine ite_ordered ((hr ..).of_mem (State.failRestart_mem ..)) (State.refresh_ordered ?_ _)
    exact (State.begin_ordered ((hr ..).of_mem (State.eraseLaunch_mem ..)) ..).of_mem (State.journalRoll_mem ..)

theorem State.hostLoc_ordered (p c va : Nat) : (s.hostLoc p c va).1.Ordered := by
  simp only [State.hostLoc]
  split
  · exact h
  · exact State.cpTouch_ordered h ..

theorem State.hostLocs_ordered (p c va n : Nat) : (s.hostLocs p c va n).1.Ordered := by
  unfold State.hostLocs
  refine State.foldl_fst_ordered _ (fun r p hr => ?_) _ h
  split
  · exact hr
  · exact State.hostLoc_ordered hr ..

theorem State.newBent_ordered (b : Nat) (spares : NMap Nat) : (s.newBent b spares).Ordered :=
  (State.zeroSpad_ordered (s := s.setBent b {}) (h.of_mem rfl) b).of_mem rfl

theorem State.repairResult_ordered (unmap : Bool) (b spare : Nat) : (s.repairResult unmap b spare).1.Ordered := by
  unfold State.repairResult
  (repeat' split) <;> simp only [h, State.newBent_ordered h]

theorem State.zeroDevice_ordered : s.zeroDevice.Ordered := Memory.filter_wf _ _ h

theorem State.bringUp_ordered : s.bringUp.Ordered := Memory.filter_wf _ _ h

end

end Sys2Proof.Machine
end

section
/-! PROOFS. The canonical form of the memory, kept by the instructions whose bodies need more than one rule. -/

open Sys2Proof

namespace Sys2Proof.Machine

section
variable {s : State} (h : s.Ordered)
include h

theorem execSt_ordered (d a : XReg) (sc : Scope) (o : Order) (t : ITy) (off : BitVec 7) :
    (execSt d a sc o t off s).Holds State.Ordered := by
  unfold execSt
  split
  · exact State.issue_ordered h _ fun b k st => State.memIssue_ordered h b k st _ (State.sendAccess_ordered h b k st _)
  · exact State.issue_ordered h _ fun b k st => State.ordered_of_mem (by simp) h

theorem execStfe_ordered (d a : XReg) (sc : Scope) (t : ITy) (off : BitVec 7) :
    (execStfe d a sc t off s).Holds State.Ordered := by
  unfold execStfe
  split
  · exact State.issue_ordered h _ fun b k st => State.memIssue_ordered h b k st _ (State.sendAccess_ordered h b k st _)
  · exact State.issue_ordered h _ fun b k st => State.ordered_of_mem (by simp) h

theorem execLdnb_ordered (d a : XReg) (sc : Scope) (t : ITy) (off : BitVec 7) :
    (execLdnb d a sc t off s).Holds State.Ordered := by
  unfold execLdnb
  split
  · exact State.issue_ordered h _ fun b k st => State.memIssue_ordered h b k st _ (State.sendAccess_ordered h b k st _)
  · exact State.issue_ordered h _ fun b k st => State.ordered_of_mem (by simp) h

theorem execLoadReturn_ordered (b k id : Nat) : (execLoadReturn b k id s).Holds State.Ordered := by
  unfold execLoadReturn
  (repeat' split) <;> simp [h, State.loadReturn_ordered h]

theorem execStoreCompletion_ordered (b k id : Nat) : (execStoreCompletion b k id s).Holds State.Ordered := by
  have hw (i : Bool) (st : Strand) (p : MemOp) : ((s.putSlotOrCont b k i st).writeOp p).Ordered :=
    State.writeOp_ordered (State.ordered_of_mem (by simp) h) p
  have hf (i : Bool) (p : MemOp) (st : Strand) : ((s.firstHalf p).1.putSlotOrCont b k i st).Ordered :=
    (State.firstHalf_ordered h p).of_mem (by simp)
  simp only [execStoreCompletion]
  (repeat' split) <;> simp [h, hw, hf] <;> simp [State.ordered_iff, h.wf]

theorem execFence_ordered (sc : Scope) : (execFence sc s).Holds State.Ordered :=
  State.issue_ordered h _ fun b k st => State.afterAll_ordered h b k st sc (by simp [State.ordered_iff, h.wf])

theorem execBarArrive_ordered (d : XReg) (sc : Scope) (n : BitVec 8) : (execBarArrive d sc n s).Holds State.Ordered :=
  State.command_ordered h _ fun b k st => by
    dsimp only
    (repeat' split) <;> simp [State.afterAll_ordered h, State.ordered_iff, h.wf]

theorem execBarWait_ordered (a : XReg) (sc : Scope) (n : BitVec 8) : (execBarWait a sc n s).Holds State.Ordered :=
  State.command_ordered h _ fun b k st => by
    dsimp only
    split
    · simp [State.ordered_iff, h.wf]
    · exact State.holdUntil_ordered (State.ordered_of_mem (by simp) h) b k st _ (by simp [State.ordered_iff, h.wf])

theorem execRvrel_ordered (a : XReg) (e : BitVec 4) : (execRvrel a e s).Holds State.Ordered :=
  State.issue_ordered h _ fun b k st => by
    dsimp only
    split <;> simp [State.holdUntil_ordered h, State.ordered_iff, h.wf]

theorem execWalkCellEmit_ordered (b e : Nat) : (execWalkCellEmit b e s).Holds State.Ordered := by
  unfold execWalkCellEmit
  (repeat' split) <;> simp [h, State.walkStep_ordered h]

theorem execWalkCompletion_ordered (b e : Nat) : (execWalkCompletion b e s).Holds State.Ordered := by
  simp only [execWalkCompletion]
  (repeat' split) <;> simp [h, State.walkWrite_ordered h] <;> simp [State.ordered_iff, h.wf]

theorem execRmark_ordered (a : XReg) : (execRmark a s).Holds State.Ordered :=
  State.issue_ordered h _ fun b k st => by
    have hm (ps : List (Nat × Nat)) : (s.sendMarks b k st ps).1.Ordered := State.ordered_of_mem (by simp) h
    dsimp only
    split
    · simp [State.ordered_iff, h.wf]
    split
    · exact State.closeRound_ordered h ..
    · exact State.holdUntil_ordered h _ _ _ _ (State.holdUntil_ordered h _ _ _ _ (State.holdUntil_ordered h _ _ _ _
        (State.closeRound_ordered (hm _) ..)))

theorem execMxGang_ordered (a : XReg) : (execMxGang a s).Holds State.Ordered :=
  State.issue_ordered h _ fun b k st => by
    split <;> simp [State.holdUntil_ordered h, State.ordered_iff, h.wf]

theorem execIqPush_ordered (a : XReg) (n : BitVec 8) : (execIqPush a n s).Holds State.Ordered :=
  State.command_ordered h _ fun b k st => by
    have ht (c : BitVec 16) : (s.trap b k st c).Ordered := State.ordered_of_mem (by simp) h
    refine ite_holds (ht _) (ite_holds (ht _) ?_)
    split
    · refine ite_holds (ht _) ?_
      split
      · exact ht _
      · exact State.holdAtoms_ordered h _ _ _ _ _ (State.holdUntil_ordered h _ _ _ _ (State.holdUntil_ordered h _ _ _ _
          (State.ordered_of_mem (by simp) h)))
    · exact ht _

theorem execIqTest_ordered (d : XReg) (n : BitVec 8) : (execIqTest d n s).Holds State.Ordered :=
  State.command_ordered h _ fun b k st => by
    dsimp only
    (repeat' split) <;> simp [State.ordered_iff, h.wf]

theorem execChopen_ordered (a : XReg) (n : BitVec 8) : (execChopen a n s).Holds State.Ordered :=
  State.issue_ordered h _ fun b k st => by
    dsimp only
    (repeat' split) <;> simp [State.holdUntil_ordered h, State.ordered_iff, h.wf]

theorem execRld_ordered (d a : XReg) (n : BitVec 8) : (execRld d a n s).Holds State.Ordered :=
  State.command_ordered h _ fun b k st => by
    split
    · simp [State.ordered_iff, h.wf]
    · exact State.withEntry_ordered h _ _ _ _ (State.holdAtoms_ordered h _ _ _ _ _ (State.holdUntil_ordered h _ _ _ _
        (State.ordered_of_mem (by simp) h)))

theorem execRst_ordered (d a : XReg) (n : BitVec 8) : (execRst d a n s).Holds State.Ordered :=
  State.command_ordered h _ fun b k st => by
    split
    · simp [State.ordered_iff, h.wf]
    · exact State.withEntry_ordered h _ _ _ _ (State.holdAtoms_ordered h _ _ _ _ _ (State.holdUntil_ordered h _ _ _ _
        (State.ordered_of_mem (by simp) h)))

theorem execRemoteRequest_ordered (k : Nat) : (execRemoteRequest k s).Holds State.Ordered := by
  have hw (w : Writer) (p : Packet) : (s.write w p.off p.data p.poison).Ordered := State.write_ordered _ _ _ _ _ h
  unfold execRemoteRequest
  (repeat' split) <;> simp [State.ordered_iff, h.wf, (hw _ _).wf]

theorem execChsend_ordered (a : XReg) (n : BitVec 8) : (execChsend a n s).Holds State.Ordered :=
  State.command_ordered h _ fun b k st => by
    split <;> simp [State.afterAll_ordered h, State.holdUntil_ordered h, State.ordered_iff, h.wf]

theorem execChrecv_ordered (a : XReg) (n : BitVec 8) : (execChrecv a n s).Holds State.Ordered :=
  State.command_ordered h _ fun b k st => by
    have hw (l : Nat) (x : Elem) : (s.write (s.writer b k st) l x.bytes x.poison).Ordered := State.write_ordered _ _ _ _ _ h
    (repeat' split) <;>
      simp [State.holdAtoms_ordered h, State.holdUntil_ordered h, State.ordered_iff, h.wf, (hw _ _).wf]

theorem execSplit_ordered (d a : XReg) : (execSplit d a s).Holds State.Ordered :=
  State.issue_ordered h _ fun b k st => by
    have hw := State.waitWord_ordered h b k st (st.rx a)
    dsimp only
    split
    · simp [State.ordered_iff, h.wf]
    split
    next c t e => simpa [State.ordered_iff, e, Acc.Holds] using hw
    next t w e => simpa [State.ordered_iff, e, Acc.Holds] using hw
    next loc path _ e =>
      refine State.afterLoads_ordered h b k st ?_
      split <;> simp [State.ordered_iff, h.wf]

theorem execYield_ordered (d : XReg) : (execYield d s).Holds State.Ordered :=
  State.issue_ordered h _ fun b k st => by
    split <;> simp [State.afterLoads_ordered h, State.ordered_iff, h.wf]

theorem execRft_ordered : (execRft s).Holds State.Ordered :=
  State.issue_ordered h _ fun b k st => by split <;> simp [State.ordered_iff, h.wf]

theorem execPendingTrapDelivery_ordered (b k : Nat) : (execPendingTrapDelivery b k s).Holds State.Ordered := by
  unfold execPendingTrapDelivery
  (repeat' split) <;> simp [State.ordered_iff, State.takeTrap_mem, h.wf]

theorem execMortiseSlot_ordered (b : Nat) : (execMortiseSlot b s).Holds State.Ordered := by
  have hl := State.foldl_ordered (fun (t : State) x => t.land b x) (fun t x ht => ht.of_mem (by simp))
    (s.bent b).landing (s := s.setBent b { (s.bent b).nextSlot with landing := [] }) (h.of_mem rfl)
  simp only [execMortiseSlot]
  split
  · simp [State.ordered_iff, h.wf]
  · simpa [State.ordered_iff] using hl.wf

theorem execDeadlockDetection_ordered (b k : Nat) : (execDeadlockDetection b k s).Holds State.Ordered := by
  simp only [execDeadlockDetection]
  split
  · exact h
  · split
    · exact h
    · exact State.foldl_ordered _ (fun t x ht => ht.of_mem (by simp)) _ (h.of_mem rfl)

theorem State.atOp_ordered (b op : Nat) : (s.atOp b op).Holds State.Ordered :=
  State.engine_ordered h b egAT op fun B x c => State.withOperands_ordered h b egAT x c 1 (by
    have he : (s.eat b egAT x).Ordered := State.ordered_of_mem (by simp) h
    dsimp only
    (repeat' split) <;> simp [State.ordered_iff, h.wf, (State.atApply_ordered he ..).wf])

theorem execCnIngest_ordered (b : Nat) : (execCnIngest b s).Holds State.Ordered :=
  State.engine_ordered h b egCN _ fun B x c => State.withOperands_ordered h b egCN x c 1 (by
    (repeat' split) <;> simp [State.ordered_iff, h.wf])

theorem execCnCons_ordered (b : Nat) : (execCnCons b s).Holds State.Ordered :=
  State.engine_ordered h b egCN _ fun B x c => State.withOperands_ordered h b egCN x c 1 (by
    dsimp only
    split <;> simp [State.ordered_iff, h.wf])

theorem execCnFlush_ordered (b : Nat) : (execCnFlush b s).Holds State.Ordered :=
  State.engine_ordered h b egCN _ fun B x c => State.withOperands_ordered h b egCN x c 1 (by
    split <;> simp [State.ordered_iff, h.wf])

theorem execCnJoin_ordered (b : Nat) : (execCnJoin b s).Holds State.Ordered :=
  State.engine_ordered h b egCN _ fun B x c => State.withOperands_ordered h b egCN x c 1 (by
    dsimp only
    (repeat' split) <;> simp [State.ordered_iff, h.wf])

theorem execPublishComplete_ordered (launch bt : Nat) : (execPublishComplete launch bt s).Holds State.Ordered := by
  have hs (L : Launch) : (s.setLaunch launch L).Ordered := State.ordered_of_mem (by simp) h
  unfold execPublishComplete
  (repeat' split) <;> simp [h, State.foldsOf_ordered (hs _)]

theorem execWriteback_ordered (b e : Nat) : (execWriteback b e s).Holds State.Ordered :=
  ite_holds (State.carry_ordered h b e) h

theorem execGirtSend_ordered (b : Nat) : (execGirtSend b s).Holds State.Ordered :=
  have hc := State.carry_ordered (s := (s.sendGranted b).gsMarker b) (State.ordered_of_mem (by simp) h) b egGS
  State.ordered_of_mem (by simp) hc

theorem execMxWload_ordered (b e : Nat) : (execMxWload b e s).Holds State.Ordered :=
  State.engine_ordered h b e _ fun B x c => State.withOperands_ordered h b e x c 1 (by
    dsimp only
    (repeat' split) <;> simp [State.ordered_iff, h.wf])

theorem execMxDrain_ordered (b e : Nat) : (execMxDrain b e s).Holds State.Ordered :=
  State.engine_ordered h b e _ fun B x c => State.withOperands_ordered h b e x c 1 (by
    dsimp only
    (repeat' split) <;> simp [State.ordered_iff, h.wf])

theorem execMxClear_ordered (b e : Nat) : (execMxClear b e s).Holds State.Ordered :=
  State.engine_ordered h b e _ fun B x c => State.withOperands_ordered h b e x c 1 (by
    (repeat' split) <;> simp [State.ordered_iff, h.wf])

theorem execSxSort_ordered (b : Nat) : (execSxSort b s).Holds State.Ordered :=
  State.engine_ordered h b egSX _ fun B x c => State.withOperands_ordered h b egSX x c 2 (by
    dsimp only
    split <;> simp [State.ordered_iff, h.wf])

theorem execSxMerge_ordered (b : Nat) : (execSxMerge b s).Holds State.Ordered :=
  State.engine_ordered h b egSX _ fun B x c => State.withOperands_ordered h b egSX x c 3 (by
    dsimp only
    (repeat' split) <;> simp [State.ordered_iff, h.wf])

theorem execSxTopk_ordered (b : Nat) : (execSxTopk b s).Holds State.Ordered :=
  State.engine_ordered h b egSX _ fun B x c => State.withOperands_ordered h b egSX x c _ (by
    dsimp only
    (repeat' split) <;> simp [State.ordered_iff, h.wf])

theorem execVtVote_ordered (b : Nat) : (execVtVote b s).Holds State.Ordered :=
  State.engine_ordered h b egVT _ fun B x c => State.withOperands_ordered h b egVT x c 1 (by
    have he : (s.eat b egVT x).Ordered := State.ordered_of_mem (by simp) h
    (repeat' split) <;> simp [State.ordered_iff, h.wf, (State.vote_ordered he ..).wf])

theorem execVend_ordered : (execVend s).Holds State.Ordered :=
  State.routine_ordered h fun b t r T R => State.ordered_of_mem (by simp) h

theorem State.mxClose_ordered (b e : Nat) : ∀ t, s.mxClose b e = some t → t.Ordered := by
  intro t ht
  simp only [State.mxClose] at ht
  split at ht
  · cases ht
  · cases ht
    split <;> simp [State.ordered_iff, h.wf]

theorem execRoundEntry_ordered (b e : Nat) : (execRoundEntry b e s).Holds State.Ordered := by
  have he (n : BitVec 16) :=
    State.edgeOf_ordered (s := s.updBent b (fun B => B.enterRound e n)) (State.ordered_of_mem (by simp) h) b e n
  have hc (t : State) (ht : (if e < 4 then s.mxClose b e else none) = some t) : t.Ordered := by
    split at ht
    · exact State.mxClose_ordered h b e t ht
    · cases ht
  unfold execRoundEntry
  split
  · split
    · exact h
    · next t ht => exact hc _ ht
    · exact State.ordered_of_mem (by simp) (he ((s.bent b).roundAt e))
  · exact h

theorem execHbmAtomicRoundClose_ordered (launch channel : Nat) :
    (execHbmAtomicRoundClose launch channel s).Holds State.Ordered := by
  simp only [execHbmAtomicRoundClose]
  split
  · simp [State.ordered_iff, h.wf]
  · refine State.foldl_ordered _ (fun t x ht => ?_) _ h
    split
    · exact ht
    · exact State.applyAtom_ordered ht ..

theorem execTableWalk_ordered (die : Nat) : (execTableWalk die s).Holds State.Ordered := by
  simp only [execTableWalk]
  split
  · exact h
  · exact State.foldl_ordered _ (fun t x ht => ht.of_mem (by simp)) _ (h.of_mem (by simp))

theorem execPageScrub_ordered (page : Nat) : (execPageScrub page s).Holds State.Ordered := by
  unfold execPageScrub
  split
  · exact h
  · next q _ => exact (State.zeroPage_ordered h page q.2).of_mem rfl

theorem execAppend_ordered (p q : Nat) (cmd : List Byte) : (execAppend p q cmd s).Holds State.Ordered :=
  State.ordered_of_mem (by simp) (State.append_ordered h p q cmd)

theorem execQcbDisable_ordered (p q : Nat) : (execQcbDisable p q s).Holds State.Ordered := by
  have hj (l : List (Nat × Nat)) : (l.foldl (fun t x => t.journalState p x.1 0x09) s).Ordered :=
    State.foldl_ordered _ (fun t x ht => ht.of_mem (by simp)) _ h
  simp only [execQcbDisable]
  split
  · exact State.refresh_ordered (State.ordered_of_mem (by simp) (hj ((s.part p).qcb q).pend)) p
  · exact h

theorem execDispatchDecision_ordered (p : Nat) : (execDispatchDecision p s).Holds State.Ordered :=
  State.decideNext_ordered (State.refresh_ordered h p) p

theorem execContextEnable_ordered (p c : Nat) : (execContextEnable p c s).Holds State.Ordered :=
  State.refreshAll_ordered (State.ordered_of_mem (by simp) (State.underKey_ordered h c))

theorem execContextDisable_ordered (p c : Nat) : (execContextDisable p c s).Holds State.Ordered :=
  have hr := State.refreshAll_ordered (s := s.updCtx c (fun C => { C with ending := C.en })) (State.ordered_of_mem (by simp) h)
  State.ordered_of_mem (by simp) hr

theorem execPlacement_ordered (p : Nat) : (execPlacement p s).Holds State.Ordered := by
  have hd : (s.deselect p).Ordered := State.ordered_of_mem (by simp) h
  simp only [execPlacement]
  (repeat' split) <;> simp [hd, State.placeHead_ordered hd, State.restore_ordered hd]

theorem execRankmap_ordered (a : XReg) (n : BitVec 8) : (execRankmap a n s).Holds State.Ordered :=
  State.command_ordered h _ fun b k st => by
    have ht (c : BitVec 16) : (s.trap b k st c).Ordered := State.ordered_of_mem (by simp) h
    dsimp only
    split
    · exact ht _
    · refine ite_holds (ht _) (State.holdUntil_ordered h b k st _ (State.withClean_ordered h b k st _ _ fun l => ?_))
      refine ite_holds (ht _) (State.withClean_ordered h b k st _ _ fun ids => ?_)
      split
      · exact ht _
      · exact State.ordered_of_mem (by simp) h

theorem State.scarfTake_ordered (b k : Nat) (st : Strand) (bt : Nat) (d : ScarfDesc) (m : RankMap) :
    (s.scarfTake b k st bt d m).Holds State.Ordered :=
  State.withClean_ordered h b k st _ _ fun tab => by
    split
    · exact State.ordered_of_mem (by simp) h
    · exact State.withBytes_ordered h b k st _ _ fun l p =>
        State.holdUntil_ordered h b k st _ (State.scarfStart_ordered h ..)

theorem execScarf_ordered (a : XReg) (n : BitVec 8) : (execScarf a n s).Holds State.Ordered :=
  State.command_ordered h _ fun b k st => by
    have ht (c : BitVec 16) : (s.trap b k st c).Ordered := State.ordered_of_mem (by simp) h
    dsimp only
    split
    · exact ht _
    · refine ite_holds (ht _) (State.afterAll_ordered h b k st _ (State.holdUntil_ordered h b k st _
        (State.withClean_ordered h b k st _ _ fun l => ?_)))
      split
      · exact ht _
      · exact ite_holds (ht _) (State.scarfTake_ordered h ..)

theorem execScarfWait_ordered (d : XReg) (n : BitVec 8) : (execScarfWait d n s).Holds State.Ordered :=
  State.command_ordered h _ fun b k st => by
    dsimp only
    split
    · exact State.ordered_of_mem (by simp) h
    · refine State.holdUntil_ordered h b k st _ ?_
      split <;> simp [State.ordered_iff, h.wf]

theorem execScarfMessage_ordered (launch bt : Nat) (m : ScarfMsg) : (execScarfMessage launch bt m s).Holds State.Ordered := by
  unfold execScarfMessage
  (repeat' split) <;>
    simp [State.ordered_iff, h.wf, (State.scarfExpire_ordered h ..).wf, (State.scarfFault_ordered h ..).wf]

theorem execScarfResend_ordered (launch bt : Nat) : (execScarfResend launch bt s).Holds State.Ordered := by
  have hm (l : List ((Nat × Nat) × ScarfMsg)) (C : Scarf) :
      (l.foldl (fun t x => t.toPeer (.msg C.collid (C.device x.1.2) x.2)) s).Ordered :=
    State.foldl_ordered _ (fun t x ht => ht.of_mem (by simp)) _ h
  simp only [execScarfResend]
  (repeat' split) <;> simp [State.ordered_iff, h.wf, (hm _ _).wf]

theorem execScarfStepComplete_ordered (launch bt : Nat) : (execScarfStepComplete launch bt s).Holds State.Ordered := by
  have hr (C : Scarf) := State.scarfRelease_ordered h launch C
  simp only [execScarfStepComplete]
  split
  · exact h
  · next C _ =>
    split
    · exact ite_holds (State.scarfFinish_ordered (State.ordered_of_mem (by simp) (hr C)) ..) h
    · exact State.scarfFinish_ordered h ..

theorem execScarfStepTimeout_ordered (launch bt : Nat) : (execScarfStepTimeout launch bt s).Holds State.Ordered := by
  unfold execScarfStepTimeout
  (repeat' split) <;> simp [h, State.scarfExpire_ordered h]

theorem execScarfAbort_ordered (launch bt collid gen step rank : Nat) (by_ : AbortBy) :
    (execScarfAbort launch bt collid gen step rank by_ s).Holds State.Ordered := by
  unfold execScarfAbort
  (repeat' split) <;> simp [h, State.scarfExpire_ordered h, State.scarfEnd_ordered h]

theorem execLaunchCompletion_ordered (launch : Nat) : (execLaunchCompletion launch s).Holds State.Ordered := by
  have hf (f : Nat) : (s.launchFault launch f 0 0 0).Ordered := State.ordered_of_mem (State.launchFault_mem ..) h
  simp only [execLaunchCompletion]
  (repeat' split) <;> simp only [Out.holds_next, h, hf, State.endLaunch_ordered h]

theorem execHangDetected_ordered (launch : Nat) : (execHangDetected launch s).Holds State.Ordered := by
  unfold execHangDetected
  (repeat' split) <;> simp [State.ordered_iff, State.launchFault_mem, h.wf]

theorem execRegionDrain_ordered (launch : Nat) : (execRegionDrain launch s).Holds State.Ordered := by
  unfold execRegionDrain
  (repeat' split) <;> simp [h, State.drainRegion_ordered h, State.endLaunch_ordered h]

theorem execPreemptRequest_ordered (p : Nat) (v : Word) : (execPreemptRequest p v s).Holds State.Ordered :=
  ite_holds h (State.beginPreempt_ordered h ..)

theorem execAbortRequest_ordered (p : Nat) (v : Word) : (execAbortRequest p v s).Holds State.Ordered :=
  ite_holds h (State.beginPreempt_ordered h ..)

theorem execPreemptQuiescent_ordered (p : Nat) : (execPreemptQuiescent p s).Holds State.Ordered := by
  refine State.foldl_ordered _ (fun t x ht => ?_) _ (State.ordered_of_mem (State.gateAll_mem ..) h)
  exact ite_ordered (State.saveLaunch_ordered ht x) ht

theorem execPreemptTimeout_ordered (p : Nat) : (execPreemptTimeout p s).Holds State.Ordered :=
  State.foldl_ordered _ (fun t x ht => ht.of_mem (by simp)) _ h

theorem execPsvcServe_ordered (p : Nat) : (execPsvcServe p s).Holds State.Ordered := by
  have h1 : (if (s.part p).offline then s.zeroPart p else s).Ordered := ite_ordered (State.zeroPart_ordered h p) h
  exact State.refresh_ordered (State.ordered_of_mem (by simp) h1) p

theorem execPsvcDrainAll_ordered (p : Nat) : (execPsvcDrainAll p s).Holds State.Ordered :=
  State.foldl_ordered _ (fun t x ht => ht.of_mem (State.launchFault_mem ..)) _ (State.ordered_of_mem (by simp) h)

theorem execRegionRollback_ordered (launch : Nat) : (execRegionRollback launch s).Holds State.Ordered := by
  have hc := State.restoreCut_ordered h launch
  unfold execRegionRollback
  (repeat' split) <;> simp [State.ordered_iff, State.launchFault_mem, h.wf, (State.restart_ordered h _).wf, hc.wf]

theorem execHostWindowWrite_ordered (p c : Nat) (addr : Word) (bytes : List Byte) :
    (execHostWindowWrite p c addr bytes s).Holds State.Ordered := by
  have hl := State.hostLocs_ordered h p c addr.toNat bytes.length
  simp only [execHostWindowWrite]
  (repeat' split)
  · simp [State.ordered_iff, h.wf]
  · simp [State.ordered_iff, hl.wf]
  · exact State.foldl_ordered _ (fun t x ht => State.poke_ordered _ _ _ ht) _ hl

theorem execRepairMappingDone_ordered (p : Nat) : (execRepairMappingDone p s).Holds State.Ordered := by
  simp only [execRepairMappingDone]
  split
  · exact h
  · next u b spare _ => exact State.refresh_ordered ((State.repairResult_ordered h u b spare).of_mem (by simp)) _

theorem execDebugUnlock_ordered (token : List Byte) : (execDebugUnlock token s).Holds State.Ordered := by
  have he : ((s.launches.map Prod.fst).foldl State.endUnrecorded s).Ordered :=
    State.foldl_ordered _ (fun t x ht => ht.of_mem (by simp)) _ h
  simp only [execDebugUnlock]
  refine ite_holds (State.foldl_ordered _ (fun t x ht => State.refresh_ordered ht x) _ ?_) h
  exact (State.zeroDevice_ordered he).of_mem (by simp)

theorem execResetRelease_ordered : (execResetRelease s).Holds State.Ordered := ite_holds (State.bringUp_ordered h) h

theorem execRegisterWrite_ordered (w : Window) (off : Nat) (v : Word) : (execRegisterWrite w off v s).Holds State.Ordered := by
  unfold execRegisterWrite
  split
  · refine ite_holds h (ite_holds (ite_ordered (State.refreshAll_ordered (State.ordered_of_mem (by simp) h)) h) ?_)
    exact State.refresh_ordered (State.ordered_of_mem (by simp) h) _
  · exact State.ordered_of_mem (by simp) h

theorem execFsqrt_ordered (d a : FReg) (r : Rnd) : (execFsqrt d a r s).Holds State.Ordered :=
  State.issue_ordered h _ fun _ _ _ => State.sigWrite_ordered h ..

theorem execFma_ordered (d a b c : FReg) (r : Rnd) : (execFma d a b c r s).Holds State.Ordered :=
  State.issue_ordered h _ fun _ _ _ => State.sigWrite_ordered h ..

theorem execFcvtFf_ordered (d a : FReg) (fmt : BitVec 5) (r : Rnd) : (execFcvtFf d a fmt r s).Holds State.Ordered :=
  State.issue_ordered h _ fun _ _ _ => State.sigWrite_ordered h ..

end

end Sys2Proof.Machine
end

section
/-! PROOFS. The canonical form of the memory, kept by every instruction and so by every step. -/

open Sys2Proof

namespace Sys2Proof.Machine

section
variable {s : State} (h : s.Ordered)
include h

/-- Every instruction keeps the canonical form: most write no memory, the others through the operations above. -/
theorem exec_ordered (i : Instr) : Out.Holds State.Ordered (exec i s) := by
  cases i with
  | add | sub | mul | mulh | div | rem | and | or | xor | sll | srl | sra | min | max | clz | ctz | popc | sext | zext | addi
    | andi | ori | xori | slli | srli | srai | bfx | bfi | cmpEq | cmpNe | cmpLt | cmpGe | cmpLtu | cmpGeu | cselX | cselF
    | lea | widf | brEq | brNe | brLt | brGe | brLtu | brGeu | bcS | bcC | bsigLt | bsigGe | jal | lbeg | fmin | fmax | fabs
    | fneg | fcmpEq | fcmpLt | fcmpLe | fcmpNe | fclass | fmov | fmovXf | fmovFx | fcvtFx | fcvtXf | fsig | fsigset | nop =>
    exact State.local_ordered h ..
  | fadd | fsub | fmul | fdiv =>
    dsimp only [exec]
    exact State.fpOp_ordered h ..
  | amoSwap | amoCas | amoAdd | amoFadd | amoAnd | amoOr | amoXor | amoMin | amoMax | amoMinu | amoMaxu =>
    exact State.amoInstr_ordered h ..
  | cell | cellm | cellv | inj =>
    exact State.cellInstr_ordered h ..
  | walk | walkb =>
    exact State.walkInstr_ordered h ..
  | vadd | vaddSat | vsub | vsubSat | vmul | vmulSat | vfma | vmin | vmax | vabs | vneg | vdiv | vrcp | vrsqrt | vsqrt
    | vexp2 | vlog2 | vcmpEq | vcmpLt | vcmpLe | vcmpNe | vselL0 | vselL1 | vand | vor | vxor | vnot | vshl | vshrL | vshrA =>
    dsimp only [exec]
    exact State.ew_ordered h ..
  | vcvt | vquant | vdequant | vperm | vbcast | vrec =>
    simp only [exec, execVcvt, execVquant, execVdequant, execVperm, execVbcast, execVrec]
    exact State.flat_ordered h ..
  | vredAdd | vredMin | vredMax =>
    exact State.vred_ordered h ..
  | vscanAdd | vscanMin | vscanMax =>
    exact State.vscan_ordered h ..
  | tcfg | tcfgDiscard =>
    exact State.tileConfig_ordered h ..
  | vbrAll | vbrAny =>
    exact State.vbr_ordered h ..
  | mxFire | mxFireStrict | mxFireSp | mxFireSpStrict =>
    exact State.fire_ordered h ..
  | vsigLt | vsigGe | vsigCnt =>
    simp only [exec, execVsigLt, execVsigGe, execVsigCnt, State.vsig]
    exact State.flat_ordered h ..
  | atSwap | atCas | atAdd | atFadd | atAnd | atOr | atXor | atMin | atMax | atMinu | atMaxu =>
    exact State.atOp_ordered h ..
  | liZ | liK =>
    exact State.local_ordered h ..
  | ld | ldt | stt | ldfe =>
    exact State.issue_ordered h _ fun b k st => State.memIssue_ordered h b k st _ (State.sendAccess_ordered h b k st _)
  | widNext | rvres | ctlWr | jr | lend | sxCfg | trap | evqRead | votelogRead | exit | exitAbandon | sinkX | sinkF | ident
    | ctlRd =>
    simp only [exec, execWidNext, execRvres, execCtlWr, execJr, execLend, execSxCfg, execTrap, execEvqRead, execVotelogRead,
      execExit, execExitAbandon, execSinkX, execSinkF, execIdent, execCtlRd]
    exact State.issue_ordered h _ fun _ _ _ => by
      (repeat' split) <;> simp [State.ordered_iff, h.wf]
  | wlst | barInit | barTest | publish =>
    simp only [exec, execWlst, execBarInit, execBarTest, execPublish]
    exact State.command_ordered h _ fun _ _ _ => by
      (repeat' split) <;> simp [State.ordered_iff, h.wf]
  | cin | cout | cfwd =>
    simp only [exec, execCin, execCout, execCfwd]
    exact State.opword_ordered h _ _ _ fun _ _ _ _ _ => by
      (repeat' split) <;> simp [State.ordered_iff, h.wf]
  | vloop =>
    dsimp only [exec]
    exact State.routine_ordered h fun _ _ _ _ _ => by
      (repeat' split) <;> simp [State.ordered_iff, h.wf]
  | mxRowFire | continuationResume | rendezvousOperand | markerReceipt | vxCellDelivery | longLatencyComplete
    | partialCombine | routineEnd | sinkData | feedbackAccept | grEnqueue | tlbMissRetry | strandWake | strandDone
    | continuationReady | firingLanded | grReservation | walkBegin | walkbCounterRead | remoteResponse | fenceComplete
    | tlbinvComplete | illegalInstruction | instructionFetchFault | keycmdDone | attestationReportDone | goldenEpoch
    | faultackResume | faultackEnd | qcbEnable | contextResidencyEnd | tlbinvPage | tlbinvAll | psvcStopDispatch
    | psvcPreemptAll | partitionOffline | correctedError | uncorrectableError | patrolScrub | eccstatClear | repairMap
    | repairUnmap | laneLoss | laneRestore | flitReplay | firmwareReplace | attestationRequest | keyLoad | keyClear
    | supplyOutOfRange | fabidWrite | powerMeasurement | linkFailure | thermalShutdown | headAged =>
    simp only [exec, execMxRowFire, execContinuationResume, execRendezvousOperand, execMarkerReceipt, execVxCellDelivery,
      execLongLatencyComplete, execPartialCombine, execRoutineEnd, execSinkData, execFeedbackAccept, execGrEnqueue,
      execTlbMissRetry, execStrandWake, execStrandDone, execContinuationReady, execFiringLanded, execGrReservation,
      execWalkBegin, execWalkbCounterRead, execRemoteResponse, execFenceComplete, execTlbinvComplete, execIllegalInstruction,
      execInstructionFetchFault, execKeycmdDone, execAttestationReportDone, execGoldenEpoch, execFaultackResume,
      execFaultackEnd, execQcbEnable, execContextResidencyEnd, execTlbinvPage, execTlbinvAll, execPsvcStopDispatch,
      execPsvcPreemptAll, execPartitionOffline, execCorrectedError, execUncorrectableError, execPatrolScrub,
      execEccstatClear, execRepairMap, execRepairUnmap, execLaneLoss, execLaneRestore, execFlitReplay, execFirmwareReplace,
      execAttestationRequest, execKeyLoad, execKeyClear, execSupplyOutOfRange, execFabidWrite, execPowerMeasurement,
      execLinkFailure, execThermalShutdown, execHeadAged]
    (repeat' split) <;> simp [State.ordered_iff, h.wf]
  | fsqrt => exact execFsqrt_ordered h ..
  | fcvtFf => exact execFcvtFf_ordered h ..
  | fma => exact execFma_ordered h ..
  | st => exact execSt_ordered h ..
  | stfe => exact execStfe_ordered h ..
  | ldnb => exact execLdnb_ordered h ..
  | fence => exact execFence_ordered h ..
  | barArrive => exact execBarArrive_ordered h ..
  | barWait => exact execBarWait_ordered h ..
  | publishComplete => exact execPublishComplete_ordered h ..
  | rvrel => exact execRvrel_ordered h ..
  | mxGang => exact execMxGang_ordered h ..
  | iqPush => exact execIqPush_ordered h ..
  | iqTest => exact execIqTest_ordered h ..
  | rmark => exact execRmark_ordered h ..
  | chopen => exact execChopen_ordered h ..
  | rld => exact execRld_ordered h ..
  | rst => exact execRst_ordered h ..
  | chsend => exact execChsend_ordered h ..
  | chrecv => exact execChrecv_ordered h ..
  | split => exact execSplit_ordered h ..
  | yield => exact execYield_ordered h ..
  | scarf => exact execScarf_ordered h ..
  | scarfWait => exact execScarfWait_ordered h ..
  | rankmap => exact execRankmap_ordered h ..
  | mxWload => exact execMxWload_ordered h ..
  | mxDrain => exact execMxDrain_ordered h ..
  | mxClear => exact execMxClear_ordered h ..
  | sxSort => exact execSxSort_ordered h ..
  | sxMerge => exact execSxMerge_ordered h ..
  | sxTopk => exact execSxTopk_ordered h ..
  | cnIngest => exact execCnIngest_ordered h ..
  | cnCons => exact execCnCons_ordered h ..
  | cnJoin => exact execCnJoin_ordered h ..
  | cnFlush => exact execCnFlush_ordered h ..
  | vtVote => exact execVtVote_ordered h ..
  | loadReturn => exact execLoadReturn_ordered h ..
  | storeCompletion => exact execStoreCompletion_ordered h ..
  | pendingTrapDelivery => exact execPendingTrapDelivery_ordered h ..
  | writeback => exact execWriteback_ordered h ..
  | girtSend => exact execGirtSend_ordered h ..
  | mortiseSlot => exact execMortiseSlot_ordered h ..
  | roundEntry => exact execRoundEntry_ordered h ..
  | hbmAtomicRoundClose => exact execHbmAtomicRoundClose_ordered h ..
  | walkCellEmit => exact execWalkCellEmit_ordered h ..
  | walkCompletion => exact execWalkCompletion_ordered h ..
  | launchCompletion => exact execLaunchCompletion_ordered h ..
  | scarfStepComplete => exact execScarfStepComplete_ordered h ..
  | scarfStepTimeout => exact execScarfStepTimeout_ordered h ..
  | deadlockDetection => exact execDeadlockDetection_ordered h ..
  | remoteRequest => exact execRemoteRequest_ordered h ..
  | tableWalk => exact execTableWalk_ordered h ..
  | pageScrub => exact execPageScrub_ordered h ..
  | append => exact execAppend_ordered h ..
  | dispatchDecision => exact execDispatchDecision_ordered h ..
  | placement => exact execPlacement_ordered h ..
  | qcbDisable => exact execQcbDisable_ordered h ..
  | contextEnable =>
    dsimp only [exec]
    exact execContextEnable_ordered h ..
  | contextDisable =>
    dsimp only [exec]
    exact execContextDisable_ordered h ..
  | preemptRequest => exact execPreemptRequest_ordered h ..
  | abortRequest => exact execAbortRequest_ordered h ..
  | preemptQuiescent => exact execPreemptQuiescent_ordered h ..
  | preemptTimeout => exact execPreemptTimeout_ordered h ..
  | hangDetected => exact execHangDetected_ordered h ..
  | regionDrain => exact execRegionDrain_ordered h ..
  | psvcServe => exact execPsvcServe_ordered h ..
  | psvcDrainAll => exact execPsvcDrainAll_ordered h ..
  | regionRollback => exact execRegionRollback_ordered h ..
  | hostWindowWrite => exact execHostWindowWrite_ordered h ..
  | scarfMessage => exact execScarfMessage_ordered h ..
  | scarfAbort => exact execScarfAbort_ordered h ..
  | scarfResend => exact execScarfResend_ordered h ..
  | debugUnlock => exact execDebugUnlock_ordered h ..
  | registerWrite => exact execRegisterWrite_ordered h ..
  | repairMappingDone => exact execRepairMappingDone_ordered h ..
  | rft => exact execRft_ordered h ..
  | vend => exact execVend_ordered h ..
  | resetRelease => exact execResetRelease_ordered h ..

theorem State.unfetched_ordered (a : Act) : (s.unfetched a).Ordered := by
  unfold State.unfetched
  (repeat' split) <;> simp [State.ordered_iff, h.wf]

theorem State.prepare_ordered (a : Act) : ∀ i t, s.prepare a = some (i, t) → t.Ordered := by
  intro i t ht
  refine State.ordered_of_mem ?_ h
  unfold State.prepare at ht
  (repeat' split at ht) <;> grind [Option.map_eq_some_iff, Option.bind_eq_some_iff]

omit h in
theorem State.credited_ordered {o : Out} (ho : o.Holds State.Ordered) : (s.credited o).Holds State.Ordered := by
  cases o with
  | next t => exact State.ordered_of_mem (t := s.credit t) rfl ho
  | fault r => trivial
  | refused r => trivial

theorem State.run_ordered (a : Act) : (s.run a).Holds State.Ordered := by
  unfold State.run
  split
  next i t e =>
    have ht := State.prepare_ordered h a i t e
    exact State.credited_ordered (exec_ordered ht i)
  next => exact State.unfetched_ordered h a

theorem Auto.meaning_ordered (a : Auto) : (a.meaning s).Holds State.Ordered := by
  cases a with
  | act x => exact State.run_ordered h x
  | remoteRequest k => exact exec_ordered h (.remoteRequest k)
  | remoteResponse k => exact exec_ordered h (.remoteResponse k)
  | tableWalk die => exact exec_ordered h (.tableWalk die)
  | tlbMissRetry die => exact exec_ordered h (.tlbMissRetry die)
  | pageScrub page => exact exec_ordered h (.pageScrub page)
  | dispatchDecision p => exact exec_ordered h (.dispatchDecision p)
  | placement p => exact exec_ordered h (.placement p)
  | contextResidencyEnd p c => exact exec_ordered h (.contextResidencyEnd p c)
  | tlbinvComplete p => exact exec_ordered h (.tlbinvComplete p)
  | preemptQuiescent p => exact exec_ordered h (.preemptQuiescent p)
  | preemptTimeout p => exact exec_ordered h (.preemptTimeout p)
  | hangDetected launch => exact exec_ordered h (.hangDetected launch)
  | regionDrain launch => exact exec_ordered h (.regionDrain launch)
  | regionRollback launch => exact exec_ordered h (.regionRollback launch)
  | partitionOffline p => exact exec_ordered h (.partitionOffline p)
  | scarfStepTimeout launch bt => exact exec_ordered h (.scarfStepTimeout launch bt)
  | scarfResend launch bt => exact exec_ordered h (.scarfResend launch bt)
  | deadlockDetection b k => exact exec_ordered h (.deadlockDetection b k)

theorem State.runAuto_ordered (a : Auto) : (s.runAuto a).Holds State.Ordered := by
  have h0 : ({ s with cur := .none } : State).Ordered := h
  unfold State.runAuto
  split
  · exact State.run_ordered h _
  · exact ite_holds h (State.credited_ordered (Auto.meaning_ordered h0 _))

theorem State.turn_ordered : s.turn.2.Ordered := by
  unfold State.turn
  split <;> exact h

theorem step_ordered : Out.Holds State.Ordered (step s) := by
  have ht := State.turn_ordered h
  unfold step
  split
  next a t e => exact State.runAuto_ordered (by simpa [e] using ht) a
  next t e => simpa [e] using ht

end

end Sys2Proof.Machine

namespace Sys2Proof.Proofs

open Sys2Proof.Machine

/-- Settles O60: what an instruction answers is ordered where its state is, operation by operation; a step runs one instruction or
none. -/
theorem stepKeepsMemoryOrdered : Obligations.StepKeepsMemoryOrdered := fun s t hs ht => by
  have h := step_ordered hs
  rwa [ht] at h

end Sys2Proof.Proofs
end

section
/-! PROOFS. The register forms (R106, R107): each is a change of its own strand alone, and what such a change keeps. -/

open Sys2Proof

namespace Sys2Proof.Machine

/-- A form is local: it changes its strand by a function that keeps all but the registers it writes. -/
def Form.IsLocal (p : Form) : Prop :=
  ∀ s, ∃ f : Strand → Strand, exec p.1 s = s.local p.2.1 f ∧ ∀ st : Strand, st.SameExcept (f st) p.2.2.1 p.2.2.2.1 p.2.2.2.2

theorem integerForms_local (o : Fields) : ∀ p ∈ integerForms o, p.IsLocal := by
  simp only [integerForms, List.forall_mem_cons, List.not_mem_nil, false_imp_iff, implies_true, and_true]
  and_intros
  all_goals exact fun s => ⟨_, rfl, fun st => by simp only [Strand.next, Strand.wf, Strand.same_wx, Strand.same_wc, Strand.same_wf]⟩

theorem branchForms_local (o : Fields) : ∀ p ∈ branchForms o, p.IsLocal := by
  simp only [branchForms, List.forall_mem_cons, List.not_mem_nil, false_imp_iff, implies_true, and_true]
  and_intros
  all_goals exact fun s => ⟨_, rfl, fun st => by simp only [Strand.next, Strand.same_wx, Strand.same_branch, Strand.same_goto]⟩

theorem floatForms_local (o : Fields) : ∀ p ∈ floatForms o, p.IsLocal := by
  simp only [floatForms, List.forall_mem_cons, List.not_mem_nil, false_imp_iff, implies_true, and_true]
  and_intros
  all_goals exact fun s => ⟨_, rfl, fun st => by simp only [Strand.next, Strand.wf, Strand.same_wx, Strand.same_wc, Strand.same_wf]⟩

theorem registerForms_local (o : Fields) : ∀ p ∈ registerForms o, p.IsLocal := by
  simp only [registerForms, List.forall_mem_append]
  exact ⟨⟨integerForms_local o, branchForms_local o⟩, floatForms_local o⟩

/-! ### When a current strand's instruction does not issue -/

section
variable {s : State} {b k : Nat} {st : Strand} (h : s.Current b k st) (u : Uses) (body : Nat → Nat → Strand → Out)
include h

theorem State.issue_of_current : s.issue u body =
    if st.blocking u = [] then (if st.poisonedUse u = true then .next (s.trap b k st 0x0031) else body b k st)
    else if (s.launch st.lid).det = true ∧ (st.blocking u).any st.stuck = true then .next (s.trap b k st 0x0001) else .next s := by
  obtain ⟨hc, hs, hr, L, hl, hp⟩ := h
  have ho : s.open? st = true := by simp [State.open?, hr, hl, hp]
  simp only [State.issue, State.ready, hc, hs, ho, Bool.and_eq_true, Bool.true_eq_false, if_false]
  by_cases hb : st.blocking u = []
  · by_cases hq : st.poisonedUse u = true <;> simp [hb, hq]
  · rw [if_neg hb, if_pos (by simpa using hb)]
    by_cases hd : (s.launch st.lid).det = true ∧ (st.blocking u).any st.stuck = true
    · rw [if_pos hd, if_pos hd]
    · rw [if_neg hd, if_neg hd]

/-- R106: while a register waits, an instruction that names it does not issue; R153: behind an atomic of the current round of a
deterministic launch it traps; R107: a poisoned source traps. -/
theorem State.issue_blocked_or_poisoned :
    (let held := st.blocking u
     (held ≠ [] → (s.launch st.lid).det = false ∨ held.any st.stuck = false → s.issue u body = .next s) ∧
     ((s.launch st.lid).det = true → held.any st.stuck = true → s.issue u body = .next (s.trap b k st 0x0001))) ∧
    (st.blocking u = [] → st.poisonedUse u = true → s.issue u body = .next (s.trap b k st 0x0031)) := by
  rw [State.issue_of_current h]
  refine ⟨⟨fun hb hd => ?_, fun hd ht => ?_⟩, fun hb hp => ?_⟩
  · rw [if_neg hb, if_neg (by rcases hd with hd | hd <;> simp [hd])]
  · have hb : st.blocking u ≠ [] := fun e => by simp [e] at ht
    rw [if_neg hb, if_pos ⟨hd, ht⟩]
  · rw [if_pos hb, if_pos hp]

end

/-! ### Reads and writes -/

theorem Strand.hardwired (st : Strand) (v : Word) (c : Bool) :
    st.rx 0 = 0 ∧ st.poisonX 0 = false ∧ st.rc 0 = true ∧ st.wx 0 v = st ∧ st.wc 0 c = st := ⟨rfl, rfl, rfl, rfl, rfl⟩

theorem Strand.read_wx (st : Strand) (d r : XReg) (v : Word) :
    (d ≠ 0 → (st.wx d v).rx d = v ∧ (st.wx d v).poisonX d = false) ∧
    (r ≠ d → (st.wx d v).rx r = st.rx r ∧ (st.wx d v).poisonX r = st.poisonX r) := by
  rw [Strand.rx_wx, Strand.rx_wx, Strand.poisonX_wx, Strand.poisonX_wx]
  exact ⟨fun h => ⟨by rw [if_pos rfl, if_neg h], if_pos rfl⟩, fun h => ⟨if_neg h, if_neg h⟩⟩

theorem Strand.read_wf (st : Strand) (d r : FReg) (v : FVal) :
    (st.wf d v).rf d = v ∧ (st.wf d v).poisonF d = false ∧
    (r ≠ d → (st.wf d v).rf r = st.rf r ∧ (st.wf d v).poisonF r = st.poisonF r) := by
  refine ⟨?_, ?_, fun h => ?_⟩ <;> simp [Strand.wf, Strand.rf_wfp, Strand.poisonF_wfp, *]

theorem Strand.read_wc (st : Strand) (d r : CReg) (c : Bool) :
    (d ≠ 0 → (st.wc d c).rc d = c) ∧ (r ≠ d → (st.wc d c).rc r = st.rc r) := by
  rw [Strand.rc_wc, Strand.rc_wc]
  exact ⟨fun h => by rw [if_pos rfl, if_neg h], fun h => if_neg h⟩

end Sys2Proof.Machine

namespace Sys2Proof.Proofs

open Sys2Proof.Machine

/-- Settles O1: every register form is local, so what `issue` does before it and what it keeps hold for the whole list. -/
theorem registerReadsWritesAndFrame : Obligations.RegisterReadsWritesAndFrame := by
  unfold Obligations.RegisterReadsWritesAndFrame
  refine ⟨fun st d r v fd fr w cd cr c => ?_, fun o s b k st hc p hp => ?_, fun o s b k st p hp hi => ?_⟩
  · obtain ⟨hx, hpx, hc, hwx, hwc⟩ := st.hardwired v c
    obtain ⟨hxs, hxo⟩ := st.read_wx d r v
    obtain ⟨hfs, hpf, hfo⟩ := st.read_wf fd fr w
    obtain ⟨hcs, hco⟩ := st.read_wc cd cr c
    exact ⟨hx, hpx, hc, hwx, hwc, hxs, hxo, hfs, hpf, hfo, hcs, hco⟩
  · obtain ⟨f, he, -⟩ := registerForms_local o p hp s
    rw [he]
    exact State.issue_blocked_or_poisoned hc p.2.1 _
  · obtain ⟨f, he, hf⟩ := registerForms_local o p hp s
    exact ⟨f st, he.trans (State.local_of_issues hi f), hf st, fun a => by simp [State.byte]⟩

end Sys2Proof.Proofs
end

section
/-! PROOFS. Immediates and bit fields (R111 to R113), compares, selects and work identifiers (R114 to R116). -/

open Sys2Proof

namespace Sys2Proof.Machine

/-! ### Bit fields -/

theorem getLsbD_fieldMask (pos w i : Nat) :
    (BitVec.ofNat 64 ((2 ^ w - 1) * 2 ^ pos)).getLsbD i = decide (i < 64 ∧ pos ≤ i ∧ i < pos + w) := by
  rw [BitVec.getLsbD_ofNat, Nat.testBit_mul_two_pow, Nat.testBit_two_pow_sub_one]
  simp only [decide_eq_decide, Bool.and_eq_decide]
  simp
  omega

/-- R112, R113: a field laid into a word: its bits stand at its place, the others are kept. -/
theorem getLsbD_insertBits (x v : Word) (pos w : Nat) {i : Nat} (hi : i < 64) :
    (insertBits x v pos w).getLsbD i = if pos ≤ i ∧ i < pos + w then v.getLsbD (i - pos) else x.getLsbD i := by
  simp only [insertBits, BitVec.getLsbD_or, BitVec.getLsbD_and, BitVec.getLsbD_not, BitVec.getLsbD_shiftLeft, getLsbD_fieldMask]
  by_cases h : pos ≤ i ∧ i < pos + w
  · simp [hi, h]
  · simp [hi, h]

/-- R113: a field read out of a word. -/
theorem getLsbD_fieldOf (x : Word) (pos w i : Nat) :
    (BitVec.ofNat 64 (x.toNat / 2 ^ pos % 2 ^ (w + 1))).getLsbD i = if i ≤ w ∧ i < 64 then x.getLsbD (pos + i) else false := by
  rw [BitVec.getLsbD_ofNat, Nat.testBit_mod_two_pow, Nat.testBit_div_two_pow, BitVec.getLsbD]
  by_cases h : i ≤ w <;> by_cases h2 : i < 64 <;> simp [h, h2, Nat.add_comm]

/-! ### Compares, selects and work identifiers -/

/-- R114: a compare writes its condition. -/
theorem State.compare_of_issues {s : State} {d : CReg} {a b : XReg} {bt k : Nat} {st : Strand}
    (hi : s.Issues { rx := [a, b] } bt k st) {c : Cond} {p : Prop} [Decidable p] (hc : c.holds (st.rx a) (st.rx b) = true ↔ p) :
    s.compare d a b c = .next (s.setStrand bt k (st.wc d (decide p)).next) := by
  have he : c.holds (st.rx a) (st.rx b) = decide p := by rw [Bool.eq_iff_iff, hc, decide_eq_true_iff]
  rw [← he]
  exact State.local_of_issues hi _

/-- R116: a field of the work identifier lies above the fields before it. -/
theorem widField_of_some {ws : List Nat} {k w : Nat} (wid : Word) (h : ws[k]? = some w) :
    widField ws wid k = BitVec.ofNat 64 (wid.toNat / 2 ^ (ws.take k).sum % 2 ^ w) := by
  rw [widField, h, fieldLow, List.sum_eq_foldl_nat]

theorem widField_of_none {ws : List Nat} {k : Nat} (wid : Word) (h : ws[k]? = none) : widField ws wid k = 0 := by
  rw [widField, h]

section
variable {s : State} {d : XReg} {bt k : Nat} {st : Strand} (hi : s.Issues { wx := [d] } bt k st)
include hi

theorem exec_widf_of_issues (f : BitVec 3) : exec (.widf d f) s =
    .next (s.setStrand bt k (st.wx d (widField (s.launch st.lid).widths st.wid f.toNat)).next) := State.local_of_issues hi _

theorem exec_widNext_of_issues : exec (.widNext d) s =
    match (s.launch st.lid).takeId (s.bent bt).index st.round with
    | (some id, L) =>
      .next ((s.setLaunch st.lid L).setStrand bt k ({ st.wx d (BitVec.ofNat 64 id) with wid := BitVec.ofNat 64 id }).next)
    | (none, _) => .next (s.setStrand bt k (st.wx d 0xFFFFFFFFFFFFFFFF).next) := State.issue_of_issues hi _

end

end Sys2Proof.Machine

namespace Sys2Proof.Proofs

open Sys2Proof.Machine

/-- Settles O4: the immediate forms write what they say; a field laid in or read out is described bit by bit. -/
theorem immediateAndFieldResults : Obligations.ImmediateAndFieldResults := by
  unfold Obligations.ImmediateAndFieldResults
  refine ⟨fun s d a imm n h wide bt k st => ⟨fun hi => ?_, fun hi => State.local_of_issues hi _⟩,
    fun s d a h imm pos wm1 bt k st => ⟨fun hi => ?_, fun hp hi => ?_, fun hp hi => ?_⟩⟩
  · and_intros
    all_goals exact State.local_of_issues hi _
  · refine ⟨_, State.local_of_issues hi _, fun i hi => ?_⟩
    rw [getLsbD_insertBits _ _ _ _ hi]
    split
    · simp; omega
    · rfl
  · refine ⟨_, State.local_of_issues hi _, fun i => ?_⟩
    rw [getLsbD_fieldOf]
    have hw := wm1.isLt
    exact if_congr (by omega) rfl rfl
  · refine ⟨_, State.local_of_issues hi _, fun i hi => ?_⟩
    rw [getLsbD_insertBits _ _ _ _ hi]
    exact if_congr (by omega) rfl rfl

/-- Settles O5: a compare by its condition, a select by what it chooses, and the work identifier by its field and by the allocator. -/
theorem compareSelectAndWorkIdentifiers : Obligations.CompareSelectAndWorkIdentifiers := by
  unfold Obligations.CompareSelectAndWorkIdentifiers
  refine ⟨fun s cd cm d a b fd fa fb bt k st => ⟨fun hi => ?_, fun hi => State.local_of_issues hi _, fun hi => ?_⟩,
    fun s d f bt k st hi => ⟨fun w hw => ?_, fun hw => ?_, fun id L' ht => ?_, fun L' ht => ?_⟩⟩
  · exact ⟨State.compare_of_issues hi (Cond.holds_eq ..), State.compare_of_issues hi (Cond.holds_ne ..),
      State.compare_of_issues hi (Cond.holds_lt ..), State.compare_of_issues hi (Cond.holds_ge ..),
      State.compare_of_issues hi (Cond.holds_ltu ..), State.compare_of_issues hi (Cond.holds_geu ..)⟩
  · exact State.local_of_issues hi _
  · rw [exec_widf_of_issues hi, widField_of_some _ hw]
  · rw [exec_widf_of_issues hi, widField_of_none _ hw]
  · rw [exec_widNext_of_issues hi, ht]
  · rw [exec_widNext_of_issues hi, ht]

end Sys2Proof.Proofs
end

section
/-! PROOFS. Floating minimum, maximum, moves, compares, integer conversions and counts (R25, R30, R123 to R130). -/

open Sys2Proof

namespace Sys2Proof.Machine

/-! ### Minimum and maximum -/

theorem Ex.eqv_comm (x y : Ex) : x.eqv y = y.eqv x := by
  unfold Ex.eqv
  cases x.isNan <;> cases y.isNan <;> cases x.lt y <;> cases y.lt x <;> rfl

theorem Ex.not_lt_of_eqv {x y : Ex} (h : x.eqv y = true) : x.lt y = false ∧ y.lt x = false := by
  simp only [Ex.eqv, Bool.and_eq_true, Bool.not_eq_true'] at h
  exact ⟨h.1.2, h.2⟩

theorem ltSigned_of_not_eqv {x y : Ex} (h : x.eqv y = false) : ltSigned x y = x.lt y := by simp [ltSigned, h]

theorem ltSigned_of_eqv {x y : Ex} (h : x.eqv y = true) : ltSigned x y = (x.neg? && !y.neg?) := by
  simp [ltSigned, h, (Ex.not_lt_of_eqv h).1]

theorem selectCount_of_eqv {x y : FVal} (h : x.ex.eqv y.ex = true) (z : FVal) :
    selectCount x y z = if x.c.toNat ≤ y.c.toNat then x.c else y.c := by simp [selectCount, h]

theorem selectCount_of_not_eqv {x y : FVal} (h : x.ex.eqv y.ex = false) (z : FVal) : selectCount x y z = z.c := by
  simp [selectCount, h]

theorem fminmax_of_nan {x y : FVal} (m : Bool) (h : x.ex.isNan = true ∨ y.ex.isNan = true) :
    fminmax m x y = ⟨0x7FC00000, 0⟩ := by
  simp only [fminmax, Bool.or_eq_true, if_pos h]

section
variable {x y : FVal} (hx : x.ex.isNan = false) (hy : y.ex.isNan = false)
include hx hy

/-- R125: of two values of which one is smaller, the minimum and the maximum are one of them, with its count. -/
theorem fminmax_of_not_eqv (h : x.ex.eqv y.ex = false) :
    fminmax false x y = (if y.ex.lt x.ex then y else x) ∧ fminmax true x y = (if x.ex.lt y.ex then y else x) := by
  have h' : y.ex.eqv x.ex = false := (Ex.eqv_comm ..).trans h
  simp [fminmax, hx, hy, selectCount_of_not_eqv h, ltSigned_of_not_eqv h, ltSigned_of_not_eqv h']

/-- R125: of two equal values the sign decides, and the smaller count stands. -/
theorem fminmax_of_eqv (h : x.ex.eqv y.ex = true) :
    fminmax false x y = ⟨if y.ex.neg? && !x.ex.neg? then y.v else x.v, if x.c.toNat ≤ y.c.toNat then x.c else y.c⟩ ∧
    fminmax true x y = ⟨if x.ex.neg? && !y.ex.neg? then y.v else x.v, if x.c.toNat ≤ y.c.toNat then x.c else y.c⟩ := by
  have h' : y.ex.eqv x.ex = true := (Ex.eqv_comm ..).trans h
  simp only [fminmax, hx, hy, Bool.or_self, Bool.false_eq_true, if_false, if_true, selectCount_of_eqv h, ltSigned_of_eqv h,
    ltSigned_of_eqv h', apply_ite FVal.v, and_self]

end

/-! ### Integers and floating values -/

/-- R25: an integer format's element is its low bits, as two's complement or unsigned. -/
theorem IFmt.decode_toNat (x : Word) :
    IFmt.decode .int8 x.toNat = x.toInt.bmod (2 ^ 8) ∧ IFmt.decode .uint8 x.toNat = x.toInt % 2 ^ 8 ∧
    IFmt.decode .int16 x.toNat = x.toInt.bmod (2 ^ 16) ∧ IFmt.decode .int32 x.toNat = x.toInt.bmod (2 ^ 32) ∧
    IFmt.decode .int64 x.toNat = x.toInt := by
  have hx := x.isLt
  simp only [IFmt.decode, IFmt.width, BitVec.toInt_eq_toNat_cond, Int.bmod_def]
  refine ⟨?_, ?_, ?_, ?_, ?_⟩ <;> omega

/-- R45: a count out of a register stops at 0 and at 24. -/
theorem ofNat_sat_count (x : Word) :
    BitVec.ofNat 5 (sat x.toInt 0 24).toNat = if x.toInt < 0 then 0 else if 24 < x.toInt then 24 else x.setWidth 5 := by
  unfold sat
  split
  · rfl
  · split
    · rfl
    · have : x.toInt.toNat = x.toNat := by have := x.isLt; rw [BitVec.toInt_eq_toNat_cond] at *; omega
      rw [this]
      rfl

theorem sat_eq_min_max {lo hi : Int} (h : lo ≤ hi) (x : Int) : sat x lo hi = min hi (max lo x) := by
  unfold sat
  omega

/-- When a rounded magnitude is the quotient k of its digits, and when the next one. -/
def roundsTo (mode : Mode) (n : Bool) (u q r k : Nat) : Prop :=
  match mode with
  | .rne => k = q ∧ 2 * r ≤ u ∧ (2 * r = u → q % 2 = 0) ∨ k = q + 1 ∧ u ≤ 2 * r ∧ (2 * r = u → q % 2 = 1)
  | .rna => k = q ∧ 2 * r < u ∨ k = q + 1 ∧ u ≤ 2 * r
  | .rtz => k = q
  | .rup => k = q ∧ (n = true ∨ r = 0) ∨ k = q + 1 ∧ n = false ∧ 0 < r
  | .rdn => k = q ∧ (n = false ∨ r = 0) ∨ k = q + 1 ∧ n = true ∧ 0 < r

theorem roundShift_roundsTo (mode : Mode) (n : Bool) (m s : Nat) :
    roundsTo mode n (2 ^ s) (m / 2 ^ s) (m % 2 ^ s) (roundShift mode n m s false) := by
  have hr := Nat.mod_lt m (y := 2 ^ s) (by positivity)
  unfold roundShift
  generalize 2 ^ s = u at *
  generalize m / u = q at *
  generalize m % u = r at *
  cases mode with
  | rne => simp [roundsTo]; omega
  | rna => simp [roundsTo]; omega
  | rtz => simp [roundsTo]
  | rup => cases n <;> simp [roundsTo]; omega
  | rdn => cases n <;> simp [roundsTo]; omega

/-- R25, R30: the signed magnitude so chosen is the signed value rounded in the mode. -/
theorem Mode.rounds_of_roundsTo {mode : Mode} {n : Bool} {m s k : Nat}
    (h : roundsTo mode n (2 ^ s) (m / 2 ^ s) (m % 2 ^ s) k) :
    mode.Rounds (if n then -(m : Int) else m) (-(s : Int)) (if n then -(k : Int) else k) := by
  have hr := Nat.mod_lt m (y := 2 ^ s) (by positivity)
  have hm := Nat.div_add_mod m (2 ^ s)
  have hs : (-(s : Int)).toNat = 0 ∧ (- -(s : Int)).toNat = s := by omega
  have hu : (2 : Int) ^ s = (2 ^ s : Nat) := by push_cast; rfl
  have hd : (m : Int).tdiv (2 ^ s : Nat) = (m / 2 ^ s : Nat) := rfl
  have hn : (-(m : Int)).tdiv (2 ^ s : Nat) = -(m / 2 ^ s : Nat) := by rw [Int.neg_tdiv, hd]
  simp only [Mode.Rounds, hs, pow_zero, mul_one, hu]
  generalize 2 ^ s = u at *
  generalize m / u = q at *
  generalize m % u = r at *
  have hk (k : Nat) : (if n then -(k : Int) else k) * u = if n then -((k * u : Nat) : Int) else (k * u : Nat) := by
    split <;> push_cast <;> ring
  have hq : q * u = u * q := mul_comm ..
  have hq1 : (q + 1) * u = u * q + u := by ring
  cases mode with
  | rne =>
    simp only [hk, Int.abs_eq_natAbs]
    obtain ⟨rfl, h1, h2⟩ | ⟨rfl, h1, h2⟩ := h
    · rw [hq]; cases n <;> simp only [if_true, if_false, Bool.false_eq_true] <;> omega
    · rw [hq1]; cases n <;> simp only [if_true, if_false, Bool.false_eq_true] <;> omega
  | rna =>
    simp only [hk, Int.abs_eq_natAbs]
    obtain ⟨rfl, h1⟩ | ⟨rfl, h1⟩ := h
    · rw [hq]; cases n <;> simp only [if_true, if_false, Bool.false_eq_true] <;> omega
    · rw [hq1]; cases n <;> simp only [if_true, if_false, Bool.false_eq_true] <;> omega
  | rtz =>
    obtain rfl : k = q := h
    cases n <;> simp [hd, hn]
  | rup =>
    simp only [hk]
    obtain ⟨rfl, h1⟩ | ⟨rfl, h1, h2⟩ := h
    · rw [hq]; cases n <;> simp only [if_true, if_false, Bool.false_eq_true, false_or] at * <;> omega
    · rw [hq1, h1]; simp only [if_false, Bool.false_eq_true]; omega
  | rdn =>
    simp only [hk]
    obtain ⟨rfl, h1⟩ | ⟨rfl, h1, h2⟩ := h
    · rw [hq]; cases n <;> simp only [if_true, if_false, Bool.true_eq_false, Bool.false_eq_true, false_or] at * <;> omega
    · rw [hq1, h1]; simp only [if_true]; omega

/-- An integer is rounded to itself in every mode. -/
theorem Mode.rounds_exact (mode : Mode) (v : Int) {e : Int} (he : 0 ≤ e) : mode.Rounds v e (v * 2 ^ e.toNat) := by
  have h0 : (-e).toNat = 0 := by omega
  cases mode <;> simp [Mode.Rounds, h0]

/-- R25, R30: a finite value's integer is the value rounded in its mode. -/
theorem Ex.toInt_rounds (mode : Mode) (n : Bool) (m : Nat) (e : Int) :
    mode.Rounds (if n then -(m : Int) else m) e ((Ex.fin n m e false).toInt mode) := by
  by_cases he : 0 ≤ e
  · have hv : (Ex.fin n m e false).toInt mode = (if n then -(m : Int) else m) * 2 ^ e.toNat := by
      simp only [Ex.toInt, if_pos he]
      cases n <;> simp
    rw [hv]
    exact Mode.rounds_exact mode _ he
  · obtain ⟨s, rfl⟩ : ∃ s : Nat, e = -(s : Int) := ⟨(-e).toNat, by omega⟩
    simp only [Ex.toInt, if_neg he, neg_neg, Int.toNat_natCast]
    exact Mode.rounds_of_roundsTo (roundShift_roundsTo mode n m s)

/-- An FP32 encoding stands for an exact value. -/
theorem val32_exact {v : Word32} {n : Bool} {m : Nat} {e : Int} {u : Bool} (h : val32 v = .fin n m e u) : u = false := by
  unfold val32 FFmt.decode at h
  simp only at h
  split_ifs at h <;> cases h <;> rfl

/-- R25, R30: a conversion to an integer format: 0 for a NaN, an end of the range for an infinity, else the rounded value, which
stops at the ends of the range. -/
theorem IFmt.ofEx_spec (f : IFmt) (x : FVal) (mode : Mode) :
    (x.ex.isNan = true → f.ofEx x.ex mode = 0) ∧
    (∀ n, x.ex = .inf n → f.ofEx x.ex mode = if n then f.lo else f.hi) ∧
    ∀ n m e u, x.ex = .fin n m e u →
      ∃ j : Int, mode.Rounds (if n then -(m : Int) else m) e j ∧ f.ofEx x.ex mode = min f.hi (max f.lo j) := by
  refine ⟨fun h => ?_, fun n h => by rw [h]; rfl, fun n m e u h => ?_⟩
  · cases hx : x.ex with
    | nan => rfl
    | inf n => simp [hx, Ex.isNan] at h
    | fin n m e u => simp [hx, Ex.isNan] at h
  · obtain rfl := val32_exact h
    refine ⟨_, Ex.toInt_rounds mode n m e, ?_⟩
    rw [h]
    exact sat_eq_min_max (by cases f <;> decide) _

/-- R45: the count of a value converted from an integer. -/
theorem fcvtXfValue_eq {f : IFmt} {x : Word} {v : Int} (h : f.decode x.toNat = v) (mode : Mode) :
    fcvtXfValue f x mode = ⟨f32 (Ex.ofInt v) mode, if (val32 (f32 (Ex.ofInt v) mode)).eqv (Ex.ofInt v) then 24 else 23⟩ := by
  subst h
  simp only [fcvtXfValue, FVal.mk', apply_ite (BitVec.ofNat 5)]
  rfl

theorem FVal.ofBits_eq (v : Word32) : FVal.ofBits v = ⟨v, if (val32 v).isFinite then 24 else 0⟩ := by
  simp only [FVal.ofBits, untaggedCount, apply_ite (BitVec.ofNat 5)]
  rfl

theorem fsigsetValue_eq (v : FVal) (x : Word) : fsigsetValue v x =
    ⟨v.v, if v.ex.isFinite then (if x.toInt < 0 then 0 else if 24 < x.toInt then 24 else x.setWidth 5) else 0⟩ := by
  rw [fsigsetValue, ofNat_sat_count]

end Sys2Proof.Machine

namespace Sys2Proof.Proofs

open Sys2Proof.Machine

/-- Settles O8: each instruction of the group writes what its value function gives, which its lemma describes by the rows of R125
to R130. -/
theorem floatRegisterResults : Obligations.FloatRegisterResults := by
  unfold Obligations.FloatRegisterResults
  intro s d a fd fa fb cd r bt k st x y putF putX putC
  refine ⟨fun hi => ?_, fun hi => ?_, fun hi => ?_, fun hi => ?_, fun hi => ?_⟩
  · have hmin : exec (.fmin fd fa fb) s = putF (fminmax false x y) := State.local_of_issues hi _
    have hmax : exec (.fmax fd fa fb) s = putF (fminmax true x y) := State.local_of_issues hi _
    rw [hmin, hmax]
    refine ⟨fun h => ?_, fun hx hy h => ?_, fun hx hy h => ?_⟩
    · rw [fminmax_of_nan _ h, fminmax_of_nan _ h]
      exact ⟨rfl, rfl⟩
    · obtain ⟨h1, h2⟩ := fminmax_of_not_eqv hx hy h
      rw [h1, h2]
      exact ⟨rfl, rfl⟩
    · obtain ⟨h1, h2⟩ := fminmax_of_eqv hx hy h
      rw [h1, h2]
      exact ⟨rfl, rfl⟩
  · exact ⟨State.local_of_issues hi _, State.local_of_issues hi _, State.local_of_issues hi _⟩
  · obtain ⟨h8, hu8, h16, h32, h64⟩ := IFmt.decode_toNat (st.rx a)
    have hcvt (c : BitVec 5) : exec (.fcvtXf fd a c r) s = putF (fcvtXfValue (fmtInt c) (st.rx a) (st.mode r)) :=
      State.local_of_issues hi _
    have hmov : exec (.fmovXf fd a) s = putF (FVal.ofBits ((st.rx a).setWidth 32)) := State.local_of_issues hi _
    have hset : exec (.fsigset fd a) s = .next (s.setStrand bt k
      (st.wfp fd (fsigsetValue (st.rf fd) (st.rx a)) (st.poisonF fd)).next) := State.local_of_issues hi _
    refine ⟨by rw [hmov, FVal.ofBits_eq], ?_, by rw [hset, fsigsetValue_eq]⟩
    simp only [List.forall_mem_cons, hcvt]
    exact ⟨congrArg putF (fcvtXfValue_eq h8 _), congrArg putF (fcvtXfValue_eq hu8 _), congrArg putF (fcvtXfValue_eq h16 _),
      congrArg putF (fcvtXfValue_eq h32 _), congrArg putF (fcvtXfValue_eq h64 _), by simp⟩
  · have hcvt (c : BitVec 5) : exec (.fcvtFx d fa c r) s = putX (BitVec.ofInt 64 ((fmtInt c).ofEx x.ex (st.mode r))) :=
      State.local_of_issues hi _
    refine ⟨State.local_of_issues hi _, ?_, State.local_of_issues hi _⟩
    simp only [List.forall_mem_cons]
    exact ⟨⟨_, hcvt 1, IFmt.ofEx_spec .int8 x _⟩, ⟨_, hcvt 2, IFmt.ofEx_spec .uint8 x _⟩, ⟨_, hcvt 3, IFmt.ofEx_spec .int16 x _⟩,
      ⟨_, hcvt 4, IFmt.ofEx_spec .int32 x _⟩, ⟨_, hcvt 5, IFmt.ofEx_spec .int64 x _⟩, by simp⟩
  · exact ⟨State.local_of_issues hi _, State.local_of_issues hi _, State.local_of_issues hi _, State.local_of_issues hi _⟩

end Sys2Proof.Proofs
end

section
/-! PROOFS. Counts and their check (R22, R46, R56 to R60), the checked instructions (R122 to R124), and a trap with its return
(R194, R195). -/

open Sys2Proof

namespace Sys2Proof.Machine

/-! ### The check and the counts -/

/-- R56, R59, R60: when the check fails. -/
theorem Strand.sigFails_iff (st : Strand) (res : Ex) (count : Nat) :
    st.sigFails res count = true ↔
      st.sigen.getLsbD 0 = true ∧ st.saved = none ∧ st.suppress = false ∧ count < st.sigth.toNat ∧
        ¬(st.sigen.getLsbD 2 = true ∧ res.isFinite = false) := by
  simp only [Strand.sigFails, Strand.inHandler, bit, Bool.and_eq_true, Bool.not_eq_true', decide_eq_true_eq, and_assoc,
    Option.isSome_eq_false_iff, Option.isNone_iff_eq_none, Bool.and_eq_false_iff, not_and_or]
  simp

/-- R46: the largest of the weights, as the model folds them. -/
def greater (m : Option Int) (x : Int) : Option Int :=
  some (match m with | none => x | some y => if y < x then x else y)

theorem foldl_greater_eq {ws : List Int} {m : Option Int} {w : Int} (hw : m = some w ∨ w ∈ ws) (hx : ∀ x ∈ ws, x ≤ w)
    (hm : ∀ y, m = some y → y ≤ w) : ws.foldl greater m = some w := by
  induction ws generalizing m with
  | nil => simpa using hw
  | cons x ws ih =>
    refine ih ?_ (fun y hy => hx y (List.mem_cons_of_mem _ hy)) (fun y hy => ?_)
    · have := hx x List.mem_cons_self
      cases m with
      | none => simp [greater] at hw ⊢; tauto
      | some y => have := hm y rfl; simp only [greater, List.mem_cons, Option.some.injEq] at hw ⊢; split <;> grind
    · have := hx x List.mem_cons_self
      cases m with
      | none => simp [greater] at hy; omega
      | some z => have := hm z rfl; simp only [greater, Option.some.injEq] at hy; split at hy <;> omega

section
variable {ops : List (Ex × Nat)} {res : Ex} (p : Nat)

theorem plumbAdd_of_nonfinite (h : (∃ o ∈ ops, o.1.isFinite = false) ∨ res.isFinite = false) : plumbAdd ops res p = 0 := by
  rw [plumbAdd, if_pos (by simpa using h)]

theorem plumbAdd_of_zeros (h : ∀ o ∈ ops, o.1.isZero = true) (hr : res.isFinite = true) : plumbAdd ops res p = p := by
  have hf : ∀ o ∈ ops, o.1.isFinite = true := fun o ho => by
    have := h o ho
    cases he : o.1 <;> simp [he, Ex.isZero, Ex.isFinite] at this ⊢
  rw [plumbAdd, if_neg (by simpa [hr] using hf), if_pos (by simpa using h)]

variable (hf : ∀ o ∈ ops, o.1.isFinite = true) (hz : ∃ o ∈ ops, o.1.isZero = false) (hr : res.isFinite = true)
include hf hz hr

theorem plumbAdd_of_finite : plumbAdd ops res p =
    match res.exp? with
    | none => 0
    | some er =>
      match (ops.filterMap (fun o => o.1.exp?.map (fun x => x - (o.2 : Int) + 1))).foldl greater none with
      | none => p
      | some w => (sat (er - w + 1) 0 p).toNat := by
  rw [plumbAdd, if_neg (by simpa [hr] using hf), if_neg (by simpa using hz)]
  rfl

theorem plumbAdd_of_zero_result (he : res.exp? = none) : plumbAdd ops res p = 0 := by
  rw [plumbAdd_of_finite p hf hz hr, he]

/-- R46: what remains of a sum below the largest weight. -/
theorem plumbAdd_of_weight {e w : Int} (he : res.exp? = some e) (hw : ∃ o ∈ ops, ∃ x, o.1.exp? = some x ∧ w = x - o.2 + 1)
    (hmax : ∀ o ∈ ops, ∀ x, o.1.exp? = some x → x - o.2 + 1 ≤ w) :
    (plumbAdd ops res p : Int) = min (p : Int) (max (e - w + 1) 0) := by
  have hfold : (ops.filterMap (fun o => o.1.exp?.map (fun x => x - (o.2 : Int) + 1))).foldl greater none = some w := by
    refine foldl_greater_eq (.inr ?_) (fun x hx => ?_) (by simp)
    · obtain ⟨o, ho, x, hx, rfl⟩ := hw
      exact List.mem_filterMap.mpr ⟨o, ho, by simp [hx]⟩
    · obtain ⟨o, ho, hx⟩ := List.mem_filterMap.mp hx
      obtain ⟨y, hy, rfl⟩ := Option.map_eq_some_iff.mp hx
      exact hmax o ho y hy
  simp only [plumbAdd_of_finite p hf hz hr, he, hfold]
  rw [Int.toNat_of_nonneg] <;> unfold sat <;> split_ifs <;> omega

end

theorem plumbMul_eq (ca pa cb pb p : Nat) :
    plumbMul ca pa cb pb p = if ca = pa ∨ cb = pb then min (min ca cb) p else max (min ca cb - 1) 0 := by
  simp [plumbMul]

/-! ### Checked instructions -/

/-- R122: a result whose check passes is written; one whose check fails takes the significance trap and writes nothing. -/
theorem State.sigWrite_cases (s : State) (b k : Nat) (st : Strand) (opc : Nat) (d : FReg) (x y z : Option FVal) (res : FVal) :
    (st.sigFails res.ex res.c.toNat = false →
      s.sigWrite b k st opc d x y z res = .next (s.setStrand b k (st.wf d res).next)) ∧
    (st.sigFails res.ex res.c.toNat = true → s.sigWrite b k st opc d x y z res =
      .next (s.takeTrap b k st 0x0021 none (sigReport 0 0 opc 0 0 x y z res st.sigth.toNat))) := by
  refine ⟨fun h => ?_, fun h => ?_⟩ <;> simp [State.sigWrite, h]

/-- A checked instruction that issues gives the checked result of its body. -/
theorem State.checked_of_issues {s : State} {u : Uses} {b k : Nat} {st : Strand} (hi : s.Issues u b k st)
    {body : Nat → Nat → Strand → Out} {opc : Nat} {d : FReg} {x y z : Option FVal} {res : FVal}
    (he : body b k st = s.sigWrite b k st opc d x y z res) :
    (st.sigFails res.ex res.c.toNat = false → s.issue u body = .next (s.setStrand b k (st.wf d res).next)) ∧
    (st.sigFails res.ex res.c.toNat = true →
      s.issue u body = .next (s.takeTrap b k st 0x0021 none (sigReport 0 0 opc 0 0 x y z res st.sigth.toNat))) := by
  rw [State.issue_of_issues hi, he]
  exact State.sigWrite_cases ..

/-! ### A trap and its return -/

section
variable (st : Strand) (cause : BitVec 16) (tenon : Option (Nat × Nat)) (log : List Word)

/-- R194: what a trap entry saves, and the registers that it leaves. -/
theorem Strand.enter_keeps : (st.enter cause tenon log).saved = some (st.frame cause tenon) ∧
    (st.enter cause tenon log).c = st.c ∧ (st.enter cause tenon log).px = st.px ∧ (st.enter cause tenon log).pf = st.pf ∧
    (st.enter cause tenon log).loops = st.loops ∧ (st.enter cause tenon log).fpmode = st.fpmode := by
  unfold Strand.enter Strand.report
  split <;> exact ⟨rfl, rfl, rfl, rfl, rfl, rfl⟩

end

/-- R195: `rft` in a handler restores the frame. -/
theorem exec_rft_of_issues {s : State} {b k : Nat} {st : Strand} (hi : s.Issues {} b k st) {fr : TrapFrame}
    (hf : st.saved = some fr) (ht : fr.tenon = none) : exec .rft s = .next (s.setStrand b k (st.restore fr)) := by
  have h : exec .rft s = execRft s := rfl
  rw [h, execRft, State.issue_of_issues hi, hf]
  simp only [State.endFreeze, ht]

end Sys2Proof.Machine

namespace Sys2Proof.Proofs

open Sys2Proof.Machine

/-- Settles O10: the check by its conditions, the count of a sum by its cases, the count of a product by its definition. -/
theorem countsAndTheirCheck : Obligations.CountsAndTheirCheck := by
  unfold Obligations.CountsAndTheirCheck
  exact ⟨Strand.sigFails_iff, fun ops res p => ⟨plumbAdd_of_nonfinite p, plumbAdd_of_zeros p, fun hf hz hr =>
    ⟨plumbAdd_of_zero_result p hf hz hr, fun e w => plumbAdd_of_weight p hf hz hr⟩⟩, plumbMul_eq⟩

/-- Settles O11: each checked instruction hands its rounded result with its count to the one check. -/
theorem checkedFloatResults : Obligations.CheckedFloatResults := by
  unfold Obligations.CheckedFloatResults
  intro s d a b c fmt r bt k st x y z m rounded gives
  refine ⟨fun hi => ⟨?_, ?_, ?_, ?_⟩, fun hi => ⟨?_, ?_⟩, fun hi => ?_⟩
  all_goals exact State.checked_of_issues hi rfl

/-- Settles O12: the frame that a trap saves is the frame that `rft` restores. -/
theorem trapEntryAndReturn : Obligations.TrapEntryAndReturn := by
  unfold Obligations.TrapEntryAndReturn
  intro s b k st cause hc hv hs hcause
  obtain ⟨hca, hpc, hgo, -, hready, hx, hf⟩ := st.enter_fields cause none []
  obtain ⟨hfr, hcr, hpx, hpf, hl, hm⟩ := st.enter_keeps cause none []
  have hh : st.inHandler = false := by simp [Strand.inHandler, hs]
  have ht : s.trap b k st cause = s.setStrand b k (st.enter cause none []) := by
    have hn : ¬(st.trapvec = 0 ∨ st.inHandler = true) := by rw [hh]; exact fun h => h.elim hv (by decide)
    rw [State.trap, State.takeTrap, if_neg hcause, if_neg hn]
  have hret (v : Strand) : v.after (st.frame cause none) = .ready := by
    have : (st.frame cause none).ret = .ready := hc.2.2.1
    simp only [Strand.after, this, ite_self]
  refine ⟨_, st.frame cause none, ht, hca, hpc, hgo, hfr, hready, hx, hf, hcr, hpx, hpf, hl, hm, rfl, rfl, rfl, rfl, rfl, rfl, rfl,
    fun u v hu hv => ⟨_, exec_rft_of_issues hu hv rfl, rfl, rfl, rfl, rfl, rfl, rfl, rfl, rfl, rfl, hret v⟩⟩

end Sys2Proof.Proofs
end

section
/-! PROOFS. Decoding of words, the step, and the state after reset (R82 to R92, R118, log entry 1). -/

open Sys2Proof

namespace Sys2Proof.Machine

/-! ### Fetching -/

theorem takeWord_eq_none_iff (l : List Byte) : takeWord l = none ↔ l.length < 4 := by
  match l with
  | [] | [_] | [_, _] | [_, _, _] => simp [takeWord]
  | _ :: _ :: _ :: _ :: _ => simp [takeWord]

theorem Launch.word_eq_none_iff (L : Launch) (pc : Word) : L.word pc = none ↔ L.text.length < pc.toNat + 4 := by
  rw [Launch.word, Option.map_eq_none_iff, takeWord_eq_none_iff, List.length_drop]
  omega

theorem Launch.fetch_of_none {L : Launch} {pc : Word} (h : L.word pc = none) : L.fetch pc = .instructionFetchFault := by
  rw [Launch.fetch, h]

theorem Launch.fetch_of_word {L : Launch} {pc : Word} {w : Word32} (h : L.word pc = some w) :
    L.fetch pc = (decodeSeq w).getD .illegalInstruction := by rw [Launch.fetch, h]

theorem State.open_of_current {s : State} {b k : Nat} {st : Strand} (h : s.Current b k st) :
    s.cur = .strand b k ∧ s.strand? b k = some st ∧ s.open? st = true := by
  obtain ⟨hc, hs, hr, L, hl, hp⟩ := h
  exact ⟨hc, hs, by simp [State.open?, hr, hl, hp]⟩

/-! ### The step -/

theorem step_of_agenda {s : State} {dt : Nat} {a : Act} {l : List Turn} (h : s.agenda = { dt := dt, act := a } :: l) :
    step s = ({ s with agenda := l, dtime := s.dtime + dt } : State).run a := by
  rw [step, State.turn, h]
  rfl

theorem State.run_of_prepare {s : State} {a : Act} {i : Instr} {t : State} (h : s.prepare a = some (i, t)) :
    s.run a = t.credited (exec i t) := by rw [State.run, h]

theorem State.run_of_unprepared {s : State} {a : Act} (h : s.prepare a = none) : s.run a = .next (s.unfetched a) := by
  rw [State.run, h]

/-- R348: crediting changes of each launch at most the time at which it made progress. -/
theorem State.launch?_credit {s t : State} {lid : Nat} {L : Launch} (h : t.launch? lid = some L) :
    ∃ n, (s.credit t).launch? lid = some { L with lastProgress := n } := by
  unfold State.launch? State.credit at *
  revert h
  generalize t.launches = m
  induction m with
  | nil => exact fun h => nomatch h
  | cons p m ih =>
    obtain ⟨j, K⟩ := p
    intro h
    rw [List.map_cons]
    rw [NMap.get?_cons] at h
    by_cases hj : lid = j
    · obtain rfl : K = L := by simpa [hj] using h
      subst hj
      split
      · exact ⟨t.dtime, by rw [NMap.get?_cons, if_pos rfl]⟩
      · exact ⟨K.lastProgress, by rw [NMap.get?_cons, if_pos rfl]⟩
    · rw [if_neg hj] at h
      split <;> rw [NMap.get?_cons, if_neg hj] <;> exact ih h

/-- A step whose act is prepared as instruction i in state v answers as `exec` does, its progress credited. -/
def StepRuns (s : State) (i : Instr) (v : State) : Prop :=
  (∀ t, exec i v = .next t → step s = .next (v.credit t) ∧ ({ v.credit t with launches := t.launches } : State) = t ∧
    ∀ lid L, t.launch? lid = some L → ∃ n, (v.credit t).launch? lid = some { L with lastProgress := n }) ∧
  (∀ f, exec i v = .fault f → step s = .fault f) ∧ ∀ r, exec i v = .refused r → step s = .refused r

theorem stepRuns_of_prepare {s u v : State} {a : Act} {i : Instr} (hs : step s = u.run a) (h : u.prepare a = some (i, v)) :
    StepRuns s i v := by
  rw [State.run_of_prepare h] at hs
  refine ⟨fun t ht => ⟨by rw [hs, ht]; rfl, rfl, fun lid L => State.launch?_credit⟩, fun f hf => by rw [hs, hf]; rfl,
    fun r hr => by rw [hs, hr]; rfl⟩

section
variable {s : State} (hr : s.device.inReset = false)
include hr

theorem State.prepare_strand {b k : Nat} {st : Strand} (hs : s.strand? b k = some st) : s.prepare (.strand b k) =
    some (if st.trapFirst then (.pendingTrapDelivery b k, { s with cur := .none })
      else ((s.launch st.lid).fetch st.pc, { s with cur := .strand b k })) := by
  simp [State.prepare, hr, hs]

theorem State.prepare_routine {b t r : Nat} {R : Routine} {w : Word32} {i : Instr}
    (hR : NMap.get? (s.tenon b t).routines r = some R) (hlo : R.lo ≤ R.pc) (hhi : R.pc < R.hi)
    (hw : (s.launch R.side.lid).opwords[R.pc]? = some w) (hd : decodeOpw w = some i) :
    s.prepare (.routine b t r) = some (i, { s with cur := .routine b t r }) := by
  simp [State.prepare, hr, hR, Launch.fetchOpw, hlo, hhi, hw, hd]

theorem State.prepare_engine {b e : Nat} (hg : s.gated b = false) {i : Instr} (hi : s.engineInstr b e = some i) :
    s.prepare (.engine b e) = some (i, { s with cur := .none }) := by
  simp [State.prepare, hr, hg, hi]

theorem State.prepare_gated_engine {b e : Nat} (hg : s.gated b = true) : s.prepare (.engine b e) = none := by
  simp [State.prepare, hr, hg]

theorem State.prepare_device {i : Instr} (hw : WellFormed i = true) (hi : isStep i = true)
    (hc : ∀ b, consumer i = some b → s.gated b = false) : s.prepare (.device i) = some (i, { s with cur := .none }) := by
  have hn : (consumer i).any s.gated = false := by
    cases h : consumer i with
    | none => rfl
    | some b => exact hc b h
  simp [State.prepare, hr, hw, hi, hn]

theorem State.prepare_gated_device {i : Instr} {b : Nat} (hc : consumer i = some b) (hg : s.gated b = true) :
    s.prepare (.device i) = none := by
  simp [State.prepare, hr, hc, hg]

end

/-- R319: in reset nothing is prepared but the release, and nothing happens. -/
theorem State.run_in_reset {s : State} (hr : s.device.inReset = true) {a : Act} (ha : a ≠ .device .resetRelease) :
    s.run a = .next s := by
  have hp : s.prepare a = none := by
    unfold State.prepare
    rw [if_pos hr]
    split
    · exact absurd rfl ha
    · rfl
  rw [State.run_of_unprepared hp]
  congr 1
  unfold State.unfetched
  split
  · split
    · rw [if_pos (.inl hr)]
    · rfl
  · rfl

theorem Strand.trapFirst_iff (st : Strand) : st.trapFirst = true ↔ st.saved = none ∧ st.pend ≠ [] := by
  simp [Strand.trapFirst]

end Sys2Proof.Machine

namespace Sys2Proof.Proofs

open Sys2Proof.Machine

/-- Settles O55: the words written out are packed fields, which the decoder's lemmas read back; the rest are closed words. -/
theorem wordsDecode : Obligations.WordsDecode := by
  unfold Obligations.WordsDecode
  refine ⟨by decide, fun d a off => decodeSeq_28 ⟨d, a, 1, 1, 4, off⟩, fun d a n hevq hlog => ⟨?_, decodeSeq_51 ⟨0, a, n, 1⟩⟩,
    by decide, by decide, by decide, by decide, by decide, by decide⟩
  refine (decodeSeq_51 ⟨d, 0, n, 0⟩).trans ?_
  have he : n ≠ evqNumber := hevq
  have hv : n ≠ votelogNumber := hlog
  simp [decCtl, need, he, hv]

/-- Settles O57: the text ends where no word is left; the two traps issue of a current strand. -/
theorem wordsThatAreNoInstruction : Obligations.WordsThatAreNoInstruction := by
  unfold Obligations.WordsThatAreNoInstruction
  refine ⟨fun L pc => ⟨fun h => Launch.fetch_of_none ((L.word_eq_none_iff pc).mpr h), fun h => ?_, fun w hw hd => ?_⟩,
    fun s b k st hc => ?_⟩
  · obtain ⟨w, hw⟩ := Option.ne_none_iff_exists'.mp (mt (L.word_eq_none_iff pc).mp (by omega))
    exact ⟨w, hw, Launch.fetch_of_word hw⟩
  · rw [Launch.fetch_of_word hw, hd]
    rfl
  · obtain ⟨hcur, hst, hopen⟩ := State.open_of_current hc
    have h1 : exec .illegalInstruction s = execIllegalInstruction s := rfl
    have h3 : exec .instructionFetchFault s = execInstructionFetchFault s := rfl
    simp only [h1, h3, execIllegalInstruction, execInstructionFetchFault, hcur, hst, hopen, if_true, and_self]

/-- Settles O58: a step runs its act, and each act prepares the instruction that stands before it. -/
theorem stepRunsTheInstruction : Obligations.StepRunsTheInstruction := by
  unfold Obligations.StepRunsTheInstruction
  refine ⟨?_, fun s dt a l ha hr hn => ?_,
    fun s ha hp => ?_, fun s x ha hp => ?_, fun s n m q => ?_⟩
  · intro s dt a l ha hr u runs
    have hs : step s = u.run a := step_of_agenda ha
    refine ⟨?_, ?_, ?_, ?_, ?_, ?_, ?_⟩
    · rintro b k st w i rfl hst htrap hw hd
      have hf : st.trapFirst = false := by
        rw [← Bool.not_eq_true, st.trapFirst_iff]
        rintro ⟨hsaved, hpend⟩
        rcases htrap with h | h
        · simp [hsaved] at h
        · exact hpend h
      refine stepRuns_of_prepare hs ((State.prepare_strand (s := u) hr hst).trans ?_)
      rw [hf]
      have he : (u.launch st.lid).fetch st.pc = i := (Launch.fetch_of_word hw).trans (by rw [hd]; rfl)
      rw [he]
      rfl
    · rintro b k st rfl hst hsaved hpend
      refine stepRuns_of_prepare hs ((State.prepare_strand (s := u) hr hst).trans ?_)
      rw [if_pos (st.trapFirst_iff.mpr ⟨hsaved, hpend⟩)]
    · rintro b t r R w i rfl hR hlo hhi hw hd
      exact stepRuns_of_prepare hs (State.prepare_routine (s := u) hr hR hlo hhi hw hd)
    · rintro b e i rfl hg hi
      exact stepRuns_of_prepare hs (State.prepare_engine (s := u) hr hg hi)
    · rintro b e rfl hg
      exact hs.trans (State.run_of_unprepared (State.prepare_gated_engine (s := u) hr hg))
    · rintro i rfl hw hi hc
      exact stepRuns_of_prepare hs (State.prepare_device (s := u) hr hw hi hc)
    · rintro i b rfl hc hg
      exact hs.trans (State.run_of_unprepared (State.prepare_gated_device (s := u) hr hc hg))
  · exact (step_of_agenda ha).trans
      (State.run_in_reset (s := { s with agenda := l, dtime := s.dtime + dt }) hr hn)
  · rw [step, State.turn, ha]
    simp only [hp]
  · rw [step, State.turn, ha]
    simp only [hp]
  · revert q
    simp only [List.forall_mem_cons, List.not_mem_nil, false_imp_iff, implies_true, and_true]
    exact ⟨rfl, rfl, rfl, rfl, rfl, rfl, rfl, rfl, rfl, rfl, rfl, rfl, rfl, rfl, rfl, rfl, rfl, rfl⟩

/-- Settles O59: each value is that of the initial state's definition. -/
theorem resetState : Obligations.ResetState := by
  unfold Obligations.ResetState
  have hang (p : Nat) : (State.reset.part p).hangNs = 10 ^ 8 := show 100000000 = 10 ^ 8 by norm_num
  have hecc (p : Nat) : (State.reset.part p).readEccstat = 0 := show BitVec.ofNat 64 (0 * 2 ^ 32 + 0) = 0 by simp
  have hdis (p j : Nat) : (State.reset.part p).readDisagree j = 0 :=
    show BitVec.ofNat 64 (0 % 256 * 2 ^ 56 + (List.range 8).foldl (fun n k => n + 0 % 128 * 2 ^ (7 * k)) 0) = 0 by simp
  exact ⟨State.reset_ordered, rfl, rfl, fun p => ⟨fun q => rfl, fun c => rfl, rfl, rfl, rfl, hang p, rfl, rfl, rfl, hecc p, hdis p⟩,
    fun B lid ix => ⟨rfl, rfl, rfl, rfl, rfl, rfl⟩⟩

end Sys2Proof.Proofs
end

section
/-! PROOFS. What the parts of the machine read after an update of one of them. -/

open Sys2Proof

namespace Sys2Proof.Machine

/-! ### Bents and strands -/

@[simp] theorem State.bent_setBent (s : State) (b c : Nat) (B : Bent) : (s.setBent b B).bent c = if c = b then B else s.bent c :=
  NMap.getD_set ..
@[simp] theorem State.bent_updBent (s : State) (b c : Nat) (f : Bent → Bent) :
    (s.updBent b f).bent c = if c = b then f (s.bent b) else s.bent c := State.bent_setBent ..
@[simp] theorem State.bent_setStrand (s : State) (b c k : Nat) (st : Strand) : (s.setStrand b k st).bent c =
    if c = b then { s.bent b with strands := NMap.set (s.bent b).strands k st } else s.bent c := State.bent_updBent ..
@[simp] theorem State.bent_setLaunch (s : State) (b lid : Nat) (L : Launch) : (s.setLaunch lid L).bent b = s.bent b := rfl
@[simp] theorem State.bent_updLaunch (s : State) (b lid : Nat) (f : Launch → Launch) : (s.updLaunch lid f).bent b = s.bent b := by
  simp [State.bent]
@[simp] theorem State.bent_setPart (s : State) (b p : Nat) (P : Part) : (s.setPart p P).bent b = s.bent b := rfl
@[simp] theorem State.bent_updPart (s : State) (b p : Nat) (f : Part → Part) : (s.updPart p f).bent b = s.bent b := rfl
@[simp] theorem State.bent_tick (s : State) (b lid key : Nat) : (s.tick lid key).bent b = s.bent b := State.bent_updLaunch ..

@[simp] theorem State.strand?_setStrand (s : State) (b k c j : Nat) (st : Strand) :
    (s.setStrand b k st).strand? c j = if c = b ∧ j = k then some st else s.strand? c j := by
  simp only [State.strand?, State.bent_setStrand]
  by_cases hc : c = b <;> by_cases hj : j = k <;> simp [hc, hj]
@[simp] theorem State.strand?_updLaunch (s : State) (b k lid : Nat) (f : Launch → Launch) :
    (s.updLaunch lid f).strand? b k = s.strand? b k := by simp [State.strand?]
@[simp] theorem State.strand?_setLaunch (s : State) (b k lid : Nat) (L : Launch) :
    (s.setLaunch lid L).strand? b k = s.strand? b k := rfl

/-! ### Launches -/

@[simp] theorem State.launch?_setBent (s : State) (b lid : Nat) (B : Bent) : (s.setBent b B).launch? lid = s.launch? lid := rfl
@[simp] theorem State.launch?_updBent (s : State) (b lid : Nat) (f : Bent → Bent) : (s.updBent b f).launch? lid = s.launch? lid := rfl
@[simp] theorem State.launch?_setStrand (s : State) (b k lid : Nat) (st : Strand) :
    (s.setStrand b k st).launch? lid = s.launch? lid := rfl
@[simp] theorem State.launch?_setLaunch (s : State) (lid l : Nat) (L : Launch) :
    (s.setLaunch lid L).launch? l = if l = lid then some L else s.launch? l := NMap.get?_set ..
theorem State.launch_of_launch? {s : State} {lid : Nat} {L : Launch} (h : s.launch? lid = some L) : s.launch lid = L := by
  simp [State.launch, NMap.getD, State.launch?] at *
  simp [h]
theorem State.launch_eq (s : State) (lid : Nat) : s.launch lid = (s.launch? lid).getD {} := rfl
@[simp] theorem State.launch_setBent (s : State) (b lid : Nat) (B : Bent) : (s.setBent b B).launch lid = s.launch lid := rfl
@[simp] theorem State.launch_updBent (s : State) (b lid : Nat) (f : Bent → Bent) : (s.updBent b f).launch lid = s.launch lid := rfl
@[simp] theorem State.launch_setStrand (s : State) (b k lid : Nat) (st : Strand) :
    (s.setStrand b k st).launch lid = s.launch lid := rfl
@[simp] theorem State.launch_setLaunch (s : State) (lid l : Nat) (L : Launch) :
    (s.setLaunch lid L).launch l = if l = lid then L else s.launch l := NMap.getD_set ..
theorem State.updLaunch_of_launch? {s : State} {lid : Nat} {L : Launch} (h : s.launch? lid = some L) (f : Launch → Launch) :
    s.updLaunch lid f = s.setLaunch lid (f L) := by simp [State.updLaunch, h]
theorem State.launch?_updLaunch (s : State) (lid l : Nat) (f : Launch → Launch) :
    (s.updLaunch lid f).launch? l = if l = lid then (s.launch? l).map f else s.launch? l := by
  cases h : s.launch? lid with
  | none =>
    simp only [State.updLaunch, h]
    split
    · next e => rw [e, h]; rfl
    · rfl
  | some L =>
    rw [State.updLaunch_of_launch? h, State.launch?_setLaunch]
    split
    · next e => rw [e, h]; rfl
    · rfl

end Sys2Proof.Machine
end

section
/-! PROOFS. How an access issues (R136 to R153): with nothing of its strand in flight every wait before it is over. -/

open Sys2Proof

namespace Sys2Proof.Machine

section
variable {s : State} {b k : Nat} {st : Strand} (h : st.ops = [])
include h

theorem State.afterAcquire_of_empty (body : Out) : s.afterAcquire b k st body = body := by
  simp [State.afterAcquire, State.holdAtoms, State.cleared, h]

theorem State.withEntry_of_empty (load : Bool) (body : Out) : s.withEntry b k st load body = body := by
  cases load <;> simp [State.withEntry, State.holdUntil, State.cleared, Strand.loads, Strand.stores, h]

theorem State.holdOverlap_of_empty (ranges : List (Nat × Nat)) (path : Path) (behind : List MemOp) (body : Out) :
    s.holdAtoms b k st (.overlap ranges path) behind body = body := by
  simp [State.holdAtoms, State.cleared, Strand.crossing, h]

theorem State.holdSills_of_empty (ns : List Nat) (body : Out) : s.holdUntil b k st (.sillOrder ns) body = body := by
  simp [State.holdUntil, State.cleared, h]

theorem State.afterAll_of_empty (hc : s.cellsOut st = false) (sc : Scope) (body : Out) : s.afterAll b k st sc body = body := by
  simp [State.afterAll, State.holdAtoms, State.cleared, State.performed, h, hc]

variable {r : MemReq} {send : State → Nat → Nat → Strand → MemReq → MemOp → Out}

/-- R136 to R153: an access of a strand with nothing in flight traps, waits for its translation, or is sent. -/
theorem State.memIssue_of_empty (hc : r.rel = true → s.cellsOut st = false) : s.memIssue b k st r send =
    match s.access2 b k st r with
    | .trap c t => .next (t.trap b k st c)
    | .wait t w => .next (t.park b k st w)
    | .ok loc path bound tag => send s b k st r (r.op st (s.writer b k st) loc path bound tag) := by
  rw [State.memIssue, State.afterAcquire_of_empty h]
  cases s.access2 b k st r with
  | trap c t => rfl
  | wait t w => rfl
  | ok loc path bound tag =>
    dsimp only
    rw [State.withEntry_of_empty h, State.holdOverlap_of_empty h]
    split
    · next hr => exact State.afterAll_of_empty h (hc hr) _ _
    · rfl

/-- An access whose address fails its check traps, whatever it would do then. -/
theorem State.memIssue_of_trap {c : BitVec 16} (ha : s.access2 b k st r = .trap c s) :
    s.memIssue b k st r send = .next (s.trap b k st c) := by
  rw [State.memIssue, State.afterAcquire_of_empty h, ha]

end

/-! ### The checks of an address -/

section
variable {s : State} {b k : Nat} {st : Strand} {r : MemReq}

theorem State.access2_of_trap (hk : r.kind.isTagged = false) {c : BitVec 16} {t : State}
    (ha : s.access b k st r.acc r.write r.ea r.size = .trap c t) : s.access2 b k st r = .trap c t := by
  simp [State.access2, hk, ha]

theorem State.access2_of_ok (hk : r.kind.isTagged = false) (hm : r.kind.isAmo = false) {loc : Nat} {path : Path}
    {bd : Option (Nat × Bool)} (ha : s.access b k st r.acc r.write r.ea r.size = .ok loc path bd) :
    s.access2 b k st r = .ok loc path bd loc := by
  simp [State.access2, hk, hm, ha]

/-- R51: an access with a tag byte is found once both are. -/
theorem State.access2_of_tagged (hk : r.kind.isTagged = true) (hm : r.ea.toNat % r.size = 0) (hs : spaceOf b r.ea ≠ .bad)
    {loc tag : Nat} {path p : Path} {bd bd' : Option (Nat × Bool)} (ht : s.tagAccess b k st r.write r.ea = .ok tag p bd')
    (ha : s.access b k st r.acc r.write r.ea r.size = .ok loc path bd) : s.access2 b k st r = .ok loc path bd tag := by
  simp [State.access2, hk, hm, hs, ht, ha]

section
variable {acc : Accepts} {write : Bool} {ea : Word} {size : Nat}

theorem State.access_of_misaligned (h : ea.toNat % size ≠ 0) : s.access b k st acc write ea size = .trap 0x0002 s := by
  rw [State.access, if_pos h]

variable (h : ea.toNat % size = 0)
include h

theorem State.access_of_bad (hs : spaceOf b ea = .bad) : s.access b k st acc write ea size = .trap 0x0004 s := by
  simp [State.access, h, hs]

theorem State.access_of_named {c x : Nat} (hs : spaceOf b ea = .named c x) :
    s.access b k st acc write ea size = .trap 0x0001 s := by simp [State.access, h, hs]

theorem State.access_of_unaccepted {x : Nat} (hs : spaceOf b ea = .dev x ∧ acc.dev = false ∨ spaceOf b ea = .host x ∧ acc.host = false) :
    s.access b k st acc write ea size = .trap 0x0001 s := by
  obtain ⟨hs, ha⟩ | ⟨hs, ha⟩ := hs <;> simp [State.access, h, hs, ha]

theorem State.access_of_own {off : Nat} (hs : spaceOf b ea = .own off) : s.access b k st acc write ea size =
    match (s.launch st.lid).spadMap off with
    | none => .trap 0x0004 s
    | some (o, bound) => .ok (spadAddr b o) (.sill (sillOf off)) bound := by
  rw [State.access, if_neg (by simpa using h), hs] <;> rfl

end
end

/-! ### The place of a scratchpad offset -/

/-- R276: an offset lies in the front of a buffer. -/
def Buffer.InFront (B : Buffer) (off : Nat) : Prop := B.spad = true ∧ B.boff ≤ off ∧ off < B.boff + B.bytes

/-- R276, R278: an offset lies in the second range of a buffer. -/
def Buffer.InSecond (B : Buffer) (off : Nat) : Prop :=
  B.spad = true ∧ B.shadow = true ∧ B.boff + (B.bytes + 255) / 256 * 256 ≤ off ∧ off < B.boff + (B.bytes + 255) / 256 * 256 + B.bytes

section
variable {L : Launch} {off : Nat}

theorem Buffer.inFront_iff (B : Buffer) : (B.spad && inRange B.boff B.bytes off) = true ↔ B.InFront off := by
  simp [Buffer.InFront, inRange]

theorem Buffer.inSecond_iff (B : Buffer) : (B.spad && B.shadow && inRange B.second B.bytes off) = true ↔ B.InSecond off := by
  simp only [inRange, Bool.and_eq_true, decide_eq_true_eq, and_assoc]
  exact Iff.rfl

theorem Launch.spadMap_of_front {p : Nat × Buffer} (hp : p ∈ L.bufs) (hf : p.2.InFront off)
    (hu : ∀ q ∈ L.bufs, q.2.InFront off → q = p) : L.spadMap off =
      some (if p.2.shadow && p.2.swap then p.2.second + (off - p.2.boff) else off, if p.2.shadow then some (p.1, p.2.swap) else none) := by
  have hfind : L.bufs.find? (fun q => q.2.spad && inRange q.2.boff q.2.bytes off) = some p := by
    cases hq : L.bufs.find? (fun q => q.2.spad && inRange q.2.boff q.2.bytes off) with
    | none => exact absurd ((Buffer.inFront_iff p.2).mpr hf) (by simpa using List.find?_eq_none.mp hq p hp)
    | some q => exact congrArg some (hu q (List.mem_of_find?_eq_some hq) ((Buffer.inFront_iff q.2).mp (by simpa using List.find?_some hq)))
  rw [Launch.spadMap, hfind]

theorem Launch.spadMap_of_no_front (h : ∀ p ∈ L.bufs, ¬p.2.InFront off) : L.spadMap off =
    if L.bufs.any (fun p => p.2.spad && p.2.shadow && inRange p.2.second p.2.bytes off) then none else some (off, none) := by
  have hfind : L.bufs.find? (fun q => q.2.spad && inRange q.2.boff q.2.bytes off) = none :=
    List.find?_eq_none.mpr fun p hp hb => h p hp ((Buffer.inFront_iff p.2).mp hb)
  rw [Launch.spadMap, hfind]

theorem Launch.spadMap_of_outside (h : ∀ p ∈ L.bufs, ¬p.2.InFront off ∧ ¬p.2.InSecond off) : L.spadMap off = some (off, none) := by
  rw [Launch.spadMap_of_no_front fun p hp => (h p hp).1, if_neg]
  rw [List.any_eq_true]
  exact fun ⟨p, hp, hs⟩ => (h p hp).2 ((Buffer.inSecond_iff p.2).mp hs)

theorem Launch.spadMap_of_second {p : Nat × Buffer} (hp : p ∈ L.bufs) (hs : p.2.InSecond off)
    (hf : ∀ q ∈ L.bufs, ¬q.2.InFront off) : L.spadMap off = none := by
  rw [Launch.spadMap_of_no_front hf, if_pos (List.any_eq_true.mpr ⟨p, hp, (Buffer.inSecond_iff p.2).mpr hs⟩)]

end

end Sys2Proof.Machine

namespace Sys2Proof.Proofs

open Sys2Proof.Machine

/-- Settles O17: a load and an `ldfe` of a strand with nothing in flight trap as their access does; the place of a scratchpad offset
is what the launch's buffers make of it. -/
theorem addressChecksAndScratchpad : Obligations.AddressChecksAndScratchpad := by
  unfold Obligations.AddressChecksAndScratchpad
  refine ⟨fun s d a sc o t off b k st hi hops => ?_, fun s b k st acc write ea size off hm hs => ?_⟩
  · intro ea
    have hld {c : BitVec 16} (h : s.access b k st allSpaces false ea (tySize t) = .trap c s) :
        exec (.ld d a sc o t off) s = .next (s.trap b k st c) :=
      (State.issue_of_issues hi _).trans (State.memIssue_of_trap hops (State.access2_of_trap rfl h))
    have hldfe {c : BitVec 16} (h : s.access b k st ownOnly false ea (tySize t) = .trap c s) :
        exec (.ldfe d a sc t off) s = .next (s.trap b k st c) :=
      (State.issue_of_issues hi _).trans (State.memIssue_of_trap hops (State.access2_of_trap rfl h))
    refine ⟨fun h => ⟨hld (State.access_of_misaligned h), hldfe (State.access_of_misaligned h)⟩,
      fun h hs => ⟨hld (State.access_of_bad h hs), hldfe (State.access_of_bad h hs)⟩,
      fun c x h hs => ⟨hld (State.access_of_named h hs), hldfe (State.access_of_named h hs)⟩,
      fun x h hs => hldfe (State.access_of_unaccepted h (hs.imp (⟨·, rfl⟩) (⟨·, rfl⟩)))⟩
  · intro L front back lies
    have hx := State.access_of_own (s := s) (k := k) (st := st) (acc := acc) (write := write) hm hs
    have hok {o : Nat} {bd : Option (Nat × Bool)} (h : L.spadMap off = some (o, bd)) : lies o bd := by
      rw [show (s.launch st.lid).spadMap off = some (o, bd) from h] at hx
      exact hx
    refine ⟨fun h => hok (Launch.spadMap_of_outside h), fun p hp hf hu => ?_, fun p hp hb hf => ?_⟩
    · have hmap := Launch.spadMap_of_front hp hf hu
      refine ⟨fun h => hok (by rw [hmap]; simp [h]), fun h h2 => hok (by rw [hmap]; simp [h, h2]),
        fun h h2 => hok (by rw [hmap]; simp [h, h2]; rfl)⟩
    · rw [hx, show (s.launch st.lid).spadMap off = none from Launch.spadMap_of_second hp hb hf]

end Sys2Proof.Proofs
end

section
/-! PROOFS. Loads and stores that go on their way, race-checked or not (R138 to R149). -/

open Sys2Proof

namespace Sys2Proof.Machine

@[simp] theorem leBytes_length (n v : Nat) : (leBytes n v).length = n := by
  induction n generalizing v with
  | zero => rfl
  | succ n ih => rw [leBytes, List.length_cons, ih]

/-- R138: the entry that an access of a strand becomes. -/
def State.entryOf (s : State) (b k : Nat) (st : Strand) (r : MemReq) (loc : Nat) (path : Path) (bd : Option (Nat × Bool)) (tag : Nat) :
    MemOp := r.op st (s.writer b k st) loc path bd tag

section
variable {st : Strand} (h : st.ops = [])
include h

theorem Strand.ops_addOp_of_empty (o : MemOp) : (st.addOp o).next.ops = [{ o with id := st.nextOp }] := by
  simp [Strand.addOp, Strand.next, Strand.goto, h]

/-- R138: an entry apart, a strand whose access goes on its way has moved to its next instruction alone. -/
theorem Strand.same_addOp (o : MemOp) :
    st.SameExcept { (st.addOp o).next with ops := [], nextOp := st.nextOp } [] [] [] := by
  refine ⟨fun _ _ => ⟨rfl, rfl⟩, fun _ _ => ⟨rfl, rfl⟩, fun _ _ => rfl, ?_⟩
  rw [← h]
  rfl

end

section
variable {s : State} {b k : Nat} {st : Strand} {r : MemReq} {o : MemOp}

/-- R143: the state in which an access is sent: a release has ticked its clock. -/
def State.ticked (s : State) (st : Strand) (r : MemReq) (o : MemOp) : State := if r.rel then s.tick st.lid o.writer.key else s

theorem State.ticked_mem : (s.ticked st r o).mem = s.mem := by unfold State.ticked; split <;> simp

theorem State.ticked_of_not_rel (h : r.rel = false) : s.ticked st r o = s := by simp [State.ticked, h]

/-- R142, R143: an access that is not race-checked, or not at a sill, goes on its way at once. -/
theorem State.sendAccess_of_unchecked (hk : r.kind ≠ .ldfe) (hc : r.checked = false ∨ ∀ n, o.path ≠ .sill n) :
    s.sendAccess b k st r o = .next ((s.ticked st r o).setStrand b k (st.addOp o).next) := by
  rw [State.sendAccess, ← State.ticked]
  by_cases hr : r.checked = true
  · have hp : ∀ n, o.path ≠ .sill n := hc.resolve_left (by simp [hr])
    dsimp only
    rw [if_pos hr, State.checkedAccess]
    split
    · next n hn => exact absurd hn (hp n)
    · rfl
  · dsimp only
    rw [if_neg hr, if_neg hk]

/-- R146: an `ldfe` waits for its own entry. -/
theorem State.sendAccess_of_ldfe (hk : r.kind = .ldfe) (hr : r.rel = false) (hc : r.checked = false) : s.sendAccess b k st r o =
    .next (s.setStrand b k { st.addOp o with state := .waiting (.deferred o.id) }) := by
  simp [State.sendAccess, hk, hr, hc]

section
variable (h : st.ops = []) {n : Nat} (hp : o.path = .sill n)
include h hp

/-- R143: a race-checked access at a sill that races traps. -/
theorem State.checkedAccess_of_race
    (hr : s.races b k st o.loc o.size = true ∨ o.kind.isTagged = true ∧ s.races b k st o.tagLoc 1 = true) :
    s.checkedAccess b k st o = .next (s.trap b k st 0x0030) := by
  rw [State.checkedAccess, hp]
  dsimp only
  rw [State.holdSills_of_empty h, if_pos (by simpa using hr)]

theorem State.checkedAccess_of_load (hl : o.kind.isLoad = true) (hr : s.races b k st o.loc o.size = false)
    (ht : o.kind.isTagged = false ∨ s.races b k st o.tagLoc 1 = false) :
    s.checkedAccess b k st o = .next (s.setStrand b k (st.addOp o).next) := by
  rw [State.checkedAccess, hp]
  dsimp only
  rw [State.holdSills_of_empty h, if_neg (by rcases ht with ht | ht <;> simp [hr, ht]), if_pos hl]

theorem State.checkedAccess_of_store (hl : o.kind.isLoad = false) (hr : s.races b k st o.loc o.size = false)
    (ht : o.kind.isTagged = false ∨ s.races b k st o.tagLoc 1 = false) : s.checkedAccess b k st o =
    .next ((o.ranges.foldl (fun t r => t.markWrite o.writer r.1 r.2) s).setStrand b k (st.addOp o).next) := by
  rw [State.checkedAccess, hp]
  dsimp only
  rw [State.holdSills_of_empty h, if_neg (by rcases ht with ht | ht <;> simp [hr, ht]), if_neg (by simp [hl])]

end

theorem State.foldl_markWrite_mem (w : Writer) (l : List (Nat × Nat)) (s : State) :
    (l.foldl (fun t r => t.markWrite w r.1 r.2) s).mem = s.mem := State.foldl_mem _ (fun _ _ => State.markWrite_mem ..) l s

/-! ### An access found, sent -/

variable (hops : st.ops = []) {loc tag : Nat} {path : Path} {bd : Option (Nat × Bool)}
  (ha : s.access2 b k st r = .ok loc path bd tag)
include hops ha

theorem State.memIssue_of_ok (hrel : r.rel = true → s.cellsOut st = false)
    (send : State → Nat → Nat → Strand → MemReq → MemOp → Out) :
    s.memIssue b k st r send = send s b k st r (s.entryOf b k st r loc path bd tag) := by
  rw [State.memIssue_of_empty hops hrel, ha]
  rfl

theorem State.memIssue_of_unchecked (hrel : r.rel = true → s.cellsOut st = false) (hk : r.kind ≠ .ldfe)
    (hc : r.checked = false ∨ ∀ n, path ≠ .sill n) : s.memIssue b k st r State.sendAccess =
      .next ((s.ticked st r (s.entryOf b k st r loc path bd tag)).setStrand b k (st.addOp (s.entryOf b k st r loc path bd tag)).next) := by
  rw [State.memIssue_of_ok hops ha hrel]
  exact State.sendAccess_of_unchecked hk hc

theorem State.memIssue_of_checked (hrel : r.rel = false) (hc : r.checked = true) : s.memIssue b k st r State.sendAccess =
    s.checkedAccess b k st (s.entryOf b k st r loc path bd tag) := by
  rw [State.memIssue_of_ok hops ha (by simp [hrel])]
  simp [State.sendAccess, hrel, hc]

theorem State.memIssue_of_ldfe (hk : r.kind = .ldfe) (hrel : r.rel = false) (hc : r.checked = false) :
    s.memIssue b k st r State.sendAccess = .next (s.setStrand b k
      { st.addOp (s.entryOf b k st r loc path bd tag) with
        state := .waiting (.deferred (s.entryOf b k st r loc path bd tag).id) }) := by
  rw [State.memIssue_of_ok hops ha (by simp [hrel])]
  exact State.sendAccess_of_ldfe hk hrel hc

end

end Sys2Proof.Machine

namespace Sys2Proof.Proofs

open Sys2Proof.Machine

/-- Settles O18: a load whose access is found becomes an entry of its strand. -/
theorem loadsIssue : Obligations.LoadsIssue := by
  unfold Obligations.LoadsIssue
  intro s d a fd sc o t off b k st loc path bd hops entry
  refine ⟨fun hc hi ha => ?_, fun ht hi ha => ?_, fun tag p bd' hc hi hm hs htag ha => ?_, fun hi ha => ?_⟩
  · refine ⟨_, _, (State.issue_of_issues hi _).trans (State.memIssue_of_unchecked hops (State.access2_of_ok rfl rfl ha)
      (by simp) (by simp) hc), Strand.ops_addOp_of_empty hops _, rfl, Strand.same_addOp hops _, rfl, rfl, rfl, rfl, rfl, rfl, rfl⟩
  · have he : exec (.ldnb d a sc t off) s = execLdnb d a sc t off s := rfl
    rw [execLdnb, if_pos ht] at he
    refine ⟨_, _, he.trans ((State.issue_of_issues hi _).trans (State.memIssue_of_unchecked hops (State.access2_of_ok rfl rfl ha)
      (by simp) (by simp) (.inl rfl))), Strand.ops_addOp_of_empty hops _, rfl, Strand.same_addOp hops _, rfl, rfl, rfl, rfl, rfl, rfl,
      rfl⟩
  · refine ⟨_, _, (State.issue_of_issues hi _).trans (State.memIssue_of_unchecked hops (State.access2_of_tagged rfl hm hs htag ha)
      (by simp) (by simp) hc), Strand.ops_addOp_of_empty hops _, rfl, Strand.same_addOp hops _, rfl, rfl, rfl, rfl, rfl, rfl, rfl⟩
  · refine ⟨_, _, (State.issue_of_issues hi _).trans (State.memIssue_of_ldfe hops (State.access2_of_ok rfl rfl ha) rfl rfl rfl),
      Strand.ops_addOp_of_empty hops _, rfl, rfl, rfl, rfl, rfl⟩

/-- Settles O19: a store whose access is found becomes an entry with its bytes; one of another type traps. -/
theorem storesIssue : Obligations.StoresIssue := by
  unfold Obligations.StoresIssue
  intro s d a fd sc o t off b k st loc path bd hops entry
  refine ⟨fun hc ht hi ha hrel => ?_, fun tag p bd' hc hi hm hs htag ha hrel => ?_, fun ht hi ha hrel => ?_, fun ht hi => ?_⟩
  · have he : exec (.st d a sc o t off) s = execSt d a sc o t off s := rfl
    rw [execSt, if_pos ht] at he
    refine ⟨_, _, _, he.trans ((State.issue_of_issues hi _).trans (State.memIssue_of_unchecked hops (State.access2_of_ok rfl rfl ha)
      hrel (by simp) hc)), State.ticked_mem, fun h => State.ticked_of_not_rel h, Strand.ops_addOp_of_empty hops _, rfl,
      Strand.same_addOp hops _, rfl, rfl, rfl, (leBytes_length ..).symm, rfl, rfl, rfl, rfl⟩
  · refine ⟨_, _, _, (State.issue_of_issues hi _).trans (State.memIssue_of_unchecked hops
      (State.access2_of_tagged rfl hm hs htag ha) hrel (by simp) hc), State.ticked_mem, fun h => State.ticked_of_not_rel h,
      Strand.ops_addOp_of_empty hops _, rfl, Strand.same_addOp hops _, rfl, rfl, rfl, (leBytes_length ..).symm, rfl, rfl, rfl, rfl⟩
  · have he : exec (.stfe d a sc t off) s = execStfe d a sc t off s := rfl
    rw [execStfe, if_pos ht] at he
    refine ⟨_, _, _, he.trans ((State.issue_of_issues hi _).trans (State.memIssue_of_unchecked hops (State.access2_of_ok rfl rfl ha)
      hrel (by simp) (.inl rfl))), State.ticked_mem, fun h => State.ticked_of_not_rel h, Strand.ops_addOp_of_empty hops _, rfl,
      Strand.same_addOp hops _, rfl, rfl, rfl, (leBytes_length ..).symm, rfl, rfl, rfl, rfl⟩
  · have he : exec (.st d a sc o t off) s = execSt d a sc o t off s := rfl
    rw [he, execSt, if_neg (by simp [ht])]
    exact State.issue_of_issues hi _

/-- Settles O20: with nothing in flight a race-checked access is checked at once, and then traps or becomes an entry. -/
theorem raceCheckedAccesses : Obligations.RaceCheckedAccesses := by
  unfold Obligations.RaceCheckedAccesses
  intro s d a f t off b k st loc n bd hops entry
  refine ⟨fun hi ha => ?_, fun ht hi ha => ?_, fun tag p bd' hm hs => ⟨fun hi htag ha => ?_, fun hi htag ha => ?_⟩⟩
  · have he : exec (.ld d a .strand .rlx t off) s = _ := (State.issue_of_issues hi _).trans
      (State.memIssue_of_checked hops (State.access2_of_ok rfl rfl ha) rfl rfl)
    refine ⟨fun hr => he.trans (State.checkedAccess_of_race hops rfl (.inl hr)), fun hr => ?_⟩
    refine ⟨_, he.trans (State.checkedAccess_of_load hops rfl rfl hr (.inl rfl)), ⟨State.setStrand_mem .., by simp, rfl,
      Strand.same_addOp hops _, _, Strand.ops_addOp_of_empty hops _, rfl, rfl, rfl, rfl, rfl, rfl, rfl⟩, ?_⟩
    rw [Strand.ops_addOp_of_empty hops]
    exact ⟨_, List.mem_singleton_self _, rfl⟩
  · have hd : exec (.st d a .strand .rlx t off) s = execSt d a .strand .rlx t off s := rfl
    rw [execSt, if_pos ht] at hd
    have he := hd.trans ((State.issue_of_issues hi _).trans
      (State.memIssue_of_checked hops (State.access2_of_ok rfl rfl ha) rfl rfl))
    refine ⟨fun hr => he.trans (State.checkedAccess_of_race hops rfl (.inl hr)), fun hr => ?_⟩
    exact ⟨_, _, he.trans (State.checkedAccess_of_store hops rfl rfl hr (.inl rfl)),
      (State.setStrand_mem ..).trans (State.foldl_markWrite_mem ..), by simp; rfl, rfl, Strand.same_addOp hops _, _,
      Strand.ops_addOp_of_empty hops _, rfl, rfl, rfl, rfl, rfl, rfl, rfl⟩
  · have he : exec (.ldt f a .strand .rlx off) s = _ := (State.issue_of_issues hi _).trans
      (State.memIssue_of_checked hops (State.access2_of_tagged rfl hm hs htag ha) rfl rfl)
    refine ⟨fun hr => he.trans (State.checkedAccess_of_race hops rfl (hr.imp_right (⟨rfl, ·⟩))), fun hr hr' => ?_⟩
    refine ⟨_, he.trans (State.checkedAccess_of_load hops rfl rfl hr (.inr hr')), ⟨State.setStrand_mem .., by simp, rfl,
      Strand.same_addOp hops _, _, Strand.ops_addOp_of_empty hops _, rfl, rfl, rfl, rfl, rfl, rfl, rfl⟩, ?_⟩
    rw [Strand.ops_addOp_of_empty hops]
    exact ⟨_, List.mem_singleton_self _, rfl, rfl⟩
  · have he : exec (.stt f a .strand .rlx off) s = _ := (State.issue_of_issues hi _).trans
      (State.memIssue_of_checked hops (State.access2_of_tagged rfl hm hs htag ha) rfl rfl)
    refine ⟨fun hr => he.trans (State.checkedAccess_of_race hops rfl (hr.imp_right (⟨rfl, ·⟩))), fun hr hr' => ?_⟩
    refine ⟨_, _, he.trans (State.checkedAccess_of_store hops rfl rfl hr (.inr hr')),
      ⟨(State.setStrand_mem ..).trans (State.foldl_markWrite_mem ..), by simp; rfl, rfl, Strand.same_addOp hops _, _,
        Strand.ops_addOp_of_empty hops _, rfl, rfl, rfl, rfl, rfl, rfl, rfl⟩, ?_⟩
    rw [Strand.ops_addOp_of_empty hops]
    exact ⟨_, List.mem_singleton_self _, rfl, rfl⟩

end Sys2Proof.Proofs
end

section
/-! PROOFS. Atomics: their way to HBM and to the AT, and what they compute (R140, R150, R245). -/

open Sys2Proof

namespace Sys2Proof.Machine

/-! ### On their way -/

section
variable {s : State} {b k : Nat} {st : Strand} {r : MemReq} (hk : r.kind.isTagged = false) (hm : r.kind.isAmo = true) {loc : Nat}
  {bd : Option (Nat × Bool)}
include hk hm

theorem State.access2_of_amo_channel {c : Nat} (ha : s.access b k st r.acc r.write r.ea r.size = .ok loc (.channel c) bd) :
    s.access2 b k st r = .ok loc (.channel c) bd loc := by
  simp only [State.access2, hk, Bool.false_eq_true, if_false, ha, hm, if_true]

/-- R150: what lies in own scratchpad is reached through the AT. -/
theorem State.access2_of_amo_sill {n : Nat} (ha : s.access b k st r.acc r.write r.ea r.size = .ok loc (.sill n) bd) :
    s.access2 b k st r = .ok loc .at bd loc := by
  simp only [State.access2, hk, Bool.false_eq_true, if_false, ha, hm, if_true]

end

theorem State.cleared_queues_one (s : State) (b k : Nat) (st : Strand) {i : Nat} (hi : i < 16) (e c : Nat) :
    s.cleared b k st (.queues [(b * 16 + i, e, c)]) = (s.bent b).voqRoom i e c := by
  have h1 : (b * 16 + i) / 16 = b := by omega
  have h2 : (b * 16 + i) % 16 = i := by omega
  simp [State.cleared, h1, h2]

@[simp] theorem Bent.sub_enqueue (B : Bent) (i e : Nat) (c : Cell) (d : Side) :
    (B.enqueue i e c d).sub i e c.cls.toNat = B.sub i e c.cls.toNat ++ [{ cell := c.seal, side := d, stamp := B.stamp }] := by
  simp [Bent.enqueue, Bent.sub]

/-- The cells that wait between two places of a bent do not depend on its strands. -/
@[simp] theorem State.sub_setStrand (s : State) (b k i e c : Nat) (st : Strand) :
    ((s.setStrand b k st).bent b).sub i e c = (s.bent b).sub i e c := by
  rw [State.bent_setStrand, if_pos rfl]
  rfl

@[simp] theorem State.bent_ticked (s : State) (st : Strand) (r : MemReq) (o : MemOp) (b : Nat) :
    (s.ticked st r o).bent b = s.bent b := by
  unfold State.ticked
  split <;> simp

/-- The side of an atomic's cell names the entry that waits for it. -/
def State.amoSide (s : State) (b k : Nat) (st : Strand) (c : Cell) (id : Nat) : Side :=
  { s.strandSide b k st c with amo := some (b, k, id) }

theorem State.sendAmo_to_at {s : State} {b k : Nat} {st : Strand} {r : MemReq} {o : MemOp} {aop : Nat} {w : Bool}
    (hk : r.kind = .amo aop w) (ho : o.path = .at) (hroom : (s.bent b).voqRoom portSI egAT (s.amoCell b k st aop o).cls.toNat = true) :
    s.sendAmo b k st r o = .next (((s.ticked st r o).updBent b (fun B => B.enqueue portSI egAT (s.amoCell b k st aop o)
      (s.amoSide b k st (s.amoCell b k st aop o) o.id))).setStrand b k
        ((st.sent (s.bent b).index portSI (s.amoCell b k st aop o)).addOp o).next) := by
  rw [State.sendAmo, hk, ho]
  exact if_pos (by rw [State.cleared_queues_one s b k st (by decide)]; exact hroom)

section
variable {s : State} {b k : Nat} {st : Strand} (hops : st.ops = []) {aop : Nat} {d a x : XReg} {sc : Scope} {o : Order} {w : Bool}
  (hrel : isRel o = true → s.cellsOut st = false)
  (hi : s.Issues { rx := if aop = 1 then [a, x, d] else [a, x], wx := [d] } b k st) {loc : Nat} {bd : Option (Nat × Bool)}
include hops hrel hi

/-- R150: an atomic to HBM becomes an entry of its strand. -/
theorem State.amoInstr_to_channel {c : Nat} (ha : s.access b k st noHost true (st.rx a) (if w then 8 else 4) = .ok loc (.channel c) bd) :
    ∃ (t : State) (v : Strand) (e : MemOp),
      s.amoInstr aop d a x sc o w = .next (t.setStrand b k v) ∧ t.mem = s.mem ∧ (isRel o = false → t = s) ∧ v.ops = [e] ∧
      v.pc = st.pc + 4 ∧ e.kind = .amo aop w ∧ e.loc = loc ∧ e.path = .channel c ∧ e.size = (if w then 8 else 4) ∧
      e.data = leBytes (if w then 8 else 4) (st.rx x).toNat ∧ e.expected = leBytes (if w then 8 else 4) (st.rx d).toNat ∧
      e.dest = amoDest aop d w := by
  have hsend : s.amoInstr aop d a x sc o w = _ := (State.issue_of_issues hi _).trans
    (State.memIssue_of_ok hops (State.access2_of_amo_channel rfl rfl ha) hrel State.sendAmo)
  have hnext := State.sendAccess_of_unchecked (s := s) (b := b) (k := k) (st := st) (r := amoReq aop d st (st.rx a) x sc o w)
    (o := s.entryOf b k st (amoReq aop d st (st.rx a) x sc o w) loc (.channel c) bd loc) (by simp [amoReq]) (.inl rfl)
  exact ⟨_, _, _, hsend.trans hnext, State.ticked_mem, fun h => State.ticked_of_not_rel h, Strand.ops_addOp_of_empty hops _, rfl, rfl,
    rfl, rfl, rfl, rfl, rfl, rfl⟩

/-- R150, R245: an atomic to own scratchpad goes as a cell to the AT. -/
theorem State.amoInstr_to_at {m : Nat} (ha : s.access b k st noHost true (st.rx a) (if w then 8 else 4) = .ok loc (.sill m) bd)
    (hroom : (s.bent b).voqRoom portSI egAT (tierClass (s.launch st.lid).tier).toNat = true) :
    ∃ (t : State) (v : Strand) (e : MemOp) (c : Cell), s.amoInstr aop d a x sc o w = .next t ∧ t.mem = s.mem ∧
      t.strand? b k = some v ∧ v.ops = [e] ∧ v.pc = st.pc + 4 ∧ e.kind = .amo aop w ∧
      ((t.bent b).sub portSI egAT (tierClass (s.launch st.lid).tier).toNat).map (fun q => q.cell) =
        ((s.bent b).sub portSI egAT (tierClass (s.launch st.lid).tier).toNat).map (fun q => q.cell) ++ [c] ∧
      c.kind = 6 ∧ c.code = BitVec.ofNat 8 (aop + 1) ∧ c.dest = oneHot egAT := by
  have hsend : s.amoInstr aop d a x sc o w = _ := (State.issue_of_issues hi _).trans
    (State.memIssue_of_ok hops (State.access2_of_amo_sill rfl rfl ha) hrel State.sendAmo)
  refine ⟨_, _, _, (s.amoCell b k st aop (s.entryOf b k st (amoReq aop d st (st.rx a) x sc o w) loc .at bd loc)).seal,
    hsend.trans (State.sendAmo_to_at rfl rfl hroom), by simp [State.ticked_mem], by simp; rfl,
    Strand.ops_addOp_of_empty (st := st.sent ..) hops _, rfl, rfl, ?_, rfl, rfl, rfl⟩
  · rw [State.sub_setStrand, State.bent_updBent, if_pos rfl, State.bent_ticked]
    exact (congrArg (List.map _) (Bent.sub_enqueue ..)).trans List.map_append

end

/-! ### What they compute -/

theorem signedOf_eq_toInt {w : Nat} (hw : 0 < w) (n : Nat) : signedOf w n = (BitVec.ofNat w n).toInt := by
  rw [signedOf_eq_bmod hw, BitVec.toInt_ofNat']

section
variable {w : Nat} (hw : 0 < w) (m x e : Nat)
include hw

/-- R150: the smaller of two values as signed numbers. -/
theorem amoNew_min : (amoNew 7 w m x e = m ∨ amoNew 7 w m x e = x) ∧
    (BitVec.ofNat w (amoNew 7 w m x e)).toInt = min (BitVec.ofNat w m).toInt (BitVec.ofNat w x).toInt := by
  simp only [amoNew, signedOf_eq_toInt hw]
  split
  · exact ⟨.inr rfl, by omega⟩
  · exact ⟨.inl rfl, by omega⟩

/-- R150: the larger of two values as signed numbers. -/
theorem amoNew_max : (amoNew 8 w m x e = m ∨ amoNew 8 w m x e = x) ∧
    (BitVec.ofNat w (amoNew 8 w m x e)).toInt = max (BitVec.ofNat w m).toInt (BitVec.ofNat w x).toInt := by
  simp only [amoNew, signedOf_eq_toInt hw]
  split
  · exact ⟨.inr rfl, by omega⟩
  · exact ⟨.inl rfl, by omega⟩

end

end Sys2Proof.Machine

namespace Sys2Proof.Proofs

open Sys2Proof.Machine

/-- Settles O21: every atomic instruction is one instruction with its operation's number; what each computes is its definition. -/
theorem atomicsIssueAndCompute : Obligations.AtomicsIssueAndCompute := by
  unfold Obligations.AtomicsIssueAndCompute
  refine ⟨fun s d a x sc o w b k st loc path bd hops hrel => ?_, fun w m x e hw hm hx => ?_⟩
  · have key (aop : Nat) (w : Bool) (hi : s.Issues { rx := if aop = 1 then [a, x, d] else [a, x], wx := [d] } b k st)
        (ha : s.access b k st noHost true (st.rx a) (if w then 8 else 4) = .ok loc path bd) :=
      And.intro (fun c (hc : path = .channel c) => hc ▸ State.amoInstr_to_channel (sc := sc) hops hrel hi (hc ▸ ha))
        (fun m (hm : path = .sill m) => State.amoInstr_to_at (sc := sc) hops hrel hi (hm ▸ ha))
    simp only [List.forall_mem_cons, List.not_mem_nil, false_imp_iff, implies_true, and_true]
    exact ⟨key 0 w, key 1 w, key 2 w, key 3 false, key 4 w, key 5 w, key 6 w, key 7 w, key 8 w, key 9 w, key 10 w⟩
  · exact ⟨rfl, rfl, rfl, rfl, rfl, rfl, fun h => rfl, amoNew_min hw m x e, amoNew_max hw m x e, rfl, rfl⟩

end Sys2Proof.Proofs
end

section
/-! PROOFS. Fences and waits (R153, R156, R157), barriers and `publish` (R158 to R160). -/

open Sys2Proof

namespace Sys2Proof.Machine

/-! ### Issuing with fewer registers -/

/-- R106, R107: an instruction that uses fewer registers issues where one that uses more does. -/
theorem State.Issues.mono {s : State} {u v : Uses} {b k : Nat} {st : Strand} (hi : s.Issues u b k st) (hrx : v.rx ⊆ u.rx)
    (hdx : v.dx ⊆ u.dx) (hwx : v.wx ⊆ u.wx) (hrf : v.rf ⊆ u.rf) (hdf : v.df ⊆ u.df) (hwf : v.wf ⊆ u.wf) : s.Issues v b k st := by
  obtain ⟨hc, hb, hp⟩ := hi
  refine ⟨hc, ?_, ?_⟩
  · rw [Strand.blocking, List.filter_eq_nil_iff] at hb ⊢
    intro o ho
    have := hb o ho
    cases hd : o.dest with
    | none => simp
    | x d full => simp only [hd, Bool.and_eq_true, Bool.or_eq_true, List.contains_iff_mem] at this ⊢; grind
    | f d => simp only [hd, Bool.or_eq_true, List.contains_iff_mem] at this ⊢; grind
  · simp only [Strand.poisonedUse, Bool.or_eq_false_iff, List.any_eq_false] at hp ⊢
    exact ⟨fun r hr => hp.1 r (hrx hr), fun r hr => hp.2 r (hrf hr)⟩

/-! ### Fences -/

section
variable {s : State} {b k : Nat} {st : Strand} {sc : Scope}

theorem State.cleared_performed : s.cleared b k st (.performed sc) = s.performed st := rfl

/-- R153, R156: once everything has been performed, what waits for it goes on. -/
theorem State.afterAll_of_performed (h : s.performed st = true) (body : Out) : s.afterAll b k st sc body = body := by
  simp [State.afterAll, State.holdAtoms, State.cleared_performed, h]

/-- R153: what waits for everything traps behind an atomic of the round, and waits behind anything else. -/
theorem State.afterAll_of_outstanding (h : s.performed st = false) (body : Out) : s.afterAll b k st sc body =
    .next (if ((s.launch st.lid).det && (s.atomCells st || st.ops.any st.stuck)) = true then s.trap b k st 0x0001
      else s.park b k st (.performed sc)) := by
  simp only [State.afterAll, State.holdAtoms, State.cleared_performed, h, Bool.false_eq_true, if_false, true_and]
  cases hd : (s.launch st.lid).det <;> cases ha : s.atomCells st <;> cases st.ops.any st.stuck <;> simp

end

theorem exec_fence_of_issues {s : State} {b k : Nat} {st : Strand} (hi : s.Issues {} b k st) (sc : Scope) :
    exec (.fence sc) s = s.afterAll b k st sc (.next (s.setStrand b k st.next)) := State.issue_of_issues hi _

theorem exec_fenceComplete_of_performed {s : State} {b k : Nat} {st : Strand} {sc : Scope} (hs : s.strand? b k = some st)
    (hw : st.state = .waiting (.performed sc)) (hp : s.performed st = true) :
    exec (.fenceComplete b k) s = .next (s.setStrand b k { st with state := .ready }) := by
  have h : exec (.fenceComplete b k) s = execFenceComplete b k s := rfl
  rw [h, execFenceComplete]
  simp only [hs, hw, State.cleared_performed, hp, if_true]

theorem exec_strandWake_of_waiting {s : State} {b k : Nat} {st : Strand} {w : Wait} (hs : s.strand? b k = some st)
    (hw : st.state = .waiting w) :
    exec (.strandWake b k) s = .next (if s.cleared b k st w then s.setStrand b k { st with state := .ready } else s) := by
  have h : exec (.strandWake b k) s = execStrandWake b k s := rfl
  rw [h, execStrandWake]
  simp only [hs, hw]
  split <;> rfl

end Sys2Proof.Machine

namespace Sys2Proof.Proofs

open Sys2Proof.Machine

/-- Settles O23: a fence waits for all that is outstanding, and a strand wakes where its condition has cleared. -/
theorem fencesAndWaits : Obligations.FencesAndWaits := by
  unfold Obligations.FencesAndWaits
  intro s sc b k st w
  refine ⟨fun hi => ?_, exec_fenceComplete_of_performed, exec_strandWake_of_waiting⟩
  rw [exec_fence_of_issues hi]
  refine ⟨fun hp => State.afterAll_of_performed hp _, fun hp => ⟨fun ha => ?_, fun ha => ?_⟩⟩
  · rw [State.afterAll_of_outstanding hp, if_neg (by rw [ha]; decide)]
    rfl
  · rw [State.afterAll_of_outstanding hp, if_pos ha]

end Sys2Proof.Proofs
end

section
/-! PROOFS. Commands behind an acquire (R139), and what ends a publish (R160, R301). -/

open Sys2Proof

namespace Sys2Proof.Machine

/-! ### Launches after an update -/

/-- What a launch has after an update that keeps the field. -/
theorem State.launch_updLaunch_keeps {α : Type} (p : Launch → α) (s : State) (lid l : Nat) {f : Launch → Launch}
    (hf : ∀ L, p (f L) = p L) : p ((s.updLaunch lid f).launch l) = p (s.launch l) := by
  rw [State.launch_eq, State.launch_eq, State.launch?_updLaunch]
  split
  · cases s.launch? l with
    | none => rfl
    | some L => exact hf L
  · rfl

theorem State.launch_updLaunch_of_launch? {s : State} {lid : Nat} {L : Launch} (h : s.launch? lid = some L) (f : Launch → Launch) :
    (s.updLaunch lid f).launch lid = f L := by
  rw [State.updLaunch_of_launch? h, State.launch_setLaunch, if_pos rfl]

theorem State.Current.launch? {s : State} {b k : Nat} {st : Strand} (h : s.Current b k st) :
    s.launch? st.lid = some (s.launch st.lid) := by
  obtain ⟨-, -, -, L, hL, -⟩ := h
  rw [State.launch_of_launch? hL, hL]

/-- A launch that is there has what an update makes of it. -/
theorem State.Current.launch_updLaunch {s : State} {b k : Nat} {st : Strand} (h : s.Current b k st) (f : Launch → Launch) :
    (s.updLaunch st.lid f).launch st.lid = f (s.launch st.lid) := State.launch_updLaunch_of_launch? h.launch? f

/-! ### Commands behind an acquire -/

section
variable {s : State} {u : Uses} {b k : Nat} {st : Strand} (hi : s.Issues u b k st) (body : Nat → Nat → Strand → Out)
include hi

/-- R139: a command waits while an acquire of its strand is in flight. -/
theorem State.command_of_acquire (ha : ∃ o ∈ st.ops, o.acq = true) (hd : (s.launch st.lid).det = false) :
    s.command u body = .next (s.setStrand b k { st with state := .waiting .acquire }) := by
  have hc : s.cleared b k st .acquire = false := by
    obtain ⟨o, ho, ha⟩ := ha
    rw [← Bool.not_eq_true]
    simp only [State.cleared, List.all_eq_true]
    exact fun h => by simpa [ha] using h o ho
  rw [State.command, State.issue_of_issues hi, State.afterAcquire, State.holdAtoms, hc, hd]
  rfl

/-- R139: with none in flight it goes on. -/
theorem State.command_of_issues (ha : ∀ o ∈ st.ops, o.acq = false) : s.command u body = body b k st := by
  have hc : s.cleared b k st .acquire = true := by
    simp only [State.cleared, List.all_eq_true]
    exact fun o ho => by simp [ha o ho]
  rw [State.command, State.issue_of_issues hi, State.afterAcquire, State.holdAtoms, if_pos hc]

end

@[simp] theorem Strand.pc_next (st : Strand) : st.next.pc = st.pc + 4 := rfl
@[simp] theorem Strand.rx_next (st : Strand) (r : XReg) : st.next.rx r = st.rx r := rfl
@[simp] theorem Strand.x_next (st : Strand) : st.next.x = st.x := rfl

/-! ### A publish with a fold that waited for it -/

/-- A launch of one bent with a buffer that a publish is completing on. -/
def pubLaunch : Launch :=
  { region := [0], bufs := [(0, ⟨true, false, false, 0, 256, 0, some 0, 0, false, none, 0⟩)], pubAfter := [0] }

/-- A bent whose consolidator has a fold into buffer 0, of a round before its own (R301). -/
def foldBent : Bent :=
  { launch := some 0, unitRound := [(egCN, 1)], cn := { folds := [⟨0, 0, ⟨0, 0, 1, 0, 0⟩, false⟩] } }

def pubState : State := { launches := [(0, pubLaunch)], bents := [(0, foldBent)] }

/-- R301: the completion of a publish carries out the folds that waited for it. -/
theorem exec_publishComplete_takes_folds : ∃ t, exec (.publishComplete 0 0) pubState = .next t ∧ (t.bent 0).cn.folds = [] :=
  ⟨_, rfl, by decide⟩

end Sys2Proof.Machine

namespace Sys2Proof.Proofs

open Sys2Proof.Machine

/-- Refutes O24: a publish of buffer 0 completes while a fold into it waits; the fold is carried out, where the statement says that
nothing but the launch's list of publishes changes. -/
theorem not_barriersAndPublish : ¬ Obligations.BarriersAndPublish := by
  intro h
  obtain ⟨t, ht, hf⟩ := exec_publishComplete_takes_folds
  have hi : (Tests.sys {}).Issues {} 0 0 {} := Tests.issues_at (by decide)
  obtain ⟨-, -, -, hc⟩ := h.2.2 (Tests.sys {}) 0 0 0 {} hi rfl
  have he := hc pubState pubLaunch _ rfl rfl (by decide) (by decide)
  have het : t = _ := Host.Outcome.next.inj (ht.symm.trans he)
  rw [het, State.bent_setLaunch] at hf
  exact absurd hf (by decide)

end Sys2Proof.Proofs
end

section
/-! PROOFS. Control registers and identity (R55, R64 to R66, R131, R196). -/

open Sys2Proof

namespace Sys2Proof.Machine

@[simp] theorem State.bents_updLaunch (s : State) (lid : Nat) (f : Launch → Launch) : (s.updLaunch lid f).bents = s.bents := by
  unfold State.updLaunch
  split <;> rfl

theorem State.bents_setStrand_congr {s t : State} (h : s.bents = t.bents) (b k : Nat) (st : Strand) :
    (s.setStrand b k st).bents = (t.setStrand b k st).bents := by
  simp only [State.setStrand, State.updBent, State.setBent, State.bent, h]

/-- The numbers that a read knows, but EVQ's and VOTELOG's. -/
def readNumbers : List Nat :=
  [0x000, 0x001, 0x002, 0x004, 0x005, 0x006, 0x007, 0x010, 0x011, 0x012, 0x020, 0x021, 0x022, 0x024, 0x030, 0x031, 0x032, 0x033,
   0x034, 0x035, 0x041]

theorem State.ctlValue_eq_none {s : State} {b n : Nat} {st : Strand} (h : n ∉ readNumbers) : s.ctlValue b st n = none := by
  unfold State.ctlValue
  dsimp only
  split
  case h_22 => rfl
  all_goals exact absurd (by decide) h

/-- The strand's numbers that a write knows. -/
theorem Strand.ctlWrite_eq_none {n : Nat} {st : Strand} {x : Word} (h : n ∉ [0x000, 0x001, 0x002, 0x010, 0x012]) :
    st.ctlWrite n x = none := by
  unfold Strand.ctlWrite
  split
  case h_6 => rfl
  all_goals exact absurd (by decide) h

theorem State.identity_eq_none {s : State} {b k n : Nat} {st : Strand} (h : 10 ≤ n) : s.identity b k st n = none := by
  unfold State.identity
  dsimp only
  split
  case h_11 => rfl
  all_goals exact absurd h (by decide)

section
variable {s : State} {d a : XReg} {n : BitVec 10} {b k : Nat} {st : Strand}

section
variable (hi : s.Issues { wx := [d] } b k st)
include hi

theorem exec_ctlRd_of_value {v : Word} (he : n ≠ 0x023) (hv : n ≠ 0x040) (h : s.ctlValue b st n.toNat = some v) :
    exec (.ctlRd d n) s = .next (s.setStrand b k (st.wx d v).next) := by
  refine (State.issue_of_issues hi _).trans ?_
  rw [if_neg he, if_neg hv, h]

theorem exec_ctlRd_of_none (he : n ≠ 0x023) (hv : n ≠ 0x040) (h : s.ctlValue b st n.toNat = none) :
    exec (.ctlRd d n) s = .next (s.trap b k st 0x0001) := by
  refine (State.issue_of_issues hi _).trans ?_
  rw [if_neg he, if_neg hv, h]

theorem exec_ident_of_some {v : Nat} (h : s.identity b k st n.toNat = some v) :
    exec (.ident d n) s = .next (s.setStrand b k (st.wx d (BitVec.ofNat 64 v)).next) := by
  refine (State.issue_of_issues hi _).trans ?_
  rw [h]

theorem exec_ident_of_none (h : s.identity b k st n.toNat = none) : exec (.ident d n) s = .next (s.trap b k st 0x0001) := by
  refine (State.issue_of_issues hi _).trans ?_
  rw [h]

end

section
variable (hi : s.Issues { rx := [a] } b k st)
include hi

theorem exec_ctlWr_of_strand {st1 : Strand} (h1 : n ≠ 0x030) (h2 : n ≠ 0x031) (h : st.ctlWrite n.toNat (st.rx a) = some st1) :
    exec (.ctlWr a n) s = .next (s.setStrand b k st1.next) := by
  refine (State.issue_of_issues hi _).trans ?_
  dsimp only
  rw [if_neg h1, if_neg h2, h]

theorem exec_ctlWr_of_none (h1 : n ≠ 0x030) (h2 : n ≠ 0x031) (h : st.ctlWrite n.toNat (st.rx a) = none) :
    exec (.ctlWr a n) s = .next (s.trap b k st 0x0001) := by
  refine (State.issue_of_issues hi _).trans ?_
  dsimp only
  rw [if_neg h1, if_neg h2, h]

end

@[simp] theorem State.logCtl_bents (s : State) (b : Nat) (st : Strand) : (s.logCtl b st).bents = s.bents := by simp [State.logCtl]

end

end Sys2Proof.Machine

namespace Sys2Proof.Proofs

open Sys2Proof.Machine

/-- Settles O14: each number read or written is looked up; numbers of no list have no value. -/
theorem controlRegisters : Obligations.ControlRegisters := by
  intro s d a n b k st
  refine ⟨fun hi => ?_, fun hi => ?_⟩
  · intro L B held names
    refine ⟨?_, ?_, ?_, fun h => exec_ident_of_none hi (State.identity_eq_none h)⟩
    · simp only [held, List.forall_mem_cons, List.not_mem_nil, false_imp_iff, implies_true, and_true]
      refine ⟨?_, ?_, ?_, ?_, ?_, ?_, ?_, ?_, ?_, ?_, ?_, ?_, ?_, ?_, ?_, ?_, ?_, ?_, ?_, ?_, ?_⟩
      all_goals exact exec_ctlRd_of_value hi (by decide) (by decide) rfl
    · intro he hv hn
      refine exec_ctlRd_of_none hi he hv (State.ctlValue_eq_none fun h => hn ?_)
      have hm : n.toNat ∈ (held.map Prod.fst).map BitVec.toNat := h
      exact (List.mem_map_of_injective fun _ _ => BitVec.eq_of_toNat_eq).mp hm
    · simp only [names, List.forall_mem_cons, List.not_mem_nil, false_imp_iff, implies_true, and_true]
      refine ⟨?_, ?_, ?_, ?_, ?_, ?_, ?_, ?_, ?_, ?_⟩
      case refine_10 =>
        rw [exec_ident_of_some hi (v := (if s.device.fabidValid then 2 ^ 16 else 0) + s.device.fabid.toNat) rfl]
        cases s.device.fabidValid <;> simp [BitVec.ofNat_add]
      all_goals exact exec_ident_of_some hi rfl
  · intro x
    have hx : x.extractLsb' 0 5 = x.setWidth 5 := BitVec.eq_of_toNat_eq (by simp)
    have h3 : x.extractLsb' 0 3 = x.setWidth 3 := BitVec.eq_of_toNat_eq (by simp)
    refine ⟨?_, ?_, ?_, ?_, ?_, ?_, ?_, ?_⟩
    · exact exec_ctlWr_of_strand hi (by decide) (by decide) (by rw [← h3]; rfl)
    · refine exec_ctlWr_of_strand hi (by decide) (by decide) ?_
      rw [← hx, show x.toNat % 32 = (x.extractLsb' 0 5).toNat by simp]
      rfl
    · exact exec_ctlWr_of_strand hi (by decide) (by decide) (by rw [← h3]; rfl)
    · exact exec_ctlWr_of_strand hi (by decide) (by decide) rfl
    · exact exec_ctlWr_of_strand hi (by decide) (by decide) rfl
    · exact ⟨_, State.issue_of_issues hi _, by simp, State.bents_setStrand_congr (State.logCtl_bents ..) ..⟩
    · exact ⟨_, State.issue_of_issues hi _, by simp, State.bents_setStrand_congr (State.logCtl_bents ..) ..⟩
    · intro hn
      have hm := mt (List.mem_map_of_injective fun _ _ => BitVec.eq_of_toNat_eq).mp hn
      have h1 : n ≠ 0x030 := fun e => hn (by simp [e])
      have h2 : n ≠ 0x031 := fun e => hn (by simp [e])
      exact exec_ctlWr_of_none hi h1 h2 (Strand.ctlWrite_eq_none fun h => hm (List.mem_append_left [0x030, 0x031] h))

end Sys2Proof.Proofs
end

section
/-! PROOFS. Exits, and continuations parked, listed and resumed (R187 to R190, R263, R266, R267). -/

open Sys2Proof

namespace Sys2Proof.Machine

/-! ### Slots freed -/

@[simp] theorem State.strand?_dropStrand (s : State) (b k : Nat) : (s.dropStrand b k).strand? b k = none := by
  simp [State.dropStrand, State.strand?]

@[simp] theorem State.launch_dropStrand (s : State) (b k l : Nat) : (s.dropStrand b k).launch l = s.launch l := by
  simp [State.dropStrand]

@[simp] theorem State.launch?_dropStrand (s : State) (b k l : Nat) : (s.dropStrand b k).launch? l = s.launch? l := by
  simp [State.dropStrand]

/-- R263: a retiring strand with nothing outstanding frees its slot. -/
theorem exec_strandDone_of_retired {s : State} {b k : Nat} {st : Strand} {q : Bool} (hs : s.strand? b k = some st)
    (hq : st.state = .retiring q) (hr : s.retired st = true) (hp : st.pend = []) :
    ∃ t, exec (.strandDone b k) s = .next t ∧ t.strand? b k = none := by
  have h : exec (.strandDone b k) s = execStrandDone b k s := rfl
  refine ⟨(s.mapRegion st.lid (fun _ B => B.releaseRv st)).dropStrand b k, ?_, by simp⟩
  rw [h, execStrandDone, hs]
  simp only [hq, hr, hp, State.orphanTraps, List.isEmpty_nil, Bool.true_or, Bool.and_self, if_true, List.foldl_nil]

/-! ### Records -/

section
variable {st : Strand} {live : BitVec 48} {w : Word} {l : Option Nat}

@[simp] theorem Strand.pc_cont : (st.cont live w l).st.pc = st.pc + 4 := rfl
@[simp] theorem Strand.wid_cont : (st.cont live w l).st.wid = st.wid := rfl
@[simp] theorem Strand.round_cont : (st.cont live w l).st.round = st.round := rfl
@[simp] theorem Strand.waitOn_cont : (st.cont live w l).waitOn = w := rfl

theorem Strand.isOwner_cont : (st.cont live w l).isOwner st.ownerBent st.ownerSlot = true := by
  simp [Cont.isOwner, Strand.cont, Strand.record, Strand.liveX, Strand.next]

/-- R187: a record keeps the registers of its mask. -/
theorem Strand.rx_cont {r : XReg} (h : live.getLsbD r.toNat = true) : (st.cont live w l).st.rx r = st.rx r := by
  simp [Strand.cont, Strand.record, Strand.liveX, Strand.rx, h, Strand.next]

end

/-- What firing does to each parked continuation. -/
def Launch.fired (L : Launch) (p : Cont → Bool) (c : Cont) : Cont :=
  if p c && !c.fired then { c with fired := true, firedAt := L.fireSeq } else c

@[simp] theorem Launch.fired_st (L : Launch) (p : Cont → Bool) (c : Cont) : (L.fired p c).st = c.st := by
  unfold Launch.fired; split <;> rfl
@[simp] theorem Launch.fired_waitOn (L : Launch) (p : Cont → Bool) (c : Cont) : (L.fired p c).waitOn = c.waitOn := by
  unfold Launch.fired; split <;> rfl

theorem Launch.fire_conts (L : Launch) (p : Cont → Bool) : (L.fire p).conts = L.conts.map (L.fired p) := by
  unfold Launch.fire
  split
  · rfl
  · next h =>
    simp only [List.any_eq_true, not_exists, not_and] at h
    conv => lhs; rw [← List.map_id L.conts]
    exact List.map_congr_left fun c hc => (if_neg (h c hc)).symm

/-! ### Saving -/

section
variable {s : State} {b k : Nat} {st : Strand} {c : Cont} {L : Launch} (hL : s.launch? st.lid = some L) (hroom : L.records < L.cstore)
include hL hroom

theorem State.saveCont_of_room (ready : Bool) : s.saveCont b k st c ready = (s.dropStrand b k).updLaunch st.lid (fun L =>
    if ready then { L.list { c with fired := true, firedAt := L.fireSeq } with fireSeq := L.fireSeq + 1 }
    else ({ L with conts := L.conts ++ [c] }).fire (fun d => d.isOwner st.ownerBent st.ownerSlot && !d.st.pend.isEmpty)) := by
  rw [State.saveCont, State.launch_of_launch? hL]
  exact if_neg (Nat.not_le.mpr hroom)

/-- R188: a continuation saved ready joins the ready list in its place. -/
theorem State.saveCont_ready :
    (s.saveCont b k st c true).strand? b k = none ∧
      ((s.saveCont b k st c true).launch st.lid).readyList = (L.list { c with fired := true, firedAt := L.fireSeq }).readyList := by
  rw [State.saveCont_of_room hL hroom]
  refine ⟨by simp, ?_⟩
  rw [State.launch_updLaunch_of_launch? (by simpa using hL)]
  rfl

/-- R187: one saved unready is parked behind the others. -/
theorem State.saveCont_parked :
    (s.saveCont b k st c false).strand? b k = none ∧
      ((s.saveCont b k st c false).launch st.lid).conts.length = L.conts.length + 1 ∧
      ∃ d ∈ ((s.saveCont b k st c false).launch st.lid).conts, d.st = c.st ∧ d.waitOn = c.waitOn := by
  rw [State.saveCont_of_room hL hroom]
  refine ⟨by simp, ?_⟩
  rw [State.launch_updLaunch_of_launch? (by simpa using hL)]
  simp only [Bool.false_eq_true, if_false, Launch.fire_conts, List.length_map, List.length_append, List.length_singleton, true_and]
  exact ⟨_, List.mem_map_of_mem (List.mem_append_right _ (List.mem_singleton.mpr rfl)), by simp⟩

end

/-- R187: a strand whose loads have returned goes on. -/
theorem State.afterLoads_of_none {s : State} {b k : Nat} {st : Strand} (h : st.loads = []) (body : Out) :
    s.afterLoads b k st body = body := by
  rw [State.afterLoads, State.holdAtoms, if_pos (by simp [State.cleared, Strand.loadsOut, h])]

section
variable {s : State} {d a : XReg} {b k : Nat} {st : Strand} (hs : st.saved = none) (hl : liveOk (st.rx d) = true) (hn : st.loads = [])
include hs hl hn

theorem exec_yield_of_issues (hi : s.Issues { rx := [d] } b k st) :
    exec (.yield d) s = .next (s.saveCont b k st (st.cont ((st.rx d).extractLsb' 0 48) 0 none) true) := by
  refine (State.issue_of_issues hi _).trans ?_
  rw [if_neg (by simp [Strand.inHandler, hs, hl])]
  exact State.afterLoads_of_none hn _

theorem exec_split_of_issues (hi : s.Issues { rx := [d, a] } b k st) {loc path bd} (hw : s.waitWord b k st (st.rx a) = .ok loc path bd) :
    ∃ own, exec (.split d a) s =
      if s.readNat loc 8 % 4 ≠ 0 then .next (s.setStrand b k st.next)
      else .next (s.saveCont b k st (st.cont ((st.rx d).extractLsb' 0 48) (st.rx a) own) false) := by
  have he : exec (.split d a) s = _ := State.issue_of_issues hi _
  rw [if_neg (by simp [Strand.inHandler, hs, hl]), hw] at he
  exact ⟨_, he.trans (State.afterLoads_of_none hn _)⟩

end

/-! ### Listing and resuming -/

/-- R266: a continuation that has fired is listed. -/
theorem exec_continuationReady_of_fired {s : State} {lid n : Nat} {L : Launch} {c : Cont} (hL : s.launch? lid = some L)
    (hc : L.conts[n]? = some c) (hf : c.fired = true) :
    exec (.continuationReady lid n) s = .next (s.setLaunch lid (({ L with conts := L.conts.eraseIdx n }).list c)) := by
  have h : exec (.continuationReady lid n) s = execContinuationReady lid n s := rfl
  rw [h, execContinuationReady, hL]
  simp only [hc, hf, Bool.true_or, if_true]

/-- R267: a free slot takes its continuation. -/
theorem exec_continuationResume_of_takes {s : State} {b k lid : Nat} {c : Cont} (hb : (s.bent b).launch = some lid)
    (hs : s.strand? b k = none) (hk : k < (s.launch lid).nStrands) (hr : (s.launch lid).phase = .running)
    (ho : (s.launch lid).det = false → s.slotBefore lid b k = false) (hc : (s.launch lid).takes (s.bent b).index k = some c) :
    ∃ t : State, exec (.continuationResume b k) s = .next (t.setStrand b k { c.st with evq := c.events', state := .ready }) := by
  have h : exec (.continuationResume b k) s = execContinuationResume b k s := rfl
  have hn : ¬((s.strand? b k).isSome = true ∨ (s.launch lid).nStrands ≤ k ∨ (s.launch lid).phase ≠ .running ∨
      ((s.launch lid).det = false ∧ s.slotBefore lid b k = true)) := by
    rintro (h | h | h | ⟨h, h'⟩)
    · simp [hs] at h
    · exact absurd hk (Nat.not_lt.mpr h)
    · exact h hr
    · simp [ho h] at h'
  rw [h, execContinuationResume, hb]
  simp only [if_neg hn, hc]
  exact ⟨_, rfl⟩

end Sys2Proof.Machine

namespace Sys2Proof.Proofs

open Sys2Proof.Machine

/-- Settles O16: one lemma for each way in which a strand leaves its slot or comes back to one. -/
theorem strandEndsAndContinuations : Obligations.StrandEndsAndContinuations := by
  intro s d a b k st ready
  refine ⟨fun hi => ⟨fun h => ?_, fun h => ?_, ?_⟩, fun q hs hq hr hp => exec_strandDone_of_retired hs hq hr hp,
    fun hi hs hl hn hroom => ?_, fun loc path bd hi hs hl hn hroom hw => ⟨fun h => ?_, fun h => ?_⟩,
    fun lid n L c hL hc hf => exec_continuationReady_of_fired hL hc hf, fun lid c hb hs hk hr ho hc => ?_⟩
  · exact (State.issue_of_issues hi _).trans (if_neg (by simp [h]))
  · exact (State.issue_of_issues hi _).trans (if_pos h)
  · intro t
    exact ⟨fun h => (State.issue_of_issues hi _).trans (if_neg (by simpa [t] using h)),
      fun h => (State.issue_of_issues hi _).trans (if_pos h)⟩
  · obtain ⟨hslot, hlist⟩ := State.saveCont_ready (b := b) (k := k) (c := st.cont ((st.rx d).extractLsb' 0 48) 0 none)
      hi.1.launch? hroom
    refine ⟨_, _, exec_yield_of_issues hs hl hn hi, hslot, hlist, rfl, rfl, rfl, fun r hr _ => Strand.rx_cont (w := 0) (l := none) ?_⟩
    have : r.toNat < 48 := Nat.lt_trans r.isLt (by decide)
    simpa [this] using hr
  · obtain ⟨own, he⟩ := exec_split_of_issues hs hl hn hi hw
    rw [he, if_pos h]
  · obtain ⟨own, he⟩ := exec_split_of_issues hs hl hn hi hw
    rw [he, if_neg (not_not_intro h)]
    obtain ⟨hslot, hlen, e, hmem, hst, hwait⟩ := State.saveCont_parked (b := b) (k := k)
      (c := st.cont ((st.rx d).extractLsb' 0 48) (st.rx a) own)
      hi.1.launch? hroom
    refine ⟨_, rfl, hslot, hlen, e, hmem, by rw [hst, Strand.pc_cont], hwait, ?_⟩
    rw [Cont.isOwner, hst]
    exact Strand.isOwner_cont (w := st.rx a) (l := own)
  · obtain ⟨t, ht⟩ := exec_continuationResume_of_takes hb hs hk hr ho hc
    exact ⟨_, { c.st with evq := c.events', state := .ready }, ht, by rw [State.strand?_setStrand, if_pos ⟨rfl, rfl⟩], rfl, rfl, rfl, rfl⟩

end Sys2Proof.Proofs
end

section
/-! PROOFS. What loads, atomics and stores do when they return (R51, R138 to R150, R154, R339). -/

open Sys2Proof

namespace Sys2Proof.Machine

/-! ### Bytes -/

theorem leNat_lt (l : List Byte) : leNat l < 2 ^ (8 * l.length) := by
  induction l with
  | nil => simp [leNat]
  | cons v l ih =>
    have hv := v.isLt
    have : 2 ^ (8 * (v :: l).length) = 256 * 2 ^ (8 * l.length) := by
      rw [List.length_cons, Nat.mul_add, Nat.pow_add, Nat.mul_comm]
    rw [this, leNat]
    omega

theorem leNat_leBytes (n v : Nat) : leNat (leBytes n v) = v % 2 ^ (8 * n) := by
  induction n generalizing v with
  | zero => simp [leBytes, leNat, Nat.mod_one]
  | succ n ih =>
    have : 2 ^ (8 * (n + 1)) = 256 * 2 ^ (8 * n) := by rw [Nat.mul_add, Nat.pow_add, Nat.mul_comm]
    rw [leBytes, leNat, ih, this, Nat.mod_mul]
    simp

@[simp] theorem Memory.getBytes_length (m : List Host.Cell) (a n : Nat) : (Memory.getBytes m a n).length = n := by
  simp [Memory.getBytes]

/-- A place that holds the bytes of a list reads as their number. -/
theorem State.readNat_of_bytes {s : State} {a n : Nat} {l : List Byte} (hn : l.length = n)
    (h : ∀ j (hj : j < l.length), s.byte (a + j) = l[j]) : s.readNat a n = leNat l := by
  refine congrArg leNat (List.ext_getElem (by simp [hn]) fun j h1 h2 => ?_)
  rw [← h j h2]
  simp [Memory.getBytes, State.byte]

/-! ### Writes leave the strands -/

theorem State.strand?_updBent_keeps (s : State) (c b k : Nat) {f : Bent → Bent} (h : ∀ B, (f B).strands = B.strands) :
    (s.updBent c f).strand? b k = s.strand? b k := by
  simp only [State.strand?, State.bent_updBent]
  split
  · next e => rw [h, e]
  · rfl

theorem State.strand?_congr {s t : State} (h : s.bents = t.bents) (b k : Nat) : s.strand? b k = t.strand? b k := by
  simp only [State.strand?, State.bent, h]

@[simp] theorem State.strand?_recordUndo (s : State) (w : Writer) (a n b k : Nat) :
    (s.recordUndo w a n).strand? b k = s.strand? b k := by
  unfold State.recordUndo
  split
  · rfl
  · split <;> rfl

@[simp] theorem State.strand?_leave (s : State) (w : Writer) (sc : Scope) (keep : Bool) (objs : List Nat) (b k : Nat) :
    (s.leave w sc keep objs).strand? b k = s.strand? b k := State.strand?_updLaunch ..

@[simp] theorem State.strand?_write (s : State) (w : Writer) (a : Nat) (l : List Byte) (p : Bool) (b k : Nat) :
    (s.write w a l p).strand? b k = s.strand? b k := by
  refine Eq.trans ?_ (State.strand?_recordUndo s w a l.length b k)
  unfold State.write
  dsimp only
  split
  · refine (State.strand?_updBent_keeps _ _ _ _ ?_).trans (State.strand?_congr ?_ b k)
    · exact fun _ => rfl
    · split <;> rfl
  · refine State.strand?_congr ?_ b k
    split <;> rfl

@[simp] theorem State.strand?_putBytes (s : State) (o : MemOp) (loc : Nat) (l : List Byte) (b k : Nat) :
    (s.putBytes o loc l).strand? b k = s.strand? b k := by
  unfold State.putBytes
  split
  · rfl
  · split
    · simp [State.writeRel]
    · simp

/-! ### Bytes put at a place -/

/-- Outside a deterministic launch bytes put at a place stand there, and no byte outside them changes. -/
theorem State.byte_putBytes {s : State} {o : MemOp} {loc : Nat} {l : List Byte} (hb : s.barred o loc l.length = false)
    (hd : (s.launch o.writer.lid).det = false) (ho : s.Ordered) :
    (∀ x, x < loc ∨ loc + l.length ≤ x → (s.putBytes o loc l).byte x = s.byte x) ∧
      ∀ j (hj : j < l.length), (s.putBytes o loc l).byte (loc + j) = l[j] := by
  have hm : (s.putBytes o loc l).mem = (s.write o.writer loc l o.dpois).mem := by
    rw [State.putBytes, hb, if_neg (by decide)]
    split
    · simp [State.writeRel]
    · rfl
  simp only [State.byte, hm]
  exact ⟨fun x hx => State.write_byte_of_outside _ _ _ _ _ _ ho hx, fun j hj => State.write_byte_inside _ _ _ _ _ _ ho hd hj⟩

/-! ### The entry of a strand -/

section
variable (s : State) (o : MemOp) (v : List Byte × Bool)
@[simp] theorem State.learn_id (l : List Nat) : (s.learn o l).id = o.id := by unfold State.learn; dsimp only; split <;> rfl
@[simp] theorem State.learn_dest (l : List Nat) : (s.learn o l).dest = o.dest := by unfold State.learn; dsimp only; split <;> rfl
@[simp] theorem State.learn_kind (l : List Nat) : (s.learn o l).kind = o.kind := by unfold State.learn; dsimp only; split <;> rfl
@[simp] theorem State.learn_acq (l : List Nat) : (s.learn o l).acq = o.acq := by unfold State.learn; dsimp only; split <;> rfl
@[simp] theorem State.learn_preTrap (l : List Nat) : (s.learn o l).preTrap = o.preTrap := by
  unfold State.learn; dsimp only; split <;> rfl
theorem State.learn_of_plain (l : List Nat) (h : o.acq = false) : s.learn o l = o := by simp [State.learn, h]
/-- R51: the first half of an `ldt` reads the value. -/
theorem State.firstHalf_of_ldt {s : State} {o : MemOp} (h : o.kind = .ldt) (ha : o.acq = false) :
    (s.firstHalf o).2 = { o with half := some (s.read o.loc o.size) } := by
  unfold State.firstHalf
  rw [State.learn_of_plain _ _ _ ha]
  split
  · next h' => exact absurd (h.symm.trans h') (by decide)
  · rfl
/-- R51: the first half of an `stt` writes the value. -/
theorem State.firstHalf_of_stt {s : State} {o : MemOp} (h : o.kind = .stt) :
    s.firstHalf o = (s.putBytes o o.loc o.data, { o with half := some ([], false) }) := by
  unfold State.firstHalf
  split
  · rfl
  · next h' => exact absurd h h'
@[simp] theorem State.take_id : (s.take o v).id = o.id := State.learn_id ..
@[simp] theorem State.take_dest : (s.take o v).dest = o.dest := State.learn_dest ..
@[simp] theorem State.take_kind : (s.take o v).kind = o.kind := State.learn_kind ..
@[simp] theorem State.take_acq : (s.take o v).acq = o.acq := State.learn_acq ..
@[simp] theorem State.take_preTrap : (s.take o v).preTrap = o.preTrap := State.learn_preTrap ..
@[simp] theorem State.take_got : (s.take o v).got = some v := rfl
end

section
variable {st : Strand} {o : MemOp} (hops : st.ops = [o])
include hops

theorem Strand.setOp_of_single {p : MemOp} (h : p.id = o.id) : st.setOp p = { st with ops := [p] } := by
  simp [Strand.setOp, hops, h]

theorem Strand.dropOp_of_single : st.dropOp o.id = { st with ops := [] } := by simp [Strand.dropOp, hops]

theorem Strand.mayPerform_of_single : st.mayPerform o.id = true := by simp [Strand.mayPerform, hops]

end

theorem Strand.deliver_x {st : Strand} {o : MemOp} {d : XReg} {t : ITy} (hd : o.dest = .x d t) (hp : o.preTrap = false)
    (l : List Byte) (p : Bool) : st.deliver o l p = st.wxp d (loadValue t l) p := by
  simp [Strand.deliver, hd, hp]

theorem Strand.deliver_f {st : Strand} {o : MemOp} {d : FReg} (hd : o.dest = .f d) (hp : o.preTrap = false)
    (l : List Byte) (p : Bool) : st.deliver o l p = st.wfp d (loadTagged l) p := by
  simp [Strand.deliver, hd, hp]

theorem loadValue_of_bytes {l : List Byte} (h : 0 < l.length) (t : ITy) : loadValue t l = extend t ((leNat l : Nat) : Int) := by
  simp [loadValue, List.ne_nil_of_length_pos h]

theorem Strand.rx_wxp (st : Strand) (d : XReg) (v : Word) (p : Bool) : (st.wxp d v p).rx d = if d = 0 then 0 else v := by
  unfold Strand.wxp Strand.rx
  split
  · rfl
  · simp

/-- R138: a load entry with its data leaves, and its register has the data. -/
theorem State.retireLoad_x {s : State} {b k : Nat} {st : Strand} {o : MemOp} {d : XReg} {t : ITy} (hops : ∃ p, st.ops = [p] ∧ p.id = o.id)
    (hd : o.dest = .x d t) (hp : o.preTrap = false) {l : List Byte} {p : Bool} :
    s.retireLoad b k st o l p =
      (if o.acq then s.acquired st o.seen else s).setStrand b k
        (let v : Strand := { st.wxp d (loadValue t l) p with ops := [] }
         if o.kind = .ldfe then { v.next with state := .ready } else v) := by
  obtain ⟨e, he, hid⟩ := hops
  have hdrop : (st.deliver o l p).dropOp o.id = { st.wxp d (loadValue t l) p with ops := [] } := by
    rw [Strand.deliver_x hd hp, ← hid]
    exact Strand.dropOp_of_single (by rw [Strand.wxp_ops, he])
  rw [State.retireLoad]
  dsimp only
  rw [hdrop]
  split <;> rfl

/-! ### Loads -/

section
variable {s : State} {b k : Nat} {st : Strand} {o : MemOp} (hops : st.ops = [o])
include hops

/-- A strand whose only entry is of a load sees to that one. -/
theorem exec_loadReturn_of_single (hs : s.strand? b k = some st) (hl : o.kind.isLoad = true) :
    exec (.loadReturn b k o.id) s = .next (s.loadReturn b k st o) := by
  have h : exec (.loadReturn b k o.id) s = execLoadReturn b k o.id s := rfl
  rw [h, execLoadReturn, hs]
  simp [hops, hl]

variable (hg : o.got = none) (hk : o.parked = false) (hf : s.foreignPage st.lid o = none)
include hg hk hf

theorem State.loadReturn_of_read (h : o.kind = .load ∨ o.kind = .ldnb) :
    s.loadReturn b k st o = s.retireLoad b k st (s.take o (s.readOp o)) (s.readOp o).1 (s.readOp o).2 := by
  have hm := Strand.mayPerform_of_single hops
  rw [State.loadReturn, hg]
  simp only [hm, hk, hf]
  obtain h | h := h <;> rw [h] <;> rfl

theorem State.loadReturn_of_ldfe (h : o.kind = .ldfe) : s.loadReturn b k st o = (s.feRead b k st o).retireGot b k o.id := by
  have hm := Strand.mayPerform_of_single hops
  rw [State.loadReturn, hg]
  simp only [hm, hk, hf, h]
  rfl

theorem State.loadReturn_of_amo {aop : Nat} {w : Bool} {c : Nat} (h : o.kind = .amo aop w) (hp : o.path = .channel c)
    (hd : (s.launch st.lid).det = false) : s.loadReturn b k st o = (s.applyAtom b k st o aop).retireGot b k o.id := by
  have hm := Strand.mayPerform_of_single hops
  rw [State.loadReturn, hg]
  simp only [hm, hk, hf, h, hp, hd]
  rfl

theorem State.loadReturn_of_ldt (h : o.kind = .ldt) :
    s.loadReturn b k st o =
      if o.half.isNone then s.setStrand b k (st.setOp (s.firstHalf o).2)
      else s.retireLoad b k st (s.take o (s.readOp o)) (s.readOp o).1 (s.readOp o).2 := by
  have hm := Strand.mayPerform_of_single hops
  rw [State.loadReturn, hg]
  simp only [hm, hk, hf, h]
  rw [MemOp.whole, h]
  rfl

end

/-- An entry that has its data leaves with it. -/
theorem State.retireGot_of_entry {s : State} {b k : Nat} {st : Strand} {o : MemOp} {v : List Byte × Bool}
    (hs : s.strand? b k = some st) (hops : st.ops = [o]) (hg : o.got = some v) (ht : st.takesData o = true) :
    s.retireGot b k o.id = s.retireLoad b k st o v.1 v.2 := by
  rw [State.retireGot, hs]
  simp [hops, hg, ht]

/-- R146: an `ldfe` of a full granule takes its data. -/
theorem State.feRead_of_full {s : State} {b k : Nat} {st : Strand} {o : MemOp} (hops : st.ops = [o])
    (h : (s.granule o.loc).fe = true) :
    s.feRead b k st o = s.setStrand b k { st with ops := [s.take o (s.readOp o)] } := by
  rw [State.feRead, if_pos h, Strand.setOp_of_single hops (State.take_id ..)]

/-! ### Atomics at a channel -/

@[simp] theorem State.rmw_old (s : State) (w : Writer) (loc n aop x e : Nat) (p : Bool) :
    (s.rmw w loc n aop x e p).2.1 = Memory.getBytes s.mem loc n := by
  unfold State.rmw; dsimp only; split <;> rfl

@[simp] theorem State.strand?_rmw (s : State) (w : Writer) (loc n aop x e : Nat) (p : Bool) (b k : Nat) :
    (s.rmw w loc n aop x e p).1.strand? b k = s.strand? b k := by
  unfold State.rmw; dsimp only; split <;> simp

/-- R150: a read-modify-write outside a deterministic launch. -/
theorem State.rmw_bytes {s : State} {w : Writer} (loc n aop x e : Nat) (p : Bool) (ho : s.Ordered) (hd : (s.launch w.lid).det = false) :
    (∀ a, a < loc ∨ loc + n ≤ a → (s.rmw w loc n aop x e p).1.byte a = s.byte a) ∧
      (s.poisonedAt loc n = false → (s.rmw w loc n aop x e p).1.readNat loc n =
        amoNew aop (8 * n) (s.readNat loc n) (x % 2 ^ (8 * n)) (e % 2 ^ (8 * n)) % 2 ^ (8 * n)) := by
  cases hp : s.poisonedAt loc n with
  | true => simp [State.rmw, hp]
  | false =>
    let v := amoNew aop (8 * n) (s.readNat loc n) (x % 2 ^ (8 * n)) (e % 2 ^ (8 * n))
    have hm : (s.rmw w loc n aop x e p).1.mem = (s.write w loc (leBytes n v) p).mem := by
      simp [State.rmw, hp, v, State.readNat]
    have hb (a : Nat) : (s.rmw w loc n aop x e p).1.byte a = (s.write w loc (leBytes n v) p).byte a := by
      simp only [State.byte, hm]
    refine ⟨fun a ha => ?_, fun _ => ?_⟩
    · rw [hb]
      exact State.write_byte_of_outside _ _ _ _ _ _ ho (by simpa using ha)
    · rw [State.readNat_of_bytes (leBytes_length n v) fun j hj => ?_, leNat_leBytes]
      rw [hb]
      exact State.write_byte_inside _ _ _ _ _ _ ho hd hj

section
variable {s : State} {b k : Nat} {st : Strand} {o : MemOp} {c aop : Nat} (hops : st.ops = [o]) (hp : o.path = .channel c)
  (hq : s.meetsQueue o.loc o.size = false)
include hops hp hq

/-- R150: what an atomic leaves as it is applied: its entry has the old value, and the memory is that of the read-modify-write. -/
theorem State.applyAtom_eq :
    ∃ q, (s.applyAtom b k st o aop).strand? b k = some { st with ops := [s.take o (Memory.getBytes s.mem o.loc o.size, q)] } ∧
      (s.applyAtom b k st o aop).mem = (s.rmw (o.by st).writer o.loc o.size aop (leNat o.data) (leNat o.expected) o.dpois).1.mem := by
  have hb : s.barred o o.loc o.size = false := by rw [State.barred, hp]; exact hq
  refine ⟨(s.rmw (o.by st).writer o.loc o.size aop (leNat o.data) (leNat o.expected) o.dpois).2.2, ?_, ?_⟩
  · rw [State.applyAtom]
    simp only [hb, Bool.false_eq_true, if_false]
    rw [State.strand?_setStrand, if_pos ⟨rfl, rfl⟩, Strand.setOp_of_single hops (State.take_id ..), State.rmw_old]
  · rw [State.applyAtom]
    simp only [hb, Bool.false_eq_true, if_false, State.setStrand_mem, State.updLaunch_mem]
    split
    · simp
    · rfl

end

/-! ### Stores -/

@[simp] theorem MemOp.by_writer_lid (o : MemOp) (st : Strand) : (o.by st).writer.lid = o.writer.lid := rfl

/-- R138, R51: the completion of a strand's only entry, of a store. -/
theorem exec_storeCompletion_of_single {s : State} {b k : Nat} {st : Strand} {o : MemOp} (hs : s.strand? b k = some st)
    (hops : st.ops = [o]) (hl : o.kind.isLoad = false) (hr : o.kind ≠ .rst) (hg : o.got = none)
    (hf : s.foreignPage st.lid o = none) :
    exec (.storeCompletion b k o.id) s = .next
      (if o.whole then (s.firstHalf (o.by st)).1.setStrand b k (st.setOp (s.firstHalf (o.by st)).2)
       else (s.setStrand b k { st with ops := [] }).writeOp (o.by st)) := by
  have h : exec (.storeCompletion b k o.id) s = execStoreCompletion b k o.id s := rfl
  have hm := Strand.mayPerform_of_single hops
  have hd : o.done = false := by simp [MemOp.done, hg]
  rw [h, execStoreCompletion]
  simp only [State.slotOrCont, hs, Option.filter, hops, List.any_cons, List.any_nil, List.find?_cons, hl, beq_self_eq_true,
    Bool.not_false, Bool.and_self, Bool.or_false, if_true, hd, Bool.false_eq_true, if_false, hr, hm, Bool.true_eq_false, or_self, hf]
  rw [Strand.dropOp_of_single hops]
  split <;> rfl

theorem Strand.release_of_empty {st : Strand} (h : st.ops = []) (s : State) (id : Nat) : st.release s id = st := by
  cases st
  subst h
  rfl

section
variable (s : State) {o : MemOp}
theorem State.writeOp_of_stt (h : o.kind = .stt) : s.writeOp o = s.putBytes o o.tagLoc (o.expected.take 1) := by
  simp only [State.writeOp, h]
theorem State.writeOp_of_store (h : o.kind = .store) : s.writeOp o = s.putBytes o o.loc o.data := by simp only [State.writeOp, h]
theorem State.writeOp_of_fill (h : o.kind = .stfe true) : s.writeOp o =
    ((s.putBytes o o.loc o.data).leave o.writer o.scope false [objFull o.loc]).fill o.writer.lid o.loc := by
  simp only [State.writeOp, h]
theorem State.writeOp_of_empty (h : o.kind = .stfe false) : s.writeOp o =
    (s.recordUndo o.writer o.loc 1).updGranule o.loc (fun g => { g with fe := false }) := by
  simp only [State.writeOp, h]
end

/-- R147: the filling of a granule gives deferred readers their data, and leaves a strand without entries as it was. -/
theorem State.strand?_fill {s : State} {lid loc b k : Nat} {v : Strand} (hs : s.strand? b k = some v) (hv : v.ops = []) :
    (s.fill lid loc).strand? b k = some v := by
  unfold State.fill
  split
  · exact hs
  · next c off _ =>
    dsimp only
    rw [State.strand?_updLaunch]
    refine (State.strand?_updBent_keeps _ _ _ _ ?_).trans ?_
    · exact fun _ => rfl
    · generalize (s.bent c).deferred.filter (fun d => d.1 == off / 32) = l
      have step (t : State) (ht : t.strand? b k = some v) (d : Nat × Nat × Nat) :
          (match t.strand? c d.2.1 with
            | some st => t.setStrand c d.2.1 (st.release s d.2.2)
            | none => t).strand? b k = some v := by
        cases e : t.strand? c d.2.1 with
        | none => exact ht
        | some st =>
          rw [State.strand?_setStrand]
          split
          · next hbk =>
            obtain ⟨rfl, rfl⟩ := hbk
            rw [ht] at e
            obtain rfl := Option.some.inj e
            rw [Strand.release_of_empty hv]
          · exact ht
      exact List.foldlRecOn (motive := fun t : State => t.strand? b k = some v) l _ hs fun t ht d _ => step t ht d

theorem State.fe_fill {s : State} {lid loc c off : Nat} (h : spadOf loc = some (c, off)) :
    ((s.fill lid loc).granule loc).fe = true := by
  simp [State.fill, State.granule, Bent.granule, NMap.modify, h]

/-- R147: an emptying `stfe` clears FE of its granule. -/
theorem State.fe_updGranule {s : State} {loc c off : Nat} (h : spadOf loc = some (c, off)) :
    ((s.updGranule loc (fun g => { g with fe := false })).granule loc).fe = false := by
  simp [State.updGranule, State.granule, Bent.granule, NMap.modify, h]

@[simp] theorem State.granule_setStrand (s : State) (b k loc : Nat) (st : Strand) :
    (s.setStrand b k st).granule loc = s.granule loc := by
  unfold State.granule
  split
  · next c off _ =>
    simp only [State.bent_setStrand]
    split
    · next h => rw [h]; rfl
    · rfl
  · rfl

@[simp] theorem State.granule_updLaunch (s : State) (lid loc : Nat) (f : Launch → Launch) :
    (s.updLaunch lid f).granule loc = s.granule loc := by
  simp [State.granule]

/-- R138, R146: an entry with its data, the only one of its strand, leaves: what the strand and the state then show. -/
theorem State.retireGot_x {u : State} {b k : Nat} {st : Strand} {e : MemOp} {d : XReg} {t : ITy} {l : List Byte} {p : Bool}
    (hs : u.strand? b k = some st) (hops : st.ops = [e]) (hg : e.got = some (l, p)) (hd : e.dest = .x d t) (hp : e.preTrap = false)
    (ht : st.takesData e = true) :
    ∃ v, (u.retireGot b k e.id).strand? b k = some v ∧ v.ops = [] ∧ v.rx d = (if d = 0 then 0 else loadValue t l) ∧
      (u.retireGot b k e.id).mem = u.mem ∧ (∀ loc, (u.retireGot b k e.id).granule loc = u.granule loc) ∧
      (e.kind = .ldfe → v.state = .ready ∧ v.pc = st.pc + 4) := by
  rw [State.retireGot_of_entry hs hops hg ht, State.retireLoad_x ⟨e, hops, rfl⟩ hd hp]
  refine ⟨_, by rw [State.strand?_setStrand, if_pos ⟨rfl, rfl⟩], ?_, ?_, ?_, fun loc => ?_, fun h => ?_⟩
  · dsimp only
    split <;> rfl
  · dsimp only
    split <;> exact Strand.rx_wxp ..
  · split <;> simp
  · split <;> simp [State.acquired]
  · simp [h]

/-! ### The returns of an entry that is the only one of its strand -/

section
variable {s : State} {b k : Nat} {st : Strand} {o : MemOp} {d : XReg} {t : ITy} (hs : s.strand? b k = some st) (hops : st.ops = [o])
  (hg : o.got = none) (hk : o.parked = false) (hp : o.preTrap = false) (hd : o.dest = .x d t) (hf : s.foreignPage st.lid o = none)
include hs hops hg hk hp hd hf

/-- R138, R149: the data of a load or an `ldnb` is written and the entry leaves. -/
theorem exec_loadReturn_of_read (h : o.kind = .load ∨ o.kind = .ldnb) {bytes : List Byte} {p : Bool} (hr : s.readOp o = (bytes, p)) :
    exec (.loadReturn b k o.id) s = .next ((if o.acq then s.acquired st (s.take o (bytes, p)).seen else s).setStrand b k
      { st.wxp d (loadValue t bytes) p with ops := [] }) := by
  have hl : o.kind.isLoad = true := by obtain h | h := h <;> rw [h] <;> rfl
  have hne : o.kind ≠ .ldfe := by obtain h | h := h <;> rw [h] <;> decide
  rw [exec_loadReturn_of_single hops hs hl, State.loadReturn_of_read hops hg hk hf h, hr,
    State.retireLoad_x ⟨o, hops, (State.take_id ..).symm⟩ ((State.take_dest ..).trans hd) ((State.take_preTrap ..).trans hp)]
  simp only [State.take_kind, if_neg hne, State.take_acq]

/-- R146: an `ldfe` of a full granule takes its data, and its strand goes on. -/
theorem exec_loadReturn_of_ldfe (h : o.kind = .ldfe) (hfe : (s.granule o.loc).fe = true) (hst : st.state = .waiting (.deferred o.id))
    {bytes : List Byte} {p : Bool} (hr : s.readOp o = (bytes, p)) :
    ∃ (u : State) (v : Strand), exec (.loadReturn b k o.id) s = .next u ∧ u.mem = s.mem ∧ u.strand? b k = some v ∧ v.ops = [] ∧
      v.state = .ready ∧ v.pc = st.pc + 4 ∧ v.rx d = (if d = 0 then 0 else loadValue t bytes) ∧ (u.granule o.loc).fe = true := by
  have hl : o.kind.isLoad = true := by rw [h]; rfl
  have h0 : (s.feRead b k st o).strand? b k = some { st with ops := [s.take o (bytes, p)] } := by
    rw [State.feRead_of_full hops hfe, hr, State.strand?_setStrand, if_pos ⟨rfl, rfl⟩]
  obtain ⟨v, hv, hvo, hrx, hm, hgr, hgo⟩ := State.retireGot_x h0 rfl (State.take_got ..) ((State.take_dest ..).trans hd)
    ((State.take_preTrap ..).trans hp) (by simp [Strand.takesData, hst])
  obtain ⟨hready, hpc⟩ := hgo ((State.take_kind ..).trans h)
  rw [State.take_id] at hv hm hgr
  rw [exec_loadReturn_of_single hops hs hl, State.loadReturn_of_ldfe hops hg hk hf h]
  refine ⟨_, v, rfl, ?_, hv, hvo, hready, hpc, hrx, ?_⟩
  · rw [hm, State.feRead_of_full hops hfe, State.setStrand_mem]
  · rw [hgr, State.feRead_of_full hops hfe, State.granule_setStrand, hfe]

/-- R150: an atomic at a channel returns the old value, and leaves the memory of its read-modify-write. -/
theorem exec_loadReturn_of_amo {aop c : Nat} {w : Bool} (h : o.kind = .amo aop w) (hc : o.path = .channel c)
    (hq : s.meetsQueue o.loc o.size = false) (hdet : (s.launch st.lid).det = false) :
    ∃ (u : State) (v : Strand), exec (.loadReturn b k o.id) s = .next u ∧ u.strand? b k = some v ∧ v.ops = [] ∧
      v.rx d = (if d = 0 then 0 else loadValue t (Memory.getBytes s.mem o.loc o.size)) ∧
      u.mem = (s.rmw (o.by st).writer o.loc o.size aop (leNat o.data) (leNat o.expected) o.dpois).1.mem := by
  have hl : o.kind.isLoad = true := by rw [h]; rfl
  have hne : o.kind ≠ .ldfe := by rw [h]; exact MemKind.noConfusion
  obtain ⟨q, h0, hm⟩ := State.applyAtom_eq (b := b) (k := k) (aop := aop) hops hc hq
  obtain ⟨v, hv, hvo, hrx, hmem, -, -⟩ := State.retireGot_x h0 rfl (State.take_got ..) ((State.take_dest ..).trans hd)
    ((State.take_preTrap ..).trans hp) (by simp [Strand.takesData, hne])
  rw [State.take_id] at hv hmem
  rw [exec_loadReturn_of_single hops hs hl, State.loadReturn_of_amo hops hg hk hf h hc hdet]
  exact ⟨_, v, rfl, hv, hvo, hrx, hmem.trans hm⟩

end

end Sys2Proof.Machine

namespace Sys2Proof.Proofs

open Sys2Proof.Machine

/-- Settles O22: every return is the step of a strand whose only entry it is. -/
theorem accessesReturn : Obligations.AccessesReturn := by
  refine ⟨fun s b k st o d t hs hops hg hk hp hd hn hf => ?_, fun s b k st o f hs hops hkind hg hk hp ha hd hf => ?_,
    fun s b k st o hs hops hg hlen hw hdet ho hf hq => ?_⟩
  · have hv {l : List Byte} (hl : l.length = o.size) : loadValue t l = extend t ((leNat l : Nat) : Int) :=
      loadValue_of_bytes (hl ▸ hn) t
    have hvm := hv (Memory.getBytes_length s.mem o.loc o.size)
    have hread (h : o.kind = .load ∨ o.kind = .ldfe) (hi : ∀ c i, o.path ≠ .image c i) : s.readOp o = s.read o.loc o.size := by
      have : s.readVia o = s.read o.loc o.size := by
        cases e : o.path <;> simp_all [State.readVia]
      obtain h | h := h <;> rw [State.readOp, h] <;> exact this
    refine ⟨fun h ha hi => ?_, fun c i h ha hi => ?_, fun h hi ha => ?_, fun h hfe hst hi => ?_, fun h ha => ?_,
      fun aop w c h hc hq hdet hw ho => ?_⟩
    · rw [exec_loadReturn_of_read hs hops hg hk hp hd hf (.inl h) (hread (.inl h) hi), ha, hvm]
      rfl
    · have hr : s.readOp o = (s.bytesUnder (s.imageKey (s.launch o.writer.lid).part i) o.loc o.size, s.poisonedAt o.loc o.size) := by
        rw [State.readOp, h]
        simp [State.readVia, hi, State.bytesVia]
      rw [exec_loadReturn_of_read hs hops hg hk hp hd hf (.inl h) hr, ha, hv (by simp [State.bytesUnder])]
      rfl
    · rw [exec_loadReturn_of_read hs hops hg hk hp hd hf (.inl h) (hread (.inl h) hi), hvm]
      exact ⟨_, _, rfl, by simp [ha], (State.strand?_setStrand ..).trans (if_pos ⟨rfl, rfl⟩), rfl⟩
    · have := exec_loadReturn_of_ldfe hs hops hg hk hp hd hf h hfe hst (hread (.inr h) hi)
      rwa [hvm] at this
    · have hr : s.readOp o = if (s.granule o.loc).fe then s.read o.loc o.size else ([], false) := by rw [State.readOp, h]
      cases hfe : (s.granule o.loc).fe with
      | true =>
        rw [exec_loadReturn_of_read hs hops hg hk hp hd hf (.inr h) (hr.trans (if_pos hfe)), ha, hvm]
        rfl
      | false =>
        rw [exec_loadReturn_of_read hs hops hg hk hp hd hf (.inr h) (hr.trans (if_neg (by simp [hfe]))), ha]
        rfl
    · obtain ⟨u, v, he, hsv, hvo, hrx, hm⟩ := exec_loadReturn_of_amo hs hops hg hk hp hd hf h hc hq hdet
      obtain ⟨hout, hin⟩ := State.rmw_bytes (w := (o.by st).writer) o.loc o.size aop (leNat o.data) (leNat o.expected) o.dpois ho
        (by rw [MemOp.by_writer_lid, hw]; exact hdet)
      refine ⟨u, v, he, hsv, hvo, by rw [hrx, hvm]; rfl, fun x hx => ?_, fun hpo => ?_⟩
      · rw [State.byte, hm]
        exact hout x hx
      · rw [State.readNat, hm]
        exact hin hpo
  · have hl : o.kind.isLoad = true := by rw [hkind]; rfl
    rw [exec_loadReturn_of_single hops hs hl, State.loadReturn_of_ldt hops hg hk hf hkind]
    refine ⟨fun hh => ?_, fun bytes p hh hlen => ?_⟩
    · rw [hh, State.firstHalf_of_ldt hkind ha, Strand.setOp_of_single (p := { o with half := some (s.read o.loc o.size) }) hops rfl]
      rfl
    · have hr : s.readOp o = (bytes ++ [s.byte o.tagLoc], p || s.poisonedAt o.tagLoc 1) := by
        rw [State.readOp, hkind, hh]
        rfl
      have hv : loadTagged (bytes ++ [s.byte o.tagLoc]) = ⟨BitVec.ofNat 32 (leNat bytes),
          if (val32 (BitVec.ofNat 32 (leNat bytes))).isFinite then BitVec.ofNat 5 (min ((s.byte o.tagLoc).toNat % 32) 24) else 0⟩ := by
        rw [loadTagged, List.take_left' hlen, List.getD_append_right _ _ _ _ (by omega), hlen]
        dsimp only [FVal.mk']
        split <;> rfl
      rw [hh, hr]
      dsimp only [Option.isNone]
      rw [State.retireLoad, Strand.deliver_f ((State.take_dest ..).trans hd) ((State.take_preTrap ..).trans hp), hv]
      simp [ha, hkind, Strand.wfp, Strand.dropOp, hops]
  · have hex (hl : o.kind.isLoad = false) (hr : o.kind ≠ .rst) := exec_storeCompletion_of_single hs hops hl hr hg hf
    have hdw : ((s.launch (o.by st).writer.lid).det) = false := by rw [MemOp.by_writer_lid, hw]; exact hdet
    have hbar : s.barred (o.by st) o.loc o.data.length = false ∧ s.barred (o.by st) o.tagLoc 1 = false := by
      have : (o.by st).path = o.path := rfl
      simp only [State.barred, this]
      cases hc : o.path with
      | channel c => exact hlen ▸ hq c hc
      | _ => exact ⟨rfl, rfl⟩
    have hput (v : Strand) (loc : Nat) (l : List Byte) (hb : s.barred (o.by st) loc l.length = false) :
        (∀ x, x < loc ∨ loc + l.length ≤ x → ((s.setStrand b k v).putBytes (o.by st) loc l).byte x = s.byte x) ∧
          ∀ j (hj : j < l.length), ((s.setStrand b k v).putBytes (o.by st) loc l).byte (loc + j) = l[j] :=
      State.byte_putBytes (s := s.setStrand b k v) hb (by rw [State.launch_setStrand]; exact hdw) ho
    have hslot (v : Strand) (loc : Nat) (l : List Byte) : ((s.setStrand b k v).putBytes (o.by st) loc l).strand? b k = some v := by
      rw [State.strand?_putBytes, State.strand?_setStrand, if_pos ⟨rfl, rfl⟩]
    have hget {P : Nat → Byte → Prop} (l : List Byte) (h : ∀ j (hj : j < l.length), P j l[j]) (j : Nat) (hj : j < l.length) :
        P j (l.getD j 0) := by
      rw [List.getD_eq_getElem _ _ hj]
      exact h j hj
    refine ⟨fun h hh => ?_, fun hf' g h hh hg' => ?_, fun h => ?_, fun c off h hsp => ?_⟩
    · have hwhole : o.whole = true := by simp [MemOp.whole, h, hh]
      obtain ⟨hout, hin⟩ := State.byte_putBytes hbar.1 hdw ho
      rw [hex (by rw [h]; rfl) (by rw [h]; decide), if_pos hwhole, State.firstHalf_of_stt (o := o.by st) h,
        Strand.setOp_of_single (p := { o.by st with half := some ([], false) }) hops rfl]
      refine ⟨_, _, _, rfl, (State.strand?_setStrand ..).trans (if_pos ⟨rfl, rfl⟩), rfl, rfl, h, rfl, rfl, rfl, rfl, ?_, ?_⟩
      · exact fun x hx => hout x (hlen ▸ hx)
      · exact fun j hj => hget (P := fun j v => (s.putBytes (o.by st) o.loc o.data).byte (o.loc + j) = v) o.data hin j (hlen ▸ hj)
    · have hwhole : o.whole = false := by simp [MemOp.whole, hh]
      obtain ⟨hout, hin⟩ := hput { st with ops := [] } o.tagLoc [g] hbar.2
      rw [hex (by rw [h]; rfl) (by rw [h]; decide), if_neg (by simp [hwhole])]
      rw [State.writeOp_of_stt _ (o := o.by st) h, show (o.by st).expected.take 1 = [g] from congrArg (List.take 1) hg']
      refine ⟨_, _, rfl, hslot .., rfl, rfl, fun x hx => hout x ?_, hin 0 Nat.zero_lt_one⟩
      simp only [List.length_singleton]
      omega
    · have hl : o.kind.isLoad = false := by obtain h | ⟨h, -⟩ := h <;> rw [h] <;> rfl
      have hr : o.kind ≠ .rst := by obtain h | ⟨h, -⟩ := h <;> rw [h] <;> decide
      have hwhole : o.whole = false := by obtain h | ⟨h, -⟩ := h <;> rw [MemOp.whole, h] <;> rfl
      obtain ⟨hout, hin⟩ := hput { st with ops := [] } o.loc o.data hbar.1
      have hout' x (hx : x < o.loc ∨ o.loc + o.size ≤ x) := hout x (hlen ▸ hx)
      have hin' j (hj : j < o.size) := hget (P := fun j v => ((s.setStrand b k { st with ops := [] }).putBytes (o.by st) o.loc
        o.data).byte (o.loc + j) = v) o.data hin j (hlen ▸ hj)
      rw [hex hl hr, if_neg (by simp [hwhole])]
      obtain h | ⟨h, c, off, hsp⟩ := h
      · rw [State.writeOp_of_store _ (o := o.by st) h]
        exact ⟨_, _, rfl, hslot .., rfl, rfl, hout', hin', fun h' => absurd (h.symm.trans h') (by decide)⟩
      · rw [State.writeOp_of_fill _ (o := o.by st) h]
        refine ⟨_, _, rfl, State.strand?_fill ((State.strand?_leave ..).trans (hslot ..)) rfl, rfl, rfl, ?_, ?_,
          fun _ => State.fe_fill hsp⟩
        · intro x hx
          rw [State.byte, State.fill_mem, State.leave_mem]
          exact hout' x hx
        · intro j hj
          rw [State.byte, State.fill_mem, State.leave_mem]
          exact hin' j hj
    · have hwhole : o.whole = false := by rw [MemOp.whole, h]; rfl
      rw [hex (by rw [h]; rfl) (by rw [h]; decide), if_neg (by simp [hwhole]), State.writeOp_of_empty _ (o := o.by st) h]
      exact ⟨_, rfl, by simp, State.fe_updGranule hsp⟩

end Sys2Proof.Proofs

end

section
/-! PROOFS. The cell instructions (R75 to R78, R93, R162 to R166, R246, R400). -/

open Sys2Proof

namespace Sys2Proof.Machine

/-! ### The checks -/

theorem firstFail_append (l m : List (Bool × BitVec 16)) :
    firstFail (l ++ m) = match firstFail l with | some e => some e | none => firstFail m := by
  induction l with
  | nil => rfl
  | cons p l ih =>
    obtain ⟨q, e⟩ := p
    cases q
    · exact ih
    · rfl

theorem firstFail_eq_none {l : List (Bool × BitVec 16)} (h : firstFail l = none) : ∀ p ∈ l, p.1 = false := by
  induction l with
  | nil => simp
  | cons p l ih =>
    obtain ⟨q, e⟩ := p
    cases q
    · exact List.forall_mem_cons.mpr ⟨rfl, ih h⟩
    · simp [firstFail] at h

/-- The checks of R166 over a payload's place, those of the instruction. -/
def State.ownChecks (s : State) (b : Nat) (st : Strand) (fn : CellFn) (d a x : XReg) (cl : BitVec 3) : List (Bool × BitVec 16) :=
  let c := descCell (st.rx a)
  let reads := fn != .inj && d != 0
  let pay := payloadOffset b c (st.rx d)
  [ (descReserved (st.rx a) || clBad fn cl, 0x0001),
    (!destOk fn c.dest, 0x0001),
    (c.opcnt != 0 && (fn == .cellm || fn == .cellv), 0x0001),
    (c.opcnt != 0 && !(s.bent b).holdsRv st (firstEgress c.dest) c.rvt.toNat, 0x0001),
    (fn == .inj && (decide (8 < c.len.toNat) || c.tag), 0x0001),
    ((!takesAddr c && c.kind != 3 && (st.rx x).extractLsb' 32 32 != 0) || (c.kind == 3 && x != 0), 0x0001),
    (reads && (match pay with | .inl e => e == 0x0002 | .inr _ => false), 0x0002),
    (reads && (match pay with | .inl _ => true | .inr _ => false), 0x0001),
    (st.poisonX a || st.poisonX x || (reads && st.poisonX d), 0x0031) ]

/-- Those of the header. -/
def headerChecks (c : Cell) (addrBad : Bool) : List (Bool × BitVec 16) :=
  [ (c.dest == 0, 0x0001), (popMask c.dest != 1 && !inOneGroup c.dest, 0x0005), (c.dest &&& ~~~kindMask c.kind != 0, 0x0005),
    (decide (c.opcnt.toNat < c.opix.toNat), 0x0001), (lenBad c, 0x0001), (fmtBad c, 0x0001), (addrBad, 0x0004),
    (!codeOk c.kind c.code, 0x0001) ]

section
variable {s : State} {b k : Nat} {st : Strand} {fn : CellFn} {d a x : XReg} {cl : BitVec 3}

theorem State.cellCheck_eq : s.cellCheck b st fn d a x cl =
    firstFail (headerChecks (descCell (st.rx a)) (takesAddr (descCell (st.rx a)) && !addrOk (s.launch st.lid).region (st.rx x)) ++
      s.ownChecks b st fn d a x cl) := by
  rw [firstFail_append]
  exact State.cellCheck.eq_1 ..

/-! ### Issue -/

section
variable (hi : s.Issues { dx := [a, x, d] } b k st) (hops : st.ops = [])
include hi hops

theorem State.cellInstr_of_fail {e : BitVec 16} (h : s.cellCheck b st fn d a x cl = some e) :
    s.cellInstr fn d a x cl = .next (s.trap b k st e) := by
  rw [State.cellInstr, State.command_of_issues hi _ (by simp [hops])]
  simp only [h]

variable (h : s.cellCheck b st fn d a x cl = none)
include h

theorem State.cellInstr_of_pass : s.cellInstr fn d a x cl =
    s.afterPayload b k st fn d (s.cellHeader b k st fn a x cl)
      (s.holdUntil b k st (cellRoom b (cellIngress b st fn d (s.cellHeader b k st fn a x cl)) fn (s.cellHeader b k st fn a x cl))
        (.next (s.sendCell b k st fn d (cellIngress b st fn d (s.cellHeader b k st fn a x cl)) (s.cellHeader b k st fn a x cl)))) := by
  rw [State.cellInstr, State.command_of_issues hi _ (by simp [hops])]
  simp only [h]

end
end

/-! ### The header -/

/-- R76, R93: how the descriptor's ARG and ADDR are filled. -/
theorem fillArg_spec {c : Cell} (hc : c.arg = 0) (ha : c.addr = 0) (d x : Word) (sx : BitVec 32) :
    ∃ arg addr, fillArg c d x sx = { c with arg := arg, addr := addr } ∧ (c.kind = 6 → arg = (descAtarg d).zeroExtend 32) ∧
      (c.kind = 3 → arg = sx) ∧ (takesAddr c = true → addr = (addrField x).getD 0) ∧ (takesAddr c = false → addr = 0) ∧
      (takesAddr c = false → c.kind ≠ 3 → arg = x.extractLsb' 0 32) ∧ (takesAddr c = true → c.kind = 0 → arg = 0) := by
  unfold fillArg
  split
  · next h => exact ⟨_, _, rfl, by simp [h, takesAddr]⟩
  · split
    · next h => exact ⟨_, c.addr, rfl, by simp [h, ha, takesAddr]⟩
    · split
      · next h6 h3 ht =>
        exact ⟨c.arg, _, rfl, fun h => absurd h h6, fun h => absurd h h3, fun _ => rfl, fun h => absurd ht (by simp [h]),
          fun h => absurd ht (by simp [h]), fun _ _ => hc⟩
      · next h6 h3 ht =>
        exact ⟨_, c.addr, rfl, fun h => absurd h h6, fun h => absurd h h3, fun h => absurd h ht, fun _ => ha, fun _ _ => rfl,
          fun h => absurd h ht⟩

theorem addrField_of_addrOk {region : List Nat} {x : Word} (h : addrOk region x = true) :
    addrField x = some ((addrField x).getD 0) := by
  unfold addrOk at h
  cases e : addrField x with
  | none => simp [e] at h
  | some f => rfl

/-! ### Queues -/

theorem voqKey_inj {i e f n : Nat} (h : voqKey i e n = voqKey i f n) : e = f := by
  unfold voqKey at h
  omega

theorem Bent.queued_enqueue_of_ne {B : Bent} {i e f : Nat} {c : Cell} {d : Side} (h : f ≠ e) :
    (B.enqueue i e c d).queued i f c.cls.toNat = B.queued i f c.cls.toNat := by
  have : voqKey i f c.cls.toNat ≠ voqKey i e c.cls.toNat := fun he => h (voqKey_inj he)
  simp [Bent.queued, Bent.sub, Bent.enqueue, this]

theorem Bent.queued_enqueue (B : Bent) (i e : Nat) (c : Cell) (d : Side) :
    (B.enqueue i e c d).queued i e c.cls.toNat = B.queued i e c.cls.toNat ++ [c.seal] := by
  simp [Bent.queued]

/-- A cell that enters the queues of a list of egresses stands once in that of each. -/
theorem Bent.queued_foldl_enqueue {i : Nat} {c : Cell} {d : Side} {l : List Nat} (hl : l.Nodup) (B : Bent) (e : Nat) :
    (l.foldl (fun B e => B.enqueue i e c d) B).queued i e c.cls.toNat =
      if e ∈ l then B.queued i e c.cls.toNat ++ [c.seal] else B.queued i e c.cls.toNat := by
  induction l generalizing B with
  | nil => simp
  | cons f l ih =>
    obtain ⟨hf, hn⟩ := List.nodup_cons.mp hl
    rw [List.foldl_cons, ih hn]
    by_cases he : e = f
    · subst he
      rw [if_neg hf, if_pos (List.mem_cons_self ..), Bent.queued_enqueue]
    · rw [Bent.queued_enqueue_of_ne he]
      simp [he]

theorem bitsOf_nodup (m : BitVec 16) : (bitsOf m).Nodup := List.Nodup.filter _ List.nodup_range

theorem Bent.mcast_enqueueM (B : Bent) (i : Nat) (c : Cell) (d : Side) :
    ((B.enqueueM i c d).mcast i).map (fun q => q.cell) = (B.mcast i).map (fun q => q.cell) ++ [c.seal] := by
  simp [Bent.enqueueM, Bent.mcast]

/-- R163: what a cell's queues hold once it has entered them. -/
theorem Bent.enqueueAll_queues (B : Bent) (fn : CellFn) (i : Nat) (c : Cell) (d : Side) :
    if fn = .cellm then ((B.enqueueAll fn i c d).mcast i).map (fun q => q.cell) = (B.mcast i).map (fun q => q.cell) ++ [c.seal]
    else ∀ e ∈ bitsOf c.dest, (B.enqueueAll fn i c d).queued i e c.cls.toNat = B.queued i e c.cls.toNat ++ [c.seal] := by
  have hq (e : Nat) (he : e ∈ bitsOf c.dest) :=
    (Bent.queued_foldl_enqueue (i := i) (c := c) (d := d) (bitsOf_nodup c.dest) B e).trans (if_pos he)
  cases fn with
  | cellm => exact Bent.mcast_enqueueM ..
  | _ => exact hq

/-- R163: when a cell has room in every queue that it enters. -/
theorem State.cleared_cellRoom (s : State) (b k : Nat) (st : Strand) {i : Nat} (hi : i < 16) (fn : CellFn) (c : Cell) :
    s.cleared b k st (cellRoom b i fn c) = true ↔
      if fn = .cellm then (s.bent b).mqRoom i c.cls.toNat = true else ∀ e ∈ bitsOf c.dest, (s.bent b).voqRoom i e c.cls.toNat = true := by
  have hq : (((cellQueues i c).map (fun q => (b * 16 + q.1, q.2))).all
      (fun q => (s.bent (q.1 / 16)).voqRoom (q.1 % 16) q.2.1 q.2.2)) = true ↔
      ∀ e ∈ bitsOf c.dest, (s.bent b).voqRoom i e c.cls.toNat = true := by
    simp [cellQueues, show (b * 16 + i) / 16 = b by omega, Nat.mod_eq_of_lt hi]
  cases fn with
  | cellm => exact Iff.rfl
  | _ => exact hq

/-! ### What is sent -/

section
variable {s : State} {b k : Nat} {st : Strand} {fn : CellFn} {d a x : XReg} {cl : BitVec 3}

/-- The cell that a cell instruction sends. -/
def State.sentCell (s : State) (b k : Nat) (st : Strand) (fn : CellFn) (a x : XReg) (cl : BitVec 3) (p : List Byte × Bool) : Cell :=
  ({ s.cellHeader b k st fn a x cl with payload := p.1, poison := p.2 }).seal

theorem State.sentCell_eq {p : List Byte × Bool} {c : Cell} (h : fillArg (descCell (st.rx a)) (st.rx a) (st.rx x) st.sxcfg = c) :
    s.sentCell b k st fn a x cl p =
      ({ st.stamp b k (s.launch st.lid).ctx { c with cls := cellClass fn cl (s.launch st.lid).tier, vote := fn == CellFn.cellv } with
          payload := p.1, poison := p.2 }).seal := by
  rw [← h]
  rfl

theorem State.cellHeader_dest : (s.cellHeader b k st fn a x cl).dest = (descCell (st.rx a)).dest := by
  obtain ⟨arg, addr, h, -⟩ := fillArg_spec (c := descCell (st.rx a)) rfl rfl (st.rx a) (st.rx x) st.sxcfg
  simp only [State.cellHeader, h]
  rfl

theorem State.cellHeader_cls : (s.cellHeader b k st fn a x cl).cls = cellClass fn cl (s.launch st.lid).tier := rfl

theorem State.payloadOffset_cellHeader (w : Word) :
    payloadOffset b (s.cellHeader b k st fn a x cl) w = payloadOffset b (descCell (st.rx a)) w ∧
      payloadBytes (s.cellHeader b k st fn a x cl) = payloadBytes (descCell (st.rx a)) := by
  obtain ⟨arg, addr, h, -⟩ := fillArg_spec (c := descCell (st.rx a)) rfl rfl (st.rx a) (st.rx x) st.sxcfg
  simp only [State.cellHeader, h]
  exact ⟨rfl, rfl⟩

/-- R163: a cell sent: the strand and the queues after it. -/
theorem State.sendCell_shows (i : Nat) {p : List Byte × Bool} (hp : s.payload b st fn d (s.cellHeader b k st fn a x cl) = p) :
    ∃ v : Strand, (s.sendCell b k st fn d i (s.cellHeader b k st fn a x cl)).mem = s.mem ∧
      (s.sendCell b k st fn d i (s.cellHeader b k st fn a x cl)).strand? b k = some v ∧ v.SameRegisters st ∧ v.pc = st.pc + 4 ∧
      v.seqNext = st.seqNext + 1 ∧
      (if fn = .cellm then
        (((s.sendCell b k st fn d i (s.cellHeader b k st fn a x cl)).bent b).mcast i).map (fun q => q.cell) =
          ((s.bent b).mcast i).map (fun q => q.cell) ++ [s.sentCell b k st fn a x cl p]
       else ∀ e ∈ bitsOf (descCell (st.rx a)).dest,
        ((s.sendCell b k st fn d i (s.cellHeader b k st fn a x cl)).bent b).queued i e (cellClass fn cl (s.launch st.lid).tier).toNat =
          (s.bent b).queued i e (cellClass fn cl (s.launch st.lid).tier).toNat ++ [s.sentCell b k st fn a x cl p]) := by
  subst hp
  rw [← State.cellHeader_dest (s := s) (b := b) (k := k) (fn := fn) (x := x) (cl := cl)]
  refine ⟨_, by simp [State.sendCell], (State.strand?_setStrand ..).trans (if_pos ⟨rfl, rfl⟩), ⟨rfl, rfl, rfl, rfl, rfl⟩, rfl, rfl, ?_⟩
  rw [State.sendCell]
  simp only [State.bent_setStrand, State.bent_updBent, if_true]
  exact Bent.enqueueAll_queues ..

/-- R164: a payload that is read once no earlier access is left. -/
theorem State.afterPayload_of_empty (hops : st.ops = []) {c : Cell} {body : Out}
    (h : fn = .inj ∨ d = 0 ∨ ∃ off o, payloadOffset b c (st.rx d) = .inr off ∧ (s.launch st.lid).spadMap off = some o) :
    s.afterPayload b k st fn d c body = body := by
  unfold State.afterPayload
  by_cases hd : fn = .inj ∨ d = 0
  · rw [if_pos hd]
  · rw [if_neg hd]
    obtain ⟨off, ⟨o, bd⟩, hoff, ho⟩ := (h.resolve_left fun h => hd (.inl h)).resolve_left fun h => hd (.inr h)
    simp only [hoff, ho]
    rw [State.holdAtoms, if_pos (by simp [State.cleared, Strand.crossing, hops]), State.holdUntil, if_pos (by simp [State.cleared, hops])]

end

end Sys2Proof.Machine

namespace Sys2Proof.Proofs

open Sys2Proof.Machine

/-- Settles O25: the four instructions are one, `cellInstr`, of which the checks, the header and the queues are lemmas. -/
theorem cellInstructions : Obligations.CellInstructions := by
  intro s d a x cl b k st hi hops D X c L addressed header q hq fn reads place own n sent
  have he : exec q.1 s = s.cellInstr fn d a x cl := by
    simp only [List.mem_cons, List.not_mem_nil, or_false] at hq
    obtain rfl | rfl | rfl | rfl := hq <;> rfl
  have hcheck : s.cellCheck b st fn d a x cl = firstFail (header ++ own) := State.cellCheck_eq
  refine ⟨fun e hf => he.trans (State.cellInstr_of_fail hi hops (hcheck.trans hf)), fun hf => ?_⟩
  have hpass := he.trans (State.cellInstr_of_pass hi hops (hcheck.trans hf))
  have hok (ht : addressed = true) : addrOk L.region X = true := by
    have := firstFail_eq_none hf (addressed && !addrOk L.region X, 0x0004) (by simp [header])
    simpa [ht] using this
  have hsent (i : Nat) (hlt : i < 16) (p : List Byte × Bool)
      (hb : ∀ body, s.afterPayload b k st fn d (s.cellHeader b k st fn a x cl) body = body)
      (hing : cellIngress b st fn d (s.cellHeader b k st fn a x cl) = i)
      (hp : s.payload b st fn d (s.cellHeader b k st fn a x cl) = (padTo 256 0 p.1, p.2)) : sent i p := by
    rw [hb, hing, State.holdUntil] at hpass
    have hroom := State.cleared_cellRoom s b k st hlt fn (s.cellHeader b k st fn a x cl)
    rw [State.cellHeader_dest, State.cellHeader_cls] at hroom
    refine ⟨fun hr => ⟨_, hpass.trans (if_neg fun h => hr (hroom.mp h))⟩, fun hr => ?_⟩
    obtain ⟨v, hm, hv, hregs, hpc, hseq, hqs⟩ := State.sendCell_shows i hp
    obtain ⟨arg, addr, hfill, h6, h3, hta, htn, hargn, hargt⟩ :=
      fillArg_spec (c := descCell (st.rx a)) rfl rfl (st.rx a) (st.rx x) st.sxcfg
    have hcell := State.sentCell_eq (s := s) (b := b) (k := k) (fn := fn) (cl := cl) (p := (padTo 256 0 p.1, p.2)) hfill
    have haddr (ht : addressed = true) : addrField X = some addr := by
      rw [hta ht]
      exact addrField_of_addrOk (hok ht)
    refine ⟨_, v, _, hpass.trans (if_pos (hroom.mpr hr)), hm, hv, hregs, hpc, hseq, ?_, ?_, ?_, ?_, ?_, ?_, ?_, ?_, ?_, ?_, ?_, ?_,
      ?_, ?_, ?_, ?_, ?_, ?_, ?_, ?_, ?_, ?_, ?_, ?_, ?_, ?_, ?_, ?_, ?_, ?_, hqs⟩
    all_goals rw [hcell]
    case refine_14 => exact h6
    case refine_15 => exact h3
    case refine_16 => exact haddr
    case refine_17 => exact htn
    case refine_18 => exact fun ht hk => (hargn ht hk).trans (BitVec.eq_of_toNat_eq (by simp [X]))
    case refine_19 => exact hargt
    all_goals rfl
  refine ⟨fun hinj => hsent 11 (by decide) _ (fun _ => State.afterPayload_of_empty hops (.inl hinj)) (if_pos (.inl hinj)) (if_pos hinj),
    fun hinj hd => hsent 11 (by decide) _ (fun _ => State.afterPayload_of_empty hops (.inr (.inl hd))) (if_pos (.inr hd)) ?_, ?_⟩
  · rw [State.payload, if_neg hinj, if_pos hd]
    rfl
  · intro off hinj hd hplace
    have hpo := State.payloadOffset_cellHeader (s := s) (b := b) (k := k) (st := st) (fn := fn) (a := a) (x := x) (cl := cl) (st.rx d)
    have hreads : ¬(fn = .inj ∨ d = 0) := fun h => h.elim hinj hd
    have hplace' := hpo.1.trans hplace
    refine ⟨fun hmap => ?_, fun o bd hmap => hsent _ (by omega) _ (fun _ => State.afterPayload_of_empty hops
      (.inr (.inr ⟨off, _, hplace', hmap⟩))) ?_ ?_⟩
    · rw [hpass, State.afterPayload, if_neg hreads, hplace']
      simp only [L] at hmap
      simp only [hmap]
    · rw [cellIngress, if_neg hreads, hplace']
      rfl
    · rw [State.payload, if_neg hinj, if_neg hd, hplace', hpo.2]
      simp only [L] at hmap
      simp only [hmap, c, D]

end Sys2Proof.Proofs

end

section
/-! PROOFS. Rendezvous entries and the sink (R62, R168 to R171). -/

open Sys2Proof

namespace Sys2Proof.Machine

theorem rvEgress_iff {n : Nat} : rvEgress n = true ↔ n ≤ 10 ∨ n = 14 := by simp [rvEgress]

section
variable {s : State} {d a : XReg} {f : FReg} {e n : BitVec 4} {b k : Nat} {st : Strand}

/-! ### `rvres` -/

section
variable (hi : s.Issues { wx := [d] } b k st)
include hi

theorem exec_rvres_of_bad (h : ¬(e.toNat ≤ 10 ∨ e.toNat = 14) ∨ 8 ≤ (s.bent b).heldAt st e.toNat) :
    exec (.rvres d e) s = .next (s.trap b k st 0x0001) := by
  refine (State.issue_of_issues hi _).trans (if_pos ?_)
  rwa [← rvEgress_iff, Bool.not_eq_true] at h

section
variable (he : e.toNat ≤ 10 ∨ e.toNat = 14) (h8 : (s.bent b).heldAt st e.toNat < 8)
include he h8

/-- R168: the strand whose turn it is takes the free entry. -/
theorem exec_rvres_of_free {idx : Nat} (ht : (s.bent b).turn k e.toNat = true) (hf : (s.bent b).freeRv e.toNat = some idx) :
    exec (.rvres d e) s = .next ((s.updBent b (fun B =>
      { B.leave k e.toNat with rv := NMap.set B.rv (rvKey e.toNat idx) ⟨st.lid, st.ownerBent, st.ownerSlot, []⟩ })).setStrand
        b k (st.wx d (BitVec.ofNat 64 idx)).next) := by
  refine (State.issue_of_issues hi _).trans ((if_neg ?_).trans ?_)
  · simp [rvEgress_iff.mpr he, Nat.not_le.mpr h8]
  · rw [if_pos ht, hf]

theorem exec_rvres_of_full (hf : (s.bent b).freeRv e.toNat = none) :
    exec (.rvres d e) s = .next ((s.updBent b (fun B => B.queueFor k e.toNat)).park b k st (.rendezvous e.toNat)) := by
  refine (State.issue_of_issues hi _).trans ((if_neg ?_).trans ?_)
  · simp [rvEgress_iff.mpr he, Nat.not_le.mpr h8]
  · rw [hf, ite_self]

end
end

/-! ### `rvrel` -/

section
variable (hi : s.Issues { rx := [a] } b k st)
include hi

theorem exec_rvrel_of_bad (h : ¬(e.toNat ≤ 10 ∨ e.toNat = 14) ∨ 32 ≤ (st.rx a).toNat ∨
    (s.bent b).holdsRv st e.toNat (st.rx a).toNat = false) : exec (.rvrel a e) s = .next (s.trap b k st 0x0001) := by
  refine (State.issue_of_issues hi _).trans (if_pos ?_)
  rwa [← rvEgress_iff, Bool.not_eq_true] at h

/-- R169: an entry that its strand holds is freed once no operand of it is on its way. -/
theorem exec_rvrel_of_held (he : e.toNat ≤ 10 ∨ e.toNat = 14) (hx : (st.rx a).toNat < 32)
    (hh : (s.bent b).holdsRv st e.toNat (st.rx a).toNat = true) :
    exec (.rvrel a e) s =
      if s.operandOut b st e.toNat (st.rx a).toNat = false then
        .next ((s.updBent b (fun B => { B with rv := NMap.erase B.rv (rvKey e.toNat (st.rx a).toNat) })).setStrand b k st.next)
      else .next (s.setStrand b k { st with state := .waiting (.operandsArrived e.toNat (st.rx a).toNat) }) := by
  refine (State.issue_of_issues hi _).trans ((if_neg ?_).trans ?_)
  · simp [rvEgress_iff.mpr he, Nat.not_le.mpr hx, hh]
  · rw [State.holdUntil]
    cases ho : s.operandOut b st e.toNat (st.rx a).toNat <;> simp [State.cleared, ho, State.park]

end

/-! ### The sink -/

theorem Bent.sinkFor_of_turn {B : Bent} {v : SinkSlot} {m : Nat} (h : NMap.get? B.sinks m = some v) (ht : B.turn k (32 + m) = true) :
    B.sinkFor k m = some v := (if_pos ht).trans h

theorem Bent.sinkFor_of_empty {B : Bent} {m : Nat} (h : NMap.get? B.sinks m = none) : B.sinkFor k m = none := by
  rw [Bent.sinkFor, h, ite_self]

/-- R171: a slot taken is empty, and the others stay. -/
theorem State.takeSink_shows (s : State) (b k m : Nat) (st : Strand) :
    (s.takeSink b k m st).mem = s.mem ∧ (s.takeSink b k m st).strand? b k = some st ∧
      NMap.get? ((s.takeSink b k m st).bent b).sinks m = none ∧
      ∀ j, j ≠ m → NMap.get? ((s.takeSink b k m st).bent b).sinks j = NMap.get? (s.bent b).sinks j := by
  refine ⟨by simp [State.takeSink], (State.strand?_setStrand ..).trans (if_pos ⟨rfl, rfl⟩), ?_, fun j hj => ?_⟩
  · simp [State.takeSink]
  · simp [State.takeSink, hj]

theorem State.waitSink_shows (s : State) (b k m : Nat) (st : Strand) :
    (s.waitSink b k m st).mem = s.mem ∧ (s.waitSink b k m st).strand? b k = some { st with state := .waiting (.sink m) } :=
  ⟨by simp [State.waitSink], (State.strand?_setStrand ..).trans (if_pos ⟨rfl, rfl⟩)⟩

/-- R171: the value of a tagged FP32 slot. -/
theorem SinkSlot.result_of_fp32 {v : SinkSlot} (hf : v.fmt = 6) (ht : v.tag = true) :
    v.result = some (FVal.mk' (BitVec.ofNat 32 (leNat (v.bytes.take 4)))
      (if (val32 (BitVec.ofNat 32 (leNat (v.bytes.take 4)))).isFinite then min v.count 24 else 0)) := by
  simp [SinkSlot.result, SinkSlot.value, hf, ht, taggedBytes]

/-- R171: a slot of another kind than floating point has no value. -/
theorem SinkSlot.result_of_other {v : SinkSlot} (h : v.fmt.toNat < 6 ∨ 13 < v.fmt.toNat) : v.result = none := by
  have : v.value = none := by
    unfold SinkSlot.value
    split
    case h_9 => rfl
    all_goals omega
  rw [SinkSlot.result, this]
  rfl

end

end Sys2Proof.Machine

namespace Sys2Proof.Proofs

open Sys2Proof.Machine

/-- Settles O26: the cases of `rvres`, `rvrel` and `sink`. -/
theorem rendezvousAndSink : Obligations.RendezvousAndSink := by
  refine ⟨fun s d a e b k st => ?_, fun s d f n b k st v => ?_⟩
  · intro n B i
    have hkey (j : Nat) : rvKey n j = 32 * n + j := by rw [rvKey, Nat.mul_comm]
    refine ⟨fun hi => ⟨exec_rvres_of_bad hi, fun idx he h8 ht hf => ⟨_, exec_rvres_of_free hi he h8 ht hf, ?_, ?_, ?_, fun m hm => ?_⟩,
      fun he h8 hf => ⟨_, exec_rvres_of_full hi he h8 hf, ?_, ?_⟩⟩,
      fun hi => ⟨exec_rvrel_of_bad hi, fun he hx hh => ⟨fun ho => ?_, fun ho => ?_⟩⟩⟩
    · simp
    · simp
    · simp [Bent.holdsRv, RvEntry.isOwner, n]
    · rw [← hkey] at hm
      simp [n, B, Bent.leave, hm]
    · simp
    · exact (State.strand?_setStrand ..).trans (if_pos ⟨rfl, rfl⟩)
    · refine ⟨_, (exec_rvrel_of_held hi he hx hh).trans (if_pos ho), by simp, (State.strand?_setStrand ..).trans (if_pos ⟨rfl, rfl⟩),
        ?_, fun m hm => ?_⟩
      · rw [← hkey]
        simp [n, i]
      · rw [← hkey] at hm
        simp [n, i, B, hm]
    · exact (exec_rvrel_of_held hi he hx hh).trans (if_neg (by simpa using ho))
  · intro B m empty
    refine ⟨fun hi hv ht => ?_, fun hi hv ht => ⟨fun r hr => ?_, SinkSlot.result_of_fp32, fun h => ?_⟩,
      fun hn => ⟨fun hi => ?_, fun hi => ?_⟩⟩
    · obtain ⟨hm, hs, hsink⟩ := State.takeSink_shows s b k m (st.wxp d (BitVec.ofNat 64 (leNat v.bytes)) v.poison).next
      refine ⟨_, (State.issue_of_issues hi _).trans ?_, ⟨hm, hsink⟩, hs⟩
      rw [Bent.sinkFor_of_turn hv ht]
    · obtain ⟨hm, hs, hsink⟩ := State.takeSink_shows s b k m (st.wfp f r v.poison).next
      refine ⟨_, (State.issue_of_issues hi _).trans ?_, ⟨hm, hsink⟩, hs⟩
      rw [Bent.sinkFor_of_turn hv ht]
      simp only [hr]
      rfl
    · refine ⟨_, (State.issue_of_issues hi _).trans ?_, State.updBent_mem s b (fun B => B.leave k (32 + m)), ?_⟩
      · rw [Bent.sinkFor_of_turn hv ht]
        simp only [SinkSlot.result_of_other h]
        rfl
      · rw [State.bent_updBent, if_pos rfl]
        rfl
    · refine ⟨_, (State.issue_of_issues hi _).trans ?_, State.waitSink_shows s b k m st⟩
      rw [Bent.sinkFor_of_empty hn]
    · refine ⟨_, (State.issue_of_issues hi _).trans ?_, State.waitSink_shows s b k m st⟩
      rw [Bent.sinkFor_of_empty hn]

end Sys2Proof.Proofs
end

section
/-! PROOFS. `walk`, `walkb` and `wlst` (R173, R174, R178). -/

open Sys2Proof

namespace Sys2Proof.Machine

/-! ### Tickets -/

/-- Of more candidates than names taken one is free. -/
theorem exists_not_mem_of_injOn {α : Type} [DecidableEq α] {n : Nat} {f : Nat → α} {l : List α}
    (hf : ∀ i j, i < n → j < n → f i = f j → i = j) (hl : l.length < n) : ∃ k < n, f k ∉ l := by
  by_contra h
  push Not at h
  have hc : ((Finset.range n).image f).card = n := by
    rw [Finset.card_image_of_injOn, Finset.card_range]
    exact fun i hi j hj => hf i j (by simpa using hi) (by simpa using hj)
  have hs : (Finset.range n).image f ⊆ l.toFinset := by
    intro v hv
    obtain ⟨k, hk, rfl⟩ := Finset.mem_image.mp hv
    exact List.mem_toFinset.mpr (h k (Finset.mem_range.mp hk))
  have := (Finset.card_le_card hs).trans l.toFinset_card_le
  omega

/-- R174: a fresh ticket is no live walk's. -/
theorem Bent.freshTicket_not_mem {B : Bent} (n : Nat) (h : ((NMap.vals B.walks).flatMap (fun l => l)).length < 65535) :
    B.freshTicket n ∉ (NMap.vals B.walks).flatMap (fun l => l.map Walk.ticket) := by
  have hlen : ((NMap.vals B.walks).flatMap (fun l => l.map Walk.ticket)).length = ((NMap.vals B.walks).flatMap (fun l => l)).length := by
    simp [List.length_flatMap]
  rw [Bent.freshTicket]
  generalize (NMap.vals B.walks).flatMap (fun l => l.map Walk.ticket) = live at hlen ⊢
  generalize hs : (Config.ticketOf n).toNat = start
  have hinj (i j : Nat) (hi : i < live.length + 1) (hj : j < live.length + 1)
      (he : BitVec.ofNat 16 ((start + i) % 65535 + 1) = BitVec.ofNat 16 ((start + j) % 65535 + 1)) : i = j := by
    have := congrArg BitVec.toNat he
    simp only [BitVec.toNat_ofNat] at this
    omega
  obtain ⟨k, hk, hfree⟩ := exists_not_mem_of_injOn (l := live) hinj (Nat.lt_succ_self _)
  cases hf : ((List.range (live.length + 1)).map fun k => BitVec.ofNat 16 ((start + k) % 65535 + 1)).find? (fun x => !live.contains x) with
  | none =>
    have := List.find?_eq_none.mp hf _ (List.mem_map_of_mem (List.mem_range.mpr hk))
    simp [hfree] at this
  | some t => simpa using List.find?_some hf

/-! ### `walk` and `walkb` -/

/-- R174: the class of a walk's cells. -/
def walkClass (cl : BitVec 3) (tier : Nat) : BitVec 2 := if cl = 4 then tierClass tier else cl.extractLsb' 0 2

/-- R174: a walk joins the queue of an engine, and its ticket is given. -/
def State.joinWalks (s : State) (b k : Nat) (st : Strand) (d : XReg) (e : Nat) (w : Walk) : State :=
  { ((s.tick st.lid ((s.launch st.lid).key st.ownerBent st.ownerSlot)).updBent b (fun B =>
      { B with walks := NMap.modify B.walks e [] (fun l => l ++ [w])
               tickets := State.walkInstr.insertTicket w.ticket B.tickets })).setStrand b k
      (st.wx d (w.ticket.zeroExtend 64)).next with nonce := s.nonce + 1 }

theorem State.joinWalks_shows (s : State) (b k : Nat) (st : Strand) (d : XReg) (e : Nat) (w : Walk) :
    (s.joinWalks b k st d e w).mem = s.mem ∧
      (s.joinWalks b k st d e w).strand? b k = some (st.wx d (w.ticket.zeroExtend 64)).next ∧
      NMap.getD ((s.joinWalks b k st d e w).bent b).walks e [] = NMap.getD (s.bent b).walks e [] ++ [w] := by
  refine ⟨by simp [State.joinWalks], (State.strand?_setStrand ..).trans (if_pos ⟨rfl, rfl⟩), ?_⟩
  have h (t : State) : ({ t with nonce := s.nonce + 1 } : State).bent b = t.bent b := rfl
  rw [State.joinWalks, h]
  simp [NMap.modify]

/-- R174: a walk has the fields of its descriptor, and the word and round of its command. -/
theorem State.walkCommand_fields (s : State) (b k : Nat) (st : Strand) (D : WalkDesc) (bounded : Bool) (W : Word) (cls : BitVec 2) :
    let w := s.walkCommand b k st D bounded W cls
    w.src = D.src ∧ w.stride = D.stride ∧ w.rowLen = D.rowLen ∧ w.rows = D.rows ∧ w.hdr = D.hdr ∧ w.argx = D.argx ∧
      w.copy = (D.mode == 1) ∧ w.bounded = bounded ∧ w.cntr = D.cntr ∧ w.word = W ∧ w.round = st.round ∧ w.row = 0 :=
  ⟨rfl, rfl, rfl, rfl, rfl, rfl, rfl, rfl, rfl, rfl, rfl, rfl⟩

section
variable {s : State} {d a x : XReg} {cl : BitVec 3} {b k off o : Nat} {bd : Option (Nat × Bool)} {st : Strand} {bounded : Bool}
  (hi : s.Issues { rx := [a, x], wx := [d] } b k st) (hops : st.ops = [])
include hi hops

/-- R174: a walk instruction whose places are sound reads its descriptor, and acts by what its checks say. -/
theorem State.walkInstr_of_places (hcl : cl ≠ 0) (ha : (st.rx a).toNat % 64 = 0) (hx : (st.rx x).toNat % 8 = 0)
    (hw : ∃ w, spaceOf b (st.rx x) = .own w ∨ spaceOf b (st.rx x) = .dev w) (hs : spaceOf b (st.rx a) = .own off)
    (hm : (s.launch st.lid).spadMap off = some (o, bd)) :
    ((s.read (spadAddr b o) 64).2 = true → s.walkInstr bounded d a x cl = .next (s.trap b k st 0x0031)) ∧
    ((s.read (spadAddr b o) 64).2 = false →
      (∀ e, s.walkCheck b st (WalkDesc.of (s.read (spadAddr b o) 64).1) bounded = some e →
        s.walkInstr bounded d a x cl = .next (s.trap b k st e)) ∧
      (s.walkCheck b st (WalkDesc.of (s.read (spadAddr b o) 64).1) bounded = none →
        (NMap.getD (s.bent b).walks ((s.launch st.lid).engineOf (WalkDesc.of (s.read (spadAddr b o) 64).1).stream) []).length < 32 →
        s.walkInstr bounded d a x cl = .next (s.joinWalks b k st d
          ((s.launch st.lid).engineOf (WalkDesc.of (s.read (spadAddr b o) 64).1).stream)
          (s.walkCommand b k st (WalkDesc.of (s.read (spadAddr b o) 64).1) bounded (st.rx x)
            (walkClass cl (s.launch st.lid).tier))))) := by
  rw [State.walkInstr, State.command_of_issues hi _ (by simp [hops])]
  dsimp only
  rw [if_neg hcl, if_neg (by simp [ha, hx]), if_neg (by obtain ⟨w, h | h⟩ := hw <;> simp [h]), hs]
  dsimp only
  rw [hm]
  dsimp only
  rw [State.holdAtoms, if_pos (by simp [State.cleared, Strand.crossing, hops]), State.holdUntil,
    if_pos (by simp [State.cleared, hops])]
  refine ⟨fun hp => if_pos hp, fun hp => ⟨fun e he => ?_, fun he hq => ?_⟩⟩
  · rw [if_neg (by simp [hp]), he]
  · rw [if_neg (by simp [hp]), he]
    exact if_pos (decide_eq_true hq)

end

/-! ### `wlst` -/

/-- R178: the rows of the walk that a ticket names, never below what it has begun. -/
def Walk.withRows (T : BitVec 16) (rows : Nat) (w : Walk) : Walk := if w.live T then { w with rows := max rows w.emitted } else w

theorem NMap.getD_map {α β : Type} (m : NMap α) (n : Nat) (f : α → β) (d : α) :
    NMap.getD (m.map fun p => (p.1, f p.2)) n (f d) = f (NMap.getD m n d) := by
  induction m with
  | nil => rfl
  | cons p m ih =>
    obtain ⟨k, v⟩ := p
    simp only [NMap.getD, NMap.get?, List.map_cons] at ih ⊢
    split
    · rfl
    · exact ih

section
variable {s : State} {d a x : XReg} {b k : Nat} {st : Strand} (hi : s.Issues { rx := [a, x], wx := [d] } b k st) (hops : st.ops = [])
include hi hops

theorem exec_wlst_of_issues : exec (.wlst d a x) s =
    if (st.rx a).toNat ≥ 65536 ∨ (s.bent b).tickets.contains ((st.rx a).extractLsb' 0 16) = false then .next (s.trap b k st 0x0001)
    else if (NMap.vals (s.bent b).walks).any (fun l => l.any (fun w => w.live ((st.rx a).extractLsb' 0 16))) then
      .next ((s.updBent b (fun B => { B with walks := B.walks.map (fun p =>
        (p.1, p.2.map (Walk.withRows ((st.rx a).extractLsb' 0 16) (st.rx x).toNat))) })).setStrand b k (st.wx d 1).next)
    else .next (s.setStrand b k (st.wx d 0).next) :=
  State.command_of_issues hi _ (by simp [hops])

end

end Sys2Proof.Machine

namespace Sys2Proof.Proofs

open Sys2Proof.Machine

/-- Settles O27: the descriptor's checks decide what a walk instruction does; tickets are fresh by counting. -/
theorem walkCommands : Obligations.WalkCommands := by
  intro s d a x cl b k st hi hops L B W
  refine ⟨fun q hq off o bd hcl ha hx hw hs hm => ?_, ?_⟩
  · have he : exec q.1 s = s.walkInstr q.2 d a x cl := by
      simp only [List.mem_cons, List.not_mem_nil, or_false] at hq
      obtain rfl | rfl := hq <;> rfl
    obtain ⟨hpois, hgo⟩ := State.walkInstr_of_places (bounded := q.2) hi hops hcl ha hx hw hs hm
    rw [he]
    refine ⟨hpois, fun e hp hc => (hgo hp).1 e hc, fun hp hc hlen => ?_⟩
    have hjoin := (hgo hp).2 hc hlen
    generalize hwc : s.walkCommand b k st (WalkDesc.of (s.read (spadAddr b o) 64).1) q.2 (st.rx x)
      (walkClass cl (s.launch st.lid).tier) = w at hjoin
    obtain ⟨hmem, hstr, hwalks⟩ := State.joinWalks_shows s b k st d (L.engineOf (WalkDesc.of (s.read (spadAddr b o) 64).1).stream) w
    refine ⟨_, w, hjoin, hmem, hstr, hwalks, ?_⟩
    subst hwc
    obtain ⟨h1, h2, h3, h4, h5, h6, h7, h8, h9, h10, h11, h12⟩ := State.walkCommand_fields s b k st
      (WalkDesc.of (s.read (spadAddr b o) 64).1) q.2 (st.rx x) (walkClass cl (s.launch st.lid).tier)
    refine ⟨h1, h2, h3, h4, h5, h6, h7, h8, h9, h10, h11, h12, rfl, rfl, rfl, ?_⟩
    exact fun hcount l hl v hv hn => Bent.freshTicket_not_mem s.nonce hcount (List.mem_flatMap.mpr ⟨l, hl, List.mem_map.mpr ⟨v, hv, hn⟩⟩)
  · intro T hit
    rw [exec_wlst_of_issues hi hops]
    refine ⟨fun h => if_pos h, fun hlt ht hh => ?_, fun hlt ht hh => ?_⟩
    · rw [if_neg (by simpa [hlt] using ht), if_neg (ne_true_of_eq_false hh)]
    · rw [if_neg (by simpa [hlt] using ht), if_pos hh]
      refine ⟨_, rfl, by simp, (State.strand?_setStrand ..).trans (if_pos ⟨rfl, rfl⟩), fun e => ?_⟩
      rw [State.bent_setStrand, if_pos rfl, State.bent_updBent, if_pos rfl]
      exact NMap.getD_map B.walks e (List.map (Walk.withRows T W.toNat)) []

end Sys2Proof.Proofs
end

section
/-! PROOFS. The steps of walks, and acknowledged faults (R174 to R178, R190, R294, R315, R337). -/

open Sys2Proof

namespace Sys2Proof.Machine

/-! ### What parts of a bent an update leaves -/

/-- A part of a bent that an update of a bent keeps. -/
theorem State.bent_updBent_keeps {α : Type} (p : Bent → α) (s : State) (c b : Nat) {f : Bent → Bent} (h : ∀ B, p (f B) = p B) :
    p ((s.updBent c f).bent b) = p (s.bent b) := by
  rw [State.bent_updBent]
  split
  · next e => rw [h, e]
  · rfl

section
variable {α : Type} (p : Bent → α) (hs : ∀ B m, p { B with strands := m } = p B)
include hs

theorem State.bent_setStrand_keeps (s : State) (c k b : Nat) (st : Strand) : p ((s.setStrand c k st).bent b) = p (s.bent b) :=
  State.bent_updBent_keeps p s c b fun B => hs B _

/-- A change of the strand of an OWNER changes no bent but in its strands. -/
theorem State.bent_updOwner_keeps (s : State) (lid ob os : Nat) (f : Strand → Strand) (b : Nat) :
    p ((s.updOwner lid ob os f).bent b) = p (s.bent b) := by
  unfold State.updOwner
  split
  · split
    · exact State.bent_setStrand_keeps p hs ..
    · rfl
  · exact congrArg p (State.bent_updLaunch ..)

theorem State.bent_postEvent_keeps (s : State) (lid ob os : Nat) (e : EvEntry) (b : Nat) :
    p ((s.postEvent lid ob os e).bent b) = p (s.bent b) := by
  unfold State.postEvent
  split
  · split
    · exact State.bent_setStrand_keeps p hs ..
    · rfl
  · exact congrArg p (State.bent_updLaunch ..)

end

theorem State.bent_recordUndo (s : State) (w : Writer) (a n b : Nat) : (s.recordUndo w a n).bent b = s.bent b := by
  unfold State.recordUndo
  split
  · rfl
  · split <;> rfl

section
variable {α : Type} (p : Bent → α) (hg : ∀ B m, p { B with granules := m } = p B)
include hg

/-- A write changes no bent but in the shadow words of its granules. -/
theorem State.bent_write_keeps (s : State) (w : Writer) (a : Nat) (l : List Byte) (q : Bool) (b : Nat) :
    p ((s.write w a l q).bent b) = p (s.bent b) := by
  rw [← State.bent_recordUndo s w a l.length b]
  unfold State.write
  dsimp only
  have h3 (u v : State) (q : Bool) (hu : u.bent b = (s.recordUndo w a l.length).bent b)
      (hv : v.bent b = (s.recordUndo w a l.length).bent b) : p ((if q then u else v).bent b) = p ((s.recordUndo w a l.length).bent b) := by
    cases q
    · exact congrArg p hv
    · exact congrArg p hu
  split
  · refine (State.bent_updBent_keeps p _ _ _ ?_).trans ?_
    · exact fun B => hg B _
    · exact h3 _ _ _ rfl rfl
  · exact h3 _ _ _ rfl rfl

theorem State.bent_writeRel_keeps (s : State) (w : Writer) (sc : Scope) (a : Nat) (l : List Byte) (q : Bool) (b : Nat) :
    p ((s.writeRel w sc a l q).bent b) = p (s.bent b) :=
  (congrArg p (State.bent_updLaunch ..)).trans (State.bent_write_keeps p hg ..)

end

/-- A fill changes no bent but in its granules, its deferred readers and its strands. -/
theorem State.bent_fill_keeps {α : Type} (p : Bent → α) (hs : ∀ B m, p { B with strands := m } = p B)
    (hd : ∀ B l m, p { B with deferred := l, granules := m } = p B) (s : State) (lid loc b : Nat) :
    p ((s.fill lid loc).bent b) = p (s.bent b) := by
  unfold State.fill
  split
  · rfl
  · next c off _ =>
    dsimp only
    refine (congrArg p (State.bent_updLaunch ..)).trans ((State.bent_updBent_keeps p _ _ _ ?_).trans ?_)
    · exact fun B => hd B _ _
    · refine List.foldlRecOn (motive := fun t : State => p (t.bent b) = p (s.bent b)) _ _ rfl fun t ht d _ => ?_
      cases t.strand? c d.2.1 with
      | none => exact ht
      | some st => exact (State.bent_setStrand_keeps p hs ..).trans ht

/-! ### The head of an engine -/

theorem State.walkHead_congr {s t : State} {b e : Nat} (h : (t.bent b).walks = (s.bent b).walks) : t.walkHead b e = s.walkHead b e := by
  rw [State.walkHead, h]
  rfl

theorem Walk.same_self (w : Walk) : w.same w = true := by simp [Walk.same]

theorem Walk.same_of_eq {v w : Walk} (h1 : v.lid = w.lid) (h2 : v.ownerBent = w.ownerBent) (h3 : v.ownerSlot = w.ownerSlot)
    (h4 : v.ord = w.ord) : v.same w = true := by simp [Walk.same, h1, h2, h3, h4]

/-- The head walk put back after a step is the head. -/
theorem State.walkHead_setWalk {s : State} {b e : Nat} {w v : Walk} (h : s.walkHead b e = some w) (hs : v.same w = true) :
    (s.setWalk b e v).walkHead b e = some v := by
  rw [State.walkHead] at h
  cases hl : NMap.getD (s.bent b).walks e [] with
  | nil => simp [hl] at h
  | cons x l =>
    obtain rfl : x = w := by simpa [hl] using h
    simp [State.walkHead, State.setWalk, NMap.modify, hl, hs]

/-! ### Beginning, and the counter read -/

section
variable {s : State} {b e : Nat} {w : Walk} (h : s.walkHead b e = some w)
include h

section
variable (hb : w.begun = false) (hc : w.cancelled = false) (hg : s.walkGate w = true) (hr : s.walkReady w = true)
  (hn : w.rows * w.rowLen ≠ 0)
include hb hc hg hr hn

/-- R174, R315: the walk as it begins. -/
def State.begunWalk (s : State) (b : Nat) (w : Walk) : Walk :=
  { w with begun := true, bindings := s.walkBindings b w, frontWhich := !(NMap.getD (s.launch w.lid).bufs w.bt default).swap }

theorem exec_walkBegin_of_ready : exec (.walkBegin b e) s =
    match walkTarget b w with
    | none => .next (s.setWalk b e (s.begunWalk b w))
    | some t =>
      if (s.bent t).pool < 8 then .next s
      else .next ((s.updBent t (fun B => { B with pool := B.pool - 8 })).setWalk b e { s.begunWalk b w with reserved := some t }) := by
  have hx : exec (.walkBegin b e) s = execWalkBegin b e s := rfl
  rw [hx, execWalkBegin, h]
  dsimp only
  rw [if_neg (by simp [hb, hc, hg, hr]), if_neg (by simpa [Walk.empty] using hn)]
  cases walkTarget b w <;> rfl

end

/-- R177: the counter read sets the rows that a walk may send. -/
theorem exec_walkbCounterRead_of_begun (hb : w.begun = true) (hbd : w.bounded = true) (he : w.ended = none) (hg : s.walkGate w = true)
    {loc : Nat} {img : Option Nat} (hl : s.walkLoc b e w w.cntr = .ok loc img) :
    ∃ clock, exec (.walkbCounterRead b e) s = .next (s.setWalk b e { w with allowed := s.readNat loc 8, clock := clock }) := by
  have hx : exec (.walkbCounterRead b e) s = execWalkbCounterRead b e s := rfl
  rw [hx, execWalkbCounterRead, h]
  dsimp only
  rw [if_pos (by simp [hb, hbd, he, hg]), hl]
  exact ⟨_, rfl⟩

end

/-! ### Cells sent -/

theorem Walk.finish_same {v w : Walk} (h : v.same w = true) (eot : Bool) : (v.finish eot).same w = true := by
  unfold Walk.finish
  split <;> exact h

section
variable (w : Walk) (eot : Bool)
@[simp] theorem Walk.finish_row : (w.finish eot).row = w.row := by unfold Walk.finish; split <;> rfl
@[simp] theorem Walk.finish_off : (w.finish eot).off = w.off := by unfold Walk.finish; split <;> rfl
end

/-- R175: a piece moves its walk on in row and offset only. -/
theorem Walk.after_of_piece {w : Walk} {p : Piece} (h : w.piece = some p) : ∃ row off, p.after = { w with row := row, off := off } := by
  unfold Walk.piece at h
  split at h
  · split at h
    · nomatch h
    · obtain rfl := Option.some.inj h
      dsimp only
      split
      · exact ⟨_, _, rfl⟩
      · exact ⟨w.row, _, rfl⟩
  · dsimp only at h
    split at h
    · nomatch h
    · split at h
      · nomatch h
      · obtain rfl := Option.some.inj h
        exact ⟨_, w.off, rfl⟩

/-- R174: what a bent is once a cell of a walk has entered its queues. -/
def Bent.walkSent (B : Bent) (e : Nat) (w : Walk) (c : Cell) (d : Side) : Bent :=
  { B.walkEnqueue e (c.inStream (B.streamNext w.stream)) d with
    streamSeq := NMap.set B.streamSeq w.stream (B.streamNext w.stream + 1) }

/-- A part of the bent that neither its strands nor its walks bear on is, after a walk's cell, as the cell leaves it. -/
theorem State.bent_walkSend {α : Type} (p : Bent → α) (hs : ∀ B m, p { B with strands := m } = p B)
    (hw : ∀ B m, p { B with walks := m } = p B) (s : State) (b e : Nat) (w : Walk) (c : Cell) (img : Option Nat) :
    p ((s.walkSend b e w c img).bent b) = p ((s.bent b).walkSent e w c (w.side e c img)) := by
  unfold State.walkSend
  refine (State.bent_updBent_keeps p _ _ _ ?_).trans ((State.bent_updOwner_keeps p hs ..).trans (congrArg p ?_))
  · exact fun B => hw B _
  · rw [State.bent_updLaunch, State.bent_updBent, if_pos rfl]
    rfl

theorem Bent.walkEnqueue_walks (B : Bent) (e : Nat) (c : Cell) (d : Side) : (B.walkEnqueue e c d).walks = B.walks := by
  unfold Bent.walkEnqueue
  split <;> rfl

theorem State.walkHead_walkSend {s : State} {b e : Nat} {w v : Walk} (h : s.walkHead b e = some w) (hv : v.same w = true) (c : Cell)
    (img : Option Nat) : (s.walkSend b e v c img).walkHead b e = some v := by
  unfold State.walkSend
  refine State.walkHead_setWalk ((State.walkHead_congr ?_).trans h) hv
  refine (State.bent_updOwner_keeps Bent.walks (fun _ _ => rfl) ..).trans ?_
  rw [State.bent_updLaunch, State.bent_updBent, if_pos rfl]
  exact Bent.walkEnqueue_walks ..

/-- R163, R174: a walk's cell stands last in its queue. -/
theorem Bent.walkSent_queues (B : Bent) (e : Nat) (w : Walk) (c : Cell) (d : Side) :
    (popMask c.dest = 1 → (B.walkSent e w c d).queued (portW e) (firstEgress c.dest) c.cls.toNat =
      B.queued (portW e) (firstEgress c.dest) c.cls.toNat ++ [(c.inStream (B.streamNext w.stream)).seal]) ∧
    (popMask c.dest ≠ 1 → ((B.walkSent e w c d).mcast (portW e)).map (fun q => q.cell) =
      (B.mcast (portW e)).map (fun q => q.cell) ++ [(c.inStream (B.streamNext w.stream)).seal]) := by
  refine ⟨fun h => ?_, fun h => ?_⟩
  · have : B.walkEnqueue e (c.inStream (B.streamNext w.stream)) d =
        B.enqueue (portW e) (firstEgress c.dest) (c.inStream (B.streamNext w.stream)) d := if_pos h
    refine Eq.trans ?_ (Bent.queued_enqueue B (portW e) (firstEgress c.dest) (c.inStream (B.streamNext w.stream)) d)
    rw [Bent.walkSent, this]
    rfl
  · have : B.walkEnqueue e (c.inStream (B.streamNext w.stream)) d = B.enqueueM (portW e) (c.inStream (B.streamNext w.stream)) d := if_neg h
    refine Eq.trans ?_ (Bent.mcast_enqueueM B (portW e) (c.inStream (B.streamNext w.stream)) d)
    rw [Bent.walkSent, this]
    rfl

theorem Bent.walkSent_stream (B : Bent) (e : Nat) (w : Walk) (c : Cell) (d : Side) :
    (B.walkSent e w c d).streamNext w.stream = B.streamNext w.stream + 1 := by simp [Bent.walkSent, Bent.streamNext]

section
variable {s : State} {b e : Nat} {w : Walk} (h : s.walkHead b e = some w) (hb : w.begun = true) (he : w.ended = none)
  (hk : w.parkedTok = none) (hg : s.walkGate w = true)
include h hb he hk hg

theorem exec_walkCellEmit_of_running : exec (.walkCellEmit b e) s = .next (s.walkStep b e w) := by
  have hx : exec (.walkCellEmit b e) s = execWalkCellEmit b e s := rfl
  rw [hx, execWalkCellEmit, h]
  simp only [hb, he, hk, hg, Option.isNone_none, Bool.and_self, if_true]

end

section
variable {s : State} {b e : Nat} {w : Walk} {p : Piece} {bytes : List Byte} {pois : Bool} {img : Option Nat}
  (hp : w.piece = some p) (hr : s.walkRead b e w p.addrs true (.ok [] false none) = .ok bytes pois img)
include hp hr

/-- R175: a stream sends its next piece. -/
theorem State.walkStep_of_stream (hc : w.copy = false) (hn : w.poisonRest = false) (hroom : (s.bent b).walkRoom e w = true) :
    s.walkStep b e w = s.walkSend b e (({ p.after with poisonRest := pois } : Walk).finish p.eot)
      { w.header b (p.first.1 * w.rowLen + p.first.2) p.addrs.length with
        eor := p.eor, eot := p.eot, payload := padTo 256 0 bytes, poison := pois } img := by
  rw [State.walkStep, hp]
  dsimp only
  simp only [hc, hn, hroom, Bool.false_eq_true, Bool.true_eq_false, if_false, hr]

/-- R174: a copy writes its next piece. -/
theorem State.walkStep_of_copy (hc : w.copy = true) (hn : pois = false)
    (hf : (s.launch w.lid).pubAfter.contains w.bt = false ∨ w.frontWhich = (NMap.getD (s.launch w.lid).bufs w.bt default).swap) :
    s.walkStep b e w = (s.write (s.walkWriter b w) (s.copyLoc b w (p.first.1 * w.rowLen + p.first.2)) bytes false).setWalk b e
      (p.after.finish p.eot) := by
  have : ((s.launch w.lid).pubAfter.contains w.bt && w.frontWhich != (NMap.getD (s.launch w.lid).bufs w.bt default).swap) = false := by
    obtain hf | hf := hf
    · rw [hf, Bool.false_and]
    · rw [hf, bne_self_eq_false, Bool.and_false]
  subst hn
  rw [State.walkStep, hp]
  dsimp only
  rw [if_pos hc, this, if_neg (by decide), hr]
  rfl

end

/-! ### Completion -/

theorem State.bent_walkEvent_keeps {α : Type} (p : Bent → α) (hs : ∀ B m, p { B with strands := m } = p B) (s : State) (w : Walk)
    (status : BitVec 2) (loc : Option Nat) (b : Nat) : p ((s.walkEvent w status loc).bent b) = p (s.bent b) :=
  (congrArg p (State.bent_updLaunch ..)).trans (State.bent_postEvent_keeps p hs ..)

/-- R176: the head leaves its engine. -/
theorem State.walks_walkLeave {s : State} {b e : Nat} {w : Walk} (h : s.walkHead b e = some w) :
    NMap.getD ((s.walkLeave b e w).bent b).walks e [] = (NMap.getD (s.bent b).walks e []).drop 1 := by
  rw [State.walkHead] at h
  have h0 : ((if w.copy then s.leave (s.walkWriter b w) .region true [objShadow w.bt] else s).bent b) = s.bent b := by
    split
    · exact State.bent_updLaunch ..
    · rfl
  have hpool (u : State) (t : Nat) : ((u.updBent t (fun B => { B with pool := B.pool + 8 })).bent b).walks = (u.bent b).walks :=
    State.bent_updBent_keeps Bent.walks _ _ _ fun _ => rfl
  cases hl : NMap.getD (s.bent b).walks e [] with
  | nil => simp [hl] at h
  | cons x l =>
    obtain rfl : x = w := by simpa [hl] using h
    rw [State.walkLeave]
    dsimp only
    split
    · rw [hpool, State.bent_updBent, if_pos rfl, h0]
      simp [NMap.modify, hl, removeFirst, Walk.same_self]
    · rw [State.bent_updBent, if_pos rfl, h0]
      simp [NMap.modify, hl, removeFirst, Walk.same_self]

/-- R176: the completion word is written, and the walk leaves. -/
theorem State.walkWrite_shows {s : State} {b e : Nat} {w : Walk} (h : s.walkHead b e = some w) (q : BitVec 2) (loc : Nat) :
    (s.walkWrite b e w q loc).mem = (s.write (s.walkWriter b w) loc (leBytes 8 (w.wordValue q)) false).mem ∧
      NMap.getD ((s.walkWrite b e w q loc).bent b).walks e [] = (NMap.getD (s.bent b).walks e []).drop 1 := by
  rw [State.walkWrite]
  constructor
  · rw [State.walkLeave_mem, State.walkEvent_mem]
    split
    · rw [State.fill_mem, State.leave_mem]
      simp [State.writeRel]
    · simp [State.writeRel]
  · refine (State.walks_walkLeave ((State.walkHead_congr ?_).trans h)).trans ?_ <;>
      [skip; refine congrArg (fun m => (NMap.getD m e []).drop 1) ?_]
    all_goals
      refine (State.bent_walkEvent_keeps Bent.walks ?_ ..).trans ?_
      · exact fun _ _ => rfl
      · split
        · refine (State.bent_fill_keeps Bent.walks ?_ ?_ ..).trans ((congrArg Bent.walks (State.bent_updLaunch ..)).trans ?_)
          · exact fun _ _ => rfl
          · exact fun _ _ _ => rfl
          · exact State.bent_writeRel_keeps Bent.walks (fun _ _ => rfl) ..
        · exact State.bent_writeRel_keeps Bent.walks (fun _ _ => rfl) ..

theorem exec_walkCompletion_of_ended {s : State} {b e : Nat} {w : Walk} (h : s.walkHead b e = some w)
    (hall : (NMap.getD (s.bent b).walks e []).all (fun v => !v.cancelled) = true) {q : BitVec 2} (he : w.ended = some q)
    (hk : w.parkedTok = none) (hn : w.noWord = false) {loc : Nat} {img : Option Nat} (hl : s.wordLoc b e w = .ok loc img) :
    exec (.walkCompletion b e) s = .next (s.walkWrite b e w q loc) := by
  have hx : exec (.walkCompletion b e) s = execWalkCompletion b e s := rfl
  have hnot (v : Walk) (hv : v ∈ NMap.getD (s.bent b).walks e []) : v.cancelled = false := by
    simpa using List.all_eq_true.mp hall v hv
  have hlv : s.walkLeaving b e = some w := by
    rw [State.walkLeaving, List.find?_eq_none.mpr fun v hv => by simp [hnot v hv]]
    exact h
  have hc : w.cancelled = false := hnot w (List.mem_of_mem_head? h)
  rw [hx, execWalkCompletion, hlv]
  simp only [hc, he, hk, hn, hl, Option.isSome_none, Bool.false_eq_true, if_false]

/-! ### Acknowledged faults -/

/-- R337: the walk that a token names goes on as the acknowledgement says, and the token is free. -/
theorem State.ackWalk_shows {s : State} {p b e : Nat} {token : BitVec 32} {w : Walk} (h : s.parkedWalk p token = some (b, e, w))
    (hh : s.walkHead b e = some w) {f : Walk → Walk} (hf : (f w).same w = true) :
    (s.ackWalk p token f).mem = s.mem ∧ (s.ackWalk p token f).walkHead b e = some (f w) ∧
      ((s.ackWalk p token f).part p).parked.any (fun q => q.1 == token) = false := by
  rw [State.ackWalk, h]
  refine ⟨rfl, State.walkHead_setWalk hh hf, ?_⟩
  have : (((s.updPart p fun P => { P with parked := P.parked.filter (fun q => q.1 != token) }).setWalk b e (f w)).part p).parked =
      (s.part p).parked.filter (fun q => q.1 != token) := by
    have hp (t : State) : (t.setWalk b e (f w)).part p = t.part p := rfl
    rw [hp]
    simp [State.part, State.updPart, State.setPart]
  simp only [this]
  rw [List.any_eq_false]
  intro q hq
  simpa using (List.mem_filter.mp hq).2

theorem Walk.abort_same (w : Walk) : w.abort.same w = true := by
  unfold Walk.abort
  split <;> exact Walk.same_of_eq rfl rfl rfl rfl

end Sys2Proof.Machine

namespace Sys2Proof.Proofs

open Sys2Proof.Machine

/-- Settles O28: each step of the head walk, and the two acknowledgements. -/
theorem walkStepsAndFaults : Obligations.WalkStepsAndFaults := by
  refine ⟨fun s b e w h => ⟨fun hb hc hg hr hn => ⟨fun ht => ?_, fun c ht hpool => ?_⟩, fun hb hbd he hg loc img hl => ?_,
    fun p bytes pois img hb he hk hg hp hr => ⟨fun hc hn hd hroom => ?_, fun hc hn hf ho hdet => ?_⟩,
    fun q loc img hall he hk hn hl ho hdet => ?_⟩, fun s p token b e w h hh => ⟨?_, fun he => ?_⟩⟩
  · rw [exec_walkBegin_of_ready h hb hc hg hr hn, ht]
    exact ⟨_, _, rfl, rfl, State.walkHead_setWalk h (Walk.same_of_eq rfl rfl rfl rfl), rfl, rfl⟩
  · rw [exec_walkBegin_of_ready h hb hc hg hr hn, ht]
    simp only [Nat.not_lt.mpr hpool, if_false]
    refine ⟨_, _, rfl, rfl, State.walkHead_setWalk ((State.walkHead_congr ?_).trans h) (Walk.same_of_eq rfl rfl rfl rfl), rfl, rfl, ?_⟩
    · exact State.bent_updBent_keeps Bent.walks _ _ _ fun _ => rfl
    · refine (State.bent_updBent_keeps Bent.pool _ _ _ ?_).trans ?_
      · exact fun _ => rfl
      · rw [State.bent_updBent, if_pos rfl]
  · obtain ⟨clock, hx⟩ := exec_walkbCounterRead_of_begun h hb hbd he hg hl
    exact ⟨_, _, hx, rfl, State.walkHead_setWalk h (Walk.same_of_eq rfl rfl rfl rfl), rfl⟩
  · obtain ⟨row, off, ha⟩ := Walk.after_of_piece hp
    rw [exec_walkCellEmit_of_running h hb he hk hg, State.walkStep_of_stream hp hr hc hn hroom]
    obtain ⟨arg, addr, hfill, -⟩ := fillArg_spec (c := descCell w.hdr) rfl rfl w.hdr w.argx w.sxcfg
    let v := ({ p.after with poisonRest := pois } : Walk).finish p.eot
    let c : Cell := { w.header b (p.first.1 * w.rowLen + p.first.2) p.addrs.length with
      eor := p.eor, eot := p.eot, payload := padTo 256 0 bytes, poison := pois }
    have hv : v.same w = true := Walk.finish_same (ha ▸ Walk.same_of_eq rfl rfl rfl rfl) _
    have hstream : v.stream = w.stream := by
      simp only [v, ha, Walk.finish]
      split <;> rfl
    have hdest : c.dest = w.dmask := by
      simp only [c, Walk.header, hfill]
      exact hd.symm
    obtain ⟨huni, hmulti⟩ := Bent.walkSent_queues (s.bent b) e v c (v.side e c img)
    rw [hstream, hdest] at huni
    rw [hstream, hdest] at hmulti
    refine ⟨_, v, (c.inStream ((s.bent b).streamNext w.stream)).seal, rfl, State.walkSend_mem .., State.walkHead_walkSend h hv ..,
      by simp [v], by simp [v], rfl, rfl, rfl, rfl, rfl, hdest, rfl, rfl, ?_, fun h1 => ?_, fun h1 => ?_⟩
    · refine (State.bent_walkSend (fun B => B.streamNext w.stream) ?_ ?_ ..).trans ?_
      · exact fun _ _ => rfl
      · exact fun _ _ => rfl
      · rw [← hstream]
        exact Bent.walkSent_stream ..
    · refine (State.bent_walkSend (fun B => B.queued (8 + e) (firstEgress w.dmask) w.cls.toNat) ?_ ?_ ..).trans (huni h1)
      · exact fun _ _ => rfl
      · exact fun _ _ => rfl
    · refine (State.bent_walkSend (fun B => (B.mcast (8 + e)).map (fun q => q.cell)) ?_ ?_ ..).trans (hmulti h1)
      · exact fun _ _ => rfl
      · exact fun _ _ => rfl
  · obtain ⟨row, off, ha⟩ := Walk.after_of_piece hp
    rw [exec_walkCellEmit_of_running h hb he hk hg, State.walkStep_of_copy hp hr hc hn hf]
    intro to_
    refine ⟨_, _, rfl, State.walkHead_setWalk ((State.walkHead_congr ?_).trans h) ?_, by simp, by simp, fun y hy => ?_, fun j hj => ?_⟩
    · exact State.bent_write_keeps Bent.walks (fun _ _ => rfl) ..
    · exact Walk.finish_same (ha ▸ Walk.same_of_eq rfl rfl rfl rfl) _
    · exact State.write_byte_of_outside _ _ _ _ _ _ ho hy
    · rw [List.getD_eq_getElem _ _ hj]
      exact State.write_byte_inside _ _ _ _ _ _ ho hdet hj
  · obtain ⟨hm, hw⟩ := State.walkWrite_shows h q loc
    refine ⟨_, exec_walkCompletion_of_ended h hall he hk hn hl, hw, ?_, fun y hy => ?_⟩
    · rw [State.readNat, hm]
      refine (State.readNat_of_bytes (leBytes_length 8 _) fun j hj => State.write_byte_inside _ _ _ _ _ _ ho hdet hj).trans ?_
      rw [leNat_leBytes, Walk.wordValue]
      have := q.isLt
      have := Nat.mod_lt w.row (show 0 < 2 ^ 32 by decide)
      exact Nat.mod_eq_of_lt (by omega)
    · rw [State.byte, hm]
      exact State.write_byte_of_outside _ _ _ _ _ _ ho (by simpa using hy)
  · obtain ⟨hm, hw, hp⟩ := State.ackWalk_shows (f := fun w => { w with parkedTok := none }) h hh (Walk.same_of_eq rfl rfl rfl rfl)
    exact ⟨_, _, rfl, hm, hw, rfl, rfl, rfl, rfl, hp⟩
  · obtain ⟨hm, hw, hp⟩ := State.ackWalk_shows h hh w.abort_same
    refine ⟨_, _, rfl, hm, hw, ?_, hp, ?_⟩
    · unfold Walk.abort
      split <;> rfl
    · cases hc : w.copy <;> simp [Walk.abort, hc, he]

end Sys2Proof.Proofs
end

section
/-! PROOFS. Gangs, sort configuration, incremental queues as strands use them, and round markers (R172, R179 to R182, R272, R297,
R299, R302). -/

open Sys2Proof

namespace Sys2Proof.Machine

/-! ### Keys of maps -/

/-- A new key is put somewhere among the others. -/
theorem NMap.set_perm {α : Type} {m : NMap α} {n : Nat} (a : α) (h : NMap.get? m n = none) : (NMap.set m n a).Perm ((n, a) :: m) := by
  induction m with
  | nil => exact .refl _
  | cons p m ih =>
    obtain ⟨k, v⟩ := p
    rw [NMap.get?_cons] at h
    have hne : n ≠ k := fun e => by simp [e] at h
    rw [if_neg hne] at h
    simp only [NMap.set, if_neg hne]
    split
    · exact .refl _
    · exact ((ih h).cons _).trans (.swap ..)

theorem NMap.mem_of_get? {α : Type} {m : NMap α} {n : Nat} {a : α} (h : NMap.get? m n = some a) : (n, a) ∈ m := by
  induction m with
  | nil => simp [NMap.get?] at h
  | cons p m ih =>
    obtain ⟨k, v⟩ := p
    rw [NMap.get?_cons] at h
    split at h
    · next e =>
      obtain rfl := Option.some.inj h
      rw [e]
      exact List.mem_cons_self ..
    · exact List.mem_cons_of_mem _ (ih h)

theorem NMap.not_mem_of_get? {α : Type} {m : NMap α} {n : Nat} (h : NMap.get? m n = none) : n ∉ m.map Prod.fst := by
  induction m with
  | nil => simp
  | cons p m ih =>
    obtain ⟨k, v⟩ := p
    rw [NMap.get?_cons] at h
    split at h
    · nomatch h
    · next e => simpa [e] using ih h

/-! ### The pairs that a strand marks -/

/-- A pair given a count of 0 where it has none. -/
def markPair (ix e : Nat) (m : NMap Nat) (i : Nat) : NMap Nat :=
  if NMap.has m (pairKey ix i e) then m else NMap.set m (pairKey ix i e) 0

theorem pairKey_inj {ix i j e f : Nat} (he : e < 16) (hf : f < 16)
    (h : pairKey ix i e = pairKey ix j f) : i = j ∧ e = f := by
  unfold pairKey at h
  omega

section
variable {ix e : Nat} {m : NMap Nat} {i : Nat}

theorem markPair_get? (k : Nat) : NMap.get? (markPair ix e m i) k =
    if k = pairKey ix i e then some (NMap.getD m k 0) else NMap.get? m k := by
  unfold markPair NMap.getD
  split
  · next h =>
    split
    · next hk =>
      obtain ⟨v, hv⟩ := Option.isSome_iff_exists.mp h
      rw [hk, hv]
      rfl
    · rfl
  · next h =>
    rw [NMap.get?_set]
    split
    · next hk => rw [hk, Option.not_isSome_iff_eq_none.mp h]; rfl
    · rfl

theorem markPair_nodup (h : (m.map Prod.fst).Nodup) : ((markPair ix e m i).map Prod.fst).Nodup := by
  unfold markPair
  split
  · exact h
  · next hn =>
    have hn := Option.not_isSome_iff_eq_none.mp hn
    exact ((NMap.set_perm 0 hn).map Prod.fst).nodup_iff.mpr (List.nodup_cons.mpr ⟨NMap.not_mem_of_get? hn, h⟩)

theorem markPair_keys {P : Nat → Prop} (hp : P (pairKey ix i e)) (h : ∀ k ∈ m.map Prod.fst, P k) :
    ∀ k ∈ (markPair ix e m i).map Prod.fst, P k := by
  unfold markPair
  split
  · exact h
  · next hn =>
    intro k hk
    have := ((NMap.set_perm 0 (Option.not_isSome_iff_eq_none.mp hn)).map Prod.fst).mem_iff.mp hk
    obtain rfl | hk := List.mem_cons.mp this
    · exact hp
    · exact h k hk

end

/-- What the ingresses of a list give a map: their pairs are in it, at the count they had, or 0. -/
theorem markPairs_spec {ix e : Nat} (l : List Nat) (m : NMap Nat) (hm : (m.map Prod.fst).Nodup) (hk : ∀ k ∈ m.map Prod.fst, k / 256 = ix)
    (hl : ∀ i ∈ l, i < 16) (he : e < 16) :
    ((l.foldl (markPair ix e) m).map Prod.fst).Nodup ∧ (∀ k ∈ (l.foldl (markPair ix e) m).map Prod.fst, k / 256 = ix) ∧
      (∀ i ∈ l, NMap.get? (l.foldl (markPair ix e) m) (pairKey ix i e) = some (NMap.getD m (pairKey ix i e) 0)) ∧
      ∀ k v, NMap.get? m k = some v → NMap.get? (l.foldl (markPair ix e) m) k = some v := by
  induction l generalizing m with
  | nil => exact ⟨hm, hk, by simp, fun k v h => h⟩
  | cons j l ih =>
    obtain ⟨hj, hl⟩ := List.forall_mem_cons.mp hl
    have hdiv : pairKey ix j e / 256 = ix := by unfold pairKey; omega
    obtain ⟨h1, h2, h3, h4⟩ := ih (markPair ix e m j) (markPair_nodup hm) (markPair_keys (P := fun k => k / 256 = ix) hdiv hk) hl
    have hkeep (k v : Nat) (h : NMap.get? m k = some v) : NMap.get? (markPair ix e m j) k = some v := by
      rw [markPair_get?]
      split
      · rw [NMap.getD, h]; rfl
      · exact h
    refine ⟨h1, h2, fun i hi => ?_, fun k v h => h4 k v (hkeep k v h)⟩
    obtain rfl | hi := List.mem_cons.mp hi
    · exact h4 _ _ ((markPair_get? ..).trans (if_pos rfl))
    · rw [List.foldl_cons, h3 i hi, NMap.getD, markPair_get?]
      split <;> rfl

/-! ### Markers sent -/

/-- One strand before and after it has sent cells: but its sequence numbers the same. -/
def Strand.SameButSeq (v st : Strand) : Prop := ∃ n l, v = { st with seqNext := n, seqLast := l }

theorem Strand.SameButSeq.refl (st : Strand) : st.SameButSeq st := ⟨_, _, rfl⟩

theorem State.sendMarks_append (s : State) (b k : Nat) (st : Strand) (l m : NMap Nat) :
    s.sendMarks b k st (l ++ m) = (s.sendMarks b k st l).1.sendMarks b k (s.sendMarks b k st l).2 m := List.foldl_append ..

theorem State.sendMarks_cons (s : State) (b k : Nat) (st : Strand) (p : Nat × Nat) (l : NMap Nat) :
    s.sendMarks b k st (p :: l) = (s.sendMark b k st p).1.sendMarks b k (s.sendMark b k st p).2 l := rfl

/-- Markers change no strand but the sequence numbers of their own, and no launch. -/
theorem State.sendMarks_keeps (s : State) (b k : Nat) (st : Strand) (ps : NMap Nat) :
    (s.sendMarks b k st ps).2.SameButSeq st ∧ (s.sendMarks b k st ps).1.launches = s.launches := by
  induction ps generalizing s st with
  | nil => exact ⟨.refl st, rfl⟩
  | cons p ps ih =>
    rw [State.sendMarks_cons]
    obtain ⟨⟨n, l, h1⟩, h2⟩ := ih (s.sendMark b k st p).1 (s.sendMark b k st p).2
    exact ⟨⟨n, l, h1⟩, h2⟩

theorem State.regionOf_sendMarks (s : State) (b k : Nat) (st : Strand) (ps : NMap Nat) :
    (s.sendMarks b k st ps).1.regionOf (s.sendMarks b k st ps).2.lid = s.regionOf st.lid := by
  obtain ⟨⟨n, l, h1⟩, h2⟩ := s.sendMarks_keeps b k st ps
  rw [h1]
  simp only [State.regionOf, State.launch, h2]

section
variable {s : State} {b k : Nat} {st : Strand}

theorem State.queued_sendMark_of_ne {p : Nat × Nat} {ix i e : Nat} (he : e < 16) (hix : p.1 / 256 = ix)
    (hne : p.1 ≠ pairKey ix i e) : ((s.sendMark b k st p).1.bent b).queued i e 0 = (s.bent b).queued i e 0 := by
  have hq (B : Bent) (c : Cell) (d : Side) (hc : c.cls = 0) :
      (B.enqueue (p.1 / 16 % 16) (p.1 % 16) c d).queued i e 0 = B.queued i e 0 := by
    have : voqKey i e 0 ≠ voqKey (p.1 / 16 % 16) (p.1 % 16) c.cls.toNat := by
      rw [hc]
      unfold voqKey pairKey at *
      have : (0 : BitVec 2).toNat = 0 := rfl
      omega
    simp [Bent.queued, Bent.sub, Bent.enqueue, this]
  exact State.bent_updBent_keeps (fun B => B.queued i e 0) s _ b fun B => hq B _ _ rfl

theorem State.queued_sendMarks_of_not_mem {ps : NMap Nat} {ix i e : Nat} (he : e < 16)
    (hix : ∀ p ∈ ps, p.1 / 256 = ix) (hne : pairKey ix i e ∉ ps.map Prod.fst) :
    ((s.sendMarks b k st ps).1.bent b).queued i e 0 = (s.bent b).queued i e 0 := by
  induction ps generalizing s st with
  | nil => rfl
  | cons p ps ih =>
    obtain ⟨hp, hps⟩ := List.forall_mem_cons.mp hix
    rw [List.map_cons, List.mem_cons, not_or] at hne
    rw [State.sendMarks_cons, ih hps hne.2, State.queued_sendMark_of_ne he hp (Ne.symm hne.1)]

/-- A marker sent to the strand's bent stands last in its queue. -/
theorem State.queued_sendMark {ix i e n : Nat} (hi : i < 16) (he : e < 16) (hb : (s.regionOf st.lid).getD ix 0 = b) :
    ((s.sendMark b k st (pairKey ix i e, n)).1.bent b).queued i e 0 =
      (s.bent b).queued i e 0 ++ [(st.marker b k (s.launch st.lid).ctx e n).seal] := by
  have h1 : pairKey ix i e / 256 = ix := by unfold pairKey; omega
  have h2 : pairKey ix i e / 16 % 16 = i := by unfold pairKey; omega
  have h3 : pairKey ix i e % 16 = e := by unfold pairKey; omega
  simp only [State.sendMark, h1, h2, h3, hb]
  rw [State.bent_updBent, if_pos rfl]
  exact Bent.queued_enqueue _ i e (st.marker b k (s.launch st.lid).ctx e n) _

/-- R172: of markers with keys of their own, each of the strand's bent stands once in its queue. -/
theorem State.queued_sendMarks {ps : NMap Nat} {ix i e n : Nat} (hn : (ps.map Prod.fst).Nodup) (hi : i < 16) (he : e < 16)
    (hix : ∀ k ∈ ps.map Prod.fst, k / 256 = ix) (hb : (s.regionOf st.lid).getD ix 0 = b)
    (h : NMap.get? ps (pairKey ix i e) = some n) :
    ∃ c : Cell, ((s.sendMarks b k st ps).1.bent b).queued i e 0 = (s.bent b).queued i e 0 ++ [c] ∧ c.rmk = true ∧
      c.arg = BitVec.ofNat 32 n ∧ c.dest = oneHot e ∧ c.round = st.round := by
  obtain ⟨l, m, rfl⟩ := List.append_of_mem (NMap.mem_of_get? h)
  have hix' (p) (hp : p ∈ l ++ (pairKey ix i e, n) :: m) : p.1 / 256 = ix := hix _ (List.mem_map_of_mem hp)
  rw [List.map_append, List.map_cons, List.nodup_middle, List.nodup_cons, List.mem_append, not_or] at hn
  obtain ⟨⟨hl, hm⟩, -⟩ := hn
  obtain ⟨q, w, hv⟩ := (s.sendMarks_keeps b k st l).1
  have hb' : ((s.sendMarks b k st l).1.regionOf (s.sendMarks b k st l).2.lid).getD ix 0 = b := by rw [State.regionOf_sendMarks, hb]
  rw [State.sendMarks_append, State.sendMarks_cons,
    State.queued_sendMarks_of_not_mem he (fun p hp => hix' p (List.mem_append_right _ (List.mem_cons_of_mem _ hp))) hm,
    State.queued_sendMark hi he hb',
    State.queued_sendMarks_of_not_mem he (fun p hp => hix' p (List.mem_append_left _ hp)) hl]
  refine ⟨_, rfl, rfl, rfl, rfl, ?_⟩
  rw [hv]
  rfl

end

/-! ### `rmark` -/

theorem State.floorOf_mem {s : State} {lid : Nat} {f : BitVec 16} (h : s.floorOf lid = some f) : f ∈ s.rounds lid := by
  have key (l : List (BitVec 16)) (m : Option (BitVec 16)) (f : BitVec 16)
      (h : l.foldl (fun m r => match m with | none => some r | some f => if roundBefore r f then some r else some f) m = some f) :
      m = some f ∨ f ∈ l := by
    induction l generalizing m with
    | nil => exact .inl h
    | cons r l ih =>
      obtain h | h := ih _ h
      · cases m with
        | none => exact .inr ((Option.some.inj h) ▸ List.mem_cons_self ..)
        | some g =>
          dsimp only at h
          split at h
          · exact .inr ((Option.some.inj h) ▸ List.mem_cons_self ..)
          · exact .inl h
      · exact .inr (List.mem_cons_of_mem _ h)
  exact (key _ none f h).resolve_left (by simp)

/-- R272: the next round of a strand that leaves every other's within reach. -/
theorem State.cleared_roundFloor {s : State} {b k : Nat} {st : Strand} (h : ∀ r ∈ s.rounds st.lid, (st.round + 1 - r).toNat < 32768) :
    s.cleared b k st .roundFloor = true := by
  simp only [State.cleared]
  split
  · rfl
  · next f hf => exact decide_eq_true (h f (State.floorOf_mem hf))

theorem State.closeRound_of_empty {s : State} {b k : Nat} {st : Strand} (h : st.ops = []) :
    s.closeRound b k st = .next (s.endRound b k st) := if_pos (by simp [State.cleared, h])

/-- What a strand is once its round has ended. -/
theorem State.strand?_endRound (s : State) (b k : Nat) (st : Strand) :
    (s.endRound b k st).strand? b k = some { st with round := st.round + 1, roundCells := [], marked := false }.next :=
  (State.strand?_setStrand ..).trans (if_pos ⟨rfl, rfl⟩)

theorem State.queued_endRound (s : State) (b k : Nat) (st : Strand) (c i e n : Nat) :
    ((s.endRound b k st).bent c).queued i e n = (s.bent c).queued i e n := by
  refine (State.bent_setStrand_keeps (fun B => B.queued i e n) ?_ ..).trans ?_
  · exact fun _ _ => rfl
  · rw [State.bent_updLaunch]

section
variable {s : State} {a : XReg} {b k : Nat} {st : Strand} (hi : s.Issues { rx := [a] } b k st)
include hi

theorem exec_rmark_of_mask (h : 65536 ≤ (st.rx a).toNat) : exec (.rmark a) s = .next (s.trap b k st 0x0001) :=
  (State.issue_of_issues hi _).trans (if_pos h)

/-- R172: what `rmark` does where nothing holds it. -/
theorem exec_rmark_of_free (h : (st.rx a).toNat < 65536) (hw : s.walkSending st = false) (hops : st.ops = [])
    (hr : ∀ r ∈ s.rounds st.lid, (st.round + 1 - r).toNat < 32768)
    (hroom : s.cleared b k st (markRoom (s.regionOf st.lid) (st.markPairs (s.bent b).index ((st.rx a).setWidth 16))) = true) :
    exec (.rmark a) s =
      if st.marked then .next (s.endRound b k st)
      else .next ((s.sendMarks b k st (st.markPairs (s.bent b).index ((st.rx a).setWidth 16))).1.endRound b k
        { (s.sendMarks b k st (st.markPairs (s.bent b).index ((st.rx a).setWidth 16))).2 with marked := true }) := by
  have hx : (st.rx a).extractLsb' 0 16 = (st.rx a).setWidth 16 := BitVec.eq_of_toNat_eq (by simp)
  refine (State.issue_of_issues hi _).trans ?_
  dsimp only
  rw [if_neg (Nat.not_le.mpr h), hx, State.closeRound_of_empty hops]
  split
  · rfl
  · rw [State.holdUntil, if_pos (by simp [State.cleared, hw]), State.holdUntil, if_pos (State.cleared_roundFloor hr), State.holdUntil,
      if_pos hroom]
    obtain ⟨n, l, hv⟩ := (s.sendMarks_keeps b k st (st.markPairs (s.bent b).index ((st.rx a).setWidth 16))).1
    refine State.closeRound_of_empty ?_
    rw [hv]
    exact hops

end

theorem strandIngresses_lt : ∀ i ∈ strandIngresses, i < 16 := by decide

theorem bitsOf_oneHot : ∀ n < 16, bitsOf (oneHot n) = [n] := by decide

theorem Strand.markPairs_eq (st : Strand) (ix : Nat) (mask : BitVec 16) : st.markPairs ix mask =
    (st.roundCells.map (fun p : Nat × Nat => (p.1 / 256, p.1 % 16)) ++
      (ix :: (st.roundCells.map (fun p : Nat × Nat => (p.1 / 256, p.1 % 16))).map Prod.fst).flatMap
        (fun j => (bitsOf mask).map (fun e => (j, e)))).foldl
        (fun m (x : Nat × Nat) => strandIngresses.foldl (markPair x.1 x.2) m) st.roundCells := rfl

/-- R172: a strand that has sent no cell marks the pairs of its mask. -/
theorem Strand.markPairs_of_none {st : Strand} (h : st.roundCells = []) (ix : Nat) {n : Nat} (hn : n < 16) :
    st.markPairs ix (oneHot n) = strandIngresses.foldl (markPair ix n) [] := by
  rw [Strand.markPairs_eq, h, bitsOf_oneHot n hn]
  simp only [List.map_nil, List.nil_append, List.flatMap_cons, List.flatMap_nil, List.map_cons, List.append_nil, List.foldl_cons,
    List.foldl_nil]

/-- R172: one that has sent cells on one pair, and marks with mask 0, marks that egress. -/
theorem Strand.markPairs_of_one {st : Strand} {ix i e n : Nat} (hi : i < 16) (he : e < 16) (h : st.roundCells = [(pairKey ix i e, n)]) :
    st.markPairs ix 0 = strandIngresses.foldl (markPair ix e) [(pairKey ix i e, n)] := by
  have h1 : pairKey ix i e / 256 = ix := by unfold pairKey; omega
  have h2 : pairKey ix i e % 16 = e := by unfold pairKey; omega
  rw [Strand.markPairs_eq, h, show bitsOf 0 = [] from by decide]
  simp only [List.map_cons, List.map_nil, h1, h2, List.flatMap_cons, List.flatMap_nil, List.append_nil, List.foldl_cons, List.foldl_nil]

/-! ### `mx.gang` and `sx.cfg` -/

theorem gangDesc_of_bad {x : Word} (h : 2 ^ 19 ≤ x.toNat ∨ x.toNat / 2 ^ 15 % 2 = 1 ∨ x.toNat / 2 ^ 16 % 8 < x.toNat / 2 ^ 12 % 8) :
    gangDesc x = none := if_pos (by omega)

theorem gangDesc_of_good {x : Word} (h1 : x.toNat < 2 ^ 19) (h2 : x.toNat / 2 ^ 15 % 2 = 0)
    (h3 : x.toNat / 2 ^ 12 % 8 ≤ x.toNat / 2 ^ 16 % 8) :
    gangDesc x = some ⟨x.toNat / 2 ^ 16 % 8 + 1, x.toNat / 2 ^ 12 % 8, x.toNat / 2 ^ 8 % 16, x.toNat % 256⟩ := if_neg (by omega)

/-- Entries of a list changed where a test names them. -/
theorem NMap.getD_foldl_modify {α : Type} (p : Nat → Bool) (d : α) (f : α → α) {l : List Nat} (hl : l.Nodup) (m : NMap α) (e : Nat) :
    NMap.getD (l.foldl (fun m e => if p e then NMap.modify m e d f else m) m) e d =
      if e ∈ l ∧ p e = true then f (NMap.getD m e d) else NMap.getD m e d := by
  induction l generalizing m with
  | nil => simp
  | cons j l ih =>
    obtain ⟨hj, hl⟩ := List.nodup_cons.mp hl
    rw [List.foldl_cons, ih hl]
    by_cases he : e = j
    · subst he
      cases p e <;> simp [hj]
    · cases hp : p j <;> simp [he]

/-- R179: the gangs after a descriptor. -/
theorem Bent.gang_setGang (B : Bent) (g : GangDesc) {e : Nat} (he : e < 4) : (NMap.getD (B.setGang g).mx e {}).gang =
    if g.named / 2 ^ e % 2 = 1 then (if g.mask = 0 then none else some (g.gid, g.size, g.pos)) else (NMap.getD B.mx e {}).gang := by
  have h := NMap.getD_foldl_modify (fun e => decide (g.named / 2 ^ e % 2 = 1)) ({} : Mx)
    (fun x => { x with gang := if g.mask = 0 then none else some (g.gid, g.size, g.pos) }) (List.nodup_range (n := 4)) B.mx e
  simp only [decide_eq_true_eq, List.mem_range, he, true_and] at h
  rw [Bent.setGang]
  refine (congrArg _ h).trans ?_
  split <;> rfl

theorem bit_three (x : Word) : bit x 3 = true ↔ x.toNat / 8 % 2 = 1 := by
  rw [bit, BitVec.getLsbD, Nat.testBit_eq_decide_div_mod_eq]
  simp

section
variable {s : State} {a d : XReg} {h : BitVec 8} {b k : Nat} {st : Strand}

section
variable (hi : s.Issues { rx := [a] } b k st)
include hi

theorem exec_mxGang_of_bad (h : gangDesc (st.rx a) = none) : exec (.mxGang a) s = .next (s.trap b k st 0x0001) := by
  refine (State.issue_of_issues hi _).trans ?_
  simp only [h]

theorem exec_mxGang_of_good {g : GangDesc} (h : gangDesc (st.rx a) = some g) : exec (.mxGang a) s =
    if (s.bent b).gangBusy g.named = false then .next ((s.updBent b (fun B => B.setGang g)).setStrand b k st.next)
    else .next (s.park b k st (.gangIdle g.named)) := by
  refine (State.issue_of_issues hi _).trans ?_
  simp only [h]
  rw [State.holdUntil]
  cases hb : (s.bent b).gangBusy g.named <;> simp [State.cleared, hb]

theorem exec_sxCfg_of_issues : exec (.sxCfg a) s =
    if (st.rx a).toNat / 2 ^ 10 ≠ 0 ∨ bit (st.rx a) 3 then .next (s.trap b k st 0x0001)
    else .next (s.setStrand b k ({ st with sxcfg := (st.rx a).setWidth 32 }).next) := by
  have hx : (st.rx a).extractLsb' 0 32 = (st.rx a).setWidth 32 := BitVec.eq_of_toNat_eq (by simp)
  rw [← hx]
  exact State.issue_of_issues hi _

/-! ### Incremental queues -/

variable (hops : st.ops = [])
include hops

theorem exec_iqPush_of_none (hq : NMap.get? (s.launch st.lid).queues h.toNat = none) :
    exec (.iqPush a h) s = .next (s.trap b k st 0x0006) := by
  refine (State.command_of_issues hi _ (by simp [hops])).trans (if_pos ?_)
  simp [NMap.has, hq]

variable {Q : IncQueue} (hq : NMap.get? (s.launch st.lid).queues h.toNat = some Q)
include hq

theorem exec_iqPush_of_reserved (hx : (st.rx a).toNat / 8 % 4 ≠ 0) : exec (.iqPush a h) s = .next (s.trap b k st 0x0001) := by
  refine (State.command_of_issues hi _ (by simp [hops])).trans ((if_neg ?_).trans (if_pos hx))
  simp [NMap.has, hq]

variable (hx : (st.rx a).toNat / 8 % 4 = 0)
include hx

theorem exec_iqPush_of_space (hs : ∀ off, spaceOf b (st.rx a &&& ~~~31) ≠ .own off) :
    exec (.iqPush a h) s = .next (s.trap b k st 0x0001) := by
  refine (State.command_of_issues hi _ (by simp [hops])).trans ((if_neg ?_).trans ((if_neg (not_not_intro hx)).trans ?_))
  · simp [NMap.has, hq]
  · cases e : spaceOf b (st.rx a &&& ~~~31) with
    | own off => exact absurd e (hs off)
    | _ => rfl

variable {off : Nat} (hs : spaceOf b (st.rx a &&& ~~~31) = .own off)
include hs

theorem exec_iqPush_of_crossing (hc : 256 < off % 256 + 32 * ((st.rx a).toNat % 8 + 1)) :
    exec (.iqPush a h) s = .next (s.trap b k st 0x0002) := by
  refine (State.command_of_issues hi _ (by simp [hops])).trans ((if_neg ?_).trans ((if_neg (not_not_intro hx)).trans ?_))
  · simp [NMap.has, hq]
  · simp only [hs]
    exact if_pos hc

variable (hc : off % 256 + 32 * ((st.rx a).toNat % 8 + 1) ≤ 256)
include hc

theorem exec_iqPush_of_map (hm : (s.launch st.lid).spadMap off = none) : exec (.iqPush a h) s = .next (s.trap b k st 0x0004) := by
  refine (State.command_of_issues hi _ (by simp [hops])).trans ((if_neg ?_).trans ((if_neg (not_not_intro hx)).trans ?_))
  · simp [NMap.has, hq]
  · simp only [hs, hm]
    exact if_neg (Nat.not_lt.mpr hc)

/-- R181: the cell that an `iq.push` sends. -/
def State.pushedCell (s : State) (b k : Nat) (st : Strand) (q n o : Nat) : Cell :=
  { s.pushCell b k st q n with
    payload := padTo 256 0 (stampRecords st.round (s.read (spadAddr b o) (32 * n)).1), poison := (s.read (spadAddr b o) (32 * n)).2 }

omit hi hops hq hx hs hc in
theorem firstEgress_pushCell (s : State) (b k : Nat) (st : Strand) (q n : Nat) :
    firstEgress (s.pushCell b k st q n).dest = if (s.launch st.lid).home q = b then 9 else 13 := by
  have h : ∀ e < 16, firstEgress (oneHot e) = e := by decide
  have : (s.pushCell b k st q n).dest = oneHot (if (s.launch st.lid).home q = b then 9 else egGS) := rfl
  rw [this, h]
  · rfl
  · split <;> decide

theorem exec_iqPush_of_sound {o : Nat} {bd : Option (Nat × Bool)} (hm : (s.launch st.lid).spadMap off = some (o, bd)) :
    ∃ side, exec (.iqPush a h) s =
      let n := (st.rx a).toNat % 8 + 1
      let c := s.pushedCell b k st h.toNat n o
      if (s.bent b).voqRoom (sillOf off) (firstEgress c.dest) c.cls.toNat then
        .next (((s.inflUp st.lid h.toNat n st.round).updBent b (fun B => B.enqueue (sillOf off) (firstEgress c.dest) c side)).setStrand
          b k (st.sent (s.bent b).index (sillOf off) c).next)
      else .next (s.park b k st (.queues [(b * 16 + sillOf off, firstEgress c.dest, c.cls.toNat)])) := by
  have hx' : exec (.iqPush a h) s = _ := State.command_of_issues hi _ (by simp [hops])
  have hsill : sillOf off < 16 := by unfold sillOf; omega
  dsimp only at hx'
  rw [if_neg (by simp [NMap.has, hq]), if_neg (not_not_intro hx), hs] at hx'
  dsimp only at hx'
  rw [if_neg (Nat.not_lt.mpr hc), hm] at hx'
  dsimp only [portSL] at hx'
  rw [State.holdAtoms, if_pos (by simp [State.cleared, Strand.crossing, hops]), State.holdUntil,
    if_pos (by simp [State.cleared, hops]), State.holdUntil, State.cleared_queues_one s b k st hsill] at hx'
  exact ⟨_, hx'⟩

end
end

/-! ### `iq.test` -/

section
variable {s : State} {d : XReg} {h : BitVec 8} {b k : Nat} {st : Strand} (hi : s.Issues { wx := [d] } b k st) (hops : st.ops = [])
include hi hops

theorem exec_iqTest_of_none (hq : NMap.get? (s.launch st.lid).queues h.toNat = none) :
    exec (.iqTest d h) s = .next (s.trap b k st 0x0006) := by
  refine (State.command_of_issues hi _ (by simp [hops])).trans (if_pos ?_)
  simp [NMap.has, hq]

/-- R182: `iq.test` returns the state of its queue. -/
theorem exec_iqTest_of_some {Q : IncQueue} (hq : NMap.get? (s.launch st.lid).queues h.toNat = some Q) :
    ∃ t, exec (.iqTest d h) s = .next t ∧ t.mem = s.mem ∧
      t.strand? b k = some (st.wx d (BitVec.ofNat 64 (s.iqState st.lid h.toNat))).next := by
  refine ⟨_, (State.command_of_issues hi _ (by simp [hops])).trans (if_neg ?_), ?_, (State.strand?_setStrand ..).trans (if_pos ⟨rfl, rfl⟩)⟩
  · simp [NMap.has, hq]
  · rw [State.setStrand_mem]
    split <;> simp

end

theorem State.iqState_of_some {s : State} {lid q : Nat} {Q : IncQueue} (hq : NMap.get? (s.launch lid).queues q = some Q) :
    s.iqState lid q = (Q.last.getD 0).toNat * 2 ^ 40 + min Q.infl (2 ^ 32 - 1) * 2 ^ 8 +
      (if s.roundComplete lid q (Q.last.getD 0) then 2 else 0) +
      (if s.roundComplete lid q (Q.last.getD 0) && Q.infl == 0 then 1 else 0) := by
  simp only [State.iqState, NMap.getD, hq, Option.getD_some]

end Sys2Proof.Machine

namespace Sys2Proof.Proofs

open Sys2Proof.Machine

/-- Settles O29: the engine commands by their descriptors, and `rmark` by the pairs that it marks. -/
theorem engineCommandsAndMarkers : Obligations.EngineCommandsAndMarkers := by
  refine ⟨fun s a d h b k st => ?_, fun s a b k st hi => ?_⟩
  · intro L B waits
    refine ⟨fun hi => ?_, fun hi hops => ⟨exec_iqTest_of_none hi hops, fun Q hq => ?_⟩⟩
    · intro x size pos mask named
      refine ⟨fun h => exec_mxGang_of_bad hi (gangDesc_of_bad h), fun h1 h2 h3 => ?_, fun h => ?_, fun h1 h2 => ?_, fun hops => ?_⟩
      · have hg := exec_mxGang_of_good hi (gangDesc_of_good h1 h2 h3)
        refine ⟨fun hb => ⟨_, hg.trans (if_neg (ne_false_of_eq_true hb))⟩, fun hb => ⟨_, hg.trans (if_pos hb), by simp,
          (State.strand?_setStrand ..).trans (if_pos ⟨rfl, rfl⟩), fun e he => ?_⟩⟩
        rw [State.bent_setStrand, if_pos rfl, State.bent_updBent, if_pos rfl]
        exact Bent.gang_setGang B _ he
      · refine (exec_sxCfg_of_issues hi).trans (if_pos ?_)
        rw [bit_three]
        omega
      · refine (exec_sxCfg_of_issues hi).trans (if_neg ?_)
        rw [bit_three]
        omega
      · refine ⟨exec_iqPush_of_none hi hops, fun Q hq => ⟨exec_iqPush_of_reserved hi hops hq, exec_iqPush_of_space hi hops hq,
          fun off hx hs => ⟨exec_iqPush_of_crossing hi hops hq hx hs, fun hc => ⟨exec_iqPush_of_map hi hops hq hx hs hc, ?_⟩⟩⟩⟩
        intro o bd hm home e n r
        obtain ⟨side, hx⟩ := exec_iqPush_of_sound hi hops hq hx hs hc hm
        have hdest : firstEgress (s.pushedCell b k st h.toNat (x % 8 + 1) o).dest = e := firstEgress_pushCell s b k st h.toNat (x % 8 + 1)
        refine ⟨fun hr => ⟨_, hx.trans (if_neg ?_)⟩, fun hr => ?_⟩
        · rw [hdest]
          exact ne_true_of_eq_false hr
        · refine ⟨_, _, (s.pushedCell b k st h.toNat (x % 8 + 1) o).seal, { Q with infl := Q.infl + (x % 8 + 1) },
            hx.trans (if_pos (by rw [hdest]; exact hr)), ?_,
            (State.strand?_setStrand ..).trans (if_pos ⟨rfl, rfl⟩), rfl, ⟨rfl, rfl, rfl, rfl, rfl⟩, ?_, rfl, rfl, rfl, rfl, rfl, rfl, rfl,
            rfl, rfl, ?_, rfl⟩
          · simp
          · rw [hdest]
            refine (State.bent_setStrand_keeps (fun B => B.queued (off / 256 % 8) e n) ?_ ..).trans ?_
            · exact fun _ _ => rfl
            · rw [State.bent_updBent, if_pos rfl, State.inflUp, State.bent_updLaunch]
              exact Bent.queued_enqueue ..
          · rw [State.launch_setStrand, State.launch_updBent, State.inflUp, hi.1.launch_updLaunch]
            have hq' : NMap.get? (s.launch st.lid).queues h.toNat = some Q := hq
            simp [Launch.logOp, NMap.modify, NMap.getD, hq', x]
    · have hx := exec_iqTest_of_some hi hops hq
      rwa [State.iqState_of_some hq] at hx
  · intro m B ix marks
    refine ⟨exec_rmark_of_mask hi, fun hlt hw hops hr hroom => ?_⟩
    have hx := exec_rmark_of_free hi hlt hw hops hr hroom
    cases hmark : st.marked with
    | true =>
      exact ⟨_, _, hx.trans (if_pos hmark), State.endRound_mem .., State.strand?_endRound .., ⟨rfl, rfl, rfl, rfl, rfl⟩, rfl, rfl, rfl,
        fun h => nomatch h⟩
    | false =>
      obtain ⟨q, l, hv⟩ := (s.sendMarks_keeps b k st (st.markPairs ix (m.setWidth 16))).1
      refine ⟨_, _, hx.trans (if_neg (by simp [hmark])), by simp, State.strand?_endRound .., ?_, ?_, ?_, rfl, fun _ hb => ⟨?_, ?_⟩⟩
      · rw [hv]
        exact ⟨rfl, rfl, rfl, rfl, rfl⟩
      · rw [hv]
        rfl
      · rw [hv]
        rfl
      · intro n h0 hm hn i hi'
        have hmask : m.setWidth 16 = oneHot n := by
          rw [hm, oneHot]
          exact BitVec.eq_of_toNat_eq (by simp)
        obtain ⟨h1, h2, h3, -⟩ := markPairs_spec (ix := ix) (e := n) strandIngresses [] (by simp) (by simp) strandIngresses_lt hn
        rw [← Strand.markPairs_of_none h0 ix hn, ← hmask] at h1 h2 h3
        simp only [marks, State.queued_endRound]
        exact State.queued_sendMarks h1 (strandIngresses_lt i hi') hn h2 hb (h3 i hi')
      · intro i e n hi' he h1 hm
        have hmask : m.setWidth 16 = 0 := by rw [hm]; rfl
        have hdiv : pairKey ix i e / 256 = ix := by unfold pairKey; omega
        obtain ⟨hn, hk, hnew, hold⟩ := markPairs_spec (ix := ix) (e := e) strandIngresses [(pairKey ix i e, n)] (by simp)
          (by simpa using hdiv) strandIngresses_lt he
        rw [← Strand.markPairs_of_one hi' he h1, ← hmask] at hn hk hnew hold
        simp only [marks, State.queued_endRound]
        refine ⟨State.queued_sendMarks hn hi' he hk hb (hold _ _ (by simp [NMap.get?])), fun j hj hne => ?_⟩
        have hother : pairKey ix i e ≠ pairKey ix j e := fun h => hne (pairKey_inj he he h).1.symm
        have := hnew j hj
        rw [NMap.getD, NMap.get?, if_neg hother] at this
        exact State.queued_sendMarks hn (strandIngresses_lt j hj) he hk hb this

end Sys2Proof.Proofs
end

section
/-! PROOFS. Request and dataflow channels (R183 to R185, R293, R295, R371). -/

open Sys2Proof

namespace Sys2Proof.Machine

/-! ### `chopen` -/

@[simp] theorem Chan.ownedBy_request (ob os t n used : Nat) (st : Strand) :
    (Chan.request ob os t n used).ownedBy st = true ↔ ob = st.ownerBent ∧ os = st.ownerSlot := by simp [Chan.ownedBy]

/-- R183: a channel of a launch set or closed, logged for rollback. -/
def Launch.putChan (L : Launch) (round : BitVec 16) (h : Nat) (o : Option Chan) : Launch := (L.setChan h o).logOp round (.chan h o)

theorem Launch.get?_putChan (L : Launch) (round : BitVec 16) (h : Nat) (o : Option Chan) :
    NMap.get? (L.putChan round h o).chans h = o := by
  cases o <;> simp [Launch.putChan, Launch.setChan, Launch.logOp]

section
variable {s : State} {a : XReg} {h : BitVec 8} {b k : Nat} {st : Strand} (hi : s.Issues { rx := [a] } b k st)
include hi

theorem exec_chopen_of_data {slots w : Nat} {es : List Elem} (hc : NMap.get? (s.launch st.lid).chans h.toNat = some (.data slots w es)) :
    exec (.chopen a h) s = .next (s.trap b k st 0x0001) := by
  refine (State.issue_of_issues hi _).trans ?_
  simp only [hc]

/-- R183: a descriptor with a reserved bit, too many slots or a target outside the region. -/
theorem exec_chopen_of_bad (hx : 2 ^ 12 ≤ (st.rx a).toNat ∨ 8 < (st.rx a).toNat / 2 ^ 8 % 16 ∨
    (st.rx a).toNat % 256 ∉ (s.launch st.lid).region) : exec (.chopen a h) s = .next (s.trap b k st 0x0001) := by
  have hbad : (st.rx a).toNat / 2 ^ 12 ≠ 0 ∨ 8 < (st.rx a).toNat / 2 ^ 8 % 16 ∨
      (s.launch st.lid).region.contains ((st.rx a).toNat % 256) = false := by
    rcases hx with h | h | h
    · exact .inl (by omega)
    · exact .inr (.inl h)
    · exact .inr (.inr (by simpa using h))
  refine (State.issue_of_issues hi _).trans ?_
  simp only [if_pos hbad]
  split <;> rfl

omit hi in
theorem chopen_not_bad (hx : (st.rx a).toNat < 2 ^ 12) (hn : (st.rx a).toNat / 2 ^ 8 % 16 ≤ 8)
    (hr : (st.rx a).toNat % 256 ∈ (s.launch st.lid).region) : ¬((st.rx a).toNat / 2 ^ 12 ≠ 0 ∨ 8 < (st.rx a).toNat / 2 ^ 8 % 16 ∨
    (s.launch st.lid).region.contains ((st.rx a).toNat % 256) = false) := by
  simp only [List.contains_eq_mem, hr, decide_true, Bool.true_eq_false, or_false]
  omega

variable (hx : (st.rx a).toNat < 2 ^ 12) (hn : (st.rx a).toNat / 2 ^ 8 % 16 ≤ 8) (hr : (st.rx a).toNat % 256 ∈ (s.launch st.lid).region)
include hx hn hr

/-- R183: a channel that is not open. -/
theorem exec_chopen_of_none (hc : NMap.get? (s.launch st.lid).chans h.toNat = none) : exec (.chopen a h) s =
    if (st.rx a).toNat / 2 ^ 8 % 16 = 0 then .next (s.trap b k st 0x0006)
    else if (st.rx a).toNat / 2 ^ 8 % 16 ≤ (s.bent ((st.rx a).toNat % 256)).pool then
      .next (((s.pool ((st.rx a).toNat % 256) (· - (st.rx a).toNat / 2 ^ 8 % 16)).updLaunch st.lid
        (fun L => L.putChan st.round h.toNat (some (.request st.ownerBent st.ownerSlot ((st.rx a).toNat % 256)
          ((st.rx a).toNat / 2 ^ 8 % 16) 0)))).setStrand b k st.next)
    else .next (s.park b k st (.slots ((st.rx a).toNat % 256) ((st.rx a).toNat / 2 ^ 8 % 16))) := by
  refine (State.issue_of_issues hi _).trans ?_
  simp only [hc, if_neg (chopen_not_bad hx hn hr)]
  split
  · rfl
  · rw [State.holdUntil]
    simp only [State.cleared, decide_eq_true_eq]
    rfl

/-- R183: a request channel that is open. -/
theorem exec_chopen_of_request {ob os t' n' used : Nat}
    (hc : NMap.get? (s.launch st.lid).chans h.toNat = some (.request ob os t' n' used)) : exec (.chopen a h) s =
    if (st.rx a).toNat / 2 ^ 8 % 16 ≠ 0 ∨ ob ≠ st.ownerBent ∨ os ≠ st.ownerSlot then .next (s.trap b k st 0x0001)
    else if used = 0 then
      .next (((s.pool t' (· + n')).updLaunch st.lid (fun L => L.putChan st.round h.toNat none)).setStrand b k st.next)
    else .next (s.park b k st (.channelIdle h.toNat)) := by
  have hown : (Chan.request ob os t' n' used).ownedBy st = false ↔ ob ≠ st.ownerBent ∨ os ≠ st.ownerSlot := by
    rw [← Bool.not_eq_true, Chan.ownedBy_request, not_and_or]
  refine (State.issue_of_issues hi _).trans ?_
  simp only [hc, if_neg (chopen_not_bad hx hn hr), hown]
  split
  · rfl
  · rw [State.holdUntil]
    simp only [State.cleared, hc, beq_iff_eq]
    rfl

end

/-- The pool of a bent, and a channel, as `chopen` leaves them. -/
theorem State.chopen_shows {s : State} {b k : Nat} {st : Strand} (hc : s.Current b k st) (c : Nat) (f : Nat → Nat) (h : Nat)
    (o : Option Chan) :
    let t := ((s.pool c f).updLaunch st.lid (fun L => L.putChan st.round h o)).setStrand b k st.next
    t.mem = s.mem ∧ t.strand? b k = some st.next ∧ (t.bent c).pool = f (s.bent c).pool ∧
      NMap.get? (t.launch st.lid).chans h = o := by
  intro t
  refine ⟨by simp [t, State.pool], (State.strand?_setStrand ..).trans (if_pos ⟨rfl, rfl⟩), ?_, ?_⟩
  · refine (State.bent_setStrand_keeps Bent.pool ?_ ..).trans ?_
    · exact fun _ _ => rfl
    · rw [State.bent_updLaunch, State.pool, State.bent_updBent, if_pos rfl]
  · rw [State.launch_setStrand, State.launch_updLaunch_of_launch? (by rw [State.pool, State.launch?_updBent]; exact hc.launch?)]
    exact Launch.get?_putChan ..

/-! ### `rld` and `rst` -/

section
variable {s : State} {st : Strand} {h : Nat} {x : Word}

theorem State.remoteCheck_of_none (hc : NMap.get? (s.launch st.lid).chans h = none) : s.remoteCheck st h x = .inl 0x0006 := by
  simp only [State.remoteCheck, hc]

theorem State.remoteCheck_of_data {slots w : Nat} {es : List Elem} (hc : NMap.get? (s.launch st.lid).chans h = some (.data slots w es)) :
    s.remoteCheck st h x = .inl 0x0001 := by simp only [State.remoteCheck, hc]

theorem State.remoteCheck_of_request {ob os t n used : Nat}
    (hc : NMap.get? (s.launch st.lid).chans h = some (.request ob os t n used)) : s.remoteCheck st h x =
    if ob ≠ st.ownerBent ∨ os ≠ st.ownerSlot ∨ 2 ^ 22 ≤ x.toNat then .inl 0x0001
    else if x.toNat % 8 ≠ 0 then .inl 0x0002
    else match (s.launch st.lid).spadMap x.toNat with
      | none => .inl 0x0004
      | some (o, _) => .inr (t, spadAddr t o) := by
  have : x.toNat / 2 ^ 22 ≠ 0 ↔ 2 ^ 22 ≤ x.toNat := by omega
  simp only [State.remoteCheck, hc, this] <;>
    cases (s.launch st.lid).spadMap x.toNat <;> rfl

end

/-- R184: the entry of `rld`, and of `rst`. -/
def State.rldOp (s : State) (b k : Nat) (st : Strand) (d : XReg) (h loc : Nat) : MemOp :=
  remoteOp s b k st h loc .rld (.x d .d) [] false
def State.rstOp (s : State) (b k : Nat) (st : Strand) (d : XReg) (h loc : Nat) : MemOp :=
  remoteOp s b k st h loc .rst .none (st.storeBytes d 8) (st.poisonX d)

section
variable {s : State} {a d : XReg} {h : BitVec 8} {b k : Nat} {st : Strand} (hops : st.ops = [])
include hops

/-- R184: a remote access whose channel has a place goes on its way; else it waits. -/
theorem exec_rld_of_check (hi : s.Issues { rx := [a], wx := [d] } b k st) : exec (.rld d a h) s =
    match s.remoteCheck st h.toNat (st.rx a) with
    | .inl c => .next (s.trap b k st c)
    | .inr (t, loc) => s.holdUntil b k st (.channelSlot h.toNat)
        (.next (s.sendRemote b k st h.toNat t loc false (s.rldOp b k st d h.toNat loc))) := by
  refine (State.command_of_issues hi _ (by simp [hops])).trans ?_
  cases s.remoteCheck st h.toNat (st.rx a) with
  | inl c => rfl
  | inr p => exact (State.withEntry_of_empty hops ..).trans (State.holdOverlap_of_empty hops ..)

theorem exec_rst_of_check (hi : s.Issues { rx := [a], dx := [d] } b k st) : exec (.rst d a h) s =
    match s.remoteCheck st h.toNat (st.rx a) with
    | .inl c => .next (s.trap b k st c)
    | .inr (t, loc) => s.holdUntil b k st (.channelSlot h.toNat)
        (.next (s.sendRemote b k st h.toNat t loc true (s.rstOp b k st d h.toNat loc))) := by
  refine (State.command_of_issues hi _ (by simp [hops])).trans ?_
  cases s.remoteCheck st h.toNat (st.rx a) with
  | inl c => rfl
  | inr p => exact (State.withEntry_of_empty hops ..).trans (State.holdOverlap_of_empty hops ..)

end

/-- R184: what a request sent leaves. -/
theorem State.sendRemote_shows {s : State} {b k : Nat} {st : Strand} (hc : s.Current b k st) (hops : st.ops = []) {h c n used : Nat}
    (hch : NMap.get? (s.launch st.lid).chans h = some (.request st.ownerBent st.ownerSlot c n used)) (loc : Nat) (write : Bool) (o : MemOp) :
    ∃ (v : Strand) (e : MemOp) (p : Packet), (s.sendRemote b k st h c loc write o).mem = s.mem ∧
      (s.sendRemote b k st h c loc write o).strand? b k = some v ∧ v.SameRegisters st ∧ v.pc = st.pc + 4 ∧ v.ops = [e] ∧
      e = { o with id := st.nextOp } ∧ (s.sendRemote b k st h c loc write o).packets = s.packets ++ [p] ∧ p.target = c ∧ p.off = loc ∧
      p.write = write ∧ p.data = o.data ∧ p.poison = o.dpois ∧ p.response = false ∧ p.opId = st.nextOp ∧
      NMap.get? ((s.sendRemote b k st h c loc write o).launch st.lid).chans h =
        some (.request st.ownerBent st.ownerSlot c n (used + 1)) := by
  refine ⟨(st.addOp o).next, { o with id := st.nextOp }, _, ?_, (State.strand?_setStrand ..).trans (if_pos ⟨rfl, rfl⟩),
    ⟨rfl, rfl, rfl, rfl, rfl⟩, rfl, Strand.ops_addOp_of_empty hops o, rfl, rfl, rfl, rfl, rfl, rfl, rfl, rfl, rfl, ?_⟩
  · simp [State.sendRemote]
  · have hl (t : State) (ps : List Packet) : ({ t with packets := ps } : State).launch st.lid = t.launch st.lid := rfl
    rw [State.sendRemote, hl, State.launch_setStrand, hc.launch_updLaunch, Launch.useSlot, hch]
    simp

/-! ### Requests and responses of the girt network -/

section
variable {s : State} {j : Nat} {p : Packet} (hj : s.packets[j]? = some p) (hfirst : s.packetFirst j p = true)
include hj hfirst

/-- R293: a read served at its target. -/
theorem exec_remoteRequest_read (hr : p.response = false) (hw : p.write = false) : exec (.remoteRequest j) s =
    .next { s with packets := s.packets.set j { p with response := true, data := (s.read p.off 8).1, poison := (s.read p.off 8).2 } } := by
  have hx : exec (.remoteRequest j) s = execRemoteRequest j s := rfl
  rw [hx, execRemoteRequest, hj]
  simp [hr, hw, hfirst]

/-- R293: a write served at its target. -/
theorem exec_remoteRequest_write (hr : p.response = false) (hw : p.write = true) : ∃ w, exec (.remoteRequest j) s =
    .next { s.write w p.off p.data p.poison with packets := s.packets.set j { p with response := true, data := [], poison := false } } := by
  have hx : exec (.remoteRequest j) s = execRemoteRequest j s := rfl
  rw [hx, execRemoteRequest, hj]
  simp only [hr, hw, hfirst, Bool.false_or, Bool.not_true, Bool.false_eq_true, ↓reduceIte]
  exact ⟨_, rfl⟩

/-- R293: a response of an operation of a current strand lands. -/
theorem exec_remoteResponse_read {b k : Nat} {st : Strand} {o : MemOp} (hr : p.response = true) (hw : p.write = false)
    (hown : s.findOwner p.lid p.bent p.slot = some (b, k)) (hst : s.strand? b k = some st) (hops : st.ops = [o]) (hid : o.id = p.opId) :
    ∃ h, exec (.remoteResponse j) s = .next ((({ s with packets := s.packets.eraseIdx j } : State).updLaunch p.lid
      (fun L => L.useSlot h (· - 1))).updOwner p.lid p.bent p.slot (fun st => (st.deliver o p.data p.poison).dropOp o.id)) := by
  have hx : exec (.remoteResponse j) s = execRemoteResponse j s := rfl
  have hop : s.packetOp p = some o := by simp [State.packetOp, hown, hst, hops, hid]
  rw [hx, execRemoteResponse, hj]
  simp only [hr, hw, hfirst, hop, Bool.not_true, Bool.or_self, Bool.false_eq_true, ↓reduceIte]
  exact ⟨_, rfl⟩

end

theorem Launch.useSlot_region (L : Launch) (h : Nat) (f : Nat → Nat) : (L.useSlot h f).region = L.region := by
  unfold Launch.useSlot
  split <;> rfl

/-- A change of a launch that keeps its region keeps every OWNER's place. -/
theorem State.findOwner_updLaunch (s : State) (l lid ob os : Nat) {f : Launch → Launch} (hf : ∀ L, (f L).region = L.region) :
    (s.updLaunch l f).findOwner lid ob os = s.findOwner lid ob os := by
  unfold State.findOwner State.regionOf
  rw [State.launch_updLaunch_keeps Launch.region s l lid hf]
  simp only [State.bent_updLaunch]

theorem State.updOwner_of_found {s : State} {lid ob os b k : Nat} {st : Strand} (hown : s.findOwner lid ob os = some (b, k))
    (hst : s.strand? b k = some st) (f : Strand → Strand) : s.updOwner lid ob os f = s.setStrand b k (f st) := by
  simp only [State.updOwner, hown, hst]

/-! ### What a write leaves of a launch -/

section
variable {α : Type} (p : Launch → α) (hu : ∀ L u, p { L with undo := u } = p L) (hr : ∀ L r, p { L with unrecoverable := r } = p L)
  (hw : ∀ L m c, p { L with lastWrites := m, syncs := c } = p L)
include hu hr

theorem Launch.recordUnits_keeps (s : State) (w : Writer) (us : List Nat) (L : Launch) : p (us.foldl (Launch.recordUnit s w) L) = p L := by
  induction us generalizing L with
  | nil => rfl
  | cons u us ih =>
    rw [List.foldl_cons, ih]
    unfold Launch.recordUnit
    dsimp only
    split
    · rfl
    · split
      · exact hr L _
      · exact hu L _

theorem State.launch?_recordUndo_keeps (s : State) (w : Writer) (a n lid : Nat) :
    ((s.recordUndo w a n).launch? lid).map p = (s.launch? lid).map p := by
  unfold State.recordUndo
  split
  · rfl
  · next L hL =>
    split
    · rfl
    · rw [State.launch?, State.setLaunch, NMap.get?_set]
      split
      · next e => rw [e, hL, Option.map_some, Option.map_some, Launch.recordUnits_keeps p hu hr]
      · rfl

include hw

/-- A write changes no launch but in its undo log and, where it is deterministic, in its last writes and synchronisations. -/
theorem State.launch?_write_keeps (s : State) (w : Writer) (a : Nat) (l : List Byte) (q : Bool) (lid : Nat) :
    ((s.write w a l q).launch? lid).map p = (s.launch? lid).map p := by
  rw [← State.launch?_recordUndo_keeps p hu hr s w a l.length lid]
  have hdet (t u : State) (h : u.launches = t.launches) (f : Launch → Launch)
      (hf : ∀ L, p (f L) = p L) : ((if (t.launch w.lid).det then u.setLaunch w.lid (f (t.launch w.lid)) else u).launch? lid).map p =
        (t.launch? lid).map p := by
    cases hd : (t.launch w.lid).det with
    | false => rw [if_neg (by decide), State.launch?, h]; rfl
    | true =>
      rw [if_pos rfl, State.launch?, State.setLaunch, NMap.get?_set]
      split
      · next e =>
        cases hl : t.launch? w.lid with
        | none => simp [State.launch_eq, hl] at hd
        | some L => rw [e, hl, Option.map_some, Option.map_some, hf, State.launch_of_launch? hl]
      · rw [h]; rfl
  have hw' := fun u h => hdet (s.recordUndo w a l.length) u h (fun L =>
    { L with lastWrites := writesAfter w L.lastWrites a l.length, syncs := L.overwrite w a l.length }) (fun L => hw L _ _)
  unfold State.write
  split
  · exact hw' _ rfl
  · exact hw' _ rfl

end

/-! ### `chsend` and `chrecv` -/

section
variable {s : State} {b h : Nat} {st : Strand} {x : Word}

theorem State.elementAt_of_none (hc : NMap.get? (s.launch st.lid).chans h = none) : s.elementAt b st h x = .inl 0x0006 := by
  simp only [State.elementAt, hc]

theorem State.elementAt_of_request {ob os t n used : Nat} (hc : NMap.get? (s.launch st.lid).chans h = some (.request ob os t n used)) :
    s.elementAt b st h x = .inl 0x0001 := by
  simp only [State.elementAt, hc]

variable {slots n : Nat} {es : List Elem} (hc : NMap.get? (s.launch st.lid).chans h = some (.data slots n es))
include hc

theorem State.elementAt_of_misaligned (ha : x.toNat % 32 ≠ 0) : s.elementAt b st h x = .inl 0x0002 := by
  simp only [State.elementAt, hc, if_pos ha]

variable (ha : x.toNat % 32 = 0)
include ha

theorem State.elementAt_of_foreign (ho : ∀ off, spaceOf b x ≠ .own off) : s.elementAt b st h x = .inl 0x0001 := by
  simp only [State.elementAt, hc, ha, ne_eq, not_true_eq_false, if_false]

theorem State.elementAt_of_own {off : Nat} (ho : spaceOf b x = .own off) : s.elementAt b st h x =
    if 256 < off % 256 + n then .inl 0x0001 else
      match (s.launch st.lid).spadMap off with
      | none => .inl 0x0004
      | some (o, _) => .inr (sillOf off, spadAddr b o, n) := by
  simp only [State.elementAt, hc, ha, ho, ne_eq, not_true_eq_false, if_false] <;>
    cases (s.launch st.lid).spadMap off <;> rfl

end

section
variable {s : State} {a : XReg} {h : BitVec 8} {b k : Nat} {st : Strand} (hi : s.Issues { rx := [a] } b k st) (hops : st.ops = [])
include hi hops

theorem exec_chsend_of_trap {c : BitVec 16} (he : s.elementAt b st h.toNat (st.rx a) = .inl c) :
    exec (.chsend a h) s = .next (s.trap b k st c) := by
  have hx : exec (.chsend a h) s = _ := State.command_of_issues hi _ (by simp [hops])
  rw [hx, he]

theorem exec_chrecv_of_trap {c : BitVec 16} (he : s.elementAt b st h.toNat (st.rx a) = .inl c) :
    exec (.chrecv a h) s = .next (s.trap b k st c) := by
  have hx : exec (.chrecv a h) s = _ := State.command_of_issues hi _ (by simp [hops])
  rw [hx, he]

variable {sill loc n : Nat} (he : s.elementAt b st h.toNat (st.rx a) = .inr (sill, loc, n))
include he

theorem exec_chsend_of_element (hout : s.cellsOut st = false) : exec (.chsend a h) s =
    s.holdUntil b k st (.elementSlot h.toNat) (.next ((s.updLaunch st.lid (fun L =>
      (L.sendElem b st h.toNat (s.read loc n)).logOp st.round (.sent h.toNat))).setStrand b k st.next)) := by
  have hx : exec (.chsend a h) s = _ := State.command_of_issues hi _ (by simp [hops])
  rw [hx, he]
  exact State.afterAll_of_empty hops hout ..

theorem exec_chrecv_of_empty (hf : (s.launch st.lid).firstElem h.toNat = none) :
    exec (.chrecv a h) s = .next (s.park b k st (.element h.toNat)) := by
  have hx : exec (.chrecv a h) s = _ := State.command_of_issues hi _ (by simp [hops])
  rw [hx, he]
  refine (State.holdOverlap_of_empty hops ..).trans ((State.holdSills_of_empty hops ..).trans ?_)
  rw [hf]

theorem exec_chrecv_of_element {e : Elem} (hf : (s.launch st.lid).firstElem h.toNat = some e) : exec (.chrecv a h) s =
    .next (((s.write (s.writer b k st) loc e.bytes e.poison).updLaunch st.lid (fun L =>
      { (L.updElems h.toNat (fun es => es.drop 1)).acquire (L.key st.ownerBent st.ownerSlot)
          (e.rel.learnt .region (L.key st.ownerBent st.ownerSlot) b) with
        nonReplayable := L.nonReplayable ++ [st.round] })).setStrand b k st.next) := by
  have hx : exec (.chrecv a h) s = _ := State.command_of_issues hi _ (by simp [hops])
  rw [hx, he]
  refine (State.holdOverlap_of_empty hops ..).trans ((State.holdSills_of_empty hops ..).trans ?_)
  rw [hf]

end

@[simp] theorem Launch.chans_tick (L : Launch) (a : Nat) : (L.tick a).chans = L.chans := by
  unfold Launch.tick
  split <;> rfl

@[simp] theorem Launch.chans_acquire (L : Launch) (key : Nat) (c : Clock) : (L.acquire key c).chans = L.chans := by
  unfold Launch.acquire
  split <;> rfl

theorem Launch.get?_updElems {L : Launch} {h slots n : Nat} {es : List Elem} (hc : NMap.get? L.chans h = some (.data slots n es))
    (f : List Elem → List Elem) : NMap.get? (L.updElems h f).chans h = some (.data slots n (f es)) := by
  simp only [Launch.updElems, hc, NMap.get?_set, if_true]

theorem Launch.firstElem_of_data {L : Launch} {h slots n : Nat} {es : List Elem}
    (hc : NMap.get? L.chans h = some (.data slots n es)) : L.firstElem h = es.head? := by
  cases es <;> simp [Launch.firstElem, hc]

theorem Launch.get?_sendElem {L : Launch} {h slots n : Nat} {es : List Elem}
    (hc : NMap.get? L.chans h = some (.data slots n es)) (b : Nat) (st : Strand) (v : List Byte × Bool) :
    ∃ e, NMap.get? (L.sendElem b st h v).chans h = some (.data slots n (es ++ [e])) ∧ (e.bytes, e.poison) = v := by
  let key := L.key st.ownerBent st.ownerSlot
  refine ⟨⟨v.1, v.2, ⟨key, b, .region, if L.det then L.clock key else {}, st.round⟩⟩, ?_, rfl⟩
  rw [Launch.sendElem, Launch.chans_tick]
  exact Launch.get?_updElems hc _

/-- R185: what an element sent leaves. -/
theorem State.sendElem_shows {s : State} {b k : Nat} {st : Strand} (hcur : s.Current b k st) {h slots n : Nat} {es : List Elem}
    (hc : NMap.get? (s.launch st.lid).chans h = some (.data slots n es)) (v : List Byte × Bool) :
    let t := (s.updLaunch st.lid (fun L => (L.sendElem b st h v).logOp st.round (.sent h))).setStrand b k st.next
    ∃ e, t.mem = s.mem ∧ t.strand? b k = some st.next ∧
      NMap.get? (t.launch st.lid).chans h = some (.data slots n (es ++ [e])) ∧ (e.bytes, e.poison) = v := by
  intro t
  obtain ⟨e, he, hv⟩ := Launch.get?_sendElem hc b st v
  refine ⟨e, by simp [t], (State.strand?_setStrand ..).trans (if_pos ⟨rfl, rfl⟩), ?_, hv⟩
  rw [State.launch_setStrand, hcur.launch_updLaunch]
  exact he

/-- R185: what an element taken leaves. -/
theorem State.takeElem_shows {s : State} {b k : Nat} {st : Strand} (hcur : s.Current b k st) (ho : s.Ordered)
    (hdet : (s.launch st.lid).det = false) {h slots n loc : Nat} {e : Elem} {es : List Elem} (key : Launch → Nat) (seen : Launch → Clock)
    (hc : NMap.get? (s.launch st.lid).chans h = some (.data slots n (e :: es))) :
    let t := ((s.write (s.writer b k st) loc e.bytes e.poison).updLaunch st.lid (fun L =>
      { (L.updElems h (fun es => es.drop 1)).acquire (key L) (seen L) with
        nonReplayable := L.nonReplayable ++ [st.round] })).setStrand b k st.next
    t.strand? b k = some st.next ∧ NMap.get? (t.launch st.lid).chans h = some (.data slots n es) ∧
      (∀ y, y < loc ∨ loc + e.bytes.length ≤ y → t.byte y = s.byte y) ∧
      ∀ i, i < e.bytes.length → t.byte (loc + i) = e.bytes.getD i 0 := by
  intro t
  have hb (y : Nat) : t.byte y = (s.write (s.writer b k st) loc e.bytes e.poison).byte y := by simp [t, State.byte]
  have hl := State.launch?_write_keeps Launch.chans (fun _ _ => rfl) (fun _ _ => rfl) (fun _ _ _ => rfl) s (s.writer b k st) loc
    e.bytes e.poison st.lid
  rw [hcur.launch?, Option.map_some, Option.map_eq_some_iff] at hl
  obtain ⟨L, hL, hchans⟩ := hl
  refine ⟨(State.strand?_setStrand ..).trans (if_pos ⟨rfl, rfl⟩), ?_, fun y hy => ?_, fun i hi => ?_⟩
  · rw [State.launch_setStrand, State.launch_updLaunch_of_launch? hL, Launch.chans_acquire]
    exact Launch.get?_updElems (hchans ▸ hc) _
  · rw [hb, State.write_byte_of_outside _ _ _ _ _ _ ho hy]
  · rw [hb, State.write_byte_inside _ _ _ _ _ _ ho hdet hi, List.getD_eq_getElem _ _ hi]

end Sys2Proof.Machine

namespace Sys2Proof.Proofs

open Sys2Proof.Machine

/-- R183: `chopen`. -/
theorem chopen_clauses (s : State) (a : XReg) (h : BitVec 8) (b k : Nat) (st : Strand) (hi : s.Issues { rx := [a] } b k st) :
    let L := s.launch st.lid
    let x := (st.rx a).toNat
    let n := x / 2 ^ 8 % 16
    let c := x % 256
    let traps (i : Instr) (e : BitVec 16) : Prop := exec i s = .next (s.trap b k st e)
    let waits (i : Instr) : Prop := ∃ w, exec i s = .next (s.setStrand b k { st with state := .waiting w })
    (2 ^ 12 ≤ x ∨ 8 < n ∨ c ∉ L.region → traps (.chopen a h) 0x0001) ∧
    (∀ slots w es, NMap.get? L.chans h.toNat = some (.data slots w es) → traps (.chopen a h) 0x0001) ∧
    (x < 2 ^ 12 → n ≤ 8 → c ∈ L.region →
      (NMap.get? L.chans h.toNat = none → n = 0 → traps (.chopen a h) 0x0006) ∧
      (NMap.get? L.chans h.toNat = none → n ≠ 0 →
        ((s.bent c).pool < n → waits (.chopen a h)) ∧
        (n ≤ (s.bent c).pool →
          ∃ t, exec (.chopen a h) s = .next t ∧ t.mem = s.mem ∧ t.strand? b k = some st.next ∧
            (t.bent c).pool = (s.bent c).pool - n ∧
            NMap.get? (t.launch st.lid).chans h.toNat = some (.request st.ownerBent st.ownerSlot c n 0))) ∧
      (∀ ob os t' n' used, NMap.get? L.chans h.toNat = some (.request ob os t' n' used) →
        (n ≠ 0 ∨ ob ≠ st.ownerBent ∨ os ≠ st.ownerSlot → traps (.chopen a h) 0x0001) ∧
        (n = 0 → ob = st.ownerBent → os = st.ownerSlot → used ≠ 0 → waits (.chopen a h)) ∧
        (n = 0 → ob = st.ownerBent → os = st.ownerSlot → used = 0 →
          ∃ t, exec (.chopen a h) s = .next t ∧ t.mem = s.mem ∧ t.strand? b k = some st.next ∧
            (t.bent t').pool = (s.bent t').pool + n' ∧ NMap.get? (t.launch st.lid).chans h.toNat = none))) := by
  intro L x n c traps waits
  refine ⟨exec_chopen_of_bad hi, fun _ _ _ hc => exec_chopen_of_data hi hc, fun hx hn hr => ⟨fun hc h0 => ?_, fun hc h0 => ⟨fun hp => ?_,
    fun hp => ?_⟩, fun ob os t' n' used hc => ⟨fun hne => ?_, fun h0 hb hs hu => ?_, fun h0 hb hs hu => ?_⟩⟩⟩
  · exact (exec_chopen_of_none hi hx hn hr hc).trans (if_pos h0)
  · exact ⟨_, (exec_chopen_of_none hi hx hn hr hc).trans ((if_neg h0).trans (if_neg (Nat.not_le.mpr hp)))⟩
  · refine ⟨_, (exec_chopen_of_none hi hx hn hr hc).trans ((if_neg h0).trans (if_pos hp)), ?_⟩
    exact State.chopen_shows hi.1 c (· - n) h.toNat _
  · exact (exec_chopen_of_request hi hx hn hr hc).trans (if_pos hne)
  · have hok : ¬(n ≠ 0 ∨ ob ≠ st.ownerBent ∨ os ≠ st.ownerSlot) := by simp [h0, hb, hs]
    exact ⟨_, (exec_chopen_of_request hi hx hn hr hc).trans ((if_neg hok).trans (if_neg hu))⟩
  · have hok : ¬(n ≠ 0 ∨ ob ≠ st.ownerBent ∨ os ≠ st.ownerSlot) := by simp [h0, hb, hs]
    refine ⟨_, (exec_chopen_of_request hi hx hn hr hc).trans ((if_neg hok).trans (if_pos hu)), ?_⟩
    exact State.chopen_shows hi.1 t' (· + n') h.toNat none

/-- R184: both remote accesses trap as their channel's check says, and wait for a place of it. -/
theorem exec_remote_of_check {s : State} {a d : XReg} {h : BitVec 8} {b k : Nat} {st : Strand} (hops : st.ops = [])
    (hi : s.Issues { rx := [a], wx := [d], dx := [d] } b k st) {i : Instr} (hm : i ∈ [Instr.rld d a h, .rst d a h]) :
    ∃ body : Nat → Nat → Out, exec i s = match s.remoteCheck st h.toNat (st.rx a) with
      | .inl e => .next (s.trap b k st e)
      | .inr (t, loc) => s.holdUntil b k st (.channelSlot h.toNat) (body t loc) := by
  simp only [List.mem_cons, List.not_mem_nil, or_false] at hm
  obtain rfl | rfl := hm
  · exact ⟨fun t loc => .next (s.sendRemote b k st h.toNat t loc false (s.rldOp b k st d h.toNat loc)),
      (exec_rld_of_check hops (hi.mono (by simp) (by simp) (by simp) (by simp) (by simp) (by simp))).trans
      (by cases s.remoteCheck st h.toNat (st.rx a) <;> rfl)⟩
  · exact ⟨fun t loc => .next (s.sendRemote b k st h.toNat t loc true (s.rstOp b k st d h.toNat loc)),
      (exec_rst_of_check hops (hi.mono (by simp) (by simp) (by simp) (by simp) (by simp) (by simp))).trans
      (by cases s.remoteCheck st h.toNat (st.rx a) <;> rfl)⟩

/-- R184: the causes of `rld` and `rst`, and their wait. -/
theorem remote_clauses (s : State) (a d : XReg) (h : BitVec 8) (b k : Nat) (st : Strand)
    (hi : s.Issues { rx := [a], wx := [d], dx := [d] } b k st) (hops : st.ops = []) (i : Instr) (hm : i ∈ [Instr.rld d a h, .rst d a h]) :
    let L := s.launch st.lid
    let x := (st.rx a).toNat
    let traps (i : Instr) (e : BitVec 16) : Prop := exec i s = .next (s.trap b k st e)
    let waits (i : Instr) : Prop := ∃ w, exec i s = .next (s.setStrand b k { st with state := .waiting w })
    (NMap.get? L.chans h.toNat = none → traps i 0x0006) ∧
    (∀ slots w es, NMap.get? L.chans h.toNat = some (.data slots w es) → traps i 0x0001) ∧
    (∀ ob os t n used, NMap.get? L.chans h.toNat = some (.request ob os t n used) →
      (ob ≠ st.ownerBent ∨ os ≠ st.ownerSlot ∨ 2 ^ 22 ≤ x → traps i 0x0001) ∧
      (ob = st.ownerBent → os = st.ownerSlot → x < 2 ^ 22 →
        (x % 8 ≠ 0 → traps i 0x0002) ∧
        (x % 8 = 0 → (L.spadMap x = none → traps i 0x0004) ∧ (L.spadMap x ≠ none → n ≤ used → waits i)))) := by
  intro L x traps waits
  obtain ⟨body, hx⟩ := exec_remote_of_check hops hi hm
  have hl {e : BitVec 16} (hc : s.remoteCheck st h.toNat (st.rx a) = .inl e) : traps i e := by rw [hc] at hx; exact hx
  refine ⟨fun hc => hl (State.remoteCheck_of_none hc), fun _ _ _ hc => hl (State.remoteCheck_of_data hc),
    fun ob os t n used hc => ⟨fun hb => ?_, fun hob hos hlt => ⟨fun ha => ?_, fun ha => ⟨fun hm => ?_, fun hm hu => ?_⟩⟩⟩⟩
  · exact hl ((State.remoteCheck_of_request hc).trans (if_pos hb))
  all_goals have hok : ¬(ob ≠ st.ownerBent ∨ os ≠ st.ownerSlot ∨ 2 ^ 22 ≤ (st.rx a).toNat) := by simp [hob, hos, x] at hlt ⊢; omega
  · exact hl ((State.remoteCheck_of_request hc).trans ((if_neg hok).trans (if_pos ha)))
  · refine hl ((State.remoteCheck_of_request hc).trans ((if_neg hok).trans ((if_neg (not_not.mpr ha)).trans ?_)))
    rw [show (s.launch st.lid).spadMap (st.rx a).toNat = none from hm]
  · obtain ⟨⟨o, bd⟩, hm⟩ := Option.ne_none_iff_exists'.mp hm
    have hr : s.remoteCheck st h.toNat (st.rx a) = .inr (t, spadAddr t o) := by
      refine (State.remoteCheck_of_request hc).trans ((if_neg hok).trans ((if_neg (not_not.mpr ha)).trans ?_))
      rw [show (s.launch st.lid).spadMap (st.rx a).toNat = _ from hm]
    rw [hr] at hx
    refine ⟨_, hx.trans (if_neg ?_)⟩
    have hc : NMap.get? (s.launch st.lid).chans h.toNat = _ := hc
    simp only [State.cleared, hc, decide_eq_true_eq]
    omega

/-- R184: a remote access whose channel has a place, sent. -/
theorem remote_went (s : State) (a d : XReg) (h : BitVec 8) (b k : Nat) (st : Strand) {c n used o : Nat}
    {bd : Option (Nat × Bool)}
    (hc : NMap.get? (s.launch st.lid).chans h.toNat = some (.request st.ownerBent st.ownerSlot c n used)) (hops : st.ops = [])
    (hx : (st.rx a).toNat < 2 ^ 22) (ha : (st.rx a).toNat % 8 = 0) (hm : (s.launch st.lid).spadMap (st.rx a).toNat = some (o, bd))
    (hu : used < n) :
    (s.Issues { rx := [a], wx := [d] } b k st → exec (.rld d a h) s =
      .next (s.sendRemote b k st h.toNat c (spadAddr c o) false (s.rldOp b k st d h.toNat (spadAddr c o)))) ∧
    (s.Issues { rx := [a], dx := [d] } b k st → exec (.rst d a h) s =
      .next (s.sendRemote b k st h.toNat c (spadAddr c o) true (s.rstOp b k st d h.toNat (spadAddr c o)))) := by
  have hok : ¬(st.ownerBent ≠ st.ownerBent ∨ st.ownerSlot ≠ st.ownerSlot ∨ 2 ^ 22 ≤ (st.rx a).toNat) := by simp; omega
  have hr : s.remoteCheck st h.toNat (st.rx a) = .inr (c, spadAddr c o) := by
    refine (State.remoteCheck_of_request hc).trans ((if_neg hok).trans ((if_neg (not_not.mpr ha)).trans ?_))
    rw [hm]
  have hcl : s.cleared b k st (.channelSlot h.toNat) = true := by simp only [State.cleared, hc, hu, decide_true]
  refine ⟨fun hi => (exec_rld_of_check hops hi).trans ?_, fun hi => (exec_rst_of_check hops hi).trans ?_⟩
  · rw [hr]; exact if_pos hcl
  · rw [hr]; exact if_pos hcl

theorem loadValue_d {l : List Byte} (h : l.length = 8) : loadValue .d l = BitVec.ofNat 64 (leNat l) := by
  rw [loadValue_of_bytes (by omega), extend_of_signed rfl]
  show (BitVec.ofInt 64 _).signExtend 64 = _
  rw [BitVec.signExtend_eq, BitVec.ofInt_natCast]

theorem Strand.poisonX_wxp {st : Strand} {d : XReg} (hd : d ≠ 0) (v : Word) (p : Bool) : (st.wxp d v p).poisonX d = p := by
  have hd : ¬d = 0#5 := hd
  simp [Strand.wxp, Strand.poisonX, hd]

/-- Where no launch is deterministic, none is under any number. -/
theorem State.launch_det_false {s : State} (h : ∀ M ∈ NMap.vals s.launches, M.det = false) (lid : Nat) : (s.launch lid).det = false := by
  rw [State.launch_eq]
  cases hl : s.launch? lid with
  | none => rfl
  | some L => exact h L (List.mem_map_of_mem (NMap.mem_of_get? hl))

/-- R184: the response of a read, as its strand sees it. -/
theorem State.response_lands {s : State} {j : Nat} {p : Packet} (hj : s.packets[j]? = some p) (hfirst : s.packetFirst j p = true)
    {b k : Nat} {st : Strand} {o : MemOp} {r : XReg} (hr : p.response = true) (hw : p.write = false) (hn : p.data.length = 8)
    (hown : s.findOwner p.lid p.bent p.slot = some (b, k)) (hst : s.strand? b k = some st) (hops : st.ops = [o]) (hid : o.id = p.opId)
    (hd : o.dest = .x r .d) (hp : o.preTrap = false) :
    ∃ t v, exec (.remoteResponse j) s = .next t ∧ t.mem = s.mem ∧ t.packets = s.packets.eraseIdx j ∧ t.strand? b k = some v ∧
      v.ops = [] ∧ (r ≠ 0 → v.rx r = BitVec.ofNat 64 (leNat p.data) ∧ v.poisonX r = p.poison) := by
  obtain ⟨h, hx⟩ := exec_remoteResponse_read hj hfirst hr hw hown hst hops hid
  rw [State.updOwner_of_found (b := b) (k := k) (st := st), Strand.deliver_x hd hp, loadValue_d hn] at hx
  · have hdrop (v : Word) (q : Bool) : (st.wxp r v q).dropOp o.id = { st.wxp r v q with ops := [] } :=
      Strand.dropOp_of_single ((Strand.wxp_ops ..).trans hops)
    rw [hdrop] at hx
    refine ⟨_, _, hx, by simp, ?_, (State.strand?_setStrand ..).trans (if_pos ⟨rfl, rfl⟩), rfl, fun h0 => ⟨?_, ?_⟩⟩
    · rw [State.setStrand, State.updBent_packets, State.updLaunch_packets]
    · exact (Strand.rx_wxp st r _ _).trans (if_neg h0)
    · exact Strand.poisonX_wxp h0 _ _
  · refine (State.findOwner_updLaunch _ _ _ _ _ ?_).trans hown
    exact fun L => Launch.useSlot_region L _ _
  · exact (State.strand?_updLaunch ..).trans hst

/-- R293: a write served at its target, as memory sees it. -/
theorem State.request_writes {s : State} {j : Nat} {p : Packet} (hj : s.packets[j]? = some p) (hfirst : s.packetFirst j p = true)
    (hr : p.response = false) (hw : p.write = true) (hn : p.data.length = 8) (ho : s.Ordered)
    (hdet : ∀ M ∈ NMap.vals s.launches, M.det = false) :
    ∃ t q, exec (.remoteRequest j) s = .next t ∧ t.packets[j]? = some q ∧ q.response = true ∧
      (∀ y, y < p.off ∨ p.off + 8 ≤ y → t.byte y = s.byte y) ∧ ∀ i, i < 8 → t.byte (p.off + i) = p.data.getD i 0 := by
  obtain ⟨w, hx⟩ := exec_remoteRequest_write hj hfirst hr hw
  have hlt : j < s.packets.length := (List.getElem?_eq_some_iff.mp hj).1
  refine ⟨_, _, hx, List.getElem?_set_self hlt, rfl, fun y hy => ?_, fun i hi => ?_⟩
  · exact State.write_byte_of_outside _ _ _ _ _ _ ho (hn ▸ hy)
  · rw [List.getD_eq_getElem _ _ (hn ▸ hi)]
    exact State.write_byte_inside s w p.off p.data p.poison i ho (State.launch_det_false hdet _) (hn ▸ hi)

/-- R185: the causes of `chsend` and `chrecv`, and what they do to the elements. -/
theorem dataflow_clauses (s : State) (a : XReg) (h : BitVec 8) (b k : Nat) (st : Strand) (hi : s.Issues { rx := [a] } b k st)
    (hops : st.ops = []) {slots n : Nat} {es : List Elem}
    (hc : NMap.get? (s.launch st.lid).chans h.toNat = some (.data slots n es)) {off o : Nat} {bd : Option (Nat × Bool)}
    (ha : (st.rx a).toNat % 32 = 0) (hs : spaceOf b (st.rx a) = .own off) (hn : off % 256 + n ≤ 256)
    (hm : (s.launch st.lid).spadMap off = some (o, bd)) :
    let waits (i : Instr) : Prop := ∃ w, exec i s = .next (s.setStrand b k { st with state := .waiting w })
    (s.cellsOut st = false → slots ≤ es.length → waits (.chsend a h)) ∧
    (s.cellsOut st = false → es.length < slots →
      ∃ t e, exec (.chsend a h) s = .next t ∧ t.mem = s.mem ∧ t.strand? b k = some st.next ∧
        NMap.get? (t.launch st.lid).chans h.toNat = some (.data slots n (es ++ [e])) ∧
        (e.bytes, e.poison) = s.read (spadAddr b o) n) ∧
    (es = [] → waits (.chrecv a h)) ∧
    (∀ e rest, es = e :: rest → s.Ordered → (s.launch st.lid).det = false →
      ∃ t, exec (.chrecv a h) s = .next t ∧ t.strand? b k = some st.next ∧
        NMap.get? (t.launch st.lid).chans h.toNat = some (.data slots n rest) ∧
        (∀ y, y < spadAddr b o ∨ spadAddr b o + e.bytes.length ≤ y → t.byte y = s.byte y) ∧
        ∀ i, i < e.bytes.length → t.byte (spadAddr b o + i) = e.bytes.getD i 0) := by
  intro waits
  have he : s.elementAt b st h.toNat (st.rx a) = .inr (sillOf off, spadAddr b o, n) := by
    refine (State.elementAt_of_own hc ha hs).trans ((if_neg (by omega)).trans ?_)
    rw [hm]
  have hcl : s.cleared b k st (.elementSlot h.toNat) = decide (es.length < slots) := by simp only [State.cleared, hc]
  refine ⟨fun hout hfull => ⟨_, (exec_chsend_of_element hi hops he hout).trans (if_neg (by simpa [hcl] using hfull))⟩,
    fun hout hroom => ?_, fun hnil => ⟨_, exec_chrecv_of_empty hi hops he (by rw [Launch.firstElem_of_data hc, hnil]; rfl)⟩,
    fun e rest hes ho hdet => ?_⟩
  · obtain ⟨e, hsh⟩ := State.sendElem_shows hi.1 hc (s.read (spadAddr b o) n)
    exact ⟨_, e, (exec_chsend_of_element hi hops he hout).trans (if_pos (by simpa [hcl] using hroom)), hsh⟩
  · subst hes
    exact ⟨_, exec_chrecv_of_element hi hops he (Launch.firstElem_of_data hc), State.takeElem_shows hi.1 ho hdet _ _ hc⟩

/-- Settles O30: per instruction the equation of its branches, and what the state it leaves shows. -/
theorem channels : Obligations.Channels := by
  refine ⟨fun s a d h b k st => ?_, fun s a h b k st hi hops => ?_⟩
  · intro L x n c traps waits
    refine ⟨chopen_clauses s a h b k st, ⟨remote_clauses s a d h b k st, ?_⟩⟩
    constructor
    · intro c n used o bd hc hops hx ha hm hu went
      obtain ⟨h1, h2⟩ := remote_went s a d h b k st hc hops hx ha hm hu
      refine ⟨fun hi => ?_, fun hi => ?_⟩
      · obtain ⟨v, e, p, hmem, hv, hreg, hpc, hops', rfl, hp⟩ := State.sendRemote_shows hi.1 hops hc (spadAddr c o) false
          (s.rldOp b k st d h.toNat (spadAddr c o))
        exact ⟨_, v, _, p, h1 hi, hmem, hv, hreg, hpc, hops', rfl, rfl, rfl, hp⟩
      · obtain ⟨v, e, p, hmem, hv, hreg, hpc, hops', rfl, hp⟩ := State.sendRemote_shows hi.1 hops hc (spadAddr c o) true
          (s.rstOp b k st d h.toNat (spadAddr c o))
        exact ⟨_, v, _, p, h2 hi, hmem, hv, hreg, hpc, hops', rfl, rfl, rfl, hp⟩
    · intro j p hj hf
      refine ⟨fun hr hw => ⟨_, _, exec_remoteRequest_read hj hf hr hw, rfl,
        List.getElem?_set_self (List.getElem?_eq_some_iff.mp hj).1, rfl, rfl⟩, State.request_writes hj hf, ?_⟩
      intro o r hr hw hn hl hb hs hown hst hops hid hd hp
      exact State.response_lands hj hf hr hw hn (by rw [hl, hb, hs]; exact hown) hst hops hid hd hp
  · intro L traps waits
    have hl {e : BitVec 16} (he : s.elementAt b st h.toNat (st.rx a) = .inl e) : traps e :=
      ⟨exec_chsend_of_trap hi hops he, exec_chrecv_of_trap hi hops he⟩
    refine ⟨fun hc => hl (State.elementAt_of_none hc), fun _ _ _ _ _ hc => hl (State.elementAt_of_request hc),
      fun slots n es hc => ⟨fun ha => hl (State.elementAt_of_misaligned hc ha), fun ha => ⟨fun hs => hl (State.elementAt_of_foreign hc ha hs),
      fun off hs => ⟨fun hn => hl ((State.elementAt_of_own hc ha hs).trans
          (if_pos hn)), fun hn => ⟨fun hm => ?_, fun o bd hm => ?_⟩⟩⟩⟩⟩
    · refine hl ((State.elementAt_of_own hc ha hs).trans ((if_neg (by omega)).trans ?_))
      rw [show (s.launch st.lid).spadMap off = none from hm]
    · exact dataflow_clauses s a h b k st hi hops hc ha hs hn hm

end Sys2Proof.Proofs

end

section
/-! PROOFS. `scarf.wait` behind an acquire (R139). -/

open Sys2Proof

namespace Sys2Proof.Machine

/-- An entry of an acquire in flight, of a load into x5. -/
def acquireEntry : MemOp :=
  { id := 0, kind := .load, path := .sill 0, loc := 0, size := 8, dest := .x 5 .d, scope := .bent, acq := true }

/-- A strand with that acquire in flight. -/
def acquiringStrand : Strand := { ops := [acquireEntry] }

/-- R139: its `scarf.wait` waits for the acquire, whatever buffers its launch declares. -/
theorem exec_scarfWait_behind_acquire : exec (.scarfWait 1 0) (Tests.sys acquiringStrand) =
    .next ((Tests.sys acquiringStrand).setStrand 0 0 { acquiringStrand with state := .waiting .acquire }) := by
  have hi : (Tests.sys acquiringStrand).Issues { wx := [1] } 0 0 acquiringStrand := Tests.issues_at (by decide)
  unfold exec execScarfWait
  exact State.command_of_acquire hi _ ⟨acquireEntry, List.mem_singleton_self _, rfl⟩ rfl

end Sys2Proof.Machine

namespace Sys2Proof.Proofs

open Sys2Proof.Machine

/-- Refutes O31: with an acquire of its strand in flight a `scarf.wait` that names an undeclared buffer waits (R139), where the
statement, which supposes of this strand only that the register is free, has it trap with 0x0006. -/
theorem not_scarfCollectives : ¬ Obligations.ScarfCollectives := by
  intro h
  have hi : (Tests.sys acquiringStrand).Issues { wx := [1] } 0 0 acquiringStrand := Tests.issues_at (by decide)
  obtain ⟨-, -, -, hw⟩ := h.1 (Tests.sys acquiringStrand) 0 1 0 0 0 acquiringStrand default
  have ht := exec_scarfWait_behind_acquire.symm.trans ((hw hi).1 rfl)
  have hs := congrArg (fun t => (State.strand? t 0 0).map Strand.state) (Host.Outcome.next.inj ht)
  exact absurd hs (by decide)

end Sys2Proof.Proofs

end

section
/-! PROOFS. Registers of a tenon after a write (R69, R70), an op-word at issue (R70 to R72), and element-wise op-words over registers
(R206 to R209). -/

open Sys2Proof

namespace Sys2Proof.Machine

/-! ### The registers of a tenon -/

@[simp] theorem State.tenon_setTenon (s : State) (b t c q : Nat) (T : Tenon) :
    (s.setTenon b t T).tenon c q = if c = b ∧ q = t then T else s.tenon c q := by
  simp only [State.tenon, State.setTenon, State.bent_updBent]
  by_cases hc : c = b
  · subst hc
    simp
  · simp [hc]

theorem Tenon.reg_of_set {T : Tenon} {v : NMap VReg} {d : Nat} {x : VReg} (h : T.v = NMap.set v d x) (c : Nat) :
    T.reg c = if c = d then x else { T with v := v }.reg c := by
  by_cases hc : c = d
  · simp only [Tenon.reg, h, NMap.get?_set, if_pos hc]
  · simp only [Tenon.reg, h, NMap.get?_set, if_neg hc]

/-- R69: the registers after a shift of the last-result file. -/
theorem Tenon.reg_shift (T : Tenon) (x : VReg) (c : Nat) :
    (T.shift x).reg c = if c = 72 then x else if c = 73 then T.reg 72 else T.reg c := by
  rw [Tenon.reg_of_set (T := T.shift x) rfl]
  refine if_congr Iff.rfl rfl ?_
  rw [Tenon.reg_of_set (T := { T.shift x with v := NMap.set T.v codeL1 (T.reg codeL0) }) rfl]
  rfl

/-- R69: the registers after a result written. -/
theorem Tenon.reg_put (T : Tenon) (d : Nat) (x : VReg) (c : Nat) : (T.put d x).reg c =
    if c = d then x else if d = 73 then T.reg c else if c = 72 then x else if c = 73 then T.reg 72 else T.reg c := by
  unfold Tenon.put
  split
  · next h =>
    have h : d = 73 := h
    rw [Tenon.reg_of_set (T := { T with v := NMap.set T.v codeL1 x }) rfl, if_pos h]
    subst h
    rfl
  · next h =>
    have h : d ≠ 73 := h
    rw [if_neg h]
    split
    · next h0 =>
      have h0 : d = 72 := h0
      subst h0
      rw [Tenon.reg_shift]
      split <;> rfl
    · rw [Tenon.reg_of_set (T := { T.shift x with v := NMap.set (T.shift x).v d x }) rfl]
      refine if_congr Iff.rfl rfl ?_
      exact Tenon.reg_shift T x c

theorem Tenon.reg_hollow (T : Tenon) (d c : Nat) : (T.hollow d).reg c = if c = d then { T.reg d with full := false } else T.reg c :=
  Tenon.reg_of_set (T := T.hollow d) rfl c

@[simp] theorem Tenon.tiles_shift (T : Tenon) (x : VReg) : (T.shift x).tiles = T.tiles := rfl
@[simp] theorem Tenon.routines_shift (T : Tenon) (x : VReg) : (T.shift x).routines = T.routines := rfl
@[simp] theorem Tenon.nextLong_shift (T : Tenon) (x : VReg) : (T.shift x).nextLong = T.nextLong := rfl

@[simp] theorem Tenon.tiles_put (T : Tenon) (d : Nat) (x : VReg) : (T.put d x).tiles = T.tiles := by
  unfold Tenon.put
  dsimp only
  split
  · rfl
  · split <;> rfl

@[simp] theorem Tenon.routines_put (T : Tenon) (d : Nat) (x : VReg) : (T.put d x).routines = T.routines := by
  unfold Tenon.put
  dsimp only
  split
  · rfl
  · split <;> rfl

/-- R69, R70: the registers after a long-latency op-word has issued on a register. -/
theorem Tenon.reg_putLong {T : Tenon} {d : Nat} (hd : isTile d = false) (r : Nat) (x : VReg) (e : Option (List FVal)) (c : Nat) :
    (T.putLong d r x e true).reg c = (T.put d { T.reg d with full := false }).reg c := by
  have hr : (T.putLong d r x e true).reg c = ((if d = 73 then T else T.shift { T.reg d with full := false }).hollow d).reg c := by
    simp only [Tenon.putLong, hd, Tenon.empty, codeL1, Bool.true_eq_false, or_false, Bool.false_eq_true, if_false]
    rfl
  rw [hr, Tenon.reg_hollow, Tenon.reg_put]
  split
  · split
    · rfl
    · rw [Tenon.reg_shift]
      split <;> rfl
  · split
    · rfl
    · rw [Tenon.reg_shift]

theorem Tenon.putLong_keeps {T : Tenon} {d : Nat} (hd : isTile d = false) (r : Nat) (x : VReg) (e : Option (List FVal)) (row : Bool) :
    (T.putLong d r x e row).tiles = T.tiles ∧ (T.putLong d r x e row).routines = T.routines := by
  simp only [Tenon.putLong, hd, Tenon.empty, Bool.false_eq_true, if_false]
  split <;> exact ⟨rfl, rfl⟩

/-- R70: a long-latency op-word holds its result until it completes. -/
theorem Tenon.mem_longs_putLong (T : Tenon) (d r : Nat) (x : VReg) (e : Option (List FVal)) (row : Bool) :
    ⟨T.nextLong, r, d, x, e, row && d != 73, d == 73⟩ ∈ (T.putLong d r x e row).longs := by
  have hid (U : Tenon) : (U.empty d).nextLong = U.nextLong := by
    unfold Tenon.empty
    split <;> rfl
  have hT : (if d = 73 ∨ row = false then T
      else T.shift { T.reg (if isTile d then codeL0 else d) with full := false }).nextLong = T.nextLong := by
    split <;> rfl
  rw [← hT, ← hid]
  exact List.mem_append_right _ (List.mem_singleton_self _)

/-! ### Op-words at issue -/

theorem Tenon.sources_of_full {T : Tenon} {l : List (VCode × Bool)} (h : ∀ c ∈ l.map Prod.fst, T.full c.toNat = true) :
    T.sources l = .ok := by
  induction l with
  | nil => rfl
  | cons p l ih =>
    obtain ⟨c, m⟩ := p
    rw [Tenon.sources, if_pos (h c (by simp))]
    exact ih fun c hc => h c (by simp only [List.map_cons, List.mem_cons]; exact .inr hc)

/-- R70 to R72: an op-word whose operands are there is executed. -/
theorem State.opword_of_issues {s : State} {b t r : Nat} {R : Routine} {srcs : List (VCode × Bool)} {d : Option VCode}
    (hi : s.OpIssues b t r R srcs d) (again : Tenon → Bool) (body : Nat → Nat → Nat → Tenon → Routine → Out) :
    s.opword srcs d again body = body b t r (s.tenon b t) R := by
  obtain ⟨hc, hR, hh, hcc, hconf, hfull⟩ := hi
  have hno : ((srcs.map Prod.fst ++ d.toList).map BitVec.toNat).any
      (fun c => isTile c && !((s.tenon b t).tile c).configured) = false := by
    rw [List.any_eq_false]
    intro n hn
    obtain ⟨c, hc, rfl⟩ := List.mem_map.mp hn
    have := hconf c hc
    cases ht : isTile c.toNat <;> simp_all
  have hsrc : (s.tenon b t).sources srcs = .ok := Tenon.sources_of_full fun c hc => hfull c (List.mem_append_left _ hc)
  simp only [State.opword, State.routine, hc, hR, hh, hcc, hno, hsrc]
  cases d with
  | none => simp
  | some d => simp [hfull d (by simp)]

/-! ### Element-wise op-words -/

/-- Each element-wise op-word is `State.ew` of its issue data and its operation. -/
theorem exec_elementForm {o : VFields} {p : VForm} (hp : p ∈ elementForms o) (s : State) : exec p.1 s = s.ew p.2.1 o.d p.2.2 := by
  revert p
  simp only [elementForms, List.forall_mem_cons, List.not_mem_nil, false_imp_iff, implies_true, and_true]
  exact ⟨rfl, rfl, rfl, rfl, rfl, rfl, rfl, rfl, rfl, rfl, rfl, rfl, rfl, rfl, rfl, rfl, rfl, rfl, rfl, rfl, rfl, rfl, rfl, rfl, rfl, rfl,
    rfl, rfl, rfl, rfl⟩

theorem tilesOf_of_registers {l : List Nat} (h : ∀ c ∈ l, isTile c = false) : tilesOf l = [] := by
  have : l.filter isTile = [] := List.filter_eq_nil_iff.mpr fun c hc => by simp [h c hc]
  rw [tilesOf, this]
  rfl

section
variable {w : Ew} {T : Tenon} {d : Nat} (h : ∀ c ∈ d :: w.srcs.map (fun p => p.1.toNat), isTile c = false)
include h

theorem Ew.form_of_registers : w.form d = .none := by
  have hd := h d (by simp)
  have ha := h w.a.toNat (by simp [Ew.srcs])
  cases hb : w.b with
  | none => simp [Ew.form, hd, ha, hb]
  | some p => simp [Ew.form, hd, ha, hb, h p.1.toNat (by simp [Ew.srcs, hb])]

theorem Ew.tilesOk_of_registers : w.tilesOk T (tilesOf (d :: w.srcs.map (fun p => p.1.toNat))) = true := by
  rw [tilesOf_of_registers h]
  rfl

theorem Ew.poisoned_of_registers : w.srcs.any (fun p => T.poisoned p.1.toNat) = w.srcs.any (fun p => (T.reg p.1.toNat).poison) := by
  have hp : ∀ p ∈ w.srcs, T.poisoned p.1.toNat = (T.reg p.1.toNat).poison := by
    intro p hp
    rw [Tenon.poisoned, h p.1.toNat (List.mem_cons_of_mem _ (List.mem_map_of_mem (f := fun p => p.1.toNat) hp))]
    rfl
  rw [Bool.eq_iff_iff, List.any_eq_true, List.any_eq_true]
  exact exists_congr fun p => and_congr_right fun hm => by rw [hp p hm]

end

/-- R204, R206: an element-wise op-word over registers: what it computes, and where its result goes. -/
theorem State.ew_of_registers {s : State} {w : Ew} {d : VCode} {run : Mode → List FVal → List FVal → List FVal → List VEl}
    {b t r : Nat} {R : Routine} (hi : s.OpIssues b t r R w.srcs (some d)) (h : ∀ c ∈ d :: w.srcs.map Prod.fst, isTile c.toNat = false) :
    let T := s.tenon b t
    let row := w.row (run (R.mode w.rtz)) T (fun _ => 0) 64
    let x : VReg :=
      { lanes := padTo 64 FVal.zero (ofElems w.ty row.els), full := true, poison := w.srcs.any (fun q => (T.reg q.1.toNat).poison) }
    s.ew w d run = match (if R.checks then w.fail R [row] else none) with
      | some f => .next (s.vxFail b t r R w.opc f)
      | none => .next (s.vxDone b t r (if w.long then T.putLong d.toNat r x none true else T.put d.toNat x) R) := by
  intro T row x
  have hreg : ∀ c ∈ d.toNat :: w.srcs.map (fun p => p.1.toNat), isTile c = false := by
    intro c hc
    have hmap : d.toNat :: w.srcs.map (fun p => p.1.toNat) = (d :: w.srcs.map Prod.fst).map BitVec.toNat := by simp
    rw [hmap] at hc
    obtain ⟨e, he, rfl⟩ := List.mem_map.mp hc
    exact h e he
  rw [State.ew, State.opword_of_issues hi]
  simp only [Ew.form_of_registers hreg, Ew.tilesOk_of_registers hreg, Ew.poisoned_of_registers hreg]
  cases (if R.checks then w.fail R [row] else none) <;> rfl

/-- R69: what a state shows whose routine has written a register. -/
theorem State.wrote_vxDone {s : State} {b t r : Nat} {T : Tenon} {R : Routine} {d : Nat} {x : VReg}
    (hreg : ∀ c, T.reg c = ((s.tenon b t).put d x).reg c) (htiles : T.tiles = (s.tenon b t).tiles)
    (hrs : T.routines = (s.tenon b t).routines) : s.Wrote (s.vxDone b t r T R) b t r d x R.next := by
  have hT : (s.vxDone b t r T R).tenon b t = T.setRoutine r R.next := by simp [State.vxDone]
  have hr (c : Nat) : ((s.vxDone b t r T R).tenon b t).reg c = ((s.tenon b t).put d x).reg c := by
    rw [hT, ← hreg c]; rfl
  simp only [State.Wrote, hr, Tenon.reg_put]
  refine ⟨by simp, by simp, ?_, ?_, ?_, ?_, ?_, ?_⟩
  · rw [hT]; exact htiles
  · grind
  · grind
  · grind
  · rw [hT]; simp [Tenon.setRoutine]
  · intro q hq
    rw [hT]
    simp [Tenon.setRoutine, hq, hrs]

end Sys2Proof.Machine

namespace Sys2Proof.Proofs

open Sys2Proof.Machine

/-- Settles O32: the element-wise op-words are `State.ew`, whose result goes to its register at once or when it completes. -/
theorem vxElementwise : Obligations.VxElementwise := by
  intro o s b tn r R p hp w T row x hi hregs
  have hx : exec p.1 s = _ := (exec_elementForm hp s).trans (State.ew_of_registers hi hregs)
  refine ⟨fun f hc hf => ?_, fun hok => ?_⟩
  · rw [hx, if_pos hc, hf]
  · have hnone : (if R.checks then w.fail R [row] else none) = none := by
      rcases hok with h | h
      · rw [h]; rfl
      · rw [h]; exact ite_self _
    replace hx : exec p.1 s = .next (s.vxDone b tn r (if w.long then T.putLong o.d.toNat r x none true else T.put o.d.toNat x) R) := by
      rw [hx, hnone]
    have hd : isTile o.d.toNat = false := hregs _ (by simp)
    refine ⟨fun hl => ?_, fun hl => ?_⟩
    · rw [if_neg (by simp [hl])] at hx
      exact ⟨_, hx, State.wrote_vxDone (fun _ => rfl) (Tenon.tiles_put ..) (Tenon.routines_put ..)⟩
    · rw [if_pos hl] at hx
      obtain ⟨ht, hr⟩ := Tenon.putLong_keeps (T := T) hd r x none true
      have hu : ((s.vxDone b tn r (T.putLong o.d.toNat r x none true) R).tenon b tn).longs = (T.putLong o.d.toNat r x none true).longs := by
        simp [State.vxDone, Tenon.setRoutine]
      have h73 : (o.d == 73) = (o.d.toNat == 73) := by
        rw [Bool.eq_iff_iff, beq_iff_eq, beq_iff_eq]
        exact ⟨fun h => h ▸ rfl, fun h => BitVec.eq_of_toNat_eq h⟩
      refine ⟨_, _, hx, State.wrote_vxDone (Tenon.reg_putLong hd r x none) ht hr, hu ▸ Tenon.mem_longs_putLong T o.d.toNat r x none true,
        rfl, rfl, rfl, rfl, rfl, congrArg not h73.symm, h73.symm⟩

end Sys2Proof.Proofs

end

section
/-! PROOFS. Element-wise op-words with tile operands (R204). -/

open Sys2Proof

namespace Sys2Proof.Machine

/-! ### The tiles of a tenon -/

theorem Tenon.tile_setTile {c d : Nat} (hc : isTile c = true) (hd : isTile d = true) (T : Tenon) (X : Tile) :
    (T.setTile d X).tile c = if c = d then X else T.tile c := by
  simp only [isTile, Bool.and_eq_true, decide_eq_true_eq] at hc hd
  simp only [Tenon.tile, Tenon.setTile, NMap.getD_set]
  exact if_congr (by omega) rfl rfl

@[simp] theorem Tenon.reg_setTile (T : Tenon) (d : Nat) (X : Tile) (c : Nat) : (T.setTile d X).reg c = T.reg c := rfl
@[simp] theorem Tenon.routines_setTile (T : Tenon) (d : Nat) (X : Tile) : (T.setTile d X).routines = T.routines := rfl
@[simp] theorem Tenon.longs_setTile (T : Tenon) (d : Nat) (X : Tile) : (T.setTile d X).longs = T.longs := rfl
@[simp] theorem Tenon.nextLong_setTile (T : Tenon) (d : Nat) (X : Tile) : (T.setTile d X).nextLong = T.nextLong := rfl
@[simp] theorem Tenon.tile_shift (T : Tenon) (x : VReg) (c : Nat) : (T.shift x).tile c = T.tile c := rfl

theorem Tenon.tile_put (T : Tenon) (d : Nat) (x : VReg) (c : Nat) : (T.put d x).tile c = T.tile c := by
  simp only [Tenon.tile, Tenon.tiles_put]

/-! ### A tile result -/

section
variable {T : Tenon} {d : Nat} (hd : isTile d = true) (r : Nat) (x : VReg) (elems : List FVal) (wcur : Nat) (long row : Bool)
include hd

theorem isTile_ne_l1 : d ≠ 73 := by
  rintro rfl
  exact absurd hd (by decide)

theorem Tenon.tile_putTile_self : (T.putTile d r x elems wcur long row).tile d =
    { T.tile d with
      live := true, poison := (T.tile d).poison || x.poison, wcur := wcur, full := !long
      elems := if long then (T.tile d).elems else elems } := by
  have hs (U : Tenon) (X : Tile) : (U.setTile d X).tile d = X := by rw [Tenon.tile_setTile hd hd, if_pos rfl]
  cases long with
  | false => exact hs _ _
  | true =>
    simp only [Tenon.putTile, Tenon.putLong, Tenon.empty, if_pos hd, if_true]
    refine (hs _ _).trans ?_
    split
    · rw [hs]; rfl
    · rw [Tenon.tile_shift, hs]; rfl

theorem Tenon.tile_putTile_of_ne {c : Nat} (hc : isTile c = true) (hne : c ≠ d) :
    (T.putTile d r x elems wcur long row).tile c = T.tile c := by
  have hs (U : Tenon) (X : Tile) : (U.setTile d X).tile c = U.tile c := by rw [Tenon.tile_setTile hc hd, if_neg hne]
  cases long with
  | false =>
    refine (hs _ _).trans ?_
    split <;> rfl
  | true =>
    simp only [Tenon.putTile, Tenon.putLong, Tenon.empty, if_pos hd, if_true]
    refine (hs _ _).trans ?_
    split
    · exact hs _ _
    · exact hs _ _

/-- R69: only a row is a lane vector for the last-result file. -/
theorem Tenon.reg_putTile {c : Nat} (hc : row = false ∨ c ≠ 72 ∧ c ≠ 73) : (T.putTile d r x elems wcur long row).reg c = T.reg c := by
  have hsh (U : Tenon) (y : VReg) (h : c ≠ 72 ∧ c ≠ 73) : (U.shift y).reg c = U.reg c := by
    rw [Tenon.reg_shift, if_neg h.1, if_neg h.2]
  cases long with
  | false =>
    cases row with
    | false => rfl
    | true => exact hsh _ _ (hc.resolve_left (by decide))
  | true =>
    simp only [Tenon.putTile, Tenon.putLong, Tenon.empty, if_pos hd, if_true]
    cases row with
    | false => rw [if_pos (.inr rfl)]; rfl
    | true =>
      rw [if_neg (by simp only [codeL1, isTile_ne_l1 hd, Bool.true_eq_false, or_self, not_false_iff])]
      exact hsh _ _ (hc.resolve_left (by decide))

omit hd in
theorem Tenon.mem_longs_putTile : ∃ e ∈ (T.putTile d r x elems wcur true row).longs, e.dst = d ∧ e.elems = some elems :=
  ⟨_, Tenon.mem_longs_putLong _ d r x (some elems) row, rfl, rfl⟩

end

/-! ### The tiles that an op-word names -/

/-- A number added to a list that does not have it. -/
def addNew (t : List Nat) (c : Nat) : List Nat := if t.contains c then t else t ++ [c]

theorem tilesOf_eq (l : List Nat) : tilesOf l = (l.filter isTile).foldl addNew [] := rfl

theorem foldl_addNew_nodup (l t : List Nat) (h : t.Nodup) : (l.foldl addNew t).Nodup := by
  induction l generalizing t with
  | nil => exact h
  | cons c l ih =>
    refine ih _ ?_
    unfold addNew
    split
    · exact h
    · next hc =>
      refine List.nodup_append.mpr ⟨h, List.nodup_singleton c, ?_⟩
      simp only [List.mem_singleton]
      rintro a ha b rfl rfl
      exact hc (List.contains_iff_mem.mpr ha)

theorem mem_foldl_addNew {l t : List Nat} {c : Nat} (h : c ∈ l.foldl addNew t) : c ∈ t ∨ c ∈ l := by
  induction l generalizing t with
  | nil => exact .inl h
  | cons d l ih =>
    rcases ih h with h | h
    · unfold addNew at h
      split at h
      · exact .inl h
      · rcases List.mem_append.mp h with h | h
        · exact .inl h
        · exact .inr (List.mem_cons.mpr (.inl (List.mem_singleton.mp h)))
    · exact .inr (List.mem_cons_of_mem _ h)

theorem tilesOf_nodup (l : List Nat) : (tilesOf l).Nodup := foldl_addNew_nodup _ _ List.nodup_nil

theorem isTile_of_mem_tilesOf {l : List Nat} {c : Nat} (h : c ∈ tilesOf l) : isTile c = true := by
  rw [tilesOf_eq] at h
  exact (List.mem_filter.mp ((mem_foldl_addNew h).resolve_left List.not_mem_nil)).2

/-- R204: the read cursors of tiles, each named once, move on. -/
theorem Tenon.tile_readOn {ts : List Nat} (hn : ts.Nodup) (ht : ∀ c ∈ ts, isTile c = true) (T : Tenon) {c : Nat}
    (hc : isTile c = true) : (ts.foldl (fun T c => T.setTile c (T.tile c).readOn) T).tile c =
      if c ∈ ts then (T.tile c).readOn else T.tile c := by
  induction ts generalizing T with
  | nil => rfl
  | cons d ts ih =>
    obtain ⟨hd, hn⟩ := List.nodup_cons.mp hn
    rw [List.foldl_cons, ih hn fun c hc => ht c (List.mem_cons_of_mem _ hc), Tenon.tile_setTile hc (ht d (by simp))]
    by_cases hcd : c = d
    · subst hcd
      simp [hd]
    · simp [hcd]

theorem Tenon.readOn_keeps (ts : List Nat) (T : Tenon) (c : Nat) :
    (ts.foldl (fun T c => T.setTile c (T.tile c).readOn) T).reg c = T.reg c ∧
      (ts.foldl (fun T c => T.setTile c (T.tile c).readOn) T).routines = T.routines := by
  induction ts generalizing T with
  | nil => exact ⟨rfl, rfl⟩
  | cons d ts ih => exact ih (T.setTile d (T.tile d).readOn)

theorem Tile.elems_readOn (X : Tile) : X.readOn.elems = X.elems := by
  unfold Tile.readOn
  split <;> rfl

/-! ### The op-word -/

section
variable {s : State} {w : Ew} {d : VCode} {run : Mode → List FVal → List FVal → List FVal → List VEl} {b t r : Nat} {R : Routine}
  (hi : s.OpIssues b t r R w.srcs (some d))
include hi

/-- R204: tiles of other shapes or types. -/
theorem State.ew_of_badTiles (hb : w.tilesOk (s.tenon b t) (tilesOf (d.toNat :: w.srcs.map (fun q => q.1.toNat))) = false) :
    s.ew w d run = .next (s.vxEnd b t r R 0x0001) := by
  rw [State.ew, State.opword_of_issues hi]
  simp only [hb, Bool.not_false, if_true]

variable (hok : w.tilesOk (s.tenon b t) (tilesOf (d.toNat :: w.srcs.map (fun q => q.1.toNat))) = true)
include hok

/-- R204: a tile source and a tile destination. -/
theorem State.ew_whole (hf : w.form d.toNat = .whole) :
    let T := s.tenon b t
    let X := T.tile d.toNat
    let m := R.mode w.rtz
    let rows := (List.range X.rows).map (fun i => w.row (run m) T (fun _ => i) X.cols)
    (R.checks = false ∨ w.fail R rows = none) → ∃ x, s.ew w d run =
      .next (s.vxDone b t r (T.putTile d.toNat r x (X.putRows m 0 rows) X.wcur w.long false) R) := by
  intro T X m rows hno
  have hnone : (if R.checks then w.fail R rows else none) = none := by
    rcases hno with h | h
    · rw [h]; rfl
    · rw [h]; exact ite_self _
  rw [State.ew, State.opword_of_issues hi]
  simp only [T, X, m, rows] at hnone
  simp only [hok, hf, hnone, Bool.not_true, Bool.false_eq_true, if_false]
  exact ⟨_, rfl⟩

/-- R204: a tile destination alone. -/
theorem State.ew_rowWrite (hf : w.form d.toNat = .rowWrite) :
    let T := s.tenon b t
    let X := T.tile d.toNat
    let m := R.mode w.rtz
    let row := w.row (run m) T (fun _ => X.wcur) X.cols
    (R.checks = false ∨ w.fail R [row] = none) → ∃ x, s.ew w d run = .next (s.vxDone b t r (T.putTile d.toNat r x
      (X.putRow X.wcur ((ofElems .f32 row.els).map (tileWrite X.fmt m))) (X.writeOn 1) w.long true) R) := by
  intro T X m row hno
  have hnone : (if R.checks then w.fail R [row] else none) = none := by
    rcases hno with h | h
    · rw [h]; rfl
    · rw [h]; exact ite_self _
  rw [State.ew, State.opword_of_issues hi]
  simp only [T, X, m, row] at hnone
  simp only [hok, hf, hnone, Bool.not_true, Bool.false_eq_true, if_false]
  exact ⟨_, rfl⟩

/-- R204: a tile source alone. -/
theorem State.ew_rowRead (hf : w.form d.toNat = .rowRead) :
    let T := s.tenon b t
    let m := R.mode w.rtz
    let row := w.row (run m) T (fun c => (T.tile c).rcur) 64
    let ts := tilesOf (d.toNat :: w.srcs.map (fun q => q.1.toNat))
    let U := ts.foldl (fun T c => T.setTile c (T.tile c).readOn) T
    (R.checks = false ∨ w.fail R [row] = none) → ∃ x : VReg, x.lanes = padTo 64 FVal.zero (ofElems w.ty row.els) ∧ x.full = true ∧
      s.ew w d run = .next (s.vxDone b t r (if w.long then U.putLong d.toNat r x none true else U.put d.toNat x) R) := by
  intro T m row ts U hno
  have hnone : (if R.checks then w.fail R [row] else none) = none := by
    rcases hno with h | h
    · rw [h]; rfl
    · rw [h]; exact ite_self _
  rw [State.ew, State.opword_of_issues hi]
  simp only [T, m, row] at hnone
  simp only [hok, hf, hnone, Bool.not_true, Bool.false_eq_true, if_false]
  exact ⟨_, rfl, rfl, rfl⟩

end

theorem State.tenon_vxDone (s : State) (b t r : Nat) (T : Tenon) (R : Routine) : (s.vxDone b t r T R).tenon b t = T.setRoutine r R.next := by
  simp [State.vxDone]

@[simp] theorem Tenon.reg_setRoutine (T : Tenon) (r : Nat) (R : Routine) (c : Nat) : (T.setRoutine r R).reg c = T.reg c := rfl
@[simp] theorem Tenon.tile_setRoutine (T : Tenon) (r : Nat) (R : Routine) (c : Nat) : (T.setRoutine r R).tile c = T.tile c := rfl
@[simp] theorem Tenon.longs_setRoutine (T : Tenon) (r : Nat) (R : Routine) : (T.setRoutine r R).longs = T.longs := rfl
@[simp] theorem Tenon.full_setRoutine (T : Tenon) (r : Nat) (R : Routine) (c : Nat) : (T.setRoutine r R).full c = T.full c := rfl
@[simp] theorem Tenon.get?_setRoutine (T : Tenon) (r : Nat) (R : Routine) : NMap.get? (T.setRoutine r R).routines r = some R := by
  simp [Tenon.setRoutine]

/-- R204: how an op-word meets its tiles, by whether its destination and a source are tiles. -/
def tileForm (dst src : Bool) : TileForm := if dst then (if src then .whole else .rowWrite) else if src then .rowRead else .none

theorem Ew.form_eq (w : Ew) (d : Nat) : ∃ src, w.form d = tileForm (isTile d) src := ⟨_, rfl⟩

theorem Ew.isTile_of_form {w : Ew} {d : Nat} (h : w.form d = .whole ∨ w.form d = .rowWrite) : isTile d = true := by
  obtain ⟨src, he⟩ := w.form_eq d
  rw [he] at h
  revert h
  cases isTile d <;> cases src <;> decide

theorem Ew.isTile_of_rowRead {w : Ew} {d : Nat} (h : w.form d = .rowRead) : isTile d = false := by
  obtain ⟨src, he⟩ := w.form_eq d
  rw [he] at h
  revert h
  cases isTile d <;> cases src <;> decide

theorem Tenon.full_of_tile {T : Tenon} {d : Nat} (hd : isTile d = true) : T.full d = (T.tile d).full := if_pos hd

theorem Tenon.tile_putLong {T : Tenon} {d : Nat} (hd : isTile d = false) (r : Nat) (x : VReg) (e : Option (List FVal)) (row : Bool)
    (c : Nat) : (T.putLong d r x e row).tile c = T.tile c := by
  simp only [Tenon.tile, (Tenon.putLong_keeps hd r x e row).1]

end Sys2Proof.Machine

namespace Sys2Proof.Proofs

open Sys2Proof.Machine

/-- Settles O33: by how the op-word meets its tiles; `Tenon.putTile` writes the tile, `Tenon.put` the register, and the read cursors
of its source tiles move on. -/
theorem vxTileForms : Obligations.VxTileForms := by
  intro o s b tn r R p hp w T m d X ts at_ same hi
  have hx := exec_elementForm hp s
  refine ⟨fun hb => hx.trans (State.ew_of_badTiles hi hb), fun hok => ⟨?_, ?_, ?_⟩⟩
  · intro hf rows hno
    obtain ⟨x, he⟩ := State.ew_whole hi hok hf hno
    have hd : isTile d = true := Ew.isTile_of_form (.inl hf)
    refine ⟨_, hx.trans he, ?_, ?_⟩
    · refine ⟨by simp, ?_, fun c hc hne => ?_, fun c _ _ _ => ?_⟩ <;> rw [State.tenon_vxDone]
      · exact Tenon.get?_setRoutine ..
      · rw [Tenon.tile_setRoutine, Tenon.tile_putTile_of_ne hd _ _ _ _ _ _ hc hne]
      · exact Tenon.reg_putTile hd _ _ _ _ _ _ (.inl rfl)
    · rw [State.tenon_vxDone, Tenon.full_of_tile hd, Tenon.tile_setRoutine, Tenon.tile_putTile_self hd]
      refine ⟨rfl, rfl, fun hl => if_neg (by simp [hl]), fun hl => ⟨if_pos hl, ?_⟩⟩
      rw [hl]
      exact Tenon.mem_longs_putTile ..
  · intro hf row hno
    obtain ⟨x, he⟩ := State.ew_rowWrite hi hok hf hno
    have hd : isTile d = true := Ew.isTile_of_form (.inr hf)
    refine ⟨_, hx.trans he, ?_, ?_⟩
    · refine ⟨by simp, ?_, fun c hc hne => ?_, fun c _ _ hc => ?_⟩ <;> rw [State.tenon_vxDone]
      · exact Tenon.get?_setRoutine ..
      · rw [Tenon.tile_setRoutine, Tenon.tile_putTile_of_ne hd _ _ _ _ _ _ hc hne]
      · exact Tenon.reg_putTile hd _ _ _ _ _ _ (.inr (hc.resolve_left (by rw [hf]; decide)))
    · rw [State.tenon_vxDone, Tenon.full_of_tile hd, Tenon.tile_setRoutine, Tenon.tile_putTile_self hd]
      exact ⟨rfl, rfl, fun hl => if_neg (by simp [hl])⟩
  · intro hf row hno
    obtain ⟨x, hl, hfull, he⟩ := State.ew_rowRead hi hok hf hno
    have hd : isTile d = false := Ew.isTile_of_rowRead hf
    let U := ts.foldl (fun T c => T.setTile c (T.tile c).readOn) T
    have hU (c : Nat) (hc : isTile c = true) : U.tile c = if c ∈ ts then (T.tile c).readOn else T.tile c :=
      Tenon.tile_readOn (tilesOf_nodup _) (fun _ => isTile_of_mem_tilesOf) T hc
    have htile (c : Nat) : (if w.long then U.putLong d r x none true else U.put d x).tile c = U.tile c := by
      split
      · exact Tenon.tile_putLong hd ..
      · exact Tenon.tile_put ..
    have hreg (c : Nat) : (if w.long then U.putLong d r x none true else U.put d x).reg c =
        (U.put d (if w.long then { T.reg d with full := false } else x)).reg c := by
      split
      · rw [Tenon.reg_putLong hd, (Tenon.readOn_keeps ts T d).1]
      · rfl
    refine ⟨_, hx.trans he, ?_, ?_⟩
    · refine ⟨by simp, ?_, fun c hc hne => ?_, fun c _ hne hc => ?_⟩ <;> rw [State.tenon_vxDone]
      · exact Tenon.get?_setRoutine ..
      · rw [Tenon.tile_setRoutine]
        refine (congrArg Tile.elems ((htile c).trans (hU c hc))).trans ?_
        split
        · exact Tile.elems_readOn _
        · rfl
      · have hc := hc.resolve_left (by rw [hf]; decide)
        refine (hreg c).trans ?_
        rw [Tenon.reg_put, if_neg hne, if_neg hc.1, if_neg hc.2, ite_self, (Tenon.readOn_keeps ts T c).1]
    · rw [State.tenon_vxDone]
      have hself : (if w.long then U.putLong d r x none true else U.put d x).reg d =
          if w.long then { T.reg d with full := false } else x := (hreg d).trans (by rw [Tenon.reg_put, if_pos rfl])
      refine ⟨?_, fun hn => ?_, fun hn => ?_, fun c hc => ?_⟩
      · refine (congrArg VReg.full hself).trans ?_
        split <;> simp_all
      · refine (congrArg VReg.lanes (hself.trans (if_neg (by simp [hn])))).trans hl
      · have hlong : (if w.long then U.putLong d r x none true else U.put d x) = U.putLong d r x none true := if_pos hn
        refine ⟨⟨U.nextLong, r, d, x, none, true && d != 73, d == 73⟩, ?_, rfl, rfl, hl⟩
        exact (congrArg Tenon.longs hlong).symm ▸ Tenon.mem_longs_putLong U d r x none true
      · exact (htile c).trans ((hU c (isTile_of_mem_tilesOf hc)).trans (if_pos hc))

end Sys2Proof.Proofs

end

section
/-! PROOFS. Presence of an op-word's operands (R70 to R72, R226), what its elements are (R202, R206, R207, R209), and the approximating
operations (R208). -/

open Sys2Proof

namespace Sys2Proof.Machine

/-! ### Presence -/

theorem elementForm_first {o : VFields} {p : VForm} (hp : p ∈ elementForms o) : p.2.1.a = o.a ∧ p.2.1.x = o.x := by
  revert p
  simp only [elementForms, List.forall_mem_cons, List.not_mem_nil, false_imp_iff, implies_true, and_true, ew1, ew2, ewU]

section
variable {s : State} {b t r : Nat} {R : Routine} (hc : s.cur = .routine b t r)
  (hR : NMap.get? (s.tenon b t).routines r = some R) (hh : R.hold = .running) (h0 : R.couts = 0)
include hc hR hh h0

theorem State.routine_of_running (body : Nat → Nat → Nat → Tenon → Routine → Out) : s.routine body = body b t r (s.tenon b t) R := by
  simp [State.routine, hc, hR, hh, h0]

variable {srcs : List (VCode × Bool)} {d : Option VCode} (again : Tenon → Bool) (body : Nat → Nat → Nat → Tenon → Routine → Out)

/-- R226: a tile operand that is not configured. -/
theorem State.opword_of_unconfigured {c : VCode} (hm : c ∈ srcs.map Prod.fst ++ d.toList) (ht : isTile c.toNat = true)
    (hu : ((s.tenon b t).tile c.toNat).configured = false) : s.opword srcs d again body = .next (s.vxEnd b t r R 0x0012) := by
  rw [State.opword, State.routine_of_running hc hR hh h0]
  refine if_pos (List.any_eq_true.mpr ⟨c.toNat, List.mem_map_of_mem hm, ?_⟩)
  simp [ht, hu]

variable (hreg : ∀ c ∈ srcs.map Prod.fst ++ d.toList, isTile c.toNat = false)
include hreg

/-- R71, R72: with register operands the sources decide, then the destination. -/
theorem State.opword_of_registers : s.opword srcs d again body = match (s.tenon b t).sources srcs with
    | .trap => .next (s.vxFreeze b t r R 0x0010 [])
    | .wait => .next s
    | .ok => if (d.map (fun d => (s.tenon b t).full d.toNat || again (s.tenon b t))).getD true then body b t r (s.tenon b t) R
      else .next s := by
  have hno : ((srcs.map Prod.fst ++ d.toList).map BitVec.toNat).any
      (fun c => isTile c && !((s.tenon b t).tile c).configured) = false := by
    rw [List.any_eq_false]
    intro n hn
    obtain ⟨c, hc, rfl⟩ := List.mem_map.mp hn
    simp [hreg c hc]
  rw [State.opword, State.routine_of_running hc hR hh h0]
  simp only [hno, Bool.false_eq_true, if_false]
  cases d <;> cases (s.tenon b t).sources srcs <;> rfl

end

/-- R71: the first source decides. -/
theorem Tenon.sources_of_empty {T : Tenon} {w : Ew} (h : T.full w.a.toNat = false) : T.sources w.srcs = if w.x then .trap else .wait := by
  simp [Ew.srcs, Tenon.sources, h]

theorem State.tenon_updOwner (s : State) (lid ob os : Nat) (f : Strand → Strand) (b t : Nat) :
    (s.updOwner lid ob os f).tenon b t = s.tenon b t := by
  refine congrArg (fun m => NMap.getD m t {}) (State.bent_updOwner_keeps Bent.tenons ?_ s lid ob os f b)
  exact fun _ _ => rfl

@[simp] theorem Launch.region_fire (L : Launch) (p : Cont → Bool) : (L.fire p).region = L.region := by
  unfold Launch.fire
  split <;> rfl

theorem State.findOwner_congr {s t : State} {lid : Nat} (hr : t.regionOf lid = s.regionOf lid)
    (hb : ∀ c, (t.bent c).strands = (s.bent c).strands) (ob os : Nat) : t.findOwner lid ob os = s.findOwner lid ob os := by
  simp only [State.findOwner, hr, hb]

/-- What a trap raised for a current strand leaves. -/
theorem State.raiseTrap_shows {s : State} {lid ob os c k : Nat} {st : Strand} (hown : s.findOwner lid ob os = some (c, k))
    (hst : s.strand? c k = some st) (p : PendTrap) :
    (s.raiseTrap lid ob os p).strand? c k = some { st with pend := st.pend ++ [{ p with stamp := s.nonce }] } ∧
      ∀ b t, (s.raiseTrap lid ob os p).tenon b t = s.tenon b t := by
  have hlive : s.ownerLive lid ob os = true := by simp [State.ownerLive, hown]
  rw [State.raiseTrap, if_pos hlive]
  refine ⟨(State.strand?_updLaunch ..).trans ?_, fun b t => ?_⟩
  · rw [State.updOwner_of_found hown hst]
    exact (State.strand?_setStrand ..).trans (if_pos ⟨rfl, rfl⟩)
  · refine Eq.trans ?_ (State.tenon_updOwner s lid ob os (fun st => { st with pend := st.pend ++ [{ p with stamp := s.nonce }] }) b t)
    exact congrArg (fun B => NMap.getD (Bent.tenons B) t {}) (State.bent_updLaunch ..)

/-- R58, R71: what a frozen routine leaves: the trap waits at the strand of its starting cell. -/
theorem State.vxFreeze_shows {s : State} {b t r : Nat} {R : Routine} {cause : BitVec 16} {log : List Word} {c k : Nat} {st : Strand}
    (hown : s.findOwner R.side.lid R.side.ownerBent R.side.ownerSlot = some (c, k)) (hst : s.strand? c k = some st) :
    let u := s.vxFreeze b t r R cause log
    NMap.get? (u.tenon b t).routines r = some { R with hold := .frozen } ∧
    u.strand? c k = some { st with
      pend := st.pend ++ [{ cause := cause, tenon := some (tenonKey (s.bent b).index t, r), stamp := s.nonce, log := log }] } := by
  intro u
  let v := s.setTenon b t ((s.tenon b t).setRoutine r { R with hold := .frozen })
  have hstr (e : Nat) : (v.bent e).strands = (s.bent e).strands := State.bent_updBent_keeps Bent.strands s b e fun _ => rfl
  have hown' : v.findOwner R.side.lid R.side.ownerBent R.side.ownerSlot = some (c, k) :=
    (State.findOwner_congr (s := s) (t := v) rfl hstr _ _).trans hown
  have hst' : v.strand? c k = some st := by rw [State.strand?, hstr]; exact hst
  obtain ⟨h1, h2⟩ := State.raiseTrap_shows hown' hst'
    { cause := cause, tenon := some (tenonKey (s.bent b).index t, r), log := log }
  refine ⟨?_, h1⟩
  rw [show u.tenon b t = v.tenon b t from h2 b t, State.tenon_setTenon, if_pos ⟨rfl, rfl⟩]
  exact Tenon.get?_setRoutine ..

/-! ### Elements -/

/-- A result of an `.i32` operation. -/
theorem toInt_ofNat_ofInt (v : Int) : (BitVec.ofNat 32 (BitVec.ofInt 32 v).toNat).toInt = v.bmod (2 ^ 32) := by
  rw [BitVec.ofNat_toNat, BitVec.setWidth_eq, BitVec.toInt_ofInt]

theorem signedOf_bounds (n : Nat) : -(2 ^ 31) ≤ signedOf 32 n ∧ signedOf 32 n < 2 ^ 31 := by
  unfold signedOf
  split <;> omega

theorem bmod_of_bounds {v : Int} (h0 : -(2 ^ 31) ≤ v) (h1 : v < 2 ^ 31) : v.bmod (2 ^ 32) = v := by
  rw [Int.bmod_def]
  split <;> omega

/-- A result within the range stands for itself. -/
theorem toInt_keep {v : Int} (h0 : -(2 ^ 31) ≤ v) (h1 : v < 2 ^ 31) : (BitVec.ofNat 32 (BitVec.ofInt 32 v).toNat).toInt = v := by
  rw [toInt_ofNat_ofInt, bmod_of_bounds h0 h1]

/-- R207: with `.sat` a result stops at the ends of the range. -/
theorem toInt_keep_sat (v : Int) : (BitVec.ofNat 32 (BitVec.ofInt 32 (IFmt.int32.sat v)).toNat).toInt =
    max (-(2 ^ 31)) (min (2 ^ 31 - 1) v) := by
  have hs : IFmt.int32.sat v = max (-(2 ^ 31)) (min (2 ^ 31 - 1) v) := by
    refine (sat_eq_min_max (by decide) v).trans ?_
    simp only [IFmt.lo, IFmt.hi]
    omega
  rw [hs]
  exact toInt_keep (by omega) (by omega)

theorem ofInt_signedOf (n : Nat) : BitVec.ofInt 32 (signedOf 32 n) = BitVec.ofNat 32 n := by
  rw [signedOf_eq_toInt (by decide), BitVec.ofInt_toInt]

theorem signedOf_inj {m n : Nat} (hm : m < 2 ^ 32) (hn : n < 2 ^ 32) : signedOf 32 m = signedOf 32 n ↔ m = n := by
  unfold signedOf
  split <;> split <;> omega

/-- R206, R207, R209: the operations on `.i32` elements. -/
theorem intElement_spec (x y : VEl) (hx : x.1 < 2 ^ 32) (hy : y.1 < 2 ^ 32) :
    let i (n : Nat) : Int := (BitVec.ofNat 32 n).toInt
    let cl (v : Int) : Int := max (-(2 ^ 31)) (min (2 ^ 31 - 1) v)
    (EOp.add.int false x y).1 = (x.1 + y.1) % 2 ^ 32 ∧ (EOp.mul.int false x y).1 = x.1 * y.1 % 2 ^ 32 ∧
    (EOp.sub.int false x y).1 = (x.1 + (2 ^ 32 - y.1)) % 2 ^ 32 ∧
    i (EOp.add.int true x y).1 = cl (i x.1 + i y.1) ∧ i (EOp.sub.int true x y).1 = cl (i x.1 - i y.1) ∧
    i (EOp.mul.int true x y).1 = cl (i x.1 * i y.1) ∧ i (EOp.min.int false x y).1 = min (i x.1) (i y.1) ∧
    i (EOp.max.int false x y).1 = max (i x.1) (i y.1) ∧
    (EOp.neg.int false x y).1 = (2 ^ 32 - x.1) % 2 ^ 32 ∧
    (x.1 ≠ 2 ^ 31 → i (EOp.abs.int false x y).1 = |i x.1|) ∧
    ((EOp.cmp .lt).int false x y).1 = (if i x.1 < i y.1 then 2 ^ 32 - 1 else 0) ∧
    ((EOp.cmp .eq).int false x y).1 = (if x.1 = y.1 then 2 ^ 32 - 1 else 0) := by
  intro i cl
  have hi (n : Nat) : i n = signedOf 32 n := (signedOf_eq_toInt (by decide) n).symm
  have hbx := signedOf_bounds x.1
  have hby := signedOf_bounds y.1
  simp only [hi]
  refine ⟨?_, ?_, ?_, ?_, ?_, ?_, ?_, ?_, ?_, fun h => ?_, ?_, ?_⟩
  · show (BitVec.ofInt 32 (signedOf 32 x.1 + signedOf 32 y.1)).toNat = _
    rw [BitVec.ofInt_add, ofInt_signedOf, ofInt_signedOf, ← BitVec.ofNat_add, BitVec.toNat_ofNat]
  · show (BitVec.ofInt 32 (signedOf 32 x.1 * signedOf 32 y.1)).toNat = _
    rw [BitVec.ofInt_mul, ofInt_signedOf, ofInt_signedOf, ← BitVec.ofNat_mul, BitVec.toNat_ofNat]
  · show (BitVec.ofInt 32 (signedOf 32 x.1 - signedOf 32 y.1)).toNat = _
    rw [BitVec.toNat_ofInt]
    unfold signedOf
    split <;> split <;> omega
  · exact (hi _).symm.trans (toInt_keep_sat (signedOf 32 x.1 + signedOf 32 y.1))
  · exact (hi _).symm.trans (toInt_keep_sat (signedOf 32 x.1 - signedOf 32 y.1))
  · exact (hi _).symm.trans (toInt_keep_sat (signedOf 32 x.1 * signedOf 32 y.1))
  · refine (hi _).symm.trans ((toInt_keep (v := if signedOf 32 y.1 < signedOf 32 x.1 then _ else _) ?_ ?_).trans ?_) <;> split <;> omega
  · refine (hi _).symm.trans ((toInt_keep (v := if signedOf 32 x.1 < signedOf 32 y.1 then _ else _) ?_ ?_).trans ?_) <;> split <;> omega
  · show (BitVec.ofInt 32 (-signedOf 32 x.1)).toNat = _
    rw [BitVec.toNat_ofInt]
    unfold signedOf
    split <;> omega
  · have hne : signedOf 32 x.1 ≠ -(2 ^ 31) := by
      unfold signedOf
      split <;> omega
    refine (hi _).symm.trans ((toInt_keep (v := if signedOf 32 x.1 < 0 then _ else _) ?_ ?_).trans ?_)
    · split <;> omega
    · split <;> omega
    · split
      · next hneg => exact (abs_of_neg hneg).symm
      · next hpos => exact (abs_of_nonneg (by omega)).symm
  · show (if decide (signedOf 32 x.1 < signedOf 32 y.1) = true then 0xFFFFFFFF else 0) = _
    simp only [decide_eq_true_eq]
    rfl
  · show (if (signedOf 32 x.1 == signedOf 32 y.1) = true then 0xFFFFFFFF else 0) = _
    simp only [beq_iff_eq, signedOf_inj hx hy]
    rfl

theorem Ex.lt_of_nan {a b : Ex} (h : a.isNan = true ∨ b.isNan = true) : a.lt b = false := by
  cases a <;> cases b <;> simp_all [Ex.isNan, Ex.lt]

theorem Ex.eqv_of_nan {a b : Ex} (h : a.isNan = true ∨ b.isNan = true) : a.eqv b = false := by
  rcases h with h | h <;> simp [Ex.eqv, h]

/-- R44: an element that is not finite is read with count 0. -/
theorem VTy.counted_infinite {t : VTy} {bits c : Nat} (h : (t.ex (t.counted bits c)).isFinite = false) : (t.counted bits c).2 = 0 :=
  if_neg (by rw [show t.fmt.decode bits = t.ex (t.counted bits c) from rfl, h]; decide)

theorem elems_infinite {t : VTy} {l : List FVal} {e : VEl} (he : e ∈ elems t l) (ht : t ≠ .i32) (hf : (t.ex e).isFinite = false) :
    e.2 = 0 := by
  have hc : ∃ bits c, e = t.counted bits c := by
    cases t with
    | i32 => exact absurd rfl ht
    | f32 =>
      obtain ⟨x, -, rfl⟩ := List.mem_map.mp he
      exact ⟨_, _, rfl⟩
    | f16 | bf16 =>
      obtain ⟨x, -, hx⟩ := List.mem_flatMap.mp he
      simp only [List.mem_cons, List.not_mem_nil, or_false] at hx
      rcases hx with rfl | rfl <;> exact ⟨_, _, rfl⟩
  obtain ⟨bits, c, rfl⟩ := hc
  exact VTy.counted_infinite hf

theorem vshrA32_of_le {a b : Word32} (h : 32 ≤ b.toNat) : vshrA32 a b = if a.msb then BitVec.allOnes 32 else 0 := by
  have hm : Nat.min b.toNat 31 = 31 := Nat.min_eq_right (by omega)
  rw [vshrA32, hm]
  refine BitVec.eq_of_getLsbD_eq fun i hi => ?_
  rw [BitVec.getLsbD_sshiftRight, BitVec.msb_eq_getLsbD_last]
  rcases Nat.eq_zero_or_pos i with rfl | h0
  · cases a.getLsbD 31 <;> rfl
  · rw [if_neg (by omega)]
    cases a.getLsbD 31
    · simp
    · simp only [if_true, BitVec.getLsbD_allOnes, hi, decide_true, Bool.and_true, Bool.not_eq_true', decide_eq_false_iff_not]
      omega

theorem vselLane_spec (a b p : FVal) :
    (vselLane a b p).1 = ((a.v &&& p.v) ||| (b.v &&& ~~~p.v)).toNat ∧
    (p.v = BitVec.allOnes 32 → a.v ≠ b.v → (vselLane a b p).2 = a.c.toNat) ∧
    (p.v = 0 → a.v ≠ b.v → (vselLane a b p).2 = b.c.toNat) := by
  refine ⟨rfl, fun hp hn => ?_, fun hp hn => ?_⟩
  · simp only [vselLane, if_neg hn, if_pos hp]
  · have h1 : (0 : Word32) ≠ BitVec.allOnes 32 := by decide
    simp only [vselLane, if_neg hn, hp, if_neg h1, if_true]

theorem vshl32_eq (a b : Word32) : vshl32 a b = a <<< b.toNat := by
  unfold vshl32
  split
  · next h => rw [BitVec.shiftLeft_eq_zero h]; rfl
  · rfl

theorem vshrL32_eq (a b : Word32) : vshrL32 a b = a >>> b.toNat := by
  unfold vshrL32
  split
  · next h => rw [BitVec.ushiftRight_eq_zero h]; rfl
  · rfl

/-! ### The approximating operations -/

section
variable (m : Mode) (v : Word32) (c : Nat) (y z : VEl)

theorem rcp_element : (EOp.rcp.flt .f32 m (v.toNat, c) y z).1 = (rcp32 v).toNat := by
  rw [show (EOp.rcp.flt .f32 m (v.toNat, c) y z).1 = (rcp32 (BitVec.ofNat 32 v.toNat)).toNat from rfl, BitVec.ofNat_toNat,
    BitVec.setWidth_eq]

theorem rsqrt_element : (EOp.rsqrt.flt .f32 m (v.toNat, c) y z).1 = (rsqrt32 v).toNat := by
  rw [show (EOp.rsqrt.flt .f32 m (v.toNat, c) y z).1 = (rsqrt32 (BitVec.ofNat 32 v.toNat)).toNat from rfl, BitVec.ofNat_toNat,
    BitVec.setWidth_eq]

theorem exp2_element : (EOp.exp2.flt .f32 m (v.toNat, c) y z).1 = (exp2_32 v).toNat := by
  rw [show (EOp.exp2.flt .f32 m (v.toNat, c) y z).1 = (exp2_32 (BitVec.ofNat 32 v.toNat)).toNat from rfl, BitVec.ofNat_toNat,
    BitVec.setWidth_eq]

theorem log2_element : (EOp.log2.flt .f32 m (v.toNat, c) y z).1 = (log2_32 v).toNat := by
  rw [show (EOp.log2.flt .f32 m (v.toNat, c) y z).1 = (log2_32 (BitVec.ofNat 32 v.toNat)).toNat from rfl, BitVec.ofNat_toNat,
    BitVec.setWidth_eq]

end

theorem Ex.eq_nan_of_isNan {e : Ex} (h : e.isNan = true) : e = .nan := by
  cases e <;> simp_all [Ex.isNan]

/-- The only negative FP32 encoding of significand 0. -/
theorem val32_negZero {v : Word32} {e : Int} {u : Bool} (h : val32 v = .fin true 0 e u) : v = 0x80000000 := by
  have hv := v.isLt
  apply BitVec.eq_of_toNat_eq
  show v.toNat = 0x80000000
  unfold val32 FFmt.decode at h
  simp only at h
  split_ifs at h
  · injection h with hs hm
    have hs := of_decide_eq_true hs
    simp only [FFmt.frac, FFmt.expBits, FFmt.signWeight] at *
    omega
  · simp only [Ex.fin.injEq, FFmt.frac] at h
    omega

/-- R208: `vrcp` gives one of the two encodings that bracket the quotient. -/
theorem rcp32_brackets (v : Word32) : rcp32 v = f32 (Ex.div (.fin false 1 0 false) (val32 v)) .rdn ∨
    rcp32 v = f32 (Ex.div (.fin false 1 0 false) (val32 v)) .rup := by
  unfold rcp32 bracket
  split
  · exact .inr rfl
  · exact .inl rfl

/-- Where both encodings of the bracket are one. -/
theorem rcp32_of_div {v : Word32} {x : Ex} {w : Word32} (hx : Ex.div (.fin false 1 0 false) (val32 v) = x) (hd : f32 x .rdn = w)
    (hu : f32 x .rup = w) : rcp32 v = w := by
  rcases rcp32_brackets v with h | h
  · rw [h, hx, hd]
  · rw [h, hx, hu]

section
variable {v : Word32}

theorem rcp32_nan (h : val32 v = .nan) : rcp32 v = 0x7FC00000 := rcp32_of_div (x := .nan) (by rw [h]; rfl) (by decide) (by decide)

theorem rsqrt32_nan (h : val32 v = .nan) : rsqrt32 v = 0x7FC00000 := by
  simp only [rsqrt32, h]
  decide

theorem exp2_32_nan (h : val32 v = .nan) : exp2_32 v = 0x7FC00000 := by
  simp only [exp2_32, h]
  decide

theorem log2_32_nan (h : val32 v = .nan) : log2_32 v = 0x7FC00000 := by
  simp only [log2_32, h]
  decide

/-- R208: of a negative value other than -0. -/
theorem rsqrt32_negative (hn : (val32 v).neg? = true) (h0 : v ≠ 0x80000000) : rsqrt32 v = 0x7FC00000 := by
  cases hv : val32 v with
  | nan => simp [hv, Ex.neg?] at hn
  | inf n =>
    obtain rfl : n = true := by simpa [hv, Ex.neg?] using hn
    simp only [rsqrt32, hv]
    decide
  | fin n m e u =>
    obtain rfl : n = true := by simpa [hv, Ex.neg?] using hn
    have hm : m ≠ 0 := by rintro rfl; exact h0 (val32_negZero hv)
    simp only [rsqrt32, hv, if_neg hm, if_true]
    decide

theorem log2_32_negative (hn : (val32 v).neg? = true) (h0 : v ≠ 0x80000000) : log2_32 v = 0x7FC00000 := by
  cases hv : val32 v with
  | nan => simp [hv, Ex.neg?] at hn
  | inf n =>
    obtain rfl : n = true := by simpa [hv, Ex.neg?] using hn
    simp only [log2_32, hv]
    decide
  | fin n m e u =>
    obtain rfl : n = true := by simpa [hv, Ex.neg?] using hn
    have hm : m ≠ 0 := by rintro rfl; exact h0 (val32_negZero hv)
    simp only [log2_32, hv, if_neg hm, if_true]
    decide

/-- R208: `vrsqrt` of a positive finite value gives one of the two encodings that bracket the root. -/
theorem rsqrt32_brackets {m : Nat} {e : Int} {u : Bool} (hv : val32 v = .fin false m e u) (hm : m ≠ 0) :
    rsqrt32 v = f32 (Ex.div (.fin false 1 0 false) (val32 v)).sqrt .rdn ∨
    rsqrt32 v = f32 (Ex.div (.fin false 1 0 false) (val32 v)).sqrt .rup := by
  simp only [rsqrt32, hv, if_neg hm, Bool.false_eq_true, if_false, bracket]
  split
  · exact .inr rfl
  · exact .inl rfl

/-- R208: what `vexp2` and `vlog2` choose lies within the bound, or is the nearest. -/
theorem pickWithin_spec (w : Word32) (ref : Ex) (q : Int) :
    within (val32 (pickWithin w ref q)) ref q = true ∨ pickWithin w ref q = f32 ref .rne := by
  unfold pickWithin
  split
  · next h => exact .inl h
  · exact .inr rfl

/-- R208: the cases of `vexp2` for a finite value. -/
theorem exp2_32_finite (hf : (val32 v).isFinite = true) :
    let x := val32 v
    let k := x.toInt .rdn
    let ref := if k < -200 then Ex.fin false 1 (-200) true else exp2Ref x
    exp2_32 v = if 128 ≤ k then 0x7F800000 else if x.isIntegral ∧ -149 ≤ k then f32 (.fin false 1 k false) .rne
      else pickWithin (Config.vexp2Pick v) ref (ulpExp ref + 1) := by
  have hinf : f32 (.inf false) .rne = 0x7F800000 := by decide
  cases hv : val32 v with
  | nan => simp [hv, Ex.isFinite] at hf
  | inf => simp [hv, Ex.isFinite] at hf
  | fin n m e u => simp only [exp2_32, hv, hinf]

/-- R208: the cases of `vlog2` for a positive finite value. -/
theorem log2_32_positive {n : Nat} {e : Int} {u : Bool} (hv : val32 v = .fin false n e u) (hn : n ≠ 0) :
    log2_32 v = if n = 2 ^ Nat.log2 n then f32 (Ex.ofInt ((Nat.log2 n : Int) + e)) .rne
      else pickWithin (Config.vlog2Pick v) (log2Ref (val32 v))
        (if (log2Ref (val32 v)).abs.lt (.fin false 1 (-1) false) then -24 else ulpExp (log2Ref (val32 v)) + 1) := by
  simp only [log2_32, hv, if_neg hn, Bool.false_eq_true, if_false]

/-- A power of two in FP32. -/
theorem f32_pow {k : Int} (h0 : -149 ≤ k) (h1 : k ≤ 127) :
    (f32 (.fin false 1 k false) .rne).toNat = if -126 ≤ k then (k + 127).toNat * 2 ^ 23 else 2 ^ (k + 149).toNat := by
  have hmag : FFmt.fp32.roundMag false 1 k false .rne = if -126 ≤ k then (k + 127).toNat * 2 ^ 23 else 2 ^ (k + 149).toNat := by
    have hl : (Nat.log2 1 : Int) = 0 := by decide
    simp only [FFmt.roundMag, FFmt.frac, FFmt.bias, hl]
    split
    · next h =>
      rw [if_pos (by omega), if_neg (by omega)]
      have h1 : (1 - ((127 : Nat) : Int) - ((23 : Nat) : Int) - (1 - ((127 : Nat) : Int) - ((23 : Nat) : Int))).toNat = 0 := by omega
      have h2 : (k - (1 - ((127 : Nat) : Int) - ((23 : Nat) : Int))).toNat = (k + 149).toNat := by omega
      rw [h1, h2, Nat.zero_mul, Nat.zero_add, Nat.one_mul]
    · next h =>
      rw [if_pos (by omega), if_pos (by omega)]
      have h2 : (k - (0 + k - ((23 : Nat) : Int))).toNat = 23 := by omega
      rw [h2]
      omega
  have hle : (if -126 ≤ k then (k + 127).toNat * 2 ^ 23 else 2 ^ (k + 149).toNat) ≤ FFmt.fp32.maxBits := by
    simp only [FFmt.maxBits]
    split
    · omega
    · exact (Nat.pow_le_pow_right (by decide) (show (k + 149).toNat ≤ 22 by omega)).trans (by decide)
  have hr : FFmt.fp32.round (.fin false 1 k false) .rne = FFmt.fp32.roundMag false 1 k false .rne := by
    simp only [FFmt.round, if_neg one_ne_zero, Bool.false_eq_true, if_false, hmag, if_neg (Nat.not_lt.mpr hle), Nat.add_zero]
  rw [f32, hr, hmag, BitVec.toNat_ofNat, Nat.mod_eq_of_lt]
  exact Nat.lt_of_le_of_lt hle (by decide)

end

end Sys2Proof.Machine

namespace Sys2Proof.Proofs

open Sys2Proof.Machine

/-- R70 to R72, R226: the element-wise op-words before they are executed. -/
theorem elementForm_presence {o : VFields} {s : State} {b tn r : Nat} {R : Routine} (hc : s.cur = .routine b tn r)
    (hR : NMap.get? (s.tenon b tn).routines r = some R) (hh : R.hold = .running) (h0 : R.couts = 0) {p : VForm} (hp : p ∈ elementForms o) :
    let T := s.tenon b tn
    (isTile o.a.toNat = true → (T.tile o.a.toNat).configured = false → exec p.1 s = .next (s.vxEnd b tn r R 0x0012)) ∧
    ((∀ c ∈ o.d :: p.2.1.srcs.map Prod.fst, isTile c.toNat = false) →
      (T.full o.a.toNat = false →
        (o.x = false → exec p.1 s = .next s) ∧ (o.x = true → exec p.1 s = .next (s.vxFreeze b tn r R 0x0010 []))) ∧
      ((∀ q ∈ p.2.1.srcs, T.full q.1.toNat = true) → T.full o.d.toNat = false → exec p.1 s = .next s)) := by
  intro T
  obtain ⟨ha, hx⟩ := elementForm_first hp
  rw [exec_elementForm hp s, State.ew]
  refine ⟨fun ht hu => State.opword_of_unconfigured hc hR hh h0 _ _ (c := o.a) (by simp [Ew.srcs, ha]) ht hu, fun hreg => ?_⟩
  rw [State.opword_of_registers hc hR hh h0]
  · refine ⟨fun hf => ?_, fun hs hf => ?_⟩
    · rw [Tenon.sources_of_empty (w := p.2.1) (ha.symm ▸ hf), hx]
      exact ⟨fun h => by rw [h]; rfl, fun h => by rw [h]; rfl⟩
    · rw [Tenon.sources_of_full]
      · exact if_neg (by simp [T] at hf; simp [hf])
      · intro c hm
        obtain ⟨q, hq, rfl⟩ := List.mem_map.mp hm
        exact hs q hq
  · intro c hm
    rcases List.mem_append.mp hm with hm | hm
    · exact hreg c (List.mem_cons_of_mem _ hm)
    · exact hreg c (by simp_all)

/-- R206, R207, R46: the operations on floating elements. -/
theorem floatElement_spec (m : Mode) (x y z : VEl) (t : VTy) :
    let a := t.ex x
    let b := t.ex y
    let f := t.fmt
    let is (e : VEl) (v : Ex) (c : Nat) : Prop := e.1 = f.round v m ∧ e.2 = if (f.decode e.1).isFinite then c else 0
    let r (v : Ex) : Ex := f.decode (f.round v m)
    is (EOp.add.flt t m x y z) (a.add b m) (plumbAdd [(a, x.2), (b, y.2)] (r (a.add b m)) f.p) ∧
    is (EOp.sub.flt t m x y z) (a.add b.negate m) (plumbAdd [(a, x.2), (b, y.2)] (r (a.add b.negate m)) f.p) ∧
    is (EOp.mul.flt t m x y z) (a.mul b) (countMul a x.2 f.p b y.2 f.p (r (a.mul b)) f.p) ∧
    is (EOp.div.flt t m x y z) (a.div b) (countDiv a x.2 f.p y.2 f.p (r (a.div b)) f.p) ∧
    is (EOp.sqrt.flt t m x y z) a.sqrt (countRoot true a x.2 f.p (r a.sqrt) f.p) ∧
    is (EOp.fma.flt t m x y z) ((a.mul b).add (t.ex z) m)
      (plumbAdd [(a.mul b, countMul a x.2 f.p b y.2 f.p (a.mul b) f.p), (t.ex z, z.2)] (r ((a.mul b).add (t.ex z) m)) f.p) ∧
    (a.isNan = true ∨ b.isNan = true →
      EOp.min.flt t m x y z = (f.nanBits, 0) ∧ EOp.max.flt t m x y z = (f.nanBits, 0) ∧
      ((EOp.cmp .lt).flt t m x y z).1 = 0 ∧ ((EOp.cmp .eq).flt t m x y z).1 = 0 ∧ ((EOp.cmp .ne).flt t m x y z).1 = t.ones) ∧
    EOp.abs.flt t m x y z = (x.1 % f.signWeight, x.2) ∧
    EOp.neg.flt t m x y z = ((x.1 + f.signWeight) % (2 * f.signWeight), x.2) := by
  intro a b f is r
  refine ⟨⟨rfl, rfl⟩, ⟨rfl, rfl⟩, ⟨rfl, rfl⟩, ⟨rfl, rfl⟩, ⟨rfl, rfl⟩, ⟨rfl, rfl⟩, fun hn => ?_, rfl, rfl⟩
  have hnan : (a.isNan || b.isNan) = true := by simpa using hn
  have hlt := Ex.lt_of_nan hn
  have heq := Ex.eqv_of_nan hn
  exact ⟨if_pos hnan, if_pos hnan, if_neg (by rw [show FCond.holds .lt a b = a.lt b from rfl, hlt]; decide),
    if_neg (by rw [show FCond.holds .eq a b = a.eqv b from rfl, heq]; decide),
    if_pos (by rw [show FCond.holds .ne a b = !a.eqv b from rfl, heq]; rfl)⟩

/-- R208: the approximating operations. -/
theorem approximations (m : Mode) (v : Word32) (c : Nat) (y z : VEl) :
    let e := val32 v
    let gives (o : EOp) (w : Nat) : Prop := (o.flt .f32 m (v.toNat, c) y z).1 = w
    let near (o : EOp) (ref : Ex) (q : Int) : Prop := ∃ w : Word32, gives o w.toNat ∧
      (within (val32 w) ref q = true ∨ w = f32 ref .rne)
    let brackets (o : EOp) (exact : Ex) : Prop := gives o (f32 exact .rdn).toNat ∨ gives o (f32 exact .rup).toNat
    let one : Ex := .fin false 1 0 false
    (e.isNan = true → ∀ o ∈ [EOp.rcp, .rsqrt, .exp2, .log2], gives o 0x7FC00000) ∧
    (v = 0 → gives .rcp 0x7F800000 ∧ gives .rsqrt 0x7F800000 ∧ gives .log2 0xFF800000) ∧
    (v = 0x80000000 → gives .rcp 0xFF800000 ∧ gives .rsqrt 0xFF800000 ∧ gives .log2 0xFF800000) ∧
    (v = 0x7F800000 → gives .rcp 0 ∧ gives .rsqrt 0 ∧ gives .exp2 0x7F800000 ∧ gives .log2 0x7F800000) ∧
    (v = 0xFF800000 → gives .rcp 0x80000000 ∧ gives .exp2 0) ∧
    (e.isNan = false → e.neg? = true → v ≠ 0x80000000 → gives .rsqrt 0x7FC00000 ∧ gives .log2 0x7FC00000) ∧
    (e.isFinite = true → e.isZero = false → brackets .rcp (one.div e) ∧ (e.neg? = false → brackets .rsqrt (one.div e).sqrt)) ∧
    (e.isFinite = true →
      let k := e.toInt .rdn
      (128 ≤ k → gives .exp2 0x7F800000) ∧
      (e.isIntegral = true → -149 ≤ k → k ≤ 127 →
        gives .exp2 (if -126 ≤ k then (k + 127).toNat * 2 ^ 23 else 2 ^ (k + 149).toNat)) ∧
      (k < 128 → ¬(e.isIntegral = true ∧ -149 ≤ k) →
        let ref := if k < -200 then Ex.fin false 1 (-200) true else exp2Ref e
        near .exp2 ref (ulpExp ref + 1))) ∧
    (∀ n x u, e = .fin false n x u → n ≠ 0 →
      (n = 2 ^ Nat.log2 n → gives .log2 (f32 (Ex.ofInt ((Nat.log2 n : Int) + x)) .rne).toNat) ∧
      (n ≠ 2 ^ Nat.log2 n → near .log2 (log2Ref e)
        (if (log2Ref e).abs.lt (.fin false 1 (-1) false) then -24 else ulpExp (log2Ref e) + 1))) := by
  intro e gives near brackets one
  have hrcp {w : Word32} (h : rcp32 v = w) : gives .rcp w.toNat := (rcp_element m v c y z).trans (congrArg _ h)
  have hrsqrt {w : Word32} (h : rsqrt32 v = w) : gives .rsqrt w.toNat := (rsqrt_element m v c y z).trans (congrArg _ h)
  have hexp2 {w : Word32} (h : exp2_32 v = w) : gives .exp2 w.toNat := (exp2_element m v c y z).trans (congrArg _ h)
  have hlog2 {w : Word32} (h : log2_32 v = w) : gives .log2 w.toNat := (log2_element m v c y z).trans (congrArg _ h)
  refine ⟨fun hn => ?_, ?_, ?_, ?_, ?_, fun _ hn h0 => ?_, fun hf hz => ?_, fun hf => ?_, fun n x u he hn => ?_⟩
  · have hv := Ex.eq_nan_of_isNan hn
    simp only [List.forall_mem_cons, List.not_mem_nil, false_imp_iff, implies_true, and_true]
    exact ⟨hrcp (rcp32_nan hv), hrsqrt (rsqrt32_nan hv), hexp2 (exp2_32_nan hv), hlog2 (log2_32_nan hv)⟩
  · rintro rfl
    exact ⟨hrcp (rcp32_of_div (x := .inf false) (w := 0x7F800000) (by decide) (by decide) (by decide)),
      hrsqrt (w := 0x7F800000) (by decide), hlog2 (w := 0xFF800000) (by decide)⟩
  · rintro rfl
    exact ⟨hrcp (rcp32_of_div (x := .inf true) (w := 0xFF800000) (by decide) (by decide) (by decide)),
      hrsqrt (w := 0xFF800000) (by decide), hlog2 (w := 0xFF800000) (by decide)⟩
  · rintro rfl
    exact ⟨hrcp (rcp32_of_div (x := .fin false 0 0 false) (w := 0) (by decide) (by decide) (by decide)), hrsqrt (w := 0) (by decide),
      hexp2 (w := 0x7F800000) (by decide), hlog2 (w := 0x7F800000) (by decide)⟩
  · rintro rfl
    exact ⟨hrcp (rcp32_of_div (x := .fin true 0 0 false) (w := 0x80000000) (by decide) (by decide) (by decide)),
      hexp2 (w := 0) (by decide)⟩
  · exact ⟨hrsqrt (rsqrt32_negative hn h0), hlog2 (log2_32_negative hn h0)⟩
  · refine ⟨(rcp32_brackets v).imp hrcp hrcp, fun hp => ?_⟩
    obtain ⟨n, x, w, u, he⟩ : ∃ n x w u, e = .fin n x w u := by
      cases he : e with
      | nan => simp [he, Ex.isFinite] at hf
      | inf => simp [he, Ex.isFinite] at hf
      | fin n x w u => exact ⟨n, x, w, u, rfl⟩
    obtain rfl : n = false := by simpa [he, Ex.neg?] using hp
    obtain rfl := val32_exact he
    have hx : x ≠ 0 := by rintro rfl; simp [he, Ex.isZero] at hz
    exact (rsqrt32_brackets he hx).imp hrsqrt hrsqrt
  · intro k
    have hx := exp2_32_finite hf
    refine ⟨fun hk => hexp2 (hx.trans (if_pos hk)), fun hi h0 h1 => ?_, fun hk hni => ?_⟩
    · have := hexp2 (hx.trans ((if_neg (show ¬128 ≤ k by omega)).trans (if_pos ⟨hi, h0⟩)))
      exact this.trans (f32_pow h0 h1)
    · exact ⟨_, hexp2 (hx.trans ((if_neg (show ¬128 ≤ k by omega)).trans (if_neg hni))), pickWithin_spec ..⟩
  · have hx := log2_32_positive he hn
    exact ⟨fun hp => hlog2 (hx.trans (if_pos hp)), fun hp => ⟨_, hlog2 (hx.trans (if_neg hp)), pickWithin_spec ..⟩⟩

/-- Settles O34: the presence of operands, the elements of each type, and the approximating operations. -/
theorem vxOperandsAndElements : Obligations.VxOperandsAndElements := by
  refine ⟨fun o s b tn r R hc hR hh h0 => ⟨fun p hp => elementForm_presence hc hR hh h0 hp,
    fun cause log c k st hown hst => State.vxFreeze_shows hown hst⟩, fun m x y z hx hy => ⟨intElement_spec x y hx hy,
    fun t _ => floatElement_spec m x y z t, fun t l e he ht hf => elems_infinite he ht hf, fun a b p => ?_⟩, approximations⟩
  obtain ⟨h1, h2, h3⟩ := vselLane_spec a b p
  exact ⟨h1, h2, h3, vshl32_eq a.v b.v, vshrL32_eq a.v b.v, vshrA32_of_le⟩

end Sys2Proof.Proofs

end

section
/-! PROOFS. Op-words that make lanes of lanes (R209, R210, R214, R218), and `.i32` sums of reductions and scans (R39, R212, R213,
R223). -/

open Sys2Proof

namespace Sys2Proof.Machine

/-! ### Lists cut into pieces of one length -/

section
variable {α β : Type} {f : α → List β} {w : Nat}

/-- An element of equal pieces put one after another. -/
theorem getElem?_flatMap_of_length {l : List α} (hf : ∀ x ∈ l, (f x).length = w) (j : Nat) {i : Nat} (hi : i < w) :
    (l.flatMap f)[w * j + i]? = l[j]?.bind (fun x => (f x)[i]?) := by
  induction l generalizing j with
  | nil => rfl
  | cons x l ih =>
    have hx := hf x (by simp)
    rw [List.flatMap_cons]
    cases j with
    | zero =>
      rw [Nat.mul_zero, Nat.zero_add, List.getElem?_append_left (by omega)]
      rfl
    | succ j =>
      have he : w * (j + 1) + i = w + (w * j + i) := by ring
      rw [he, ← hx, List.getElem?_append_right (by omega), Nat.add_sub_cancel_left]
      rw [hx]
      exact ih (fun y hy => hf y (List.mem_cons_of_mem _ hy)) j

theorem length_flatMap_of_length {l : List α} (hf : ∀ x ∈ l, (f x).length = w) : (l.flatMap f).length = w * l.length := by
  induction l with
  | nil => rfl
  | cons x l ih =>
    rw [List.flatMap_cons, List.length_append, hf x (by simp), ih fun y hy => hf y (List.mem_cons_of_mem _ hy), List.length_cons]
    ring

end

/-! ### Op-words given by their lanes -/

/-- An op-word with register sources and a register destination, whose check passes. -/
theorem State.flat_wrote {s : State} {b t r : Nat} {R : Routine} {srcs : List (VCode × Bool)} {d : VCode} {opc : Nat}
    {body : Tenon → Routine → List FVal × Option VFail} (hi : s.OpIssues b t r R srcs (some d))
    (hf : R.checks = false ∨ (body (s.tenon b t) R).2 = none) :
    ∃ u, s.flat srcs d opc body = .next u ∧ s.Wrote u b t r d.toNat
      { lanes := (body (s.tenon b t) R).1, full := true, poison := srcs.any (fun p => ((s.tenon b t).reg p.1.toNat).poison) }
      R.next := by
  have hnone : (if R.checks then (body (s.tenon b t) R).2 else none) = none := by
    rcases hf with h | h
    · rw [h]; rfl
    · rw [h]; exact ite_self _
  rw [State.flat, State.opword_of_issues hi]
  simp only [State.vxWrite, hnone]
  exact ⟨_, rfl, State.wrote_vxDone (fun _ => rfl) (Tenon.tiles_put ..) (Tenon.routines_put ..)⟩

section
variable {s : State} {b t r : Nat} {R : Routine} {ty : VTy} {d a f : VCode} {rtz x : Bool} (hi : s.OpIssues b t r R [(a, x)] (some d))
include hi

/-- R210: a conversion. -/
theorem exec_vcvt_wrote {g : SFmt} (hg : SFmt.ofCode f.toNat = some g)
    (hf : R.checks = false ∨ vcvtFail R ty g ((s.tenon b t).lanes a) (vcvtElems ty g (R.mode rtz) ((s.tenon b t).lanes a)) = none) :
    ∃ u, exec (.vcvt ty d a f rtz x) s = .next u ∧ s.Wrote u b t r d.toNat
      { lanes := vcvtLanes g (vcvtElems ty g (R.mode rtz) ((s.tenon b t).lanes a)), full := true
        poison := [(a, x)].any (fun p => ((s.tenon b t).reg p.1.toNat).poison) } R.next := by
  have hx : exec (.vcvt ty d a f rtz x) s = s.flat [(a, x)] d (0x19 * 4 + ty.tyCode) (fun T R =>
      (vcvtLanes g (vcvtElems ty g (R.mode rtz) (T.lanes a)), vcvtFail R ty g (T.lanes a) (vcvtElems ty g (R.mode rtz) (T.lanes a)))) := by
    show execVcvt ty d a f rtz x s = _
    simp only [execVcvt, hg]
  rw [hx]
  exact State.flat_wrote hi hf

/-- R211: a quantisation. -/
theorem exec_vquant_wrote {g : SebFmt} (hg : SebFmt.ofCode f.toNat = some g) :
    ∃ u, exec (.vquant ty d a f x) s = .next u ∧ s.Wrote u b t r d.toNat
      { lanes := vquantLanes ty g ((s.tenon b t).lanes a), full := true
        poison := [(a, x)].any (fun p => ((s.tenon b t).reg p.1.toNat).poison) } R.next := by
  have hx : exec (.vquant ty d a f x) s = s.flat [(a, x)] d (0x1A * 4 + ty.tyCode) (fun T _ => (vquantLanes ty g (T.lanes a), none)) := by
    show execVquant ty d a f x s = _
    simp only [execVquant, hg]
  rw [hx]
  exact State.flat_wrote (body := fun T _ => (vquantLanes ty g (T.lanes a), none)) hi (.inr rfl)

theorem exec_vdequant_wrote {g : SebFmt} (hg : SebFmt.ofCode f.toNat = some g) :
    ∃ u, exec (.vdequant ty d a f x) s = .next u ∧ s.Wrote u b t r d.toNat
      { lanes := vdequantLanes ty g ((s.tenon b t).lanes a), full := true
        poison := [(a, x)].any (fun p => ((s.tenon b t).reg p.1.toNat).poison) } R.next := by
  have hx : exec (.vdequant ty d a f x) s =
      s.flat [(a, x)] d (0x1B * 4 + ty.tyCode) (fun T _ => (vdequantLanes ty g (T.lanes a), none)) := by
    show execVdequant ty d a f x s = _
    simp only [execVdequant, hg]
  rw [hx]
  exact State.flat_wrote (body := fun T _ => (vdequantLanes ty g (T.lanes a), none)) hi (.inr rfl)

/-- R212: a reduction within the register. -/
theorem State.vred_reg_wrote (c : Comb) :
    let n := (c.tree ty (R.mode rtz) ((s.tenon b t).lanes a) R.aw).getD ⟨c.identity ty, none⟩
    (R.checks = false ∨ c.fail R.start.modes ty R.aw (List.replicate (64 * ty.per) n) = none) →
    ∃ u, s.vred c ty d a .reg rtz x = .next u ∧ s.Wrote u b t r d.toNat
      { lanes := splat ty n.v, full := true, poison := [(a, x)].any (fun p => ((s.tenon b t).reg p.1.toNat).poison) } R.next := by
  intro n hf
  rw [State.vred, if_pos rfl]
  exact State.flat_wrote hi hf

/-- R213: a scan within the register. -/
theorem State.vscan_reg_wrote (c : Comb) :
    let ns := c.scan ty (R.mode rtz) none ((s.tenon b t).lanes a) R.aw
    (R.checks = false ∨ c.fail R.start.modes ty R.aw ns = none) →
    ∃ u, s.vscan c ty d a .reg rtz x = .next u ∧ s.Wrote u b t r d.toNat
      { lanes := ofElems ty (ns.map RedNode.v), full := true
        poison := [(a, x)].any (fun p => ((s.tenon b t).reg p.1.toNat).poison) } R.next := by
  intro ns hf
  rw [State.vscan, if_pos rfl]
  exact State.flat_wrote hi hf

end

/-! ### Sums of `.i32` elements -/

theorem intAdd_fst (x y : VEl) : (EOp.add.int false x y).1 = (x.1 + y.1) % 2 ^ 32 := by
  show (BitVec.ofInt 32 (signedOf 32 x.1 + signedOf 32 y.1)).toNat = _
  rw [BitVec.ofInt_add, ofInt_signedOf, ofInt_signedOf, ← BitVec.ofNat_add, BitVec.toNat_ofNat]

/-- The sum of the elements of nodes. -/
def nodeSum (l : List RedNode) : Nat := (l.map (fun n => n.v.1)).sum % 2 ^ 32

/-- A node as an `.i32` sum leaves one. -/
def RedNode.Whole (n : RedNode) : Prop := n.v.1 < 2 ^ 32 ∧ n.v.2 = 24

section
variable (m : Mode)

theorem whole_node (x y : RedNode) : (Comb.add.node .i32 m x y).Whole :=
  ⟨(intAdd_fst x.v y.v).trans_lt (Nat.mod_lt _ (by decide)), rfl⟩

theorem level_length : ∀ l : List RedNode, (Comb.add.level .i32 m l).length = (l.length + 1) / 2
  | [] => rfl
  | [_] => by simp [Comb.level]
  | x :: y :: l => by
    rw [Comb.level, List.length_cons, level_length l, List.length_cons, List.length_cons]
    omega

theorem level_whole : ∀ {l : List RedNode}, (∀ n ∈ l, n.Whole) → ∀ n ∈ Comb.add.level .i32 m l, n.Whole
  | [], h => h
  | [_], h => h
  | x :: y :: l, h => by
    rw [Comb.level]
    intro n hn
    rcases List.mem_cons.mp hn with rfl | hn
    · exact whole_node m x y
    · exact level_whole (fun k hk => h k (List.mem_cons_of_mem _ (List.mem_cons_of_mem _ hk))) n hn

theorem level_sum : ∀ l : List RedNode, nodeSum (Comb.add.level .i32 m l) = nodeSum l
  | [] => rfl
  | [_] => rfl
  | x :: y :: l => by
    have hl := level_sum l
    have hxy : (Comb.add.node .i32 m x y).v.1 = (x.v.1 + y.v.1) % 2 ^ 32 := intAdd_fst x.v y.v
    rw [Comb.level]
    simp only [nodeSum, List.map_cons, List.sum_cons, hxy] at hl ⊢
    omega

/-- R39: the levels of the tree, of at most 2^n members, leave one node with their sum. -/
theorem levels_sum (n : Nat) {l : List RedNode} (h0 : 0 < l.length) (hn : l.length ≤ 2 ^ n) (hw : ∀ n ∈ l, n.Whole) :
    ∃ x, Comb.add.levels .i32 m n l = [x] ∧ x.v = (nodeSum l, 24) := by
  induction n generalizing l with
  | zero =>
    obtain ⟨x, rfl⟩ := List.length_eq_one_iff.mp (show l.length = 1 by omega)
    obtain ⟨h1, h2⟩ := hw x (by simp)
    refine ⟨x, rfl, Prod.ext ?_ h2⟩
    simp only [nodeSum, List.map_cons, List.map_nil, List.sum_cons, List.sum_nil, Nat.add_zero]
    exact (Nat.mod_eq_of_lt h1).symm
  | succ n ih =>
    have hlen := level_length m l
    rw [Comb.levels, ← level_sum m l]
    exact ih (by omega) (by rw [hlen]; omega) (level_whole m hw)

theorem scanFrom_length (t : VTy) (c : Comb) : ∀ (o : Option VEl) (l : List VEl), (c.scanFrom t m o l).length = l.length
  | _, [] => by unfold Comb.scanFrom; rfl
  | none, x :: l => by simp only [Comb.scanFrom, List.length_cons, scanFrom_length]
  | some s, x :: l => by simp only [Comb.scanFrom, List.length_cons, scanFrom_length]

/-- R213: a running sum. -/
theorem scanFrom_sum : ∀ (s : VEl) (l : List VEl) (k : Nat), k < l.length →
    ((Comb.add.scanFrom .i32 m (some s) l).map (fun n => n.v.1))[k]? = some ((s.1 + ((l.take (k + 1)).map Prod.fst).sum) % 2 ^ 32)
  | s, x :: l, 0, _ => by
    simp only [Comb.scanFrom, List.map_cons, List.getElem?_cons_zero, List.take_succ_cons, List.take_zero, List.map_nil,
      List.sum_cons, List.sum_nil, Nat.add_zero]
    exact congrArg some (intAdd_fst s x)
  | s, x :: l, k + 1, h => by
    have hx : (Comb.add.two .i32 m s x).1 = (s.1 + x.1) % 2 ^ 32 := intAdd_fst s x
    simp only [Comb.scanFrom, List.map_cons, List.getElem?_cons_succ, List.take_succ_cons, List.sum_cons]
    rw [scanFrom_sum _ l k (by simpa using h), hx]
    congr 1
    omega

end

/-- R212, R213: the `.i32` sum of the active lanes, and their running sums. -/
theorem intSums (m : Mode) (l : List FVal) (aw : Nat) (hl : l.length = 64) (h0 : 0 < aw) (h64 : aw ≤ 64) :
    let sum (n : Nat) : Nat := ((l.take n).map (fun v => v.v.toNat)).sum % 2 ^ 32
    ((Comb.add.tree .i32 m l aw).map (fun n => n.v)) = some (sum aw, 24) ∧
    ∀ k, k < aw → ((Comb.add.scan .i32 m none l aw).map (fun n => n.v.1))[k]? = some (sum (k + 1)) := by
  intro sum
  have hels : ((elems .i32 l).take (VTy.i32.per * aw)) = (l.take aw).map (fun x => (x.v.toNat, 24)) := by
    have hp : VTy.i32.per = 1 := rfl
    rw [hp, Nat.one_mul]
    exact (List.map_take ..).symm
  constructor
  · have hlen : (((l.take aw).map (fun x => (x.v.toNat, 24))).map (fun x => (⟨x, none⟩ : RedNode))).length = aw := by simp; omega
    obtain ⟨x, hx, hv⟩ := levels_sum m 6 (l := ((l.take aw).map (fun x => (x.v.toNat, 24))).map (fun x => (⟨x, none⟩ : RedNode)))
      (by rw [hlen]; exact h0) (by rw [hlen]; exact h64) (by
        intro n hn
        simp only [List.map_map, List.mem_map, Function.comp] at hn
        obtain ⟨a, -, rfl⟩ := hn
        exact ⟨a.v.isLt, rfl⟩)
    have hsum : nodeSum (((l.take aw).map (fun x => (x.v.toNat, 24))).map (fun x => (⟨x, none⟩ : RedNode))) = sum aw := by
      simp only [nodeSum, List.map_map]
      rfl
    rw [hsum] at hv
    rw [Comb.tree, hels]
    show (Option.map _ (Option.map _ (List.head? (Comb.add.levels .i32 m 6 _)))) = _
    rw [hx]
    simp only [List.head?_cons, Option.map_some]
    exact congrArg some hv
  · intro k hk
    have hact : ((l.take aw).map (fun x => (x.v.toNat, 24))).length = aw := by simp; omega
    have hrun : ((Comb.add.scanFrom .i32 m none ((l.take aw).map (fun x => (x.v.toNat, 24)))).map (fun n => n.v.1))[k]? =
        some (sum (k + 1)) := by
      obtain ⟨x, xs, rfl⟩ : ∃ x xs, l = x :: xs := List.exists_cons_of_ne_nil (List.ne_nil_of_length_pos (by omega))
      obtain ⟨n, rfl⟩ : ∃ n, aw = n + 1 := ⟨aw - 1, by omega⟩
      rw [List.take_succ_cons, List.map_cons, Comb.scanFrom, List.map_cons]
      cases k with
      | zero =>
        have hx : x.v.toNat % 2 ^ 32 = x.v.toNat := Nat.mod_eq_of_lt x.v.isLt
        simp only [sum, List.getElem?_cons_zero, List.take_succ_cons, List.take_zero, List.map_cons, List.map_nil, List.sum_cons,
          List.sum_nil, Nat.add_zero, hx]
        rfl
      | succ k =>
        rw [List.getElem?_cons_succ]
        refine (scanFrom_sum m _ _ k (by simp at hl ⊢; omega)).trans ?_
        have ht : (xs.take n).take (k + 1) = xs.take (k + 1) := by rw [List.take_take, Nat.min_eq_left (by omega)]
        simp only [sum, List.take_succ_cons, List.map_cons, List.sum_cons, ← List.map_take, ht, List.map_map]
        rfl
    rw [← hrun]
    simp only [Comb.scan, hels]
    rw [List.map_append, List.getElem?_append_left (by rw [List.length_map, scanFrom_length, hact]; exact hk)]

/-! ### Records -/

/-- R218: the lanes of a record. -/
theorem vrecLanes_spec (A B : List FVal) (round : BitVec 16) {j : Nat} (hj : j < 8) :
    (∀ k, k < 6 → (vrecLanes A B round)[8 * j + k]? = some ⟨(A.getD (6 * j + k) FVal.zero).v, 24⟩) ∧
    (vrecLanes A B round)[8 * j + 6]? = some ⟨(B.getD j FVal.zero).v, 24⟩ ∧
    (vrecLanes A B round)[8 * j + 7]? = some ⟨round.zeroExtend 32, 24⟩ := by
  have hv (a : FVal) : FVal.mk' (BitVec.ofNat 32 a.v.toNat) 24 = ⟨a.v, 24⟩ := by
    rw [FVal.mk', BitVec.ofNat_toNat, BitVec.setWidth_eq]
    rfl
  have hr : FVal.mk' (BitVec.ofNat 32 round.toNat) 24 = ⟨round.zeroExtend 32, 24⟩ := by
    rw [FVal.mk', BitVec.ofNat_toNat]
    rfl
  have hrec (k : Nat) (hk : k < 8) : (vrecLanes A B round)[8 * j + k]? =
      ((((List.range 6).map (fun k => (A.getD (6 * j + k) FVal.zero).v.toNat)) ++ [(B.getD j FVal.zero).v.toNat, round.toNat]).map
        (fun v => FVal.mk' (BitVec.ofNat 32 v) 24))[k]? := by
    refine (getElem?_flatMap_of_length (w := 8) (fun _ _ => by simp) j hk).trans ?_
    rw [List.getElem?_range hj]
    rfl
  refine ⟨fun k hk => ?_, ?_, ?_⟩
  · rw [hrec k (by omega), List.getElem?_map, List.getElem?_append_left (by simpa using hk), List.getElem?_map, List.getElem?_range hk]
    exact congrArg some (hv _)
  · exact (hrec 6 (by omega)).trans (congrArg some (hv _))
  · exact (hrec 7 (by omega)).trans (congrArg some hr)

end Sys2Proof.Machine

namespace Sys2Proof.Proofs

open Sys2Proof.Machine

/-- R209, R210, R211, R214, R218: each op-word writes the lanes that it makes. -/
theorem laneOpwords (o : VFields) (s : State) (b tn r : Nat) (R : Routine) :
    let T := s.tenon b tn
    let A := (T.reg o.a.toNat).lanes
    let B := (T.reg o.b.toNat).lanes
    let m := R.mode o.rtz
    let wrote (i : Instr) (srcs : List (VCode × Bool)) (l : List FVal) : Prop :=
      s.OpIssues b tn r R srcs (some o.d) → (∀ c ∈ o.d :: srcs.map Prod.fst, isTile c.toNat = false) →
      ∃ u, exec i s = .next u ∧
        s.Wrote u b tn r o.d.toNat { lanes := l, full := true, poison := srcs.any (fun p => (T.reg p.1.toNat).poison) } R.next
    let one := [(o.a, o.x)]
    wrote (.vperm o.d o.a o.b o.y o.x) [(o.a, o.x), (o.b, o.y)] (B.map (fun v => A.getD (v.v.toNat % 64) FVal.zero)) ∧
    wrote (.vbcast o.d o.a o.n6 o.x) one (List.replicate 64 (A.getD o.n6.toNat FVal.zero)) ∧
    wrote (.vsigLt o.t o.d o.a o.n5 o.x) one
      (ofElems o.t ((elems o.t A).map (fun e => (if e.2 < o.n5.toNat then o.t.ones else 0, 24)))) ∧
    wrote (.vsigGe o.t o.d o.a o.n5 o.x) one
      (ofElems o.t ((elems o.t A).map (fun e => (if o.n5.toNat ≤ e.2 then o.t.ones else 0, 24)))) ∧
    wrote (.vsigCnt o.t o.d o.a o.n5 o.x) one (ofElems o.t ((elems o.t A).map (fun e => (e.2, 24)))) ∧
    wrote (.vrec o.d o.a o.b o.y o.x) [(o.a, o.x), (o.b, o.y)] (vrecLanes A B R.start.round) ∧
    (∀ g, SFmt.ofCode o.f.toNat = some g → R.checks = false ∨ vcvtFail R o.t g A (vcvtElems o.t g m A) = none →
      wrote (.vcvt o.t o.d o.a o.f o.rtz o.x) one (vcvtLanes g (vcvtElems o.t g m A))) ∧
    (∀ g, SebFmt.ofCode o.f.toNat = some g →
      wrote (.vquant o.t o.d o.a o.f o.x) one (vquantLanes o.t g A) ∧ wrote (.vdequant o.t o.d o.a o.f o.x) one (vdequantLanes o.t g A)) ∧
    (∀ q ∈ [(Instr.vredAdd o.t o.d o.a .reg o.rtz o.x, Comb.add), (.vredMin o.t o.d o.a .reg o.rtz o.x, .min),
        (.vredMax o.t o.d o.a .reg o.rtz o.x, .max)],
      let n := (q.2.tree o.t m A R.aw).getD ⟨q.2.identity o.t, none⟩
      R.checks = false ∨ q.2.fail R.start.modes o.t R.aw (List.replicate (64 * o.t.per) n) = none → wrote q.1 one (splat o.t n.v)) ∧
    (∀ q ∈ [(Instr.vscanAdd o.t o.d o.a .reg o.rtz o.x, Comb.add), (.vscanMin o.t o.d o.a .reg o.rtz o.x, .min),
        (.vscanMax o.t o.d o.a .reg o.rtz o.x, .max)],
      let ns := q.2.scan o.t m none A R.aw
      R.checks = false ∨ q.2.fail R.start.modes o.t R.aw ns = none → wrote q.1 one (ofElems o.t (ns.map RedNode.v))) := by
  intro T A B m wrote one
  refine ⟨?_, ?_, ?_, ?_, ?_, ?_, fun g hg hf hi _ => ?_, fun g hg => ⟨fun hi _ => ?_, fun hi _ => ?_⟩, ?_, ?_⟩
  · exact fun hi _ => State.flat_wrote (body := fun T _ => (vpermLanes (T.lanes o.a) (T.lanes o.b), none)) hi (.inr rfl)
  · exact fun hi _ => State.flat_wrote (body := fun T _ => (List.replicate 64 ((T.lanes o.a).getD o.n6.toNat FVal.zero), none)) hi
      (.inr rfl)
  · exact fun hi _ => State.flat_wrote (body := fun T _ => (vsigLanes o.t .lt o.n5.toNat (T.lanes o.a), none)) hi (.inr rfl)
  · exact fun hi _ => State.flat_wrote (body := fun T _ => (vsigLanes o.t .ge o.n5.toNat (T.lanes o.a), none)) hi (.inr rfl)
  · exact fun hi _ => State.flat_wrote (body := fun T _ => (vsigLanes o.t .cnt o.n5.toNat (T.lanes o.a), none)) hi (.inr rfl)
  · exact fun hi _ => State.flat_wrote (body := fun T R => (vrecLanes (T.lanes o.a) (T.lanes o.b) R.start.round, none)) hi (.inr rfl)
  · exact exec_vcvt_wrote hi hg hf
  · exact exec_vquant_wrote hi hg
  · exact exec_vdequant_wrote hi hg
  · simp only [List.forall_mem_cons, List.not_mem_nil, false_imp_iff, implies_true, and_true]
    exact ⟨fun hf hi _ => State.vred_reg_wrote hi .add hf, fun hf hi _ => State.vred_reg_wrote hi .min hf,
      fun hf hi _ => State.vred_reg_wrote hi .max hf⟩
  · simp only [List.forall_mem_cons, List.not_mem_nil, false_imp_iff, implies_true, and_true]
    exact ⟨fun hf hi _ => State.vscan_reg_wrote hi .add hf, fun hf hi _ => State.vscan_reg_wrote hi .min hf,
      fun hf hi _ => State.vscan_reg_wrote hi .max hf⟩

end Sys2Proof.Proofs

end

section
/-! PROOFS. Bytes and lanes (R15, R202), and the bytes and counts of conversions (R210). -/

open Sys2Proof

namespace Sys2Proof.Machine

/-! ### Bytes -/

theorem leBytes_leNat (l : List Byte) : leBytes l.length (leNat l) = l := by
  induction l with
  | nil => rfl
  | cons b l ih =>
    have hb := b.isLt
    rw [List.length_cons, leBytes, leNat]
    have h1 : BitVec.ofNat 8 (b.toNat + 256 * leNat l) = b := by
      apply BitVec.eq_of_toNat_eq
      rw [BitVec.toNat_ofNat]
      omega
    have h2 : (b.toNat + 256 * leNat l) / 256 = leNat l := by omega
    rw [h1, h2, ih]

theorem getElem?_padTo {α : Type} (n : Nat) (d : α) (l : List α) (i : Nat) :
    (padTo n d l)[i]? = if i < n then some (l.getD i d) else none := by
  unfold padTo
  by_cases hl : i < l.length
  · by_cases hn : i < n
    · rw [List.getElem?_append_left (by simp; omega), List.getElem?_take_of_lt hn, if_pos hn, List.getD_eq_getElem _ _ hl,
        List.getElem?_eq_getElem hl]
    · rw [if_neg hn, List.getElem?_eq_none (by simp; omega)]
  · by_cases hn : i < n
    · rw [List.getElem?_append_right (by simp; omega), if_pos hn, List.getD_eq_default _ _ (by omega), List.getElem?_replicate,
        if_pos (by simp; omega)]
    · rw [if_neg hn, List.getElem?_eq_none (by simp; omega)]

theorem length_padTo {α : Type} (n : Nat) (d : α) (l : List α) : (padTo n d l).length = n := by
  unfold padTo
  simp
  omega

/-- R202: lanes made of bytes have those bytes. -/
theorem laneBytes_laneOfBytes {bytes : List Byte} (hb : bytes.length = 256) (c : Nat → Nat) :
    laneBytes ((List.range 64).map (fun k => FVal.mk' (laneOfBytes bytes k) (c k))) = bytes := by
  refine List.ext_getElem? fun n => ?_
  have hn : n = 4 * (n / 4) + n % 4 := by omega
  rw [laneBytes, List.flatMap_map, hn, getElem?_flatMap_of_length (w := 4) (fun _ _ => leBytes_length ..) _ (Nat.mod_lt _ (by decide))]
  by_cases h : n / 4 < 64
  · have hl : ((bytes.drop (4 * (n / 4))).take 4).length = 4 := by simp; omega
    have hlt := leNat_lt ((bytes.drop (4 * (n / 4))).take 4)
    rw [hl] at hlt
    have hv : leBytes 4 (laneOfBytes bytes (n / 4)).toNat = (bytes.drop (4 * (n / 4))).take 4 := by
      rw [laneOfBytes, BitVec.toNat_ofNat, bytesAt, Nat.mod_eq_of_lt hlt]
      have h := leBytes_leNat ((bytes.drop (4 * (n / 4))).take 4)
      rwa [hl] at h
    rw [List.getElem?_range h, Option.bind_some]
    show (leBytes 4 (laneOfBytes bytes (n / 4)).toNat)[n % 4]? = _
    rw [hv, List.getElem?_take_of_lt (Nat.mod_lt _ (by decide)), List.getElem?_drop]
  · rw [List.getElem?_eq_none (by simp; omega), List.getElem?_eq_none (by omega)]
    rfl

/-- R210, R211: pieces of w bytes one after another, then zeros. -/
theorem padded_pieces {f : Nat → List Byte} {w : Nat} (b : Nat) (hf : ∀ j, (f j).length = w) :
    (∀ j, j < b → (j + 1) * w ≤ 256 → ((padTo 256 0 ((List.range b).flatMap f)).drop (j * w)).take w = f j) ∧
    ∀ n, b * w ≤ n → n < 256 → (padTo 256 0 ((List.range b).flatMap f)).getD n 0 = 0 := by
  have hlen : ((List.range b).flatMap f).length = w * b := by
    rw [length_flatMap_of_length (w := w) (fun j _ => hf j), List.length_range]
  refine ⟨fun j hj h256 => List.ext_getElem? fun i => ?_, fun n h0 h1 => ?_⟩
  · rw [List.getElem?_take]
    split
    · next hi =>
      have hm : (j + 1) * w = j * w + w := by ring
      have hle : (j + 1) * w ≤ b * w := Nat.mul_le_mul_right _ hj
      have hlt : w * j + i < ((List.range b).flatMap f).length := by
        rw [hlen, Nat.mul_comm w j, Nat.mul_comm w b]
        omega
      have hget := getElem?_flatMap_of_length (l := List.range b) (f := f) (fun j _ => hf j) j hi
      rw [List.getElem?_range hj, Option.bind_some] at hget
      rw [List.getElem?_drop, getElem?_padTo, if_pos (by omega), Nat.mul_comm j, ← hget, List.getElem?_eq_getElem hlt,
        List.getD_eq_getElem _ _ hlt]
    · next hi => rw [List.getElem?_eq_none (by rw [hf]; omega)]
  · rw [List.getD_eq_getElem?_getD, getElem?_padTo, if_pos h1, List.getD_eq_default _ _ (by rw [hlen, Nat.mul_comm]; omega)]
    rfl

/-! ### The least of counts -/

theorem foldl_min_le {α : Type} (f : α → Nat) (l : List α) (c : Nat) :
    l.foldl (fun c e => Nat.min c (f e)) c ≤ c ∧ (∀ e ∈ l, l.foldl (fun c e => Nat.min c (f e)) c ≤ f e) ∧
      (l.foldl (fun c e => Nat.min c (f e)) c = c ∨ ∃ e ∈ l, l.foldl (fun c e => Nat.min c (f e)) c = f e) := by
  induction l generalizing c with
  | nil => exact ⟨le_rfl, by simp, .inl rfl⟩
  | cons x l ih =>
    obtain ⟨h1, h2, h3⟩ := ih (Nat.min c (f x))
    have hc : Nat.min c (f x) ≤ c := Nat.min_le_left ..
    have hx : Nat.min c (f x) ≤ f x := Nat.min_le_right ..
    rw [List.foldl_cons]
    refine ⟨h1.trans hc, ?_, ?_⟩
    · intro e he
      rcases List.mem_cons.mp he with rfl | he
      · exact h1.trans hx
      · exact h2 e he
    · rcases h3 with h3 | ⟨e, he, h3⟩
      · rw [h3]
        rcases Nat.le_total c (f x) with h | h
        · exact .inl (Nat.min_eq_left h)
        · exact .inr ⟨x, by simp, Nat.min_eq_right h⟩
      · exact .inr ⟨e, List.mem_cons_of_mem _ he, h3⟩

/-- The least of counts at most 24 is one of them. -/
theorem foldl_min_mem {α : Type} (f : α → Nat) {l : List α} (hl : l ≠ []) (h : ∀ e ∈ l, f e ≤ 24) :
    ∃ e ∈ l, l.foldl (fun c e => Nat.min c (f e)) 24 = f e := by
  obtain ⟨h1, h2, h3 | h3⟩ := foldl_min_le f l 24
  · obtain ⟨x, hx⟩ := List.exists_mem_of_ne_nil l hl
    have := h2 x hx
    have := h x hx
    exact ⟨x, hx, by omega⟩
  · exact h3

/-! ### Conversions -/

theorem length_elems (t : VTy) (l : List FVal) : (elems t l).length = t.per * l.length := by
  have h2 (f g : FVal → VEl) : (l.flatMap (fun x => [f x, g x])).length = 2 * l.length :=
    length_flatMap_of_length (w := 2) (fun _ _ => rfl)
  cases t with
  | f32 => simp [elems, VTy.per, VTy.packed]
  | i32 => simp [elems, VTy.per, VTy.packed]
  | f16 => exact h2 _ _
  | bf16 => exact h2 _ _

theorem countCvt_le (src : Ex) (ca : Nat) (f : FFmt) (m : Mode) : countCvt src ca f m ≤ f.p := by
  unfold countCvt
  dsimp only
  split
  · omega
  · split
    · omega
    · exact Nat.min_le_right ..

theorem intCount_le (x : Ex) (f : FFmt) (bits : Nat) : intCount x f bits ≤ f.p := by
  unfold intCount
  dsimp only
  split
  · omega
  · split <;> omega

section
variable (t : VTy) (g : SFmt) (m : Mode) (A : List FVal)

/-- The value of element k as a conversion takes it. -/
def cvtSource (k : Nat) : Ex :=
  let x := (elems t A).getD k (0, 0)
  if t = .i32 then Ex.ofInt (BitVec.ofNat 32 x.1).toInt else t.ex x

/-- The element that a conversion makes of element k. -/
def cvtElem (k : Nat) : VEl := vcvtElem t g m ((elems t A).getD k (0, 0))

theorem cvtElem_int (f : IFmt) (k : Nat) : cvtElem t (.int f) m A k = ((f.ofEx (cvtSource t A k) m % 2 ^ f.width).toNat, 24) := by
  simp only [cvtElem, vcvtElem, cvtSource, signedOf_eq_toInt (show 0 < 32 by decide)]
  rfl

theorem cvtElem_flt (f : FFmt) (k : Nat) : cvtElem t (.flt f) m A k =
    let bits := f.round (cvtSource t A k) m
    (bits, if t = .i32 then intCount (cvtSource t A k) f bits else countCvt (cvtSource t A k) ((elems t A).getD k (0, 0)).2 f m) := by
  simp only [cvtElem, vcvtElem, cvtSource, signedOf_eq_toInt (show 0 < 32 by decide)]

theorem cvtElem_count_le (k : Nat) : (cvtElem t g m A k).2 ≤ 24 := by
  cases g with
  | int f => rw [cvtElem_int]
  | flt f =>
    rw [cvtElem_flt]
    have hp : f.p ≤ 24 := by cases f <;> decide
    dsimp only
    split
    · exact (intCount_le ..).trans hp
    · exact (countCvt_le ..).trans hp

variable (hA : A.length = 64)
include hA

theorem vcvtElems_eq : vcvtElems t g m A = (List.range 64).map (fun k => ⟨(cvtElem t g m A k).1, (cvtElem t g m A k).2, k * g.size / 4⟩) := by
  have hp : 1 ≤ t.per := by cases t <;> decide
  have hlen : 64 ≤ (elems t A).length := by rw [length_elems, hA]; omega
  refine List.ext_getElem? fun k => ?_
  simp only [vcvtElems, List.getElem?_map, List.getElem?_zipIdx]
  by_cases hk : k < 64
  · rw [List.getElem?_take_of_lt hk, List.getElem?_range hk, List.getElem?_eq_getElem (by omega)]
    simp [cvtElem, List.getElem?_eq_getElem (show k < (elems t A).length by omega)]
  · rw [List.getElem?_eq_none (by simp; omega), List.getElem?_eq_none (by simp; omega)]
    rfl

/-- R210: the bytes of the results. -/
theorem laneBytes_vcvtLanes : laneBytes (vcvtLanes g (vcvtElems t g m A)) =
    padTo 256 0 ((List.range 64).flatMap (fun k => leBytes g.size (cvtElem t g m A k).1)) := by
  rw [vcvtLanes, laneBytes_laneOfBytes (length_padTo ..), vcvtElems_eq t g m A hA, List.flatMap_map]

/-- R210: the count of a lane. -/
theorem vcvtLanes_count {j : Nat} (hj : j < 64) : ((vcvtLanes g (vcvtElems t g m A)).getD j FVal.zero).c.toNat =
    ((List.range 64).filter (fun k => k * g.size / 4 == j)).foldl (fun c k => Nat.min c (cvtElem t g m A k).2) 24 := by
  have hle := (foldl_min_le (fun k => (cvtElem t g m A k).2) ((List.range 64).filter (fun k => k * g.size / 4 == j)) 24).1
  rw [vcvtLanes, List.getD_eq_getElem _ _ (by simpa using hj), List.getElem_map, List.getElem_range, vcvtElems_eq t g m A hA,
    List.filter_map, List.foldl_map]
  refine (BitVec.toNat_ofNat ..).trans (Nat.mod_eq_of_lt ?_)
  exact hle.trans_lt (by decide)

/-- R210: what a conversion writes. -/
theorem vcvt_bytes :
    (∀ k, k < 64 → (k + 1) * g.size ≤ 256 →
      ((laneBytes (vcvtLanes g (vcvtElems t g m A))).drop (k * g.size)).take g.size = leBytes g.size (cvtElem t g m A k).1) ∧
    (∀ n, 64 * g.size ≤ n → n < 256 → (laneBytes (vcvtLanes g (vcvtElems t g m A))).getD n 0 = 0) := by
  rw [laneBytes_vcvtLanes t g m A hA]
  exact padded_pieces 64 fun _ => leBytes_length ..

/-- R44, R210: a lane's count is the least of its elements'. -/
theorem vcvt_counts {j : Nat} (hj : j < 64) (hex : ∃ k, k < 64 ∧ k * g.size / 4 = j) :
    (∃ k, k < 64 ∧ k * g.size / 4 = j ∧ ((vcvtLanes g (vcvtElems t g m A)).getD j FVal.zero).c.toNat = (cvtElem t g m A k).2) ∧
    ∀ k, k < 64 → k * g.size / 4 = j → ((vcvtLanes g (vcvtElems t g m A)).getD j FVal.zero).c.toNat ≤ (cvtElem t g m A k).2 := by
  have hmem (k : Nat) : k ∈ (List.range 64).filter (fun k => k * g.size / 4 == j) ↔ k < 64 ∧ k * g.size / 4 = j := by simp
  rw [vcvtLanes_count t g m A hA hj]
  constructor
  · obtain ⟨k, hk, he⟩ := foldl_min_mem (fun k => (cvtElem t g m A k).2) (l := (List.range 64).filter (fun k => k * g.size / 4 == j))
      (by obtain ⟨k, hk⟩ := hex; exact List.ne_nil_of_mem ((hmem k).mpr hk)) (fun k _ => cvtElem_count_le t g m A k)
    exact ⟨k, ((hmem k).mp hk).1, ((hmem k).mp hk).2, he⟩
  · exact fun k h1 h2 => (foldl_min_le (fun k => (cvtElem t g m A k).2) _ 24).2.1 k ((hmem k).mpr ⟨h1, h2⟩)

end

end Sys2Proof.Machine

namespace Sys2Proof.Proofs

open Sys2Proof.Machine

/-- R210: the bytes and counts of a conversion. -/
theorem conversions (t : VTy) (g : SFmt) (m : Mode) (A : List FVal) (hA : A.length = 64) :
    let x (k : Nat) : VEl := (elems t A).getD k (0, 0)
    let a (k : Nat) : Ex := if t = .i32 then Ex.ofInt (BitVec.ofNat 32 (x k).1).toInt else t.ex (x k)
    let bits (k : Nat) : Nat := match g with
      | .int f => (f.ofEx (a k) m % 2 ^ f.width).toNat
      | .flt f => f.round (a k) m
    let count (f : FFmt) (k : Nat) : Nat :=
      if t = .i32 then (if (f.decode (bits k)).isFinite then (if (f.decode (bits k)).eqv (a k) then f.p else f.p - 1) else 0)
      else countCvt (a k) (x k).2 f m
    let L := vcvtLanes g (vcvtElems t g m A)
    L.length = 64 ∧ (∀ k, k < 64 → (k + 1) * g.size ≤ 256 → ((laneBytes L).drop (k * g.size)).take g.size = leBytes g.size (bits k)) ∧
    (∀ n, 64 * g.size ≤ n → n < 256 → (laneBytes L).getD n 0 = 0) ∧
    (∀ j, j < 64 → match g with
      | .int _ => (L.getD j FVal.zero).c = 24
      | .flt f => (∃ k, k < 64 ∧ k * g.size / 4 = j) →
          (∃ k, k < 64 ∧ k * g.size / 4 = j ∧ (L.getD j FVal.zero).c.toNat = count f k) ∧
          ∀ k, k < 64 → k * g.size / 4 = j → (L.getD j FVal.zero).c.toNat ≤ count f k) := by
  intro x a bits count L
  have hbits (k : Nat) : bits k = (cvtElem t g m A k).1 := by
    cases g with
    | int f => rw [cvtElem_int]; rfl
    | flt f => rw [cvtElem_flt]; rfl
  obtain ⟨h1, h2⟩ := vcvt_bytes t g m A hA
  refine ⟨by simp [L, vcvtLanes], fun k hk h => by rw [hbits]; exact h1 k hk h, h2, fun j hj => ?_⟩
  cases g with
  | int f =>
    have hc := vcvtLanes_count t (.int f) m A hA hj
    have h24 (k : Nat) : (cvtElem t (.int f) m A k).2 = 24 := by rw [cvtElem_int]
    obtain ⟨-, -, h | ⟨k, -, h⟩⟩ := foldl_min_le (fun k => (cvtElem t (.int f) m A k).2)
      ((List.range 64).filter (fun k => k * (SFmt.int f).size / 4 == j)) 24
    · exact BitVec.eq_of_toNat_eq (hc.trans h)
    · exact BitVec.eq_of_toNat_eq (hc.trans (h.trans (h24 k)))
  | flt f =>
    have hcount (k : Nat) : (cvtElem t (.flt f) m A k).2 = count f k := by
      have hint (b : Nat) (v : Ex) : intCount v f b =
          if (f.decode b).isFinite then (if (f.decode b).eqv v then f.p else f.p - 1) else 0 := by
        unfold intCount
        dsimp only
        cases (f.decode b).isFinite <;> rfl
      rw [cvtElem_flt]
      exact if_congr Iff.rfl (hint _ _) rfl
    intro hex
    have h := vcvt_counts t (.flt f) m A hA hj hex
    simp only [hcount] at h
    exact h

end Sys2Proof.Proofs

end

section
/-! PROOFS. Shared-exponent blocks made and read (R33 to R35, R211). -/

open Sys2Proof

namespace Sys2Proof.Machine

/-! ### Numbers from fields of one width -/

section
variable (s : Nat → Nat) (w : Nat)

/-- The number whose fields of w bits, the lowest first, are s 0, s 1 and so on. -/
def fieldSum (N : Nat) : Nat := (List.range N).foldl (fun n k => n + s k * 2 ^ (k * w)) 0

theorem fieldSum_succ (N : Nat) : fieldSum s w (N + 1) = fieldSum s w N + s N * 2 ^ (N * w) := by
  simp [fieldSum, List.range_succ]

variable {s w} (hs : ∀ k, s k < 2 ^ w)
include hs

theorem fieldSum_lt (N : Nat) : fieldSum s w N < 2 ^ (N * w) := by
  induction N with
  | zero => simp [fieldSum]
  | succ N ih =>
    have hp : 2 ^ ((N + 1) * w) = 2 ^ w * 2 ^ (N * w) := by rw [← Nat.pow_add]; congr 1; ring
    have hm : (s N + 1) * 2 ^ (N * w) ≤ 2 ^ w * 2 ^ (N * w) := Nat.mul_le_mul_right _ (hs N)
    rw [fieldSum_succ, hp]
    rw [Nat.add_mul, Nat.one_mul] at hm
    omega

theorem fieldSum_field {N k : Nat} (hk : k < N) : fieldSum s w N / 2 ^ (k * w) % 2 ^ w = s k := by
  induction N with
  | zero => omega
  | succ N ih =>
    rw [fieldSum_succ]
    rcases Nat.lt_succ_iff_lt_or_eq.mp hk with hk | rfl
    · have hp : s N * 2 ^ (N * w) = s N * 2 ^ ((N - k - 1) * w) * 2 ^ w * 2 ^ (k * w) := by
        rw [Nat.mul_assoc, Nat.mul_assoc, ← Nat.pow_add, ← Nat.pow_add]
        congr 2
        obtain ⟨d, rfl⟩ : ∃ d, N = k + d + 1 := ⟨N - k - 1, by omega⟩
        have : k + d + 1 - k - 1 = d := by omega
        rw [this]
        ring
      rw [hp, Nat.add_mul_div_right _ _ (by positivity), Nat.add_mul_mod_self_right]
      exact ih hk
    · rw [Nat.add_mul_div_right _ _ (by positivity), Nat.div_eq_of_lt (fieldSum_lt hs k), Nat.zero_add, Nat.mod_eq_of_lt (hs k)]

end

/-! ### Lists cut into chunks -/

theorem chunks_eq {α : Type} {n : Nat} (hn : 0 < n) {k fuel : Nat} {l : List α} (hl : l.length = n * k) (hk : k ≤ fuel) :
    chunks n fuel l = (List.range k).map (fun j => (l.drop (n * j)).take n) := by
  induction k generalizing l fuel with
  | zero =>
    obtain rfl := List.length_eq_zero_iff.mp (by simpa using hl)
    cases fuel <;> rfl
  | succ k ih =>
    obtain ⟨fuel, rfl⟩ : ∃ f, fuel = f + 1 := ⟨fuel - 1, by omega⟩
    obtain ⟨x, l', rfl⟩ : ∃ x l', l = x :: l' := List.exists_cons_of_ne_nil (List.ne_nil_of_length_pos (by rw [hl]; positivity))
    rw [chunks, ih (by rw [List.length_drop, hl]; rw [Nat.mul_succ]; omega) (by omega), List.range_succ_eq_map, List.map_cons, List.map_map]
    congr 1
    refine List.map_congr_left fun j _ => ?_
    simp only [Function.comp, List.drop_drop]
    rw [Nat.mul_succ, Nat.add_comm n]

/-! ### Quantise (R35) -/

section
variable (g : SebFmt) (xs : List Ex)

/-- R35: the largest magnitude of a block. -/
def blockMax : Ex := xs.foldl (fun m x => if m.lt x.abs then x.abs else m) (Ex.zero false)

/-- R35: the shared exponent of a block. -/
def blockExp : Nat := if (blockMax xs).isInf then 254 else g.sharedExp (blockMax xs)

/-- R35: whether a pair takes the micro-exponent. -/
def blockMicro (j : Nat) : Bool :=
  g.micro (blockExp g xs) (xs.getD (2 * j) (Ex.zero false)) (xs.getD (2 * j + 1) (Ex.zero false))

/-- R35: the slot of element k. -/
def blockSlot (k : Nat) : Nat := g.slot (blockExp g xs) (blockMicro g xs (k / 2)) (xs.getD k (Ex.zero false))

theorem blockExp_le : blockExp g xs ≤ 254 := by
  unfold blockExp SebFmt.sharedExp
  split
  · omega
  · split
    · omega
    · unfold sat
      dsimp only
      split <;> (try split) <;> omega

theorem blockSlot_lt (k : Nat) : blockSlot g xs k < 2 ^ (g.m + 1) := by
  have hp : 0 < 2 ^ g.m := by positivity
  have htop (y : Ex) (q : Int) : (if y.isInf then 2 ^ g.m - 1 else Nat.min (2 ^ g.m - 1) (rniAt y q)) < 2 ^ g.m := by
    split
    · omega
    · exact (Nat.min_le_left ..).trans_lt (by omega)
  have h := htop (xs.getD k (Ex.zero false)) ((blockExp g xs : Int) - 127 - (if blockMicro g xs (k / 2) then 1 else 0) - (g.m - 1))
  have h2 : 2 ^ (g.m + 1) = 2 * 2 ^ g.m := by rw [Nat.pow_succ, Nat.mul_comm]
  have hM {M : Nat} (hM : M < 2 ^ g.m) (s : Bool) : (if M = 0 then 0 else M + if s then 2 ^ g.m else 0) < 2 * 2 ^ g.m := by
    split
    · omega
    · split <;> omega
  rw [blockSlot, SebFmt.slot, h2]
  exact hM h _

theorem ite_pow_eq (c : Nat → Bool) (j : Nat) : (if c j then 2 ^ j else 0) = (if c j then 1 else 0) * 2 ^ (j * 1) := by
  cases c j <;> simp

/-- R35: the bytes of a block without a NaN: zeros, or its exponents and its slots. -/
theorem quantise_eq (hn : xs.any Ex.isNan = false) : g.quantise xs = List.replicate g.blockBytes 0 ∨
    g.quantise xs = BitVec.ofNat 8 (blockExp g xs) ::
      BitVec.ofNat 8 (fieldSum (fun j => if blockMicro g xs j then 1 else 0) 1 8) ::
      leBytes (g.blockBytes - 2) (fieldSum (blockSlot g xs) (g.m + 1) 16) := by
  have hds (j : Nat) (hj : j < 8) : ((List.range 8).map (blockMicro g xs)).getD j false = blockMicro g xs j := by
    rw [List.getD_eq_getElem _ _ (by simpa using hj), List.getElem_map, List.getElem_range]
  have hslots : (List.range 16).map (fun k => g.slot (blockExp g xs) (((List.range 8).map (blockMicro g xs)).getD (k / 2) false)
      (xs.getD k (Ex.zero false))) = (List.range 16).map (blockSlot g xs) := by
    refine List.map_congr_left fun k hk => ?_
    rw [hds (k / 2) (by have := List.mem_range.mp hk; omega)]
    rfl
  have hget (k : Nat) (hk : k < 16) : ((List.range 16).map (blockSlot g xs)).getD k 0 = blockSlot g xs k := by
    rw [List.getD_eq_getElem _ _ (by simpa using hk), List.getElem_map, List.getElem_range]
  have hq : g.quantise xs = if (blockMax xs).isZero then List.replicate g.blockBytes 0
      else if ((List.range 16).map (blockSlot g xs)).all (fun s => s % 2 ^ g.m == 0) then List.replicate g.blockBytes 0
      else BitVec.ofNat 8 (blockExp g xs) ::
        BitVec.ofNat 8 ((List.range 8).foldl
          (fun n j => n + (if ((List.range 8).map (blockMicro g xs)).getD j false then 2 ^ j else 0)) 0) ::
        leBytes (g.blockBytes - 2) ((List.range 16).foldl
          (fun n k => n + ((List.range 16).map (blockSlot g xs)).getD k 0 * 2 ^ (k * (g.m + 1))) 0) := by
    rw [← hslots, SebFmt.quantise, if_neg (by rw [hn]; decide)]
    rfl
  rw [hq]
  split
  · exact .inl rfl
  · split
    · exact .inl rfl
    · right
      have h8 : (List.range 8).foldl (fun n j => n + (if ((List.range 8).map (blockMicro g xs)).getD j false then 2 ^ j else 0)) 0 =
          fieldSum (fun j => if blockMicro g xs j then 1 else 0) 1 8 :=
        List.foldl_ext _ _ _ fun n j hj => by rw [hds j (List.mem_range.mp hj), ite_pow_eq]
      have h16 : (List.range 16).foldl (fun n k => n + ((List.range 16).map (blockSlot g xs)).getD k 0 * 2 ^ (k * (g.m + 1))) 0 =
          fieldSum (blockSlot g xs) (g.m + 1) 16 :=
        List.foldl_ext _ _ _ fun n k hk => by rw [hget k (List.mem_range.mp hk)]
      rw [h8, h16]

theorem length_quantise : (g.quantise xs).length = g.blockBytes := by
  have hb : 2 ≤ g.blockBytes := by cases g <;> decide
  cases hn : xs.any Ex.isNan with
  | true =>
    rw [SebFmt.quantise, if_pos hn, List.length_cons, List.length_replicate]
    omega
  | false =>
    rcases quantise_eq g xs hn with h | h
    · rw [h, List.length_replicate]
    · rw [h, List.length_cons, List.length_cons, leBytes_length]
      omega

theorem blockMax_of_zeros (h : xs.all Ex.isZero = true) : (blockMax xs).isZero = true := by
  have hfold (l : List Ex) (m : Ex) (hm : m.isZero = true) (hl : l.all Ex.isZero = true) :
      (l.foldl (fun m x => if m.lt x.abs then x.abs else m) m).isZero = true := by
    induction l generalizing m with
    | nil => exact hm
    | cons x l ih =>
      rw [List.all_cons, Bool.and_eq_true] at hl
      refine ih _ ?_ hl.2
      show (if m.lt x.abs then x.abs else m).isZero = true
      split
      · have hx := hl.1
        cases x <;> simp_all [Ex.isZero, Ex.abs]
      · exact hm
  exact hfold xs _ rfl h

theorem quantise_of_zeros (h : xs.all Ex.isZero = true) : g.quantise xs = List.replicate g.blockBytes 0 := by
  have hn : xs.any Ex.isNan = false := by
    rw [List.any_eq_false]
    intro x hx
    have := List.all_eq_true.mp h x hx
    cases x <;> simp_all [Ex.isZero, Ex.isNan]
  rw [SebFmt.quantise, if_neg (by rw [hn]; decide)]
  exact if_pos (blockMax_of_zeros xs h)

/-- R33, R35: the exponents and slots of a block that is not zero. -/
theorem quantise_fields (hn : xs.any Ex.isNan = false) (h0 : g.quantise xs ≠ List.replicate g.blockBytes 0) :
    ((g.quantise xs).getD 0 0).toNat = blockExp g xs ∧
    (∀ j, j < 8 → ((g.quantise xs).getD 1 0).toNat / 2 ^ j % 2 = if blockMicro g xs j then 1 else 0) ∧
    ∀ k, k < 16 → leNat ((g.quantise xs).drop 2) / 2 ^ (k * (g.m + 1)) % 2 ^ (g.m + 1) = blockSlot g xs k := by
  have hpair (j : Nat) : (if blockMicro g xs j then 1 else 0) < 2 ^ 1 := by cases blockMicro g xs j <;> decide
  have hw : 16 * (g.m + 1) = 8 * (g.blockBytes - 2) := by cases g <;> rfl
  have hle := blockExp_le g xs
  rw [(quantise_eq g xs hn).resolve_left h0]
  refine ⟨?_, fun j hj => ?_, fun k hk => ?_⟩
  · show (BitVec.ofNat 8 (blockExp g xs)).toNat = _
    rw [BitVec.toNat_ofNat]
    omega
  · show (BitVec.ofNat 8 _).toNat / 2 ^ j % 2 = _
    have hf := fieldSum_field hpair hj
    have hlt := fieldSum_lt hpair 8
    rw [BitVec.toNat_ofNat, Nat.mod_eq_of_lt hlt]
    rwa [Nat.mul_one, Nat.pow_one] at hf
  · show leNat (leBytes _ _) / _ % _ = _
    rw [leNat_leBytes, ← hw, Nat.mod_eq_of_lt (fieldSum_lt (blockSlot_lt g xs) 16)]
    exact fieldSum_field (blockSlot_lt g xs) hk

end

/-! ### `vquant` -/

section
variable {t : VTy} (ht : t ≠ .i32) (g : SebFmt) {A : List FVal} (hA : A.length = 64)
include ht hA

/-- The 16 elements of a group. -/
def quantGroup (t : VTy) (A : List FVal) (j : Nat) : List Ex := (((elems t A).map t.ex).drop (16 * j)).take 16

/-- R211: the bytes of `vquant`. -/
theorem laneBytes_vquantLanes : laneBytes (vquantLanes t g A) =
    padTo 256 0 ((List.range (if t.packed then 8 else 4)).flatMap (fun j => g.quantise (quantGroup t A j))) := by
  have hlen : ((elems t A).map t.ex).length = 16 * (if t.packed then 8 else 4) := by
    rw [List.length_map, length_elems, hA]
    cases t with
    | i32 => exact absurd rfl ht
    | f32 | f16 | bf16 => rfl
  rw [vquantLanes, laneBytes_laneOfBytes (length_padTo ..) (fun _ => 24), chunks_eq (by decide) hlen (by split <;> decide), List.flatMap_map]
  rfl

end

/-! ### `vdequant` -/

/-- Lists of 16 put one after another. -/
theorem flatMap_sixteens {α : Type} (b : Nat) (f : Nat → Nat → α) :
    (List.range b).flatMap (fun j => (List.range 16).map (f j)) = (List.range (16 * b)).map (fun i => f (i / 16) (i % 16)) := by
  refine List.ext_getElem? fun n => ?_
  have hn : n = 16 * (n / 16) + n % 16 := by omega
  rw [hn, getElem?_flatMap_of_length (w := 16) (fun _ _ => by simp) _ (Nat.mod_lt _ (by decide)), ← hn]
  by_cases h : n / 16 < b
  · rw [List.getElem?_range h, List.getElem?_map, List.getElem?_range (by omega)]
    simp [List.getElem?_range (show n % 16 < 16 by omega)]
  · rw [List.getElem?_eq_none (by simp; omega), List.getElem?_eq_none (by simp; omega)]
    rfl

/-- R202: lanes of pairs of 16-bit elements. -/
theorem pairLanes_range (f : Nat → VEl) (n : Nat) : pairLanes ((List.range (2 * n)).map f) = (List.range n).map (fun i =>
    FVal.mk' (BitVec.ofNat 32 ((f (2 * i)).1 + 65536 * (f (2 * i + 1)).1)) (Nat.min (f (2 * i)).2 (f (2 * i + 1)).2)) := by
  induction n generalizing f with
  | zero => rfl
  | succ n ih =>
    have hr : List.range (2 * (n + 1)) = 0 :: 1 :: (List.range (2 * n)).map (· + 2) := by
      rw [Nat.mul_succ, List.range_succ_eq_map, List.range_succ_eq_map]
      simp [Function.comp_def]
    rw [hr, List.map_cons, List.map_cons, pairLanes, List.map_map, ih, List.range_succ_eq_map, List.map_cons, List.map_map]
    rfl

/-- R34, R45, R211: element i of the blocks of 64 lanes. -/
def dequantElem (t : VTy) (g : SebFmt) (A : List FVal) (i : Nat) : VEl :=
  let e := g.element (((laneBytes A).drop (i / 16 * g.blockBytes)).take g.blockBytes) (i % 16)
  t.counted (t.fmt.round e.1 .rne) e.2

theorem vdequantLanes_eq (t : VTy) (g : SebFmt) (A : List FVal) : vdequantLanes t g A =
    ofElems t ((List.range (16 * (if t.packed then 8 else 4))).map (dequantElem t g A)) := by
  simp only [vdequantLanes, SebFmt.decodeBlock, List.map_map]
  exact congrArg (ofElems t) (flatMap_sixteens _ _)

theorem dequantElem_eq (t : VTy) (ht : t ≠ .i32) (g : SebFmt) (A : List FVal) (i : Nat) :
    let B := ((laneBytes A).drop (i / 16 * g.blockBytes)).take g.blockBytes
    let k := i % 16
    let s := leNat (B.drop 2) / 2 ^ (k * (g.m + 1)) % 2 ^ (g.m + 1)
    let M := s % 2 ^ g.m
    let v : Ex := if (B.getD 0 0).toNat = 255 then .nan else
      .fin (decide (s / 2 ^ g.m = 1)) M (((B.getD 0 0).toNat : Int) - 127 - ((B.getD 1 0).toNat / 2 ^ (k / 2) % 2 : Nat) - (g.m - 1)) false
    let r := t.fmt.round v .rne
    dequantElem t g A i = (r, if (t.fmt.decode r).isFinite then min (if M = 0 then 24 else Nat.log2 M + 1) t.fmt.p else 0) := by
  intro B k s M v r
  have hnan : (t.fmt.decode (t.fmt.round .nan .rne)).isFinite = false := by
    cases t with
    | i32 => exact absurd rfl ht
    | f32 | f16 | bf16 => decide
  have he : g.element B k = if (B.getD 0 0).toNat = 255 then (.nan, 0) else (.fin (decide (s / 2 ^ g.m = 1)) M
      (((B.getD 0 0).toNat : Int) - 127 - ((B.getD 1 0).toNat / 2 ^ (k / 2) % 2 : Nat) - (g.m - 1)) false,
      if M = 0 then 24 else Nat.log2 M + 1) := rfl
  by_cases hE : (B.getD 0 0).toNat = 255
  · have hv : v = .nan := if_pos hE
    rw [if_pos hE] at he
    simp only [dequantElem]
    rw [show g.element (((laneBytes A).drop (i / 16 * g.blockBytes)).take g.blockBytes) (i % 16) = _ from he]
    simp only [VTy.counted, r, hv, hnan, Bool.false_eq_true, if_false]
  · have hv : v = _ := if_neg hE
    rw [if_neg hE] at he
    simp only [dequantElem]
    rw [show g.element (((laneBytes A).drop (i / 16 * g.blockBytes)).take g.blockBytes) (i % 16) = _ from he]
    simp only [VTy.counted, r, hv]

end Sys2Proof.Machine

namespace Sys2Proof.Proofs

open Sys2Proof.Machine

/-- R33, R35, R211: the blocks of `vquant`. -/
theorem quantisations {t : VTy} (ht : t ≠ .i32) (g : SebFmt) {A : List FVal} (hA : A.length = 64) :
    let n := g.blockBytes
    let top := 2 ^ g.m
    let xs := (elems t A).map t.ex
    let Q := vquantLanes t g A
    let blocks := if t.packed then 8 else 4
    let block (l : List Byte) (j : Nat) : List Byte := (l.drop (j * n)).take n
    let slot (l : List Byte) (k : Nat) : Nat := leNat (l.drop 2) / 2 ^ (k * (g.m + 1)) % 2 ^ (g.m + 1)
    let pair (l : List Byte) (k : Nat) : Nat := (l.getD 1 0).toNat / 2 ^ (k / 2) % 2
    let step (l : List Byte) (k : Nat) : Int := ((l.getD 0 0).toNat : Int) - 127 - pair l k - (g.m - 1)
    Q.length = 64 ∧ (∀ v ∈ Q, v.c = 24) ∧ (∀ k, blocks * n ≤ k → k < 256 → (laneBytes Q).getD k 0 = 0) ∧
      ∀ j, j < blocks →
        let ys := (xs.drop (16 * j)).take 16
        let B := block (laneBytes Q) j
        (ys.any Ex.isNan = true → B = 255 :: List.replicate (n - 1) 0) ∧ (ys.all Ex.isZero = true → B = List.replicate n 0) ∧
        (ys.any Ex.isNan = false → B ≠ List.replicate n 0 → (B.getD 0 0).toNat ≤ 254 ∧ ∀ k, k < 16 →
          let y := ys.getD k (.zero false)
          let M := if y.isInf then top - 1 else min (top - 1) (rniAt y (step B k))
          slot B k = if M = 0 then 0 else M + if y.neg? then top else 0) := by
  intro n top xs Q blocks block slot pair step
  have hbytes : laneBytes Q = _ := laneBytes_vquantLanes ht g hA
  have hn : n ≤ 18 := by cases g <;> decide
  have h8 : blocks ≤ 8 := by simp only [blocks]; split <;> decide
  obtain ⟨hp, hz⟩ := padded_pieces blocks (w := n) (f := fun j => g.quantise (quantGroup t A j)) fun j => length_quantise g _
  refine ⟨by simp [Q, vquantLanes], fun v hv => ?_, fun k h0 h1 => by rw [hbytes]; exact hz k h0 h1, fun j hj => ?_⟩
  · obtain ⟨k, -, rfl⟩ := List.mem_map.mp hv
    rfl
  · intro ys B
    have hB : B = g.quantise ys := by
      have hle : (j + 1) * n ≤ 8 * 18 := Nat.mul_le_mul (by omega) hn
      have := hp j hj (by omega)
      simp only [B, block, hbytes]
      exact this
    refine ⟨fun h => by rw [hB, SebFmt.quantise, if_pos h], fun h => hB.trans (quantise_of_zeros g ys h), fun h h0 => ?_⟩
    rw [hB] at h0
    obtain ⟨hE, hd, hs⟩ := quantise_fields g ys h h0
    rw [hB]
    refine ⟨hE ▸ blockExp_le g ys, fun k hk => ?_⟩
    intro y M
    have hstep : step (g.quantise ys) k = (blockExp g ys : Int) - 127 - (if blockMicro g ys (k / 2) then 1 else 0) - (g.m - 1) := by
      simp only [step, pair, hE, hd (k / 2) (by omega)]
      split <;> rfl
    refine (hs k hk).trans ?_
    simp only [M, hstep]
    rfl

/-- R34, R45, R211: the lanes of `vdequant`. -/
theorem dequantisations (t : VTy) (g : SebFmt) (A : List FVal) :
    let n := g.blockBytes
    let top := 2 ^ g.m
    let block (l : List Byte) (j : Nat) : List Byte := (l.drop (j * n)).take n
    let slot (l : List Byte) (k : Nat) : Nat := leNat (l.drop 2) / 2 ^ (k * (g.m + 1)) % 2 ^ (g.m + 1)
    let pair (l : List Byte) (k : Nat) : Nat := (l.getD 1 0).toNat / 2 ^ (k / 2) % 2
    let step (l : List Byte) (k : Nat) : Int := ((l.getD 0 0).toNat : Int) - 127 - pair l k - (g.m - 1)
    let el (i : Nat) : VEl :=
      let B := block (laneBytes A) (i / 16)
      let k := i % 16
      let M := slot B k % top
      let v : Ex := if (B.getD 0 0).toNat = 255 then .nan else .fin (decide (slot B k / top = 1)) M (step B k) false
      let r := t.fmt.round v .rne
      (r, if (t.fmt.decode r).isFinite then min (if M = 0 then 24 else Nat.log2 M + 1) t.fmt.p else 0)
    (t = .f32 → vdequantLanes t g A = (List.range 64).map (fun i => ⟨BitVec.ofNat 32 (el i).1, BitVec.ofNat 5 (el i).2⟩)) ∧
    (t = .f16 ∨ t = .bf16 → vdequantLanes t g A = (List.range 64).map (fun i =>
      ⟨BitVec.ofNat 32 ((el (2 * i)).1 + 65536 * (el (2 * i + 1)).1), BitVec.ofNat 5 (min (el (2 * i)).2 (el (2 * i + 1)).2)⟩)) := by
  intro n top block slot pair step el
  have hel (ht : t ≠ .i32) (i : Nat) : dequantElem t g A i = el i := dequantElem_eq t ht g A i
  rw [vdequantLanes_eq]
  refine ⟨fun ht => ?_, fun ht => ?_⟩
  · have hl := hel (by rw [ht]; decide)
    simp only [← hl]
    subst ht
    exact List.map_map
  · have hl := hel (by rcases ht with rfl | rfl <;> decide)
    simp only [← hl]
    rcases ht with rfl | rfl
    · exact pairLanes_range (dequantElem .f16 g A) 64
    · exact pairLanes_range (dequantElem .bf16 g A) 64

/-- Settles O35: op-words that write lanes of lanes, `.i32` sums, conversions, blocks and records. -/
theorem vxLaneResults : Obligations.VxLaneResults :=
  ⟨laneOpwords, intSums, conversions, fun t g A hA => ⟨fun ht => quantisations ht g hA, dequantisations t g A⟩,
    fun A B round _ hj => vrecLanes_spec A B round hj⟩

end Sys2Proof.Proofs

end

section
/-! PROOFS. Reductions and scans above the register (R212, R213, R223, R287). -/

open Sys2Proof

namespace Sys2Proof.Machine

/-! ### The pending reductions and scans of a tenon -/

/-- p is what the tenon has pending of its destination, and the only one. -/
def Tenon.Only (T : Tenon) (p : Pending) : Prop := p ∈ T.pendings ∧ ∀ q ∈ T.pendings, q.dst = p.dst → q = p

theorem Pending.is_iff (p : Pending) (d : Nat) (scan : Bool) : p.is d scan = true ↔ p.dst = d ∧ p.scan = scan := by
  simp [Pending.is]

/-- p after its partial x is taken, as y. -/
def Pending.take (p : Pending) (x y : Partial) : Pending :=
  { p with waiting := removeFirst (fun z => z.ordinal == x.ordinal) p.waiting, taken := p.taken ++ [y] }

theorem Tenon.only_of_filter {T : Tenon} {p : Pending} (h : T.pendings.filter (fun q => q.dst == p.dst) = [p]) : T.Only p := by
  have hmem (q : Pending) : q ∈ T.pendings ∧ q.dst = p.dst ↔ q = p := by
    have hq : q ∈ T.pendings.filter (fun q => q.dst == p.dst) ↔ q ∈ T.pendings ∧ q.dst = p.dst := by simp
    rw [← hq, h, List.mem_singleton]
  exact ⟨((hmem p).mpr rfl).1, fun q hq hd => (hmem q).mp ⟨hq, hd⟩⟩

section
variable {T : Tenon} {p : Pending} (h : T.Only p)
include h

theorem Tenon.Only.pending? : T.pending? p.dst p.scan = some p := by
  have hp : p.is p.dst p.scan = true := by simp [Pending.is]
  unfold Tenon.pending?
  cases hf : T.pendings.find? (fun q => q.is p.dst p.scan) with
  | none => exact absurd hp (List.find?_eq_none.mp hf p h.1)
  | some q =>
    have hq : q.is p.dst p.scan = true := List.find?_some (p := fun q : Pending => q.is p.dst p.scan) hf
    rw [h.2 q (List.mem_of_find?_eq_some hf) ((Pending.is_iff ..).mp hq).1]

/-- One pending replaced by another of its destination and kind. -/
theorem Tenon.Only.setPending {q : Pending} (hd : q.dst = p.dst) (hs : q.scan = p.scan) : (T.setPending q).Only q := by
  have hany : T.pendings.any (fun r => r.is q.dst q.scan) = true := by
    rw [List.any_eq_true]
    exact ⟨p, h.1, (Pending.is_iff ..).mpr ⟨hd.symm, hs.symm⟩⟩
  have hp : (T.setPending q).pendings = T.pendings.map (fun r => if r.is q.dst q.scan then q else r) := by
    rw [Tenon.setPending, if_pos hany]
  rw [Tenon.Only, hp]
  refine ⟨List.mem_map.mpr ⟨p, h.1, if_pos ((Pending.is_iff ..).mpr ⟨hd.symm, hs.symm⟩)⟩, fun r hr hrd => ?_⟩
  obtain ⟨a, ha, rfl⟩ := List.mem_map.mp hr
  split at hrd
  · next hi => exact if_pos hi
  · next hi =>
    obtain rfl := h.2 a ha (hrd.trans hd)
    exact absurd ((Pending.is_iff ..).mpr ⟨hd.symm, hs.symm⟩) hi

/-- R212: what keeps its destination empty is its own partials. -/
theorem Tenon.Only.any_holds (h0 : p.dst ≠ 72) (h1 : p.dst ≠ 73) :
    T.pendings.any (fun q => q.holds p.dst) = (p.waiting ++ p.taken).any (fun x => x.held) := by
  have hx (q : Pending) : q.holds p.dst = (q.waiting ++ q.taken).any (fun x => x.held && q.dst == p.dst) := by
    simp [Pending.holds, Partial.holds, codeL0, codeL1, h0, h1]
  have hp : p.holds p.dst = (p.waiting ++ p.taken).any (fun x => x.held) := by simp [hx]
  rw [← hp, Bool.eq_iff_iff, List.any_eq_true]
  refine ⟨fun ⟨q, hq, hh⟩ => ?_, fun hh => ⟨p, h.1, hh⟩⟩
  have hd : q.dst = p.dst := by
    rw [hx, List.any_eq_true] at hh
    obtain ⟨x, -, hx⟩ := hh
    simpa using (Bool.and_eq_true_iff.mp hx).2
  rwa [h.2 q hq hd] at hh

end

theorem Tenon.pending?_setPending (T : Tenon) (p : Pending) : (T.setPending p).pending? p.dst p.scan = some p := by
  have hp : p.is p.dst p.scan = true := by simp [Pending.is]
  unfold Tenon.setPending
  split
  · next h =>
    obtain ⟨q, hq, hi⟩ := List.any_eq_true.mp h
    cases hf : (T.pendings.map (fun r => if r.is p.dst p.scan then p else r)).find? (fun r => r.is p.dst p.scan) with
    | none =>
      have := List.find?_eq_none.mp hf p (List.mem_map.mpr ⟨q, hq, if_pos hi⟩)
      exact absurd hp this
    | some r =>
      obtain ⟨a, -, ha⟩ := List.mem_map.mp (List.mem_of_find?_eq_some hf)
      have hr := List.find?_some hf
      refine hf.trans (congrArg some ?_)
      split at ha
      · exact ha.symm
      · next hn => exact absurd (ha ▸ hr) hn
  · next h =>
    have hn : T.pendings.find? (fun r => r.is p.dst p.scan) = none := by
      rw [List.find?_eq_none]
      intro q hq hi
      exact h (List.any_eq_true.mpr ⟨q, hq, hi⟩)
    show (T.pendings ++ [p]).find? (fun r => r.is p.dst p.scan) = some p
    rw [List.find?_append, hn, List.find?_singleton, if_pos hp]
    rfl

@[simp] theorem Tenon.reg_setPending (T : Tenon) (p : Pending) (c : Nat) : (T.setPending p).reg c = T.reg c := by
  unfold Tenon.setPending
  split <;> rfl

@[simp] theorem Tenon.routines_setPending (T : Tenon) (p : Pending) : (T.setPending p).routines = T.routines := by
  unfold Tenon.setPending
  split <;> rfl

@[simp] theorem Tenon.reg_newUnit (T : Tenon) (p : Pending) (c : Nat) : (T.newUnit p).reg c = T.reg c := by
  unfold Tenon.newUnit
  split
  · rfl
  · exact Tenon.reg_setPending ..

/-! ### A result that comes late -/

theorem Tenon.reg_rehold (T : Tenon) (d c : Nat) : (T.rehold d).reg c =
    if c = d ∧ T.pendings.any (fun p => p.holds d) = true then { NMap.getD T.v d {} with full := false } else T.reg c := by
  unfold Tenon.rehold
  split
  · next h =>
    rw [Tenon.reg_of_set (T := { T with v := NMap.set T.v d { NMap.getD T.v d {} with full := false } }) rfl]
    simp only [h, and_true]
  · next h => rw [if_neg (fun hc => h hc.2)]

@[simp] theorem Tenon.pendings_rehold (T : Tenon) (d : Nat) : (T.rehold d).pendings = T.pendings := by
  unfold Tenon.rehold
  split <;> rfl

/-- R69, R212: a register other than l0 and l1 after its result. -/
theorem Tenon.reg_lateRed {T : Tenon} {d : Nat} (h0 : d ≠ 72) (h1 : d ≠ 73) (l0 l1 : Bool) (x : VReg) :
    (T.lateRed d l0 l1 x).reg d = if T.pendings.any (fun p => p.holds d) then { x with full := false } else x := by
  have hv : NMap.get? (T.late d l0 l1 x).v d = some x := by
    have hd : ¬(d = codeL0 ∨ d = codeL1) := by simp [codeL0, codeL1, h0, h1]
    unfold Tenon.late
    rw [if_neg hd]
    cases l0 <;> cases l1 <;> simp [NMap.get?_set, codeL0, codeL1, h0, h1]
  have hlate : (T.late d l0 l1 x).reg d = x := by simp only [Tenon.reg, hv]
  have hget : NMap.getD (T.late d l0 l1 x).v d {} = x := by simp only [NMap.getD, hv]; rfl
  have hp : (T.late d l0 l1 x).pendings = T.pendings := rfl
  rw [Tenon.lateRed, Tenon.reg_rehold, if_neg (fun h => h1 h.1), Tenon.reg_rehold, if_neg (fun h => h0 h.1), Tenon.reg_rehold, hp,
    hlate, hget]
  simp only [true_and]

@[simp] theorem Tenon.pendings_lateRed (T : Tenon) (d : Nat) (l0 l1 : Bool) (x : VReg) : (T.lateRed d l0 l1 x).pendings = T.pendings := by
  simp only [Tenon.lateRed, Tenon.pendings_rehold]
  rfl


/-! ### Handing a partial over -/

/-- The partial that an op-word at a level above the register hands over, of the cell with ordinal n. -/
def Tenon.partialOf (T : Tenon) (R : Routine) (scan : Bool) (c : Comb) (t : VTy) (a : VCode) (l : VLvl) (rtz : Bool) (opn n : Nat) :
    Partial :=
  let v := c.tree t (R.mode rtz) (T.lanes a) R.aw
  { comb := c.code, ty := t, lvl := l, mode := R.mode rtz, ordinal := n, key := R.cinKey, seq := R.cinSeq, round := R.cinRound
    value := v.map RedNode.v, ops := (v.bind RedNode.ops).map (fun y => (t.widen y.1, t.widen y.2))
    lanes := if scan then T.lanes a else [], aw := R.aw, eor := R.markEor, eot := R.markEot
    poison := (T.reg a.toNat).poison, modes := R.start.modes, side := R.side, entry := R.entry, off := R.pc - R.lo
    opc := opn * 4 + t.tyCode }

section
variable {s : State} {b tn r : Nat} {R : Routine} {scan : Bool} {c : Comb} {t : VTy} {d a : VCode} {l : VLvl} {rtz x : Bool} {opn : Nat}
  (hi : s.OpIssues b tn r R [(a, x)] none) (ha : isTile a.toNat = false) (hd : isTile d.toNat = false)
include hi ha hd

theorem State.opword_of_spanning (again : Tenon → Bool) (body : Nat → Nat → Nat → Tenon → Routine → Out) :
    s.opword [(a, x)] (some d) again body =
      if (s.tenon b tn).full d.toNat || again (s.tenon b tn) then body b tn r (s.tenon b tn) R else .next s := by
  obtain ⟨hc, hR, hh, h0, -, hfull⟩ := hi
  rw [State.opword_of_registers hc hR hh h0 again body, Tenon.sources_of_full]
  · rfl
  · exact fun c hc => hfull c (List.mem_append_left _ hc)
  · intro c hc
    simp only [List.map_cons, List.map_nil, Option.toList_some, List.cons_append, List.nil_append, List.mem_cons, List.not_mem_nil,
      or_false] at hc
    rcases hc with rfl | rfl
    · exact ha
    · exact hd

theorem State.spanning_of_held (hf : (s.tenon b tn).full d.toNat = false) (hh : (s.tenon b tn).heldBy d.toNat scan = false) :
    s.spanning scan c t d a l rtz x opn = .next s := by
  rw [State.spanning, State.opword_of_spanning hi ha hd, hf, hh]
  rfl

theorem State.spanning_of_free (hf : (s.tenon b tn).full d.toNat = true ∨ (s.tenon b tn).heldBy d.toNat scan = true) :
    s.spanning scan c t d a l rtz x opn = match R.ords.getLast? with
      | none => .next (s.vxEnd b tn r R 0x0001)
      | some n => match (s.tenon b tn).hand d.toNat scan ((s.tenon b tn).partialOf R scan c t a l rtz opn n) with
        | none => .next (s.vxEnd b tn r R 0x0001)
        | some T => .next (s.vxDone b tn r T R) := by
  rw [State.spanning, State.opword_of_spanning hi ha hd, if_pos (by simpa using hf)]
  rfl

end

/-- The six op-words that combine lanes, at a level above the register. -/
theorem exec_spanning {o : VFields} {l : VLvl} (hl : l ≠ .reg) {q : Instr × Comb × Bool}
    (hq : q ∈ [(Instr.vredAdd o.t o.d o.a l o.rtz o.x, Comb.add, false), (.vredMin o.t o.d o.a l o.rtz o.x, .min, false),
      (.vredMax o.t o.d o.a l o.rtz o.x, .max, false), (.vscanAdd o.t o.d o.a l o.rtz o.x, .add, true),
      (.vscanMin o.t o.d o.a l o.rtz o.x, .min, true), (.vscanMax o.t o.d o.a l o.rtz o.x, .max, true)]) (s : State) :
    exec q.1 s = s.spanning q.2.2 q.2.1 o.t o.d o.a l o.rtz o.x (if q.2.2 then 0x1D else 0x1C) := by
  revert q
  simp only [List.forall_mem_cons, List.not_mem_nil, false_imp_iff, implies_true, and_true]
  exact ⟨if_neg hl, if_neg hl, if_neg hl, if_neg hl, if_neg hl, if_neg hl⟩

/-! ### The step that takes a partial -/

section
variable {s : State} {b tn : Nat} {p : Pending} {x : Partial}
  (hone : (s.tenon b tn).pendings.filter (fun q => q.dst == p.dst) = [p]) (hlow : p.lowest = some x)
include hone hlow

theorem State.partialCombine_of_blocked (hb : (s.tenon b tn).blocked p x = true) : exec (.partialCombine b tn p.dst) s = .next s := by
  show execPartialCombine b tn p.dst s = _
  simp only [execPartialCombine, hone, List.findSome?_cons, hlow, Option.filter_some, hb, Bool.not_true, Bool.false_eq_true, if_false,
    Option.map_none, List.findSome?_nil, ite_self]

theorem State.partialCombine_of_free (hb : (s.tenon b tn).blocked p x = false)
    (hcl : (NMap.vals (s.tenon b tn).closes).all (fun c => c.dst != p.dst) = true) :
    exec (.partialCombine b tn p.dst) s = .next (s.takePartial b tn p x) := by
  have hno : ¬(NMap.vals (s.tenon b tn).closes).any (fun c => c.dst == p.dst) = true := by
    rw [Bool.not_eq_true, List.any_eq_false]
    intro c hc
    simpa using List.all_eq_true.mp hcl c hc
  show execPartialCombine b tn p.dst s = _
  rw [execPartialCombine, if_neg hno]
  simp only [hone, List.findSome?_cons, hlow, Option.filter_some, hb, Bool.not_false, if_true, Option.map_some]

end

@[simp] theorem State.mem_setTenon (s : State) (b tn : Nat) (T : Tenon) : (s.setTenon b tn T).mem = s.mem := rfl

@[simp] theorem State.launch_setTenon (s : State) (b tn : Nat) (T : Tenon) (l : Nat) : (s.setTenon b tn T).launch l = s.launch l := rfl

theorem State.settle_of_unchecked {x : Partial} (hv : modesVxe x.modes = false) (s : State) (b tn : Nat) (p : Pending) (l0 l1 : Bool)
    (reg : VReg) (fail : Option VFail) :
    s.settle b tn p l0 l1 x reg fail = s.setTenon b tn ((s.tenon b tn).lateRed p.dst l0 l1 reg) := by
  simp [State.settle, hv]

theorem Tenon.newUnit_of_more {T : Tenon} {p : Pending} (h : p.waiting ≠ []) :
    T.newUnit p = T.setPending { dst := p.dst, scan := p.scan, waiting := p.waiting } :=
  if_neg (by simpa using h)

theorem Tenon.newUnit_of_none {T : Tenon} {p : Pending} (h : p.waiting = []) :
    T.newUnit p = { T with pendings := T.pendings.filter (fun q => !q.is p.dst p.scan) } :=
  if_pos (by simp [h])

theorem Tenon.pending?_newUnit_none {T : Tenon} {p : Pending} (h : p.waiting = []) : (T.newUnit p).pending? p.dst p.scan = none := by
  rw [Tenon.newUnit_of_none h]
  refine List.find?_eq_none.mpr fun q hq => ?_
  simpa using (List.mem_filter.mp hq).2

/-- R212: what keeps a reduction's destination empty after its unit closed: the partials of the next. -/
theorem Tenon.Only.any_holds_newUnit {T : Tenon} {p : Pending} (h : T.Only p) (h0 : p.dst ≠ 72) (h1 : p.dst ≠ 73) :
    (T.newUnit p).pendings.any (fun q => q.holds p.dst) = p.waiting.any (fun x => x.held) := by
  by_cases hw : p.waiting = []
  · rw [Tenon.newUnit_of_none hw, hw]
    refine List.any_eq_false.mpr fun q hq => ?_
    obtain ⟨hq, hn⟩ := List.mem_filter.mp hq
    have hd : q.dst ≠ p.dst := fun hd => by
      rw [h.2 q hq hd] at hn
      simp [Pending.is] at hn
    simp [Pending.holds, Partial.holds, codeL0, codeL1, h0, h1, hd]
  · rw [Tenon.newUnit_of_more hw]
    refine ((h.setPending (q := { dst := p.dst, scan := p.scan, waiting := p.waiting }) rfl rfl).any_holds h0 h1).trans ?_
    simp

/-- Whether a result's register is full: not where something keeps it empty. -/
theorem VReg.full_emptied {r : VReg} (hr : r.full = true) (e : Bool) : (if e = true then { r with full := false } else r).full = !e := by
  cases e
  · exact hr
  · rfl

section
variable {s : State} {b tn : Nat} {p : Pending} {x : Partial} (h : (s.tenon b tn).Only p)
include h

/-- R212: a partial of a reduction stands among those taken, and closes the unit where it ends it. -/
theorem State.takePartial_reduction (hs : p.scan = false) :
    ∃ u : State, u.mem = s.mem ∧ (u.tenon b tn).Only (p.take x x) ∧
      s.takePartial b tn p x = if x.ends then u.closeUnit b tn (p.take x x) (s.launch x.side.lid).det else u := by
  let T1 : Tenon := { (s.tenon b tn).setPending (p.take x x) with
    taken := NMap.set (s.tenon b tn).taken p.slot (Nat.max (x.ordinal + 1) (NMap.getD (s.tenon b tn).taken p.slot 0)) }
  have h1 : T1.Only (p.take x x) := h.setPending (q := p.take x x) rfl rfl
  have ht : (s.setTenon b tn T1).tenon b tn = T1 := by simp
  refine ⟨(s.setTenon b tn T1).setTenon b tn (T1.setPending (p.take x x)), rfl, ?_, ?_⟩
  · simpa using h1.setPending (q := p.take x x) rfl rfl
  · have hnow (d : Bool) : (p.scan && d) = false := by rw [hs]; rfl
    rw [State.takePartial]
    simp only [hnow, Bool.false_eq_true, if_false]
    exact congrArg (fun T : Tenon => if x.ends then ((s.setTenon b tn T1).setTenon b tn (T.setPending (p.take x x))).closeUnit b tn
      (p.take x x) (s.launch x.side.lid).det else (s.setTenon b tn T1).setTenon b tn (T.setPending (p.take x x))) ht

/-- R213: the scan of a partial is written as it is taken, and what is left shows the next carry. -/
theorem State.takePartial_scan (hs : p.scan = true) (hdet : (s.launch x.side.lid).det = false) (h0 : p.dst ≠ 72) (h1 : p.dst ≠ 73)
    (hv : modesVxe x.modes = false) :
    let y := { x with held := false }
    let ns := (Comb.ofCode x.comb).scan x.ty x.mode p.carry x.lanes x.aw
    ∃ (u : State) (q : Pending), u.mem = s.mem ∧ q.dst = p.dst ∧ q.scan = p.scan ∧ q.waiting = (p.take x y).waiting ∧
      q.taken = (p.take x y).taken ∧ (0 < x.aw → q.carry = (ns[x.ty.per * x.aw - 1]?).map RedNode.v) ∧
      (u.tenon b tn).pending? p.dst p.scan = some q ∧ ((u.tenon b tn).reg p.dst).lanes = ofElems x.ty (ns.map RedNode.v) ∧
      ((u.tenon b tn).reg p.dst).full = ((p.take x y).waiting ++ p.taken).all (fun z => !z.held) ∧
      s.takePartial b tn p x = if x.ends then u.setTenon b tn ((u.tenon b tn).newUnit q) else u := by
  intro y ns
  let T1 : Tenon := { (s.tenon b tn).setPending (p.take x y) with
    taken := NMap.set (s.tenon b tn).taken p.slot (Nat.max (x.ordinal + 1) (NMap.getD (s.tenon b tn).taken p.slot 0)) }
  have hT1 : T1.Only (p.take x y) := h.setPending (q := p.take x y) rfl rfl
  let one := (s.setTenon b tn T1).scanOne b tn (p.take x y) x
  let reg : VReg := { lanes := ofElems x.ty (ns.map RedNode.v), full := true, poison := x.poison || p.carryPoison }
  have hone : one.1 = (s.setTenon b tn T1).setTenon b tn (T1.lateRed p.dst x.l0 x.l1 reg) := by
    refine (State.settle_of_unchecked hv ..).trans ?_
    rw [show (s.setTenon b tn T1).tenon b tn = T1 by simp]
    rfl
  have hreg := Tenon.reg_lateRed (T := T1) h0 h1 x.l0 x.l1 reg
  refine ⟨one.1.setTenon b tn ((one.1.tenon b tn).setPending one.2), one.2, ?_, rfl, rfl, rfl, rfl, fun ha => if_neg (by omega), ?_, ?_,
    ?_, ?_⟩
  · rw [hone]; rfl
  · rw [State.tenon_setTenon, if_pos ⟨rfl, rfl⟩]
    exact Tenon.pending?_setPending (one.1.tenon b tn) one.2
  · simp only [State.tenon_setTenon, and_self, if_true, Tenon.reg_setPending, hone, hreg]
    split <;> rfl
  · have hany : T1.pendings.any (fun q => q.holds p.dst) = ((p.take x y).waiting ++ p.taken).any (fun z => z.held) := by
      refine (hT1.any_holds h0 h1).trans ?_
      simp [Pending.take, y]
    simp only [State.tenon_setTenon, and_self, if_true, Tenon.reg_setPending, hone, hreg]
    rw [VReg.full_emptied rfl, hany, List.not_any_eq_all_not]
  · have hnow : (p.scan && !false) = true := by rw [hs]; rfl
    have hclose (u : State) (q : Pending) (hq : q.scan = true) : u.closeUnit b tn q false = u.setTenon b tn ((u.tenon b tn).newUnit q) := by
      rw [State.closeUnit, hq]; rfl
    rw [State.takePartial]
    simp only [hdet, hnow, if_true]
    rw [hclose]
    · rfl
    · exact hs

end

/-- R212, R223: the close of a reduction's unit, of a launch that does not check it. -/
theorem State.closeUnit_reduction {u : State} {b tn : Nat} {q : Pending} (h : (u.tenon b tn).Only q) (hs : q.scan = false)
    (h0 : q.dst ≠ 72) (h1 : q.dst ≠ 73) {det : Bool} {acc : RedAcc}
    (hf : q.fold (if det then sortBy Partial.before q.taken else q.taken) = some acc) (hv : modesVxe acc.last.modes = false) :
    (u.closeUnit b tn q det).mem = u.mem ∧ (((u.closeUnit b tn q det).tenon b tn).reg q.dst).lanes = splat q.ty acc.v ∧
      (((u.closeUnit b tn q det).tenon b tn).reg q.dst).full = q.waiting.all (fun z => !z.held) ∧
      ((u.closeUnit b tn q det).tenon b tn).pendings = ((u.tenon b tn).newUnit q).pendings := by
  let l := if det then sortBy Partial.before q.taken else q.taken
  let reg : VReg := { lanes := splat q.ty acc.v, full := true, poison := l.any (fun x => x.value.isSome && x.poison) }
  let T := (u.tenon b tn).newUnit q
  have hclose : u.closeUnit b tn q det =
      (u.setTenon b tn T).setTenon b tn (T.lateRed q.dst (l.any (fun x => x.l0)) (l.any (fun x => x.l1)) reg) := by
    have hred : u.closeUnit b tn q det = (u.setTenon b tn T).closeRed b tn q l := by
      rw [State.closeUnit, hs]; rfl
    rw [hred, State.closeRed]
    simp only [l, hf]
    refine (State.settle_of_unchecked hv ..).trans ?_
    rw [show (u.setTenon b tn T).tenon b tn = T by simp]
  have hreg := Tenon.reg_lateRed (T := T) h0 h1 (l.any (fun x => x.l0)) (l.any (fun x => x.l1)) reg
  rw [hclose]
  simp only [State.tenon_setTenon, and_self, if_true, hreg, Tenon.pendings_lateRed]
  refine ⟨rfl, ?_, ?_, rfl⟩
  · split <;> rfl
  · rw [VReg.full_emptied rfl, h.any_holds_newUnit h0 h1, List.not_any_eq_all_not]

theorem roundBefore_irrefl (r : BitVec 16) : roundBefore r r = false := by
  simp [roundBefore]

end Sys2Proof.Machine

namespace Sys2Proof.Proofs
open Sys2Proof.Machine

/-- R223: a partial that finds room stands last in what its destination has pending, and the destination is empty. -/
theorem hand_of_room {T : Tenon} {d : Nat} {scan : Bool} {x : Partial} (hd : isTile d = false)
    (ho : ((T.pendings.map Pending.dst).filter (fun c => c != d)).eraseDups.length < 8)
    (hn : let p := (T.pending? d scan).getD { dst := d, scan := scan }
      ((p.waiting ++ p.taken).filter (fun y => y.counts scan)).length < 1024) :
    ∃ (U : Tenon) (v : Pending), T.hand d scan x = some U ∧ U.full d = false ∧ U.routines = T.routines ∧ U.pending? d scan = some v ∧
      v.waiting = ((T.pending? d scan).getD { dst := d, scan := scan }).waiting ++ [{ x with l0 := d == codeL0, l1 := d == codeL1 }] ∧
      v.taken = ((T.pending? d scan).getD { dst := d, scan := scan }).taken := by
  have hroom : ¬(8 ≤ ((T.pendings.map Pending.dst).filter (fun c => c != d)).eraseDups.length ∨ (x.counts scan && decide (1024 ≤
      ((((T.pending? d scan).getD { dst := d, scan := scan }).waiting ++
        ((T.pending? d scan).getD { dst := d, scan := scan }).taken).filter (fun y => y.counts scan)).length)) = true) := by
    rintro (h | h)
    · omega
    · have := of_decide_eq_true (Bool.and_eq_true_iff.mp h).2
      omega
  have his : ((T.pending? d scan).getD { dst := d, scan := scan }).is d scan = true := by
    cases hp : T.pending? d scan with
    | none => simp [Pending.is]
    | some p => exact List.find?_some (p := fun p : Pending => p.is d scan) hp
  obtain ⟨hdst, hscan⟩ := (Pending.is_iff ..).mp his
  refine ⟨_, { (T.pending? d scan).getD { dst := d, scan := scan } with
      waiting := ((T.pending? d scan).getD { dst := d, scan := scan }).waiting ++ [{ x with l0 := d == codeL0, l1 := d == codeL1 }] },
    if_neg hroom, ?_, ?_, ?_, rfl, rfl⟩
  · rw [Tenon.full, hd, if_neg Bool.false_ne_true, Tenon.reg_hollow, if_pos rfl]
  · exact Tenon.routines_setPending ..
  · have h := Tenon.pending?_setPending T { (T.pending? d scan).getD { dst := d, scan := scan } with
      waiting := ((T.pending? d scan).getD { dst := d, scan := scan }).waiting ++ [{ x with l0 := d == codeL0, l1 := d == codeL1 }] }
    rw [hdst, hscan] at h
    exact h

/-- Settles O36: the pending reduction or scan of a destination is the only thing that keeps it empty, a partial handed over waits
behind the others in it, and the one that closes the unit leaves the destination what the partials combine to. -/
theorem vxSpanningReductions : Obligations.VxSpanningReductions := by
  intro s b tn T
  refine ⟨?_, fun p x h1 hlow hb => ?_, fun p x h1 hlow hb hcl => ?_, fun x y hr hk => ?_⟩
  · intro o r R l hl ha hd q hq A val old had done others counted hi
    rw [exec_spanning hl hq s]
    refine ⟨State.spanning_of_held hi ha hd, fun hfree => ?_⟩
    rw [State.spanning_of_free hi ha hd hfree]
    refine ⟨fun hno => by rw [hno]; rfl, fun n hn => ?_⟩
    rw [hn]
    let x := T.partialOf R q.2.2 q.2.1 o.t o.a l o.rtz (if q.2.2 then 0x1D else 0x1C) n
    refine ⟨fun h8 => ?_, fun h1024 hval => ?_, fun ho hc => ?_⟩
    · have hU : T.hand o.d.toNat q.2.2 x = none := if_pos (.inl h8)
      simp only [T, x] at hU
      simp only [hU]
    · have hx : x.counts q.2.2 = true := by
        simp only [x, Partial.counts, Tenon.partialOf, Bool.or_eq_true]
        exact .inr (Option.isSome_iff_ne_none.mpr hval)
      have hU : T.hand o.d.toNat q.2.2 x = none :=
        if_pos (.inr (Bool.and_eq_true_iff.mpr ⟨hx, decide_eq_true h1024⟩))
      simp only [T, x] at hU
      simp only [hU]
    · obtain ⟨U, v, hU, hf, hr, hv, hw, ht⟩ := hand_of_room (x := x) hd ho hc
      have hT := State.tenon_vxDone s b tn r U R
      have hcode : Comb.ofCode q.2.1.code = q.2.1 := by cases q.2.1 <;> rfl
      simp only [T, x] at hU
      refine ⟨s.vxDone b tn r U R, v, { x with l0 := o.d.toNat == codeL0, l1 := o.d.toNat == codeL1 }, by simp only [hU], rfl,
        ?_, ?_, ?_, hw, ht, rfl, hcode, rfl, rfl, rfl, rfl, rfl, rfl, rfl, rfl, rfl, fun hs => if_pos hs⟩
      · rw [hT, Tenon.full_setRoutine, hf]
      · rw [hT, Tenon.get?_setRoutine]
      · rw [hT]; exact hv
  · exact State.partialCombine_of_blocked h1 hlow hb
  · intro det rest now free goes
    have hone := Tenon.only_of_filter h1
    have hrun := State.partialCombine_of_free h1 hlow hb hcl
    refine ⟨fun hs he => ?_, fun acc hs he h72 h73 hf hv => ?_, ?_⟩
    · obtain ⟨u, hm, hu, ht⟩ := State.takePartial_reduction (x := x) hone hs
      refine ⟨u, hrun.trans (by rw [ht, he]; rfl), hm, ?_⟩
      have h := hu.pending?
      rw [show (p.take x x).scan = false from hs] at h
      exact h
    · obtain ⟨u, hm, hu, ht⟩ := State.takePartial_reduction (x := x) hone hs
      obtain ⟨hmem, hl, hfull, hp⟩ := State.closeUnit_reduction hu hs h72 h73 hf hv
      refine ⟨_, hrun.trans (by rw [ht, he, if_pos rfl]), hmem.trans hm, hl, hfull, fun hw => ?_, fun hw => ?_⟩
      · have h := Tenon.pending?_newUnit_none (T := u.tenon b tn) (p := p.take x x) hw
        rw [show (p.take x x).scan = false from hs] at h
        exact (congrArg (List.find? _) hp).trans h
      · have h := (hu.setPending (q := { dst := p.dst, scan := p.scan, waiting := (p.take x x).waiting }) rfl rfl).pending?
        have hq := (congrArg (List.find? _) (hp.trans (congrArg Tenon.pendings (Tenon.newUnit_of_more hw)))).trans h
        rw [show (Pending.mk p.dst p.scan _ _ _ _).scan = false from hs] at hq
        exact ⟨_, hq, rfl, rfl⟩
    · intro hs hdet h72 h73 hv ns
      obtain ⟨u, q, hm, hd, hsc, hw, htk, hc, hp, hl, hfull, ht⟩ := State.takePartial_scan hone hs hdet h72 h73 hv
      rw [hs] at hp
      cases he : x.ends with
      | false =>
        exact ⟨u, hrun.trans (by rw [ht, he]; rfl), hm, hl, hfull, fun _ ha => ⟨q, hp, hw, htk, hc ha⟩⟩
      | true =>
        refine ⟨u.setTenon b tn ((u.tenon b tn).newUnit q), hrun.trans (by rw [ht, he]; rfl), hm, ?_, ?_, fun h => nomatch h⟩
        · simpa using hl
        · rw [State.tenon_setTenon, if_pos ⟨rfl, rfl⟩, Tenon.reg_newUnit]
          exact hfull
  · simp [Partial.before, hr, hk, roundBefore_irrefl, Nat.lt_asymm hk, Nat.ne_of_gt hk]

end Sys2Proof.Proofs

end
section
/-! PROOFS. Cells in and out of routines, and their end (R198, R199, R215 to R217, R224, R226). -/

open Sys2Proof

namespace Sys2Proof.Machine

/-! ### What a tenon shows -/

theorem Tenon.full_of_register {T : Tenon} {c : Nat} (h : isTile c = false) : T.full c = (T.reg c).full :=
  if_neg (by rw [h]; exact Bool.false_ne_true)

@[simp] theorem Tenon.slotHdr_put (T : Tenon) (d : Nat) (x : VReg) : (T.put d x).slotHdr = T.slotHdr := by
  unfold Tenon.put
  dsimp only
  split
  · rfl
  · split <;> rfl

@[simp] theorem Tenon.ordinal_put (T : Tenon) (d : Nat) (x : VReg) : (T.put d x).ordinal = T.ordinal := by
  unfold Tenon.put
  dsimp only
  split
  · rfl
  · split <;> rfl

theorem State.tenon_updBent {s : State} {b : Nat} {f : Bent → Bent} (hf : ∀ B, (f B).tenons = B.tenons) (c t : Nat) :
    (s.updBent b f).tenon c t = s.tenon c t :=
  congrArg (fun m : NMap Tenon => NMap.getD m t {}) (State.bent_updBent_keeps Bent.tenons s b c hf)

/-! ### Cells in and out -/

/-- R229: a cell offered stands last before the feedback port, with its sequence numbers. -/
theorem Bent.emit_offer (B : Bent) (e : Nat) (d : Side) (c : Cell) (done : OnAccept) : ∃ (m : Emission) (n : BitVec 16),
    NMap.getD (B.offer e d c done).emit e [] = NMap.getD B.emit e [] ++ [m] ∧ m.cell = { c with seq := n, seqp := n - 1, seqs := n } :=
  ⟨⟨(B.sequenced e d c).1, d, done⟩, B.nextSeq e d c.dest, by simp [Bent.offer, Bent.sequenced], rfl⟩

@[simp] theorem State.tenon_offer (s : State) (b e : Nat) (d : Side) (c : Cell) (done : OnAccept) (q t : Nat) :
    (s.updBent b (fun B => B.offer e d c done)).tenon q t = s.tenon q t :=
  State.tenon_updBent (f := fun B => B.offer e d c done) (fun _ => rfl) q t

@[simp] theorem State.tenon_offerAsIs (s : State) (b e : Nat) (d : Side) (c : Cell) (done : OnAccept) (q t : Nat) :
    (s.updBent b (fun B => B.offerAsIs e d c done)).tenon q t = s.tenon q t :=
  State.tenon_updBent (f := fun B => B.offerAsIs e d c done) (fun _ => rfl) q t

theorem State.emit_setTenon (s : State) (b t : Nat) (T : Tenon) : ((s.setTenon b t T).bent b).emit = (s.bent b).emit :=
  State.bent_updBent_keeps Bent.emit s b b fun _ => rfl

theorem Routine.emits_of_none {R : Routine} (h : R.couts = 0) : R.emits = { R.next with couts := 1 } := by
  rw [Routine.emits, h]


section
variable {s : State} {b tn r : Nat} {R : Routine} {d a : VCode} {x : Bool} (hi : s.OpIssues b tn r R [(a, x)] (some d))
include hi

/-- R215: a cell moved to a register. -/
theorem cin_register (hd : isTile d.toNat = false) : exec (.cin d a x) s = .next (s.vxDone b tn r
    ({ (s.tenon b tn).release a.toNat with ordinal := (s.tenon b tn).ordinal + 1 }.put d.toNat
      { (s.tenon b tn).reg a.toNat with full := true })
    (R.took s (NMap.getD (s.tenon b tn).slotHdr a.toNat default) (s.tenon b tn).ordinal)) := by
  show execCin d a x s = _
  rw [execCin, State.opword_of_issues hi]
  exact if_neg (by rw [hd]; exact Bool.false_ne_true)

/-- R215: a cell's rows moved into a tile. -/
theorem cin_tile (hd : isTile d.toNat = true) : exec (.cin d a x) s =
    let T := s.tenon b tn
    let h := NMap.getD T.slotHdr a.toNat default
    let X := T.tile d.toNat
    let n := h.cell.len.toNat / (X.cols * X.fmt.size)
    if h.cell.len.toNat % (X.cols * X.fmt.size) ≠ 0 ∨ X.rows < n then .next (s.vxEnd b tn r R 0x0001)
    else .next (s.vxDone b tn r ({ T.release a.toNat with ordinal := T.ordinal + 1 }.setTile d.toNat
      { X.fill h.cell n with live := true, poison := X.poison || (T.reg a.toNat).poison, full := true }) (R.took s h T.ordinal)) := by
  show execCin d a x s = _
  rw [execCin, State.opword_of_issues hi]
  exact if_pos hd

theorem cout_refused {cause : BitVec 16} (hc : s.outCheck R.side.lid (R.outCell ((s.tenon b tn).lanes a)) ((s.tenon b tn).lanes a) =
    some cause) : exec (.cout d a x) s = .next (s.vxEnd b tn r R cause) := by
  show execCout d a x s = _
  rw [execCout, State.opword_of_issues hi]
  simp only [hc]

/-- R216: a cell built and offered. -/
theorem cout_offered (hc : s.outCheck R.side.lid (R.outCell ((s.tenon b tn).lanes a)) ((s.tenon b tn).lanes a) = none) :
    let T := s.tenon b tn
    let c := R.outCell (T.lanes a)
    exec (.cout d a x) s = .next ((s.setTenon b tn ((T.hollow d.toNat).setRoutine r R.emits)).updBent b (fun B =>
      B.offer (4 + tn) (R.outSide tn)
        { c with payload := outPayload c (T.reg d.toNat), poison := (T.reg d.toNat).poison || (T.reg a.toNat).poison }
        (.coutSlot tn d.toNat r (s.outQueue R.side.lid c)))) := by
  show execCout d a x s = _
  rw [execCout, State.opword_of_issues hi]
  simp only [hc]

end

/-! ### Delivery -/

theorem State.vxRefusal_isSome {s : State} {i : EngIn} {l : List InCell} (hl : i.ops = l) : (s.vxRefusal i).isSome = true ↔
    ∃ o ∈ l, 16 ≤ o.cell.arg.toNat ∨ (s.launch o.side.lid).extent o.cell.code.toNat = none := by
  rw [State.vxRefusal, List.find?_isSome, hl]
  simp [State.vxBad]

/-- R198, R199: a cell alone, that is not refused, with its slot empty. -/
theorem vxDelivery_one {s : State} {b tn : Nat} {c : InCell} {i : EngIn} {lo hi : Nat} (hi' : (s.bent b).engIn (4 + tn) = some i)
    (hops : i.ops = [c]) (hf : (s.tenon b tn).isFrozen = false) (harg : c.cell.arg.toNat < 16)
    (hslot : (s.tenon b tn).full (82 + c.cell.arg.toNat % 8) = false)
    (hx : (s.launch c.side.lid).extent c.cell.code.toNat = some (lo, hi)) :
    let U := (s.tenon b tn).deliver c.cell [c]
    exec (.vxCellDelivery b (4 + tn)) s =
      if c.cell.arg.toNat < 8 then .next ((s.eat b (4 + tn) i).setTenon b tn U)
      else if 4 ≤ (s.tenon b tn).routines.length then .next s
      else .next ((s.eat b (4 + tn) i).setTenon b tn (U.start c (lo, hi))) := by
  have hgood : s.vxRefusal i = none := by
    rw [← Option.not_isSome_iff_eq_none, State.vxRefusal_isSome hops]
    simp [hx, Nat.not_le.mpr harg]
  have hfull : ¬(List.range i.ops.length).any (fun k => (s.tenon b tn).full (c.cell.vxSlot k)) = true := by
    simp [hops, Cell.vxSlot, hslot]
  have hstart : (!c.cell.vxStart) = true ↔ c.cell.arg.toNat < 8 := by
    rw [Bool.not_eq_true', Cell.vxStart, bit, BitVec.getLsbD, Nat.testBit_eq_decide_div_mod_eq, decide_eq_false_iff_not]
    omega
  have ht : 4 + tn - 4 = tn := Nat.add_sub_cancel_left ..
  show execVxCellDelivery b (4 + tn) s = _
  simp only [execVxCellDelivery, ht, hi', hops, hf, hgood, hx, Bool.false_eq_true, if_false]
  rw [hops] at hfull
  rw [if_neg hfull]
  exact if_congr hstart rfl rfl

theorem Tenon.reg_deliver_one (T : Tenon) (c : InCell) : (T.deliver c.cell [c]).reg (82 + c.cell.arg.toNat % 8) =
    { lanes := c.cell.lanes, full := true, poison := c.cell.poison } := by
  have hslot : c.cell.vxSlot 0 = 82 + c.cell.arg.toNat % 8 := by simp [Cell.vxSlot]
  rw [← hslot, Tenon.reg_of_set (T := T.deliver c.cell [c]) rfl, if_pos rfl]

/-! ### Late results -/

theorem longLatencyComplete_of_found {s : State} {b tn r : Nat} {o : LongOp}
    (h : (s.tenon b tn).longs.find? (fun q => q.id == r) = some o) :
    let T := { s.tenon b tn with longs := (s.tenon b tn).longs.filter (fun q => q.id != r) }
    exec (.longLatencyComplete b tn r) s = .next (s.setTenon b tn
      (if (NMap.get? (s.tenon b tn).routines o.routine).any (fun R => R.hold != .faulted) then T.complete o else T.forgo o)) := by
  show execLongLatencyComplete b tn r s = _
  simp only [execLongLatencyComplete, h]

@[simp] theorem Tenon.longs_complete (T : Tenon) (o : LongOp) : (T.complete o).longs = T.longs := by
  unfold Tenon.complete
  split <;> rfl

@[simp] theorem Tenon.longs_refill (T : Tenon) (d : Nat) : (T.refill d).longs = T.longs := by
  unfold Tenon.refill
  split <;> rfl

@[simp] theorem Tenon.longs_forgo (T : Tenon) (o : LongOp) : (T.forgo o).longs = T.longs := by
  unfold Tenon.forgo
  dsimp only
  split <;> split <;> split <;> simp

/-- R226: what a register and a tile hold when presence returns. -/
theorem Tenon.lanes_refill (T : Tenon) (d c : Nat) : ((T.refill d).reg c).lanes = (T.reg c).lanes := by
  unfold Tenon.refill
  split
  · rfl
  · rw [Tenon.reg_of_set (T := { T with v := NMap.set T.v d { T.reg d with full := true } }) rfl]
    split
    · next h => rw [h]
    · rfl

theorem Tenon.elems_refill (T : Tenon) (d c : Nat) : ((T.refill d).tile c).elems = (T.tile c).elems := by
  unfold Tenon.refill
  split
  · simp only [Tenon.tile, Tenon.setTile, NMap.getD_set]
    split
    · next h => rw [h]
    · rfl
  · rfl

theorem Tenon.full_refill {T : Tenon} {d c : Nat} (h : c = d ∨ T.full c = true) : (T.refill d).full c = true := by
  have hreg (x : VReg) : ({ T with v := NMap.set T.v d x } : Tenon).reg c = if c = d then x else T.reg c := Tenon.reg_of_set rfl c
  unfold Tenon.refill
  cases hd : isTile d <;> cases hc : isTile c
  · rw [if_neg Bool.false_ne_true, Tenon.full_of_register hc, hreg]
    rw [Tenon.full_of_register hc] at h
    split
    · rfl
    · next hne => exact h.resolve_left hne
  · rw [if_neg Bool.false_ne_true]
    have hne : c ≠ d := fun he => by rw [he, hd] at hc; exact Bool.false_ne_true hc
    rw [Tenon.full_of_tile hc] at h ⊢
    exact h.resolve_left hne
  · rw [if_pos rfl]
    have hne : c ≠ d := fun he => by rw [he, hd] at hc; exact Bool.false_ne_true hc.symm
    rw [Tenon.full_of_register hc] at h ⊢
    exact h.resolve_left hne
  · rw [if_pos rfl, Tenon.full_of_tile hc, Tenon.tile_setTile hc hd]
    rw [Tenon.full_of_tile hc] at h
    split
    · rfl
    · next hne => exact h.resolve_left hne

theorem Tenon.lanes_forgo (T : Tenon) (o : LongOp) (c : Nat) : ((T.forgo o).reg c).lanes = (T.reg c).lanes := by
  unfold Tenon.forgo
  dsimp only
  split <;> split <;> split <;> simp only [Tenon.lanes_refill]

theorem Tenon.elems_forgo (T : Tenon) (o : LongOp) (c : Nat) : ((T.forgo o).tile c).elems = (T.tile c).elems := by
  unfold Tenon.forgo
  dsimp only
  split <;> split <;> split <;> simp only [Tenon.elems_refill]

theorem Tenon.full_forgo {T : Tenon} {o : LongOp} (h72 : o.dst ≠ 72) (h73 : o.dst ≠ 73) : (T.forgo o).full o.dst = true := by
  have h1 : (T.refill o.dst).full o.dst = true := Tenon.full_refill (.inl rfl)
  have hd : ¬(o.dst = codeL0 ∨ o.dst = codeL1) := not_or.mpr ⟨h72, h73⟩
  unfold Tenon.forgo
  rw [if_neg hd]
  dsimp only
  split <;> split
  · exact Tenon.full_refill (.inr (Tenon.full_refill (.inr h1)))
  · exact Tenon.full_refill (.inr h1)
  · exact Tenon.full_refill (.inr h1)
  · exact h1

/-- R69, R70: the registers after a late result of a register other than l0 and l1. -/
theorem Tenon.reg_late {T : Tenon} {d : Nat} (h0 : d ≠ 72) (h1 : d ≠ 73) (l0 l1 : Bool) (x : VReg) (c : Nat) :
    (T.late d l0 l1 x).reg c = if c = d ∨ (c = 72 ∧ l0 = true) ∨ (c = 73 ∧ l1 = true) then x else T.reg c := by
  have hd : ¬(d = codeL0 ∨ d = codeL1) := not_or.mpr ⟨h0, h1⟩
  have hset (U : Tenon) (n : Nat) : ({ U with v := NMap.set U.v n x } : Tenon).reg c = if c = n then x else U.reg c :=
    Tenon.reg_of_set rfl c
  have h2 := hset T d
  have h3 := hset { T with v := NMap.set T.v d x } 72
  have h4 := hset { T with v := NMap.set T.v d x } 73
  have h5 := hset { T with v := NMap.set (NMap.set T.v d x) 72 x } 73
  rw [h2] at h3 h4
  rw [h3] at h5
  unfold Tenon.late
  rw [if_neg hd]
  cases l0 <;> cases l1
  · refine h2.trans ?_
    simp
  · refine h4.trans ?_
    grind
  · refine h3.trans ?_
    grind
  · refine h5.trans ?_
    grind

theorem Tenon.tile_lateTile (T : Tenon) (o : LongOp) (l : List FVal) :
    ((T.lateTile o l).tile o.dst).elems = l ∧ ((T.lateTile o l).tile o.dst).full = true := by
  have h : (T.lateTile o l).tile o.dst = { T.tile o.dst with elems := l, full := true } :=
    (NMap.getD_set ..).trans (if_pos rfl)
  rw [h]
  exact ⟨rfl, rfl⟩

end Sys2Proof.Machine

namespace Sys2Proof.Proofs
open Sys2Proof.Machine

/-- Settles O37: a routine's cells, its end, and the results that come late, each by the step that does it. -/
theorem vxCellsAndEnd : Obligations.VxCellsAndEnd := by
  intro s d a x e b tn r R T h v
  refine ⟨fun hi ha => ⟨fun hd hne h72 h73 => ?_, ?_⟩, ?_,
    fun hi ha => ⟨fun hk => ?_, fun hk => ?_⟩, fun hc hR hh h0 => ?_, fun hR hh h0 hl => ?_, fun o ho => ?_, fun c l i hi hops hf => ?_,
    fun c i lo hi hin hops hf harg hslot hx => ⟨fun h8 => ?_, fun h8 h4 => ?_⟩⟩
  · have hne : a.toNat ≠ d.toNat := fun h => hne (BitVec.eq_of_toNat_eq h)
    refine ⟨_, (R.took s h T.ordinal).next, cin_register hi hd, rfl, ?_, ?_, ?_, ?_, rfl, rfl, rfl, rfl, ?_⟩
    all_goals rw [State.tenon_vxDone]
    · rw [Tenon.reg_setRoutine, Tenon.reg_put, if_pos rfl]
    · rw [Tenon.full_setRoutine, Tenon.full_of_register ha, Tenon.reg_put, if_neg hne, if_neg h72, if_neg h73, ite_self]
      exact congrArg VReg.full ((Tenon.reg_hollow T a.toNat a.toNat).trans (if_pos rfl))
    · refine (congrArg (NMap.get? · a.toNat) (Tenon.slotHdr_put ..)).trans ?_
      simp [Tenon.release]
    · exact Tenon.get?_setRoutine ..
    · exact Tenon.ordinal_put ..
  · intro hd X rowBytes n
    rw [cin_tile hi hd]
    refine ⟨fun hbad => if_pos hbad, fun hmod hn => ?_⟩
    refine ⟨_, if_neg (by simp only [not_or, not_not, not_lt]; exact ⟨hmod, hn⟩), rfl, ?_, ?_, ?_, ?_, fun c hc => ?_⟩
    all_goals rw [State.tenon_vxDone]
    · rw [Tenon.tile_setRoutine, Tenon.tile_setTile hd hd, if_pos rfl]
    · rw [Tenon.tile_setRoutine, Tenon.tile_setTile hd hd, if_pos rfl]
    · rw [Tenon.tile_setRoutine, Tenon.tile_setTile hd hd, if_pos rfl]
    · exact congrArg VReg.full ((Tenon.reg_hollow T a.toNat a.toNat).trans (if_pos rfl))
    · exact (Tenon.reg_hollow T a.toNat c).trans (if_neg hc)
  · intro hi ha hd c
    refine ⟨fun cause hc => cout_refused hi hc, fun hc => ?_⟩
    obtain ⟨-, -, -, h0, -, -⟩ := id hi
    let c1 : Cell := { c with payload := outPayload c (T.reg d.toNat), poison := (T.reg d.toNat).poison || v.poison }
    let s1 := s.setTenon b tn ((T.hollow d.toNat).setRoutine r R.emits)
    obtain ⟨m, n, hm, hcell⟩ := (s1.bent b).emit_offer (4 + tn) (R.outSide tn) c1 (.coutSlot tn d.toNat r (s.outQueue R.side.lid c))
    rw [State.emit_setTenon] at hm
    refine ⟨_, m, cout_offered hi hc, rfl, ?_, ?_, ?_, (congrArg Cell.dest hcell :), (congrArg Cell.kind hcell :),
      (congrArg Cell.code hcell :), (congrArg Cell.arg hcell :), (congrArg Cell.addr hcell :), (congrArg Cell.len hcell :),
      (congrArg Cell.round hcell :),
      (congrArg Cell.payload hcell :), (congrArg Cell.poison hcell :)⟩
    · rw [State.tenon_offer, State.tenon_setTenon, if_pos ⟨rfl, rfl⟩, Tenon.full_setRoutine, Tenon.full_of_register hd,
        Tenon.reg_hollow, if_pos rfl]
    · rw [State.tenon_offer, State.tenon_setTenon, if_pos ⟨rfl, rfl⟩, Tenon.get?_setRoutine, Routine.emits_of_none h0]
    · rw [State.bent_updBent, if_pos rfl]
      exact hm
  · show execCfwd a e x s = _
    rw [execCfwd, State.opword_of_issues hi]
    exact if_pos hk
  · obtain ⟨-, -, -, h0, -, hfull⟩ := id hi
    refine ⟨(s.setTenon b tn (T.setRoutine r R.emits)).updBent b (fun B =>
      B.offerAsIs (4 + tn) { h.side with src := .engine (4 + tn), prov := none, via := none } { h.cell with dest := oneHot e.toNat }
        (.cfwdSlot tn a.toNat r)), ⟨{ h.cell with dest := oneHot e.toNat },
      { h.side with src := .engine (4 + tn), prov := none, via := none }, .cfwdSlot tn a.toNat r⟩, ?_, rfl, ?_, ?_, rfl, ?_⟩
    · show execCfwd a e x s = _
      rw [execCfwd, State.opword_of_issues hi]
      exact if_neg hk
    · rw [State.tenon_offerAsIs, State.tenon_setTenon, if_pos ⟨rfl, rfl⟩, Tenon.get?_setRoutine, Routine.emits_of_none h0]
    · rw [State.bent_updBent, if_pos rfl]
      simp only [Bent.offerAsIs, NMap.getD_modify, if_true]
      rw [State.emit_setTenon]
    · rw [State.tenon_offerAsIs, State.tenon_setTenon, if_pos ⟨rfl, rfl⟩, Tenon.full_setRoutine]
      exact hfull a (by simp)
  · refine ⟨s.setTenon b tn (T.setRoutine r { R with hold := .ending, suppress := false }), ?_, rfl, ?_⟩
    · exact State.routine_of_running hc hR hh h0
        (fun b t r T R => .next (s.setTenon b t (T.setRoutine r { R with hold := .ending, suppress := false })))
    · rw [State.tenon_setTenon, if_pos ⟨rfl, rfl⟩, Tenon.get?_setRoutine]
  · refine ⟨s.setTenon b tn { T with routines := NMap.erase T.routines r }, ?_, rfl, ?_⟩
    · show execRoutineEnd b tn r s = _
      simp only [execRoutineEnd, T] at *
      simp only [hR]
      exact if_pos ⟨hh, h0, hl⟩
    · simp
  · refine ⟨_, longLatencyComplete_of_found ho, rfl, ?_, fun ⟨R', hR', hh⟩ => ?_, fun hdead => ?_⟩
    · rw [State.tenon_setTenon, if_pos ⟨rfl, rfl⟩]
      split
      · exact Tenon.longs_complete ..
      · exact Tenon.longs_forgo ..
    · have hlive : (NMap.get? (s.tenon b tn).routines o.routine).any (fun R => R.hold != .faulted) = true := by
        rw [hR']
        simpa using hh
      rw [State.tenon_setTenon, if_pos ⟨rfl, rfl⟩, if_pos hlive]
      refine ⟨fun hn h72 h73 => ?_, fun l hl => ?_⟩
      · simp only [Tenon.complete, hn]
        exact ⟨(Tenon.reg_late h72 h73 ..).trans (if_pos (.inl rfl)),
          fun h0 => (Tenon.reg_late h72 h73 ..).trans (if_pos (.inr (.inl ⟨rfl, h0⟩)))⟩
      · simp only [Tenon.complete, hl]
        exact Tenon.tile_lateTile ..
    · have hgone : ¬(NMap.get? (s.tenon b tn).routines o.routine).any (fun R => R.hold != .faulted) = true := by
        cases hR : NMap.get? (s.tenon b tn).routines o.routine with
        | none => exact Bool.false_ne_true
        | some R' => simpa using hdead R' hR
      rw [State.tenon_setTenon, if_pos ⟨rfl, rfl⟩, if_neg hgone]
      exact ⟨fun c => ⟨Tenon.lanes_forgo .., Tenon.elems_forgo ..⟩, fun h72 h73 => Tenon.full_forgo h72 h73⟩
  · refine ⟨fun o ho => ?_, State.vxRefusal_isSome hops⟩
    have ht : 4 + tn - 4 = tn := Nat.add_sub_cancel_left ..
    show execVxCellDelivery b (4 + tn) s = _
    simp only [T] at hf
    simp only [execVxCellDelivery, ht, hi, hops, hf, ho, Bool.false_eq_true, if_false]
  · refine ⟨_, (vxDelivery_one hin hops hf harg hslot hx).trans (if_pos h8), rfl, ?_, ?_⟩
    · rw [State.tenon_setTenon, if_pos ⟨rfl, rfl⟩, Tenon.reg_deliver_one]
    · rw [State.tenon_setTenon, if_pos ⟨rfl, rfl⟩]
      rfl
  · let N : Routine := { entry := c.cell.code.toNat, pc := lo, lo := lo, hi := hi, start := c.cell, side := c.side }
    refine ⟨_, N, (vxDelivery_one hin hops hf harg hslot hx).trans
      ((if_neg (Nat.not_lt.mpr h8)).trans (if_neg (Nat.not_le.mpr h4))), rfl, ?_, ?_, rfl, rfl, rfl, rfl⟩
    · rw [State.tenon_setTenon, if_pos ⟨rfl, rfl⟩]
      exact Tenon.reg_deliver_one ..
    · rw [State.tenon_setTenon, if_pos ⟨rfl, rfl⟩]
      exact (NMap.get?_set ..).trans (if_pos rfl)

end Sys2Proof.Proofs

end
section
/-! PROOFS. Tile configuration, loops and branches of routines (R220 to R223). -/

open Sys2Proof

namespace Sys2Proof.Machine

/-! ### Tiles -/

theorem tileOf_fmt (q : BitVec 17) : ∀ p ∈ ([(1, .int .int8, 24), (3, .int .int16, 24), (4, .int .int32, 24), (6, .flt .fp32, 24),
    (7, .flt .fp16, 11), (8, .flt .bf16, 8), (9, .flt .e4m3, 4), (10, .flt .e5m2, 3)] : List (BitVec 5 × SFmt × BitVec 5)),
    q.extractLsb' 12 5 = p.1 → (tileOf q).fmt = p.2.1 ∧
      (tileOf q).elems = List.replicate ((tileOf q).rows * (tileOf q).cols) ⟨0, p.2.2⟩ := by
  simp only [List.forall_mem_cons, List.not_mem_nil, false_imp_iff, implies_true, and_true, tileOf]
  refine ⟨?_, ?_, ?_, ?_, ?_, ?_, ?_, ?_⟩
  all_goals
    intro h
    rw [h]
    exact ⟨rfl, rfl⟩

theorem Tenon.tile_setTile_self (T : Tenon) (d : Nat) (X : Tile) : (T.setTile d X).tile d = X :=
  (NMap.getD_set ..).trans (if_pos rfl)

section
variable {s : State} {b tn r : Nat} {R : Routine} (hc : s.cur = .routine b tn r)
  (hR : NMap.get? (s.tenon b tn).routines r = some R) (hh : R.hold = .running) (h0 : R.couts = 0)
include hc hR hh h0

/-- R220: both forms of tile configuration. -/
theorem State.tileConfig_of_running (d : VCode) (q : BitVec 17) (discard : Bool) : s.tileConfig d q discard =
    let X := (s.tenon b tn).tile d.toNat
    if X.full = false then .next s
    else if X.configured && X.live && !discard then .next (s.vxEnd b tn r R 0x0011)
    else .next (s.vxDone b tn r ((s.tenon b tn).setTile d.toNat (tileOf q)) R) :=
  State.routine_of_running hc hR hh h0 _

/-! ### Loops and branches -/

/-- R221: a loop opens where it is the first or second, and its body fits. -/
theorem vloop_of_running (n : BitVec 14) (l : BitVec 7) : exec (.vloop n l) s =
    if 2 ≤ R.loops.length ∨ R.hi < R.pc + 1 + l.toNat ∨ (∃ y, R.loops.head? = some y ∧ y.2.1 < R.pc + 1 + l.toNat) then
      .next (s.vxEnd b tn r R 0x0001)
    else .next (s.setTenon b tn ((s.tenon b tn).setRoutine r
      { R with loops := (R.pc + 1, R.pc + 1 + l.toNat, n.toNat) :: R.loops, pc := R.pc + 1, suppress := false })) := by
  show execVloop n l s = _
  rw [execVloop, State.routine_of_running hc hR hh h0]
  refine if_congr (or_congr Iff.rfl ?_) rfl rfl
  cases R.loops with
  | nil => simp
  | cons y l => simp; omega

end

/-- R221: the loops that a place leaves, and those around it. -/
theorem loopsAround_split (l : List (Nat × Nat × Nat)) (pc : Nat) :
    ∃ ended, l = ended ++ loopsAround l (pc : Int) ∧ (∀ y ∈ ended, ¬(y.1 ≤ pc ∧ pc < y.2.1)) ∧
      ∀ y, (loopsAround l (pc : Int)).head? = some y → y.1 ≤ pc ∧ pc < y.2.1 := by
  induction l with
  | nil => exact ⟨[], rfl, by simp, by simp [loopsAround]⟩
  | cons y l ih =>
    obtain ⟨lo, hi, n⟩ := y
    rw [loopsAround]
    split
    · next h =>
      refine ⟨[], rfl, by simp, fun y hy => ?_⟩
      obtain rfl := Option.some.inj hy
      simp only; omega
    · next h =>
      obtain ⟨ended, hl, hout, hin⟩ := ih
      refine ⟨(lo, hi, n) :: ended, congrArg _ hl, ?_, hin⟩
      rw [List.forall_mem_cons]
      exact ⟨fun hy => h (by simp only at hy; omega), hout⟩

end Sys2Proof.Machine

namespace Sys2Proof.Proofs
open Sys2Proof.Machine

/-- What `vbr` does, taken or not. -/
theorem vbr_goes {s : State} {a : VCode} {off : BitVec 14} {x : Bool} {b tn r : Nat} {R : Routine}
    (hi : s.OpIssues b tn r R [(a, x)] none) (all : Bool) :
    let act := ((s.tenon b tn).reg a.toNat).lanes.take R.aw
    let yes := if all then act.all (fun v => v.v != 0) else act.any (fun v => v.v != 0)
    s.vbr all a off x = .next (s.setTenon b tn ((s.tenon b tn).setRoutine r (if yes then R.branch off else R.next))) := by
  rw [State.vbr, State.opword_of_issues hi]
  rfl

/-- Settles O38: the configuration of a tile, the loop opened and the branch taken, each in its cases. -/
theorem vxTilesAndControl : Obligations.VxTilesAndControl := by
  intro s d a q n off l x b tn r R T X
  refine ⟨fun hi => ?_, ?_⟩
  · obtain ⟨hc, hR, hh, h0, -, -⟩ := hi
    have hcfg := State.tileConfig_of_running hc hR hh h0 d q
    refine ⟨?_, fun hf hconf hlive => ?_, ?_, ?_⟩
    · intro i hi hf
      simp only [List.mem_cons, List.not_mem_nil, or_false] at hi
      obtain rfl | rfl := hi
      · exact (hcfg false).trans (if_pos hf)
      · exact (hcfg true).trans (if_pos hf)
    · refine (hcfg false).trans ((if_neg ?_).trans (if_pos ?_))
      · simpa using hf
      · simp only [X, T] at hconf hlive
        rw [hconf, hlive]; rfl
    · intro i hi hf hfree
      refine ⟨s.vxDone b tn r (T.setTile d.toNat (tileOf q)) R, ?_, rfl, ?_, ?_⟩
      · simp only [List.mem_cons, List.not_mem_nil, or_false] at hi
        obtain rfl | rfl := hi
        · refine (hcfg false).trans ((if_neg (by simpa using hf)).trans (if_neg ?_))
          have hl := hfree.resolve_right (fun h => nomatch h)
          simp only [X, T] at hl
          rw [hl, Bool.and_false]
          exact Bool.false_ne_true
        · refine (hcfg true).trans ((if_neg (by simpa using hf)).trans (if_neg ?_))
          rw [Bool.not_true, Bool.and_false]
          exact Bool.false_ne_true
      · rw [State.tenon_vxDone, Tenon.get?_setRoutine]
      · rw [State.tenon_vxDone]
        simp only [Tenon.tile_setRoutine, Tenon.tile_setTile_self]
        refine ⟨rfl, rfl, rfl, rfl, rfl, rfl, rfl, fun c hc hne hd => ?_, fun _ => rfl, tileOf_fmt q⟩
        exact (Tenon.tile_setTile hc hd T _).trans (if_neg hne)
    · intro stop
      have hloop := vloop_of_running hc hR hh h0 n l
      refine ⟨fun hbad => hloop.trans (if_pos ?_), fun hlen hhi hin => ⟨_, hloop.trans (if_neg ?_), rfl, ?_⟩⟩
      · obtain h | h | ⟨y, hy, h⟩ := hbad
        · exact .inl h
        · exact .inr (.inl h)
        · match hl : R.loops with
          | [] => rw [hl] at hy; exact nomatch hy
          | [z] => rw [hl] at hy; exact .inr (.inr ⟨z, rfl, List.mem_singleton.mp hy ▸ h⟩)
          | _ :: _ :: l => exact .inl (by simp)
      · rintro (h | h | ⟨y, hy, h⟩)
        · omega
        · omega
        · have := hin y (List.mem_of_mem_head? hy)
          omega
      · rw [State.tenon_setTenon, if_pos ⟨rfl, rfl⟩, Tenon.get?_setRoutine]
  · intro hi ha act goes
    have key (all : Bool) (i : Instr) (hexec : exec i s = s.vbr all a off x) :
        goes i (if all then act.all (fun v => v.v != 0) else act.any (fun v => v.v != 0)) := by
      let yes := if all then act.all (fun v => v.v != 0) else act.any (fun v => v.v != 0)
      refine ⟨_, if yes then R.branch off else R.next, hexec.trans (vbr_goes hi all), rfl, ?_, fun hno => ?_, fun hyes h => ?_⟩
      · rw [State.tenon_setTenon, if_pos ⟨rfl, rfl⟩, Tenon.get?_setRoutine]
      · simp only [yes, hno, Bool.false_eq_true, if_false]
      · obtain ⟨pc, hpc⟩ : ∃ pc : Nat, (R.pc : Int) + off.toInt = pc := ⟨_, (Int.toNat_of_nonneg h).symm⟩
        have hb : R.branch off = { R with loops := loopsAround R.loops (pc : Int), pc := pc, suppress := false } := by
          simp [Routine.branch, hpc]
        simp only [yes, hyes, if_true, hb, hpc, true_and]
        exact loopsAround_split R.loops pc
    exact ⟨key true (.vbrAll a off x) rfl, key false (.vbrAny a off x) rfl⟩

end Sys2Proof.Proofs

end
section
/-! PROOFS. Weight loads and firings of a matrix tenon (R37 to R41, R231 to R235). -/

open Sys2Proof

namespace Sys2Proof.Machine

/-! ### What an engine takes -/

/-- R227: the operation that stands before an engine is carried out. -/
theorem State.engine_of_takes {s : State} {b e op : Nat} {i : EngIn} {c : InCell} (h : s.Takes b e op i c)
    (body : Bent → EngIn → InCell → State) : s.engine b e op body = .next (body (s.bent b) i c) := by
  obtain ⟨hi, hc, hf, hop⟩ := h
  obtain ⟨l, hl⟩ : ∃ l, i.ops = c :: l := by
    cases ho : i.ops with
    | nil => rw [ho] at hc; exact nomatch hc
    | cons x l => rw [ho] at hc; exact ⟨l, by rw [Option.some.inj hc]⟩
  simp only [State.engine, hi, hl, hf, hop, BEq.rfl, Bool.and_true, if_true]

theorem State.withOperands_one {i : EngIn} {c : InCell} (h : i.ops = [c]) (s : State) (b e : Nat) (d : InCell) (body : State) :
    s.withOperands b e i d 1 body = body := if_pos (by rw [h]; rfl)

@[simp] theorem State.mxAt_updMx (s : State) (b e : Nat) (f : Mx → Mx) :
    ((s.updMx b e f).bent b).mxAt e = f ((s.bent b).mxAt e) := by
  simp [State.updMx, Bent.mxAt]

theorem Bent.mx_consume (B : Bent) (e : Nat) (i : EngIn) : (B.consume e i).mx = B.mx := by
  unfold Bent.consume
  split <;> rfl

@[simp] theorem State.mxAt_eat (s : State) (b e : Nat) (i : EngIn) : ((s.eat b e i).bent b).mxAt e = (s.bent b).mxAt e := by
  simp [State.eat, Bent.mxAt, Bent.mx_consume]

theorem State.fed_updMx (s : State) (b e : Nat) (i : EngIn) (f : Mx → Mx) : s.Fed ((s.eat b e i).updMx b e f) b e i := by
  simp [State.Fed, State.updMx, State.eat]

/-! ### Weight streams and fire cells -/

section
variable {s : State} {b e : Nat} {i : EngIn} {c : InCell} (hops : i.ops = [c])
include hops

/-- R231: a weight cell of the stream that a tenon takes, L before it. -/
theorem mxWload_of_stream (ht : s.Takes b e 0x101 i c) {L : LoadStream}
    (hL : ((s.bent b).mxAt e).load = some L ∧ L.issuer = c.issuer ∨
      ((s.bent b).mxAt e).load = none ∧ ((s.bent b).mxAt e).busy = false ∧
        L = { issuer := c.issuer, bytes := [], prov := c.side.prov, ctx := c.cell.ctx, round := c.cell.round, poison := false }) :
    exec (.mxWload b e) s = .next (
      if c.cell.eot then
        let r := s.endLoad (s.launch c.side.lid).part ((s.bent b).mxAt e) (L.add c)
        let u := (s.eat b e i).updMx b e (fun _ => r.1)
        if r.2 then u.engFault c.side 0x0001 else u
      else (s.eat b e i).updMx b e (fun M => { M with load := some (L.add c) })) := by
  show execMxWload b e s = _
  rw [execMxWload, State.engine_of_takes ht, State.withOperands_one hops]
  obtain ⟨hl, hi⟩ | ⟨hl, hb, rfl⟩ := hL
  · simp only [hl, hi, bne_self_eq_false, Bool.false_eq_true, if_false, Option.getD_some]
  · simp only [hl, hb, Bool.false_eq_true, if_false, Option.getD_none]

end

/-- The four forms of a fire cell. -/
theorem exec_fire (b e : Nat) {q : Instr × Nat × FireForm}
    (hq : q ∈ [(Instr.mxFire b e, 0x102, FireForm.mk false false), (.mxFireStrict b e, 0x103, ⟨false, true⟩),
        (.mxFireSp b e, 0x104, ⟨true, false⟩), (.mxFireSpStrict b e, 0x105, ⟨true, true⟩)]) (s : State) :
    exec q.1 s = s.fire b e q.2.1 q.2.2 := by
  revert q
  simp only [List.forall_mem_cons, List.not_mem_nil, false_imp_iff, implies_true, and_true]
  exact ⟨rfl, rfl, rfl, rfl⟩

section
variable {s : State} {b e op : Nat} {i : EngIn} {c : InCell} {form : FireForm} (hops : i.ops = [c]) (ht : s.Takes b e op i c)
  (hl : ((s.bent b).mxAt e).load = none)
include hops ht hl

/-- R233, R234: a fire cell before a tenon that no weights are loaded into. -/
theorem State.fire_of_idle : s.fire b e op form = .next (
    let M := (s.bent b).mxAt e
    let ahead := (c.cell.arg.toNat / 2 ^ 28 + 16 - M.wgen) % 16
    if 1 ≤ ahead ∧ ahead ≤ 7 then s
    else if 8 ≤ ahead then
      (s.updMx b e (fun M => { M with partialRow := NMap.erase M.partialRow c.issuer })).refuse b e i c 0x0001
    else
      let r := M.takeRow c form
      if 8 < r.1.rows.length then s
      else if r.2 then ((s.eat b e i).updMx b e (fun _ => r.1)).engFault c.side 0x0001
      else (s.eat b e i).updMx b e (fun _ => r.1)) := by
  rw [State.fire, State.engine_of_takes ht, State.withOperands_one hops]
  simp only [hl, Option.isSome_none, Bool.false_or, Bool.and_eq_true, decide_eq_true_eq]

end

/-! ### The sum of a column -/

/-- A product of a zero and a value that is not finite. -/
def Ex.clash (a b : Ex) : Bool := (a.isZero && !b.isFinite) || (b.isZero && !a.isFinite)

theorem ColSum.skipped_step (t : ColSum) (strict : Bool) (p : Nat) (a : Ex × Nat) (b : Ex) :
    (t.step strict p a b).skipped = (t.skipped || (a.1.clash b && !strict)) := by
  simp only [ColSum.step, Ex.clash]
  cases ((a.1.isZero && !b.isFinite) || (b.isZero && !a.1.isFinite)) <;> cases strict <;> simp

theorem Ex.add_nan (x : Ex) (mode : Mode) : x.add .nan mode = .nan := by
  cases x <;> rfl

theorem ColSum.sum_step_of_clash (t : ColSum) (p : Nat) {a : Ex × Nat} {b : Ex} (h : a.1.clash b = true) :
    (t.step true p a b).sum = some .nan := by
  simp only [Ex.clash] at h
  simp only [ColSum.step, h, Bool.not_true, Bool.and_false, Bool.false_eq_true, if_false, if_true]
  cases t.sum with
  | none => rfl
  | some u => simp only [Ex.add_nan]

theorem ColSum.sum_step_of_nan {t : ColSum} (h : t.sum = some .nan) (strict : Bool) (p : Nat) (a : Ex × Nat) (b : Ex) :
    (t.step strict p a b).sum = some .nan := by
  simp only [ColSum.step]
  split
  · exact h
  · rw [h]; rfl

theorem ColSum.sum_step {t : ColSum} {a : Ex × Nat} {b : Ex} (h : a.1.clash b = false) (strict : Bool) (p : Nat) :
    (t.step strict p a b).sum = some (t.sum.elim (a.1.mul b) (fun u => u.add (a.1.mul b) .rne)) := by
  simp only [Ex.clash] at h
  simp only [ColSum.step, h, Bool.false_and, Bool.false_eq_true, if_false]
  cases t.sum <;> rfl

/-! ### Exact values as multiples of a power of two -/

theorem Ex.Above.isFinite {q : Int} {x : Ex} (h : x.Above q) : x.isFinite = true := by
  cases x with
  | fin => rfl
  | nan => exact h.elim
  | inf => exact h.elim

theorem Ex.clash_of_finite {x y : Ex} (hx : x.isFinite = true) (hy : y.isFinite = true) : x.clash y = false := by
  simp [Ex.clash, hx, hy]

theorem Ex.mul_above {x y : Ex} {p q : Int} (hx : x.Above p) (hy : y.Above q) :
    (x.mul y).Above (p + q) ∧ (x.mul y).units (p + q) = x.units p * y.units q := by
  match x, y, hx, hy with
  | .fin n1 m1 e1 _, .fin n2 m2 e2 _, ⟨h1, _⟩, ⟨h2, _⟩ =>
    refine ⟨⟨by omega, rfl⟩, ?_⟩
    have he : (e1 + e2 - (p + q)).toNat = (e1 - p).toNat + (e2 - q).toNat := by omega
    simp only [Ex.mul, Ex.units, he, pow_add]
    push_cast
    cases n1 <;> cases n2 <;> simp <;> ring

theorem units_fin_of_le {q e e1 : Int} (hq : q ≤ e) (he : e ≤ e1) (n : Bool) (m : Nat) (st : Bool) :
    Ex.units q (.fin n m e1 st) = (if n then -((m * 2 ^ (e1 - e).toNat : Nat) : Int) else ((m * 2 ^ (e1 - e).toNat : Nat) : Int))
      * 2 ^ (e - q).toNat := by
  have h : (e1 - q).toNat = (e1 - e).toNat + (e - q).toNat := by omega
  simp only [Ex.units, h, pow_add]
  push_cast
  cases n <;> simp <;> ring

theorem Ex.add_above {x y : Ex} {q : Int} (hq : q ≤ 0) (hx : x.Above q) (hy : y.Above q) (mode : Mode) :
    (x.add y mode).Above q ∧ (x.add y mode).units q = x.units q + y.units q := by
  match x, y, hx, hy with
  | .fin n1 m1 e1 s1, .fin n2 m2 e2 s2, ⟨h1, _⟩, ⟨h2, _⟩ =>
    let e := if e1 ≤ e2 then e1 else e2
    have hqe : q ≤ e := by simp only [e]; split <;> assumption
    have he1 : e ≤ e1 := by simp only [e]; split <;> omega
    have he2 : e ≤ e2 := by simp only [e]; split <;> omega
    rw [units_fin_of_le hqe he1, units_fin_of_le hqe he2, ← add_mul]
    generalize hs : ((if n1 then -((m1 * 2 ^ (e1 - e).toNat : Nat) : Int) else ((m1 * 2 ^ (e1 - e).toNat : Nat) : Int)) +
      if n2 then -((m2 * 2 ^ (e2 - e).toNat : Nat) : Int) else ((m2 * 2 ^ (e2 - e).toNat : Nat) : Int)) = s
    have hadd : (Ex.fin n1 m1 e1 s1).add (.fin n2 m2 e2 s2) mode =
        if s = 0 then (if n1 = n2 then .fin n1 0 0 false else .fin (decide (mode = .rdn)) 0 0 false)
        else .fin (decide (s < 0)) s.natAbs e false := by
      rw [← hs]; rfl
    rw [hadd]
    split
    · next h0 =>
      rw [h0, zero_mul]
      split <;> exact ⟨⟨hq, rfl⟩, by simp [Ex.units]⟩
    · refine ⟨⟨hqe, rfl⟩, ?_⟩
      simp only [Ex.units]
      push_cast
      rw [← mul_assoc]
      congr 1
      by_cases hneg : s < 0
      · simp only [hneg, decide_true, if_true, abs_of_neg hneg]; ring
      · simp only [hneg, decide_false, Bool.false_eq_true, if_false, abs_of_nonneg (not_lt.mp hneg)]; ring

/-! ### Sums of columns -/

section
variable {strict : Bool} {p : Nat} {B : Nat → Ex}

/-- R40: a column skips a product where its form is not strict and one clashes. -/
theorem skipped_foldl_step (l : List ((Ex × Nat) × Nat)) (t : ColSum) :
    (l.foldl (fun t x => t.step strict p x.1 (B x.2)) t).skipped =
      (t.skipped || l.any (fun x => x.1.1.clash (B x.2) && !strict)) := by
  induction l generalizing t with
  | nil => simp
  | cons x l ih => rw [List.foldl_cons, ih, ColSum.skipped_step, List.any_cons, Bool.or_assoc]

theorem sum_foldl_step_of_nan (l : List ((Ex × Nat) × Nat)) {t : ColSum} (h : t.sum = some .nan) :
    (l.foldl (fun t x => t.step strict p x.1 (B x.2)) t).sum = some .nan := by
  induction l generalizing t with
  | nil => exact h
  | cons x l ih => exact ih (ColSum.sum_step_of_nan h ..)

/-- R41: a product that clashes makes the sum of a strict form a NaN. -/
theorem sum_foldl_step_of_clash {l : List ((Ex × Nat) × Nat)} {x : (Ex × Nat) × Nat} (hx : x ∈ l) (h : x.1.1.clash (B x.2) = true)
    (t : ColSum) : (l.foldl (fun t x => t.step true p x.1 (B x.2)) t).sum = some .nan := by
  induction l generalizing t with
  | nil => exact nomatch hx
  | cons y l ih =>
    rw [List.foldl_cons]
    rcases List.mem_cons.mp hx with rfl | hx
    · exact sum_foldl_step_of_nan l (ColSum.sum_step_of_clash t p h)
    · exact ih hx _

/-- R37: finite products are summed exactly. -/
theorem sum_foldl_step_of_above {ea eb : Int} (hq : ea + eb ≤ 0) {l : List ((Ex × Nat) × Nat)}
    (hl : ∀ x ∈ l, x.1.1.Above ea ∧ (B x.2).Above eb) {t : ColSum} {S : Ex} (ht : t.sum = some S) (hS : S.Above (ea + eb)) :
    ∃ S', (l.foldl (fun t x => t.step strict p x.1 (B x.2)) t).sum = some S' ∧ S'.Above (ea + eb) ∧
      S'.units (ea + eb) = S.units (ea + eb) + (l.map (fun x => x.1.1.units ea * (B x.2).units eb)).sum := by
  induction l generalizing t S with
  | nil => exact ⟨S, ht, hS, by simp⟩
  | cons x l ih =>
    obtain ⟨⟨ha, hb⟩, hl⟩ := List.forall_mem_cons.mp hl
    obtain ⟨hm, hmu⟩ := Ex.mul_above ha hb
    obtain ⟨hA, hAu⟩ := Ex.add_above hq hS hm .rne
    have hstep := ColSum.sum_step (t := t) (Ex.clash_of_finite ha.isFinite hb.isFinite) strict p
    rw [ht, Option.elim_some] at hstep
    obtain ⟨S', hS', hab, hu⟩ := ih hl hstep hA
    refine ⟨S', hS', hab, ?_⟩
    rw [hu, hAu, hmu, List.map_cons, List.sum_cons, add_assoc]

end

/-- The elements of a row, as they are numbered. -/
theorem mem_zipIdx_vals {l : List (Ex × Nat)} {P : Ex × Nat → Nat → Prop} :
    (∃ x ∈ l.zipIdx, P x.1 x.2) ↔ ∃ k a, l[k]? = some a ∧ P a k := by
  constructor
  · rintro ⟨⟨a, k⟩, hx, h⟩
    exact ⟨k, a, List.mem_zipIdx_iff_getElem?.mp hx, h⟩
  · rintro ⟨k, a, hx, h⟩
    exact ⟨(a, k), List.mem_zipIdx_iff_getElem?.mpr hx, h⟩

/-! ### Accumulators -/

theorem IFmt.int32_decode (v : BitVec 32) : IFmt.int32.decode v.toNat = v.toInt := by
  have h := v.isLt
  simp only [IFmt.decode, IFmt.width, BitVec.toInt_eq_toNat_cond]
  omega

theorem accAddInt_spec (x : AccElem) (sum : Ex) :
    (accAddInt x sum).1.v.toInt = max (-(2 ^ 31)) (min (2 ^ 31 - 1) (x.v.toInt + sum.toInt .rtz)) ∧
    ((accAddInt x sum).2 = true ↔ x.v.toInt + sum.toInt .rtz < -(2 ^ 31) ∨ 2 ^ 31 - 1 < x.v.toInt + sum.toInt .rtz) := by
  generalize hv : x.v.toInt + sum.toInt .rtz = v
  have hw : IFmt.int32.sat v = max (-(2 ^ 31)) (min (2 ^ 31 - 1) v) := by
    refine (sat_eq_min_max (by decide) v).trans ?_
    simp only [IFmt.lo, IFmt.hi]
    omega
  have hacc : accAddInt x sum = (⟨BitVec.ofNat 32 (IFmt.int32.encode (IFmt.int32.sat v)), 24⟩, IFmt.int32.sat v != v) := by
    simp only [accAddInt, IFmt.int32_decode, hv]
  rw [hacc, hw]
  refine ⟨?_, ?_⟩
  · generalize hm : max (-(2 ^ 31) : Int) (min (2 ^ 31 - 1) v) = m
    simp only [IFmt.encode, IFmt.width, BitVec.toInt_ofNat', Int.bmod]
    omega
  · simp only [bne_iff_ne, ne_eq]
    omega

/-- R234: an accumulator element after one sum. -/
def Mx.summed (M : Mx) (old : AccElem) (x : Ex × Option Int) : AccElem := if M.int32 then (accAddInt old x.1).1 else accAdd old x.1 x.2

/-- R234: one sum of a firing lands in row `row`, column x.2. -/
def Mx.landSum (row : Nat) (M : Mx) (x : (Ex × Option Int) × Nat) : Mx :=
  let old := NMap.getD M.acc (row * 256 + x.2) FVal.zero
  { M with acc := NMap.set M.acc (row * 256 + x.2) (M.summed old x.1), sat := M.sat || (M.int32 && (accAddInt old x.1.1).2) }

theorem Mx.land_eq (M : Mx) (f : Firing) : ∃ p : List Nat, M.land f = { f.sums.zipIdx.foldl (Mx.landSum f.row)
    { M with inFlight := removeFirst (fun g => g.id == f.id) M.inFlight } with accPoison := p } := by
  have hstep : (fun (M : Mx) (x : (Ex × Option Int) × Nat) =>
      let key := f.row * 256 + x.2
      let old := NMap.getD M.acc key FVal.zero
      if M.int32 then
        let r := accAddInt old x.1.1
        { M with acc := NMap.set M.acc key r.1, sat := M.sat || r.2 }
      else { M with acc := NMap.set M.acc key (accAdd old x.1.1 x.1.2) }) = Mx.landSum f.row := by
    funext M x
    cases h : M.int32 <;> simp [Mx.landSum, Mx.summed, h]
  simp only [Mx.land, hstep]
  split
  · exact ⟨_, rfl⟩
  · exact ⟨_, rfl⟩

section
variable (row : Nat)

theorem landSums_keeps {α : Type} (p : Mx → α) (hp : ∀ (M : Mx) (a : NMap AccElem) (s : Bool), p { M with acc := a, sat := s } = p M)
    (l : List ((Ex × Option Int) × Nat)) (M : Mx) : p (l.foldl (Mx.landSum row) M) = p M := by
  induction l generalizing M with
  | nil => rfl
  | cons x l ih => exact (ih _).trans (hp ..)

theorem get?_landSums_of_ne {m : Nat} {l : List ((Ex × Option Int) × Nat)} (h : ∀ x ∈ l, m ≠ row * 256 + x.2) (M : Mx) :
    NMap.get? (l.foldl (Mx.landSum row) M).acc m = NMap.get? M.acc m := by
  induction l generalizing M with
  | nil => rfl
  | cons x l ih =>
    obtain ⟨hx, hl⟩ := List.forall_mem_cons.mp h
    exact (ih hl _).trans ((NMap.get?_set ..).trans (if_neg hx))

/-- R234: each sum lands once. -/
theorem getD_landSums {sums : List (Ex × Option Int)} {k j : Nat} {x : Ex × Option Int} (hx : sums[j]? = some x) (M : Mx) :
    NMap.getD ((sums.zipIdx k).foldl (Mx.landSum row) M).acc (row * 256 + (k + j)) FVal.zero =
      M.summed (NMap.getD M.acc (row * 256 + (k + j)) FVal.zero) x := by
  induction sums generalizing k j M with
  | nil => exact nomatch hx
  | cons y sums ih =>
    rw [List.zipIdx_cons, List.foldl_cons]
    cases j with
    | zero =>
      obtain rfl := Option.some.inj hx
      have hne : ∀ z ∈ sums.zipIdx (k + 1), row * 256 + (k + 0) ≠ row * 256 + z.2 := by
        intro z hz
        have := List.le_snd_of_mem_zipIdx hz
        omega
      rw [NMap.getD, get?_landSums_of_ne row hne]
      exact congrArg (Option.getD · FVal.zero) ((NMap.get?_set ..).trans (if_pos rfl))
    | succ j =>
      have h := ih (k := k + 1) (j := j) hx (Mx.landSum row M (y, k))
      rw [show k + 1 + j = k + (j + 1) by omega] at h
      refine h.trans ?_
      have hget : NMap.getD (Mx.landSum row M (y, k)).acc (row * 256 + (k + (j + 1))) FVal.zero =
          NMap.getD M.acc (row * 256 + (k + (j + 1))) FVal.zero := (NMap.getD_set ..).trans (if_neg (by simp only; omega))
      rw [hget]
      rfl

/-- R38: what a firing leaves in SAT. -/
theorem sat_landSums (sums : List (Ex × Option Int)) (k : Nat) (M : Mx) :
    ((sums.zipIdx k).foldl (Mx.landSum row) M).sat = (M.sat || (M.int32 && (sums.zipIdx k).any (fun x =>
      (accAddInt (NMap.getD M.acc (row * 256 + x.2) FVal.zero) x.1.1).2))) := by
  induction sums generalizing k M with
  | nil => simp
  | cons y sums ih =>
    rw [List.zipIdx_cons, List.foldl_cons, ih, List.any_cons]
    have hany : ((sums.zipIdx (k + 1)).any fun x =>
          (accAddInt (NMap.getD (Mx.landSum row M (y, k)).acc (row * 256 + x.2) FVal.zero) x.1.1).2) =
        (sums.zipIdx (k + 1)).any fun x => (accAddInt (NMap.getD M.acc (row * 256 + x.2) FVal.zero) x.1.1).2 := by
      rw [Bool.eq_iff_iff, List.any_eq_true, List.any_eq_true]
      refine exists_congr fun x => and_congr_right fun hx => ?_
      have hle := List.le_snd_of_mem_zipIdx hx
      have hget : NMap.getD (Mx.landSum row M (y, k)).acc (row * 256 + x.2) FVal.zero = NMap.getD M.acc (row * 256 + x.2) FVal.zero :=
        (NMap.getD_set ..).trans (if_neg (by simp only; omega))
      rw [hget]
    rw [hany]
    simp only [Mx.landSum, Bool.and_or_distrib_left, Bool.or_assoc]

end

/-! ### Rows that fire -/

section
variable {s : State} {b e k : Nat} {r : ARow} (hr : ((s.bent b).mxAt e).rows[k]? = some r) (hm : ((s.bent b).mxAt e).mayFire k r = true)
include hr hm

/-- R235: a second issuer's row. -/
theorem mxRowFire_of_second (h2 : ((s.launch r.side.lid).det && ((s.bent b).mxAt e).secondKey r) = true) :
    exec (.mxRowFire b e k) s =
      .next ((s.updMx b e (fun M => { M with rows := M.rows.eraseIdx k })).engFault r.side 0x0001) := by
  show execMxRowFire b e k s = _
  simp only [execMxRowFire, hr, hm, h2, Bool.true_eq_false, if_false, if_true]

/-- R37: a row that may fire. -/
theorem mxRowFire_of_free (h2 : ((s.launch r.side.lid).det && ((s.bent b).mxAt e).secondKey r) = false) {fa fb : MFmt}
    (ha : MFmt.of r.fmt.toNat = some fa) (hb : MFmt.of ((s.bent b).mxAt e).image.fmt = some fb) :
    exec (.mxRowFire b e k) s = .next (s.updMx b e (fun M => M.fireRow k r fa fb)) := by
  show execMxRowFire b e k s = _
  simp only [execMxRowFire, hr, hm, h2, ha, hb, Bool.true_eq_false, Bool.false_eq_true, if_false]

end

end Sys2Proof.Machine

namespace Sys2Proof.Proofs
open Sys2Proof.Machine

/-- Settles O39: weights by cells and at their end, rows by fire cells, the sums of columns as folds of products, and a firing that
lands as a fold of its sums. -/
theorem matrixFirings : Obligations.MatrixFirings := by
  refine ⟨?_, ?_, ?_, ?_, accAddInt_spec⟩
  · intro s b e i c M of hops
    refine ⟨?_, ?_⟩
    · intro ht start streams
      refine ⟨fun L hL he => ?_, fun L hL he => ⟨fun d I hI hm => ?_, fun hI => ?_⟩⟩
      · have hx := mxWload_of_stream hops ht hL
        rw [he, if_neg Bool.false_ne_true] at hx
        have hM : of ((s.eat b e i).updMx b e (fun M => { M with load := some (L.add c) })) = { M with load := some (L.add c) } := by
          simp only [of, State.mxAt_updMx, State.mxAt_eat, M]
        refine ⟨_, L.add c, hx, rfl, State.fed_updMx .., ?_, rfl, ?_, ?_, ?_⟩
        · rw [hM]
        · exact hL.elim (fun h => h.2) (fun h => by rw [h.2.2]; rfl)
        · rw [hM]
        · rw [hM]
      · have hend : s.endLoad (s.launch c.side.lid).part M (L.add c) = ({ M with
            wgen := (M.wgen + 1) % 16, load := none, valid := true, image := I
            tag := { imgid := d.id, version := d.version, reg := (L.add c).prov.isSome, ireg := (L.add c).prov.getD 0 } }, false) := by
          have hI' : loadImage (L.add c).bytes (L.add c).poison = some (d, I) := hI
          simp only [State.endLoad, hI', hm, Bool.false_eq_true, if_false]
        have hx := mxWload_of_stream hops ht hL
        simp only [M] at hend
        rw [he, if_pos rfl] at hx
        simp only [hend, Bool.false_eq_true, if_false] at hx
        refine ⟨_, hx, rfl, State.fed_updMx .., ?_, ?_, ?_, ?_, ?_, ?_⟩ <;> simp only [of, State.mxAt_updMx, M]
      · have hend : s.endLoad (s.launch c.side.lid).part M (L.add c) = ({ M with
            wgen := (M.wgen + 1) % 16, load := none, valid := false, image := {}, tag := { M.tag with reg := false } }, true) := by
          have hI' : loadImage (L.add c).bytes (L.add c).poison = none := hI
          simp only [State.endLoad, hI']
        have hx := mxWload_of_stream hops ht hL
        simp only [M] at hend
        rw [he, if_pos rfl] at hx
        simp only [hend, if_true] at hx
        refine ⟨_, hx, rfl, State.fed_updMx .., ?_, ?_, ?_⟩ <;> simp only [of, State.mxAt_updMx, M]
    · intro q hq ht hl gen
      rw [exec_fire b e hq, State.fire_of_idle hops ht hl]
      refine ⟨fun h8 => ⟨_, congrArg Host.Outcome.next ((if_neg ?_).trans (if_pos h8)), rfl⟩, fun hgen N bad hN => ?_⟩
      · exact fun h => absurd (Nat.le_trans h8 h.2) (by decide)
      · have h0 : (gen + 16 - M.wgen) % 16 = 0 := by rw [hgen]; simp
        simp only [gen, M] at h0 hN
        simp only [h0, hN]
        refine ⟨fun h => ?_, fun h hb => ?_, fun h hb => ?_⟩
        · simp [h]
        · refine ⟨(s.eat b e i).updMx b e (fun _ => N), ?_, rfl, State.fed_updMx .., State.mxAt_updMx ..⟩
          simp [Nat.not_lt.mpr h, hb]
        · refine ⟨(s.eat b e i).updMx b e (fun _ => N), ?_, rfl, State.fed_updMx .., State.mxAt_updMx ..⟩
          simp [Nat.not_lt.mpr h, hb]
  · intro s b e k r fa fb M hr hm
    refine ⟨fun h2 => ?_, fun h2 ha hb => ?_⟩
    · refine ⟨_, mxRowFire_of_second hr hm h2, rfl, ?_, ?_⟩ <;> rw [State.mxAt_updMx]
    · refine ⟨_, ⟨M.nextFiring, r.row,
        ((List.range 256).map (M.column r fa fb)).map (fun t => (t.sum.getD (.zero false), t.weight)), r.round, r.poison || M.image.poison⟩,
        mxRowFire_of_free hr hm h2 ha hb, rfl, ?_⟩
      rw [State.mxAt_updMx]
      refine ⟨rfl, rfl, rfl, rfl, rfl, ?_, ?_, fun n hn => ?_⟩
      · simp [Mx.fireRow, M]
      · simp
      · simp [List.getElem?_range hn, M]
  · intro M r fa fb n B C clash
    have hclash (k : Nat) (a : Ex) : a.clash (B k) = true ↔ clash k a := by
      simp [Ex.clash, clash]
    refine ⟨fun ea eb ha hb hne habove => ?_, ?_, fun k a hs hk hcl => ?_⟩
    · obtain ⟨x, l, hl⟩ : ∃ x l, r.vals.zipIdx = x :: l := List.exists_cons_of_ne_nil (by simpa using hne)
      have hall : ∀ y ∈ x :: l, y.1.1.Above ea ∧ (B y.2).Above eb := by
        rw [← hl]
        rintro ⟨a, k⟩ hx
        exact habove k a (List.mem_zipIdx_iff_getElem?.mp hx)
      obtain ⟨⟨hxa, hxb⟩, hall⟩ := List.forall_mem_cons.mp hall
      obtain ⟨hma, hmu⟩ := Ex.mul_above hxa hxb
      have h1 := ColSum.sum_step (t := ⟨none, none, false⟩) (Ex.clash_of_finite hxa.isFinite hxb.isFinite) r.strict fa.p
      rw [Option.elim_none] at h1
      obtain ⟨S, hS, hab, hu⟩ := sum_foldl_step_of_above (strict := r.strict) (p := fa.p) (B := B) (by omega) hall h1 hma
      have hC : C = l.foldl (fun t x => t.step r.strict fa.p x.1 (B x.2)) (ColSum.step ⟨none, none, false⟩ r.strict fa.p x.1 (B x.2)) := by
        simp only [C, Mx.column, hl, List.foldl_cons]
        rfl
      refine ⟨S, by rw [hC]; exact hS, hab.isFinite, ?_, ?_⟩
      · have hx1 := Ex.clash_of_finite hxa.isFinite hxb.isFinite
        rw [hC, skipped_foldl_step, ColSum.skipped_step, hx1]
        simp only [Bool.false_and, Bool.or_false, Bool.false_or, List.any_eq_false]
        intro y hy
        obtain ⟨hya, hyb⟩ := hall y hy
        rw [Ex.clash_of_finite hya.isFinite hyb.isFinite]
        simp
      · rw [hl, List.map_cons, List.sum_cons, hu, hmu]
    · refine Iff.trans (b := (r.vals.zipIdx.any (fun x => x.1.1.clash (B x.2) && !r.strict)) = true) ?_ ?_
      · exact Bool.eq_iff_iff.mp ((skipped_foldl_step (p := fa.p) (B := B) r.vals.zipIdx ⟨none, none, false⟩).trans (Bool.false_or _))
      · rw [List.any_eq_true]
        refine (mem_zipIdx_vals (P := fun a k => (a.1.clash (B k) && !r.strict) = true)).trans ?_
        simp only [Bool.and_eq_true, hclash, Bool.not_eq_true']
        grind
    · have hmem : (a, k) ∈ r.vals.zipIdx := List.mem_zipIdx_iff_getElem?.mpr hk
      simp only [C, Mx.column, hs]
      exact sum_foldl_step_of_clash (B := B) hmem ((hclash k a.1).mpr hcl) _
  · intro s b e f M hf hlen
    let M0 : Mx := { M with inFlight := removeFirst (fun g => g.id == f.id) M.inFlight }
    let N := f.sums.zipIdx.foldl (Mx.landSum f.row) M0
    obtain ⟨p, hp⟩ := M.land_eq f
    have hexec : exec (.firingLanded b e f.id) s = .next (s.updMx b e (fun M => M.land f)) := by
      show execFiringLanded b e f.id s = _
      simp only [M] at hf
      simp only [execFiringLanded, hf]
    have hu : ((s.updMx b e (fun M => M.land f)).bent b).mxAt e = { N with accPoison := p } := (State.mxAt_updMx ..).trans hp
    refine ⟨_, hexec, rfl, ?_⟩
    rw [hu]
    refine ⟨landSums_keeps f.row Mx.inFlight (fun _ _ _ => rfl) f.sums.zipIdx M0, fun n hn x w hx => ?_, ?_, fun m hm => ?_⟩
    · have hget := getD_landSums f.row (k := 0) hx M0
      rw [Nat.zero_add] at hget
      refine ⟨hget, fun hi => (congrArg FVal.v hget).trans ?_⟩
      have hi : M0.int32 = false := hi
      simp only [Mx.summed, hi, Bool.false_eq_true, if_false]
      rfl
    · have hsat := sat_landSums f.row f.sums 0 M0
      have hi : M0.int32 = M.int32 := rfl
      rw [show N.sat = _ from hsat, hi]
      simp only [Bool.or_eq_true, Bool.and_eq_true, List.any_eq_true]
      refine or_congr Iff.rfl (and_congr_right fun _ => ⟨fun ⟨x, hx, hs⟩ => ?_, fun ⟨n, x, w, hn, hx, hs⟩ => ?_⟩)
      · have hlt := List.snd_lt_of_mem_zipIdx hx
        exact ⟨x.2, x.1.1, x.1.2, by omega, List.mem_zipIdx_iff_getElem?.mp hx, hs⟩
      · exact ⟨((x, w), n), List.mem_zipIdx_iff_getElem?.mpr hx, hs⟩
    · refine get?_landSums_of_ne f.row (fun x hx => ?_) M0
      have := List.snd_lt_of_mem_zipIdx hx
      omega

end Sys2Proof.Proofs

end
section
/-! PROOFS. What engines emit (R229), and the drains and clears of a matrix tenon (R236 to R239). -/

open Sys2Proof

namespace Sys2Proof.Machine

/-! ### Emissions -/

section
variable {e : Nat} {trig : Cell} {d : Side} {R : Route} {poison : Bool} {iq : Option Nat}

theorem emitCell_makes (p : Piece1) : R.Makes trig poison p (emitCell e trig d R p poison iq).1 := by
  refine ⟨rfl, rfl, rfl, rfl, rfl, rfl, rfl, rfl, rfl, rfl, rfl, rfl, rfl, rfl, rfl, rfl, rfl, rfl, fun h => ?_, fun h => ?_⟩
  · obtain ⟨n, hn⟩ := Option.isSome_iff_exists.mp h
    simp only [emitCell, hn]
    rfl
  · simp only [emitCell, h]
    rfl

theorem Bent.nextSeq_offer (B : Bent) (c : Cell) (done : OnAccept) {f : Side}
    (ho : f.ownerBent = d.ownerBent ∧ f.ownerSlot = d.ownerSlot) :
    (B.offer e f c done).nextSeq e d c.dest = B.nextSeq e d c.dest + 1 := by
  have hk (q : BitVec 16) : seqKey e f q = seqKey e d q := by rw [seqKey, seqKey, ho.1, ho.2]
  simp only [Bent.nextSeq, Bent.offer, Bent.sequenced, hk, NMap.getD_set, if_true]

theorem Bent.emit_offer_eq (B : Bent) (f : Side) (c : Cell) (done : OnAccept) : NMap.getD (B.offer e f c done).emit e [] =
    NMap.getD B.emit e [] ++
      [⟨{ c with seq := B.nextSeq e f c.dest, seqp := B.nextSeq e f c.dest - 1, seqs := B.nextSeq e f c.dest }, f, done⟩] := by
  simp [Bent.offer, Bent.sequenced]

/-- R229: pieces emitted stand behind what the engine has emitted, numbered from its counter on. -/
theorem Bent.emitted_emitAll (ps : List Piece1) (B : Bent) :
    ∃ cs : List Cell, (NMap.getD (B.emitAll e trig d R ps poison iq).emit e []).map (fun m => m.cell) =
        (NMap.getD B.emit e []).map (fun m => m.cell) ++ cs ∧ cs.length = ps.length ∧
      ∀ n p, ps[n]? = some p → ∃ c, cs[n]? = some c ∧ R.Makes trig poison p c ∧
        c.seq = B.nextSeq e d c.dest + BitVec.ofNat 16 n ∧ c.seqs = c.seq ∧ c.seqp = c.seq - 1 := by
  induction ps generalizing B with
  | nil => exact ⟨[], by simp [Bent.emitAll], rfl, fun n p h => nomatch h⟩
  | cons q ps ih =>
    let x := emitCell e trig d R q poison iq
    let B1 := B.offer e x.2 x.1 q.done
    obtain ⟨cs, hcs, hlen, hall⟩ := ih B1
    have hseq (f : BitVec 16) : B.nextSeq e x.2 f = B.nextSeq e d f := rfl
    refine ⟨{ x.1 with seq := B.nextSeq e d x.1.dest, seqp := B.nextSeq e d x.1.dest - 1, seqs := B.nextSeq e d x.1.dest } :: cs,
      ?_, congrArg (· + 1) hlen, fun n p hp => ?_⟩
    · refine hcs.trans ?_
      rw [B.emit_offer_eq x.2 x.1 q.done, List.map_append, List.append_assoc, hseq]
      rfl
    · cases n with
      | zero =>
        obtain rfl := Option.some.inj hp
        refine ⟨_, rfl, ?_, ?_, rfl, rfl⟩
        · exact emitCell_makes (e := e) (d := d) (iq := iq) q
        · simp
      | succ n =>
        obtain ⟨c, hc, hm, hs, hs1, hs2⟩ := hall n p hp
        refine ⟨c, hc, hm, ?_, hs1, hs2⟩
        have hdest : c.dest = x.1.dest := hm.1
        have h1 : B1.nextSeq e d x.1.dest = B.nextSeq e d x.1.dest + 1 := B.nextSeq_offer (f := x.2) x.1 q.done ⟨rfl, rfl⟩
        rw [hs, hdest, h1, BitVec.add_assoc, BitVec.add_comm 1, BitVec.ofNat_add]
        rfl

theorem Bent.emitAll_keeps {α : Type} (p : Bent → α) (hp : ∀ (B : Bent) (m : NMap (List Emission)) (q : NMap (BitVec 16)),
    p { B with engSeq := q, emit := m } = p B) (ps : List Piece1) (B : Bent) : p (B.emitAll e trig d R ps poison iq) = p B := by
  induction ps generalizing B with
  | nil => rfl
  | cons q ps ih => exact (ih _).trans (hp B _ _)

end

/-- R229: what a state shows whose engine has emitted. -/
theorem State.emittedBy_emitAll {s t : State} {b e : Nat} {trig : InCell} {R : Route} {poison : Bool} {ps : List Piece1}
    (he : (t.bent b).emit = (s.bent b).emit) (hq : (t.bent b).engSeq = (s.bent b).engSeq) (iq : Option Nat) :
    s.EmittedBy (t.updBent b (fun B => B.emitAll e trig.cell trig.side R ps poison iq)) b e trig R poison ps := by
  obtain ⟨cs, hcs, hlen, hall⟩ := (t.bent b).emitted_emitAll (e := e) (trig := trig.cell) (d := trig.side) (R := R) (poison := poison)
    (iq := iq) ps
  rw [he] at hcs
  refine ⟨cs, ?_, hlen, fun n p hp => ?_⟩
  · rw [State.emitted, State.bent_updBent, if_pos rfl]
    exact hcs
  · have h := hall n p hp
    simp only [Bent.nextSeq, hq] at h
    exact h

theorem Bent.consume_keeps {α : Type} (p : Bent → α) (hp : ∀ (B : Bent) (f : List (Nat × List InCell)) (m : NMap (List InCell)),
    p { B with fired := f } = p B ∧ p { B with inbuf := m } = p B) (B : Bent) (e : Nat) (i : EngIn) : p (B.consume e i) = p B := by
  unfold Bent.consume
  split
  · exact (hp B _ B.inbuf).1
  · exact (hp B B.fired _).2

section
variable {s t : State} {b e : Nat} {i : EngIn} {c : InCell} {R : Route} {poison : Bool} {ps : List Piece1} {iq : Option Nat}

/-- R229: an engine that takes an operation, changes what `f` changes, and emits. -/
theorem State.fed_emitAll {f : Bent → Bent} (hf : ∀ B, (f B).inbuf = B.inbuf ∧ (f B).fired = B.fired) :
    s.Fed (((s.eat b e i).updBent b f).updBent b (fun B => B.emitAll e c.cell c.side R ps poison iq)) b e i := by
  simp only [State.Fed, State.bent_updBent, if_true, State.eat]
  exact ⟨(Bent.emitAll_keeps Bent.inbuf (fun _ _ _ => rfl) ps _).trans (hf _).1,
    (Bent.emitAll_keeps Bent.fired (fun _ _ _ => rfl) ps _).trans (hf _).2⟩

theorem State.emittedBy_fed {f : Bent → Bent} (hf : ∀ B, (f B).emit = B.emit ∧ (f B).engSeq = B.engSeq) :
    s.EmittedBy (((s.eat b e i).updBent b f).updBent b (fun B => B.emitAll e c.cell c.side R ps poison iq)) b e c R poison ps := by
  refine State.emittedBy_emitAll ?_ ?_ iq
  · simp only [State.bent_updBent, if_true, State.eat]
    exact (hf _).1.trans (Bent.consume_keeps Bent.emit (fun _ _ _ => ⟨rfl, rfl⟩) ..)
  · simp only [State.bent_updBent, if_true, State.eat]
    exact (hf _).2.trans (Bent.consume_keeps Bent.engSeq (fun _ _ _ => ⟨rfl, rfl⟩) ..)

end

/-! ### Lists cut into chunks -/

theorem chunks_eq_range {α : Type} {n : Nat} (hn : 0 < n) {fuel : Nat} {l : List α} (hl : l.length ≤ n * fuel) :
    chunks n fuel l = (List.range ((l.length + n - 1) / n)).map (fun j => (l.drop (n * j)).take n) := by
  induction fuel generalizing l with
  | zero =>
    obtain rfl := List.length_eq_zero_iff.mp (by simpa using hl)
    rw [List.length_nil, Nat.zero_add, Nat.div_eq_of_lt (by omega)]
    rfl
  | succ fuel ih =>
    cases l with
    | nil =>
      rw [List.length_nil, Nat.zero_add, Nat.div_eq_of_lt (by omega)]
      rfl
    | cons x l =>
      have hcount : ((x :: l).length + n - 1) / n = (((x :: l).drop n).length + n - 1) / n + 1 := by
        rw [List.length_drop, List.length_cons]
        by_cases hlt : l.length + 1 ≤ n
        · rw [Nat.sub_eq_zero_of_le hlt, Nat.zero_add, Nat.div_eq_of_lt (a := n - 1) (by omega)]
          exact Nat.div_eq_of_lt_le (by omega) (by omega)
        · rw [← Nat.add_div_right _ hn]
          congr 1
          omega
      have hdrop : ((x :: l).drop n).length ≤ n * fuel := by
        rw [List.length_drop]
        rw [Nat.mul_succ] at hl
        omega
      rw [chunks, ih hdrop, hcount, List.range_succ_eq_map, List.map_cons, List.map_map]
      congr 1
      refine List.map_congr_left fun j _ => ?_
      simp only [Function.comp, List.drop_drop]
      rw [Nat.mul_succ, Nat.add_comm n]

/-- R229: what is left for a cell of a run: the elements from its first on, at most as many as it takes. -/
theorem take_drop_map_range {α : Type} (f : Nat → α) (n m j : Nat) :
    (((List.range m).map f).drop (n * j)).take n = (List.range (min n (m - j * n))).map (fun k => f (j * n + k)) := by
  refine List.ext_getElem? fun i => ?_
  rw [List.getElem?_take, List.getElem?_drop]
  simp only [List.getElem?_map, Nat.mul_comm n j]
  by_cases h1 : i < n
  · by_cases h2 : j * n + i < m
    · rw [if_pos h1, List.getElem?_range h2, List.getElem?_range (by omega)]
      rfl
    · rw [if_pos h1, List.getElem?_eq_none (by simp; omega), List.getElem?_eq_none (by simp; omega)]
      rfl
  · rw [if_neg h1, List.getElem?_eq_none (by simp; omega)]
    rfl

/-! ### The cells of a drain -/

theorem State.mxAt_emitAll (s : State) (b e : Nat) (trig : Cell) (d : Side) (R : Route) (ps : List Piece1) (poison : Bool)
    (iq : Option Nat) (f : Nat) :
    ((s.updBent b (fun B => B.emitAll e trig d R ps poison iq)).bent b).mxAt f = (s.bent b).mxAt f := by
  rw [State.bent_updBent, if_pos rfl]
  exact congrArg (NMap.getD · f {}) (Bent.emitAll_keeps Bent.mx (fun _ _ _ => rfl) ps _)

/-- R236: the elements that a cell of a drain holds. -/
def DrainMap.per (d : DrainMap) : Nat :=
  (if d.tag then (taggedBytes (BitVec.ofNat 5 d.ofmt)).getD 256 else 256) / elemSize d.ofmt

/-- R236: a drain that breaks no rule has an output format. -/
theorem Mx.ofmt_of_good {M : Mx} {d : DrainMap} (h : M.drainBad d = false) : d.ofmt = 4 ∨ (6 ≤ d.ofmt ∧ d.ofmt ≤ 10) := by
  simp only [Mx.drainBad, Bool.or_eq_false_iff] at h
  obtain ⟨-, h⟩ := h
  split at h
  · exact .inl (by simpa using h)
  · exact .inr (by simpa using h)

theorem Mx.per_pos {M : Mx} {d : DrainMap} (h : M.drainBad d = false) : 0 < d.per := by
  have key : ∀ n : Fin 11, n.val = 4 ∨ (6 ≤ n.val ∧ n.val ≤ 10) → ∀ tag : Bool,
      0 < (if tag then (taggedBytes (BitVec.ofNat 5 n.val)).getD 256 else 256) / elemSize n.val := by decide
  have ho := Mx.ofmt_of_good h
  exact key ⟨d.ofmt, by omega⟩ ho d.tag

section
variable {M : Mx} {d : DrainMap} (h : M.drainBad d = false) (e : Nat) (stride : Int)
include h

/-- R236: the elements of a row, cut. -/
theorem Mx.rowChunks (r : Nat) : chunks d.per 256 ((List.range 256).map (fun n =>
      drainElem d.ofmt (NMap.getD M.acc ((d.first + r) * 256 + n) FVal.zero))) =
    (List.range ((255 + d.per) / d.per)).map (fun j => (List.range (min d.per (256 - j * d.per))).map (fun k =>
        drainElem d.ofmt (NMap.getD M.acc ((d.first + r) * 256 + (j * d.per + k)) FVal.zero))) := by
  have hpos := M.per_pos h
  rw [chunks_eq_range hpos (by rw [List.length_map, List.length_range]; exact Nat.le_mul_of_pos_left 256 hpos), List.length_map,
    List.length_range, show 256 + d.per - 1 = 255 + d.per by omega]
  exact List.map_congr_left fun j _ => take_drop_map_range ..

theorem Mx.length_rowPieces (r : Nat) : (M.rowPieces e d stride r).length = (255 + d.per) / d.per := by
  have hc := Mx.rowChunks h r
  simp only [DrainMap.per] at hc ⊢
  simp only [Mx.rowPieces, List.length_map, List.length_zipIdx, hc, List.length_range]

/-- R236: cell j of row r. -/
theorem Mx.getElem?_rowPieces (r : Nat) {j : Nat} (hj : j < (255 + d.per) / d.per) :
    ∃ p, (M.rowPieces e d stride r)[j]? = some p ∧
      let els := (List.range (min d.per (256 - j * d.per))).map (fun k =>
        drainElem d.ofmt (NMap.getD M.acc ((d.first + r) * 256 + (j * d.per + k)) FVal.zero))
      let bytes := els.flatMap (fun v => leBytes (elemSize d.ofmt) v.1)
      p.bytes = (if d.tag then taggedPayload (BitVec.ofNat 5 d.ofmt) bytes (els.map (fun v => v.2)) else bytes) ∧
      p.len = elemSize d.ofmt * els.length ∧ p.fmt = BitVec.ofNat 5 d.ofmt ∧ p.tag = d.tag ∧ p.iqrec = false ∧
      (p.eor = true ↔ j + 1 = (255 + d.per) / d.per) ∧
      (p.eot = true ↔ j + 1 = (255 + d.per) / d.per ∧ r + 1 = d.rows ∧ d.stat = false) ∧
      p.off = (r : Int) * stride + ((j * d.per * elemSize d.ofmt : Nat) : Int) + M.gangOff d e stride := by
  have hc := Mx.rowChunks h r
  simp only [DrainMap.per] at hc hj ⊢
  simp only [Mx.rowPieces, hc, List.getElem?_map, List.getElem?_zipIdx, List.getElem?_range hj, Option.map_some, List.length_map,
    List.length_range]
  refine ⟨_, rfl, rfl, rfl, rfl, rfl, rfl, ?_, ?_, ?_⟩
  · simp
  · simp [and_assoc]
  · simp

theorem Mx.length_drainRows : ((List.range d.rows).flatMap (M.rowPieces e d stride)).length = d.rows * ((255 + d.per) / d.per) := by
  rw [length_flatMap_of_length (w := (255 + d.per) / d.per) (fun r _ => Mx.length_rowPieces h e stride r), List.length_range, Nat.mul_comm]

theorem Mx.getElem?_drainPieces {r j : Nat} (hr : r < d.rows) (hj : j < (255 + d.per) / d.per) :
    (M.drainPieces e d stride)[r * ((255 + d.per) / d.per) + j]? = (M.rowPieces e d stride r)[j]? := by
  have hlt : r * ((255 + d.per) / d.per) + j < d.rows * ((255 + d.per) / d.per) := by
    calc r * ((255 + d.per) / d.per) + j < (r + 1) * ((255 + d.per) / d.per) := by rw [Nat.succ_mul]; omega
      _ ≤ d.rows * ((255 + d.per) / d.per) := Nat.mul_le_mul_right _ hr
  rw [Mx.drainPieces, List.getElem?_append_left (by rw [Mx.length_drainRows h]; exact hlt), Nat.mul_comm,
    getElem?_flatMap_of_length (fun r _ => Mx.length_rowPieces h e stride r) r hj, List.getElem?_range hr]
  rfl

end

end Sys2Proof.Machine

namespace Sys2Proof.Proofs
open Sys2Proof.Machine

/-- R236: a drain command before a matrix tenon. -/
theorem mxDrain_of_takes {s : State} {b e : Nat} {i : EngIn} {c : InCell} (hops : i.ops = [c]) (ht : s.Takes b e 0x106 i c) :
    let M := (s.bent b).mxAt e
    let d := DrainMap.of c.cell.arg
    let R := c.cell.route
    let D : Drain := { first := d.first, rows := d.rows, clear := d.clear, bt := R.bt, side := c.side, round := c.cell.round }
    exec (.mxDrain b e) s = .next (
      if M.drainBad d then s.refuse b e i c 0x0001
      else if M.drain.isSome || M.inRows d then s
      else (s.routeCheck c.side.lid R (M.drainPieces e d R.stride)).elim
        (((s.eat b e i).updMx b e (fun M => { M with drain := some D })).updBent b (fun B =>
          B.emitAll e c.cell c.side R (M.drainPieces e d R.stride) c.cell.poison none))
        (fun cause => s.refuse b e i c cause)) := by
  show execMxDrain b e s = _
  rw [execMxDrain, State.engine_of_takes ht, State.withOperands_one hops]
  dsimp only
  cases s.routeCheck c.side.lid c.cell.route (((s.bent b).mxAt e).drainPieces e (DrainMap.of c.cell.arg) c.cell.route.stride) <;> rfl

/-- Settles O40: a drain refused or emitted, the cells it is cut into, and the clear of an idle tenon. -/
theorem matrixDrainAndClear : Obligations.MatrixDrainAndClear := by
  intro s b e i c hops M
  refine ⟨?_, fun ht => ⟨fun harg => ?_, fun harg hb hd => ?_⟩⟩
  · intro ht d R ps
    have hexec := mxDrain_of_takes hops ht
    refine ⟨fun hbad => hexec.trans (congrArg Host.Outcome.next (if_pos hbad)), fun hgood hd hin => ?_, ?_, fun f x hf => ?_⟩
    · have hfree : ¬(M.drain.isSome || M.inRows d) = true := by rw [hd, hin]; exact Bool.false_ne_true
      have hgo := hexec.trans (congrArg Host.Outcome.next ((if_neg (by rw [hgood]; exact Bool.false_ne_true)).trans (if_neg hfree)))
      refine ⟨fun cause hc => hgo.trans ?_, fun hc => ?_⟩
      · rw [hc]; rfl
      · rw [hc, Option.elim_none] at hgo
        refine ⟨_, { first := d.first, rows := d.rows, clear := d.clear, bt := R.bt, side := c.side, round := c.cell.round }, hgo, rfl,
          State.fed_emitAll (fun _ => ⟨rfl, rfl⟩), ?_, rfl, rfl, rfl, ?_, State.emittedBy_fed (fun _ => ⟨rfl, rfl⟩)⟩
        · rw [State.mxAt_emitAll, State.mxAt_updMx]
        · rw [State.mxAt_emitAll, State.mxAt_updMx, State.mxAt_eat]
    · intro hgood fmt size E N
      refine ⟨?_, fun r j hr hj => ?_, fun hs => ?_⟩
      · simp only [ps, Mx.drainPieces, List.length_append, Mx.length_drainRows hgood]
        cases d.stat <;> rfl
      · obtain ⟨p, hp, hall⟩ := Mx.getElem?_rowPieces hgood e R.stride r hj
        exact ⟨p, (Mx.getElem?_drainPieces hgood e R.stride hr hj).trans hp, hall⟩
      · refine ⟨M.statusPiece e d R.stride, ?_, rfl, rfl, rfl, rfl, rfl, rfl⟩
        have hlen : ((List.range d.rows).flatMap (M.rowPieces e d R.stride)).length = d.rows * N := Mx.length_drainRows hgood e R.stride
        simp only [ps, Mx.drainPieces, hs, if_true]
        rw [List.getElem?_append_right (Nat.le_of_eq hlen), hlen, Nat.sub_self]
        rfl
    · simp only [drainElem, hf]
  · show execMxClear b e s = _
    rw [execMxClear, State.engine_of_takes ht, State.withOperands_one hops]
    exact congrArg Host.Outcome.next (if_pos harg)
  · refine ⟨(s.eat b e i).updMx b e (fun M => M.cleared (bit c.cell.arg 0)), ?_, rfl, State.fed_updMx .., ?_⟩
    · show execMxClear b e s = _
      rw [execMxClear, State.engine_of_takes ht, State.withOperands_one hops]
      simp only [M] at hb hd
      simp [Nat.not_le.mpr harg, hb, hd]
    · rw [State.mxAt_updMx, State.mxAt_eat]
      exact ⟨rfl, rfl, rfl, rfl, rfl, rfl, rfl⟩

end Sys2Proof.Proofs

end
section
/-! PROOFS. The sort engine (R241, R242): insertion into ordered lists, runs of cells, and its three operations. -/

open Sys2Proof

namespace Sys2Proof.Machine

/-! ### Insertion by a strict comparison -/

section
variable {α : Type} {lt : α → α → Bool}

theorem insertBy_perm (a : α) (l : List α) : (insertBy lt a l).Perm (a :: l) := by
  have h := List.perm_middle (a := a) (l₁ := l.takeWhile (fun x => !lt a x)) (l₂ := l.dropWhile (fun x => !lt a x))
  rwa [List.takeWhile_append_dropWhile] at h

theorem foldl_insertBy_perm (l acc : List α) : (l.foldl (fun acc a => insertBy lt a acc) acc).Perm (acc ++ l) := by
  induction l generalizing acc with
  | nil => rw [List.append_nil]; exact List.Perm.refl _
  | cons a l ih =>
    exact (ih _).trans (((insertBy_perm a acc).append_right l).trans List.perm_middle.symm)

theorem sortBy_perm (l : List α) : (sortBy lt l).Perm l := foldl_insertBy_perm l []

variable (htrans : ∀ x y z, lt y x = false → lt z y = false → lt z x = false)
include htrans

/-- What stands behind the place of an insertion comes strictly after the inserted element. -/
theorem lt_of_mem_dropWhile {a : α} {l : List α} (h : l.Pairwise (fun x y => lt y x = false)) {y : α}
    (hy : y ∈ l.dropWhile (fun x => !lt a x)) : lt a y = true := by
  have hd : (l.dropWhile (fun x => !lt a x)).Pairwise (fun x y => lt y x = false) := h.sublist (List.dropWhile_sublist _)
  cases hl : l.dropWhile (fun x => !lt a x) with
  | nil => rw [hl] at hy; exact nomatch hy
  | cons x xs =>
    have hx : lt a x = true := by
      have := List.head?_dropWhile_not (fun x => !lt a x) l
      rw [hl] at this
      simpa using this
    rw [hl] at hy hd
    obtain ⟨hfirst, -⟩ := List.pairwise_cons.mp hd
    rcases List.mem_cons.mp hy with rfl | hy
    · exact hx
    · by_contra hn
      have := htrans x y a (hfirst y hy) (Bool.not_eq_true _ ▸ hn)
      rw [hx] at this
      exact Bool.false_ne_true this.symm

/-- Elements that no comparison tells apart keep the order in which they were inserted. -/
theorem filter_insertBy {f : α → Bool} (hf : ∀ x y, f x = true → f y = true → lt x y = false) (a : α) {l : List α}
    (h : l.Pairwise (fun x y => lt y x = false)) : (insertBy lt a l).filter f = l.filter f ++ [a].filter f := by
  have hl : l.filter f = (l.takeWhile (fun x => !lt a x)).filter f ++ (l.dropWhile (fun x => !lt a x)).filter f := by
    rw [← List.filter_append, List.takeWhile_append_dropWhile]
  rw [insertBy, List.filter_append, hl, List.append_assoc]
  congr 1
  cases ha : f a with
  | false => simp [ha]
  | true =>
    have hno : (l.dropWhile (fun x => !lt a x)).filter f = [] := by
      rw [List.filter_eq_nil_iff]
      intro y hy hfy
      have := lt_of_mem_dropWhile htrans h hy
      rw [hf a y ha hfy] at this
      exact Bool.false_ne_true this
    simp [ha, hno]

variable (hasym : ∀ x y, lt x y = true → lt y x = false)
include hasym

theorem insertBy_pairwise (a : α) {l : List α} (h : l.Pairwise (fun x y => lt y x = false)) :
    (insertBy lt a l).Pairwise (fun x y => lt y x = false) := by
  have hl : (l.takeWhile (fun x => !lt a x) ++ l.dropWhile (fun x => !lt a x)).Pairwise (fun x y => lt y x = false) := by
    rwa [List.takeWhile_append_dropWhile]
  obtain ⟨h1, h2, h12⟩ := List.pairwise_append.mp hl
  refine List.pairwise_append.mpr ⟨h1, List.pairwise_cons.mpr ⟨fun y hy => ?_, h2⟩, fun x hx y hy => ?_⟩
  · exact hasym a y (lt_of_mem_dropWhile htrans h hy)
  · rcases List.mem_cons.mp hy with rfl | hy
    · simpa using List.mem_takeWhile_imp hx
    · exact h12 x hx y hy

theorem foldl_insertBy_pairwise (l : List α) {acc : List α} (h : acc.Pairwise (fun x y => lt y x = false)) :
    (l.foldl (fun acc a => insertBy lt a acc) acc).Pairwise (fun x y => lt y x = false) := by
  induction l generalizing acc with
  | nil => exact h
  | cons a l ih => exact ih (insertBy_pairwise htrans hasym a h)

theorem sortBy_pairwise (l : List α) : (sortBy lt l).Pairwise (fun x y => lt y x = false) :=
  foldl_insertBy_pairwise htrans hasym l List.Pairwise.nil

theorem filter_foldl_insertBy {f : α → Bool} (hf : ∀ x y, f x = true → f y = true → lt x y = false) (l : List α) {acc : List α}
    (h : acc.Pairwise (fun x y => lt y x = false)) :
    (l.foldl (fun acc a => insertBy lt a acc) acc).filter f = acc.filter f ++ l.filter f := by
  induction l generalizing acc with
  | nil => simp
  | cons a l ih =>
    rw [List.foldl_cons, ih (insertBy_pairwise htrans hasym a h), filter_insertBy htrans hf a h, List.append_assoc,
      ← List.filter_append]
    rfl

end

/-! ### The orders of keys and pairs -/

section
variable (cfg : SxCfg)

theorem SxCfg.before_asymm (x y : Nat) (h : cfg.before x y = true) : cfg.before y x = false := by
  unfold SxCfg.before at *
  split <;> simp_all <;> omega

theorem SxCfg.before_trans (x y z : Nat) (h1 : cfg.before y x = false) (h2 : cfg.before z y = false) : cfg.before z x = false := by
  unfold SxCfg.before at *
  split <;> simp_all <;> omega

theorem SxCfg.pairBefore_asymm (x y : SxPair) (h : cfg.pairBefore x y = true) : cfg.pairBefore y x = false := by
  unfold SxCfg.pairBefore SxCfg.before at *
  split <;> simp_all <;> omega

theorem SxCfg.pairBefore_trans (x y z : SxPair) (h1 : cfg.pairBefore y x = false) (h2 : cfg.pairBefore z y = false) :
    cfg.pairBefore z x = false := by
  unfold SxCfg.pairBefore SxCfg.before at *
  split <;> simp_all <;> omega

theorem SxCfg.ordered_iff (l : List SxPair) : cfg.ordered l = true ↔ l.Pairwise (fun p q => cfg.before q.1 p.1 = false) := by
  induction l with
  | nil => simp [SxCfg.ordered]
  | cons a l ih =>
    cases l with
    | nil => simp [SxCfg.ordered]
    | cons b l =>
      rw [SxCfg.ordered, Bool.and_eq_true, ih, Bool.not_eq_true']
      refine ⟨fun ⟨hab, hl⟩ => List.pairwise_cons.mpr ⟨fun y hy => ?_, hl⟩, fun h => ?_⟩
      case refine_2 =>
        obtain ⟨ha, hl⟩ := List.pairwise_cons.mp h
        exact ⟨ha b (by simp), hl⟩
      rcases List.mem_cons.mp hy with rfl | hy
      · exact hab
      · exact cfg.before_trans _ _ _ hab ((List.pairwise_cons.mp hl).1 y hy)

/-- R242: a merge permutes, orders, and keeps the order of equal keys. -/
theorem SxCfg.merge_spec (x y : List SxPair) : (cfg.merge x y).Perm (x ++ y) ∧
    (cfg.ordered x = true → cfg.ordered y = true → cfg.ordered (cfg.merge x y) = true ∧
      ∀ k, (cfg.merge x y).filter (fun p => p.1 == k) = x.filter (fun p => p.1 == k) ++ y.filter (fun p => p.1 == k)) := by
  refine ⟨foldl_insertBy_perm y x, fun hx _ => ?_⟩
  have hp := (cfg.ordered_iff x).mp hx
  have hasym (p q : SxPair) := cfg.before_asymm p.1 q.1
  have htrans (p q r : SxPair) := cfg.before_trans p.1 q.1 r.1
  refine ⟨(cfg.ordered_iff _).mpr (foldl_insertBy_pairwise htrans hasym y hp), fun k => ?_⟩
  refine filter_foldl_insertBy htrans hasym (fun p q hp hq => ?_) y hp
  simp only [beq_iff_eq] at hp hq
  rw [hp, hq]
  unfold SxCfg.before
  split <;> simp

/-- R241: keys as numbers. -/
theorem SxCfg.rank_spec (hk : cfg.key < 4) {n : Nat} (hn : n < 2 ^ (8 * cfg.size)) :
    (cfg.rank n : Int) = (if cfg.key = 1 then (BitVec.ofNat 32 n).toInt
      else if cfg.key = 2 then (if n < 2 ^ 31 then (n : Int) else 2 ^ 31 - 1 - (n : Int)) else n) +
        (if cfg.key = 1 ∨ cfg.key = 2 then 2 ^ 31 else 0) := by
  unfold SxCfg.rank
  unfold SxCfg.size at hn
  have : cfg.key = 0 ∨ cfg.key = 1 ∨ cfg.key = 2 ∨ cfg.key = 3 := by omega
  rcases this with h | h | h | h <;> simp only [h] at hn ⊢
  · simp
  · have hn : n < 2 ^ 32 := hn
    simp only [if_true, true_or, BitVec.toInt_ofNat', Int.bmod]
    omega
  · have hn : n < 2 ^ 32 := hn
    simp only [if_true, or_true, show ¬(2 : Nat) = 1 by decide, if_false]
    split <;> split <;> omega
  · rw [if_neg (by decide), if_neg (by decide), if_neg (by decide), add_zero]

end

theorem SxCfg.rank_inj {cfg : SxCfg} (hk : cfg.key < 4) {m n : Nat} (hm : m < 2 ^ (8 * cfg.size)) (hn : n < 2 ^ (8 * cfg.size)) :
    cfg.rank m = cfg.rank n ↔ m = n := by
  unfold SxCfg.rank
  unfold SxCfg.size at hm hn
  have : cfg.key = 0 ∨ cfg.key = 1 ∨ cfg.key = 2 ∨ cfg.key = 3 := by omega
  rcases this with h | h | h | h <;> simp only [h] at hm hn ⊢
  · have hm : m < 2 ^ 32 := hm
    have hn : n < 2 ^ 32 := hn
    omega
  · have hm : m < 2 ^ 32 := hm
    have hn : n < 2 ^ 32 := hn
    split <;> split <;> omega

/-! ### Runs of cells -/

/-- R229: bytes are cut into cells of 256. -/
theorem cut_runPieces (fmt : BitVec 5) (q : Bool) (bytes : List Byte) : Cut fmt q bytes (runPieces fmt q bytes) := by
  have hc := chunks_eq_range (n := 256) (by decide) (fuel := bytes.length / 256 + 1) (l := bytes) (by omega)
  cases bytes with
  | nil =>
    refine ⟨rfl, fun n p hp => ?_⟩
    cases n with
    | zero =>
      obtain rfl := Option.some.inj hp
      exact ⟨rfl, rfl, rfl, rfl, rfl, rfl, rfl, rfl, by simp [runPieces, chunks]⟩
    | succ n => exact nomatch hp
  | cons x l =>
    generalize hb : x :: l = bytes at hc ⊢
    have hpos : 0 < bytes.length := by rw [← hb]; exact Nat.succ_pos _
    have hrun : runPieces fmt q bytes = (chunks 256 (bytes.length / 256 + 1) bytes).zipIdx.map (fun x =>
        { bytes := x.1, len := x.1.length, fmt := fmt, iqrec := q
          eot := x.2 + 1 == (chunks 256 (bytes.length / 256 + 1) bytes).length, off := 256 * (x.2 : Int) }) := by
      refine if_neg ?_
      rw [hc, List.isEmpty_iff, List.map_eq_nil_iff, List.range_eq_nil]
      omega
    rw [hrun, hc]
    refine ⟨by simp; omega, fun n p hp => ?_⟩
    simp only [List.getElem?_map, List.getElem?_zipIdx, Option.map_eq_some_iff, List.length_map, List.length_range,
      List.length_zipIdx] at hp ⊢
    obtain ⟨x, ⟨c, ⟨k, hk, rfl⟩, rfl⟩, rfl⟩ := hp
    obtain ⟨hlt, hk⟩ := List.getElem?_eq_some_iff.mp hk
    rw [List.getElem_range] at hk
    subst hk
    exact ⟨rfl, rfl, by simp, rfl, rfl, rfl, rfl, rfl, by simp⟩

/-! ### Emissions by a route -/

theorem State.fed_eat (s : State) (b e : Nat) (i : EngIn) : s.Fed (s.eat b e i) b e i := by
  simp [State.Fed, State.eat]

theorem State.emit_eat (s : State) (b e : Nat) (i : EngIn) : ((s.eat b e i).bent b).emit = (s.bent b).emit := by
  rw [State.eat, State.bent_updBent, if_pos rfl]
  exact Bent.consume_keeps Bent.emit (fun _ _ _ => ⟨rfl, rfl⟩) ..

theorem State.engSeq_eat (s : State) (b e : Nat) (i : EngIn) : ((s.eat b e i).bent b).engSeq = (s.bent b).engSeq := by
  rw [State.eat, State.bent_updBent, if_pos rfl]
  exact Bent.consume_keeps Bent.engSeq (fun _ _ _ => ⟨rfl, rfl⟩) ..

section
variable {s t : State} {b e : Nat} {i : EngIn} {c : InCell} {R : Route} {poison : Bool} {ps : List Piece1} {f : Instr}
  {P : State → Prop}

/-- R229: an operation that ends with an emission by a route, of a state in which its engine has taken it. -/
theorem emits_of_routed
    (hexec : exec f s = .next ((s.routeCheck c.side.lid R ps).elim
      (t.updBent b (fun B => B.emitAll e c.cell c.side R ps poison none)) (s.refuse b e i c)))
    (hmem : t.mem = s.mem) (hfed : s.Fed t b e i) (he : (t.bent b).emit = (s.bent b).emit)
    (hq : (t.bent b).engSeq = (s.bent b).engSeq) (hP : P (t.updBent b (fun B => B.emitAll e c.cell c.side R ps poison none))) :
    (∀ cause, s.routeCheck c.side.lid R ps = some cause → exec f s = .next (s.refuse b e i c cause)) ∧
    (s.routeCheck c.side.lid R ps = none →
      ∃ u, exec f s = .next u ∧ u.mem = s.mem ∧ s.Fed u b e i ∧ s.EmittedBy u b e c R poison ps ∧ P u) := by
  refine ⟨fun cause hc => hexec.trans (by rw [hc]; rfl), fun hc =>
    ⟨t.updBent b (fun B => B.emitAll e c.cell c.side R ps poison none), hexec.trans (by rw [hc]; rfl), hmem, ?_, ?_, hP⟩⟩
  · obtain ⟨h1, h2⟩ := hfed
    simp only [State.Fed, State.bent_updBent, if_true]
    exact ⟨(Bent.emitAll_keeps Bent.inbuf (fun _ _ _ => rfl) ps _).trans h1,
      (Bent.emitAll_keeps Bent.fired (fun _ _ _ => rfl) ps _).trans h2⟩
  · exact State.emittedBy_emitAll he hq none

end

/-! ### The operations of the sort engine -/

theorem State.fed_updBent {s t : State} {b e : Nat} {i : EngIn} {f : Bent → Bent} (h : s.Fed t b e i)
    (hf : ∀ B, (f B).inbuf = B.inbuf ∧ (f B).fired = B.fired) : s.Fed (t.updBent b f) b e i := by
  obtain ⟨h1, h2⟩ := h
  simp only [State.Fed, State.bent_updBent, if_true]
  exact ⟨(hf _).1.trans h1, (hf _).2.trans h2⟩

theorem State.topkOf_eat (s : State) (b e : Nat) (i : EngIn) (w : Nat) : ((s.eat b e i).bent b).topkOf w = (s.bent b).topkOf w := by
  rw [State.eat, State.bent_updBent, if_pos rfl]
  exact congrArg (List.find? _) (Bent.consume_keeps Bent.topk (fun _ _ _ => ⟨rfl, rfl⟩) ..)

theorem routed_eq (o : Option (BitVec 16)) (x : State) (f : BitVec 16 → State) :
    (match o with | some e => f e | none => x) = o.elim x f := by
  cases o <;> rfl

theorem State.sxEmit_eq (s : State) (b : Nat) (i : EngIn) (c : InCell) (R : Route) (cfg : SxCfg) (ps : List SxPair) :
    s.sxEmit b i c R cfg ps = (s.routeCheck c.side.lid R (cfg.pieces ps)).elim
      ((s.eat b 8 i).updBent b (fun B => B.emitAll 8 c.cell c.side R (cfg.pieces ps) (anyPoison i.ops) none)) (s.refuse b 8 i c) := by
  unfold State.sxEmit
  cases s.routeCheck c.side.lid R (cfg.pieces ps) <;> rfl

/-- R242: pairs emitted as the route says. -/
theorem emits_of_sxEmit {s : State} {b : Nat} {i : EngIn} {c : InCell} {R : Route} {cfg : SxCfg} {ps : List SxPair} {f : Instr}
    (h : exec f s = .next (s.sxEmit b i c R cfg ps)) :
    (∀ cause, s.routeCheck c.side.lid R (cfg.pieces ps) = some cause → exec f s = .next (s.refuse b 8 i c cause)) ∧
    (s.routeCheck c.side.lid R (cfg.pieces ps) = none →
      ∃ u, exec f s = .next u ∧ u.mem = s.mem ∧ s.Fed u b 8 i ∧ s.EmittedBy u b 8 c R (anyPoison i.ops) (cfg.pieces ps) ∧ True) :=
  emits_of_routed (P := fun _ => True) (h.trans (congrArg Host.Outcome.next (s.sxEmit_eq ..))) rfl (State.fed_eat ..)
    (State.emit_eat ..) (State.engSeq_eat ..) trivial

section
variable {s : State} {b : Nat} {i : EngIn} {c : InCell}

theorem sxSort_refused (ht : s.Takes b 8 0x301 i c) (h : i.ops.length ≠ 2 ∨ (SxCfg.of c.cell.arg).keys c.cell = none) :
    exec (.sxSort b) s = .next (s.refuse b 8 i c 0x0001) := by
  show execSxSort b s = _
  rw [execSxSort, egSX, State.engine_of_takes ht]
  by_cases hl : i.ops.length = 2
  · rw [State.withOperands, if_pos hl]
    simp only [h.resolve_left (not_not.mpr hl)]
  · rw [State.withOperands, if_neg hl]

theorem sxSort_emits (ht : s.Takes b 8 0x301 i c) {r : InCell} (hops : i.ops = [c, r]) {ks : List Nat}
    (hk : (SxCfg.of c.cell.arg).keys c.cell = some ks) : exec (.sxSort b) s = .next
      (s.sxEmit b i c r.cell.route (SxCfg.of c.cell.arg) (sortBy (SxCfg.of c.cell.arg).pairBefore ks.zipIdx)) := by
  show execSxSort b s = _
  rw [execSxSort, egSX, State.engine_of_takes ht, State.withOperands, if_pos (by rw [hops]; rfl)]
  simp only [hk, hops]
  rfl

theorem sxMerge_refused (ht : s.Takes b 8 0x302 i c) (h : i.ops.length ≠ 3) :
    exec (.sxMerge b) s = .next (s.refuse b 8 i c 0x0001) := by
  show execSxMerge b s = _
  rw [execSxMerge, egSX, State.engine_of_takes ht, State.withOperands, if_neg h]

/-- R242: `sx.merge` with its three operands. -/
theorem sxMerge_of_operands (ht : s.Takes b 8 0x302 i c) {q r : InCell} (hops : i.ops = [c, q, r]) :
    let cfg := SxCfg.of c.cell.arg
    (cfg.pairs c.cell = none ∨ cfg.pairs q.cell = none → exec (.sxMerge b) s = .next (s.refuse b 8 i c 0x0001)) ∧
    (∀ l m, cfg.pairs c.cell = some l → cfg.pairs q.cell = some m → exec (.sxMerge b) s = .next (
      if l.length + m.length ≤ cfg.most ∧ cfg.ordered l = true ∧ cfg.ordered m = true then
        s.sxEmit b i c r.cell.route cfg (cfg.merge l m)
      else s.refuse b 8 i c 0x0001)) := by
  have hexec : exec (.sxMerge b) s = execSxMerge b s := rfl
  rw [hexec, execSxMerge, egSX, State.engine_of_takes ht, State.withOperands, if_pos (by rw [hops]; rfl)]
  simp only [hops, List.getElem?_cons_succ, List.getElem?_cons_zero, Option.bind_some]
  refine ⟨fun h => ?_, fun l m hl hm => ?_⟩
  · obtain h | h := h
    · simp only [h]
    · simp only [h]
      cases (SxCfg.of c.cell.arg).pairs c.cell <;> rfl
  · simp only [hl, hm]

/-- R242: the running tile that a top-k cell finds, or a new one. -/
def topkBefore (s : State) (b : Nat) (c : Cell) : TopK :=
  ((s.bent b).topkOf (topkIssuer c)).getD { issuer := topkIssuer c, cfg := c.arg, seen := 0, best := [], poison := false }

section
variable (ht : s.Takes b 8 0x303 i c)
include ht

theorem sxTopk_refused (h : i.ops.length ≠ (if c.cell.eot then 2 else 1) ∨ (SxCfg.of c.cell.arg).keys c.cell = none ∨
      (∃ t, (s.bent b).topkOf (topkIssuer c.cell) = some t ∧ t.cfg ≠ c.cell.arg) ∨
      ((s.bent b).topkOf (topkIssuer c.cell) = none ∧ 16 ≤ (s.bent b).topk.length)) :
    exec (.sxTopk b) s = .next (s.refuse b 8 i c 0x0001) := by
  show execSxTopk b s = _
  rw [execSxTopk, egSX, State.engine_of_takes ht]
  by_cases hl : i.ops.length = if c.cell.eot then 2 else 1
  · rw [State.withOperands, if_pos hl]
    dsimp only
    cases hk : (SxCfg.of (topkBefore s b c.cell).cfg).keys c.cell with
    | none =>
      simp only [topkBefore] at hk
      simp only [hk]
    | some ks =>
      simp only [topkBefore] at hk
      simp only [hk]
      refine congrArg Host.Outcome.next (if_pos ?_)
      obtain h | ⟨t, ho, hc⟩ | ⟨ho, hfull⟩ := h.resolve_left (not_not.mpr hl)
      · refine .inl fun hc => ?_
        rw [hc, h] at hk
        exact nomatch hk
      · exact .inl (by rw [ho]; exact hc)
      · exact .inr ⟨by rw [ho]; rfl, hfull⟩
  · rw [State.withOperands, if_neg hl]

/-- R242: a top-k cell that is not refused. -/
theorem sxTopk_taken (hl : i.ops.length = if c.cell.eot then 2 else 1) {ks : List Nat}
    (hk : (SxCfg.of c.cell.arg).keys c.cell = some ks) (hc : (topkBefore s b c.cell).cfg = c.cell.arg)
    (hroom : (s.bent b).topkOf (topkIssuer c.cell) = none → (s.bent b).topk.length < 16) :
    let cfg := SxCfg.of c.cell.arg
    let t := topkBefore s b c.cell
    let t1 := { t.add cfg ks with poison := t.poison || anyPoison i.ops }
    (c.cell.eot = false → exec (.sxTopk b) s = .next ((s.eat b 8 i).updBent b (fun B => B.setTopk t1))) ∧
    (∀ r, c.cell.eot = true → i.ops = [c, r] → exec (.sxTopk b) s = .next (
      (s.routeCheck c.side.lid r.cell.route (cfg.pieces t1.best)).elim
        (((s.eat b 8 i).updBent b (fun B => B.dropTopk (topkIssuer c.cell))).updBent b (fun B =>
          B.emitAll 8 c.cell c.side r.cell.route (cfg.pieces t1.best) t1.poison none)) (s.refuse b 8 i c))) := by
  intro cfg t t1
  have hexec : exec (.sxTopk b) s = execSxTopk b s := rfl
  have hno : ¬(t.cfg ≠ c.cell.arg ∨ ((s.bent b).topkOf (topkIssuer c.cell)).isNone = true ∧ 16 ≤ (s.bent b).topk.length) := by
    rintro (h | ⟨h, hfull⟩)
    · exact h hc
    · exact absurd (hroom (Option.isNone_iff_eq_none.mp h)) (Nat.not_lt.mpr hfull)
  have hk1 : (SxCfg.of t.cfg).keys c.cell = some ks := by rw [show t.cfg = _ from hc]; exact hk
  have hcfg : SxCfg.of t.cfg = cfg := congrArg SxCfg.of hc
  rw [hexec, execSxTopk, egSX, State.engine_of_takes ht, State.withOperands, if_pos hl]
  simp only [t, topkBefore] at hk1 hno hcfg
  dsimp only
  rw [hk1]
  dsimp only
  rw [if_neg hno, hcfg]
  refine ⟨fun he => congrArg Host.Outcome.next (if_pos he), fun r he hops => ?_⟩
  rw [if_neg (by rw [he]; decide)]
  simp only [t1, t, topkBefore, hops, List.getElem?_cons_succ, List.getElem?_cons_zero]
  exact congrArg Host.Outcome.next (routed_eq ..)

end

end

/-- The running tile of an issuer after one is put in its place. -/
theorem Bent.topkOf_setTopk (B : Bent) (t : TopK) (w : Nat) : (B.setTopk t).topkOf w = if w = t.issuer then some t else B.topkOf w := by
  rw [Bent.topkOf, Bent.setTopk, List.find?_append, List.find?_filter]
  split
  · next h =>
    rw [List.find?_eq_none.mpr (fun u _ => by simp [h]), List.find?_singleton, if_pos (by simp [h])]
    rfl
  · next h =>
    rw [List.find?_singleton, if_neg (by simpa using Ne.symm h), Option.or_none, Bent.topkOf]
    refine List.find?_congr fun u _ => ?_
    by_cases hu : u.issuer = w <;> simp [hu, h]

theorem Bent.topkOf_dropTopk (B : Bent) (k w : Nat) : (B.dropTopk k).topkOf w = if w = k then none else B.topkOf w := by
  rw [Bent.topkOf, Bent.dropTopk, List.find?_filter]
  split
  · next h => exact List.find?_eq_none.mpr (fun u _ => by simp [h])
  · next h =>
    rw [Bent.topkOf]
    refine List.find?_congr fun u _ => ?_
    by_cases hu : u.issuer = w <;> simp [hu, h]

end Sys2Proof.Machine

namespace Sys2Proof.Proofs
open Sys2Proof.Machine

/-- Settles O41: the three operations as routed emissions, the order of keys by their ranks, and insertion, which permutes and keeps
the order of equal keys. -/
theorem sortEngine : Obligations.SortEngine := by
  refine ⟨?_, cut_runPieces, fun cfg l => ⟨sortBy_perm l, sortBy_pairwise cfg.pairBefore_trans cfg.pairBefore_asymm l⟩, ?_,
    SxCfg.ordered_iff, SxCfg.merge_spec⟩
  · intro s b i c x cfg size most bytesOf badKeys badPairs keys pairs refused emits
    have hcells (ps : List SxPair) : cfg.pieces ps = runPieces 15 false (bytesOf ps) := rfl
    have hbad : badKeys → cfg.keys x = none := fun h => if_pos h
    have hgood : ¬badKeys → cfg.keys x = some keys := fun h => if_neg h
    have hnone (y : Cell) : badPairs y → cfg.pairs y = none := fun h => if_pos h
    have hsome (y : Cell) : ¬badPairs y → cfg.pairs y = some (pairs y) := fun h => if_neg h
    refine ⟨fun ht => ?_, fun ht => ?_, ?_⟩
    · refine ⟨fun h => sxSort_refused ht (h.imp_right hbad), fun r hops hk => ?_⟩
      have h := emits_of_sxEmit (sxSort_emits ht hops (hgood hk))
      rw [hcells] at h
      exact h
    · refine ⟨fun h => sxMerge_refused ht h, fun q r hops => ?_⟩
      intro bad
      obtain ⟨hn, hs⟩ := sxMerge_of_operands ht hops
      have hpairs (h : ¬badPairs x ∧ ¬badPairs q.cell) := hs _ _ (hsome x h.1) (hsome q.cell h.2)
      refine ⟨fun h => ?_, fun h => ?_⟩
      · by_cases hx : badPairs x
        · exact hn (.inl (hnone x hx))
        · by_cases hq : badPairs q.cell
          · exact hn (.inr (hnone q.cell hq))
          · refine (hpairs ⟨hx, hq⟩).trans (congrArg Host.Outcome.next (if_neg fun ⟨hle, h1, h2⟩ => ?_))
            obtain h | h | h | h | h := h
            · exact hx h
            · exact hq h
            · exact absurd hle (Nat.not_le.mpr h)
            · exact absurd (h1.symm.trans h) (by decide)
            · exact absurd (h2.symm.trans h) (by decide)
      · simp only [bad, not_or] at h
        obtain ⟨hx, hq, hle, h1, h2⟩ := h
        have hall : (pairs x).length + (pairs q.cell).length ≤ cfg.most ∧ cfg.ordered (pairs x) = true ∧ cfg.ordered (pairs q.cell) = true :=
          ⟨Nat.not_lt.mp hle, by simpa using h1, by simpa using h2⟩
        have h := emits_of_sxEmit ((hpairs ⟨hx, hq⟩).trans (congrArg Host.Outcome.next (if_pos hall)))
        rw [hcells] at h
        exact h
    · intro ht who old bad seen best poison
      have hok (h : ¬bad) : i.ops.length = (if x.eot then 2 else 1) ∧ cfg.keys x = some keys ∧
          (old = none → (s.bent b).topk.length < 16) ∧ (topkBefore s b x).cfg = x.arg := by
        simp only [bad, not_or, not_exists, not_and, not_not] at h
        obtain ⟨hlen, hkeys, hcfg, hroom⟩ := h
        refine ⟨hlen, hgood hkeys, fun h => Nat.not_le.mp (hroom h), ?_⟩
        cases ho : old with
        | none => exact congrArg TopK.cfg (congrArg (Option.getD · _) ho)
        | some t => exact (congrArg TopK.cfg (congrArg (Option.getD · _) ho)).trans (hcfg t ho)
      let t1 : TopK := { (topkBefore s b x).add cfg keys with poison := (topkBefore s b x).poison || anyPoison i.ops }
      have hold {β : Type} (f : TopK → β) : f (topkBefore s b x) = (old.map f).getD
          (f { issuer := who, cfg := x.arg, seen := 0, best := [], poison := false }) := by
        simp only [topkBefore, old, who]
        cases (s.bent b).topkOf (topkIssuer x) <;> rfl
      have hseen : (topkBefore s b x).seen = seen := hold TopK.seen
      have hbest : t1.best = best := by
        have h : (topkBefore s b x).best = _ := hold TopK.best
        simp only [t1, TopK.add, h, hseen, best]
        rfl
      have hpoison : t1.poison = poison := congrArg (· || anyPoison i.ops) (hold TopK.poison)
      have hwho : who = t1.issuer := by
        have h : t1.issuer = _ := hold TopK.issuer
        rw [h]
        cases ho : old with
        | none => rfl
        | some t => exact (by simpa using List.find?_some ho : t.issuer = who).symm
      refine ⟨fun h => sxTopk_refused ht (h.imp_right (fun h => h.imp_left hbad)), fun h he => ?_, fun r h he hops => ?_⟩
      · obtain ⟨hlen, hkeys, hroom, hc⟩ := hok h
        obtain ⟨hmore, -⟩ := sxTopk_taken ht hlen hkeys hc hroom
        refine ⟨_, t1, hmore he, rfl, State.fed_updBent (State.fed_eat ..) (fun _ => ⟨rfl, rfl⟩), ?_, hc, ?_, ?_, ?_, fun w hw => ?_⟩
        · rw [State.bent_updBent, if_pos rfl, Bent.topkOf_setTopk, if_pos hwho]
        · exact congrArg (· + keys.length) hseen
        · exact hbest
        · exact hpoison
        · rw [State.bent_updBent, if_pos rfl, Bent.topkOf_setTopk, if_neg (by rw [← hwho]; exact hw), State.topkOf_eat]
      · obtain ⟨hlen, hkeys, hroom, hc⟩ := hok h
        obtain ⟨-, hlast⟩ := sxTopk_taken ht hlen hkeys hc hroom
        have hkeep (B : Bent) (w : Nat) : (B.emitAll 8 c.cell c.side r.cell.route (cfg.pieces t1.best) t1.poison none).topkOf w =
            B.topkOf w := congrArg (List.find? _) (Bent.emitAll_keeps Bent.topk (fun _ _ _ => rfl) _ B)
        have h := emits_of_routed (P := fun u => ∀ w, (u.bent b).topkOf w = if w = who then none else (s.bent b).topkOf w)
          (hlast r he hops) rfl (State.fed_updBent (State.fed_eat ..) (fun _ => ⟨rfl, rfl⟩)) ?_ ?_ ?_
        · rw [← hbest, ← hpoison]
          exact h
        · rw [State.bent_updBent, if_pos rfl]
          exact State.emit_eat ..
        · rw [State.bent_updBent, if_pos rfl]
          exact State.engSeq_eat ..
        · intro w
          rw [State.bent_updBent, if_pos rfl, hkeep, State.bent_updBent, if_pos rfl, Bent.topkOf_dropTopk, State.topkOf_eat]
  · intro cfg p q hk hp hq val
    have hrp : (cfg.rank p.1 : Int) = val p.1 + _ := cfg.rank_spec hk hp
    have hrq : (cfg.rank q.1 : Int) = val q.1 + _ := cfg.rank_spec hk hq
    refine ⟨?_, ?_⟩
    · unfold SxCfg.before
      split <;> simp only [decide_eq_true_eq] <;> omega
    · have hinj : cfg.rank p.1 = cfg.rank q.1 ↔ p.1 = q.1 := SxCfg.rank_inj hk hp hq
      unfold SxCfg.pairBefore SxCfg.before
      split <;> simp <;> omega

end Sys2Proof.Proofs

end
section
/-! PROOFS. The voter (R244, R373, R374). -/

open Sys2Proof

namespace Sys2Proof.Proofs
open Sys2Proof.Machine Sys2Proof.Tests

/-! ### Votes -/

/-- Two copies of a vote, of tenons 0 and 1, and a third from tenon 2 that disagrees with both. -/
def voteFirst : InCell := voteCell 0 [1]
def voteSecond : InCell := voteCell 1 [1]
def voteThird : InCell := voteCell 2 [2]

/-- A bent whose voter has forwarded the second copy of a vote and has the third before it. -/
def voteBent : Bent :=
  { launch := some 0, inbuf := [(10, [voteThird])], votes := [{ cells := [(voteFirst, 0), (voteSecond, 1)], forwarded := some 1 }] }

/-- A partition at whose queue's head a command stands, with its header not read yet: it lies in page 0x40, which another context
than the command's owns. -/
def voteState : State := { sysD with pageOwner := [(0x40, 1)], bents := [(0, voteBent)] }

theorem voteState_takes : voteState.Takes 0 10 0x501 (one voteThird) voteThird := ⟨rfl, rfl, rfl, rfl⟩

theorem voteState_byte : voteState.byte 0x400000 = 0x4E := by decide +kernel

theorem vtVote_scrubs : shows (exec (.vtVote 0) voteState) (fun t => t.byte 0x400000) = some 0 := by decide +kernel

/-- Refutes O42: a copy that disagrees may leave its partition other candidates, so that the headers of commands are read at once, and
the read of a container on a page of another owner zeroes that page first (R323, R343, R399): the memory is not as it was. -/
theorem not_voter : ¬ Obligations.Voter := by
  intro h
  obtain ⟨-, hall⟩ := h voteState 0 (one voteThird) voteThird voteState_takes rfl
  obtain ⟨-, -, hthird⟩ := hall 2 rfl rfl
  obtain ⟨u, hu, hm, -⟩ := hthird voteFirst voteSecond 0 1 rfl (by decide) (by decide) (by decide +kernel)
  have hs := vtVote_scrubs
  rw [hu] at hs
  have hb : u.byte 0x400000 = voteState.byte 0x400000 := by
    simp only [State.byte, hm]
  have h0 : u.byte 0x400000 = 0 := Option.some.inj hs
  rw [hb, voteState_byte] at h0
  exact absurd h0 (by decide)

end Sys2Proof.Proofs

end
section
/-! PROOFS. The consolidator (R243, R296 to R301): sums of equal records, joined records, arrangements, and its four operations. -/

open Sys2Proof

namespace Sys2Proof.Machine

/-! ### The order of records (R296) -/

/-- KEY, VALUE and the distance of ROUND from a base, in the order of records whose rounds lie within 32,768 of the base. -/
def Rec.rank (base : BitVec 16) (r : Rec) : Nat ×ₗ Nat ×ₗ Nat := toLex (r.key, toLex (r.value, (r.round - base).toNat))

theorem Rec.rank_lt_iff (base : BitVec 16) (a b : Rec) : a.rank base < b.rank base ↔ a.key < b.key ∨
    (a.key = b.key ∧ (a.value < b.value ∨ (a.value = b.value ∧ (a.round - base).toNat < (b.round - base).toNat))) := by
  simp [Rec.rank, Prod.Lex.toLex_lt_toLex]

theorem Rec.rank_eq_iff (base : BitVec 16) (a b : Rec) :
    a.rank base = b.rank base ↔ a.key = b.key ∧ a.value = b.value ∧ a.round = b.round := by
  have hround : (a.round - base).toNat = (b.round - base).toNat ↔ a.round = b.round := by
    refine ⟨fun h => ?_, fun h => by rw [h]⟩
    bv_omega
  rw [Rec.rank, Rec.rank, toLex_inj, Prod.mk.injEq, toLex_inj, Prod.mk.injEq, hround]

theorem Rec.same_iff (base : BitVec 16) (a b : Rec) : a.same b = true ↔ a.rank base = b.rank base := by
  rw [Rec.rank_eq_iff]
  simp [Rec.same, and_assoc]

theorem Rec.same_of_rank {base : BitVec 16} {a b : Rec} (h : a.rank base = b.rank base) (x : Rec) : x.same a = x.same b :=
  Bool.eq_iff_iff.mpr (by rw [Rec.same_iff base, Rec.same_iff base, h])

theorem roundBefore_iff {base x y : BitVec 16} (hx : (x - base).toNat < 2 ^ 15) (hy : (y - base).toNat < 2 ^ 15) :
    roundBefore x y = true ↔ (x - base).toNat < (y - base).toNat := by
  simp only [roundBefore, Bool.and_eq_true, decide_eq_true_eq]
  bv_omega

theorem Rec.before_eq {base : BitVec 16} {a b : Rec} (ha : (a.round - base).toNat < 2 ^ 15) (hb : (b.round - base).toNat < 2 ^ 15) :
    a.before b = decide (a.rank base < b.rank base) := by
  rw [Bool.eq_iff_iff, decide_eq_true_iff, Rec.rank_lt_iff]
  simp [Rec.before, roundBefore_iff ha hb]

/-! ### Sorting by comparisons that agree -/

theorem insertBy_congr {α : Type} {lt lt' : α → α → Bool} {a : α} {l : List α} (h : ∀ x ∈ l, lt a x = lt' a x) :
    insertBy lt a l = insertBy lt' a l := by
  have hw : ∀ x ∈ l, (!lt a x) = !lt' a x := fun x hx => by rw [h x hx]
  have htake : l.takeWhile (fun x => !lt a x) = l.takeWhile (fun x => !lt' a x) := by
    induction l with
    | nil => rfl
    | cons y l ih =>
      obtain ⟨hy, hl⟩ := List.forall_mem_cons.mp hw
      rw [List.takeWhile_cons, List.takeWhile_cons, hy, ih (fun x hx => h x (List.mem_cons_of_mem _ hx)) hl]
  have hdrop : l.dropWhile (fun x => !lt a x) = l.dropWhile (fun x => !lt' a x) := by
    have h1 := List.takeWhile_append_dropWhile (p := fun x => !lt a x) (l := l)
    have h2 := List.takeWhile_append_dropWhile (p := fun x => !lt' a x) (l := l)
    rw [htake] at h1
    exact List.append_cancel_left (h1.trans h2.symm)
  rw [insertBy, insertBy, htake, hdrop]

theorem foldl_insertBy_congr {α : Type} {lt lt' : α → α → Bool} (l acc : List α)
    (h : ∀ x ∈ acc ++ l, ∀ y ∈ acc ++ l, lt x y = lt' x y) :
    l.foldl (fun acc a => insertBy lt a acc) acc = l.foldl (fun acc a => insertBy lt' a acc) acc := by
  induction l generalizing acc with
  | nil => rfl
  | cons a l ih =>
    have hp : (insertBy lt' a acc ++ l).Perm (acc ++ a :: l) :=
      ((insertBy_perm a acc).append_right l).trans List.perm_middle.symm
    rw [List.foldl_cons, List.foldl_cons, insertBy_congr (fun x hx => h a (by simp) x (List.mem_append_left _ hx))]
    exact ih _ (fun x hx y hy => h x (hp.mem_iff.mp hx) y (hp.mem_iff.mp hy))

/-- Records of a window of rounds are sorted by rank. -/
theorem sortBy_before_pairwise {base : BitVec 16} {l : List Rec} (hl : ∀ r ∈ l, (r.round - base).toNat < 2 ^ 15) :
    (sortBy Rec.before l).Pairwise (fun x y => x.rank base ≤ y.rank base) := by
  have hsort : sortBy Rec.before l = sortBy (fun a b => decide (a.rank base < b.rank base)) l :=
    foldl_insertBy_congr l [] (fun x hx y hy => Rec.before_eq (hl x hx) (hl y hy))
  rw [hsort]
  refine (sortBy_pairwise ?_ ?_ l).imp (fun {x y} h => not_lt.mp (of_decide_eq_false h))
  · intro x y z h1 h2
    exact decide_eq_false (not_lt.mpr ((not_lt.mp (of_decide_eq_false h1)).trans (not_lt.mp (of_decide_eq_false h2))))
  · intro x y h
    exact decide_eq_false (lt_asymm (of_decide_eq_true h))

/-! ### Runs of equal records (R243, R298) -/

/-- The flags of records combined by OR. -/
def orFlags (l : List Rec) : Nat := l.foldl (fun f x => f ||| x.flags) 0

theorem foldl_flags (l : List Rec) (f : Nat) : l.foldl (fun f x => f ||| x.flags) f = f ||| orFlags l := by
  induction l generalizing f with
  | nil => exact (Nat.or_zero f).symm
  | cons r l ih => rw [orFlags, List.foldl_cons, List.foldl_cons, ih, ih (0 ||| r.flags), Nat.zero_or, Nat.or_assoc]

theorem orFlags_cons (r : Rec) (l : List Rec) : orFlags (r :: l) = r.flags ||| orFlags l := by
  rw [orFlags, List.foldl_cons, foldl_flags, Nat.zero_or]

theorem orFlags_perm {l l' : List Rec} (h : l.Perm l') : orFlags l = orFlags l' :=
  h.foldl_eq' (fun x _ y _ z => by rw [Nat.or_assoc, Nat.or_assoc, Nat.or_comm x.flags]) 0

/-- A run of a list stands for all records equal to its own: their exact sum, and their flags. -/
def Totals (l : List Rec) (x : Rec × Int) : Prop :=
  x.2 = ((l.filter (fun y => y.same x.1)).map (fun y => y.mult)).sum ∧ x.1.flags = orFlags (l.filter (fun y => y.same x.1)) ∧
  ∃ r ∈ l, r.same x.1 = true

theorem Totals.perm {l l' : List Rec} {x : Rec × Int} (h : Totals l x) (hp : l.Perm l') : Totals l' x := by
  obtain ⟨hsum, hflags, r, hr, hsame⟩ := h
  have hf := hp.filter (fun y => y.same x.1)
  exact ⟨hsum.trans (hf.map _).sum_eq, hflags.trans (orFlags_perm hf), r, hp.mem_iff.mp hr, hsame⟩

theorem Totals.cons_of_ne {l : List Rec} {x : Rec × Int} (h : Totals l x) {r : Rec} (hr : r.same x.1 = false) : Totals (r :: l) x := by
  obtain ⟨hsum, hflags, q, hq, hsame⟩ := h
  have hf : (r :: l).filter (fun y => y.same x.1) = l.filter (fun y => y.same x.1) := List.filter_cons_of_neg (by simp [hr])
  exact ⟨by rw [hf, hsum], by rw [hf, hflags], q, List.mem_cons_of_mem _ hq, hsame⟩

theorem Totals.cons_of_same {l : List Rec} {q : Rec} {m : Int} (h : Totals l (q, m)) {r : Rec} (hr : r.same q = true) :
    Totals (r :: l) ({ q with flags := r.flags ||| q.flags }, r.mult + m) := by
  obtain ⟨hsum, hflags, -⟩ := h
  have hf : (r :: l).filter (fun y => y.same q) = r :: l.filter (fun y => y.same q) := List.filter_cons_of_pos hr
  have hs (y : Rec) : y.same { q with flags := r.flags ||| q.flags } = y.same q := rfl
  simp only [] at hsum hflags
  refine ⟨?_, ?_, r, List.mem_cons_self, hr⟩
  · simp only [hs, hf, List.map_cons, List.sum_cons, hsum]
  · simp only [hs, hf, orFlags_cons]
    rw [hflags]

theorem Totals.single {l : List Rec} {r : Rec} (h : ∀ y ∈ l, y.same r = false) : Totals (r :: l) (r, r.mult) := by
  have hr : r.same r = true := (Rec.same_iff 0 r r).mpr rfl
  have hf : (r :: l).filter (fun y => y.same r) = [r] := by
    rw [List.filter_cons_of_pos (p := fun y : Rec => y.same r) hr, List.filter_eq_nil_iff.mpr (fun y hy => by simp [h y hy])]
  refine ⟨?_, ?_, r, List.mem_cons_self, hr⟩
  · simp only [hf, List.map_cons, List.map_nil, List.sum_cons, List.sum_nil, add_zero]
  · simp only [hf, orFlags_cons]
    exact (Nat.or_zero _).symm

/-- R243: the runs of a sorted list: their totals, one for each record, in strict order. -/
theorem runs_spec (base : BitVec 16) {l : List Rec} (hl : l.Pairwise (fun x y => x.rank base ≤ y.rank base)) :
    (∀ x ∈ runs l, Totals l x) ∧ (∀ r ∈ l, ∃ x ∈ runs l, r.same x.1 = true) ∧
    (runs l).Pairwise (fun x y => x.1.rank base < y.1.rank base) := by
  induction l with
  | nil => exact ⟨fun x h => (nomatch h), fun r h => (nomatch h), List.Pairwise.nil⟩
  | cons r l ih =>
    obtain ⟨hr, hl⟩ := List.pairwise_cons.mp hl
    obtain ⟨htot, hall, hord⟩ := ih hl
    have hrr : r.same r = true := (Rec.same_iff base r r).mpr rfl
    have hge : ∀ x ∈ runs l, r.rank base ≤ x.1.rank base := by
      intro x hx
      obtain ⟨-, -, y, hy, hsame⟩ := htot x hx
      exact (hr y hy).trans_eq ((Rec.same_iff base ..).mp hsame)
    cases hruns : runs l with
    | nil =>
      have hnil : l = [] := by
        cases l with
        | nil => rfl
        | cons y l =>
          obtain ⟨x, hx, -⟩ := hall y List.mem_cons_self
          rw [hruns] at hx
          exact nomatch hx
      subst hnil
      simp only [runs]
      refine ⟨?_, ?_, List.pairwise_singleton ..⟩
      · simpa using Totals.single (l := []) (r := r) (by simp)
      · simpa using hrr
    | cons p t =>
      obtain ⟨q, m⟩ := p
      rw [hruns] at htot hall hord hge
      obtain ⟨hq, ht⟩ := List.pairwise_cons.mp hord
      have hrq := hge _ List.mem_cons_self
      have hlt : ∀ x ∈ t, r.rank base < x.1.rank base := fun x hx => hrq.trans_lt (hq x hx)
      have hne {x : Rec} (h : r.rank base < x.rank base) : r.same x = false :=
        Bool.eq_false_iff.mpr (fun hs => h.ne ((Rec.same_iff base ..).mp hs))
      cases hs : r.same q with
      | true =>
        have heq : runs (r :: l) = ({ q with flags := r.flags ||| q.flags }, r.mult + m) :: t := by
          simp only [runs, hruns, hs, if_true]
        rw [heq]
        refine ⟨List.forall_mem_cons.mpr ⟨(htot _ List.mem_cons_self).cons_of_same hs, fun x hx =>
          (htot x (List.mem_cons_of_mem _ hx)).cons_of_ne (hne (hlt x hx))⟩,
          List.forall_mem_cons.mpr ⟨⟨_, List.mem_cons_self, hs⟩, fun y hy => ?_⟩, List.pairwise_cons.mpr ⟨hq, ht⟩⟩
        obtain ⟨x, hx, hyx⟩ := hall y hy
        obtain rfl | hx := List.mem_cons.mp hx
        · exact ⟨_, List.mem_cons_self, hyx⟩
        · exact ⟨x, List.mem_cons_of_mem _ hx, hyx⟩
      | false =>
        have heq : runs (r :: l) = (r, r.mult) :: (q, m) :: t := by
          simp only [runs, hruns, hs, Bool.false_eq_true, if_false]
        have hlq : r.rank base < q.rank base :=
          lt_of_le_of_ne hrq (fun h => by rw [(Rec.same_iff base ..).mpr h] at hs; exact Bool.noConfusion hs)
        have hlt : ∀ x ∈ (q, m) :: t, r.rank base < x.1.rank base := List.forall_mem_cons.mpr ⟨hlq, hlt⟩
        rw [heq]
        refine ⟨List.forall_mem_cons.mpr ⟨Totals.single (fun y hy => ?_), fun x hx => (htot x hx).cons_of_ne (hne (hlt x hx))⟩,
          List.forall_mem_cons.mpr ⟨⟨_, List.mem_cons_self, hrr⟩, fun y hy => ?_⟩, List.pairwise_cons.mpr ⟨hlt, hord⟩⟩
        · obtain ⟨x, hx, hyx⟩ := hall y hy
          refine Bool.eq_false_iff.mpr (fun h => (hlt x hx).ne ?_)
          rw [← (Rec.same_iff base ..).mp h, (Rec.same_iff base ..).mp hyx]
        · obtain ⟨x, hx, hyx⟩ := hall y hy
          exact ⟨x, List.mem_cons_of_mem _ hx, hyx⟩

/-- R243: a multiplicity within 32 bits. -/
theorem Rec.sized_spec (r : Rec) (m : Int) : (r.sized m).mult = max (-(2 ^ 31)) (min (2 ^ 31 - 1) m) ∧
    (r.sized m).flags = r.flags ||| (if (r.sized m).mult = m then 0 else 0x8000) ∧
    (r.sized m).key = r.key ∧ (r.sized m).value = r.value ∧ (r.sized m).round = r.round := by
  unfold Rec.sized
  split
  · next h =>
    refine ⟨by simp only []; omega, ?_, rfl, rfl, rfl⟩
    rw [if_neg (by simp only []; omega)]
  · next h =>
    split
    · next h2 =>
      refine ⟨by simp only []; omega, ?_, rfl, rfl, rfl⟩
      rw [if_neg (by simp only []; omega)]
    · next h2 => exact ⟨by simp only []; omega, by rw [if_pos rfl, Nat.or_zero], rfl, rfl, rfl⟩

theorem Rec.sized_same (r : Rec) (m : Int) (x : Rec) : x.same (r.sized m) = x.same r := by
  obtain ⟨-, -, hk, hv, hr⟩ := r.sized_spec m
  simp only [Rec.same, hk, hv, hr]

theorem Rec.rank_sized (base : BitVec 16) (r : Rec) (m : Int) : (r.sized m).rank base = r.rank base := by
  obtain ⟨-, -, hk, hv, hr⟩ := r.sized_spec m
  simp only [Rec.rank, hk, hv, hr]

/-- R298: the consolidated records of a list whose rounds lie in a window. -/
theorem consolidate_spec {base : BitVec 16} {l : List Rec} (hl : ∀ r ∈ l, (r.round - base).toNat < 2 ^ 15) :
    (∀ r ∈ consolidate l, ∃ x, Totals l x ∧ x.2 ≠ 0 ∧ r = x.1.sized x.2) ∧
    (∀ r ∈ l, ((l.filter (fun y => y.same r)).map (fun y => y.mult)).sum ≠ 0 → ∃ o ∈ consolidate l, r.same o = true) ∧
    (consolidate l).Pairwise (fun x y => x.rank base < y.rank base) := by
  have hp := sortBy_perm (lt := Rec.before) l
  obtain ⟨htot, hall, hord⟩ := runs_spec base (sortBy_before_pairwise hl)
  refine ⟨fun r hr => ?_, fun r hr hsum => ?_, ?_⟩
  · obtain ⟨x, hx, rfl⟩ := List.mem_map.mp hr
    obtain ⟨hx, hne⟩ := List.mem_filter.mp hx
    exact ⟨x, (htot x hx).perm hp, by simpa using hne, rfl⟩
  · obtain ⟨x, hx, hsame⟩ := hall r (hp.mem_iff.mpr hr)
    obtain ⟨hxsum, -⟩ := (htot x hx).perm hp
    have hcong : (fun y : Rec => y.same r) = fun y => y.same x.1 :=
      funext (Rec.same_of_rank ((Rec.same_iff base ..).mp hsame))
    rw [hcong, ← hxsum] at hsum
    refine ⟨_, List.mem_map_of_mem (List.mem_filter.mpr ⟨hx, by simpa using hsum⟩), ?_⟩
    rw [Rec.sized_same]
    exact hsame
  · refine List.pairwise_map.mpr ((hord.filter _).imp (fun {x y} h => ?_))
    rw [Rec.rank_sized, Rec.rank_sized]
    exact h

/-- R301: the record of a change and an entry. -/
theorem joined_spec (c e : Rec) : (joined c e).key = c.key ∧ (joined c e).round = c.round ∧
    (joined c e).value = c.value % 2 ^ 64 + e.value % 2 ^ 64 * 2 ^ 64 ∧
    (joined c e).mult = max (-(2 ^ 31)) (min (2 ^ 31 - 1) (c.mult * e.mult)) ∧
    (joined c e).flags = joinedFlags c.flags e.flags ||| (if (joined c e).mult = c.mult * e.mult then 0 else 0x8000) := by
  obtain ⟨hm, hf, hk, hv, hr⟩ := Rec.sized_spec ⟨c.key, c.value % 2 ^ 64 + e.value % 2 ^ 64 * 2 ^ 64, 0, c.round,
    joinedFlags c.flags e.flags⟩
    (c.mult * e.mult)
  exact ⟨hk, hr, hv, hm, hf⟩

theorem testBit_joinedFlags {c e n : Nat} (h : c.testBit n = e.testBit n) : (joinedFlags c e).testBit n = c.testBit n := by
  simp [joinedFlags, h]

theorem testBit_sat (n : Nat) : Nat.testBit 0x8000 n = decide (n = 15) := by
  rw [show (0x8000 : Nat) = 2 ^ 15 by decide, Nat.testBit_two_pow]
  exact decide_eq_decide.mpr eq_comm

/-! ### Entries of an arrangement (R300) -/

theorem State.arrangement_logs {s : State} {lid b bt : Nat} {A : Arr} (h : s.arrangement lid b bt = some A) : A.logs ≤ 25 := by
  unfold State.arrangement at h
  split at h
  · exact nomatch h
  · simp only [] at h
    split at h
    · exact nomatch h
    · split at h
      · exact nomatch h
      · next hb =>
        obtain rfl := Option.some.inj h
        simp only []
        omega

theorem arrHash_lt (key : Nat) {logs : Nat} (h : logs ≤ 64) : arrHash key logs < 2 ^ logs := by
  rw [arrHash, Nat.div_lt_iff_lt_mul (by positivity), ← Nat.pow_add, show logs + (64 - logs) = 64 by omega]
  exact Nat.mod_lt _ (by positivity)

section
variable (s : State) (A : Arr) (key : Nat)

/-- R300: the entry number in a slot of the index. -/
def State.arrSlot (i : Nat) : Nat := s.readNat (A.front (64 + 32 * A.cap + 4 * i)) 4

/-- Entry k is one of the key. -/
def State.ArrHolds (k : Nat) : Prop := k < A.count ∧ (s.arrEntry A k).1.key = key

/-- R300: the search ends at the first slot that is empty or names an entry of the key. -/
theorem State.arrFind_of_first (n : Nat) : ∀ (i fuel : Nat), i < 2 ^ A.logs → n < fuel →
    (∀ m, m < n → s.arrSlot A ((i + m) % 2 ^ A.logs) ≠ 2 ^ 32 - 1 ∧ ¬s.ArrHolds A key (s.arrSlot A ((i + m) % 2 ^ A.logs))) →
    (s.arrSlot A ((i + n) % 2 ^ A.logs) = 2 ^ 32 - 1 → s.arrFind A key fuel i = none) ∧
    (s.arrSlot A ((i + n) % 2 ^ A.logs) ≠ 2 ^ 32 - 1 → s.ArrHolds A key (s.arrSlot A ((i + n) % 2 ^ A.logs)) →
      s.arrFind A key fuel i = some (s.arrSlot A ((i + n) % 2 ^ A.logs))) := by
  induction n with
  | zero =>
    intro i fuel hi hfuel _
    obtain ⟨fuel, rfl⟩ := Nat.exists_eq_succ_of_ne_zero (Nat.ne_of_gt hfuel)
    rw [Nat.add_zero, Nat.mod_eq_of_lt hi]
    exact ⟨fun h => if_pos h, fun h1 h2 => (if_neg h1).trans (if_pos h2)⟩
  | succ n ih =>
    intro i fuel hi hfuel hmiss
    obtain ⟨fuel, rfl⟩ := Nat.exists_eq_succ_of_ne_zero (Nat.ne_of_gt (Nat.zero_lt_of_lt hfuel))
    have hnext (m : Nat) : ((i + 1) % 2 ^ A.logs + m) % 2 ^ A.logs = (i + (m + 1)) % 2 ^ A.logs := by
      rw [Nat.mod_add_mod, Nat.add_assoc, Nat.add_comm 1 m]
    obtain ⟨hne, hno⟩ := hmiss 0 (Nat.succ_pos n)
    rw [Nat.add_zero, Nat.mod_eq_of_lt hi] at hne hno
    have hstep : s.arrFind A key (fuel + 1) i = s.arrFind A key fuel ((i + 1) % 2 ^ A.logs) := (if_neg hne).trans (if_neg hno)
    have h := ih ((i + 1) % 2 ^ A.logs) fuel (Nat.mod_lt _ (by positivity)) (Nat.lt_of_succ_lt_succ hfuel)
      (fun m hm => by rw [hnext]; exact hmiss (m + 1) (Nat.succ_lt_succ hm))
    rwa [hnext, ← hstep] at h

/-- R300: the entries of a key in a row. -/
theorem State.arrRun_of_run (m : Nat) : ∀ (i fuel : Nat), m ≤ fuel → (∀ k, k < m → s.ArrHolds A key (i + k)) →
    ¬s.ArrHolds A key (i + m) → s.arrRun A key fuel i = (List.range m).map (fun k => s.arrEntry A (i + k)) := by
  induction m with
  | zero =>
    intro i fuel _ _ hno
    cases fuel with
    | zero => rfl
    | succ fuel => exact if_neg hno
  | succ m ih =>
    intro i fuel hfuel hrun hno
    obtain ⟨fuel, rfl⟩ := Nat.exists_eq_succ_of_ne_zero (Nat.ne_of_gt (Nat.lt_of_lt_of_le (Nat.succ_pos m) hfuel))
    have hk (k : Nat) : i + 1 + k = i + (k + 1) := by omega
    rw [List.range_succ_eq_map, List.map_cons, List.map_map]
    refine (if_pos (hrun 0 (Nat.succ_pos m))).trans (congrArg (s.arrEntry A i :: ·) ?_)
    rw [ih (i + 1) fuel (Nat.le_of_succ_le_succ hfuel) (fun k h => by rw [hk]; exact hrun (k + 1) (Nat.succ_lt_succ h))
      (by rw [hk]; exact hno)]
    exact List.map_congr_left (fun k _ => congrArg (s.arrEntry A) (hk k))

end

end Sys2Proof.Machine
end
section
/-! PROOFS. The operations of the consolidator (R243, R297 to R301). -/

open Sys2Proof

namespace Sys2Proof.Machine

theorem State.emittedBy_updBent {s t : State} {b e : Nat} {c : InCell} {R : Route} {poison : Bool} {ps : List Piece1} {f : Bent → Bent}
    (h : s.EmittedBy t b e c R poison ps) (hf : ∀ B, (f B).emit = B.emit) : s.EmittedBy (t.updBent b f) b e c R poison ps := by
  obtain ⟨cs, hcs, hall⟩ := h
  refine ⟨cs, ?_, hall⟩
  rw [← hcs, State.emitted, State.bent_updBent, if_pos rfl, hf]
  rfl

theorem State.cn_eat (s : State) (b e : Nat) (i : EngIn) : ((s.eat b e i).bent b).cn = (s.bent b).cn := by
  rw [State.eat, State.bent_updBent, if_pos rfl]
  exact Bent.consume_keeps Bent.cn (fun _ _ _ => ⟨rfl, rfl⟩) ..

theorem State.cn_updCn (s : State) (b : Nat) (g : Cn → Cn) : ((s.updCn b g).bent b).cn = g (s.bent b).cn := by
  rw [State.updCn, State.bent_updBent, if_pos rfl]

theorem State.fed_updCn {s t : State} {b e : Nat} {i : EngIn} (h : s.Fed t b e i) (g : Cn → Cn) : s.Fed (t.updCn b g) b e i :=
  State.fed_updBent h (fun _ => ⟨rfl, rfl⟩)

/-- R297, R298: the route of a queue of an operation's launch. -/
def State.cnRoute (s : State) (lid q : Nat) : Route := Route.of (padTo 32 0 (NMap.getD (s.launch lid).queues q default).route)

section
variable {s : State} {b : Nat} {i : EngIn} {c : InCell}

theorem State.cnEmit_eq (s : State) (b q : Nat) (trig : Cell) (d : Side) (out : List Rec) (poison : Bool) (iq : Option Nat)
    (done : OnAccept) : s.cnEmit b q trig d out poison iq done =
      (s.routeCheck d.lid (s.cnRoute d.lid q) (recordPieces out done)).elim (none, s.updBent b (fun B =>
        B.emitAll egCN trig d (s.cnRoute d.lid q) (recordPieces out done) poison iq)) (fun e => (some e, s)) := by
  rw [State.cnEmit, State.cnRoute]
  cases s.routeCheck d.lid _ (recordPieces out done) <;> rfl

/-- R298: an emission of the consolidator that its route admits, and the change to what it holds. -/
theorem State.cnEmit_emits {q : Nat} {out : List Rec} {poison : Bool} {iq : Option Nat} {done : OnAccept}
    (h : s.routeCheck c.side.lid (s.cnRoute c.side.lid q) (recordPieces out done) = none) (g : Cn → Cn) :
    let r := (s.eat b 9 i).cnEmit b q c.cell c.side out poison iq done
    let u := r.2.updCn b g
    r.1 = none ∧ u.mem = s.mem ∧ s.Fed u b 9 i ∧
      s.EmittedBy u b 9 c (s.cnRoute c.side.lid q) poison (recordPieces out done) ∧ (u.bent b).cn = g (s.bent b).cn := by
  intro r u
  have hr : r = (none, (s.eat b 9 i).updBent b (fun B =>
      B.emitAll egCN c.cell c.side (s.cnRoute c.side.lid q) (recordPieces out done) poison iq)) := by
    have h' : (s.eat b 9 i).routeCheck c.side.lid ((s.eat b 9 i).cnRoute c.side.lid q) (recordPieces out done) = none := h
    exact (State.cnEmit_eq ..).trans (by rw [h']; rfl)
  have hu : u = _ := congrArg (fun r : Option (BitVec 16) × State => r.2.updCn b g) hr
  refine ⟨congrArg Prod.fst hr, ?_, ?_, ?_, ?_⟩
  · rw [hu]; rfl
  · rw [hu]
    exact State.fed_updBent (State.fed_updBent (State.fed_eat ..) (fun B => ⟨Bent.emitAll_keeps Bent.inbuf (fun _ _ _ => rfl) ..,
      Bent.emitAll_keeps Bent.fired (fun _ _ _ => rfl) ..⟩)) (fun B => ⟨rfl, rfl⟩)
  · rw [hu]
    exact State.emittedBy_updBent (State.emittedBy_emitAll (State.emit_eat ..) (State.engSeq_eat ..) iq) (fun B => rfl)
  · rw [hu, State.cn_updCn, State.bent_updBent, if_pos rfl, Bent.emitAll_keeps Bent.cn (fun _ _ _ => rfl), State.cn_eat]

theorem State.ingest_spec (s : State) (b q : Nat) (c : InCell) : (s.ingest b q c).mem = s.mem ∧
    ∀ d, (s.ingest b q c).bent d = (s.updCn b (fun C => { C with pending := C.pending ++ c.cell.records.map (fun r =>
      ⟨q, r, { c with cell := { c.cell with payload := [] } }⟩) })).bent d := by
  unfold State.ingest
  simp only []
  split
  · exact ⟨rfl, fun d => rfl⟩
  · exact ⟨State.updLaunch_mem .., fun d => by rw [State.bent_updLaunch]⟩

theorem cnIngest_spec (ht : s.Takes b 9 0x401 i c) (hops : i.ops = [c]) :
    (s.cnBad b c true false false = true → exec (.cnIngest b) s = .next (s.refuse b 9 i c 0x0001)) ∧
    (s.cnBad b c true false false = false → (s.bent b).cn.count + c.cell.records.length ≤ 4096 →
      exec (.cnIngest b) s = .next ((s.eat b 9 i).ingest b (CnArg.of c.cell.arg).q c)) := by
  have hexec : exec (.cnIngest b) s = execCnIngest b s := rfl
  rw [hexec, execCnIngest, egCN, State.engine_of_takes ht, State.withOperands_one hops]
  refine ⟨fun h => by rw [if_pos h], fun h hroom => ?_⟩
  rw [if_neg (by rw [h]; decide), cnRoom, if_neg (Nat.not_lt.mpr hroom)]

/-- R298, R299: what `cn.cons` and `cn.flush` do with the records that a test names. -/
theorem consolidate_emits {f : Instr} {bad : Bool} {upto : Rec → Bool}
    (hexec : exec f s = .next (if bad then s.refuse b 9 i c 0x0001 else
      (s.eat b 9 i).consolidate b (CnArg.of c.cell.arg).q upto c.cell c.side c.cell.poison)) :
    let q := (CnArg.of c.cell.arg).q
    let S := (s.bent b).cn.taken q upto
    let ps := recordPieces (consolidate (S.map (fun p => p.r))) (.infl c.side.lid q S.length c.cell.round)
    (bad = true → exec f s = .next (s.refuse b 9 i c 0x0001)) ∧
    (bad = false → s.routeCheck c.side.lid (s.cnRoute c.side.lid q) ps = none →
      ∃ u, exec f s = .next u ∧ u.mem = s.mem ∧ s.Fed u b 9 i ∧
        s.EmittedBy u b 9 c (s.cnRoute c.side.lid q) (c.cell.poison || S.any (fun p => p.src.cell.poison)) ps ∧
        (u.bent b).cn.pending = (s.bent b).cn.pending.filter (fun p => !(p.q == q && upto p.r))) := by
  intro q S ps
  refine ⟨fun h => by rw [hexec, if_pos h], fun h hroute => ?_⟩
  obtain ⟨hnone, hmem, hfed, hem, hcn⟩ := State.cnEmit_emits (s := s) (b := b) (i := i) (c := c)
    (poison := c.cell.poison || S.any (fun p => p.src.cell.poison)) (iq := if S.isEmpty then none else some q) hroute
    (fun C => { C with pending := C.pending.filter (fun p => !(p.q == q && upto p.r)) })
  refine ⟨_, ?_, hmem, hfed, hem, congrArg Cn.pending hcn⟩
  rw [hexec, if_neg (by rw [h]; decide), State.consolidate]
  simp only [State.cn_eat]
  rw [hnone]

theorem cnCons_eq (ht : s.Takes b 9 0x402 i c) (hops : i.ops = [c]) : exec (.cnCons b) s = .next
    (if s.cnBad b c false true false then s.refuse b 9 i c 0x0001 else (s.eat b 9 i).consolidate b (CnArg.of c.cell.arg).q
      (fun r => notAfter r.round (CnArg.of c.cell.arg).round) c.cell c.side c.cell.poison) := by
  have hexec : exec (.cnCons b) s = execCnCons b s := rfl
  rw [hexec, execCnCons, egCN, State.engine_of_takes ht, State.withOperands_one hops]

theorem cnFlush_eq (ht : s.Takes b 9 0x404 i c) (hops : i.ops = [c]) : exec (.cnFlush b) s = .next
    (if s.cnBad b c false false false then s.refuse b 9 i c 0x0001 else
      (s.eat b 9 i).consolidate b (CnArg.of c.cell.arg).q (fun _ => true) c.cell c.side c.cell.poison) := by
  have hexec : exec (.cnFlush b) s = execCnFlush b s := rfl
  rw [hexec, execCnFlush, egCN, State.engine_of_takes ht, State.withOperands_one hops]

theorem cnJoin_refused (ht : s.Takes b 9 0x403 i c) (hops : i.ops = [c])
    (h : s.cnBad b c true false true = true ∨ s.arrangement c.side.lid b (CnArg.of c.cell.arg).bt = none) :
    exec (.cnJoin b) s = .next (s.refuse b 9 i c 0x0001) := by
  have hexec : exec (.cnJoin b) s = execCnJoin b s := rfl
  rw [hexec, execCnJoin, egCN, State.engine_of_takes ht, State.withOperands_one hops]
  have hnone : (if s.cnBad b c true false true then none else s.arrangement c.side.lid b (CnArg.of c.cell.arg).bt) = none := by
    obtain h | h := h
    · rw [if_pos h]
    · rw [h, ite_self]
  simp only [hnone]

/-- R301: the records that a join of the changes of a cell gives, each with its poison. -/
def State.joins (s : State) (A : Arr) (l : List Rec) : List (Rec × Bool) :=
  l.flatMap (fun r => (s.arrEntries A r.key).map (fun e => (joined r e.1, e.2)))

/-- R301: a join that meets no fold of an earlier round. -/
theorem cnJoin_emits (ht : s.Takes b 9 0x403 i c) (hops : i.ops = [c]) (hgood : s.cnBad b c true false true = false) {A : Arr}
    (hA : s.arrangement c.side.lid b (CnArg.of c.cell.arg).bt = some A) (hheld : (s.bent b).foldHeld (CnArg.of c.cell.arg).bt = false)
    (hroom : (s.bent b).cn.count + c.cell.records.length ≤ 4096)
    (hroute : s.routeCheck c.side.lid (s.cnRoute c.side.lid (CnArg.of c.cell.arg).q)
      (recordPieces ((s.joins A c.cell.records).map Prod.fst) .nothing) = none) :
    ∃ u, exec (.cnJoin b) s = .next u ∧ u.mem = s.mem ∧ s.Fed u b 9 i ∧
      s.EmittedBy u b 9 c (s.cnRoute c.side.lid (CnArg.of c.cell.arg).q)
        (c.cell.poison || (s.joins A c.cell.records).any (fun y => y.2))
        (recordPieces ((s.joins A c.cell.records).map Prod.fst) .nothing) ∧
      (u.bent b).cn.folds.map (fun f => (f.bt, f.r)) =
        (s.bent b).cn.folds.map (fun f => (f.bt, f.r)) ++ c.cell.records.map (fun r => ((CnArg.of c.cell.arg).bt, r)) := by
  obtain ⟨hnone, hmem, hfed, hem, hcn⟩ := State.cnEmit_emits (s := s) (b := b) (i := i) (c := c)
    (poison := c.cell.poison || (s.joins A c.cell.records).any Prod.snd) (iq := none) hroute (fun C =>
      { C with
        folds := C.folds ++ c.cell.records.map (fun k => ⟨(CnArg.of c.cell.arg).bt, (CnArg.of c.cell.arg).q, k, c.cell.poison⟩)
        foldBy := NMap.set C.foldBy (foldKey (CnArg.of c.cell.arg).bt c.cell.round) (joinFold (s.launch c.side.lid)
          (NMap.get? C.foldBy (foldKey (CnArg.of c.cell.arg).bt c.cell.round)) c.side) })
  refine ⟨_, ?_, hmem, hfed, hem, ?_⟩
  · have hexec : exec (.cnJoin b) s = execCnJoin b s := rfl
    rw [hexec, execCnJoin, egCN, State.engine_of_takes ht, State.withOperands_one hops]
    have hsome : (if s.cnBad b c true false true then none else s.arrangement c.side.lid b (CnArg.of c.cell.arg).bt) = some A := by
      rw [hgood, hA]
      rfl
    have hgo : ¬(decide (cnRoom < (s.bent b).cn.count + c.cell.records.length) ||
        (s.bent b).foldHeld (CnArg.of c.cell.arg).bt) = true := by
      rw [hheld, cnRoom]
      simpa using hroom
    simp only [hsome]
    rw [if_neg hgo]
    simp only [State.joins] at hnone ⊢
    rw [hnone]
  · rw [hcn, List.map_append, List.map_map]
    rfl

end

/-- R298: the pieces of an emission of records are the cells of their bytes. -/
theorem cut_recordPieces (out : List Rec) (done : OnAccept) :
    Cut 14 true (out.flatMap Rec.bytes) ((recordPieces out done).map (fun p => { p with done := .nothing })) := by
  have hrun (p : Piece1) (hp : p ∈ runPieces 14 true (out.flatMap Rec.bytes)) : ({ p with done := .nothing } : Piece1) = p := by
    unfold runPieces at hp
    simp only [] at hp
    split at hp
    · rw [List.mem_singleton.mp hp]
    · obtain ⟨x, -, rfl⟩ := List.mem_map.mp hp
      rfl
  have heq : (recordPieces out done).map (fun p : Piece1 => { p with done := .nothing }) = runPieces 14 true (out.flatMap Rec.bytes) := by
    rw [recordPieces]
    simp only [List.map_map]
    refine Eq.trans (List.map_congr_left (g := Prod.fst) (fun x hx => ?_)) (List.zipIdx_map_fst 0 _)
    have hx := hrun x.1 (List.fst_mem_of_mem_zipIdx hx)
    simp only [Function.comp]
    split
    · exact hx
    · exact hx
  rw [heq]
  exact cut_runPieces ..

end Sys2Proof.Machine

namespace Sys2Proof.Proofs

open Sys2Proof.Machine

/-- Settles O43: the operations by the emission rule of engines; consolidation by induction over the runs of the sorted records. -/
theorem consolidator : Obligations.Consolidator := by
  unfold Obligations.Consolidator
  refine ⟨fun s b i c hops => ?_, cut_recordPieces, fun l base hl => ?_, fun c e => ?_, fun s lid b bt key A hA => ?_⟩
  · intro B a L R
    refine ⟨fun ht => ?_, fun q hq ht => ?_, fun ht h => cnJoin_refused ht hops h,
      fun A ht hgood hA hheld hroom => cnJoin_emits ht hops hgood hA hheld hroom⟩
    · obtain ⟨hbad, hgood⟩ := cnIngest_spec ht hops
      refine ⟨hbad, fun h hroom => ⟨_, hgood h hroom, ?_⟩⟩
      obtain ⟨hmem, hbent⟩ := (s.eat b 9 i).ingest_spec b a.q c
      refine ⟨hmem, ?_, ?_⟩
      · rw [State.Fed, hbent]
        exact State.fed_updCn (State.fed_eat s b 9 i) _
      · rw [hbent, State.cn_updCn, State.cn_eat, List.map_append, List.map_map]
        rfl
    · simp only [List.mem_cons, List.not_mem_nil, or_false] at hq
      obtain rfl | rfl := hq
      · exact consolidate_emits (cnCons_eq ht hops)
      · exact consolidate_emits (cnFlush_eq ht hops)
  · intro equal sum
    obtain ⟨htot, hall, hord⟩ := consolidate_spec hl
    have hequal (r x : Rec) (h : x.rank base = r.rank base) : equal r = l.filter (fun y => y.same x) :=
      congrArg (l.filter ·) (funext (Rec.same_of_rank h.symm))
    refine ⟨fun r hr => ?_, fun r hr hsum => ?_, hord.imp (fun {x y} h => (Rec.rank_lt_iff ..).mp h)⟩
    · obtain ⟨x, ⟨hxsum, hflags, -⟩, hne, hrx⟩ := htot r hr
      obtain ⟨hmult, hsat, -⟩ := x.1.sized_spec x.2
      rw [← hrx] at hmult hsat
      have he : equal r = l.filter (fun y => y.same x.1) := hequal r x.1 (by rw [hrx, Rec.rank_sized])
      have hs : sum r = x.2 := (congrArg (fun l : List Rec => (l.map (fun y => y.mult)).sum) he).trans hxsum.symm
      rw [hs, he]
      exact ⟨hne, hmult, hsat.trans (congrArg (· ||| _) hflags)⟩
    · obtain ⟨o, ho, hsame⟩ := hall r hr hsum
      obtain ⟨hk, hv, hrd⟩ := (Rec.rank_eq_iff base r o).mp ((Rec.same_iff ..).mp hsame)
      exact ⟨o, ho, hk.symm, hv.symm, hrd.symm⟩
  · intro j m
    obtain ⟨hk, hr, hv, hm, hf⟩ := joined_spec c e
    refine ⟨hk, hr, hv, hm, fun hne => ?_, fun n hn hbit => ?_⟩
    · rw [hf, if_neg hne, Nat.testBit_or, testBit_sat]
      simp
    · rw [hf, Nat.testBit_or, testBit_joinedFlags hbit]
      by_cases h : j.mult = m
      · rw [if_pos h, Nat.zero_testBit, Bool.or_false]
      · rw [if_neg h, testBit_sat, decide_eq_false (hn h), Bool.or_false]
  · intro start slot its n hn hmiss
    have hlogs := State.arrangement_logs hA
    obtain ⟨hempty, hfound⟩ := s.arrFind_of_first A key n start (2 ^ A.logs) (arrHash_lt key (by omega)) hn hmiss
    refine ⟨fun h => ?_, fun m hne hpos hrun hend => ?_⟩
    · have hf := hempty h
      rw [State.arrEntries, arrHash, hf]
    · have h0 : s.ArrHolds A key (slot n) := hrun 0 hpos
      have hf : s.arrFind A key (2 ^ A.logs) start = some (slot n) := hfound hne h0
      have hcount : m ≤ A.count := by
        have h : slot n + (m - 1) < A.count := (hrun (m - 1) (by omega)).1
        omega
      rw [State.arrEntries, arrHash, hf]
      exact s.arrRun_of_run A key m (slot n) A.count hcount hrun hend

end Sys2Proof.Proofs

end
section
/-! PROOFS. The atomic unit (R151, R152, R245). -/

open Sys2Proof

namespace Sys2Proof.Machine

section
variable {s : State} {b : Nat} {i : EngIn} {c : InCell}

/-- R160: an update into a shadow whose publish is not complete. -/
def State.AtWaits (s : State) (c : InCell) : Prop :=
  ∃ bt, c.side.shadow = some bt ∧ (s.launch c.side.lid).pubAfter.contains bt = true

/-- R245: an update applied at once or held, once its engine has taken it. -/
def State.atTaken (s : State) (b : Nat) (c : InCell) (loc : Nat) (bound : Option (Nat × Bool)) (u : State) : State :=
  if (s.launch c.side.lid).det && !roundBefore c.cell.round ((s.bent b).roundAt 14) then u.atHold b c loc bound
  else u.atApply b c loc c.cell.round

theorem State.atOp_spec {op : Nat} (ht : s.Takes b 14 op i c) (hops : i.ops = [c]) :
    (s.AtWaits c → s.atOp b op = .next s) ∧
    (∀ cause, ¬s.AtWaits c → s.atPlace b c = .inl cause → s.atOp b op = .next (s.refuse b 14 i c cause)) ∧
    (∀ loc bound, ¬s.AtWaits c → s.atPlace b c = .inr (loc, bound) →
      s.atOp b op = .next (s.atTaken b c loc bound (s.eat b 14 i))) := by
  have hwait : s.AtWaits c ↔ (match c.side.shadow with
      | some bt => (s.launch c.side.lid).pubAfter.contains bt | none => false) = true := by
    unfold State.AtWaits
    cases c.side.shadow <;> simp
  rw [State.atOp, egAT, State.engine_of_takes ht, State.withOperands_one hops]
  refine ⟨fun h => ?_, fun cause h hp => ?_, fun loc bound h hp => ?_⟩
  · exact congrArg _ (if_pos (hwait.mp h))
  · rw [hp]
    exact congrArg _ (if_neg (fun hw => h (hwait.mpr hw)))
  · rw [hp]
    exact congrArg _ (if_neg (fun hw => h (hwait.mpr hw)))

/-- R229, R245, R329: the offset of an update. -/
theorem State.atOffset_spec (s : State) (b : Nat) (c : InCell) (hs : c.side.shadow = none) :
    ((∀ off, addrSpace b c.cell.addr ≠ .own off) → s.atOffset b c = none) ∧
    (∀ off, c.side.amo = none → addrSpace b c.cell.addr = .own off → s.atOffset b c = (s.launch c.side.lid).spadMap off) := by
  unfold State.atOffset
  rw [hs]
  refine ⟨fun h => ?_, fun off ha h => ?_⟩
  · cases hsp : addrSpace b c.cell.addr with
    | own off => exact absurd hsp (h off)
    | _ => rfl
  · simp only [h, ha, Option.isSome_none, Bool.false_eq_true, if_false]

/-- R245: the checks of an update in their order. -/
theorem State.atPlace_spec {code : Nat} (hcode : c.cell.code.toNat = code) :
    let x := c.cell
    let n := if x.fmt = 5 then 8 else 4
    (x.addr.toNat % n ≠ 0 → s.atPlace b c = .inl 0x0002) ∧
    (x.addr.toNat % n = 0 → s.atOffset b c = none → s.atPlace b c = .inl 0x0004) ∧
    (∀ off bound, x.addr.toNat % n = 0 → s.atOffset b c = some (off, bound) →
      let bad : Prop := (if code = 4 then x.fmt ≠ 6 else x.fmt ≠ 4 ∧ x.fmt ≠ 5) ∨ x.len.toNat < (if code = 2 then 16 else 8)
        ∨ 32 ≤ x.arg.toNat
      (bad → s.atPlace b c = .inl 0x0001) ∧ (¬bad → s.atPlace b c = .inr (spadAddr b off, bound))) := by
  intro x n
  have hc (k : BitVec 8) : x.code = k ↔ code = k.toNat := by rw [← BitVec.toNat_inj, hcode]
  have h4 : x.code = 4 ↔ code = 4 := hc 4
  have h2 : x.code = 2 ↔ code = 2 := hc 2
  have hfmt : atFmtOk x = false ↔ (if code = 4 then x.fmt ≠ 6 else x.fmt ≠ 4 ∧ x.fmt ≠ 5) := by
    by_cases h : code = 4
    · rw [atFmtOk, if_pos (h4.mpr h), if_pos h]
      exact beq_eq_false_iff_ne
    · rw [atFmtOk, if_neg (fun hx => h (h4.mp hx)), if_neg h]
      simp
  have hlen : atOperandBytes x = if code = 2 then 16 else 8 := by simp only [atOperandBytes, h2]
  unfold State.atPlace
  refine ⟨fun h => if_pos h, fun h ho => ?_, fun off bound h ho => ?_⟩
  · rw [ho]
    exact if_neg (not_not.mpr h)
  · intro bad
    have hbad : bad ↔ (atFmtOk x = false ∨ x.len.toNat < atOperandBytes x ∨ x.arg.toNat / 32 ≠ 0) := by
      rw [hfmt, hlen]
      exact or_congr_right (or_congr_right (by omega))
    rw [hbad, ho]
    exact ⟨fun hb => (if_neg (not_not.mpr h)).trans (if_pos hb), fun hb => (if_neg (not_not.mpr h)).trans (if_neg hb)⟩

/-- What an accepted update has passed. -/
theorem State.atPlace_fmt {p : Nat × Option (Nat × Bool)} (h : s.atPlace b c = .inr p) (hcode : c.cell.code.toNat = 4) :
    c.cell.fmt = 6 := by
  obtain ⟨h2, h4, h1⟩ := State.atPlace_spec (s := s) (b := b) hcode
  by_cases ha : c.cell.addr.toNat % (if c.cell.fmt = 5 then 8 else 4) = 0
  · cases ho : s.atOffset b c with
    | none =>
      have := (h4 ha ho).symm.trans h
      exact nomatch this
    | some q =>
      obtain ⟨hbad, -⟩ := h1 q.1 q.2 ha ho
      by_contra hf
      have := (hbad (.inl (by rw [if_pos rfl]; exact hf))).symm.trans h
      exact nomatch this
  · have := (h2 ha).symm.trans h
    exact nomatch this

theorem State.fed_bent {t u : State} {e : Nat} (h : s.Fed t b e i) (hu : (u.bent b).inbuf = (t.bent b).inbuf)
    (hf : (u.bent b).fired = (t.bent b).fired) : s.Fed u b e i := by
  obtain ⟨h1, h2⟩ := h
  exact ⟨hu.trans h1, hf.trans h2⟩

/-- R152: an update held that does not spill. -/
theorem State.atHold_shows (s : State) (b : Nat) (c : InCell) (loc : Nat) (bound : Option (Nat × Bool))
    (h : arriveSpills (s.bent b).heldAt' loc c.cell.round = false) : ∃ g : HeldAtom, g.loc = loc ∧ g.cell = c ∧
      s.atHold b c loc bound = s.updBent b (fun B => { B with held := B.held ++ [g] }) := by
  refine ⟨{ key := (s.launch c.side.lid).key c.side.ownerBent c.side.ownerSlot, loc := loc, cell := c, spilled := false, bound := bound },
    rfl, rfl, ?_⟩
  unfold State.atHold
  simp only [h, Bool.false_and, Bool.false_eq_true, if_false, List.map_id']

theorem State.bent_rmw_keeps {α : Type} (p : Bent → α) (hg : ∀ B m, p { B with granules := m } = p B) (s : State) (w : Writer)
    (loc n aop x e : Nat) (q : Bool) (b : Nat) : p ((s.rmw w loc n aop x e q).1.bent b) = p (s.bent b) := by
  unfold State.rmw
  simp only []
  split
  · rfl
  · rw [State.bent_updLaunch]
    exact State.bent_write_keeps p hg ..

theorem State.bent_wrote (s : State) (x : Cell) (d : Side) (b : Nat) : (s.wrote x d).bent b = s.bent b := by
  unfold State.wrote
  simp only []
  split
  · rw [State.bent_tick]
    exact State.bent_updLaunch ..
  · rfl

/-- R151: an update applied whose cell is of an `amo`: its entry has the old value. -/
theorem State.atApply_of_amo (loc : Nat) (round : BitVec 16) {bb k : Nat} {st : Strand} {o : MemOp}
    (h : s.amoEntry c.side = some (bb, k, st, o)) :
    s.atApply b c loc round = s.applyAtom bb k st o (c.cell.code.toNat - 1) := by
  unfold State.atApply
  simp only [h]

theorem State.rmw_byte_of_outside {w : Writer} {loc n aop x e : Nat} {q : Bool} (ho : s.Ordered) {y : Nat} (hy : y < loc ∨ loc + n ≤ y) :
    (s.rmw w loc n aop x e q).1.byte y = s.byte y := by
  unfold State.rmw
  simp only []
  split
  · rfl
  · refine (congrArg (Memory.get · y) (State.updLaunch_mem ..)).trans (State.write_byte_of_outside _ _ _ _ _ _ ho ?_)
    rwa [leBytes_length]

/-- R150: what an atomic of a strand reads, and the state in which it has written. -/
def State.atomDone (s : State) (st : Strand) (o : MemOp) (aop : Nat) : State × List Byte × Bool :=
  if s.barred o o.loc o.size then (s, s.read o.loc o.size)
  else s.rmw (o.by st).writer o.loc o.size aop (leNat o.data) (leNat o.expected) o.dpois

theorem State.atomDone_old (s : State) (st : Strand) (o : MemOp) (aop : Nat) :
    (s.atomDone st o aop).2 = (Memory.getBytes s.mem o.loc o.size, s.poisonedAt o.loc o.size) := by
  unfold State.atomDone
  split
  · rfl
  · simp only [State.rmw]
    split
    · next hp => rw [hp]
    · next hp => rw [Bool.eq_false_iff.mpr hp]

theorem State.applyAtom_eq_of_atomDone (s : State) (b k : Nat) (st : Strand) (o : MemOp) (aop : Nat) :
    s.applyAtom b k st o aop =
      ((if o.rel && !(s.atomDone st o aop).2.2 then
          (s.atomDone st o aop).1.leave o.writer o.scope true (objBytes o.loc o.size)
        else (s.atomDone st o aop).1).updLaunch st.lid (fun L => L.keepGot st o.id (s.atomDone st o aop).2)).setStrand b k
        (st.setOp (s.take o (s.atomDone st o aop).2)) := rfl

/-- R150: what an atomic of a strand leaves as it is applied. -/
theorem State.applyAtom_shows (s : State) (b k : Nat) (st : Strand) (o : MemOp) (aop : Nat) :
    (s.applyAtom b k st o aop).strand? b k =
      some (st.setOp (s.take o (Memory.getBytes s.mem o.loc o.size, s.poisonedAt o.loc o.size))) ∧
    (s.Ordered → ∀ y, y < o.loc ∨ o.loc + o.size ≤ y → (s.applyAtom b k st o aop).byte y = s.byte y) := by
  refine ⟨?_, fun ho y hy => ?_⟩
  · rw [State.applyAtom_eq_of_atomDone, State.strand?_setStrand, if_pos ⟨rfl, rfl⟩, State.atomDone_old]
  · have hmem : (s.applyAtom b k st o aop).mem = (s.atomDone st o aop).1.mem := by
      rw [State.applyAtom_eq_of_atomDone, State.setStrand_mem, State.updLaunch_mem]
      cases o.rel && !(s.atomDone st o aop).2.2 with
      | true => exact State.updLaunch_mem ..
      | false => rfl
    have hb : (s.applyAtom b k st o aop).byte y = (s.atomDone st o aop).1.byte y := by simp only [State.byte, hmem]
    rw [hb, State.atomDone]
    have hout := State.rmw_byte_of_outside (w := (o.by st).writer) (aop := aop) (x := leNat o.data) (e := leNat o.expected)
      (q := o.dpois) ho hy
    cases s.barred o o.loc o.size with
    | true => rfl
    | false => exact hout

theorem find?_replaced {l : List MemOp} {o p : MemOp} (h : (l.find? (fun q => q.id == o.id)).isSome = true) (hp : p.id = o.id) :
    (l.map (fun q => if q.id = p.id then p else q)).find? (fun q => q.id == o.id) = some p := by
  induction l with
  | nil => exact nomatch h
  | cons q l ih =>
    rw [List.map_cons, hp]
    by_cases hq : q.id = o.id
    · rw [if_pos hq, List.find?_cons_of_pos (by simpa using hp)]
    · rw [hp] at ih
      rw [if_neg hq, List.find?_cons_of_neg (by simpa using hq)]
      rw [List.find?_cons_of_neg (by simpa using hq)] at h
      exact ih h

theorem State.amoEntry_spec {d : Side} {bb k : Nat} {st : Strand} {o : MemOp} (h : s.amoEntry d = some (bb, k, st, o)) :
    (st.ops.find? (fun q => q.id == o.id)).isSome = true := by
  unfold State.amoEntry at h
  obtain ⟨x, -, h⟩ := Option.bind_eq_some_iff.mp h
  obtain ⟨v, -, h⟩ := Option.bind_eq_some_iff.mp h
  split at h
  · obtain ⟨p, hp, h⟩ := Option.map_eq_some_iff.mp h
    simp only [Prod.mk.injEq] at h
    obtain ⟨-, -, rfl, rfl⟩ := h
    have hid : p.id = x.2.2 := by simpa using List.find?_some hp
    rw [hid, hp]
    rfl
  · exact nomatch h

theorem State.cellWriter_lid (s : State) (x : Cell) (d : Side) : (s.cellWriter x d).lid = d.lid := by
  unfold State.cellWriter
  simp only []
  split <;> rfl

/-- R245: a state with the answer `m` of the AT offered. -/
def State.answered (t : State) (b : Nat) (d : Side) (m : Cell) : State := t.updBent b (fun B => B.offer egAT d m .nothing)

theorem State.answered_keeps (t : State) (b : Nat) (d : Side) (m : Cell) :
    (t.answered b d m).mem = t.mem ∧ ((t.answered b d m).bent b).inbuf = (t.bent b).inbuf ∧
    ((t.answered b d m).bent b).fired = (t.bent b).fired := by
  simp only [State.answered, State.bent_updBent, if_pos]
  exact ⟨rfl, rfl, rfl⟩

theorem State.emitted_answered (t : State) (b : Nat) (d : Side) (m : Cell) :
    ∃ x, (t.answered b d m).emitted b 14 = t.emitted b 14 ++ [x] ∧ x.dest = m.dest ∧ x.arg = m.arg ∧ x.payload = m.payload := by
  rw [State.emitted, State.answered, State.bent_updBent, if_pos rfl, egAT, Bent.emit_offer_eq, List.map_append]
  exact ⟨_, rfl, rfl, rfl, rfl⟩

/-- R245: what the AT reads and leaves at `loc` for the cell `c`. -/
def State.atRead (s : State) (c : InCell) (loc : Nat) : State × List Byte × Bool :=
  s.rmw (s.cellWriter c.cell c.side) loc (atSize c.cell) (c.cell.code.toNat - 1) (c.cell.num 0 8) (c.cell.num 8 8) c.cell.poison

/-- R245: the answer of an update with RET, from what stood there. -/
def atAnswer (c : InCell) (round : BitVec 16) (r : List Byte × Bool) : Cell :=
  atReply c.cell (atReturn (c.cell.code.toNat - 1) (atSize c.cell) r.1) round r.2

theorem State.atApply_eq (s : State) (b : Nat) {c : InCell} (loc : Nat) (round : BitVec 16) (h : c.side.amo = none) :
    s.atApply b c loc round = if bit c.cell.arg 4 = true then
      ((s.atRead c loc).1.wrote c.cell c.side).answered b { c.side with src := .engine egAT, via := none, prov := none }
        (atAnswer c round (s.atRead c loc).2)
      else (s.atRead c loc).1.wrote c.cell c.side := by
  have hentry : s.amoEntry c.side = none := by rw [State.amoEntry, h]; rfl
  simp only [State.atApply, hentry, h, Option.isNone_none, and_true]
  rfl

theorem State.bent_atRead_wrote (s : State) (c : InCell) (loc b : Nat) {α : Type} (p : Bent → α)
    (hg : ∀ B m, p { B with granules := m } = p B) :
    p (((s.atRead c loc).1.wrote c.cell c.side).bent b) = p (s.bent b) := by
  rw [State.bent_wrote]
  exact State.bent_rmw_keeps p hg ..

theorem State.emitted_atRead_wrote (s : State) (c : InCell) (loc b : Nat) :
    ((s.atRead c loc).1.wrote c.cell c.side).emitted b 14 = s.emitted b 14 :=
  congrArg (fun m : NMap (List Emission) => (NMap.getD m 14 []).map (fun m : Emission => m.cell))
    (s.bent_atRead_wrote c loc b Bent.emit (fun _ _ => rfl))

/-- R245: an update applied whose cell is of no `amo`. -/
theorem State.atApply_of_cell (s : State) (b : Nat) {c : InCell} (loc : Nat) (round : BitVec 16) (h : c.side.amo = none) :
    (s.atApply b c loc round).mem = (s.atRead c loc).1.mem ∧
    ((s.atApply b c loc round).bent b).inbuf = (s.bent b).inbuf ∧
    ((s.atApply b c loc round).bent b).fired = (s.bent b).fired ∧
    (bit c.cell.arg 4 = false → (s.atApply b c loc round).emitted b 14 = s.emitted b 14) ∧
    (bit c.cell.arg 4 = true → ∃ m, (s.atApply b c loc round).emitted b 14 = s.emitted b 14 ++ [m] ∧
      m.dest = oneHot 15 ∧ m.arg = BitVec.ofNat 32 (c.cell.arg.toNat % 16) ∧
      m.payload = padTo 256 0 (leBytes 8 (atReturn (c.cell.code.toNat - 1) (atSize c.cell) (s.atRead c loc).2.1).toNat)) := by
  rw [s.atApply_eq b loc round h]
  have hemit := s.emitted_atRead_wrote c loc b
  have hin := s.bent_atRead_wrote c loc b Bent.inbuf (fun _ _ => rfl)
  have hfired := s.bent_atRead_wrote c loc b Bent.fired (fun _ _ => rfl)
  have hmem : ((s.atRead c loc).1.wrote c.cell c.side).mem = (s.atRead c loc).1.mem := State.wrote_mem ..
  generalize (s.atRead c loc).1.wrote c.cell c.side = t at hemit hin hfired hmem ⊢
  cases hbit : bit c.cell.arg 4 with
  | false =>
    rw [if_neg Bool.noConfusion]
    exact ⟨hmem, hin, hfired, fun _ => hemit, fun h => nomatch h⟩
  | true =>
    rw [if_pos rfl]
    obtain ⟨kmem, kin, kfired⟩ := t.answered_keeps b { c.side with src := .engine egAT, via := none, prov := none }
      (atAnswer c round (s.atRead c loc).2)
    refine ⟨kmem.trans hmem, kin.trans hin, kfired.trans hfired, fun h => (nomatch h), fun _ => ?_⟩
    rw [← hemit]
    exact t.emitted_answered b _ (atAnswer c round (s.atRead c loc).2)

end

/-- R150, R245: an FP32 sum needs no more than the low word of its operands. -/
theorem amoNew_fadd (m : Nat) (x : Cell) : amoNew 3 32 m (x.num 0 8 % 2 ^ 32) (x.num 8 8 % 2 ^ 32) % 2 ^ 32 =
    (f32 ((val32 (BitVec.ofNat 32 m)).add (val32 (BitVec.ofNat 32 (x.num 0 4))) .rne) .rne).toNat := by
  have hlow : BitVec.ofNat 32 (x.num 0 8 % 2 ^ 32) = BitVec.ofNat 32 (x.num 0 4) := by
    apply BitVec.eq_of_toNat_eq
    simp [Cell.num, List.range_succ, leNat]
    omega
  rw [amoNew, hlow]
  exact Nat.mod_eq_of_lt (BitVec.isLt _)

end Sys2Proof.Machine

namespace Sys2Proof.Proofs

open Sys2Proof.Machine

/-- Settles O44: the checks of an update in their order, and what it leaves held or applied. -/
theorem atomicUnit : Obligations.AtomicUnit := by
  unfold Obligations.AtomicUnit
  intro s b i c hops q hq ht x n publishing
  have hqs : exec q.1 s = s.atOp b (0x600 + q.2) ∧ 1 ≤ q.2 ∧ q.2 ≤ 11 := by
    fin_cases hq <;> exact ⟨rfl, Nat.le_of_ble_eq_true rfl, Nat.le_of_ble_eq_true rfl⟩
  obtain ⟨hexec, hlo, hhi⟩ := hqs
  have hcode : x.code.toNat = q.2 := by
    have h : x.kind.toNat * 256 + x.code.toNat = 0x600 + q.2 := ht.2.2.2
    have := x.code.isLt
    omega
  obtain ⟨hwait, hrefuse, htaken⟩ := State.atOp_spec ht hops
  obtain ⟨hal, hno, hchk⟩ := State.atPlace_spec (s := s) (b := b) hcode
  refine ⟨fun h => hexec.trans (hwait h), fun cause h hp => hexec.trans (hrefuse cause h hp), hal, hno,
    fun hs h => (State.atOffset_spec s b c hs).1 h, fun off hs ha h => (State.atOffset_spec s b c hs).2 off ha h, hchk, ?_, ?_⟩
  · intro loc bound hp hplace hdet hround hspill
    have hheld : ((s.eat b 14 i).bent b).held = (s.bent b).held := by
      rw [State.eat, State.bent_updBent, if_pos rfl]
      exact Bent.consume_keeps Bent.held (fun _ _ _ => ⟨rfl, rfl⟩) ..
    obtain ⟨g, hloc, hcell, hu⟩ := (s.eat b 14 i).atHold_shows b c loc bound (by rw [Bent.heldAt', hheld]; exact hspill)
    refine ⟨_, g, hexec.trans (htaken loc bound hp hplace), ?_⟩
    rw [State.atTaken, if_pos (by rw [hdet, hround]; rfl), hu]
    refine ⟨rfl, State.fed_updBent (State.fed_eat ..) (fun _ => ⟨rfl, rfl⟩), ?_, hloc, hcell⟩
    rw [State.bent_updBent, if_pos rfl, hheld]
  · intro loc bound hp hplace hdet ho old
    have happly : exec q.1 s = .next ((s.eat b 14 i).atApply b c loc x.round) := by
      rw [hexec, htaken loc bound hp hplace, State.atTaken, hdet]
      rfl
    refine ⟨fun hamo hpois => ?_, fun bb k st o hentry => ?_⟩
    · obtain ⟨hmem, hin, hfired, hquiet, hret⟩ := (s.eat b 14 i).atApply_of_cell b loc x.round hamo
      have hsize : atSize x = n := rfl
      have hlid : ((s.eat b 14 i).cellWriter x c.side).lid = c.side.lid := State.cellWriter_lid ..
      obtain ⟨hout, hnew⟩ := State.rmw_bytes (s := s.eat b 14 i) (w := (s.eat b 14 i).cellWriter x c.side) loc n (x.code.toNat - 1)
        (x.num 0 8) (x.num 8 8) x.poison ho
        (by rw [hlid]; exact hdet)
      have hbyte (y : Nat) : ((s.eat b 14 i).atApply b c loc x.round).byte y = _ := congrArg (Memory.get · y) hmem
      have hemit : (s.eat b 14 i).emitted b 14 = s.emitted b 14 := congrArg
        (fun m : NMap (List Emission) => (NMap.getD m 14 []).map (fun m : Emission => m.cell)) (State.emit_eat s b 14 i)
      have hread : ((s.eat b 14 i).atApply b c loc x.round).readNat loc n =
          amoNew (q.2 - 1) (8 * n) old (x.num 0 8 % 2 ^ (8 * n)) (x.num 8 8 % 2 ^ (8 * n)) % 2 ^ (8 * n) := by
        rw [State.readNat, hmem, ← hcode]
        exact hnew hpois
      refine ⟨_, happly, State.fed_bent (State.fed_eat ..) hin hfired, hread, fun hq4 => ?_, fun y hy => ?_, fun hb => ?_, fun hb => ?_⟩
      · have hn : n = 4 := if_neg (by rw [State.atPlace_fmt hplace (hcode.trans hq4)]; decide)
        rw [hn, hq4] at hread
        exact hread.trans (amoNew_fadd ..)
      · exact (hbyte y).trans (hout y hy)
      · exact (hquiet hb).trans hemit
      · obtain ⟨m, hm, hdest, harg, hpay⟩ := hret hb
        refine ⟨m, hm.trans (congrArg (· ++ [m]) hemit), hdest, harg, hpay.trans ?_⟩
        rw [State.atRead, State.rmw_old, hcode]
        rfl
    · have hstrands (d j : Nat) : (s.eat b 14 i).strand? d j = s.strand? d j := congrArg (NMap.get? · j)
        (State.bent_updBent_keeps Bent.strands _ _ _ (fun B => Bent.consume_keeps Bent.strands (fun _ _ _ => ⟨rfl, rfl⟩) B 14 i))
      have hentry' : (s.eat b 14 i).amoEntry c.side = some (bb, k, st, o) := by
        rw [State.amoEntry] at hentry ⊢
        simp only [hstrands]
        exact hentry
      obtain ⟨hstrand, hout⟩ := (s.eat b 14 i).applyAtom_shows bb k st o (x.code.toNat - 1)
      refine ⟨_, _, happly.trans (congrArg _ (State.atApply_of_amo loc x.round hentry')), hstrand, ?_, fun _ y hy => hout ho y hy⟩
      have hfind := find?_replaced (o := o) (p := (s.eat b 14 i).take o (Memory.getBytes s.mem o.loc o.size, s.poisonedAt o.loc o.size))
        (State.amoEntry_spec hentry) (State.take_id ..)
      exact congrArg (Option.map (fun p => p.got)) hfind

end Sys2Proof.Proofs

end
section
/-! PROOFS. Writebacks, the girt network's ends and the sink (R170, R290, R294, R395, R396). -/

open Sys2Proof

namespace Sys2Proof.Machine

/-! ### The sink -/

/-- R170: a data cell at the head of SQ, and its slot empty. -/
theorem exec_sinkData_of_empty {s : State} {b : Nat} {c : InCell} (hc : (s.bent b).dataHead 15 = some c)
    (hn : NMap.get? (s.bent b).sinks (c.cell.arg.toNat % 16) = none) :
    ∃ v : SinkSlot, v.bytes = (List.range 8).map c.cell.byte ∧ v.fmt = c.cell.fmt ∧ v.tag = c.cell.tag ∧ v.poison = c.cell.poison ∧
      exec (.sinkData b) s = .next (s.setBent b { s.bent b with
        inbuf := NMap.set (s.bent b).inbuf 15 (((s.bent b).buffer 15).drop 1)
        sinks := NMap.set (s.bent b).sinks (c.cell.arg.toNat % 16) v
        sinkCount := (s.bent b).sinkCount + (if c.cell.eot then 1 else 0) }) := by
  refine ⟨{ bytes := (List.range 8).map c.cell.byte, fmt := c.cell.fmt, tag := c.cell.tag, count := c.cell.count0
            poison := c.cell.poison, round := c.cell.round }, rfl, rfl, rfl, rfl, ?_⟩
  have hexec : exec (.sinkData b) s = execSinkData b s := rfl
  have hhead : ((s.bent b).headIn egSQ).filter (fun c => !c.cell.rmk) = some c := hc
  have hhas : NMap.has (s.bent b).sinks (c.cell.arg.toNat % 16) = false := by rw [NMap.has, hn]; rfl
  rw [hexec, execSinkData]
  simp only [hhead]
  rw [if_neg (by rw [hhas]; decide)]
  rfl

/-! ### What a fault and a write leave of a bent -/

section
variable {α : Type} (p : Bent → α)

theorem State.bent_launchFault (s : State) (lid code : Nat) (cause : BitVec 16) (pc : Word) (n b : Nat) :
    (s.launchFault lid code cause pc n).bent b = s.bent b := by
  unfold State.launchFault
  split
  · rfl
  · split <;> rfl

/-- A trap raised for an OWNER changes no bent but in its strands. -/
theorem State.bent_engFault_keeps (hs : ∀ B m, p { B with strands := m } = p B) (s : State) (d : Side) (cause : BitVec 16) (b : Nat) :
    p ((s.engFault d cause).bent b) = p (s.bent b) := by
  unfold State.engFault State.raiseTrap
  split
  · exact (congrArg p (State.bent_updLaunch ..)).trans (State.bent_updOwner_keeps p hs ..)
  · exact congrArg p (State.bent_launchFault ..)

theorem State.bent_writeCell_keeps (hg : ∀ B m, p { B with granules := m } = p B) (s : State) (c : InCell)
    (ps : List (Nat × Nat × Nat)) (b : Nat) : p ((s.writeCell c ps).bent b) = p (s.bent b) := by
  unfold State.writeCell
  simp only [State.bent_wrote]
  generalize s.cellWriter c.cell c.side = w
  induction ps generalizing s with
  | nil => rfl
  | cons x ps ih => exact (ih _).trans (State.bent_write_keeps p hg ..)

/-! ### Places of a write -/

/-- R396: a place that is not found changes no bent but in what a failed translation has met. -/
theorem State.writePlace_keeps (hm : ∀ B m, p { B with transBad := m } = p B) (s : State) (b e : Nat) (c : InCell) (k d : Nat) :
    (∀ t, s.writePlace b e c k = .wait t → p (t.bent d) = p (s.bent d)) ∧
    (∀ t cause, s.writePlace b e c k = .fault t cause → p (t.bent d) = p (s.bent d)) := by
  have hva (host : Bool) (va : Nat) : (∀ t, s.cellVa b e c.side c.cell.ctx.toNat host va = .wait t → p (t.bent d) = p (s.bent d)) ∧
      (∀ t cause, s.cellVa b e c.side c.cell.ctx.toNat host va = .fault t cause → p (t.bent d) = p (s.bent d)) := by
    unfold State.cellVa
    simp only []
    split
    · exact ⟨fun t h => (nomatch h), fun t cause h => (nomatch h)⟩
    · split
      · exact ⟨fun t h => (nomatch h), fun t cause h => (nomatch h)⟩
      · refine ⟨fun t h => (nomatch h), fun t cause h => ?_⟩
        obtain ⟨rfl, -⟩ := PlaceOf.fault.inj h
        exact State.bent_updBent_keeps p _ _ _ (fun B => hm B _)
      · refine ⟨fun t h => ?_, fun t cause h => (nomatch h)⟩
        obtain rfl := PlaceOf.wait.inj h
        rfl
      · refine ⟨fun t h => ?_, fun t cause h => (nomatch h)⟩
        obtain rfl := PlaceOf.wait.inj h
        unfold State.queueScrub
        split <;> rfl
  unfold State.writePlace
  simp only []
  split
  · exact ⟨fun t h => (nomatch h), fun t cause h => (nomatch h)⟩
  · split
    · split
      · exact ⟨fun t h => (nomatch h), fun t cause h => (nomatch h)⟩
      · refine ⟨fun t h => (nomatch h), fun t cause h => ?_⟩
        obtain ⟨rfl, -⟩ := PlaceOf.fault.inj h
        rfl
    · exact hva ..
    · exact hva ..
    · refine ⟨fun t h => (nomatch h), fun t cause h => ?_⟩
      obtain ⟨rfl, -⟩ := PlaceOf.fault.inj h
      rfl
    · refine ⟨fun t h => (nomatch h), fun t cause h => ?_⟩
      obtain ⟨rfl, -⟩ := PlaceOf.fault.inj h
      rfl

theorem State.writePlaces_keeps (hm : ∀ B m, p { B with transBad := m } = p B) (s : State) (b e : Nat) (c : InCell)
    (l : List (Nat × Nat)) (d : Nat) : (∀ t, s.writePlaces b e c l = .inl (.wait t) → p (t.bent d) = p (s.bent d)) ∧
    (∀ t cause, s.writePlaces b e c l = .inl (.fault t cause) → p (t.bent d) = p (s.bent d)) := by
  induction l with
  | nil => exact ⟨fun t h => (nomatch h), fun t cause h => (nomatch h)⟩
  | cons x l ih =>
    obtain ⟨hw, hf⟩ := s.writePlace_keeps p hm b e c x.1 d
    rw [State.writePlaces]
    cases hp : s.writePlace b e c x.1 with
    | wait u => exact ⟨fun t h => by obtain rfl := PlaceOf.wait.inj (Sum.inl.inj h); exact hw _ hp, fun t cause h => nomatch Sum.inl.inj h⟩
    | fault u k =>
      refine ⟨fun t h => (nomatch Sum.inl.inj h), fun t cause h => ?_⟩
      obtain ⟨rfl, rfl⟩ := PlaceOf.fault.inj (Sum.inl.inj h)
      exact hf _ _ hp
    | ok loc =>
      simp only []
      cases hl : s.writePlaces b e c l with
      | inr ps => exact ⟨fun t h => (nomatch h), fun t cause h => (nomatch h)⟩
      | inl y =>
        rw [hl] at ih
        exact ih

end

/-! ### WB0, WB1 and GS -/

section
variable {s : State} {b e : Nat} {c : InCell}

/-- R394: a data cell at the head of an input of whose cells none waits for a place. -/
theorem State.carry_of_head (hc : (s.bent b).dataHead e = some c) (hgs : ∀ x ∈ (s.bent b).gs, x.egr ≠ e) :
    (s.reach b e c = .refused → s.carry b e = (s.setBent b ((s.bent b).pass e c none)).engFault c.side 0x0004) ∧
    (∀ t g, s.reach b e c = .girt t g → s.carry b e =
      { s.setBent b { s.bent b with gs := (s.bent b).gs ++ [{ cell := c.cell, side := c.side, egr := e, ing := c.ing, target := t
                                                              egress := g, stamp := s.nonce }] } with nonce := s.nonce + 1 }) ∧
    (∀ ps, s.reach b e c = .here → c.side.shadow = none →
      s.writePlaces b e c (blockPieces c.cell.addr.toNat c.cell.len.toNat) = .inr ps →
      s.carry b e = (s.setBent b ((s.bent b).pass e c none)).writeCell c ps) := by
  have hany1 : ((s.bent b).gs.any (fun x => x.egr == e && !x.cell.rmk)) = false :=
    List.any_eq_false.mpr (fun x hx => by simp [hgs x hx])
  have hany : ((s.bent b).gs.any (fun x => x.egr == e)) = false :=
    List.any_eq_false.mpr (fun x hx => by simp [hgs x hx])
  unfold State.carry
  simp only [hc, hany1, Bool.false_eq_true, if_false]
  refine ⟨fun h => by rw [h], fun t g h => ?_, fun ps h hs hp => ?_⟩
  · rw [h]
    simp only [hany, Bool.false_eq_true, if_false]
  · rw [h]
    simp only [hs, Bool.false_eq_true, if_false, hp]

theorem writeback_eq (he : e = 11 ∨ e = 12) : exec (.writeback b e) s = .next (s.carry b e) := if_pos he

theorem blockPieces_of_within {a n : Nat} (h : a % 256 + n ≤ 256) (hn : 0 < n) : blockPieces a n = [(0, n)] := by
  have hmin : Nat.min n (256 - a % 256) = n := Nat.min_eq_left (by omega)
  rw [blockPieces, hmin]
  simp only [Nat.lt_irrefl, if_false]
  exact if_neg (by omega)

end

/-! ### What stands at GS and GR -/

/-- A change that leaves what stands at the GR of a bent, and grants nothing of what stands at its GS. -/
def State.KeepsGirt (s u : State) (d : Nat) : Prop :=
  (u.bent d).gr = (s.bent d).gr ∧ ((∀ x ∈ (s.bent d).gs, x.granted = false) → ∀ x ∈ (u.bent d).gs, x.granted = false)

section
variable {s u v : State} {d : Nat}

theorem State.KeepsGirt.of_eq (h : ((u.bent d).gs, (u.bent d).gr) = ((s.bent d).gs, (s.bent d).gr)) : s.KeepsGirt u d := by
  obtain ⟨hgs, hgr⟩ := Prod.mk.inj h
  exact ⟨hgr, fun hx => hgs ▸ hx⟩

theorem State.KeepsGirt.trans (h : s.KeepsGirt u d) (h' : u.KeepsGirt v d) : s.KeepsGirt v d :=
  ⟨h'.1.trans h.1, fun hx => h'.2 (h.2 hx)⟩

theorem State.KeepsGirt.ite {q : Prop} [Decidable q] (h : s.KeepsGirt u d) (h' : s.KeepsGirt v d) :
    s.KeepsGirt (if q then u else v) d := by
  by_cases hq : q
  · rwa [if_pos hq]
  · rwa [if_neg hq]

/-- A bent whose GR is as it was, and at whose GS nothing granted has been added. -/
theorem State.KeepsGirt.of_setBent {b n : Nat} {B : Bent} (hgr : B.gr = (s.bent b).gr)
    (hgs : ∀ x ∈ B.gs, x ∈ (s.bent b).gs ∨ x.granted = false) : s.KeepsGirt { s.setBent b B with nonce := n } d := by
  have hbent : ({ s.setBent b B with nonce := n } : State).bent d = if d = b then B else s.bent d := State.bent_setBent ..
  unfold State.KeepsGirt
  rw [hbent]
  split
  · next h =>
    rw [h]
    exact ⟨hgr, fun hall x hx => (hgs x hx).elim (hall x) id⟩
  · exact ⟨rfl, id⟩

end

/-- R394: an engine that carries cells away leaves what is granted, and what stands at GR. -/
theorem State.keepsGirt_carry (s : State) (b e d : Nat) : s.KeepsGirt (s.carry b e) d := by
  have hpass (c : InCell) : (((s.setBent b ((s.bent b).pass e c none)).bent d).gs, ((s.setBent b ((s.bent b).pass e c none)).bent d).gr) =
      ((s.bent d).gs, (s.bent d).gr) := by
    rw [State.bent_setBent]
    split
    · next h => rw [h]; rfl
    · rfl
  unfold State.carry
  simp only []
  split
  · exact .of_eq rfl
  next c hc =>
  refine .ite (.of_eq rfl) ?_
  split
  · exact .of_eq ((State.bent_engFault_keeps (fun B => (B.gs, B.gr)) (fun _ _ => rfl) ..).trans (hpass c))
  · refine .ite (.of_eq rfl) (.of_setBent rfl (fun x hx => ?_))
    obtain hx | hx := List.mem_append.mp hx
    · exact .inl hx
    · rw [List.mem_singleton.mp hx]
      exact .inr rfl
  · refine .ite (.of_eq rfl) ?_
    have hplaces := s.writePlaces_keeps (fun B => (B.gs, B.gr)) (fun _ _ => rfl) b e c
      (blockPieces c.cell.addr.toNat c.cell.len.toNat) d
    split
    · exact .of_eq ((State.bent_writeCell_keeps (fun B => (B.gs, B.gr)) (fun _ _ => rfl) ..).trans (hpass c))
    · next t h => exact .of_eq (hplaces.1 t h)
    · next t cause h =>
      exact .of_eq ((State.bent_engFault_keeps (fun B => (B.gs, B.gr)) (fun _ _ => rfl) ..).trans
        ((State.bent_updBent_keeps (fun B => (B.gs, B.gr)) t b d (f := fun B => B.pass e c none) (fun B => rfl)).trans (hplaces.2 t cause h)))
    · exact .of_eq rfl

/-! ### GS sends what holds a place (R294) -/

theorem Bent.sent_keeps (B : Bent) (x : GsCell) : (B.sent x).gs = B.gs ∧ (B.sent x).gr = B.gr := by
  unfold Bent.sent
  split
  · exact ⟨rfl, rfl⟩
  · split <;> exact ⟨rfl, rfl⟩

theorem Bent.foldl_sent_keeps (l : List GsCell) (B : Bent) : (l.foldl Bent.sent B).gs = B.gs ∧ (l.foldl Bent.sent B).gr = B.gr := by
  induction l generalizing B with
  | nil => exact ⟨rfl, rfl⟩
  | cons x l ih =>
    obtain ⟨h1, h2⟩ := ih (B.sent x)
    obtain ⟨h3, h4⟩ := B.sent_keeps x
    exact ⟨h1.trans h3, h2.trans h4⟩

section
variable (ix : Nat)

/-- Cells that arrive at their targets. -/
def State.arriveAll (s : State) (l : List GsCell) : State :=
  l.foldl (fun t x => t.updBent x.target (fun T => { T with gr := T.gr ++ [x.place ix] })) s

theorem State.gs_arriveAll (s : State) (l : List GsCell) (d : Nat) : ((s.arriveAll ix l).bent d).gs = (s.bent d).gs := by
  induction l generalizing s with
  | nil => rfl
  | cons x l ih => exact (ih _).trans (State.bent_updBent_keeps Bent.gs _ _ _ (fun _ => rfl))

theorem State.mem_arriveAll (l : List GsCell) (s : State) :
    (∀ d, ∀ g ∈ (s.bent d).gr, g ∈ ((s.arriveAll ix l).bent d).gr) ∧
    ∀ x ∈ l, x.place ix ∈ ((s.arriveAll ix l).bent x.target).gr := by
  induction l generalizing s with
  | nil => exact ⟨fun d g h => h, fun x h => (nomatch h)⟩
  | cons x l ih =>
    obtain ⟨hold, hnew⟩ := ih (s.updBent x.target (fun T => { T with gr := T.gr ++ [x.place ix] }))
    refine ⟨fun d g hg => hold d g ?_, List.forall_mem_cons.mpr ⟨hold _ _ ?_, hnew⟩⟩
    · rw [State.bent_updBent]
      split
      · next h => exact List.mem_append_left _ (h ▸ hg)
      · exact hg
    · rw [State.bent_updBent, if_pos rfl]
      simp

end

theorem State.keepsGirt_gsMarker (s : State) (b d : Nat) : s.KeepsGirt (s.gsMarker b) d := by
  have hmark (c : InCell) : (((s.bent b).takeMarker egGS c).gs, ((s.bent b).takeMarker egGS c).gr) = ((s.bent b).gs, (s.bent b).gr) := by
    unfold Bent.takeMarker Bent.marked Bent.updPair
    simp only []
    split <;> split <;> rfl
  unfold State.gsMarker
  simp only []
  split
  · next c hc =>
    obtain ⟨hgs, hgr⟩ := Prod.mk.inj (hmark c)
    exact .ite (.of_setBent (n := s.nonce) hgr (fun x hx => .inl (hgs ▸ hx))) (.of_eq rfl)
  · exact .of_eq rfl

theorem Bent.markCopies_granted (B : Bent) (stamp e : Nat) (c : InCell) : ∀ x ∈ B.markCopies stamp e c, x.granted = false := by
  intro x hx
  obtain ⟨t, -, h⟩ := List.mem_filterMap.mp hx
  simp only [] at h
  split at h
  · exact nomatch h
  · obtain rfl := Option.some.inj h
    rfl

/-- R395: a marker that is due, sent on. -/
def Bent.sendOn (stamp : Nat) (B : Bent) (m : Nat × InCell) : Bent :=
  { B with
    gs := B.gs ++ B.markCopies stamp m.1 m.2
    gsSent := B.gsSent.filter (fun g => !g.is m.1 m.2.ing (issuerOf B.index m.2.ing m.2.side) m.2.cell.round) }

theorem Bent.foldl_sendOn_keeps (stamp : Nat) (l : List (Nat × InCell)) (B : Bent) : (l.foldl (Bent.sendOn stamp) B).gr = B.gr ∧
    ∀ x ∈ (l.foldl (Bent.sendOn stamp) B).gs, x ∈ B.gs ∨ x.granted = false := by
  induction l generalizing B with
  | nil => exact ⟨rfl, fun x hx => .inl hx⟩
  | cons m l ih =>
    obtain ⟨hgr, hgs⟩ := ih (Bent.sendOn stamp B m)
    refine ⟨hgr, fun x hx => (hgs x hx).elim (fun hx => ?_) .inr⟩
    exact (List.mem_append.mp hx).imp_right (B.markCopies_granted _ _ _ x)

/-- R395: markers sent on hold no place yet. -/
theorem State.keepsGirt_forwardMarks (s : State) (b d : Nat) : s.KeepsGirt (s.forwardMarks b) d := by
  obtain ⟨hgr, hgs⟩ := (s.bent b).foldl_sendOn_keeps s.nonce
    ((s.bent b).gsMarks.filter (fun m => decide (m.2.cell.arg.toNat ≤ (s.bent b).passedOf m.1 m.2)))
  exact .of_setBent hgr hgs

/-- R294: what GS sends is no longer there, and stands at its target. -/
theorem State.sendGranted_shows (s : State) (b : Nat) : (∀ x ∈ ((s.sendGranted b).bent b).gs, x.granted = false) ∧
    ∀ x ∈ (s.bent b).gs, x.granted = true → x.place (s.bent b).index ∈ ((s.sendGranted b).bent x.target).gr := by
  let out := (s.bent b).gs.filter (fun x => x.granted)
  let B1 := out.foldl Bent.sent { s.bent b with gs := (s.bent b).gs.filter (fun x => !x.granted) }
  have hu : s.sendGranted b = (s.setBent b B1).arriveAll (s.bent b).index out := rfl
  rw [hu]
  refine ⟨fun x hx => ?_, fun x hx hg => (State.mem_arriveAll _ out _).2 x (List.mem_filter.mpr ⟨hx, hg⟩)⟩
  have hgs : B1.gs = (s.bent b).gs.filter (fun x => !x.granted) := (Bent.foldl_sent_keeps out _).1
  rw [State.gs_arriveAll, State.bent_setBent, if_pos rfl, hgs] at hx
  simpa using (List.mem_filter.mp hx).2

theorem exec_girtSend (s : State) (b : Nat) : ∃ u, exec (.girtSend b) s = .next u ∧ (∀ x ∈ (u.bent b).gs, x.granted = false) ∧
    ∀ x ∈ (s.bent b).gs, x.granted = true → x.place (s.bent b).index ∈ (u.bent x.target).gr := by
  have hkeep (d : Nat) : (s.sendGranted b).KeepsGirt ((((s.sendGranted b).gsMarker b).carry b egGS).forwardMarks b) d :=
    ((State.keepsGirt_gsMarker ..).trans (State.keepsGirt_carry ..)).trans (State.keepsGirt_forwardMarks ..)
  obtain ⟨hnone, hsent⟩ := s.sendGranted_shows b
  exact ⟨_, rfl, (hkeep b).2 hnone, fun x hx hg => (hkeep x.target).1 ▸ hsent x hx hg⟩

/-! ### GR (R290, R294, R395) -/

theorem mem_grantFirst {y : GsCell} {l : List GsCell} (h : y ∈ l) : { y with granted := true } ∈ grantFirst y l := by
  induction l with
  | nil => exact nomatch h
  | cons x l ih =>
    rw [grantFirst]
    split
    · next hx => rw [hx]; exact List.mem_cons_self
    · next hx => exact List.mem_cons_of_mem _ (ih ((List.mem_cons.mp h).resolve_left (fun e => hx e.symm)))

section
variable {s : State} {b k : Nat} {p : GrPlace} (hk : (s.bent b).gr[k]? = some p) (hfirst : (s.bent b).grFirst p = true)
include hk hfirst

/-- R395: a marker whose only egress has room. -/
theorem exec_grEnqueue_of_marker (hr : p.cell.rmk = true) {g m : Nat} (hfan : p.fan = [(g, m)]) (hroom : (s.bent b).voqRoom 10 g 0 = true) :
    exec (.grEnqueue b k) s = .next (s.setBent b { (s.bent b).enqueue 10 g
      { p.cell with dest := oneHot g, arg := BitVec.ofNat 32 m } p.side with gr := (s.bent b).gr.eraseIdx k }) := by
  have hexec : exec (.grEnqueue b k) s = execGrEnqueue b k s := rfl
  have hpart : p.fan.partition (fun x => (s.bent b).voqRoom portGR x.1 0) = ([(g, m)], []) := by
    have hroom' : (s.bent b).voqRoom portGR g 0 = true := hroom
    simp [hfan, hroom']
  rw [hexec, execGrEnqueue]
  simp only [hk]
  rw [if_neg (by rw [hfirst]; decide), if_pos hr, Bent.fanOut, hpart]
  rfl

/-- R290: a data cell whose queue has room. -/
theorem exec_grEnqueue_of_data (hr : p.cell.rmk = false) (hroom : (s.bent b).voqRoom 10 p.egress p.cell.cls.toNat = true) :
    exec (.grEnqueue b k) s = .next (s.setBent b { (s.bent b).enqueue 10 p.egress p.cell p.side with
      gr := (s.bent b).gr.eraseIdx k }) := by
  have hexec : exec (.grEnqueue b k) s = execGrEnqueue b k s := rfl
  rw [hexec, execGrEnqueue]
  simp only [hk]
  rw [if_neg (by rw [hfirst]; decide), if_neg (by rw [hr]; decide)]
  exact if_pos hroom

end

end Sys2Proof.Machine

namespace Sys2Proof.Proofs

open Sys2Proof.Machine

/-- Settles O45: the cases of a cell carried away, and what GS and GR leave. -/
theorem writesBetweenBents : Obligations.WritesBetweenBents := by
  unfold Obligations.WritesBetweenBents
  intro s b c B gone
  refine ⟨fun hc hn => ?_, fun e he hc hgs => ⟨fun hr => ?_, fun loc hr hs ho hdet hblock hpos hp => ?_, fun t g hr => ?_⟩,
    exec_girtSend s b, fun hroom o y hy hmem => ?_, fun hfull => if_pos hfull, fun k p g m hk hfirst hr hfan hroom => ?_,
    fun k p hk hfirst hr hroom => ?_⟩
  · obtain ⟨v, hbytes, hfmt, htag, hpois, hexec⟩ := exec_sinkData_of_empty hc hn
    refine ⟨_, v, hexec, rfl, ?_, ?_, hbytes, hfmt, htag, hpois⟩
    · simp only [gone, State.bent_setBent, if_true, NMap.getD_set]
      rfl
    · simp only [State.bent_setBent, if_true, NMap.get?_set]
  · obtain ⟨hrefused, -⟩ := State.carry_of_head hc hgs
    refine ⟨_, (writeback_eq he).trans (congrArg _ (hrefused hr)), rfl, ?_⟩
    simp only [gone, State.bent_setBent, if_true, Bent.pass, NMap.getD_set]
    rfl
  · obtain ⟨-, -, hhere⟩ := State.carry_of_head hc hgs
    have hplaces : s.writePlaces b e c (blockPieces c.cell.addr.toNat c.cell.len.toNat) = .inr [(loc, 0, c.cell.len.toNat)] := by
      rw [blockPieces_of_within hblock hpos, State.writePlaces, hp]
      rfl
    have hlen : c.cell.bytes.length = c.cell.len.toNat := length_padTo ..
    have hbytes : (c.cell.bytes.drop 0).take c.cell.len.toNat = c.cell.bytes := by rw [List.drop_zero, ← hlen, List.take_length]
    let t := s.setBent b (B.pass e c none)
    let w := t.cellWriter c.cell c.side
    have hot : t.Ordered := ho
    have hd : (t.launch w.lid).det = false := by
      rw [State.cellWriter_lid]
      exact hdet
    have hbyte (y : Nat) : (t.writeCell c [(loc, 0, c.cell.len.toNat)]).byte y = (t.write w loc c.cell.bytes c.cell.poison).byte y :=
      congrArg (Memory.get · y) ((State.wrote_mem ..).trans (by rw [List.foldl_cons, hbytes]; rfl))
    refine ⟨_, (writeback_eq he).trans (congrArg _ (hhere _ hr hs hplaces)), ?_, fun y hy => ?_, fun j hj => ?_⟩
    · have hin := State.bent_writeCell_keeps Bent.inbuf (fun _ _ => rfl) t c [(loc, 0, c.cell.len.toNat)] b
      simp only [gone]
      rw [hin, State.bent_setBent, if_pos rfl, Bent.pass, NMap.getD_set, if_pos rfl]
      rfl
    · exact (hbyte y).trans (State.write_byte_of_outside _ _ _ _ _ _ hot (by rwa [hlen]))
    · rw [List.getD_eq_getElem _ _ (by rwa [hlen])]
      exact (hbyte _).trans (State.write_byte_inside _ _ _ _ _ _ hot hd (by rwa [hlen]))
  · obtain ⟨-, hgirt, -⟩ := State.carry_of_head hc hgs
    refine ⟨_, { cell := c.cell, side := c.side, egr := e, ing := c.ing, target := t, egress := g, stamp := s.nonce },
      (writeback_eq he).trans (congrArg _ (hgirt t g hr)), rfl, ?_, rfl, rfl, rfl, rfl, ?_⟩
    · exact congrArg Bent.gs ((State.bent_setBent ..).trans (if_pos rfl))
    · exact (congrArg Bent.inbuf ((State.bent_setBent ..).trans (if_pos rfl)) :)
  · have hexec : exec (.grReservation b) s = .next (s.updBent o (fun B => { B with gs := grantFirst y B.gs })) := by
      have h : exec (.grReservation b) s = execGrReservation b s := rfl
      rw [h, execGrReservation, if_neg (Nat.not_le.mpr hroom), hy]
    refine ⟨_, hexec, rfl, ?_⟩
    rw [State.bent_updBent, if_pos rfl]
    exact ⟨rfl, mem_grantFirst hmem⟩
  · refine ⟨_, exec_grEnqueue_of_marker hk hfirst hr hfan hroom, rfl, ?_⟩
    rw [State.bent_setBent, if_pos rfl]
    exact ⟨rfl, B.queued_enqueue 10 g { p.cell with dest := oneHot g, arg := BitVec.ofNat 32 m } p.side⟩
  · refine ⟨_, exec_grEnqueue_of_data hk hfirst hr hroom, rfl, ?_⟩
    rw [State.bent_setBent, if_pos rfl]
    exact ⟨rfl, B.queued_enqueue 10 p.egress p.cell p.side⟩

end Sys2Proof.Proofs

end
section
/-! PROOFS. The Mortise: the matching (R249 to R251), a slot (R247, R388), feedback ports (R219), ageing (R253), markers (R395)
and deadlocks (R256 to R258). -/

open Sys2Proof

namespace Sys2Proof.Machine

/-! ### The matching is sound -/

theorem foldl_least_mem {α : Type} (key : α → Nat) (l : List α) (x : α) :
    l.foldl (fun m y => if key y < key m then y else m) x ∈ x :: l := by
  induction l generalizing x with
  | nil => exact List.mem_cons_self
  | cons y l ih =>
    rw [List.foldl_cons]
    split
    · exact List.mem_cons_of_mem _ (ih y)
    · rcases List.mem_cons.mp (ih x) with h | h
      · rw [h]; exact List.mem_cons_self
      · exact List.mem_cons_of_mem _ (List.mem_cons_of_mem _ h)

theorem leastBy_mem {α : Type} {key : α → Nat} {l : List α} {x : α} (h : leastBy key l = some x) : x ∈ l := by
  cases l with
  | nil => exact nomatch h
  | cons y l => exact Option.some.inj h ▸ foldl_least_mem key l y

theorem Bent.best_reaches {B : Bent} {i e : Nat} {nom : Option HeadId} {r : Req} (h : B.best i e nom = some r) :
    B.reaches i r.head e = true := by
  unfold Bent.best at h
  split at h
  · next hd hn =>
    obtain rfl := Option.some.inj h
    exact (Option.filter_eq_some_iff.mp hn).2
  · obtain ⟨hd, hl, rfl⟩ := Option.map_eq_some_iff.mp h
    exact (List.mem_filter.mp (leastBy_mem hl)).2

theorem Matching.request_reaches {M : Matching} {B : Bent} {noms : NMap HeadId} {i e : Nat} {r : Req}
    (h : M.request B noms i e = some r) : B.reaches i r.head e = true := by
  unfold Matching.request at h
  split at h
  · exact Bent.best_reaches h
  · split at h
    · next hr =>
      obtain rfl := Option.some.inj h
      exact hr
    · exact nomatch h
  · exact nomatch h

/-- R250: an egress grants a request for one of its copies. -/
theorem Matching.grant_reaches {M : Matching} {B : Bent} {noms : NMap HeadId} {e : Nat} {x : Nat × Req}
    (h : M.grant B noms e = some x) : B.reaches x.1 x.2.head e = true := by
  unfold Matching.grant at h
  simp only [] at h
  split at h
  · exact nomatch h
  · obtain ⟨i, -, hi⟩ := List.exists_of_findSome?_eq_some h
    obtain ⟨j, -, hj⟩ := List.mem_filterMap.mp (List.mem_of_find?_eq_some hi)
    obtain ⟨r, hr, rfl⟩ := Option.map_eq_some_iff.mp hj
    exact Matching.request_reaches hr

/-- R250, R251: what an ingress accepts, it was granted, and no egress twice. -/
theorem Matching.accept_spec (M : Matching) (i : Nat) (gs : List (Nat × Req)) (first : Bool) (hgs : (gs.map (fun g => g.1)).Nodup) :
    ∃ A : List (Nat × Req), (∀ g ∈ A, g ∈ gs) ∧ (A.map (fun g => g.1)).Nodup ∧
      (M.accept i gs first).grants = M.grants ++ A.map (fun x => (i, x.1, x.2.head)) ∧
      (M.accept i gs first).matched = M.matched ++ A.map (fun x => x.1) := by
  unfold Matching.accept
  simp only []
  split
  · exact ⟨[], fun g h => (nomatch h), List.nodup_nil, by simp, by simp⟩
  next g hg =>
  have hmem : g ∈ gs := by
    obtain ⟨e, -, he⟩ := List.mem_filterMap.mp (leastBy_mem hg)
    exact List.mem_of_find?_eq_some he
  let multis := gs.filter (fun g => g.2.head == .multi)
  have hsub : multis.Sublist gs := List.filter_sublist
  have hA : ∀ A : List (Nat × Req), A = (if NMap.has M.held i then multis else if g.2.head = .multi then multis else [g]) →
      (∀ x ∈ A, x ∈ gs) ∧ (A.map (fun g => g.1)).Nodup := by
    rintro A rfl
    split
    · exact ⟨hsub.subset, hgs.sublist (hsub.map _)⟩
    · split
      · exact ⟨hsub.subset, hgs.sublist (hsub.map _)⟩
      · exact ⟨fun x hx => List.mem_singleton.mp hx ▸ hmem, List.nodup_singleton _⟩
  obtain ⟨hin, hnd⟩ := hA _ rfl
  refine ⟨_, hin, hnd, ?_, ?_⟩
  · split <;> rfl
  · split <;> rfl

/-- A matching all of whose grants are of copies, at egresses with space, each matched once. -/
def Matching.Sound (M : Matching) (B : Bent) : Prop :=
  (∀ g ∈ M.grants, B.reaches g.1 g.2.2 g.2.1 = true ∧ B.space g.2.1 = true) ∧
  (M.grants.map (fun g => g.2.1)).Nodup ∧ ∀ g ∈ M.grants, g.2.1 ∈ M.matched

/-- R250: the ingresses of a list accept in turn what a slot's egresses grant them. -/
theorem Matching.sound_accepts {B : Bent} {gs : List (Nat × Nat × Req)} (first : Bool) (hnd : (gs.map (fun g => g.1)).Nodup)
    (hgs : ∀ g ∈ gs, B.reaches g.2.1 g.2.2.head g.1 = true ∧ B.space g.1 = true) (l : List Nat) (hl : l.Nodup) :
    ∀ M : Matching, M.Sound B → (∀ g ∈ gs, g.2.1 ∈ l → g.1 ∉ M.matched) →
      (l.foldl (fun M i => M.accept i ((gs.filter (fun g => g.2.1 == i)).map (fun g => (g.1, g.2.2))) first) M).Sound B := by
  induction l with
  | nil => exact fun M h _ => h
  | cons i l ih =>
    intro M hM hfree
    obtain ⟨hi, hl⟩ := List.nodup_cons.mp hl
    obtain ⟨hreach, hdist, hmatched⟩ := hM
    have hndi : (((gs.filter (fun g => g.2.1 == i)).map (fun g => (g.1, g.2.2))).map (fun g => g.1)).Nodup := by
      rw [List.map_map]
      exact hnd.sublist (List.filter_sublist.map _)
    obtain ⟨A, hA, hAnd, hgrants, hmat⟩ := M.accept_spec i _ first hndi
    have hAmem (x : Nat × Req) (hx : x ∈ A) : (x.1, i, x.2) ∈ gs := by
      obtain ⟨g, hg, rfl⟩ := List.mem_map.mp (hA x hx)
      obtain ⟨hg, hgi⟩ := List.mem_filter.mp hg
      rwa [← (beq_iff_eq.mp hgi : g.2.1 = i)]
    refine ih hl _ ⟨?_, ?_, ?_⟩ ?_
    · rw [hgrants]
      intro g hg
      obtain hg | hg := List.mem_append.mp hg
      · exact hreach g hg
      · obtain ⟨x, hx, rfl⟩ := List.mem_map.mp hg
        exact hgs _ (hAmem x hx)
    · rw [hgrants, List.map_append, List.map_map]
      refine List.nodup_append.mpr ⟨hdist, hAnd, fun a ha e he hae => ?_⟩
      obtain ⟨g, hg, rfl⟩ := List.mem_map.mp ha
      obtain ⟨x, hx, rfl⟩ := List.mem_map.mp he
      have hae : g.2.1 = x.1 := hae
      exact hfree _ (hAmem x hx) List.mem_cons_self (hae ▸ hmatched g hg)
    · rw [hgrants, hmat]
      intro g hg
      obtain hg | hg := List.mem_append.mp hg
      · exact List.mem_append_left _ (hmatched g hg)
      · obtain ⟨x, hx, rfl⟩ := List.mem_map.mp hg
        exact List.mem_append_right _ (List.mem_map_of_mem hx)
    · intro g hg hgl
      rw [hmat]
      intro hmem
      obtain hmem | hmem := List.mem_append.mp hmem
      · exact hfree g hg (List.mem_cons_of_mem _ hgl) hmem
      · obtain ⟨x, hx, hxe⟩ := List.mem_map.mp hmem
        have heq : g = (x.1, i, x.2) := List.inj_on_of_nodup_map hnd hg (hAmem x hx) hxe.symm
        exact hi (by rw [heq] at hgl; exact hgl)

theorem map_fst_filterMap_sublist {α β : Type} (f : α → Option β) (l : List α) :
    ((l.filterMap (fun e => (f e).map (fun x => (e, x)))).map Prod.fst).Sublist l := by
  induction l with
  | nil => exact List.Sublist.refl _
  | cons e l ih =>
    cases hf : f e with
    | none => rw [List.filterMap_cons_none (by rw [hf]; rfl)]; exact ih.cons _
    | some x =>
      rw [List.filterMap_cons_some (b := (e, x)) (by rw [hf]; rfl), List.map_cons]
      exact ih.cons_cons _

theorem Matching.sound_iterate {M : Matching} {B : Bent} (noms : NMap HeadId) (first : Bool) (h : M.Sound B) :
    (M.iterate B noms first).Sound B := by
  have hmem : ∀ g ∈ ((List.range 16).filter (fun e => B.space e && !M.matched.contains e)).filterMap (fun e =>
      (M.grant B noms e).map (fun x => (e, x.1, x.2))),
      M.grant B noms g.1 = some g.2 ∧ B.space g.1 = true ∧ g.1 ∉ M.matched := by
    intro g hg
    obtain ⟨e, he, hmap⟩ := List.mem_filterMap.mp hg
    obtain ⟨x, hx, rfl⟩ := Option.map_eq_some_iff.mp hmap
    obtain ⟨-, he⟩ := List.mem_filter.mp he
    obtain ⟨hs, hm⟩ := Bool.and_eq_true_iff.mp he
    exact ⟨hx, hs, by simpa using hm⟩
  refine Matching.sound_accepts first ?_ (fun g hg => ⟨Matching.grant_reaches (hmem g hg).1, (hmem g hg).2.1⟩) _ List.nodup_range M h
    (fun g hg _ => (hmem g hg).2.2)
  exact List.nodup_range.sublist ((map_fst_filterMap_sublist (M.grant B noms) _).trans List.filter_sublist)

/-- R250: the matching of a slot. -/
theorem Bent.sound_match3 (B : Bent) : B.match3.Sound B := by
  have h0 : ({ gp := B.gp, ap := B.ap, acp := B.acp } : Matching).Sound B :=
    ⟨fun g h => (nomatch h), List.nodup_nil, fun g h => (nomatch h)⟩
  unfold Bent.match3
  exact Matching.sound_iterate _ _ (Matching.sound_iterate _ _ (Matching.sound_iterate _ _ h0))

/-! ### A slot (R247, R250, R388) -/

/-- A fold of steps that each keep a part of a bent. -/
theorem Bent.foldl_keeps {α β : Type} (p : Bent → α) {f : Bent → β → Bent} (hf : ∀ B x, p (f B x) = p B) (l : List β) (B : Bent) :
    p (l.foldl f B) = p B := by
  induction l generalizing B with
  | nil => rfl
  | cons x l ih => exact (ih _).trans (hf B x)

section
variable {α : Type} (p : Bent → α) (hq : ∀ B m q l, p { B with voq := m, mq := q, landing := l } = p B)
include hq

theorem Bent.updHead_keeps (B : Bent) (i : Nat) (h : HeadId) (f : QCell → QCell) : p (B.updHead i h f) = p B := by
  unfold Bent.updHead
  split
  · split
    · rfl
    · exact hq B _ B.mq B.landing
  · split
    · rfl
    · exact hq B B.voq _ B.landing

theorem Bent.move_keeps (B : Bent) (g : Nat × Nat × HeadId) : p (B.move g) = p B := by
  unfold Bent.move
  simp only []
  split
  · rfl
  · split
    · exact hq B _ B.mq _
    · split
      · exact hq B B.voq _ _
      · exact (Bent.updHead_keeps p hq ..).trans (hq B B.voq B.mq _)

theorem Bent.markAged_keeps (B : Bent) : p B.markAged = p B :=
  Bent.foldl_keeps p (fun _ _ => Bent.foldl_keeps p (fun _ _ => Bent.updHead_keeps p hq ..) ..) ..

theorem Bent.grow_keeps (B : Bent) (M : Matching) : p (B.grow M) = p B := by
  refine Bent.foldl_keeps p (fun A i => Bent.foldl_keeps p (fun A x => ?_) ..) ..
  split
  · exact Bent.updHead_keeps p hq ..
  · rfl

theorem Bent.slotOf_keeps (hl : ∀ B l, p { B with stills := l } = p B)
    (hg : ∀ B g a c n, p { B with gp := g, ap := a, acp := c, slot := n } = p B) (B : Bent) : p B.slotOf = p B := by
  refine ((hl _ _).trans (hg _ _ _ _ _)).trans ((Bent.foldl_keeps p (Bent.move_keeps p hq) ..).trans ?_)
  exact (Bent.grow_keeps p hq ..).trans (Bent.markAged_keeps p hq B)

end

theorem Bent.slot_slotOf (B : Bent) : B.slotOf.slot = B.slot + 1 := by
  have hq (B : Bent) (m q l) : ({ B with voq := m, mq := q, landing := l } : Bent).slot = B.slot := rfl
  refine congrArg (· + 1) ((Bent.foldl_keeps Bent.slot (Bent.move_keeps Bent.slot hq) ..).trans ?_)
  exact (Bent.grow_keeps Bent.slot hq ..).trans (Bent.markAged_keeps Bent.slot hq B)

theorem Bent.updPair_keeps {α : Type} (p : Bent → α) (hp : ∀ B l, p { B with pairs := l } = p B) (B : Bent) (ing egr issuer : Nat)
    (round : BitVec 16) (f : Pair → Pair) : p (B.updPair ing egr issuer round f) = p B := by
  unfold Bent.updPair
  split
  · exact hp B _
  · exact hp B _

theorem State.bent_startRollback (s : State) (lid b : Nat) : (s.startRollback lid).bent b = s.bent b := by
  unfold State.startRollback
  split
  · rfl
  · split <;> rfl

/-- R79, R247: a sound cell stands behind the others at its egress; no other is there. -/
theorem State.inbuf_land (s : State) (b : Nat) (x : Nat × InCell) (e : Nat) :
    NMap.getD ((s.land b x).bent b).inbuf e [] =
      NMap.getD (s.bent b).inbuf e [] ++ ([x].filter (fun x => x.2.cell.hcrc == x.2.cell.crc && x.1 == e)).map (fun x => x.2) := by
  unfold State.land
  simp only []
  split
  · next h =>
    rw [State.bent_startRollback]
    simp [h]
    rfl
  · next h =>
    rw [State.bent_updBent, if_pos rfl]
    have hin : (if x.2.cell.rmk = true then { s.bent b with inbuf := NMap.set (s.bent b).inbuf x.1 ((s.bent b).buffer x.1 ++ [x.2]) }
        else ({ s.bent b with inbuf := NMap.set (s.bent b).inbuf x.1 ((s.bent b).buffer x.1 ++ [x.2]) } : Bent).arrived
          x.2.ing x.1 x.2.cell x.2.side).inbuf = NMap.set (s.bent b).inbuf x.1 ((s.bent b).buffer x.1 ++ [x.2]) := by
      split
      · rfl
      · exact Bent.updPair_keeps Bent.inbuf (fun _ _ => rfl) ..
    have hsound : (x.2.cell.hcrc == x.2.cell.crc) = true := by simpa using h
    refine (congrArg (NMap.getD · e []) hin).trans ?_
    rw [NMap.getD_set]
    by_cases he : e = x.1
    · subst he
      simp [hsound, Bent.buffer]
    · have he' : (x.1 == e) = false := by simpa using fun h => he h.symm
      simp [he, he']

theorem State.land_keeps {α : Type} (p : Bent → α) (hp : ∀ B m l, p { B with inbuf := m, pairs := l } = p B) (s : State) (b : Nat)
    (x : Nat × InCell) : p ((s.land b x).bent b) = p (s.bent b) := by
  unfold State.land
  simp only []
  split
  · exact congrArg p (State.bent_startRollback ..)
  · rw [State.bent_updBent, if_pos rfl]
    split
    · exact hp _ _ _
    · exact (Bent.updPair_keeps p (fun B l => hp B B.inbuf l) ..).trans (hp _ _ _)

end Sys2Proof.Machine
end
section
/-! PROOFS. The steps of the Mortise: slots, feedback ports, ageing, markers and deadlocks. -/

open Sys2Proof

namespace Sys2Proof.Machine

/-! ### Slots -/

theorem exec_mortiseSlot_of_gated {s : State} {b : Nat} (h : (s.bent b).gateCount % 16 < s.device.gate) :
    exec (.mortiseSlot b) s = .next (s.setBent b (s.bent b).nextSlot) := if_pos h

/-- What lands at the start of a slot. -/
def State.landAll (s : State) (b : Nat) (l : List (Nat × InCell)) : State := l.foldl (fun t x => t.land b x) s

theorem exec_mortiseSlot_of_open {s : State} {b : Nat} (h : s.device.gate ≤ (s.bent b).gateCount % 16) :
    exec (.mortiseSlot b) s = .next (((s.setBent b { (s.bent b).nextSlot with landing := [] }).landAll b (s.bent b).landing).updBent b
      Bent.slotOf) := if_neg (Nat.not_lt.mpr h)

section
variable (b : Nat) (l : List (Nat × InCell)) (s : State)

theorem State.mem_landAll : (s.landAll b l).mem = s.mem := by
  unfold State.landAll
  induction l generalizing s with
  | nil => rfl
  | cons x l ih => rw [List.foldl_cons, ih, State.land_mem]

theorem State.landAll_keeps {α : Type} (p : Bent → α) (hp : ∀ B m l, p { B with inbuf := m, pairs := l } = p B) :
    p ((s.landAll b l).bent b) = p (s.bent b) := by
  induction l generalizing s with
  | nil => rfl
  | cons x l ih => exact (ih _).trans (State.land_keeps p hp ..)

theorem State.inbuf_landAll (e : Nat) : NMap.getD ((s.landAll b l).bent b).inbuf e [] =
    NMap.getD (s.bent b).inbuf e [] ++ (l.filter (fun x => x.2.cell.hcrc == x.2.cell.crc && x.1 == e)).map (fun x => x.2) := by
  induction l generalizing s with
  | nil => exact (List.append_nil _).symm
  | cons x l ih =>
    refine (ih _).trans ?_
    rw [State.inbuf_land, List.append_assoc, ← List.map_append, ← List.filter_append]
    rfl

end

/-! ### Feedback ports (R219) -/

/-- A queue that holds what it held and more. -/
def Bent.Longer (B C : Bent) (i e c : Nat) : Prop := ∃ rest, C.queued i e c = B.queued i e c ++ rest

theorem Bent.longer_enqueue (B : Bent) (f g : Nat) (x : Cell) (d : Side) (i e c : Nat) : B.Longer (B.enqueue f g x d) i e c := by
  unfold Bent.Longer Bent.queued Bent.sub Bent.enqueue
  simp only [NMap.getD_set]
  split
  · next h => exact ⟨[x.seal], by rw [Bent.sub, h, List.map_append]; rfl⟩
  · exact ⟨[], (List.append_nil _).symm⟩

/-- R219: one marker of a feedback port sent where it is due and finds room. -/
def State.sendFbMark (b lid : Nat) (s : State) (x : Nat × Nat) : State :=
  let m := fbMarker b (s.launch lid).ctx (x.1 / 65536 / 16) (x.1 / 65536 % 16) (BitVec.ofNat 16 (x.1 % 65536)) x.2
  if (s.bent b).fbPassed (x.1 / 65536 / 16) (BitVec.ofNat 16 (x.1 % 65536)) && (s.bent b).voqRoom (x.1 / 65536 / 16) (x.1 / 65536 % 16) 0 then
    s.setBent b { (s.bent b).enqueue (x.1 / 65536 / 16) (x.1 / 65536 % 16) m.1 { m.2.1 with lid := lid } with
      fbSent := NMap.erase (s.bent b).fbSent x.1 }
  else s

/-- A bent that has emitted no more or less, with a longer queue. -/
def Bent.Grows (B C : Bent) (i e c : Nat) : Prop := C.emit = B.emit ∧ B.Longer C i e c

theorem Bent.Grows.refl (B : Bent) (i e c : Nat) : B.Grows B i e c := ⟨rfl, [], (List.append_nil _).symm⟩

theorem Bent.Grows.trans {B C D : Bent} {i e c : Nat} (h : B.Grows C i e c) (h' : C.Grows D i e c) : B.Grows D i e c := by
  obtain ⟨h1, l, hl⟩ := h
  obtain ⟨h2, m, hm⟩ := h'
  exact ⟨h2.trans h1, l ++ m, by rw [hm, hl, List.append_assoc]⟩

theorem State.sendFbMark_grows (b lid : Nat) (s : State) (x : Nat × Nat) (i e c : Nat) :
    (s.bent b).Grows ((s.sendFbMark b lid x).bent b) i e c := by
  unfold State.sendFbMark
  simp only []
  split
  · rw [State.bent_setBent, if_pos rfl]
    exact ⟨rfl, Bent.longer_enqueue ..⟩
  · exact .refl ..

/-- R219: a feedback port that sends its markers adds to its queues, and leaves what engines have emitted. -/
theorem State.sendFbMarks_grows (s : State) (b i e c : Nat) : (s.bent b).Grows ((s.sendFbMarks b).bent b) i e c := by
  have hfold (lid : Nat) (l : List (Nat × Nat)) : ∀ s : State, (s.bent b).Grows ((l.foldl (State.sendFbMark b lid) s).bent b) i e c := by
    induction l with
    | nil => exact fun s => .refl ..
    | cons x l ih => exact fun s => (State.sendFbMark_grows ..).trans (ih _)
  unfold State.sendFbMarks
  split
  · exact .refl ..
  · next lid _ => exact hfold lid _ s

/-- R236, R299: what the acceptance of a cell brings about leaves queues and emissions. -/
theorem State.accepted_keeps {α : Type} (p : Bent → α) (hp : ∀ B m t, p { B with mx := m, tenons := t } = p B) (s : State) (b e : Nat)
    (x : OnAccept) : p ((s.accepted b e x).bent b) = p (s.bent b) := by
  have htenon (t : Nat) (f : Tenon → Tenon) : p ((s.updBent b (fun B => B.updTenon t f)).bent b) = p (s.bent b) :=
    State.bent_updBent_keeps p _ _ _ (fun B => hp B B.mx _)
  unfold State.accepted
  simp only []
  split
  · rfl
  · exact congrArg p (State.bent_updLaunch ..)
  · exact State.bent_updBent_keeps p _ _ _ (fun B => hp B _ B.tenons)
  · split
    · exact (congrArg p (State.bent_updLaunch ..)).trans (htenon ..)
    · exact htenon ..
  · exact htenon ..

/-- R219: a feedback port with room accepts the oldest result of an engine. -/
theorem exec_feedbackAccept_of_unicast {s : State} {b e f : Nat} {m : Emission} {ms : List Emission} (hf : fbOf e = some f)
    (hm : NMap.getD (s.bent b).emit e [] = m :: ms) (hroom : (s.bent b).fbRoom f m.cell = true) (hone : popMask m.cell.dest = 1) :
    exec (.feedbackAccept b e) s = .next (((s.setBent b ((({ s.bent b with emit := NMap.set (s.bent b).emit e ms } : Bent).enqueue f
      (firstEgress m.cell.dest) m.cell m.side).fbCount f m.cell)).accepted b e m.done).sendFbMarks b) := by
  have hexec : exec (.feedbackAccept b e) s = execFeedbackAccept b e s := rfl
  rw [hexec, execFeedbackAccept]
  simp only [hf, hm]
  rw [if_pos hroom, if_pos hone]

/-! ### Heads (R253) and markers (R395) -/

theorem Bent.headCell_updHead {B : Bent} {i : Nat} {h : HeadId} {q : QCell} (hq : B.headCell i h = some q) (f : QCell → QCell) :
    (B.updHead i h f).headCell i h = some (f q) := by
  cases h with
  | uni e c =>
    obtain ⟨qs, hqs⟩ := List.head?_eq_some_iff.mp hq
    simp only [Bent.updHead, hqs]
    simp only [Bent.headCell, Bent.sub, NMap.getD_set, if_true, List.head?_cons]
  | multi =>
    obtain ⟨qs, hqs⟩ := List.head?_eq_some_iff.mp hq
    simp only [Bent.updHead, hqs]
    simp only [Bent.headCell, Bent.mcast, NMap.getD_set, if_true, List.head?_cons]

theorem Bent.mem_updPair (B : Bent) (ing egr issuer : Nat) (round : BitVec 16) {f : Pair → Pair}
    (hf : ∀ p, (f p).is ing egr issuer round = p.is ing egr issuer round) :
    ∃ p, f p ∈ (B.updPair ing egr issuer round f).pairs ∧ (f p).is ing egr issuer round = true := by
  unfold Bent.updPair
  split
  · next h =>
    obtain ⟨p, hp, his⟩ := List.any_eq_true.mp h
    refine ⟨p, List.mem_map.mpr ⟨p, hp, if_pos his⟩, (hf p).trans his⟩
  · exact ⟨_, List.mem_append_right _ List.mem_cons_self, (hf _).trans (by simp [Pair.is])⟩

theorem Bent.takeMarker_shows (B : Bent) (e : Nat) (c : InCell) :
    NMap.getD (B.takeMarker e c).inbuf e [] = (NMap.getD B.inbuf e []).drop 1 ∧
    ∃ p ∈ (B.takeMarker e c).pairs, p.is c.ing e (issuerOf B.index c.ing c.side) c.cell.round = true ∧
      p.marker = some c.cell.arg.toNat := by
  let B1 := ({ B with inbuf := NMap.set B.inbuf e ((B.buffer e).drop 1) } : Bent).marked c.ing e c.cell c.side
  have hkeep {α : Type} (p : Bent → α) (hp : ∀ B l, p { B with gsMarks := l } = p B) : p (B.takeMarker e c) = p B1 := by
    unfold Bent.takeMarker
    simp only []
    split
    · exact hp _ _
    · rfl
  obtain ⟨p, hp, his⟩ := Bent.mem_updPair ({ B with inbuf := NMap.set B.inbuf e ((B.buffer e).drop 1) } : Bent) c.ing e
    (issuerOf B.index c.ing c.side) c.cell.round (f := fun p => { p with marker := some c.cell.arg.toNat }) (fun _ => rfl)
  refine ⟨?_, _, (hkeep Bent.pairs (fun _ _ => rfl)).symm ▸ hp, his, rfl⟩
  rw [hkeep Bent.inbuf (fun _ _ => rfl)]
  refine (congrArg (NMap.getD · e []) (Bent.updPair_keeps Bent.inbuf (fun _ _ => rfl) ..)).trans ?_
  rw [NMap.getD_set, if_pos rfl]
  rfl

theorem exec_markerReceipt_of_marker {s : State} {b e : Nat} {c : InCell} (hc : (NMap.getD (s.bent b).inbuf e []).head? = some c)
    (hr : c.cell.rmk = true) (he : e ≠ 13) : exec (.markerReceipt b e) s = .next (s.setBent b ((s.bent b).takeMarker e c)) := by
  have hexec : exec (.markerReceipt b e) s = execMarkerReceipt b e s := rfl
  have hc' : ((s.bent b).buffer e).head? = some c := hc
  rw [hexec, execMarkerReceipt]
  simp only [hc']
  exact if_pos (by simpa [hr, egGS] using he)

/-! ### Deadlocks (R257, R258) -/

/-- R257: a cycle that has stood still. -/
theorem exec_deadlockDetection_of_still {s : State} {b k : Nat} {t : Still} (ht : (s.bent b).stills[k]? = some t)
    (hc : (s.bent b).dlLive ≤ t.count) : exec (.deadlockDetection b k) s = .next
      ((s.cycleStrands b t.queues).foldl (fun u o => u.raiseTrap o.1 o.2.1 o.2.2 { cause := 0x0040 })
        (s.setBent b
          { s.bent b with dlsnap := (s.bent b).snapshot s.dtime t.queues, stills := (s.bent b).stills.set k { t with count := 0 } })) := by
  have hexec : exec (.deadlockDetection b k) s = execDeadlockDetection b k s := rfl
  rw [hexec, execDeadlockDetection]
  simp only [ht]
  exact if_neg (Nat.not_lt.mpr hc)

theorem State.bent_raiseTrap_keeps {α : Type} (p : Bent → α) (hs : ∀ B m, p { B with strands := m } = p B) (s : State) (lid ob os : Nat)
    (x : PendTrap) (b : Nat) : p ((s.raiseTrap lid ob os x).bent b) = p (s.bent b) := by
  unfold State.raiseTrap
  split
  · exact (congrArg p (State.bent_updLaunch ..)).trans (State.bent_updOwner_keeps p hs ..)
  · exact congrArg p (State.bent_launchFault ..)

theorem State.foldl_raiseTrap_keeps {α : Type} (p : Bent → α) (hs : ∀ B m, p { B with strands := m } = p B) (l : List (Nat × Nat × Nat))
    (x : PendTrap) (b : Nat) (s : State) :
    p ((l.foldl (fun u o => u.raiseTrap o.1 o.2.1 o.2.2 x) s).bent b) = p (s.bent b) ∧
      (l.foldl (fun u o => u.raiseTrap o.1 o.2.1 o.2.2 x) s).mem = s.mem := by
  induction l generalizing s with
  | nil => exact ⟨rfl, rfl⟩
  | cons o l ih =>
    obtain ⟨h1, h2⟩ := ih (s.raiseTrap o.1 o.2.1 o.2.2 x)
    exact ⟨h1.trans (State.bent_raiseTrap_keeps p hs ..), h2.trans (State.raiseTrap_mem ..)⟩

end Sys2Proof.Machine

namespace Sys2Proof.Proofs

open Sys2Proof.Machine

/-- Settles O46: soundness of the matching by an invariant of its iterations; each step of the Mortise by what it leaves. -/
theorem mortiseMatchingAndSteps : Obligations.MortiseMatchingAndSteps := by
  unfold Obligations.MortiseMatchingAndSteps
  refine ⟨fun B => ?_, fun s b e => ?_⟩
  · obtain ⟨hreach, hnd, -⟩ := B.sound_match3
    exact ⟨fun g hg => ⟨(hreach g hg).1, of_decide_eq_true (hreach g hg).2⟩, hnd⟩
  intro B sound
  refine ⟨fun h => ?_, fun h => ?_, fun f m ms hf hm hroom hone => ?_, fun i h q hq hcls => ?_, fun c hc hr he => ?_,
    fun k t ht hcount => ?_⟩
  · refine ⟨_, exec_mortiseSlot_of_gated h, rfl, ?_⟩
    rw [State.bent_setBent, if_pos rfl]
    exact ⟨rfl, rfl, rfl, rfl, rfl, rfl, rfl⟩
  · refine ⟨_, exec_mortiseSlot_of_open h, State.mem_landAll .., ?_⟩
    rw [State.bent_updBent, if_pos rfl]
    have hland {α : Type} (p : Bent → α) (hp : ∀ B m l, p { B with inbuf := m, pairs := l } = p B) :=
      (State.landAll_keeps b B.landing (s.setBent b { B.nextSlot with landing := [] }) p hp).trans
        (congrArg p ((State.bent_setBent ..).trans (if_pos rfl)))
    refine ⟨?_, ?_, ?_, fun e => ?_⟩
    · rw [Bent.slot_slotOf]
      exact congrArg (· + 1) (hland Bent.slot (fun _ _ _ => rfl))
    · exact (Bent.slotOf_keeps Bent.dlLive (fun _ _ _ _ => rfl) (fun _ _ => rfl) (fun _ _ _ _ _ => rfl) _).trans
        (hland Bent.dlLive (fun _ _ _ => rfl))
    · exact (Bent.slotOf_keeps Bent.ageLive (fun _ _ _ _ => rfl) (fun _ _ => rfl) (fun _ _ _ _ _ => rfl) _).trans
        (hland Bent.ageLive (fun _ _ _ => rfl))
    · rw [Bent.slotOf_keeps Bent.inbuf (fun _ _ _ _ => rfl) (fun _ _ => rfl) (fun _ _ _ _ _ => rfl), State.inbuf_landAll,
        State.bent_setBent, if_pos rfl]
      rfl
  · let B1 := (({ B with emit := NMap.set B.emit e ms } : Bent).enqueue f (firstEgress m.cell.dest) m.cell m.side).fbCount f m.cell
    let t := (s.setBent b B1).accepted b e m.done
    have hkeep {α : Type} (p : Bent → α) (hp : ∀ B m t, p { B with mx := m, tenons := t } = p B) : p (t.bent b) = p B1 :=
      (State.accepted_keeps p hp ..).trans (congrArg p ((State.bent_setBent ..).trans (if_pos rfl)))
    obtain ⟨hemit, rest, hrest⟩ := t.sendFbMarks_grows b f (firstEgress m.cell.dest) m.cell.cls.toNat
    have hq : B1.queued f (firstEgress m.cell.dest) m.cell.cls.toNat = B.queued f (firstEgress m.cell.dest) m.cell.cls.toNat ++ [m.cell.seal] :=
      Bent.queued_enqueue { B with emit := NMap.set B.emit e ms } f _ m.cell m.side
    refine ⟨_, rest, exec_feedbackAccept_of_unicast hf hm hroom hone, ?_, ?_, ?_⟩
    · exact (State.sendFbMarks_mem ..).trans (State.accepted_mem ..)
    · rw [hemit, hkeep Bent.emit (fun _ _ _ => rfl)]
      exact (NMap.getD_set ..).trans (if_pos rfl)
    · rw [hrest, hkeep (fun B => B.queued f (firstEgress m.cell.dest) m.cell.cls.toNat) (fun _ _ _ => rfl), hq, List.append_assoc]
      rfl
  · have hexec : exec (.headAged b i h) s = .next (s.updBent b (fun B => B.markHead i h)) := by
      have hx : exec (.headAged b i h) s = execHeadAged b i h s := rfl
      rw [hx, execHeadAged, hq]
      exact if_neg hcls
    refine ⟨_, q.mark B.ageLive B.slot, hexec, rfl, ?_, ?_⟩
    · rw [State.bent_updBent, if_pos rfl]
      exact Bent.headCell_updHead hq _
    · unfold QCell.mark
      split
      · next hlt => exact ⟨rfl, rfl, fun _ => rfl, fun hle => absurd hlt (Nat.not_lt.mpr hle)⟩
      · next hlt => exact ⟨rfl, rfl, fun h => absurd h hlt, fun _ => rfl⟩
  · obtain ⟨hin, p, hp, his, hmark⟩ := B.takeMarker_shows e c
    refine ⟨_, p, exec_markerReceipt_of_marker hc hr he, rfl, ?_⟩
    rw [State.bent_setBent, if_pos rfl]
    exact ⟨hin, hp, his, hmark⟩
  · let s1 := s.setBent b { B with dlsnap := B.snapshot s.dtime t.queues, stills := B.stills.set k { t with count := 0 } }
    obtain ⟨hsnap, hmem⟩ := State.foldl_raiseTrap_keeps Bent.dlsnap (fun _ _ => rfl) (s.cycleStrands b t.queues) { cause := 0x0040 } b s1
    refine ⟨_, exec_deadlockDetection_of_still ht hcount, hmem, ?_, fun lid ob os c j st hone hown hst => ?_⟩
    · exact hsnap.trans (congrArg Bent.dlsnap ((State.bent_setBent ..).trans (if_pos rfl)))
    · have hstrands (d : Nat) : (s1.bent d).strands = (s.bent d).strands := by
        simp only [s1, State.bent_setBent]
        split
        · next hd => rw [hd]
        · rfl
      have hown1 : s1.findOwner lid ob os = some (c, j) := (State.findOwner_congr (s := s) (t := s1) rfl hstrands ob os).trans hown
      have hst1 : s1.strand? c j = some st := (congrArg (NMap.get? · j) (hstrands c)).trans hst
      rw [hone]
      exact ⟨_, (State.raiseTrap_shows hown1 hst1 { cause := 0x0040 }).1, rfl⟩

end Sys2Proof.Proofs

end
section
/-! PROOFS. What keeps the rounds that units are in: everything that a unit applies on entering a round (R81, R152, R212, R297,
R301). -/

open Sys2Proof

namespace Sys2Proof.Machine

/-- Two states whose units are in the same rounds. -/
structure State.SameRounds (s u : State) : Prop where
  unitRound : ∀ b, (u.bent b).unitRound = (s.bent b).unitRound

namespace State.SameRounds

theorem refl (s : State) : s.SameRounds s := ⟨fun _ => rfl⟩

section
variable {s u v : State}

theorem trans (h : s.SameRounds u) (h' : u.SameRounds v) : s.SameRounds v := ⟨fun b => (h'.1 b).trans (h.1 b)⟩

theorem ite {q : Prop} [Decidable q] (h : s.SameRounds u) (h' : s.SameRounds v) : s.SameRounds (if q then u else v) := by
  by_cases hq : q
  · rwa [if_pos hq]
  · rwa [if_neg hq]

end

theorem foldl {α : Type} {f : State → α → State} (hf : ∀ (s : State) (x : α), s.SameRounds (f s x)) (l : List α) (s : State) :
    s.SameRounds (l.foldl f s) := by
  induction l generalizing s with
  | nil => exact refl s
  | cons x l ih => exact (hf s x).trans (ih _)

section
variable (s : State)

theorem updBent (b : Nat) {f : Bent → Bent} (hf : ∀ B, (f B).unitRound = B.unitRound) : s.SameRounds (s.updBent b f) :=
  ⟨fun c => State.bent_updBent_keeps Bent.unitRound s b c hf⟩

theorem updLaunch (lid : Nat) (f : Launch → Launch) : s.SameRounds (s.updLaunch lid f) := ⟨fun c => by rw [State.bent_updLaunch]⟩

theorem setStrand (b k : Nat) (st : Strand) : s.SameRounds (s.setStrand b k st) := updBent s b (fun _ => rfl)

theorem setTenon (b t : Nat) (T : Tenon) : s.SameRounds (s.setTenon b t T) := updBent s b (fun _ => rfl)

theorem updCn (b : Nat) (g : Cn → Cn) : s.SameRounds (s.updCn b g) := updBent s b (fun _ => rfl)

theorem write (w : Writer) (a : Nat) (l : List Byte) (q : Bool) : s.SameRounds (s.write w a l q) :=
  ⟨fun c => State.bent_write_keeps Bent.unitRound (fun _ _ => rfl) s w a l q c⟩

theorem rmw (w : Writer) (loc n aop x e : Nat) (q : Bool) : s.SameRounds (s.rmw w loc n aop x e q).1 :=
  ⟨fun c => State.bent_rmw_keeps Bent.unitRound (fun _ _ => rfl) s w loc n aop x e q c⟩

theorem wrote (c : Cell) (d : Side) : s.SameRounds (s.wrote c d) := ⟨fun b => by rw [State.bent_wrote]⟩

theorem raiseTrap (lid ob os : Nat) (p : PendTrap) : s.SameRounds (s.raiseTrap lid ob os p) :=
  ⟨fun c => State.bent_raiseTrap_keeps Bent.unitRound (fun _ _ => rfl) s lid ob os p c⟩

/-! ### Atomics -/

theorem applyAtom (b k : Nat) (st : Strand) (o : MemOp) (aop : Nat) : s.SameRounds (s.applyAtom b k st o aop) := by
  have hdone : s.SameRounds (s.atomDone st o aop).1 := by
    unfold State.atomDone
    split
    · exact refl s
    · exact rmw ..
  rw [State.applyAtom_eq_of_atomDone]
  exact ((hdone.trans (ite (updLaunch ..) (refl _))).trans (updLaunch ..)).trans (setStrand ..)

theorem atApply (b : Nat) (c : InCell) (loc : Nat) (round : BitVec 16) : s.SameRounds (s.atApply b c loc round) := by
  unfold State.atApply
  simp only []
  split
  · exact applyAtom ..
  · exact ite (((rmw ..).trans (wrote ..)).trans (updBent _ b (fun _ => rfl))) ((rmw ..).trans (wrote ..))

theorem atClose (b : Nat) (n : BitVec 16) : s.SameRounds (s.atClose b n) := by
  unfold State.atClose
  refine trans (updBent s b ?_) (foldl (fun s h => ?_) _ _)
  · exact fun _ => rfl
  · exact atApply ..

/-! ### The consolidator -/

theorem consolidate (b q : Nat) (upto : Rec → Bool) (trig : Cell) (d : Side) (poison : Bool) :
    s.SameRounds (s.consolidate b q upto trig d poison) := by
  unfold State.consolidate
  simp only [State.cnEmit_eq]
  split
  · next e he =>
    generalize s.routeCheck d.lid _ _ = o at he ⊢
    cases o with
    | none => exact nomatch he
    | some e => exact raiseTrap ..
  · next he =>
    generalize s.routeCheck d.lid _ _ = o at he ⊢
    cases o with
    | none => exact (updBent s b (fun B => Bent.emitAll_keeps Bent.unitRound (fun _ _ _ => rfl) ..)).trans (updCn ..)
    | some e => exact nomatch he

theorem edgeQueue (b : Nat) (n : BitVec 16) (q : Nat) : s.SameRounds (s.edgeQueue b n q) := by
  unfold State.edgeQueue
  split
  · exact refl s
  · exact consolidate ..

theorem writeArr (A : Arr) (w : Writer) (n : BitVec 16) (es : List Rec) (poison : Bool) : s.SameRounds (s.writeArr A w n es poison) := by
  unfold State.writeArr
  exact ((((((write s ..).trans (write ..)).trans (write ..)).trans (updLaunch ..)).trans (updLaunch ..)).trans (updLaunch ..))

theorem foldOne (b : Nat) (n : BitVec 16) (bt : Nat) : s.SameRounds (s.foldOne b n bt) := by
  have h1 (g : Cn → Cn) (lid : Nat) (f : Launch → Launch) : s.SameRounds ((s.updCn b g).updLaunch lid f) :=
    (updCn ..).trans (updLaunch ..)
  unfold State.foldOne
  simp only []
  split
  · exact (h1 ..).trans (raiseTrap ..)
  · exact ite ((h1 ..).trans (raiseTrap ..)) ((h1 ..).trans (writeArr ..))

theorem foldDue (b bt n : Nat) : s.SameRounds (s.foldDue b bt n) := by
  induction n generalizing s with
  | zero => exact refl s
  | succ n ih =>
    rw [State.foldDue]
    split
    · exact refl s
    · exact ite (refl s) ((foldOne ..).trans (ih _))

theorem cnEdge (b : Nat) (n : BitVec 16) : s.SameRounds (s.cnEdge b n) := by
  unfold State.cnEdge
  exact ((foldl (fun _ _ => edgeQueue ..) _ s).trans (updCn ..)).trans (foldl (fun _ _ => foldDue ..) ..)

/-! ### Tenons -/

theorem settle (b t : Nat) (p : Pending) (l0 l1 : Bool) (x : Partial) (reg : VReg) (fail : Option VFail) :
    s.SameRounds (s.settle b t p l0 l1 x reg fail) := by
  unfold State.settle
  simp only []
  split
  · exact setTenon ..
  · exact (setTenon ..).trans (raiseTrap ..)

theorem scanOne (b t : Nat) (p : Pending) (x : Partial) : s.SameRounds (s.scanOne b t p x).1 := settle ..

theorem closeRed (b t : Nat) (p : Pending) (l : List Partial) : s.SameRounds (s.closeRed b t p l) := by
  unfold State.closeRed
  simp only []
  split
  · exact settle ..
  · exact setTenon ..

theorem closeUnit (b t : Nat) (p : Pending) (det : Bool) : s.SameRounds (s.closeUnit b t p det) := by
  have hscan (l : List Partial) : ∀ r : State × Pending, s.SameRounds r.1 →
      s.SameRounds (l.foldl (fun r x => r.1.scanOne b t r.2 x) r).1 := by
    induction l with
    | nil => exact fun r h => h
    | cons x l ih => exact fun r h => ih _ (h.trans (scanOne ..))
  unfold State.closeUnit
  simp only []
  exact ite (ite (hscan _ _ (setTenon ..)) (setTenon ..)) ((setTenon ..).trans (closeRed ..))

theorem takePartial (b t : Nat) (p : Pending) (x : Partial) : s.SameRounds (s.takePartial b t p x) := by
  have hnow (u : State) (q : Bool) (p1 : Pending) : u.SameRounds (if q then u.scanOne b t p1 x else (u, p1)).1 := by
    cases q
    · exact refl u
    · exact scanOne ..
  unfold State.takePartial
  simp only []
  exact ite ((((setTenon ..).trans (hnow ..)).trans (setTenon ..)).trans (closeUnit ..)) (((setTenon ..).trans (hnow ..)).trans (setTenon ..))

theorem roundUnit (b t : Nat) (n : BitVec 16) (p : Pending) : s.SameRounds (s.roundUnit b t n p) := by
  have hfold (l : List Partial) : s.SameRounds (l.foldl (fun s x =>
      match (s.tenon b t).pending? p.dst p.scan with
      | some q => s.takePartial b t q x
      | none => s) s) := by
    refine foldl (fun s x => ?_) l s
    split
    · exact takePartial ..
    · exact refl s
  unfold State.roundUnit
  simp only []
  split
  · exact ite (hfold _) ((hfold _).trans (closeUnit ..))
  · exact hfold _

theorem vxEdge (b t : Nat) (n : BitVec 16) : s.SameRounds (s.vxEdge b t n) := foldl (fun _ _ => roundUnit ..) ..

/-- R81: what a unit applies on entering a round. -/
theorem edgeOf (b e : Nat) (n : BitVec 16) : s.SameRounds (s.edgeOf b e n) := by
  unfold State.edgeOf
  exact ite (atClose ..) (ite (cnEdge ..) (ite (vxEdge ..) (ite (updBent s b (fun _ => rfl))
    (ite (updBent s b (fun _ => rfl)) (refl s)))))

end

end State.SameRounds

end Sys2Proof.Machine
end
section
/-! PROOFS. Round entry, rendezvous operands, and the round close of HBM atomics (R80, R152, R168, R255, R273). -/

open Sys2Proof

namespace Sys2Proof.Machine

/-! ### Rendezvous operands -/

section
variable {s : State} {b e : Nat} {c : InCell} (hc : (s.bent b).headIn e = some c) (hr : c.cell.rmk = false) (hn : c.cell.opcnt ≠ 0)

/-- The bent without the cell at the head of an input. -/
def Bent.headGone (B : Bent) (e : Nat) : Bent := { B with inbuf := NMap.set B.inbuf e ((B.buffer e).drop 1) }

theorem Bent.inbuf_headGone (B : Bent) (e : Nat) : NMap.getD (B.headGone e).inbuf e [] = (NMap.getD B.inbuf e []).drop 1 :=
  (NMap.getD_set ..).trans (if_pos rfl)

/-- R168: an entry with one more operand. -/
def RvEntry.took (v : RvEntry) (c : InCell) : RvEntry := { v with operands := NMap.set v.operands c.cell.opix.toNat c }

/-- R168, R255: the bent that has stored an operand, and fired where it was the last. -/
def Bent.storeOperand (B : Bent) (e : Nat) (c : InCell) (v : RvEntry) : Bent :=
  if (List.range (c.cell.opcnt.toNat + 1)).all (fun k => NMap.has (v.took c).operands k) then
    { B.headGone e with
      rv := NMap.erase B.rv (rvKey e c.cell.rvt.toNat)
      fired := B.fired ++ [(e, (List.range (c.cell.opcnt.toNat + 1)).filterMap (NMap.get? (v.took c).operands))] }
  else { B.headGone e with rv := NMap.set B.rv (rvKey e c.cell.rvt.toNat) (v.took c) }

theorem Bent.storeOperand_shows (B : Bent) (e : Nat) (c : InCell) (v : RvEntry) :
    let all := (List.range (c.cell.opcnt.toNat + 1)).all (fun k => NMap.has (v.took c).operands k)
    let C := B.storeOperand e c v
    NMap.getD C.inbuf e [] = (NMap.getD B.inbuf e []).drop 1 ∧
    (all = false → NMap.get? C.rv (rvKey e c.cell.rvt.toNat) = some (v.took c) ∧ C.fired = B.fired) ∧
    (all = true → NMap.get? C.rv (rvKey e c.cell.rvt.toNat) = none ∧ C.fired = B.fired ++
      [(e, (List.range (c.cell.opcnt.toNat + 1)).filterMap (NMap.get? (v.took c).operands))]) := by
  intro all C
  cases hall : all with
  | false =>
    have hC : C = _ := if_neg (ne_true_of_eq_false hall)
    rw [hC]
    exact ⟨B.inbuf_headGone e, fun _ => ⟨by rw [NMap.get?_set, if_pos rfl], rfl⟩, fun h => nomatch h⟩
  | true =>
    have hC : C = _ := if_pos hall
    rw [hC]
    exact ⟨B.inbuf_headGone e, fun h => (nomatch h), fun _ => ⟨by rw [NMap.get?_erase, if_pos rfl], rfl⟩⟩

include hc hr hn

/-- R168, R255: an operand at the head of an input, by its entry. -/
theorem exec_rendezvousOperand :
    (NMap.get? (s.bent b).rv (rvKey e c.cell.rvt.toNat) = none →
      exec (.rendezvousOperand b e) s = .next ((s.setBent b ((s.bent b).headGone e)).engFault c.side 0x0001)) ∧
    (∀ v, NMap.get? (s.bent b).rv (rvKey e c.cell.rvt.toNat) = some v →
      (NMap.has v.operands c.cell.opix.toNat = true →
        exec (.rendezvousOperand b e) s = .next ((s.setBent b ((s.bent b).headGone e)).engFault c.side 0x0001)) ∧
      (NMap.has v.operands c.cell.opix.toNat = false →
        exec (.rendezvousOperand b e) s = .next (s.setBent b ((s.bent b).storeOperand e c v)))) := by
  have hexec : exec (.rendezvousOperand b e) s = execRendezvousOperand b e s := rfl
  have hhead : ((s.bent b).headIn e).filter (fun c => !c.cell.rmk && c.cell.opcnt != 0) = some c := by
    rw [hc]
    refine Option.filter_eq_some_iff.mpr ⟨rfl, ?_⟩
    rw [hr]
    exact bne_iff_ne.mpr hn
  rw [hexec, execRendezvousOperand]
  simp only [hhead]
  refine ⟨fun h => by rw [h]; rfl, fun v h => ⟨fun hh => ?_, fun hh => ?_⟩⟩
  · rw [h]
    exact if_pos hh
  · rw [h]
    simp only []
    rw [if_neg (by rw [hh]; decide)]
    unfold Bent.storeOperand
    by_cases hall : (List.range (c.cell.opcnt.toNat + 1)).all (fun k => NMap.has (v.took c).operands k) = true
    · exact (if_pos hall).trans (congrArg (fun B => Host.Outcome.next (s.setBent b B)) (if_pos hall).symm)
    · exact (if_neg hall).trans (congrArg (fun B => Host.Outcome.next (s.setBent b B)) (if_neg hall).symm)

end

/-! ### Round entry -/

theorem State.sendFbMarks_keeps {α : Type} (p : Bent → α) (hv : ∀ B m n, p { B with voq := m, stamp := n } = p B)
    (hf : ∀ B q, p { B with fbSent := q } = p B) (s : State)
    (b : Nat) : p ((s.sendFbMarks b).bent b) = p (s.bent b) := by
  have hfold (lid : Nat) (l : List (Nat × Nat)) : ∀ s : State, p ((l.foldl (State.sendFbMark b lid) s).bent b) = p (s.bent b) := by
    induction l with
    | nil => exact fun s => rfl
    | cons x l ih =>
      intro s
      refine (ih _).trans ?_
      unfold State.sendFbMark
      simp only []
      split
      · rw [State.bent_setBent, if_pos rfl]
        exact (hf _ _).trans (hv _ _ _)
      · rfl
  unfold State.sendFbMarks
  split
  · rfl
  · next lid _ => exact hfold lid _ s

theorem State.bent_cutAt (s : State) (lid : Nat) (n : BitVec 16) (b : Nat) : (s.cutAt lid n).bent b = s.bent b := by
  unfold State.cutAt
  split
  · exact State.bent_updLaunch ..
  · rfl

theorem State.launch_of_satisfied {s : State} {b e : Nat} (h : s.satisfied b e = true) : ∃ lid, (s.bent b).launch = some lid := by
  unfold State.satisfied at h
  cases hl : (s.bent b).launch with
  | none => simp only [hl] at h; exact nomatch h
  | some lid => exact ⟨lid, rfl⟩

/-- The state in which a unit has entered the round after n and applied what waited for it. -/
def State.entered (s : State) (b e : Nat) : State :=
  (s.updBent b (fun B => B.enterRound e ((s.bent b).roundAt e))).edgeOf b e ((s.bent b).roundAt e)

section
variable {s : State} {b e : Nat} (hs : s.satisfied b e = true)
include hs

/-- R80: a matrix tenon closes an open row before it enters the round. -/
theorem exec_roundEntry_of_row (he : e < 4) {k : Nat} {r : ARow} {l : NMap ARow} (hr : ((s.bent b).mxAt e).partialRow = (k, r) :: l) :
    exec (.roundEntry b e) s = .next (if (((s.bent b).mxAt e).closeRow r true).2 then
      (s.updMx b e (fun _ => (((s.bent b).mxAt e).closeRow r true).1)).engFault r.side 0x0001
      else s.updMx b e (fun _ => (((s.bent b).mxAt e).closeRow r true).1)) := by
  obtain ⟨lid, hlid⟩ := State.launch_of_satisfied hs
  have hexec : exec (.roundEntry b e) s = execRoundEntry b e s := rfl
  rw [hexec, execRoundEntry, if_pos hs, if_pos he, State.mxClose, hr, hlid]

/-- R81, R273: a unit without an open row enters the next round. -/
theorem exec_roundEntry_of_closed (h : 4 ≤ e ∨ ((s.bent b).mxAt e).partialRow = []) :
    ∃ lid n, exec (.roundEntry b e) s = .next ((((s.entered b e).keepUnit lid b e n).sendFbMarks b).cutAt lid n) := by
  obtain ⟨lid, hlid⟩ := State.launch_of_satisfied hs
  have hexec : exec (.roundEntry b e) s = execRoundEntry b e s := rfl
  have hnone : (if e < 4 then s.mxClose b e else none) = none := by
    split
    · next he =>
      have hrow := h.resolve_left (Nat.not_le.mpr he)
      rw [State.mxClose, hrow]
    · rfl
  refine ⟨lid, (s.bent b).roundAt e, ?_⟩
  rw [hexec, execRoundEntry, if_pos hs, hnone, hlid]
  rfl

end

/-- A part of a bent that the end of a round entry leaves. -/
theorem State.entry_keeps {α : Type} (p : Bent → α) (hv : ∀ B m n, p { B with voq := m, stamp := n } = p B)
    (hf : ∀ B q, p { B with fbSent := q } = p B) (u : State)
    (lid b e : Nat) (n : BitVec 16) : p ((((u.keepUnit lid b e n).sendFbMarks b).cutAt lid n).bent b) = p (u.bent b) := by
  rw [State.bent_cutAt, State.sendFbMarks_keeps p hv hf, State.keepUnit, State.bent_updLaunch]

theorem State.roundAt_entered (s : State) (b e : Nat) : ((s.entered b e).bent b).roundAt e = (s.bent b).roundAt e + 1 := by
  have h := (State.SameRounds.edgeOf (s.updBent b (fun B => B.enterRound e ((s.bent b).roundAt e))) b e ((s.bent b).roundAt e)).1 b
  refine (congrArg (NMap.getD · e 0) h).trans ?_
  rw [State.bent_updBent, if_pos rfl, Bent.enterRound, NMap.getD_set, if_pos rfl]

theorem State.cursors_entered (s : State) (b : Nat) {e : Nat} (he : e < 4) : (((s.entered b e).bent b).mxAt e).cursors = [] := by
  have h (u : State) (n : BitVec 16) : u.edgeOf b e n = u.updMx b e (fun M => M.endRound n) := by
    unfold State.edgeOf
    rw [if_neg (by simp only [egAT]; omega), if_neg (by simp only [egCN]; omega), if_neg (by omega), if_neg (by omega), if_pos he]
  rw [State.entered, h, State.mxAt_updMx]
  rfl

theorem State.topk_entered (s : State) (b : Nat) : ((s.entered b 8).bent b).topk = [] := by
  have h (u : State) (n : BitVec 16) : u.edgeOf b 8 n = u.updBent b (fun B => { B with topk := [] }) := rfl
  rw [State.entered, h, State.bent_updBent, if_pos rfl]

/-! ### HBM atomics at the close of a round -/

/-- R152: one held atomic whose page is its launch's context's. -/
theorem exec_hbmAtomicRoundClose_of_one {s : State} {l c : Nat} {x : HeldOp} {st : Strand} {o : MemOp} (hx : s.closing l c = [x])
    (he : s.heldEntry x = some (st, o)) (hf : s.foreignPage l o = none) :
    exec (.hbmAtomicRoundClose l c) s = .next (s.applyAtom x.bent x.slot st o o.kind.aop) := by
  have hexec : exec (.hbmAtomicRoundClose l c) s = execHbmAtomicRoundClose l c s := rfl
  have hnone : (s.closing l c).findSome? (fun x => (s.heldEntry x).bind (fun e => s.foreignPage l e.2)) = none := by
    simp [hx, he, hf]
  rw [hexec, execHbmAtomicRoundClose, hnone]
  simp only [hx, List.foldl_cons, List.foldl_nil, he]

theorem exec_hbmAtomicRoundClose_of_foreign {s : State} {l c page : Nat}
    (h : (s.closing l c).findSome? (fun x => (s.heldEntry x).bind (fun e => s.foreignPage l e.2)) = some page) :
    exec (.hbmAtomicRoundClose l c) s = .next (s.queueScrub page (s.launch l).ctx) := by
  have hexec : exec (.hbmAtomicRoundClose l c) s = execHbmAtomicRoundClose l c s := rfl
  rw [hexec, execHbmAtomicRoundClose, h]

theorem State.heldEntry_spec {s : State} {x : HeldOp} {st : Strand} {o : MemOp} (h : s.heldEntry x = some (st, o)) :
    (st.ops.find? (fun q => q.id == o.id)).isSome = true := by
  unfold State.heldEntry at h
  obtain ⟨v, -, h⟩ := Option.bind_eq_some_iff.mp h
  obtain ⟨p, hp, h⟩ := Option.map_eq_some_iff.mp h
  obtain ⟨rfl, rfl⟩ := Prod.mk.inj h
  have hid : p.id = x.id := by simpa using List.find?_some hp
  rw [hid, hp]
  rfl

end Sys2Proof.Machine

namespace Sys2Proof.Proofs

open Sys2Proof.Machine

/-- Settles O47: the cases of an operand, of a round entry, and of a channel's held atomics. -/
theorem roundsAndRendezvous : Obligations.RoundsAndRendezvous := by
  unfold Obligations.RoundsAndRendezvous
  intro s b e B
  refine ⟨fun c hc hr hn => ?_, fun h => ?_, fun hs h => ?_, fun k r l hs he hrow M bad hclose => ?_,
    fun l c x st o hx he hf ho => ?_, fun l c page h => exec_hbmAtomicRoundClose_of_foreign h, fun x y hround hkey => ?_, fun d => ?_⟩
  · intro key rest
    have hkey : rvKey e c.cell.rvt.toNat = key := congrArg (· + c.cell.rvt.toNat) (Nat.mul_comm e 32)
    obtain ⟨hnone, hsome⟩ := exec_rendezvousOperand hc hr hn
    rw [hkey] at hnone hsome
    have hgone : (s.setBent b (B.headGone e)).bent b = B.headGone e := (State.bent_setBent ..).trans (if_pos rfl)
    refine ⟨fun h => ⟨_, hnone h, rfl, ?_⟩, fun v hv hhas => ⟨_, (hsome v hv).1 hhas, rfl, ?_⟩, fun v hv hhas => ?_⟩
    · rw [hgone, Bent.inbuf_headGone]
    · rw [hgone]
      rfl
    · intro ops all
      refine ⟨_, (hsome v hv).2 hhas, rfl, ?_⟩
      rw [State.bent_setBent, if_pos rfl, ← hkey]
      exact B.storeOperand_shows e c v
  · exact if_neg (by rw [h]; decide)
  · obtain ⟨lid, n, hexec⟩ := exec_roundEntry_of_closed hs h
    refine ⟨_, hexec, ?_, fun he => ?_, fun he => ?_⟩
    · rw [← State.roundAt_entered]
      exact congrArg (NMap.getD · e 0) (State.entry_keeps Bent.unitRound (fun _ _ _ => rfl) (fun _ _ => rfl) ..)
    · rw [← s.cursors_entered b he]
      exact congrArg (fun m => (NMap.getD m e ({} : Mx)).cursors) (State.entry_keeps Bent.mx (fun _ _ _ => rfl) (fun _ _ => rfl) ..)
    · subst he
      exact (State.entry_keeps Bent.topk (fun _ _ _ => rfl) (fun _ _ => rfl) ..).trans (s.topk_entered b)
  · have hexec := exec_roundEntry_of_row hs he hrow
    rw [hclose] at hexec
    let u := s.updMx b e (fun _ => M)
    have hM : (u.bent b).mxAt e = M := State.mxAt_updMx ..
    have hround : (u.bent b).roundAt e = B.roundAt e := by
      simp only [u, State.updMx, State.bent_updBent, if_true]
      rfl
    exact ⟨fun h => ⟨u, by rw [hexec, h]; rfl, rfl, hM, hround⟩, fun h => ⟨u, by rw [hexec, h]; rfl, rfl, hM⟩⟩
  · obtain ⟨hstrand, hout⟩ := s.applyAtom_shows x.bent x.slot st o o.kind.aop
    refine ⟨_, _, exec_hbmAtomicRoundClose_of_one hx he hf, hstrand, ?_, hout ho⟩
    exact congrArg (Option.map (fun p => p.got)) (find?_replaced (o := o)
      (p := s.take o (Memory.getBytes s.mem o.loc o.size, s.poisonedAt o.loc o.size)) (State.heldEntry_spec he) (State.take_id ..))
  · simp [HeldOp.before, hround, hkey, roundBefore_irrefl, Nat.lt_asymm hkey, Nat.ne_of_gt hkey]
  · refine ⟨_, rfl, rfl, ?_⟩
    simp [State.die, State.setDie]

end Sys2Proof.Proofs

end
section
/-! PROOFS. Translation as units carry it out: table walks, retries, scrubs and invalidations (R332 to R336, R343). -/

open Sys2Proof

namespace Sys2Proof.Machine

/-! ### The tables of a context (R332, R333) -/

section
variable {s : State} {ctx root vpn : Nat}

theorem State.walk1_none (h : s.tableEntry ctx (root + vpn / 2 ^ 21 % 2 ^ 15 * 8) = none) : s.walk1 ctx root vpn = none := by
  rw [State.walk1]
  exact congrArg (Option.bind · _) h

theorem State.walk1_some {e : Nat} (h : s.tableEntry ctx (root + vpn / 2 ^ 21 % 2 ^ 15 * 8) = some e) :
    s.walk1 ctx root vpn = (pteTable (2 ^ 15) e).bind (fun t => s.walk2 ctx t vpn) := by
  rw [State.walk1]
  exact congrArg (Option.bind · (fun e => (pteTable (2 ^ 15) e).bind (fun t => s.walk2 ctx t vpn))) h

theorem State.walk2_some {base e : Nat} (h : s.tableEntry ctx (base + vpn / 2 ^ 9 % 2 ^ 12 * 8) = some e) :
    s.walk2 ctx base vpn = if e.testBit 2 then (pteLeaf (2 ^ 25) e).map (fun l => (true, l))
      else (pteTable (2 ^ 12) e).bind (fun t => s.walk3 ctx t vpn) := by
  have h' : s.tableEntry ctx (base + vpn / 512 % 4096 * 8) = some e := h
  rw [State.walk2, h']

theorem State.walk3_some {base e : Nat} (h : s.tableEntry ctx (base + vpn % 2 ^ 9 * 8) = some e) :
    s.walk3 ctx base vpn = (pteLeaf (2 ^ 16) e).map (fun l => (false, l)) := by
  have h' : s.tableEntry ctx (base + vpn % 512 * 8) = some e := h
  rw [State.walk3, h']
  rfl

theorem Miss.entry_eq (m : Miss) (s : State) {o : Option Leaf}
    (h : s.walk1 m.ctx (if m.host then (s.ctx m.ctx).hroot else (s.ctx m.ctx).droot) m.vpn = o) :
    m.entry s = o.map (fun l => { ctx := m.ctx, host := m.host, vpn := m.vpn, big := l.1, pa := l.2.1, w := l.2.2.1, img := l.2.2.2 }) := by
  rw [Miss.entry, State.walkEntry, h]

end

/-! ### Sources of a walk (R334, R335) -/

theorem mem_tlbPlace (n pick : Nat) (e : TlbEntry) (l : List TlbEntry) : e ∈ (tlbPlace n pick e l).1 := by
  unfold tlbPlace
  simp only []
  split <;> exact List.mem_append_right _ (List.mem_singleton_self e)

theorem Bent.mem_fillTlb (B : Bent) (nonce : Nat) (e : TlbEntry) (src : Nat) (inUse : TlbEntry → Bool) :
    e ∈ (B.fillTlb nonce e src inUse).tlb ∧
    ∀ w < 2, (src = 16 + w ∨ e ∈ NMap.getD B.walkTlb w []) → e ∈ NMap.getD (B.fillTlb nonce e src inUse).walkTlb w [] := by
  refine ⟨mem_tlbPlace .., fun w hw h => ?_⟩
  unfold Bent.fillTlb
  simp only []
  by_cases hsrc : 16 ≤ src ∧ src < 18
  · simp only [if_pos hsrc, NMap.getD_set]
    split
    · exact mem_tlbPlace ..
    · next hne => exact h.resolve_left (fun he => hne (by omega))
  · simp only [if_neg hsrc]
    exact h.resolve_left (fun he => hsrc (by omega))

/-- R335: a bent that has the entry of a walk, for each of these sources. -/
def State.HasEntry (s : State) (e : TlbEntry) (q : Nat × Nat) : Prop :=
  e ∈ (s.bent q.1).tlb ∧ ∀ w < 2, q.2 = 16 + w → e ∈ NMap.getD (s.bent q.1).walkTlb w []

theorem State.hasEntry_fillSource (s : State) (m : Miss) (e : TlbEntry) (q : Nat × Nat) :
    (s.fillSource m (some e) q).HasEntry e q ∧ ∀ p, s.HasEntry e p → (s.fillSource m (some e) q).HasEntry e p := by
  have hbent (d : Nat) : (s.fillSource m (some e) q).bent d =
      if d = q.1 then (s.bent q.1).fillTlb s.nonce e q.2 s.entryInUse else s.bent d :=
    State.bent_updBent s q.1 d (fun B => B.fillTlb s.nonce e q.2 s.entryInUse)
  obtain ⟨htlb, hwalk⟩ := (s.bent q.1).mem_fillTlb s.nonce e q.2 s.entryInUse
  refine ⟨?_, fun p hp => ?_⟩
  · rw [State.HasEntry, hbent, if_pos rfl]
    exact ⟨htlb, fun w hw h => hwalk w hw (.inl h)⟩
  · rw [State.HasEntry, hbent]
    split
    · next hd =>
      obtain ⟨-, hpw⟩ := hp
      rw [hd] at hpw
      exact ⟨htlb, fun w hw h => hwalk w hw (.inr (hpw w hw h))⟩
    · exact hp

theorem State.hasEntry_fillSources (m : Miss) (e : TlbEntry) (l : List (Nat × Nat)) (s : State) :
    (∀ q ∈ l, (l.foldl (fun t q => t.fillSource m (some e) q) s).HasEntry e q) ∧
      ∀ p, s.HasEntry e p → (l.foldl (fun t q => t.fillSource m (some e) q) s).HasEntry e p := by
  induction l generalizing s with
  | nil => exact ⟨fun q h => (nomatch h), fun p h => h⟩
  | cons q l ih =>
    obtain ⟨hl, hkeep⟩ := ih (s.fillSource m (some e) q)
    obtain ⟨hq, hq'⟩ := s.hasEntry_fillSource m e q
    exact ⟨List.forall_mem_cons.mpr ⟨hkeep q hq, hl⟩, fun p hp => hkeep p (hq' p hp)⟩

theorem State.fillSources_keeps (m : Miss) (r : Option TlbEntry) (l : List (Nat × Nat)) (s : State) :
    (l.foldl (fun t q => t.fillSource m r q) s).mem = s.mem ∧ (l.foldl (fun t q => t.fillSource m r q) s).dies = s.dies := by
  induction l generalizing s with
  | nil => exact ⟨rfl, rfl⟩
  | cons q l ih =>
    have hq : (s.fillSource m r q).mem = s.mem ∧ (s.fillSource m r q).dies = s.dies := by
      unfold State.fillSource State.failSource
      split
      · exact ⟨rfl, rfl⟩
      · split
        · split
          · split <;> exact ⟨rfl, rfl⟩
          · exact ⟨rfl, rfl⟩
        · split <;> exact ⟨rfl, rfl⟩
    exact ⟨(ih _).1.trans hq.1, (ih _).2.trans hq.2⟩

/-! ### Walks that fail (R334) -/

/-- R334: what a failed walk of a context leaves for one of its sources. -/
def State.MeetsFailure (s : State) (ctx key : Nat) (q : Nat × Nat) : Prop :=
  (16 ≤ q.2 → (s.bent q.1).launch.all (fun lid => (s.launch lid).ctx == ctx) = true → NMap.get? (s.bent q.1).transBad q.2 = some key) ∧
  (q.2 < 16 → ∀ st, s.strand? q.1 q.2 = some st → st.state = .waiting (.translation key) → (s.launch st.lid).ctx = ctx →
    st.transBad = some key)

/-- A state that differs only in which failures units will meet. -/
structure State.FailsOnly (s t : State) (key : Nat) : Prop where
  launches : t.launches = s.launches
  tlb : ∀ b, (t.bent b).tlb = (s.bent b).tlb ∧ (t.bent b).walkTlb = (s.bent b).walkTlb ∧ (t.bent b).launch = (s.bent b).launch
  bad : ∀ b n, NMap.get? (t.bent b).transBad n = NMap.get? (s.bent b).transBad n ∨ NMap.get? (t.bent b).transBad n = some key
  strand : ∀ b k, t.strand? b k = s.strand? b k ∨
    ∃ st, s.strand? b k = some st ∧ t.strand? b k = some { st with transBad := some key }

theorem State.FailsOnly.refl (s : State) (key : Nat) : s.FailsOnly s key :=
  ⟨rfl, fun _ => ⟨rfl, rfl, rfl⟩, fun _ _ => .inl rfl, fun _ _ => .inl rfl⟩

theorem State.FailsOnly.trans {s t u : State} {key : Nat} (h : s.FailsOnly t key) (h' : t.FailsOnly u key) : s.FailsOnly u key := by
  refine ⟨h'.launches.trans h.launches, fun b => ?_, fun b n => ?_, fun b k => ?_⟩
  · obtain ⟨h1, h2, h3⟩ := h.tlb b
    obtain ⟨h1', h2', h3'⟩ := h'.tlb b
    exact ⟨h1'.trans h1, h2'.trans h2, h3'.trans h3⟩
  · obtain hb | hb := h'.bad b n
    · rw [hb]
      exact h.bad b n
    · exact .inr hb
  · obtain hs' | ⟨st, hst, hs'⟩ := h'.strand b k
    · rw [hs']
      exact h.strand b k
    · obtain hs | ⟨v, hv, hs⟩ := h.strand b k
      · exact .inr ⟨st, hs ▸ hst, hs'⟩
      · obtain rfl := Option.some.inj (hs.symm.trans hst)
        exact .inr ⟨v, hv, hs'⟩

theorem State.failsOnly_failSource (s : State) (ctx key b src : Nat) : s.FailsOnly (s.failSource ctx key b src) key := by
  unfold State.failSource
  split
  · split
    · next st hst =>
      split
      · refine ⟨rfl, fun c => ?_, fun c n => .inl ?_, fun c k => ?_⟩
        · exact ⟨State.bent_setStrand_keeps Bent.tlb (fun _ _ => rfl) .., State.bent_setStrand_keeps Bent.walkTlb (fun _ _ => rfl) ..,
            State.bent_setStrand_keeps Bent.launch (fun _ _ => rfl) ..⟩
        · exact congrArg (NMap.get? · n) (State.bent_setStrand_keeps Bent.transBad (fun _ _ => rfl) ..)
        · rw [State.strand?_setStrand]
          split
          · next h =>
            obtain ⟨rfl, rfl⟩ := h
            exact .inr ⟨st, hst, rfl⟩
          · exact .inl rfl
      · exact .refl ..
    · exact .refl ..
  · split
    · have hk {α : Type} (p : Bent → α) (hp : ∀ B m, p { B with transBad := m } = p B) (c : Nat) :
          p ((s.updBent b (fun B => { B with transBad := NMap.set B.transBad src key })).bent c) = p (s.bent c) :=
        State.bent_updBent_keeps p _ _ _ (fun B => hp B _)
      refine ⟨rfl, fun c => ⟨hk Bent.tlb (fun _ _ => rfl) c, hk Bent.walkTlb (fun _ _ => rfl) c, hk Bent.launch (fun _ _ => rfl) c⟩,
        fun c n => ?_, fun c k => .inl (congrArg (NMap.get? · k) (hk Bent.strands (fun _ _ => rfl) c))⟩
      rw [State.bent_updBent]
      split
      · next hc =>
        rw [hc, NMap.get?_set]
        split
        · exact .inr rfl
        · exact .inl rfl
      · exact .inl rfl
    · exact .refl ..

theorem State.FailsOnly.launch {s t : State} {key : Nat} (h : s.FailsOnly t key) (lid : Nat) : t.launch lid = s.launch lid := by
  simp only [State.launch, h.launches]

theorem State.FailsOnly.all_launch {s t : State} {key : Nat} (h : s.FailsOnly t key) (b ctx : Nat) :
    (t.bent b).launch.all (fun lid => (t.launch lid).ctx == ctx) = (s.bent b).launch.all (fun lid => (s.launch lid).ctx == ctx) := by
  simp only [(h.tlb b).2.2, h.launch]

theorem State.meetsFailure_failSource (s : State) (ctx key b src : Nat) : (s.failSource ctx key b src).MeetsFailure ctx key (b, src) := by
  have hf := s.failsOnly_failSource ctx key b src
  refine ⟨fun hsrc hall => ?_, fun hsrc v hv hwait hctx => ?_⟩
  · rw [hf.all_launch] at hall
    unfold State.failSource
    rw [if_neg (Nat.not_lt.mpr hsrc), if_pos hall, State.bent_updBent, if_pos rfl, NMap.get?_set, if_pos rfl]
  · obtain hs | ⟨st, -, hs⟩ := hf.strand b src
    · have hst : s.strand? b src = some v := hs.symm.trans hv
      rw [hf.launch] at hctx
      have hu : s.failSource ctx key b src = s.setStrand b src { v with transBad := some key } := by
        unfold State.failSource
        rw [if_pos hsrc, hst]
        exact if_pos ⟨hwait, hctx⟩
      rw [hu, State.strand?_setStrand, if_pos ⟨rfl, rfl⟩] at hv
      rw [← Option.some.inj hv]
    · rw [Option.some.inj (hv.symm.trans hs)]

theorem State.MeetsFailure.mono {s t : State} {ctx key : Nat} {q : Nat × Nat} (h : s.MeetsFailure ctx key q) (ht : s.FailsOnly t key) :
    t.MeetsFailure ctx key q := by
  obtain ⟨hunit, hstrand⟩ := h
  refine ⟨fun hsrc hall => ?_, fun hsrc v hv hwait hctx => ?_⟩
  · rw [ht.all_launch] at hall
    obtain hb | hb := ht.bad q.1 q.2
    · rw [hb]
      exact hunit hsrc hall
    · exact hb
  · obtain hs | ⟨st, -, hs⟩ := ht.strand q.1 q.2
    · rw [ht.launch] at hctx
      exact hstrand hsrc v (hs.symm.trans hv) hwait hctx
    · rw [Option.some.inj (hv.symm.trans hs)]

theorem State.failSources_shows (m : Miss) (l : List (Nat × Nat)) (s : State) :
    s.FailsOnly (l.foldl (fun t q => t.fillSource m none q) s) (transKey m.host (m.vpn * 65536)) ∧
    ∀ q ∈ l, (l.foldl (fun t q => t.fillSource m none q) s).MeetsFailure m.ctx (transKey m.host (m.vpn * 65536)) q := by
  induction l generalizing s with
  | nil => exact ⟨.refl .., fun q h => nomatch h⟩
  | cons q l ih =>
    obtain ⟨honly, hall⟩ := ih (s.fillSource m none q)
    exact ⟨(s.failsOnly_failSource ..).trans honly, List.forall_mem_cons.mpr ⟨(s.meetsFailure_failSource ..).mono honly, hall⟩⟩

/-! ### Misses that come again (R335) -/

theorem Miss.same_self (m : Miss) : m.same m.ctx m.host m.vpn = true := by simp [Miss.same]

theorem Miss.mem_join (m : Miss) (l : List (Nat × Nat)) : ∀ q ∈ l, q ∈ (m.join l).sources := by
  intro q hq
  by_cases h : q ∈ m.sources
  · exact List.mem_append_left _ h
  · exact List.mem_append_right _ (List.mem_filter.mpr ⟨hq, by simpa using h⟩)

/-- R335: what a miss does to the walks and the queue of a die. -/
theorem Die.miss_spec (D : Die) (m : Miss) :
    (D.walks.any (fun x => x.same m.ctx m.host m.vpn) = true → (D.miss m).retry = D.retry ∧
      ∀ q ∈ m.sources, ∃ x ∈ (D.miss m).walks, x.same m.ctx m.host m.vpn = true ∧ q ∈ x.sources) ∧
    (D.walks.any (fun x => x.same m.ctx m.host m.vpn) = false → D.queue.any (fun x => x.same m.ctx m.host m.vpn) = false →
      (D.walks.length < 32 → (D.miss m).walks = D.walks ++ [m] ∧ (D.miss m).retry = D.retry) ∧
      (32 ≤ D.walks.length → D.queue.length < 512 → (D.miss m).queue = D.queue ++ [m] ∧ (D.miss m).retry = D.retry)) := by
  unfold Die.miss
  simp only []
  refine ⟨fun h => ?_, fun h1 h2 => ⟨fun hw => ?_, fun hw hq => ?_⟩⟩
  · rw [if_pos h]
    obtain ⟨x, hx, hsame⟩ := List.any_eq_true.mp h
    refine ⟨rfl, fun q hq => ⟨x.join m.sources, List.mem_map.mpr ⟨x, hx, if_pos hsame⟩, hsame, x.mem_join _ q hq⟩⟩
  · rw [if_neg (ne_true_of_eq_false h1), if_neg (ne_true_of_eq_false h2), if_pos hw]
    exact ⟨rfl, rfl⟩
  · rw [if_neg (ne_true_of_eq_false h1), if_neg (ne_true_of_eq_false h2), if_neg (Nat.not_lt.mpr hw), if_pos hq]
    exact ⟨rfl, rfl⟩

/-! ### The scrub engine (R343) -/

theorem get_filter_cells (f : Nat → Bool) (m : List Host.Cell) (a : Nat) :
    Memory.get (m.filter (fun c => f c.1)) a = if f a then Memory.get m a else 0 := by
  induction m with
  | nil => rw [List.filter_nil, Memory.get, ite_self]
  | cons c m ih =>
    obtain ⟨k, v⟩ := c
    cases hk : f k with
    | true =>
      rw [List.filter_cons_of_pos (p := fun c : Host.Cell => f c.1) hk, Memory.get, Memory.get, ih]
      by_cases h : k = a
      · rw [if_pos h, if_pos h, if_pos (h ▸ hk)]
      · rw [if_neg h, if_neg h]
    | false =>
      rw [List.filter_cons_of_neg (p := fun c : Host.Cell => f c.1) (ne_true_of_eq_false hk), ih]
      by_cases h : k = a
      · rw [if_neg (ne_true_of_eq_false (h ▸ hk)), if_neg (ne_true_of_eq_false (h ▸ hk))]
      · rw [Memory.get, if_neg h]

theorem State.byte_zeroPage (s : State) (page owner a : Nat) : (s.zeroPage page owner).byte a =
    if page * 65536 ≤ a ∧ a < page * 65536 + 65536 ∧ s.inQueueSlots a = false then 0 else s.byte a := by
  refine (get_filter_cells (fun a => !inRange (page * 65536) 65536 a || s.inQueueSlots a) s.mem a).trans ?_
  cases hq : s.inQueueSlots a with
  | true =>
    rw [Bool.or_true]
    exact (if_pos rfl).trans (if_neg (fun h => Bool.noConfusion h.2.2)).symm
  | false =>
    by_cases h : page * 65536 ≤ a ∧ a < page * 65536 + 65536
    · exact (if_neg (by simp [inRange, h])).trans (if_pos ⟨h.1, h.2, rfl⟩).symm
    · exact (if_pos (by simp [inRange]; omega)).trans (if_neg (fun hh => h ⟨hh.1, hh.2.1⟩)).symm

theorem exec_pageScrub_of_queued {s : State} {page : Nat} {q : Nat × Nat} (h : s.scrubQueue.find? (fun x => x.1 == page) = some q) :
    exec (.pageScrub page) s = .next
      { s.zeroPage page q.2 with scrubQueue := removeFirst (fun x => x == q) s.scrubQueue } := by
  have hexec : exec (.pageScrub page) s = execPageScrub page s := rfl
  rw [hexec, execPageScrub, h]

/-! ### Invalidations (R336) -/

theorem State.bent_dropEntries (s : State) (f : TlbEntry → Bool) (b : Nat) : (s.dropEntries f).bent b = (s.bent b).dropEntries f :=
  NMap.getD_map s.bents b (Bent.dropEntries · f) {}

theorem walkTlb_dropEntries (B : Bent) (f : TlbEntry → Bool) (n : Nat) :
    NMap.getD (B.dropEntries f).walkTlb n [] = (NMap.getD B.walkTlb n []).filter (fun e => !f e) :=
  NMap.getD_map B.walkTlb n (List.filter (fun e => !f e)) []

theorem exec_tlbinvComplete_of_pending {s : State} {p : Nat} {w : Word} {l : List Word} (h : (s.part p).tlbinvPending = w :: l) :
    exec (.tlbinvComplete p) s = .next (if s.invBusy w then s
      else (s.dropEntries (invCovers w)).updPart p (fun P => { P with tlbinvPending := l })) := by
  have hexec : exec (.tlbinvComplete p) s = execTlbinvComplete p s := rfl
  rw [hexec, execTlbinvComplete, h]
  exact (apply_ite Host.Outcome.next _ _ _).symm

theorem State.part_updPart (s : State) (p : Nat) (f : Part → Part) : (s.updPart p f).part p = f (s.part p) := by
  simp [State.updPart, State.setPart, State.part, NMap.getD_set]

/-- R336: a write of TLBINV joins the invalidations that are to be carried out. -/
theorem State.queueInv_shows (s : State) (p : Nat) (v : Word) :
    (s.queueInv p v).mem = s.mem ∧ (s.queueInv p v).bents = s.bents ∧
    ((s.queueInv p v).part p).tlbinvPending = (s.part p).tlbinvPending ++ [v &&& 0x7F80000FFFFFFFFF] ∧
    ((s.queueInv p v).part p).readTlbinv = v &&& 0x7F80000FFFFFFFFF ||| 0x8000000000000000 := by
  rw [State.queueInv, State.part_updPart]
  refine ⟨rfl, rfl, rfl, if_neg ?_⟩
  simp

theorem State.die_setDie (s : State) (d : Nat) (D : Die) : (s.setDie d D).die d = D := by
  simp [State.die, State.setDie, NMap.getD_set]

theorem exec_tableWalk_of_walk {s : State} {die : Nat} {m : Miss} {l : List Miss} (h : (s.die die).walks = m :: l) :
    exec (.tableWalk die) s =
      .next (m.sources.foldl (fun t q => t.fillSource m (m.entry s) q) (s.setDie die (s.die die).finish)) := by
  have hexec : exec (.tableWalk die) s = execTableWalk die s := rfl
  rw [hexec, execTableWalk, h]

theorem exec_tlbMissRetry_of_retry {s : State} {die : Nat} {m : Miss} {l : List Miss} (h : (s.die die).retry = m :: l) :
    exec (.tlbMissRetry die) s = .next (s.setDie die ({ s.die die with retry := l }.miss m)) := by
  have hexec : exec (.tlbMissRetry die) s = execTlbMissRetry die s := rfl
  rw [hexec, execTlbMissRetry, h]

/-- R334: after a failed walk, a strand that waited for it meets the failure. -/
theorem State.strand_meets {s t : State} {ctx key : Nat} {q : Nat × Nat} (ho : s.FailsOnly t key) (hm : t.MeetsFailure ctx key q)
    (hq : q.2 < 16) {st : Strand} (hst : s.strand? q.1 q.2 = some st) (hw : st.state = .waiting (.translation key))
    (hc : (s.launch st.lid).ctx = ctx) : ∃ z, t.strand? q.1 q.2 = some z ∧ z.transBad = some key := by
  obtain hs | ⟨v, -, hs⟩ := ho.strand q.1 q.2
  · exact ⟨st, hs.trans hst, hm.2 hq st (hs.trans hst) hw (by rw [ho.launch, hc])⟩
  · exact ⟨_, hs, rfl⟩

/-- R333: the entry of a walk, level by level. -/
theorem Miss.entry_levels (m : Miss) (s : State) (C : Ctx) (hC : C = s.ctx m.ctx) (level1 : Nat)
    (hl : level1 = (if m.host then C.hroot else C.droot) + m.vpn / 2 ^ 21 % 2 ^ 15 * 8) :
    (s.tableEntry m.ctx level1 = none → m.entry s = none) ∧
    ∀ e1, s.tableEntry m.ctx level1 = some e1 → m.entry s = (((pteTable (2 ^ 15) e1).bind (fun t => s.walk2 m.ctx t m.vpn)).map
      (fun l => { ctx := m.ctx, host := m.host, vpn := m.vpn, big := l.1, pa := l.2.1, w := l.2.2.1, img := l.2.2.2 })) := by
  subst hC hl
  exact ⟨fun h => m.entry_eq s (State.walk1_none h), fun e1 h => m.entry_eq s (State.walk1_some h)⟩

end Sys2Proof.Machine

namespace Sys2Proof.Proofs

open Sys2Proof.Machine

/-- Settles O48: walks for every source that joined, retries, the scrub of a page and the invalidations of a partition. -/
theorem translationSteps : Obligations.TranslationSteps := by
  unfold Obligations.TranslationSteps
  intro s die p page v D P
  refine ⟨fun m l hm => ?_, fun m l hm => ?_, fun q hq => ?_, ?_, fun w l hw => ?_⟩
  · intro key
    refine ⟨⟨_, exec_tableWalk_of_walk hm, ?_, ?_, ?_, ?_, ?_⟩, ?_⟩
    · exact (State.fillSources_keeps ..).1
    · rw [State.die, (State.fillSources_keeps ..).2]
      exact (congrArg Die.walks (State.die_setDie ..)).trans (congrArg (fun w : List Miss => w.drop 1 ++ D.queue.take 1) hm)
    · rw [State.die, (State.fillSources_keeps ..).2]
      exact congrArg Die.queue (State.die_setDie ..)
    · intro e he
      rw [he]
      exact (State.hasEntry_fillSources m e m.sources _).1
    · intro he
      rw [he]
      obtain ⟨honly, hall⟩ := State.failSources_shows m m.sources (s.setDie die (s.die die).finish)
      refine ⟨fun b => ⟨(honly.tlb b).1, (honly.tlb b).2.1⟩, fun q hq => ⟨fun h16 hl => ?_, fun h16 st hst hw hc => ?_⟩⟩
      · exact (hall q hq).1 h16 (by rw [honly.all_launch]; exact hl)
      · exact State.strand_meets honly (hall q hq) h16 hst hw hc
    · intro C level1
      obtain ⟨hnone, hsome⟩ := m.entry_levels s C rfl level1 rfl
      refine ⟨hnone, fun e1 h1 => ?_⟩
      rw [hsome e1 h1]
      refine ⟨fun h => by rw [h]; rfl, fun t1 e2 ht1 h2 => ?_⟩
      rw [ht1, Option.bind_some, State.walk2_some h2]
      refine ⟨fun hb hn => by rw [if_pos hb, hn]; rfl, fun hb hn => by rw [if_neg (ne_true_of_eq_false hb), hn]; rfl,
        fun pa w i hb hn => by rw [if_pos hb, hn]; rfl, fun t2 e3 hb ht2 h3 => ?_⟩
      rw [if_neg (ne_true_of_eq_false hb), ht2, Option.bind_some, State.walk3_some h3]
      exact ⟨fun hn => by rw [hn]; rfl, fun pa w i hn => by rw [hn]; rfl⟩
  · intro walked queued
    refine ⟨_, exec_tlbMissRetry_of_retry hm, rfl, rfl, ?_⟩
    rw [State.die_setDie]
    exact Die.miss_spec { D with retry := l } m
  · refine ⟨_, exec_pageScrub_of_queued hq, ?_, ?_, s.byte_zeroPage page q.2⟩
    · exact (NMap.get?_set ..).trans (if_pos rfl)
    · exact (NMap.get?_set ..).trans (if_pos rfl)
  · intro x queued
    have hq : queued (s.queueInv p v) := s.queueInv_shows p v
    refine ⟨fun h => ⟨_, if_neg (ne_true_of_eq_false h), hq⟩, fun h => ⟨_, if_pos h, hq⟩⟩
  · rw [exec_tlbinvComplete_of_pending hw]
    refine ⟨fun hb => by rw [if_pos hb], fun hb => ⟨_, congrArg Host.Outcome.next (if_neg (ne_true_of_eq_false hb)), rfl, ?_, fun b => ?_⟩⟩
    · rw [State.part_updPart]
    · have hbent : ((s.dropEntries (invCovers w)).updPart p (fun P => { P with tlbinvPending := l })).bent b =
          (s.bent b).dropEntries (invCovers w) := State.bent_dropEntries ..
      rw [hbent]
      exact ⟨rfl, rfl, fun n => walkTlb_dropEntries ..⟩

end Sys2Proof.Proofs
end
section
/-! PROOFS. What a change to the queues, contexts or bents of a partition leaves (R323, R338, R399), and the control of command
queues (R319 to R322, R378). -/

open Sys2Proof

namespace Sys2Proof.Machine

/-! ### The reads of the command processor (R343) -/

/-- R343: a state that differs only in pages scrubbed for their owners. -/
structure State.Scrubs (s t : State) : Prop where
  rest : ∃ m l o k, t = { s with mem := m, poison := l, pageOwner := o, device := { s.device with pageKeys := k } }
  byte : ∀ a, t.byte a = s.byte a ∨ t.byte a = 0

theorem byte_scrubbed_trans {s t u : State} (h : ∀ a, t.byte a = s.byte a ∨ t.byte a = 0) (h' : ∀ a, u.byte a = t.byte a ∨ u.byte a = 0)
    (a : Nat) : u.byte a = s.byte a ∨ u.byte a = 0 := by
  obtain e | e := h' a
  · rw [e]
    exact h a
  · exact .inr e

theorem State.Scrubs.refl (s : State) : s.Scrubs s := ⟨⟨_, _, _, _, rfl⟩, fun _ => .inl rfl⟩

theorem State.Scrubs.trans {s t u : State} (h : s.Scrubs t) (h' : t.Scrubs u) : s.Scrubs u := by
  refine ⟨?_, byte_scrubbed_trans h.byte h'.byte⟩
  obtain ⟨⟨m, l, o, k, rfl⟩, -⟩ := h
  obtain ⟨⟨m', l', o', k', rfl⟩, -⟩ := h'
  exact ⟨m', l', o', k', rfl⟩

theorem State.scrubs_zeroPage (s : State) (page owner : Nat) : s.Scrubs (s.zeroPage page owner) := by
  refine ⟨⟨_, _, _, _, rfl⟩, fun a => ?_⟩
  rw [State.byte_zeroPage]
  split
  · exact .inr rfl
  · exact .inl rfl

theorem State.scrubs_cpTouch (s : State) (part ctx : Nat) (host write : Bool) (va n : Nat) :
    s.Scrubs (s.cpTouch part ctx host write va n).1 := by
  unfold State.cpTouch
  simp only []
  split
  · exact s.scrubs_zeroPage ..
  · exact .refl s

theorem State.scrubs_foldl_fst {α β : Type} (f : State × β → α → State × β) (hf : ∀ (r : State × β) (x : α), r.1.Scrubs (f r x).1)
    (l : List α)
    (r : State × β) : r.1.Scrubs (l.foldl f r).1 := by
  induction l generalizing r with
  | nil => exact .refl _
  | cons x l ih => exact (hf r x).trans (ih (f r x))

theorem State.scrubs_cpRead (s : State) (part ctx va n : Nat) : s.Scrubs (s.cpRead part ctx va n).1 := by
  unfold State.cpRead
  refine State.scrubs_foldl_fst _ (fun r x => ?_) (pagePieces va n) (s, some [])
  split
  · exact .refl _
  · exact State.scrubs_cpTouch ..

theorem State.scrubs_boxAt (s : State) (part ctx cbase : Nat) : s.Scrubs (s.boxAt part ctx cbase).1 := by
  have h1 := s.scrubs_cpRead part ctx cbase 64
  unfold State.boxAt
  split
  · next e => rwa [e] at h1
  · next t l e =>
    rw [e] at h1
    dsimp only
    split
    · have h2 := t.scrubs_cpRead part ctx (cbase + (BoxHead.of l).secoff) (32 * (BoxHead.of l).nsec)
      split <;> next e2 => rw [e2] at h2; exact h1.trans h2
    · exact h1

theorem State.scrubs_sectsRead (s : State) (part ctx cbase : Nat) (l : List Sect) : s.Scrubs (s.sectsRead part ctx cbase l).1 := by
  unfold State.sectsRead
  refine State.scrubs_foldl_fst _ (fun r x => ?_) (List.range 9) (s, some [])
  split
  · exact .refl _
  · split
    · exact .refl _
    · exact State.scrubs_cpRead ..

theorem State.scrubs_loadBox (s : State) (part ctx cbase : Nat) : s.Scrubs (s.loadBox part ctx cbase).1 := by
  have h1 := s.scrubs_boxAt part ctx cbase
  unfold State.loadBox
  split
  · next e => rwa [e] at h1
  · next t hd l e =>
    rw [e] at h1
    split
    · have h2 := t.scrubs_sectsRead part ctx cbase l
      split <;> next e2 => rw [e2] at h2; exact h1.trans h2
    · exact h1

theorem State.scrubs_readHead (s : State) (part ctx cbase : Nat) : s.Scrubs (s.readHead part ctx cbase).1 := by
  have h1 := s.scrubs_boxAt part ctx cbase
  unfold State.readHead
  split
  · next e => rwa [e] at h1
  · next t hd l e =>
    rw [e] at h1
    split
    · exact h1
    · next x _ =>
      have h2 := t.scrubs_cpRead part ctx (cbase + x.off) 64
      split <;> next e2 => rw [e2] at h2; exact h1.trans h2

/-! ### What a refresh leaves (R323, R399) -/

/-- R323, R399: a state in which headers were read, candidates reported and selections withdrawn, and nothing else. -/
structure State.Refreshes (s t : State) : Prop where
  rest : ∃ m l o k ps h, t =
    { s with mem := m, poison := l, pageOwner := o, device := { s.device with pageKeys := k }, parts := ps, toHost := s.toHost ++ h }
  byte : ∀ a, t.byte a = s.byte a ∨ t.byte a = 0
  part : ∀ p, ∃ h r c, t.part p = { s.part p with held := h, reported := r, selected := c } ∧ (c = (s.part p).selected ∨ c = none)

theorem State.Refreshes.trans {s t u : State} (h : s.Refreshes t) (h' : t.Refreshes u) : s.Refreshes u := by
  have hbyte := byte_scrubbed_trans h.byte h'.byte
  obtain ⟨⟨m, l, o, k, ps, g, rfl⟩, -, hpart⟩ := h
  obtain ⟨⟨m', l', o', k', ps', g', rfl⟩, -, hpart'⟩ := h'
  refine ⟨⟨m', l', o', k', ps', g ++ g', ?_⟩, hbyte, fun p => ?_⟩
  · rw [← List.append_assoc]
  · obtain ⟨h1, r1, c1, e1, hc1⟩ := hpart p
    obtain ⟨h2, r2, c2, e2, hc2⟩ := hpart' p
    rw [e1] at e2 hc2
    exact ⟨h2, r2, c2, e2, hc2.elim (fun h => h ▸ hc1) .inr⟩

theorem State.Scrubs.refreshes {s t : State} (h : s.Scrubs t) : s.Refreshes t := by
  have hbyte := h.byte
  obtain ⟨⟨m, l, o, k, rfl⟩, -⟩ := h
  exact ⟨⟨m, l, o, k, s.parts, [], by rw [List.append_nil]⟩, hbyte, fun p => ⟨_, _, _, rfl, .inl rfl⟩⟩

theorem State.Refreshes.refl (s : State) : s.Refreshes s := (State.Scrubs.refl s).refreshes

theorem State.Refreshes.ite {s t u : State} {c : Prop} [Decidable c] (ht : s.Refreshes t) (hu : s.Refreshes u) :
    s.Refreshes (if c then t else u) := by
  split
  · exact ht
  · exact hu

theorem State.refreshes_updPart (s : State) (p : Nat) {f : Part → Part}
    (hf : ∀ P, ∃ h r c, f P = { P with held := h, reported := r, selected := c } ∧ (c = P.selected ∨ c = none)) :
    s.Refreshes (s.updPart p f) := by
  refine ⟨⟨s.mem, s.poison, s.pageOwner, s.device.pageKeys, _, [], by rw [List.append_nil]; rfl⟩, fun _ => .inl rfl, fun q => ?_⟩
  by_cases hq : q = p
  · rw [hq, State.part_updPart]
    exact hf (s.part p)
  · exact ⟨_, _, _, (NMap.getD_set ..).trans (if_neg hq), .inl rfl⟩

theorem State.refreshes_toHostMsg (s : State) (m : HostMsg) : s.Refreshes (s.toHostMsg m) :=
  ⟨⟨_, _, _, _, _, [m], rfl⟩, fun _ => .inl rfl, fun _ => ⟨_, _, _, rfl, .inl rfl⟩⟩

theorem State.refreshes_foldl {α : Type} (f : State → α → State) (hf : ∀ (s : State) (x : α), s.Refreshes (f s x)) (l : List α)
    (s : State) :
    s.Refreshes (l.foldl f s) := by
  induction l generalizing s with
  | nil => exact .refl s
  | cons x l ih => exact (hf s x).trans (ih (f s x))

theorem State.refreshes_holdHeader (s : State) (p q : Nat) : s.Refreshes (s.holdHeader p q) := by
  unfold State.holdHeader
  simp only []
  split
  · exact .refl s
  · exact .ite (.refl s) ((State.scrubs_readHead ..).refreshes.trans (State.refreshes_updPart _ _ (fun _ => ⟨_, _, _, rfl, .inl rfl⟩)))

theorem State.refreshes_reportLarge (s : State) (p : Nat) : s.Refreshes (s.reportLarge p) :=
  (s.refreshes_updPart p (fun _ => ⟨_, _, _, rfl, .inl rfl⟩)).trans
    (State.refreshes_foldl
      (fun (t : State) (c : Cand) => t.toHostMsg (.tooLarge p (if c.sel < 256 then c.sel else (s.launch (c.sel - 256)).queue)))
      (fun t _ => t.refreshes_toHostMsg _) _ _)

theorem State.refreshes_deselect (s : State) (p : Nat) : s.Refreshes (s.deselect p) := by
  have hnone : s.Refreshes (s.updPart p (fun P => { P with selected := none })) :=
    s.refreshes_updPart p (fun _ => ⟨_, _, _, rfl, .inr rfl⟩)
  unfold State.deselect
  split
  · split
    · exact .refl s
    · exact hnone
  · exact hnone

theorem State.refreshes_refresh (s : State) (p : Nat) : s.Refreshes (s.refresh p) :=
  ((State.refreshes_foldl _ (fun t q => t.refreshes_holdHeader p q) (List.range 256) s).trans (State.refreshes_reportLarge _ p)).trans
    (State.refreshes_deselect _ p)

theorem State.refreshes_refreshAll (s : State) : s.Refreshes s.refreshAll :=
  State.refreshes_foldl State.refresh State.refreshes_refresh _ s

/-- R399: with no context resident no header is read. -/
theorem State.holdHeader_of_idle {s : State} (h : ∀ n, (s.ctx n).en = false) (p q : Nat) : s.holdHeader p q = s := by
  unfold State.holdHeader
  simp only [h, Bool.not_false, Bool.or_true, Bool.true_or, if_true]
  split <;> rfl

theorem State.mem_refresh_of_idle {s : State} (h : ∀ n, (s.ctx n).en = false) (p : Nat) : (s.refresh p).mem = s.mem := by
  have hfold (l : List Nat) : l.foldl (fun t q => t.holdHeader p q) s = s := by
    induction l with
    | nil => rfl
    | cons q l ih => rw [List.foldl_cons, State.holdHeader_of_idle h, ih]
  rw [State.refresh, hfold]
  simp

theorem State.part_toHostMsg (s : State) (m : HostMsg) (p : Nat) : (s.toHostMsg m).part p = s.part p := rfl

/-! ### Journal records (R378) -/

theorem State.Refreshes.journal {s t : State} (h : s.Refreshes t) (p : Nat) : (t.part p).journal = (s.part p).journal := by
  obtain ⟨_, _, _, e, -⟩ := h.part p
  rw [e]

theorem State.Refreshes.qcb {s t : State} (h : s.Refreshes t) (p q : Nat) : (t.part p).qcb q = (s.part p).qcb q := by
  obtain ⟨_, _, _, e, -⟩ := h.part p
  rw [e]
  rfl

theorem State.Refreshes.launches {s t : State} (h : s.Refreshes t) : t.launches = s.launches := by
  obtain ⟨⟨_, _, _, _, _, _, rfl⟩, -, -⟩ := h
  rfl

theorem State.Refreshes.launch? {s t : State} (h : s.Refreshes t) (lid : Nat) : t.launch? lid = s.launch? lid := by
  rw [State.launch?, h.launches, State.launch?]

theorem State.Refreshes.bent {s t : State} (h : s.Refreshes t) (b : Nat) : t.bent b = s.bent b := by
  obtain ⟨⟨_, _, _, _, _, _, rfl⟩, -, -⟩ := h
  rfl

theorem State.Refreshes.ctx {s t : State} (h : s.Refreshes t) (c : Nat) : t.ctx c = s.ctx c := by
  obtain ⟨⟨_, _, _, _, _, _, rfl⟩, -, -⟩ := h
  rfl

theorem State.Refreshes.selected {s t : State} (h : s.Refreshes t) {p q : Nat} (hs : (s.part p).selected ≠ some q) :
    (t.part p).selected ≠ some q := by
  obtain ⟨_, _, c, e, hc⟩ := h.part p
  rw [e]
  obtain hc | hc := hc
  · exact fun h => hs (hc.symm.trans h)
  · exact fun h => nomatch hc.symm.trans h

/-- R378: the record of a command, as a change of it leaves the journal. -/
theorem State.getD_journal (s : State) (p seq n : Nat) (f : Journal → Journal) : NMap.getD ((s.journal p seq f).part p).journal n {} =
    if n = seq % 65536 ∧ (NMap.getD (s.part p).journal n {}).seq = seq then
      { f (NMap.getD (s.part p).journal n {}) with tlast := s.dtime } else NMap.getD (s.part p).journal n {} := by
  rw [State.journal, State.part_updPart]
  dsimp only
  rw [NMap.getD_modify]
  by_cases hn : n = seq % 65536
  · simp only [hn, true_and, if_true]
  · rw [if_neg hn, if_neg (fun h => hn h.1)]

/-- R378: the records of a list of commands once each has its state. -/
theorem State.getD_journalStates (p state : Nat) (l : List (Nat × Nat)) (s : State) :
    let J (t : State) (n : Nat) := NMap.getD (t.part p).journal n {}
    let t := l.foldl (fun t x => t.journalState p x.1 state) s
    (∀ n, (J t n).seq = (J s n).seq ∧ ((J s n).state = state → (J t n).state = state)) ∧
    ∀ x ∈ l, (J s (x.1 % 65536)).seq = x.1 → (J t (x.1 % 65536)).state = state := by
  induction l generalizing s with
  | nil => exact ⟨fun n => ⟨rfl, id⟩, fun x h => nomatch h⟩
  | cons y l ih =>
    intro J t
    obtain ⟨hkeep, hl⟩ := ih (s.journalState p y.1 state)
    have hJ (n : Nat) : J (s.journalState p y.1 state) n = _ := s.getD_journal p y.1 n (fun j => { j with state := state })
    have hone (n : Nat) : (J (s.journalState p y.1 state) n).seq = (J s n).seq ∧
        ((J s n).state = state → (J (s.journalState p y.1 state) n).state = state) := by
      rw [hJ]
      split
      · exact ⟨rfl, fun _ => rfl⟩
      · exact ⟨rfl, id⟩
    refine ⟨fun n => ⟨(hkeep n).1.trans (hone n).1, fun h => (hkeep n).2 ((hone n).2 h)⟩, ?_⟩
    rw [List.forall_mem_cons]
    refine ⟨fun hy => (hkeep _).2 ?_, fun x hx hseq => hl x hx ((hone _).1.trans hseq)⟩
    have hyJ := hJ (y.1 % 65536)
    rw [if_pos ⟨rfl, hy⟩] at hyJ
    exact congrArg Journal.state hyJ

theorem State.qcbs_journal (s : State) (p seq : Nat) (f : Journal → Journal) : ((s.journal p seq f).part p).qcbs = (s.part p).qcbs := by
  rw [State.journal, State.part_updPart]

/-! ### Appends (R320, R322) -/

theorem allZero_eq_false {l : List Byte} : allZero l = false ↔ ∃ x ∈ l, x ≠ 0 := by
  simp [allZero]

/-- R322: what refuses an append. -/
theorem refused_iff (c : List Byte) : (Cmd.of c).refused = true ↔
    bytesAt c 0 1 ≠ 1 ∨ (8 ≤ bytesAt c 1 1 ∧ bytesAt c 1 1 ≠ 0xFF) ∨ 64 ≤ bytesAt c 2 1 ∨ 2 ≤ bytesAt c 3 1 ∨
      (∃ x ∈ c.drop 40, x ≠ 0) ∨ bytesAt c 16 8 % 64 ≠ 0 ∨ bytesAt c 24 8 % 64 ≠ 0 ∨ bytesAt c 32 8 % 65536 ≠ 0 := by
  simp only [Cmd.refused, Bool.or_eq_true, Bool.and_eq_true, bne_iff_ne, decide_eq_true_eq, Bool.not_eq_true', allZero_eq_false, or_assoc]
  exact Iff.rfl

theorem Memory.getBytes_putBytes {m : List Host.Cell} (hw : Memory.wf m = true) (a : Nat) (l : List Byte) :
    Memory.getBytes (Memory.putBytes m a l) a l.length = l := by
  refine List.ext_getElem (Memory.getBytes_length ..) (fun k h1 h2 => ?_)
  simp only [Memory.getBytes, List.getElem_map, List.getElem_range]
  exact Memory.get_putBytes l m a k hw h2

/-- R320: the state after an append that is accepted, before the partition is looked at anew. -/
def State.appended (s : State) (p q : Nat) (c : List Byte) : State :=
  ((s.pokeHbm (((s.part p).qcb q).base + 128 * (((s.part p).qcb q).tail % ((s.part p).qcb q).slots)) c).updQcb p q (fun Q =>
    { Q with tail := Q.tail + 1, pend := Q.pend ++ [((s.part p).jnext, s.dtime)] })).newRecord p q 0x01 c

theorem exec_append_disabled {s : State} {p q : Nat} (h : ((s.part p).qcb q).en = false) (cmd : List Byte) :
    exec (.append p q cmd) s = .next (s.toHostMsg (.disabled p q)) := by
  have hr : s.append p q cmd = (s, .disabled) := by
    unfold State.append
    simp only [h, Bool.not_false, if_true]
  have hexec : exec (.append p q cmd) s = .next ((s.append p q cmd).1.toHostMsg ((s.append p q cmd).2.msg p q)) := rfl
  rw [hexec, hr]
  rfl

theorem exec_append_full {s : State} {p q : Nat} (h : ((s.part p).qcb q).en = true)
    (hf : ((s.part p).qcb q).tail - ((s.part p).qcb q).head = ((s.part p).qcb q).slots) (cmd : List Byte) :
    exec (.append p q cmd) s = .next (s.toHostMsg (.full p q)) := by
  have hr : s.append p q cmd = (s, .full) := by
    unfold State.append
    simp only [h, Bool.not_true, if_false, Bool.false_eq_true, if_pos hf]
  have hexec : exec (.append p q cmd) s = .next ((s.append p q cmd).1.toHostMsg ((s.append p q cmd).2.msg p q)) := rfl
  rw [hexec, hr]
  rfl

/-- R320, R322: an append to an enabled queue with room. -/
theorem exec_append_checked {s : State} {p q : Nat} (h : ((s.part p).qcb q).en = true)
    (hf : ((s.part p).qcb q).tail - ((s.part p).qcb q).head ≠ ((s.part p).qcb q).slots) (cmd : List Byte) :
    exec (.append p q cmd) s = .next (if (Cmd.of (padTo 128 0 cmd)).refused = true then s.toHostMsg (.refused p q)
      else ((s.appended p q (padTo 128 0 cmd)).refresh p).toHostMsg (.accepted p q (s.part p).jnext)) := by
  have hexec : exec (.append p q cmd) s = .next ((s.append p q cmd).1.toHostMsg ((s.append p q cmd).2.msg p q)) := rfl
  have hr : s.append p q cmd = if (Cmd.of (padTo 128 0 cmd)).refused = true then (s, .refused)
      else ((s.appended p q (padTo 128 0 cmd)).refresh p, .accepted (s.part p).jnext) := by
    unfold State.append
    simp only [h, Bool.not_true, if_false, Bool.false_eq_true, if_neg hf]
    rfl
  rw [hexec, hr]
  cases (Cmd.of (padTo 128 0 cmd)).refused <;> rfl

theorem State.qcb_updQcb (s : State) (p q : Nat) (f : Qcb → Qcb) : ((s.updQcb p q f).part p).qcb q = f ((s.part p).qcb q) := by
  rw [State.updQcb, State.part_updPart, Part.qcb, NMap.getD_modify, if_pos rfl]
  rfl

theorem State.pokeHbm_part (s : State) (a : Nat) (l : List Byte) (p : Nat) : (s.pokeHbm a l).part p = s.part p := by
  unfold State.pokeHbm
  split <;> rfl

theorem State.pokeHbm_dtime (s : State) (a : Nat) (l : List Byte) : (s.pokeHbm a l).dtime = s.dtime := by
  unfold State.pokeHbm
  split <;> rfl

theorem State.pokeHbm_ctxs (s : State) (a : Nat) (l : List Byte) : (s.pokeHbm a l).ctxs = s.ctxs := by
  unfold State.pokeHbm
  split <;> rfl

/-- R319, R320, R378: an accepted append's slot, sequence number and record. -/
theorem State.appended_shows (s : State) (p q : Nat) (c : List Byte) :
    ((s.appended p q c).part p).qcb q =
      { (s.part p).qcb q with
        tail := ((s.part p).qcb q).tail + 1, pend := ((s.part p).qcb q).pend ++ [((s.part p).jnext, s.dtime)] } ∧
    ((s.appended p q c).part p).jnext = (s.part p).jnext + 1 ∧
    ∃ j, NMap.get? ((s.appended p q c).part p).journal ((s.part p).jnext % 65536) = some j ∧
      (j.seq, j.queue, j.state, j.tapp, j.tlast, j.hash) = ((s.part p).jnext, q, 0x01, s.dtime, s.dtime, (sha512 c).take 16) := by
  have hpart (t : State) (f : Qcb → Qcb) : ((t.updQcb p q f).newRecord p q 0x01 c).part p =
      { t.part p with
        qcbs := NMap.modify (t.part p).qcbs q {} f
        journal := NMap.set (t.part p).journal ((t.part p).jnext % 65536)
          { seq := (t.part p).jnext, queue := q, tier := (Cmd.of c).tier, ctx := (Cmd.of c).ctx, state := 0x01
            hash := (sha512 c).take 16, deadline := (t.part p).effective (Cmd.of c).tier ((Cmd.of c).due t.dtime 0)
            tapp := t.dtime, tlast := t.dtime }
        jnext := (t.part p).jnext + 1 } := by
    rw [State.newRecord, State.part_updPart, State.updQcb, State.part_updPart]
    rfl
  rw [State.appended, hpart, State.pokeHbm_part, State.pokeHbm_dtime]
  refine ⟨?_, rfl, _, (NMap.get?_set ..).trans (if_pos rfl), rfl⟩
  dsimp only [Part.qcb]
  rw [NMap.getD_modify, if_pos rfl]

/-- R319: an accepted append's command stands in its slot. -/
theorem State.mem_appended {s : State} (ho : s.Ordered) (p q : Nat) (c : List Byte)
    (h : ((s.part p).qcb q).base + 128 * (((s.part p).qcb q).tail % ((s.part p).qcb q).slots) + c.length ≤ hbmBytes) :
    Memory.getBytes (s.appended p q c).mem
      (((s.part p).qcb q).base + 128 * (((s.part p).qcb q).tail % ((s.part p).qcb q).slots)) c.length = c := by
  have hmem : (s.appended p q c).mem = Memory.putBytes s.mem
      (((s.part p).qcb q).base + 128 * (((s.part p).qcb q).tail % ((s.part p).qcb q).slots)) c :=
    congrArg State.mem (if_pos h)
  rw [hmem]
  exact Memory.getBytes_putBytes ho.wf _ c

/-! ### EN of a queue cleared (R319) -/

/-- R319: the state once a queue's commands are discarded, before the partition is looked at anew. -/
def State.discarded (s : State) (p q : Nat) : State :=
  (((s.part p).qcb q).pend.foldl (fun t x => t.journalState p x.1 0x09) s).updPart p (fun P =>
    { P with
      qcbs := NMap.set P.qcbs q { (s.part p).qcb q with en := false, head := ((s.part p).qcb q).tail, pend := [] }
      selected := if P.selected = some q then none else P.selected
      held := NMap.erase P.held q })

theorem exec_qcbDisable_of_enabled {s : State} {p q : Nat} (h : ((s.part p).qcb q).en = true) :
    exec (.qcbDisable p q) s = .next ((s.discarded p q).refresh p) := if_pos h

theorem State.discarded_shows (s : State) (p q : Nat) :
    ((s.discarded p q).part p).qcb q =
      { (s.part p).qcb q with en := false, head := ((s.part p).qcb q).tail, pend := [] } ∧
    ((s.discarded p q).part p).selected ≠ some q ∧
    ((s.discarded p q).part p).journal =
      ((((s.part p).qcb q).pend.foldl (fun t x => t.journalState p x.1 0x09) s).part p).journal := by
  rw [State.discarded, State.part_updPart]
  refine ⟨(NMap.getD_set ..).trans (if_pos rfl), ?_, rfl⟩
  dsimp only
  split
  · exact nofun
  · next h => exact h

end Sys2Proof.Machine

namespace Sys2Proof.Proofs

open Sys2Proof.Machine

/-- Settles O49: the answers to an append, and a queue enabled and disabled. -/
theorem commandQueues : Obligations.CommandQueues := by
  unfold Obligations.CommandQueues
  intro s p q cmd P Q c bad
  refine ⟨fun hen => exec_append_disabled hen cmd, fun hen hfull => exec_append_full hen hfull cmd, fun hen hroom hbad => ?_,
    fun hen hroom hbad => ?_, fun hen hslots => ⟨_, if_neg ?_, rfl, ?_⟩, fun hen => ⟨_, exec_qcbDisable_of_enabled hen, ?_, ?_, ?_⟩⟩
  · rw [exec_append_checked hen hroom, if_pos ((refused_iff c).mpr hbad)]
  · obtain ⟨hqcb, hjnext, j, hj, hfields⟩ := s.appended_shows p q c
    have hr := (s.appended p q c).refreshes_refresh p
    refine ⟨((s.appended p q c).refresh p).toHostMsg (.accepted p q P.jnext), j, ?_, List.getLast?_concat, ?_, ?_, ?_, hfields,
      fun ho hidle hslots hbase => ?_⟩
    · rw [exec_append_checked hen hroom, if_neg (fun h => hbad ((refused_iff c).mp h))]
    · rw [State.part_toHostMsg, hr.qcb, hqcb]
    · obtain ⟨_, _, _, e, -⟩ := hr.part p
      rw [State.part_toHostMsg, e, hjnext]
    · rw [State.part_toHostMsg, hr.journal, hj]
    · have hlen : c.length = 128 := length_padTo ..
      have hmod := Nat.mod_lt Q.tail (Nat.pos_of_ne_zero hslots)
      have hin : Q.base + 128 * (Q.tail % Q.slots) + c.length ≤ hbmBytes := by
        have hbytes : hbmBytes = 768 * 2 ^ 30 := rfl
        omega
      have hstill (n : Nat) : ((s.appended p q c).ctx n).en = false :=
        (congrArg (fun m : NMap Ctx => (NMap.getD m n {}).en) (State.pokeHbm_ctxs ..)).trans (hidle n)
      have hslot := State.mem_appended ho p q c hin
      rw [hlen] at hslot
      rw [State.toHostMsg_mem, State.mem_refresh_of_idle hstill]
      exact hslot
  · exact fun h => h.elim (fun h => Bool.noConfusion (hen.symm.trans h)) hslots
  · exact s.qcb_updQcb p q _
  · obtain ⟨hqcb, -, -⟩ := s.discarded_shows p q
    exact (((s.discarded p q).refreshes_refresh p).qcb p q).trans hqcb
  · obtain ⟨-, hsel, -⟩ := s.discarded_shows p q
    exact ((s.discarded p q).refreshes_refresh p).selected hsel
  · intro x hx j hj hseq
    obtain ⟨-, -, hjournal⟩ := s.discarded_shows p q
    rw [((s.discarded p q).refreshes_refresh p).journal p, hjournal]
    refine (State.getD_journalStates p 0x09 Q.pend s).2 x hx ?_
    exact (congrArg (fun o : Option Journal => (o.getD {}).seq) hj).trans hseq

end Sys2Proof.Proofs
end
section
/-! PROOFS. Errors, repair and links (R365 to R376): the statement fails where a repair ends. -/

open Sys2Proof

namespace Sys2Proof.Machine

/-- R375: an unmapping of a bent that no spare answers for ends with its result and nothing else done to the bent. -/
theorem exec_repairMappingDone_of_unmapped {s : State} {p n spare : Nat} (h : (s.part p).repairing = some (true, n, spare))
    (hs : NMap.has s.device.spares n = false) : exec (.repairMappingDone p) s = .next ((s.updPart p (fun P =>
      { P with
        repairing := none
        repair := (P.repair &&& 0xFF01) |||
          BitVec.ofNat 64 ((if (Config.fusedMap n).isSome then 2 else 1) * 2 ^ 61) })).refresh (n / 24)) := by
  have hexec : exec (.repairMappingDone p) s = execRepairMappingDone p s := rfl
  have hr : s.repairResult true n spare = (s, if (Config.fusedMap n).isSome then 2 else 1) := by
    unfold State.repairResult
    cases (Config.fusedMap n).isSome with
    | true => rfl
    | false => simp only [hs, if_true, if_false, Bool.false_eq_true]
  rw [hexec, execRepairMappingDone, h]
  dsimp only
  rw [hr]

end Sys2Proof.Machine

namespace Sys2Proof.Proofs
open Sys2Proof.Machine Sys2Proof.Tests

/-- A partition that unmaps the spare of its bent 0, which has none, while a command stands at a queue's head with its header not
read yet: it lies in page 0x40, which another context than the command's owns. -/
def repairState : State :=
  { sysD with pageOwner := [(0x40, 1)] }.updPart 0 (fun P => { P with repairing := some (true, 0, 0) })

/-- The repair of `repairState` ended with a result. -/
def repairEnded (r : Nat) : State := (repairState.updPart 0 (fun P =>
  { P with repairing := none, repair := (P.repair &&& 0xFF01) ||| BitVec.ofNat 64 (r * 2 ^ 61) })).refresh 0

theorem exec_repairState (r : Nat) (h : (if (Config.fusedMap 0).isSome then 2 else 1) = r) :
    exec (.repairMappingDone 0) repairState = .next (repairEnded r) := by
  rw [exec_repairMappingDone_of_unmapped (n := 0) (spare := 0) (by decide) (by decide), h]
  rfl

theorem repairState_keys : NMap.has repairState.device.pageKeys 0x40 = false := by decide

theorem repairEnded_keys : NMap.has (repairEnded 1).device.pageKeys 0x40 = true ∧ NMap.has (repairEnded 2).device.pageKeys 0x40 = true := by
  decide +kernel

/-- What the statement says of the end of a repair does not hold for a result whose end leaves page 0x40 with a key. -/
theorem repairEnded_device {r : Nat} (he : exec (.repairMappingDone 0) repairState = .next (repairEnded r))
    (hk : NMap.has (repairEnded r).device.pageKeys 0x40 = true) {q : State → Prop}
    (h : ∃ t, exec (.repairMappingDone 0) repairState = .next t ∧ q t ∧ t.device = repairState.device ∧ t.bents = repairState.bents) :
    False := by
  obtain ⟨t, ht, -, hd, -⟩ := h
  obtain rfl : repairEnded r = t := Host.Outcome.next.inj (he.symm.trans ht)
  rw [hd, repairState_keys] at hk
  exact Bool.noConfusion hk

/-- Refutes O53: the end of a repair may make a bent placeable, so that the headers of commands are read at once, and the read of a
container on a page of another owner zeroes that page and stores it under the owner's key from then on (R323, R343, R399): the device
is not as it was, whether fuses or nothing had mapped the bent. -/
theorem not_errorsAndRepair : ¬ Obligations.ErrorsAndRepair := by
  intro h
  obtain ⟨-, -, -, -, -, -, -, hrepair, -⟩ := h repairState 0 0 0 0 0 (.mem 0) 0
  obtain ⟨hfused, -, hnone, -⟩ := hrepair true 0 0 (by decide)
  obtain ⟨hk1, hk2⟩ := repairEnded_keys
  cases hf : (Config.fusedMap 0).isSome with
  | true => exact repairEnded_device (exec_repairState 2 (if_pos hf)) hk2 (hfused hf)
  | false => exact repairEnded_device (exec_repairState 1 (if_neg (ne_true_of_eq_false hf))) hk1 (hnone hf rfl (by decide))

end Sys2Proof.Proofs
end
section
/-! PROOFS. The device window: host writes (R352), firmware (R380, R381), attestation (R383), keys (R384), debug (R385), reset (R386,
R387), power (R388), the fabric identifier (R398) and registers whose tables alone say what a write does. -/

open Sys2Proof

namespace Sys2Proof.Machine

/-! ### Host writes (R352) -/

theorem State.length_hostLocs {s t : State} {p c va n : Nat} {as : List Nat} (h : s.hostLocs p c va n = (t, some as)) :
    as.length = n := by
  induction n generalizing t as with
  | zero =>
    obtain rfl : [] = as := Option.some.inj (congrArg Prod.snd h)
    rfl
  | succ n ih =>
    unfold State.hostLocs at h ih
    rw [List.range_succ, List.foldl_append] at h
    generalize (List.range n).foldl _ (s, some []) = r at h ih
    obtain ⟨u, o⟩ := r
    cases o with
    | none => exact nomatch congrArg Prod.snd h
    | some l =>
      obtain ⟨a, -, rfl⟩ := Option.map_eq_some_iff.mp (congrArg Prod.snd h)
      rw [List.length_append, ih rfl]
      rfl

/-- A write in runs of neighbouring bytes is a write byte by byte. -/
theorem foldl_byteRuns (as : List Nat) (l : List Byte) (m : List Host.Cell) :
    (byteRuns as l).foldl (fun m x => Memory.putBytes m x.1 x.2) m = (as.zip l).foldl (fun m x => Memory.put m x.1 x.2) m := by
  induction as generalizing l m with
  | nil => rfl
  | cons a as ih =>
    cases l with
    | nil => rfl
    | cons v l =>
      rw [List.zip_cons_cons, List.foldl_cons, ← ih, byteRuns]
      split
      · next c k rest hr =>
        rw [hr]
        split
        · next hc =>
          rw [hc]
          rfl
        · rfl
      · next hr =>
        rw [hr]
        rfl

theorem get_foldl_put (as : List Nat) (l : List Byte) {m : List Host.Cell} (hm : Memory.wf m = true) (hl : as.length = l.length)
    (ha : as.Nodup) :
    (∀ k < l.length, Memory.get ((as.zip l).foldl (fun m x => Memory.put m x.1 x.2) m) (as.getD k 0) = l.getD k 0) ∧
    ∀ b, b ∉ as → Memory.get ((as.zip l).foldl (fun m x => Memory.put m x.1 x.2) m) b = Memory.get m b := by
  induction as generalizing l m with
  | nil =>
    obtain rfl : l = [] := List.length_eq_zero_iff.mp hl.symm
    exact ⟨fun k hk => (nomatch hk), fun b _ => rfl⟩
  | cons a as ih =>
    cases l with
    | nil => exact nomatch hl
    | cons v l =>
      obtain ⟨hnot, hnd⟩ := List.nodup_cons.mp ha
      obtain ⟨hin, hout⟩ := ih l (Memory.put_wf m a v hm) (Nat.succ.inj hl) hnd
      rw [List.zip_cons_cons, List.foldl_cons]
      refine ⟨fun k hk => ?_, fun b hb => ?_⟩
      · cases k with
        | zero =>
          refine (hout a hnot).trans ?_
          rw [Memory.get_put m a v a hm, if_pos rfl]
          rfl
        | succ k => exact hin k (Nat.lt_of_succ_lt_succ hk)
      · rw [hout b (List.not_mem_of_not_mem_cons hb), Memory.get_put m a v b hm, if_neg (List.ne_of_not_mem_cons hb)]

theorem State.mem_foldl_poke (l : List (Nat × List Byte)) (s : State) :
    (l.foldl (fun t x => t.poke x.1 x.2) s).mem = l.foldl (fun m x => Memory.putBytes m x.1 x.2) s.mem := by
  induction l generalizing s with
  | nil => rfl
  | cons x l ih => exact ih (s.poke x.1 x.2)

/-- R352: what a host write leaves at the places of its bytes and elsewhere. -/
theorem State.byte_foldl_poke {s : State} (ho : s.Ordered) {as : List Nat} {l : List Byte} (hl : as.length = l.length)
    (ha : as.Nodup) :
    (∀ k < l.length, ((byteRuns as l).foldl (fun t x => t.poke x.1 x.2) s).byte (as.getD k 0) = l.getD k 0) ∧
    ∀ b, b ∉ as → ((byteRuns as l).foldl (fun t x => t.poke x.1 x.2) s).byte b = s.byte b := by
  simp only [State.byte, State.mem_foldl_poke, foldl_byteRuns]
  exact get_foldl_put as l ho.wf hl ha

theorem exec_hostWindowWrite_of_locs {s t : State} {p c : Nat} {addr : Word} {l : List Byte} (h : addr.toNat < 2 ^ 52)
    {o : Option (List Nat)} (hl : s.hostLocs p c addr.toNat l.length = (t, o)) :
    exec (.hostWindowWrite p c addr l) s = .next (match o with
      | none => t.toHostMsg (.windowRefused p addr.toNat)
      | some as => (byteRuns as l).foldl (fun t x => t.poke x.1 x.2) t) := by
  have hexec : exec (.hostWindowWrite p c addr l) s = execHostWindowWrite p c addr l s := rfl
  rw [hexec, execHostWindowWrite, if_neg (Nat.not_le.mpr h)]
  simp only [hl]
  cases o <;> rfl

/-! ### Firmware (R380, R381) -/

theorem exec_firmwareReplace_eq (p n w : Nat) (x : List Byte) (s : State) : exec (.firmwareReplace p n w x) s =
    .next (if ((s.part p).offline = true ∨ s.device.refusedImage.isSome = true) ∧ n < 3 ∧ Config.firmwareSignatureOk x = true ∧
        NMap.getD s.device.fwMin n 0 ≤ w then { s with device := s.device.install n w x }
      else s.toHostMsg (.firmwareRefused n)) := by
  have hexec : exec (.firmwareReplace p n w x) s = execFirmwareReplace p n w x s := rfl
  rw [hexec, execFirmwareReplace]
  simp only [Device.verifies, Bool.and_eq_true, Bool.or_eq_true, decide_eq_true_eq, and_assoc]
  exact (apply_ite Host.Outcome.next _ _ _).symm

theorem Device.install_shows (D : Device) (n w : Nat) (x : List Byte) : (D.install n w x).image n = x ∧
    NMap.get? (D.install n w x).fwVersion n = some w ∧ NMap.get? (D.install n w x).fwMin n = some w :=
  ⟨(NMap.getD_set ..).trans (if_pos rfl), (NMap.get?_set ..).trans (if_pos rfl), (NMap.get?_set ..).trans (if_pos rfl)⟩

/-! ### Attestation (R383) -/

theorem State.length_reportOf (s : State) (x : List Byte) : (s.reportOf x).length = 512 := by
  have himages : ((List.range 3).flatMap (fun k => padTo 64 0 (sha512 (s.device.image k)))).length = 192 := by
    rw [List.length_flatMap]
    simp only [length_padTo]
    rfl
  simp only [State.reportOf, State.reportBody, List.length_append, leBytes_length, length_padTo, himages, List.length_replicate]

theorem exec_attestationRequest_of_idle {s : State} (h : s.device.forming = none) (x : List Byte) :
    exec (.attestationRequest x) s = .next (s.updDevice (fun D => { D with forming := some x })) := by
  have hexec : exec (.attestationRequest x) s = execAttestationRequest x s := rfl
  rw [hexec, execAttestationRequest, State.updDevice, h]
  rfl

theorem exec_attestationRequest_of_forming {s : State} (h : s.device.forming.isSome = true) (x : List Byte) :
    exec (.attestationRequest x) s = .next (s.updDevice (fun D => { D with nonces := D.nonces ++ [x] })) := by
  have hexec : exec (.attestationRequest x) s = execAttestationRequest x s := rfl
  rw [hexec, execAttestationRequest, State.updDevice, if_pos h]
  rfl

theorem exec_attestationReportDone_of_forming {s : State} {x : List Byte} (h : s.device.forming = some x) :
    exec .attestationReportDone s = .next (s.updDevice (fun D =>
      { D with report := s.reportOf x, lastNonce := padTo 64 0 x, forming := D.nonces.head?, nonces := D.nonces.drop 1 })) := by
  have hexec : exec .attestationReportDone s = execAttestationReportDone s := rfl
  rw [hexec, execAttestationReportDone, h]

/-! ### Key slots (R384) -/

section
variable {s : State} {slot a : Nat}

theorem State.keyBlob_eq (h : a + 193 ≤ 768 * 2 ^ 30) : s.keyBlob a = Memory.getBytes s.mem a 193 := if_pos h

/-- R384: the results of an operation on a key slot. -/
theorem State.keyResult_spec (load : Bool) : let K := s.device.keySlots
    (load = true → s.device.debug = true → s.keyResult load slot a = (4, K)) ∧
    (load = false ∨ s.device.debug = false → s.keyInUse slot = true → s.keyResult load slot a = (3, K)) ∧
    (load = false → s.keyInUse slot = false → s.keyResult load slot a = (1, NMap.erase K slot)) ∧
    (load = true → s.device.debug = false → s.keyInUse slot = false → a + 193 ≤ 768 * 2 ^ 30 →
      (Config.keyBlobOk slot (Memory.getBytes s.mem a 193) = true →
        s.keyResult load slot a = (1, NMap.set K slot (Memory.getBytes s.mem a 193))) ∧
      (Config.keyBlobOk slot (Memory.getBytes s.mem a 193) = false → s.keyResult load slot a = (2, K))) := by
  intro K
  unfold State.keyResult
  simp only []
  refine ⟨fun hl hd => if_pos (by rw [hl, hd]; rfl), fun hl hu => ?_, fun hl hu => ?_, fun hl hd hu ha => ?_⟩
  · rw [if_neg (by obtain rfl | hd := hl <;> simp [*]), if_pos hu]
  · rw [if_neg (by simp [hl]), if_neg (ne_true_of_eq_false hu), if_pos (by rw [hl]; rfl)]
  · have hne : (Memory.getBytes s.mem a 193).isEmpty = false := rfl
    rw [if_neg (by simp [hd]), if_neg (ne_true_of_eq_false hu), if_neg (by simp [hl]), State.keyBlob_eq ha, hne]
    exact ⟨fun h => if_neg (by rw [h]; exact Bool.noConfusion), fun h => if_pos (by rw [h]; rfl)⟩

theorem exec_keycmdDone_of_busy {load : Bool} (h : s.device.keyBusy = some (load, slot, a)) {r : Nat} {K : NMap (List Byte)}
    (hr : s.keyResult load slot a = (r, K)) : exec .keycmdDone s = .next (s.updDevice (fun D =>
      { D with
        keyBusy := none, keySlots := K
        keycmd := (D.keycmd &&& 0x003FFFFFFFFFFFC0) ||| BitVec.ofNat 64 (r * 2 ^ 60) })) := by
  have hexec : exec .keycmdDone s = execKeycmdDone s := rfl
  rw [hexec, execKeycmdDone, h]
  simp only [hr]

theorem exec_keyOp {v : Word} {q : Instr × Nat × Bool} (hq : q ∈ [(Instr.keyLoad v, 1, true), (.keyClear v, 2, false)])
    (h : keyOp v = q.2.1) : exec q.1 s = .next (s.beginKey v q.2.2) := by
  rw [List.mem_cons, List.mem_singleton] at hq
  obtain rfl | rfl := hq <;> exact if_pos h

theorem State.beginKey_of_idle (h : s.device.keyBusy = none) (v : Word) (load : Bool) : s.beginKey v load = s.updDevice (fun D =>
    { D with keycmd := (v &&& 0x003FFFFFFFFFFFC0) ||| 0x8000000000000000, keyBusy := some (load, keySlot v, keyAddr v) }) := by
  rw [State.beginKey, h]
  rfl

end

/-! ### Debug and reset (R385, R387) -/

theorem State.launches_endUnrecorded (s : State) (lid : Nat) : (s.endUnrecorded lid).launches = NMap.erase s.launches lid := by
  have hfold (l : List Nat) (t : State) : (l.foldl (fun t b => t.updBent b Bent.freed) t).launches = t.launches := by
    induction l generalizing t with
    | nil => rfl
    | cons b l ih => exact ih (t.updBent b Bent.freed)
  exact congrArg (NMap.erase · lid) (hfold ..)

theorem State.launches_foldl_endUnrecorded (l : List Nat) (s : State) :
    (l.foldl State.endUnrecorded s).launches = s.launches.filter (fun x => !l.contains x.1) := by
  induction l generalizing s with
  | nil => exact (List.filter_eq_self.mpr (fun _ _ => rfl)).symm
  | cons a l ih =>
    refine (ih _).trans ?_
    rw [State.launches_endUnrecorded, NMap.erase, List.filter_filter]
    refine List.filter_congr (fun x _ => ?_)
    rw [List.contains_cons, Bool.not_or, Bool.and_comm]
    rfl

theorem State.launches_all_ended (s : State) : ((s.launches.map Prod.fst).foldl State.endUnrecorded s).launches = [] := by
  rw [State.launches_foldl_endUnrecorded]
  exact List.filter_eq_nil_iff.mpr (fun x hx => by simpa using ⟨x.2, hx⟩)

/-- R385: the state as debug is unlocked, before the partitions are looked at anew. -/
def State.unlocked (s : State) : State :=
  ((s.launches.map Prod.fst).foldl State.endUnrecorded s).zeroDevice.updDevice (fun D =>
    { D with keySlots := [], pageKeys := [], debug := true })

theorem exec_debugUnlock_of_token {s : State} {x : List Byte} (h : s.device.lastNonce ≠ [])
    (hx : Config.debugTokenOk (x ++ s.device.lastNonce) = true) :
    exec (.debugUnlock x) s = .next ((List.range 8).foldl State.refresh s.unlocked) := if_pos ⟨h, hx⟩

theorem isHost_iff (a : Nat) : isHost a = true ↔ 2 ^ 60 ≤ a ∧ a < 2 ^ 80 := by
  simp [isHost]

theorem State.byte_filter_isHost (s : State) (a : Nat) :
    Memory.get (s.mem.filter (fun c => isHost c.1)) a = if 2 ^ 60 ≤ a ∧ a < 2 ^ 80 then s.byte a else 0 := by
  rw [get_filter_cells isHost]
  simp only [isHost_iff]
  rfl

/-! ### Power (R388) -/

theorem Device.gateAfter_bounds (D : Device) (w tj n : Nat) : D.gateAfter w tj n ≤ max 15 D.gate ∧
    (w ≤ D.pwrcap → tj ≤ 840 → D.gateAfter w tj n ≤ D.gate) ∧
    (D.pwrcap < w ∨ 840 < tj → 1 ≤ D.gateAfter w tj n ∧ D.gateAfter w tj n ≤ 15) := by
  unfold Device.gateAfter
  simp only []
  generalize Config.gatedSlots w D.pwrcap (tj % 2 ^ 12 + 2 ^ 12 * n) = g
  have h15 := Nat.mod_lt g (show 0 < 15 by decide)
  split
  · next h => exact ⟨by omega, fun hw ht => by omega, fun _ => by omega⟩
  · next h => exact ⟨(Nat.min_le_left ..).trans (Nat.le_max_right ..), fun _ _ => Nat.min_le_left .., fun hh => absurd hh h⟩

theorem State.ctx_updCtx (s : State) (c : Nat) (f : Ctx → Ctx) : (s.updCtx c f).ctx c = f (s.ctx c) :=
  (NMap.getD_modify ..).trans (if_pos rfl)

theorem clampTo_bounds {lo hi : Nat} (h : lo ≤ hi) (n : Nat) : lo ≤ clampTo lo hi n ∧ clampTo lo hi n ≤ hi :=
  ⟨Nat.le_min.mpr ⟨h, Nat.le_max_left ..⟩, Nat.min_le_left ..⟩

/-- R398. -/
theorem readFabid_of_valid {D : Device} (v : Word) :
    ({ D with fabid := v.extractLsb' 0 16, fabidValid := true } : Device).readFabid = BitVec.ofNat 64 (2 ^ 16 + v.toNat % 2 ^ 16) := by
  simp [Device.readFabid, BitVec.extractLsb'_toNat]

/-! ### Registers whose tables alone say what a write does -/

section
variable {s : State} {p off : Nat} {v : Word}

theorem exec_registerWrite_part (hp : p < 8) (h : ¬(0x1000 ≤ off ∧ off < 0x2000)) :
    exec (.registerWrite (.partition p) off v) s = .next ((s.updPart p (fun P => P.store off v)).refresh p) :=
  (if_neg (Nat.not_le.mpr hp)).trans (if_neg h)

theorem exec_registerWrite_ctx (hp : p < 8) (h : 0x1000 ≤ off ∧ off < 0x2000) (h8 : off % 8 = 0) :
    exec (.registerWrite (.partition p) off v) s =
      .next ((s.updCtx ((off - 0x1000) / 64) (fun C => C.store (off % 64) v)).refreshAll) :=
  (if_neg (Nat.not_le.mpr hp)).trans ((if_pos h).trans (congrArg Host.Outcome.next (if_pos h8)))

end

theorem Part.judge_keeps {α : Type} (f : Part → α) (hf : ∀ P q, f { P with quarantined := q } = f P) (P : Part) (j k : Nat) :
    f (P.judge j k) = f P := by
  unfold Part.judge
  split
  · exact hf P _
  · rfl

theorem Part.judgeAll_keeps {α : Type} (f : Part → α) (hf : ∀ P q, f { P with quarantined := q } = f P) (P : Part) :
    f P.judgeAll = f P := by
  have hfold (l : List Nat) (P : Part) : f (l.foldl (fun P n => P.judge (n / 8) (n % 8)) P) = f P := by
    induction l generalizing P with
    | nil => rfl
    | cons n l ih => exact (ih _).trans (P.judge_keeps f hf ..)
  exact hfold _ P

/-- R325. -/
theorem Part.store_tier (P : Part) {k : Nat} (hk : k < 8) (v : Word) :
    (P.store (0x800 + 8 * k) v).tierOff.toList.getD k 0 = v.toNat % 2 ^ 40 := by
  have hs : P.store (0x800 + 8 * k) v = P.storeTier k v := by
    unfold Part.store
    rw [if_neg (by omega), if_pos (by omega)]
    congr 1
    omega
  rw [hs, Part.storeTier]
  simp only [dif_pos hk, Vector.toList_set, List.getD_eq_getElem?_getD]
  rw [List.getElem?_set_self (by rw [Vector.length_toList]; exact hk)]
  rfl

theorem Part.store_floor (P : Part) (v : Word) : (P.store 0x840 v).floor = min 64 (max 4 v.toNat) := rfl

theorem Part.store_hangNs (P : Part) (v : Word) : (P.store 0x868 v).hangNs = min (2 ^ 40 - 1) (max (10 ^ 6) v.toNat) := rfl

theorem Part.store_vtthr (P : Part) (v : Word) : (P.store 0x880 v).vtthr = max 1 (v.toNat % 128) :=
  Part.judgeAll_keeps Part.vtthr (fun _ _ => rfl) { P with vtthr := Nat.max 1 (v.toNat % 128) }

section
variable {C : Ctx} (h : C.en = false) (v : Word)
include h

theorem Ctx.store_droot : C.store 0 v = { C with droot := v.toNat } := if_neg (ne_true_of_eq_false h)

theorem Ctx.store_hroot : C.store 8 v = { C with hroot := v.toNat } := if_neg (ne_true_of_eq_false h)

theorem Ctx.store_fields : C.store 16 v = { C with kslot := v.toNat % 64, pmask := v.toNat / 2 ^ 8 % 256 } :=
  if_neg (ne_true_of_eq_false h)

end

theorem Qcb.store_base {Q : Qcb} (h : Q.en = false) {v : Word} (hv : v.toNat % 4096 = 0) : Q.store 0 v = { Q with base := v.toNat } :=
  (if_neg (ne_true_of_eq_false h)).trans ((if_pos rfl).trans (if_pos hv))

theorem Qcb.store_slots {Q : Qcb} (h : Q.en = false) {v : Word} {n : Nat} (hv : v.toNat % 2 ^ 32 = n) (hok : slotsOk n = true) :
    Q.store 8 v = { Q with slots := n } := by
  subst hv
  exact (if_neg (ne_true_of_eq_false h)).trans ((if_neg (by decide)).trans ((if_pos rfl).trans (if_pos hok)))

theorem slotsOk_pow {e : Nat} (h4 : 4 ≤ e) (h16 : e ≤ 16) : slotsOk (2 ^ e) = true := by
  interval_cases e <;> decide

/-- A write to a partition's window, as a field of the partition shows it that no refresh changes. -/
theorem exists_registerWrite_part {s : State} {p off : Nat} {v : Word} {α : Type} (f : Part → α) {x : α} (hp : p < 8)
    (ho : ¬(0x1000 ≤ off ∧ off < 0x2000)) (hf : ∀ P h r c, f { P with held := h, reported := r, selected := c } = f P)
    (hx : f ((s.part p).store off v) = x) :
    ∃ t, exec (.registerWrite (.partition p) off v) s = .next t ∧ f (t.part p) = x := by
  refine ⟨_, exec_registerWrite_part hp ho, ?_⟩
  obtain ⟨_, _, _, e, -⟩ := (State.refreshes_refresh (s.updPart p (fun P => P.store off v)) p).part p
  rw [e, hf, State.part_updPart, hx]

/-- A write to the fields of a context that is not in residence. -/
theorem exists_registerWrite_ctx {s : State} {p k f : Nat} {v : Word} {C : Ctx} (hp : p < 8) (hk : k < 64) (hf : f < 64) (h8 : f % 8 = 0)
    (hC : (s.ctx k).store f v = C) :
    ∃ t, exec (.registerWrite (.partition p) (0x1000 + f + 64 * k) v) s = .next t ∧ t.ctx k = C := by
  refine ⟨_, exec_registerWrite_ctx hp (by omega) (by omega), ?_⟩
  have hdiv : (0x1000 + f + 64 * k - 0x1000) / 64 = k := by omega
  have hmod : (0x1000 + f + 64 * k) % 64 = f := by omega
  rw [(State.refreshes_refreshAll _).ctx, hdiv, hmod, State.ctx_updCtx, hC]

/-- R319: a write to BASE or SLOTS of a queue. -/
theorem Part.qcb_store (P : Part) {k f : Nat} (hk : k < 256) (hf : f < 64) (h8 : f % 8 = 0) (v : Word) :
    (P.store (0x4000 + f + 64 * k) v).qcb k = (P.qcb k).store f v := by
  have hdiv : (0x4000 + f + 64 * k - 0x4000) / 64 = k := by omega
  have hmod : (0x4000 + f + 64 * k) % 64 = f := by omega
  have hs : P.store (0x4000 + f + 64 * k) v = { P with qcbs := NMap.modify P.qcbs k {} (fun Q => Q.store f v) } := by
    unfold Part.store
    rw [if_neg (by omega), if_neg (by omega), if_neg (by omega), if_neg (by omega), if_neg (by omega), if_neg (by omega),
      if_neg (by omega), if_neg (by omega), if_pos (by omega), hdiv, hmod]
  rw [hs, Part.qcb, NMap.getD_modify, if_pos rfl]
  rfl

end Sys2Proof.Machine

namespace Sys2Proof.Proofs

open Sys2Proof.Machine

/-- Settles O54: each write to the device window and each step of bring-up by the lemma for it. -/
theorem deviceWindow : Obligations.DeviceWindow := by
  unfold Obligations.DeviceWindow
  intro s p c n w tj v addr l x D P K
  refine ⟨fun h => if_pos h, fun h t1 hl => exec_hostWindowWrite_of_locs h hl, fun h ho t1 as hl ha => ?_, ?_, ?_, ?_, ?_, ?_, ?_, ?_, ?_,
    ?_, ?_, ?_, ?_, ?_, ?_, ?_⟩
  · have ho1 : t1.Ordered := by
      have := State.hostLocs_ordered ho p c addr.toNat l.length
      rwa [hl] at this
    exact ⟨_, exec_hostWindowWrite_of_locs h hl, State.byte_foldl_poke ho1 (State.length_hostLocs hl) ha⟩
  · intro ok
    rw [exec_firmwareReplace_eq]
    exact ⟨fun h => congrArg Host.Outcome.next (if_neg h),
      fun h => ⟨_, congrArg Host.Outcome.next (if_pos h), rfl, D.install_shows n w x⟩⟩
  · exact fun h => ⟨_, exec_attestationRequest_of_idle h x, rfl, rfl⟩
  · exact fun h => ⟨_, exec_attestationRequest_of_forming h x, rfl, rfl⟩
  · exact fun h => ⟨_, exec_attestationReportDone_of_forming h, rfl, rfl, s.length_reportOf x, rfl, rfl⟩
  · intro q hq hop hidle
    rw [exec_keyOp hq hop, State.beginKey_of_idle hidle]
    exact ⟨_, rfl, rfl, rfl, rfl, rfl⟩
  · intro load slot a h blob done
    have hdone {r : Nat} {K2 : NMap (List Byte)} (hr : s.keyResult load slot a = (r, K2)) : done r K2 :=
      ⟨_, exec_keycmdDone_of_busy h hr, rfl, rfl, rfl, rfl⟩
    obtain ⟨hdebug, huse, hclear, hload⟩ := State.keyResult_spec (s := s) (slot := slot) (a := a) load
    exact ⟨fun hl hd => hdone (hdebug hl hd), fun hl hu => hdone (huse hl hu), fun hl hu => hdone (hclear hl hu),
      fun hl hd hu ha => ⟨fun hk => hdone ((hload hl hd hu ha).1 hk), fun hk => hdone ((hload hl hd hu ha).2 hk)⟩⟩
  · intro hn hx
    have hr := State.refreshes_foldl State.refresh State.refreshes_refresh (List.range 8) s.unlocked
    refine ⟨_, exec_debugUnlock_of_token hn hx, ?_, ?_, hr.launches.trans s.launches_all_ended, ?_, fun a => ?_⟩
    · obtain ⟨⟨_, _, _, _, _, _, e⟩, -, -⟩ := hr
      rw [e]
      rfl
    · obtain ⟨⟨_, _, _, _, _, _, e⟩, -, -⟩ := hr
      rw [e]
      rfl
    · obtain ⟨⟨_, _, _, _, _, _, e⟩, -, -⟩ := hr
      rw [e]
      rfl
    · by_cases ha : 2 ^ 60 ≤ a ∧ a < 2 ^ 80
      · exact .inl ha
      · have h0 : s.unlocked.byte a = 0 := (State.byte_filter_isHost _ a).trans (if_neg ha)
        obtain hb | hb := hr.byte a
        · exact .inr (hb.trans h0)
        · exact .inr hb
  · intro h
    refine if_neg (fun hh => ?_)
    obtain ⟨hn, hx⟩ := hh
    exact h.elim hn (fun hf => Bool.noConfusion (hf.symm.trans hx))
  · intro i hi
    rw [List.mem_cons, List.mem_singleton] at hi
    obtain rfl | rfl := hi <;> exact ⟨_, rfl, rfl, rfl, rfl⟩
  · exact fun h => ⟨_, if_pos h, rfl, rfl, rfl, rfl, rfl, rfl, s.byte_filter_isHost⟩
  · obtain ⟨hmax, hle, hbetween⟩ := D.gateAfter_bounds w tj (s.nonce + 1)
    have hmv := clampTo_bounds (show 420 ≤ 520 by decide) (Config.coreMillivolts s.nonce)
    exact ⟨_, rfl, rfl, rfl, rfl, hmv.1, hmv.2, hmax, hle, hbetween, rfl⟩
  · exact fun h => if_pos h
  · refine fun h => ⟨_, if_neg (ne_true_of_eq_false h), rfl, ?_⟩
    exact readFabid_of_valid v
  · intro wrote hp
    refine ⟨fun k hk => ?_, ?_, ?_, ?_, fun k hk hen => ⟨?_, ?_, ?_⟩, fun k hk hen => ⟨fun hv => ?_, fun e h4 h16 hv => ?_⟩⟩
    · exact exists_registerWrite_part (fun P => P.tierOff.toList.getD k 0) hp (by omega) (fun _ _ _ _ => rfl) (P.store_tier hk v)
    · exact exists_registerWrite_part Part.floor hp (by omega) (fun _ _ _ _ => rfl) (P.store_floor v)
    · exact exists_registerWrite_part Part.hangNs hp (by omega) (fun _ _ _ _ => rfl) (P.store_hangNs v)
    · exact exists_registerWrite_part Part.vtthr hp (by omega) (fun _ _ _ _ => rfl) (P.store_vtthr v)
    · exact exists_registerWrite_ctx (f := 0) hp hk (by omega) rfl (Ctx.store_droot hen v)
    · exact exists_registerWrite_ctx (f := 8) hp hk (by omega) rfl (Ctx.store_hroot hen v)
    · exact exists_registerWrite_ctx (f := 16) hp hk (by omega) rfl (Ctx.store_fields hen v)
    · exact exists_registerWrite_part (fun P => P.qcb k) hp (by omega) (fun _ _ _ _ => rfl)
        ((P.qcb_store (f := 0) hk (by omega) rfl v).trans (Qcb.store_base hen hv))
    · exact exists_registerWrite_part (fun P => P.qcb k) hp (by omega) (fun _ _ _ _ => rfl)
        ((P.qcb_store (f := 8) hk (by omega) rfl v).trans (Qcb.store_slots hen hv (slotsOk_pow h4 h16)))
  · exact ⟨_, rfl, rfl, rfl⟩

end Sys2Proof.Proofs
end
section
/-! PROOFS. Dispatch decisions (R323 to R325) and placement (R261, R326, R347, R399). -/

open Sys2Proof

namespace Sys2Proof.Machine

/-! ### States that differ in memory alone -/

/-- A state that differs only in memory, its marks, and the owners and keys of its pages. -/
def State.Rewrites (s t : State) : Prop :=
  ∃ m l o k, t = { s with mem := m, poison := l, pageOwner := o, device := { s.device with pageKeys := k } }

theorem State.Rewrites.trans {s t u : State} (h : s.Rewrites t) (h' : t.Rewrites u) : s.Rewrites u := by
  obtain ⟨m, l, o, k, rfl⟩ := h
  obtain ⟨m', l', o', k', rfl⟩ := h'
  exact ⟨m', l', o', k', rfl⟩

theorem State.rewrites_cpWrite (s : State) (part ctx : Nat) (host : Bool) (va : Nat) (l : List Byte) :
    s.Rewrites (s.cpWrite part ctx host va l) := by
  have ht : s.Rewrites (s.cpTouch part ctx host true va l.length).1 := (s.scrubs_cpTouch ..).rest
  unfold State.cpWrite
  simp only []
  split
  · exact ht.trans ⟨_, _, _, _, rfl⟩
  · exact ht

theorem State.rewrites_writeRecord (s : State) (part ctx compl : Nat) (r : Record) : s.Rewrites (s.writeRecord part ctx compl r) := by
  unfold State.writeRecord
  split
  · exact (s.rewrites_cpWrite ..).trans (State.rewrites_cpWrite ..)
  · exact (s.rewrites_cpWrite ..).trans (State.rewrites_cpWrite ..)
  · exact ⟨_, _, _, _, rfl⟩

theorem State.Rewrites.part {s t : State} (h : s.Rewrites t) (p : Nat) : t.part p = s.part p := by
  obtain ⟨_, _, _, _, rfl⟩ := h
  rfl

theorem State.Rewrites.launches {s t : State} (h : s.Rewrites t) : t.launches = s.launches := by
  obtain ⟨_, _, _, _, rfl⟩ := h
  rfl

theorem State.Rewrites.dtime {s t : State} (h : s.Rewrites t) : t.dtime = s.dtime := by
  obtain ⟨_, _, _, _, rfl⟩ := h
  rfl

theorem State.Rewrites.bent {s t : State} (h : s.Rewrites t) (b : Nat) : t.bent b = s.bent b := by
  obtain ⟨_, _, _, _, rfl⟩ := h
  rfl

/-! ### The first of a list (R324) -/

theorem foldl_first {α : Type} {lt : α → α → Bool} {c : α} (l : List α) (m : α) (hc : m = c ∨ c ∈ l)
    (hlt : ∀ y ∈ m :: l, y ≠ c → lt c y = true ∧ lt y c = false) :
    l.foldl (fun m y => if lt y m then y else m) m = c := by
  induction l generalizing m with
  | nil => exact hc.resolve_right (fun h => nomatch h)
  | cons y l ih =>
    rw [List.foldl_cons]
    obtain ⟨hm, hy, hl⟩ := List.forall_mem_cons.mp hlt |>.imp id List.forall_mem_cons.mp
    by_cases hmc : m = c
    · have hstay : (if lt y m then y else m) = c := by
        by_cases hyc : y = c
        · rw [hyc, hmc, ite_self]
        · rw [hmc, (hy hyc).2, if_neg Bool.noConfusion]
      exact ih _ (.inl hstay) (List.forall_mem_cons.mpr ⟨fun h => absurd hstay h, hl⟩)
    · by_cases hyc : y = c
      · have hgo : (if lt y m then y else m) = c := by rw [hyc, (hm hmc).1, if_pos rfl]
        exact ih _ (.inl hgo) (List.forall_mem_cons.mpr ⟨fun h => absurd hgo h, hl⟩)
      · refine ih _ (.inr ?_) (List.forall_mem_cons.mpr ⟨?_, hl⟩)
        · rcases hc with h | h
          · exact absurd h hmc
          · exact (List.mem_cons.mp h).resolve_left (fun h => hyc h.symm)
        · split
          · exact hy
          · exact hm

theorem firstBy_eq {α : Type} {lt : α → α → Bool} {c : α} {l : List α} (hc : c ∈ l)
    (hlt : ∀ y ∈ l, y ≠ c → lt c y = true ∧ lt y c = false) : firstBy lt l = some c := by
  cases l with
  | nil => exact nomatch hc
  | cons x l => exact congrArg some (foldl_first l x ((List.mem_cons.mp hc).imp Eq.symm id) hlt)

theorem Cand.floorBefore_of {a b : Cand} (h : b.tier < a.tier ∨ (b.tier = a.tier ∧ a.seq < b.seq)) :
    Cand.floorBefore a b = true ∧ Cand.floorBefore b a = false := by
  simp only [Cand.floorBefore, Bool.or_eq_true, Bool.and_eq_true, decide_eq_true_eq, beq_iff_eq, Bool.or_eq_false_iff,
    Bool.and_eq_false_iff, decide_eq_false_iff_not, beq_eq_false_iff_ne]
  omega

theorem Cand.before_of {a b : Cand} (h : a.deadline < b.deadline ∨ (a.deadline = b.deadline ∧
      (a.tier < b.tier ∨ (a.tier = b.tier ∧ a.seq < b.seq)))) :
    Cand.before a b = true ∧ Cand.before b a = false := by
  simp only [Cand.before, Bool.or_eq_true, Bool.and_eq_true, decide_eq_true_eq, beq_iff_eq, Bool.or_eq_false_iff,
    Bool.and_eq_false_iff, decide_eq_false_iff_not, beq_eq_false_iff_ne]
  omega

/-- R324: the candidate before every other is the one decided for. -/
theorem decision_eq {k floor : Nat} {c : Cand} {l : List Cand} (hc : c ∈ l)
    (h : ∀ x ∈ l, x ≠ c → if k % max floor 1 = 0 then x.tier < c.tier ∨ (x.tier = c.tier ∧ c.seq < x.seq)
      else c.deadline < x.deadline ∨ (c.deadline = x.deadline ∧ (c.tier < x.tier ∨ (c.tier = x.tier ∧ c.seq < x.seq)))) :
    decision k floor l = some c := by
  refine firstBy_eq hc (fun x hx hne => ?_)
  have hx' := h x hx hne
  by_cases hf : k % Nat.max floor 1 = 0
  · rw [if_pos hf]
    exact Cand.floorBefore_of ((if_pos hf).mp hx')
  · rw [if_neg hf]
    exact Cand.before_of ((if_neg hf).mp hx')

/-! ### A command that ends with a fault of placement (R326, R399) -/

theorem State.get?_journal {s : State} {p seq : Nat} {j : Journal} (h : NMap.get? (s.part p).journal (seq % 65536) = some j)
    (hj : j.seq = seq) (f : Journal → Journal) :
    NMap.get? ((s.journal p seq f).part p).journal (seq % 65536) = some { f j with tlast := s.dtime } := by
  have hd : NMap.getD (s.part p).journal (seq % 65536) {} = j := by rw [NMap.getD]; exact congrArg (·.getD {}) h
  rw [State.journal, State.part_updPart]
  refine (NMap.get?_set ..).trans ((if_pos rfl).trans ?_)
  rw [hd]
  exact congrArg some (if_pos hj)

theorem State.part_journal (s : State) (p seq : Nat) (f : Journal → Journal) :
    ∃ J, (s.journal p seq f).part p = { s.part p with journal := J } := ⟨_, s.part_updPart p _⟩

/-- R378, R379: a record as its command is dispatched, and as it ends. -/
def Journal.dispatchedAt (tier : Nat) (deadline : Int) (dtime : Nat) (j : Journal) : Journal :=
  { j with state := 0x02, tier := tier, deadline := deadline, tdisp := if j.tdisp = 0 then dtime else j.tdisp }
def Journal.endedWith (fault : Nat) (j : Journal) : Journal := { j with state := if fault = 0 then 0x07 else 0x08, fault := fault }

theorem State.journalDispatch_eq (s : State) (p seq tier : Nat) (deadline : Int) :
    s.journalDispatch p seq tier deadline = s.journal p seq (Journal.dispatchedAt tier deadline s.dtime) := rfl
theorem State.journalEnd_eq (s : State) (p seq fault : Nat) : s.journalEnd p seq fault = s.journal p seq (Journal.endedWith fault) := rfl

theorem State.popCmd_part (s : State) (p q : Nat) : (s.popCmd p q).part p =
    { s.part p with
      qcbs := NMap.modify (s.part p).qcbs q {} (fun Q => { Q with head := Q.head + 1, pend := Q.pend.drop 1 })
      selected := none, held := NMap.erase (s.part p).held q } := s.part_updPart p _

theorem State.qcb_popCmd (s : State) (p q : Nat) : ((s.popCmd p q).part p).qcb q =
    { (s.part p).qcb q with head := ((s.part p).qcb q).head + 1, pend := ((s.part p).qcb q).pend.drop 1 } := by
  rw [State.popCmd_part, Part.qcb, NMap.getD_modify, if_pos rfl]
  rfl

theorem State.failCmd_shows {s : State} {p q fault seq tapp : Nat} {l : List (Nat × Nat)} {c : Cand}
    (hp : ((s.part p).qcb q).pend = (seq, tapp) :: l) (hc : s.cmdCand p q = some c) (hf : fault ≠ 0) :
    ((s.failCmd p q fault).part p).decision = (s.part p).decision ∧ ((s.failCmd p q fault).part p).selected = none ∧
    (((s.failCmd p q fault).part p).qcb q).head = ((s.part p).qcb q).head + 1 ∧
    ∀ j, NMap.get? (s.part p).journal (seq % 65536) = some j → j.seq = seq →
      ∃ k, NMap.get? ((s.failCmd p q fault).part p).journal (seq % 65536) = some k ∧ (k.state, k.fault) = (0x08, fault) := by
  have hfail : ∃ u, ((s.popCmd p q).journalDispatch p seq c.tier c.deadline).Rewrites u ∧
      s.failCmd p q fault = (u.journalEnd p seq fault).refresh p := by
    unfold State.failCmd
    rw [hp, hc]
    exact ⟨_, State.rewrites_writeRecord .., rfl⟩
  obtain ⟨u, hu, hfail⟩ := hfail
  have hr := (u.journalEnd p seq fault).refreshes_refresh p
  rw [hfail, hr.qcb, hr.journal]
  obtain ⟨_, _, c', e, hsel⟩ := hr.part p
  obtain ⟨J, hJ⟩ := (s.popCmd p q).part_journal p seq (Journal.dispatchedAt c.tier c.deadline (s.popCmd p q).dtime)
  obtain ⟨J', hJ'⟩ := u.part_journal p seq (Journal.endedWith fault)
  have hpart : (u.journalEnd p seq fault).part p = { (s.popCmd p q).part p with journal := J' } := by
    refine hJ'.trans ?_
    rw [hu.part, State.journalDispatch_eq, hJ]
  rw [hpart, State.popCmd_part] at e hsel
  refine ⟨by rw [e], ?_, ?_, fun j hj hseq => ?_⟩
  · rw [e]
    exact hsel.elim id id
  · rw [hpart]
    exact congrArg Qcb.head (s.qcb_popCmd p q)
  · have hpop : NMap.get? ((s.popCmd p q).part p).journal (seq % 65536) = some j := by rw [State.popCmd_part]; exact hj
    have hu' := State.get?_journal hpop hseq (Journal.dispatchedAt c.tier c.deadline (s.popCmd p q).dtime)
    rw [← State.journalDispatch_eq, ← hu.part] at hu'
    exact ⟨_, State.get?_journal hu' hseq (Journal.endedWith fault), by rw [Journal.endedWith, if_neg hf]⟩

/-! ### A decision (R324) -/

theorem State.cmdCand_of_mem {s : State} {p : Nat} {c : Cand} (h : c ∈ s.cands p) (hf : c.fault ≠ 0) :
    s.cmdCand p c.sel = some c ∧ ∃ seq tapp l, ((s.part p).qcb c.sel).pend = (seq, tapp) :: l ∧ c.seq = seq := by
  obtain ⟨q, -, hq⟩ := List.mem_filterMap.mp h
  have hcmd : s.cmdCand p q = some c := by
    unfold State.candOf at hq
    split at hq
    · exact absurd (congrArg Cand.fault (Option.some.inj hq)).symm hf
    · exact hq
  have hc := hcmd
  unfold State.cmdCand at hc
  simp only [] at hc
  split at hc
  · next seq tapp x hp _ =>
    split at hc
    · obtain rfl := Option.some.inj hc
      obtain ⟨l, hl⟩ := List.head?_eq_some_iff.mp hp
      exact ⟨hcmd, seq, tapp, l, hl, rfl⟩
    · exact nomatch hc
  · exact nomatch hc

/-- R324: the state once a decision is counted. -/
def State.decided (s : State) (p : Nat) : State := s.updPart p (fun P => { P with decision := P.decision + 1 })

theorem State.decideNext_eq {s : State} {p : Nat} {c : Cand} (hp : (s.part p).psvc = 0) (ho : (s.part p).offline = false)
    (hs : (s.part p).selected = none) (hd : s.device.refusedImage = none)
    (hc : decision (s.part p).decision (s.part p).floor ((s.cands p).filter (s.eligible p)) = some c) :
    s.decideNext p = if c.fault = 0 then (s.decided p).updPart p (fun P => { P with selected := some c.sel })
      else (s.decided p).failCmd p c.sel c.fault := by
  unfold State.decideNext
  simp only [hp, ho, hs, hd, hc, Option.isSome_none, Bool.false_eq_true, or_self, not_true_eq_false, if_false, ne_eq]
  rfl

/-- Counting a decision changes no candidate. -/
theorem State.cmdCand_decided (s : State) (p q : Nat) : (s.decided p).cmdCand p q = s.cmdCand p q := by
  have hpart : (s.decided p).part p = { s.part p with decision := (s.part p).decision + 1 } := s.part_updPart p _
  have hcmd : (s.decided p).headCmd p q = s.headCmd p q := by
    simp only [State.headCmd, State.cmdAt, hpart]
    rfl
  unfold State.cmdCand
  rw [hpart, hcmd]
  rfl

/-! ### Bents chosen (R326) -/

theorem nodup_chooseBents (s : State) (p n : Nat) (images : List (Nat × Nat)) : (s.chooseBents p n images).Nodup := by
  have hfree : (s.freeBents p).Nodup :=
    List.Nodup.filter _ (List.nodup_range.map (fun a b h => Nat.add_left_cancel h))
  have hall := List.filter_append_perm (fun b => (s.bent b).holdsImage images) (s.freeBents p)
  exact (sortBy_perm _).nodup_iff.mpr ((hall.nodup_iff.mpr hfree).sublist (List.take_sublist ..))

/-! ### A launch placed (R261, R326) -/

theorem getD_mem_zipIdx {l : List Nat} {n : Nat} (h : n < l.length) : (l.getD n 0, n) ∈ l.zipIdx := by
  rw [List.mk_mem_zipIdx_iff_getElem?, List.getD_eq_getElem?_getD, List.getElem?_eq_getElem h]
  rfl

/-- A fold over a region's bents that changes the bent of each by its index. -/
theorem State.bent_foldl_zipIdx {f : State → Nat × Nat → State} {g : Nat × Nat → Bent → Bent}
    (hf : ∀ (t : State) (x : Nat × Nat) (b : Nat), (f t x).bent b = if b = x.1 then g x (t.bent b) else t.bent b)
    {l : List (Nat × Nat)} (hl : (l.map Prod.fst).Nodup) (s : State) :
    (∀ x ∈ l, (l.foldl f s).bent x.1 = g x (s.bent x.1)) ∧ ∀ b, b ∉ l.map Prod.fst → (l.foldl f s).bent b = s.bent b := by
  induction l generalizing s with
  | nil => exact ⟨fun x h => (nomatch h), fun b _ => rfl⟩
  | cons y l ih =>
    obtain ⟨hy, hl⟩ := List.nodup_cons.mp hl
    obtain ⟨hin, hout⟩ := ih hl (f s y)
    refine ⟨List.forall_mem_cons.mpr ⟨?_, fun x hx => ?_⟩, fun b hb => ?_⟩
    · exact (hout _ hy).trans ((hf ..).trans (if_pos rfl))
    · refine (hin x hx).trans (congrArg (g x) ((hf ..).trans (if_neg (fun e => hy ?_))))
      exact e ▸ List.mem_map_of_mem hx
    · rw [List.map_cons] at hb
      exact (hout b (List.not_mem_of_not_mem_cons hb)).trans ((hf ..).trans (if_neg (List.ne_of_not_mem_cons hb)))

end Sys2Proof.Machine
end
section
/-! PROOFS. How a launch starts: its bents, its strands and the identifiers they take (R61, R261, R326, R368). -/

open Sys2Proof

namespace Sys2Proof.Machine

/-! ### Identifiers (R261) -/

/-- R261: the identifiers of a bent rise. -/
theorem id_le_id {w R n m : Nat} (j : Nat) (hw : 0 < w) (hR : 0 < R) (h : n ≤ m) :
    (j + R * (n / w)) * w + n % w ≤ (j + R * (m / w)) * w + m % w := by
  obtain hq | hq := (Nat.div_le_div_right (c := w) h).eq_or_lt
  · have hn := Nat.div_add_mod n w
    have hm := Nat.div_add_mod m w
    rw [hq] at hn ⊢
    exact Nat.add_le_add_left (by omega) _
  · have hstep : j + R * (n / w) + 1 ≤ j + R * (m / w) :=
      calc j + R * (n / w) + 1 ≤ j + R * (n / w) + R := Nat.add_le_add_left hR _
        _ = j + R * (n / w + 1) := by rw [Nat.mul_add, Nat.mul_one, Nat.add_assoc]
        _ ≤ j + R * (m / w) := Nat.add_le_add_left (Nat.mul_le_mul_left R hq) j
    calc (j + R * (n / w)) * w + n % w ≤ (j + R * (n / w)) * w + w := Nat.add_le_add_left (Nat.mod_lt n hw).le _
      _ = (j + R * (n / w) + 1) * w := by rw [Nat.add_mul _ 1, Nat.one_mul]
      _ ≤ (j + R * (m / w)) * w := Nat.mul_le_mul_right w hstep
      _ ≤ (j + R * (m / w)) * w + m % w := Nat.le_add_right ..

/-- R261: beyond an identifier that a bent does not get, it gets none. -/
theorem Launch.idAt_none_mono {L : Launch} {j n m : Nat} (hr : 0 < L.region.length) (h : L.idAt j n = none) (hnm : n ≤ m) :
    L.idAt j m = none := by
  unfold Launch.idAt at h ⊢
  simp only [ite_eq_right_iff, reduceCtorEq, imp_false, Nat.not_lt] at h ⊢
  exact h.trans (id_le_id j (Nat.two_pow_pos _) hr hnm)

/-- R261: a launch with these counters and log. -/
def Launch.counting (L : Launch) (nx : NMap Nat) (ol : List (BitVec 16 × LogOp)) : Launch := { L with nextId := nx, opLog := ol }

/-- R261: one slot started, of a bent that is given no identifier back. -/
theorem State.startSlot_spec {s : State} {lid : Nat} {L : Launch} {nx : NMap Nat} {ol : List (BitVec 16 × LogOp)} (b j k : Nat)
    (h : s.launch? lid = some (L.counting nx ol)) (hr : L.returnedIds = []) :
    (L.idAt j (NMap.getD nx j 0) = none → s.startSlot lid b j k = s) ∧
    ∀ id, L.idAt j (NMap.getD nx j 0) = some id → ∃ ol', s.startSlot lid b j k =
      (s.setLaunch lid (L.counting (NMap.set nx j (NMap.getD nx j 0 + 1)) ol')).setStrand b k (Strand.fresh L lid b k id) := by
  have hret : NMap.getD (L.counting nx ol).returnedIds j [] = [] := by
    rw [Launch.counting, hr]
    rfl
  have htake : (L.counting nx ol).takeId j 0 = match L.idAt j (NMap.getD nx j 0) with
      | some id => (some id, L.counting (NMap.set nx j (NMap.getD nx j 0 + 1)) (ol ++ [(0, .id j (NMap.getD nx j 0))]))
      | none => (none, L.counting nx ol) := by
    unfold Launch.takeId
    rw [hret]
    rfl
  unfold State.startSlot
  rw [State.launch_of_launch? h, htake]
  refine ⟨fun hn => by rw [hn], fun id hn => ?_⟩
  rw [hn]
  exact ⟨_, rfl⟩

/-- R261: a bent whose first slots have been started: `c` of them got an identifier, and where one did not, none got one after it. -/
structure State.Starts (s t : State) (lid : Nat) (L : Launch) (nx0 : NMap Nat) (b j m : Nat) : Prop where
  rest : ∀ d, d ≠ b → t.bent d = s.bent d
  own : ∃ ss, t.bent b = { s.bent b with strands := ss }
  slots : ∃ c nx ol, c ≤ m ∧ t.launch? lid = some (L.counting nx ol) ∧ NMap.getD nx j 0 = c ∧
    (∀ i, i ≠ j → NMap.getD nx i 0 = NMap.getD nx0 i 0) ∧ (c < m → L.idAt j c = none) ∧
    ∀ k, t.strand? b k = if k < c then (L.idAt j k).map (Strand.fresh L lid b k) else none

/-- R261: the slots of a bent started one after another. -/
theorem State.starts_startSlots {s : State} {lid : Nat} {L : Launch} {nx : NMap Nat} {ol : List (BitVec 16 × LogOp)} {b j : Nat}
    (h : s.launch? lid = some (L.counting nx ol)) (hr : L.returnedIds = []) (hn : NMap.getD nx j 0 = 0)
    (hs : (s.bent b).strands = []) (m : Nat) :
    s.Starts ((List.range m).foldl (fun t k => t.startSlot lid b j k) s) lid L nx b j m := by
  induction m with
  | zero =>
    refine ⟨fun _ _ => rfl, ⟨_, rfl⟩, 0, nx, ol, Nat.le_refl 0, h, hn, fun _ _ => rfl, fun h => (nomatch h), fun k => ?_⟩
    rw [if_neg (Nat.not_lt_zero k)]
    exact (congrArg (NMap.get? · k) hs : _)
  | succ m ih =>
    rw [List.range_succ, List.foldl_append, List.foldl_cons, List.foldl_nil]
    generalize (List.range m).foldl (fun t k => t.startSlot lid b j k) s = t at ih ⊢
    obtain ⟨hrest, ⟨ss, hown⟩, c, nx', ol', hc, hl, hcount, hother, hstop, hstrand⟩ := ih
    obtain ⟨hnone, hsome⟩ := State.startSlot_spec b j m hl hr
    rw [hcount] at hnone hsome
    cases hid : L.idAt j c with
    | none =>
      rw [hnone hid]
      exact ⟨hrest, ⟨ss, hown⟩, c, nx', ol', hc.trans (Nat.le_succ m), hl, hcount, hother, fun _ => hid, hstrand⟩
    | some id =>
      have hcm : c = m := hc.eq_or_lt.resolve_right (fun hlt => nomatch (hstop hlt).symm.trans hid)
      obtain ⟨ol2, hu⟩ := hsome id hid
      rw [hu]
      refine ⟨fun d hd => ?_, ⟨NMap.set ss m (Strand.fresh L lid b m id), ?_⟩, c + 1, NMap.set nx' j (c + 1), ol2, by omega,
        ?_, ?_, fun i hi => ?_, fun hlt => by omega,
        fun k => ?_⟩
      · rw [State.bent_setStrand, if_neg hd]
        exact hrest d hd
      · rw [State.bent_setStrand, if_pos rfl, State.bent_setLaunch, hown]
      · rw [State.launch?_setStrand, State.launch?_setLaunch, if_pos rfl]
      · rw [NMap.getD_set, if_pos rfl]
      · rw [NMap.getD_set, if_neg hi]
        exact hother i hi
      · rw [State.strand?_setStrand, State.strand?_setLaunch, hstrand]
        by_cases hk : k = m
        · rw [if_pos ⟨rfl, hk⟩, hk, if_pos (by omega), ← hcm, hid]
          rfl
        · rw [if_neg (fun hh => hk hh.2)]
          by_cases hkc : k < c
          · rw [if_pos hkc, if_pos (by omega)]
          · rw [if_neg hkc, if_neg (by omega)]

/-- R261: the slots of a bent, each with a strand where it has an identifier. -/
def State.SlotsStarted (t : State) (lid : Nat) (L : Launch) (b j : Nat) : Prop :=
  ∀ k < L.nStrands, (L.idAt j k = none → t.strand? b k = none) ∧
    ∀ id, L.idAt j k = some id → t.strand? b k = some (Strand.fresh L lid b k id)

theorem State.Starts.slotsStarted {s t : State} {lid : Nat} {L : Launch} {nx : NMap Nat} {b j : Nat} (hr : 0 < L.region.length)
    (h : s.Starts t lid L nx b j L.nStrands) : t.SlotsStarted lid L b j := by
  obtain ⟨-, -, c, -, -, -, -, -, -, hstop, hstrand⟩ := h
  intro k hk
  rw [hstrand]
  refine ⟨fun hn => ?_, fun id hid => ?_⟩
  · rw [hn]
    exact ite_self none
  · by_cases hkc : k < c
    · rw [if_pos hkc, hid]
      rfl
    · have hc := hstop (by omega)
      exact nomatch (Launch.idAt_none_mono hr hc (Nat.not_lt.mp hkc)).symm.trans hid

/-! ### The strands of a region (R261) -/

/-- R261: the slots of every bent of a list started. -/
theorem State.starts_all {lid : Nat} {L : Launch} (hr : L.returnedIds = []) (l : List (Nat × Nat))
    (hR : l ≠ [] → 0 < L.region.length) (hb : (l.map Prod.fst).Nodup) (hj : (l.map Prod.snd).Nodup) (s : State) {nx : NMap Nat}
    {ol : List (BitVec 16 × LogOp)}
    (h : s.launch? lid = some (L.counting nx ol)) (hn : ∀ x ∈ l, NMap.getD nx x.2 0 = 0) (hs : ∀ x ∈ l, (s.bent x.1).strands = []) :
    let t := l.foldl (fun t x => (List.range L.nStrands).foldl (fun t k => t.startSlot lid x.1 x.2 k) t) s
    (∃ nx ol, t.launch? lid = some (L.counting nx ol)) ∧ (∀ b, ∃ ss, t.bent b = { s.bent b with strands := ss }) ∧
    (∀ b, b ∉ l.map Prod.fst → t.bent b = s.bent b) ∧ ∀ x ∈ l, t.SlotsStarted lid L x.1 x.2 := by
  induction l generalizing s nx ol with
  | nil => exact ⟨⟨nx, ol, h⟩, fun b => ⟨_, rfl⟩, fun _ _ => rfl, fun x hx => nomatch hx⟩
  | cons y l ih =>
    obtain ⟨hy, hb⟩ := List.nodup_cons.mp hb
    obtain ⟨hyj, hj⟩ := List.nodup_cons.mp hj
    obtain ⟨hny, hn⟩ := List.forall_mem_cons.mp hn
    obtain ⟨hsy, hs⟩ := List.forall_mem_cons.mp hs
    have hstart := State.starts_startSlots h hr hny hsy L.nStrands
    have hR' : 0 < L.region.length := hR (List.cons_ne_nil y l)
    have hslots := hstart.slotsStarted hR'
    generalize hu : (List.range L.nStrands).foldl (fun t k => t.startSlot lid y.1 y.2 k) s = u at hstart hslots
    obtain ⟨hrest, ⟨ss, hown⟩, c, nx', ol', -, hl, -, hother, -, -⟩ := hstart
    have hne : ∀ x ∈ l, x.1 ≠ y.1 := fun x hx e => hy (e ▸ List.mem_map_of_mem hx)
    obtain ⟨hlaunch, hbents, hout, hall⟩ := ih (fun _ => hR') hb hj u hl
      (fun x hx => (hother _ (fun e => hyj (e ▸ List.mem_map_of_mem hx))).trans (hn x hx))
      (fun x hx => (congrArg Bent.strands (hrest _ (hne x hx))).trans (hs x hx))
    rw [List.foldl_cons, hu]
    refine ⟨hlaunch, fun b => ?_, fun b hb' => ?_, List.forall_mem_cons.mpr ⟨fun k hk => ?_, hall⟩⟩
    · obtain ⟨ss', hb'⟩ := hbents b
      by_cases hby : b = y.1
      · refine ⟨ss', hb'.trans ?_⟩
        rw [hby, hown]
      · exact ⟨ss', hb'.trans (by rw [hrest b hby])⟩
    · rw [List.map_cons] at hb'
      exact (hout b (List.not_mem_of_not_mem_cons hb')).trans (hrest b (List.ne_of_not_mem_cons hb'))
    · have hkeep : State.strand? _ y.1 k = u.strand? y.1 k := congrArg (fun B : Bent => NMap.get? B.strands k) (hout y.1 hy)
      rw [hkeep]
      exact hslots k hk

/-! ### Bents and buffers (R326) -/

theorem State.placeBents_shows {lid : Nat} {region : List Nat} (hnd : region.Nodup) (s : State) :
    (s.placeBents lid region).launches = s.launches ∧
    ∀ x ∈ region.zipIdx, (s.placeBents lid region).bent x.1 = (s.bent x.1).placed lid x.2 := by
  have hl (l : List (Nat × Nat)) (t : State) :
      (l.foldl (fun t x => (t.zeroSpad x.1).updBent x.1 (fun B => B.placed lid x.2)) t).launches = t.launches := by
    induction l generalizing t with
    | nil => rfl
    | cons x l ih => exact ih _
  refine ⟨hl _ s, (State.bent_foldl_zipIdx (g := fun x B => B.placed lid x.2) (fun t x b => ?_) ?_ s).1⟩
  · rw [State.bent_updBent]
    split
    · next h =>
      rw [h]
      rfl
    · rfl
  · rw [List.zipIdx_map_fst]
    exact hnd

theorem State.fillBuffers_keeps (s : State) (lid : Nat) (region : List Nat) (x : Loaded) :
    (s.fillBuffers lid region x).launches = s.launches ∧ (s.fillBuffers lid region x).bents = s.bents := by
  have hpoke (l : List Nat) (f : Nat → Nat) (d : List Byte) (t : State) : (l.foldl (fun t b => t.poke (f b) d) t).launches = t.launches ∧
      (l.foldl (fun t b => t.poke (f b) d) t).bents = t.bents := by
    induction l generalizing t with
    | nil => exact ⟨rfl, rfl⟩
    | cons b l ih => exact ih (t.poke (f b) d)
  have hone (t : State) (p : Nat × Buffer) : (t.fillBuffer lid region x p).launches = t.launches ∧
      (t.fillBuffer lid region x p).bents = t.bents := by
    unfold State.fillBuffer
    simp only []
    split
    · exact hpoke region (fun b => spadAddr b p.2.boff) _ t
    · exact ⟨rfl, rfl⟩
  have hall (l : NMap Buffer) (t : State) : (l.foldl (fun t p => t.fillBuffer lid region x p) t).launches = t.launches ∧
      (l.foldl (fun t p => t.fillBuffer lid region x p) t).bents = t.bents := by
    induction l generalizing t with
    | nil => exact ⟨rfl, rfl⟩
    | cons p l ih =>
      obtain ⟨h1, h2⟩ := hone t p
      obtain ⟨h1', h2'⟩ := ih (t.fillBuffer lid region x p)
      exact ⟨h1'.trans h1, h2'.trans h2⟩
  exact hall x.bufs _

/-- R368: a launch once it has begun, with these counters and log before its cut and these strands at it. -/
def Launch.begun (L : Launch) (nx : NMap Nat) (ol : List (BitVec 16 × LogOp)) (marks : List StrandMark) : Launch :=
  { L.counting nx ol with
    cutRound := none, cutStrands := marks, cutUnits := [], opLog := [], returnedIds := []
    cutHandles := { bars := [], chans := L.chans, queues := L.queues, ranks := [] } }

/-- R368: the strands of a launch as its first cut keeps them. -/
def State.cutMarks (s : State) (lid : Nat) : List StrandMark :=
  (s.strandsOf lid).map (fun e =>
    ⟨0xFFFF, (s.launch lid).key e.2.2.ownerBent e.2.2.ownerSlot, (s.bent e.1).index, e.2.1, e.2.2, []⟩)

theorem State.startCut_eq (s : State) (lid : Nat) : s.startCut lid = s.updLaunch lid (fun L =>
    { L with
      cutRound := none, cutStrands := s.cutMarks lid, cutUnits := [], opLog := [], returnedIds := []
      cutHandles := { bars := [], chans := L.chans, queues := L.queues, ranks := [] } }) := rfl

theorem State.launch?_startCut {s : State} {lid : Nat} {L : Launch} {nx : NMap Nat} {ol : List (BitVec 16 × LogOp)}
    (h : s.launch? lid = some (L.counting nx ol)) : (s.startCut lid).launch? lid = some (L.begun nx ol (s.cutMarks lid)) := by
  rw [State.startCut_eq, State.launch?_updLaunch, if_pos rfl, h]
  rfl

/-- R261, R326: a launch that begins. -/
theorem State.begin_shows {s : State} {L : Launch} (x : Loaded) (hnd : L.region.Nodup) (hid : L.nextId = []) (hret : L.returnedIds = []) :
    (∃ nx ol marks, (s.begin_ L x).launch? (lidOf L.part L.seq) = some ({ L with lastProgress := s.dtime }.begun nx ol marks)) ∧
    ∀ y ∈ L.region.zipIdx, ((s.begin_ L x).bent y.1).launch = some (lidOf L.part L.seq) ∧ ((s.begin_ L x).bent y.1).index = y.2 ∧
      (s.begin_ L x).SlotsStarted (lidOf L.part L.seq) { L with lastProgress := s.dtime } y.1 y.2 := by
  generalize hlid : lidOf L.part L.seq = lid
  let L0 : Launch := { L with lastProgress := s.dtime }
  obtain ⟨hl1, hb1⟩ := State.placeBents_shows (lid := lid) hnd (s.setLaunch lid L0)
  obtain ⟨hl2, hb2⟩ := State.fillBuffers_keeps ((s.setLaunch lid L0).placeBents lid L.region) lid L.region x
  generalize hu : ((s.setLaunch lid L0).placeBents lid L.region).fillBuffers lid L.region x = u at hl2 hb2
  have hbegin : s.begin_ L x = (u.startStrands lid).startCut lid := by
    rw [← hu, ← hlid]
    rfl
  have hl : u.launch? lid = some (L0.counting [] L.opLog) := by
    have h0 : u.launch? lid = some L0 := by
      rw [State.launch?, hl2, hl1]
      exact (NMap.get?_set ..).trans (if_pos rfl)
    rw [h0, Launch.counting, ← hid]
  have hbent (y : Nat × Nat) (hy : y ∈ L.region.zipIdx) : u.bent y.1 = (s.bent y.1).placed lid y.2 := by
    rw [State.bent, hb2]
    exact hb1 y hy
  have hstrands : u.startStrands lid =
      L.region.zipIdx.foldl (fun t x => (List.range L0.nStrands).foldl (fun t k => t.startSlot lid x.1 x.2 k) t) u := by
    rw [State.startStrands, State.launch_of_launch? hl]
    rfl
  obtain ⟨⟨nx, ol, hlaunch⟩, hkeep, -, hslots⟩ := State.starts_all (L := L0) hret L.region.zipIdx
    (fun h => List.length_pos_iff.mpr (fun e => h (by rw [e]; rfl))) (by rw [List.zipIdx_map_fst]; exact hnd)
    (by rw [List.zipIdx_map_snd]; exact List.nodup_range') u hl (fun _ _ => rfl)
    (fun y hy => by rw [hbent y hy]; rfl)
  rw [hbegin, hstrands]
  refine ⟨⟨nx, ol, _, State.launch?_startCut hlaunch⟩, fun y hy => ?_⟩
  obtain ⟨ss, hss⟩ := hkeep y.1
  rw [hbent y hy] at hss
  rw [State.startCut_eq, State.bent_updLaunch, hss]
  refine ⟨rfl, rfl, fun k hk => ?_⟩
  rw [State.strand?_updLaunch]
  exact hslots y hy k hk

end Sys2Proof.Machine
end
section
/-! PROOFS. Dispatch and placement (R323 to R326, R347, R399). -/

open Sys2Proof

namespace Sys2Proof.Machine

theorem State.Refreshes.dtime {s t : State} (h : s.Refreshes t) : t.dtime = s.dtime := by
  obtain ⟨⟨_, _, _, _, _, _, rfl⟩, -, -⟩ := h
  rfl

theorem State.Refreshes.refusedImage {s t : State} (h : s.Refreshes t) : t.device.refusedImage = s.device.refusedImage := by
  obtain ⟨⟨_, _, _, _, _, _, rfl⟩, -, -⟩ := h
  rfl

theorem State.Refreshes.strand? {s t : State} (h : s.Refreshes t) (b k : Nat) : t.strand? b k = s.strand? b k := by
  rw [State.strand?, h.bent, State.strand?]

/-! ### Candidates (R323) -/

section
variable {s : State} {p q : Nat}

theorem State.cmdCand_eq {seq tapp : Nat} {l : List (Nat × Nat)} {h : Held} (hp : ((s.part p).qcb q).pend = (seq, tapp) :: l)
    (hh : NMap.get? (s.part p).held q = some h) : ∃ c, s.cmdCand p q = if h.seq = seq then some c else none := by
  unfold State.cmdCand
  simp only [hp, hh, List.head?_cons]
  exact ⟨_, rfl⟩

/-- R324, R399: what a decision leaves. -/
theorem State.decideNext_shows {c : Cand} (hp : (s.part p).psvc = 0) (ho : (s.part p).offline = false)
    (hd : s.device.refusedImage = none) (hs : (s.part p).selected = none) (hc : c ∈ s.cands p)
    (hdec : decision (s.part p).decision (s.part p).floor ((s.cands p).filter (s.eligible p)) = some c) :
    ((s.decideNext p).part p).decision = (s.part p).decision + 1 ∧
    (c.fault = 0 → ((s.decideNext p).part p).selected = some c.sel) ∧
    (c.fault ≠ 0 → ((s.decideNext p).part p).selected = none ∧
      (((s.decideNext p).part p).qcb c.sel).head = ((s.part p).qcb c.sel).head + 1 ∧
      ∀ j, NMap.get? (s.part p).journal (c.seq % 65536) = some j → j.seq = c.seq →
        ∃ k, NMap.get? ((s.decideNext p).part p).journal (c.seq % 65536) = some k ∧ (k.state, k.fault) = (0x08, c.fault)) := by
  rw [State.decideNext_eq hp ho hs hd hdec]
  have hpart : (s.decided p).part p = { s.part p with decision := (s.part p).decision + 1 } := s.part_updPart p _
  by_cases hf : c.fault = 0
  · rw [if_pos hf, State.part_updPart, hpart]
    exact ⟨rfl, fun _ => rfl, fun h => absurd hf h⟩
  · rw [if_neg hf]
    obtain ⟨hcand, seq, tapp, l, hpend, hseq⟩ := State.cmdCand_of_mem hc hf
    have hpend' : (((s.decided p).part p).qcb c.sel).pend = (seq, tapp) :: l := by rw [hpart]; exact hpend
    obtain ⟨hdecision, hselected, hhead, hjournal⟩ := State.failCmd_shows hpend' ((s.cmdCand_decided p c.sel).trans hcand) hf
    rw [hpart] at hdecision hhead hjournal
    rw [hseq]
    exact ⟨hdecision, fun h => absurd h hf, fun _ => ⟨hselected, hhead, hjournal⟩⟩

theorem State.cmdCand_of_rewrites {t : State} (hr : s.Rewrites t) {c : Cand} (hc : s.cmdCand p q = some c) {seq tapp : Nat}
    {l : List (Nat × Nat)} {h : Held} (hp : ((s.part p).qcb q).pend = (seq, tapp) :: l)
    (hh : NMap.get? (s.part p).held q = some h) : ∃ c, t.cmdCand p q = some c := by
  obtain ⟨c1, h1⟩ := State.cmdCand_eq hp hh
  have hseq : h.seq = seq := by
    by_contra hne
    rw [if_neg hne] at h1
    exact nomatch h1.symm.trans hc
  rw [← hr.part p] at hp hh
  obtain ⟨c2, h2⟩ := State.cmdCand_eq hp hh
  exact ⟨c2, h2.trans (if_pos hseq)⟩

theorem State.cmdCand_of_selectedCand {c : Cand} (h : s.selectedCand p = some c) (hc : c.sel < 256) : s.cmdCand p c.sel = some c := by
  unfold State.selectedCand at h
  obtain ⟨n, -, h⟩ := Option.bind_eq_some_iff.mp h
  split at h
  · have hsel : c.sel = n := by
      have hn := h
      unfold State.cmdCand at hn
      simp only [] at hn
      split at hn
      · split at hn
        · rw [← Option.some.inj hn]
        · exact nomatch hn
      · exact nomatch hn
    rw [hsel]
    exact h
  · split at h
    · have hsel : c.sel = 256 + (n - 256) := by rw [← Option.some.inj h]; rfl
      omega
    · exact nomatch h

/-! ### Placement (R326, R399) -/

theorem exec_dispatchDecision_eq (s : State) (p : Nat) : exec (.dispatchDecision p) s = .next ((s.refresh p).decideNext p) := rfl

theorem exec_placement_of_selected {c : Cand} (hc : (s.deselect p).selectedCand p = some c) (hp : ((s.deselect p).part p).psvc = 0)
    (ho : ((s.deselect p).part p).offline = false) (hd : (s.deselect p).device.refusedImage = none)
    (hn : c.need ≤ ((s.deselect p).freeBents p).length) : exec (.placement p) s =
      .next (if c.sel < 256 then (s.deselect p).placeHead p c.sel else (s.deselect p).restore p (c.sel - 256)) := by
  have hexec : exec (.placement p) s = execPlacement p s := rfl
  rw [hexec, execPlacement]
  simp only [hc]
  rw [if_neg]
  · exact (apply_ite Host.Outcome.next _ _ _).symm
  · rw [hp, ho, hd]
    simpa using hn

theorem State.rewrites_of_loadBox {t : State} {ctx cbase : Nat} {o : Nat ⊕ Loaded} (h : s.loadBox p ctx cbase = (t, o)) :
    s.Rewrites t := by
  have hs := (s.scrubs_loadBox p ctx cbase).rest
  rwa [h] at hs

/-- R105, R327: what a container is refused with. -/
theorem State.loadBox_fault_ne_zero {t : State} {ctx cbase f : Nat} (h : s.loadBox p ctx cbase = (t, .inl f)) : f ≠ 0 := by
  have hsnd : (s.loadBox p ctx cbase).2 = .inl f := congrArg Prod.snd h
  have hinl {n : Nat} (hn : n ≠ 0) (e : (.inl n : Nat ⊕ Loaded) = .inl f) : f ≠ 0 := by
    rw [← Sum.inl.inj e]
    exact hn
  unfold State.loadBox at hsnd
  split at hsnd
  · exact hinl (by decide) hsnd
  · split at hsnd
    · split at hsnd
      · exact hinl (by decide) hsnd
      · dsimp only at hsnd
        split at hsnd
        · exact hinl (by decide) hsnd
        · split at hsnd
          · exact hinl (by decide) hsnd
          · split at hsnd
            · exact hinl (by decide) hsnd
            · exact nomatch hsnd
    · exact hinl (by decide) hsnd

variable {seq tapp : Nat} {l : List (Nat × Nat)} {h : Held} {c : Cand} {r : State}

theorem State.placeHead_eq (hp : ((s.part p).qcb q).pend = (seq, tapp) :: l) (hh : NMap.get? (s.part p).held q = some h)
    (hc : s.cmdCand p q = some c) {o : Nat ⊕ Loaded}
    (hr : s.loadBox p (Cmd.of (s.cmdAt p q ((s.part p).qcb q).head)).ctx (Cmd.of (s.cmdAt p q ((s.part p).qcb q).head)).cbase = (r, o)) :
    s.placeHead p q = match o with
      | .inl f => r.failCmd p q f
      | .inr x =>
        if x.raw ≠ h.header then r.failCmd p q 0x03
        else if partBytes < r.hbmUsed p + x.bytes then r.failCmd p q 0x04
        else
          (((r.popCmd p q).journalDispatch p seq c.tier c.deadline).begin_
            { launchFrom (s.cmdAt p q ((s.part p).qcb q).head) tapp seq p q x (r.chooseBents p x.head.region x.images) with
              tdisp := s.dtime } x).refresh p := by
  unfold State.placeHead
  simp only [hp, hh, hc, List.head?_cons, hr]
  cases o <;> rfl

/-- R326: the state once the command at a queue's head is placed. -/
def State.placed (r : State) (p q seq tapp : Nat) (c : Cand) (cmd : List Byte) (x : Loaded) (dtime : Nat) : State :=
  (((r.popCmd p q).journalDispatch p seq c.tier c.deadline).begin_
    { launchFrom cmd tapp seq p q x (r.chooseBents p x.head.region x.images) with tdisp := dtime } x).refresh p

/-- R261, R326: a command placed. -/
theorem State.placed_shows (r : State) (p q seq tapp : Nat) (c : Cand) (cmd : List Byte) (x : Loaded) (dtime : Nat) :
    let t := r.placed p q seq tapp c cmd x dtime
    let region := r.chooseBents p x.head.region x.images
    ∃ L, t.launch? (seq * 8 + p) = some L ∧ (L.phase = .running ∧ L.region = region ∧ L.text = x.text ∧ L.bufs = x.bufs ∧
      L.weights = x.weights ∧ L.hbm = x.bytes ∧ (L.seq, L.part, L.queue, L.tdisp) = (seq, p, q, dtime)) ∧
      ∀ n < region.length, ((t.bent (region.getD n 0)).launch = some (seq * 8 + p) ∧ (t.bent (region.getD n 0)).index = n) ∧
        ∀ k < x.head.strands, (L.idAt n k = none → t.strand? (region.getD n 0) k = none) ∧
          ∀ id, L.idAt n k = some id → ∃ v, t.strand? (region.getD n 0) k = some v ∧ v.lid = seq * 8 + p ∧ v.state = .ready ∧
            v.pc = BitVec.ofNat 64 x.head.entry ∧ v.rx 1 = BitVec.ofNat 64 id ∧ v.wid = BitVec.ofNat 64 id := by
  intro t region
  let L0 : Launch := { launchFrom cmd tapp seq p q x region with tdisp := dtime }
  generalize hu : (r.popCmd p q).journalDispatch p seq c.tier c.deadline = u
  have ht : t = (u.begin_ L0 x).refresh p := by rw [← hu]; rfl
  obtain ⟨⟨nx, ol, marks, hlaunch⟩, hbents⟩ := State.begin_shows (s := u) (L := L0) x (nodup_chooseBents ..) rfl rfl
  have hr := (u.begin_ L0 x).refreshes_refresh p
  refine ⟨_, (by rw [ht, hr.launch?]; exact hlaunch), ⟨rfl, rfl, rfl, rfl, rfl, rfl, rfl⟩, fun n hn => ?_⟩
  obtain ⟨hl, hix, hslots⟩ := hbents _ (getD_mem_zipIdx hn)
  rw [ht, hr.bent]
  refine ⟨⟨hl, hix⟩, fun k hk => ?_⟩
  obtain ⟨hnone, hsome⟩ := hslots k hk
  rw [hr.strand?]
  refine ⟨hnone, fun id hid => ⟨_, hsome id hid, rfl, rfl, rfl, ?_, rfl⟩⟩
  exact (Strand.rx_wx ..).trans (if_pos rfl)

/-- R326, R399: a command ended instead of placed. -/
theorem State.failCmd_of_rewrites (hrw : s.Rewrites r) (hp : ((s.part p).qcb q).pend = (seq, tapp) :: l)
    (hh : NMap.get? (s.part p).held q = some h) (hc : s.cmdCand p q = some c) {code : Nat} (hcode : code ≠ 0) :
    (((r.failCmd p q code).part p).qcb q).head = ((s.part p).qcb q).head + 1 ∧
    ∀ j, NMap.get? (s.part p).journal (seq % 65536) = some j → j.seq = seq →
      ∃ k, NMap.get? ((r.failCmd p q code).part p).journal (seq % 65536) = some k ∧ (k.state, k.fault) = (0x08, code) := by
  obtain ⟨c2, hc2⟩ := State.cmdCand_of_rewrites hrw hc hp hh
  have hp2 := hp
  rw [← hrw.part p] at hp2
  obtain ⟨-, -, hhead, hjournal⟩ := State.failCmd_shows hp2 hc2 hcode
  rw [hrw.part p] at hhead hjournal
  exact ⟨hhead, hjournal⟩

end

/-! ### A pre-empted launch restored (R347) -/

/-- R347: a launch as it runs again on new bents. -/
def Launch.resumed (L : Launch) (new : List Nat) (dtime : Nat) : Launch :=
  { L.moved new with
    phase := .running, savedBents := [], savedMem := [], savedPoison := [], saved := 0, savedByMode := false, lastProgress := dtime }

/-- R345, R347: one bent of the new region restored. -/
def State.restoreBent (s t : State) (p lid : Nat) (new : List Nat) (x : Nat × Nat) : State :=
  t.updBent x.1 (fun B => s.restoredBent p B (NMap.getD (s.launch lid).savedBents x.2 {}) (moveBent (s.launch lid).savedRegion new))

/-- R345, R347: the bents of the new region restored. -/
def State.restoredBents (s : State) (p lid : Nat) (new : List Nat) : State :=
  new.zipIdx.foldl (fun t x => s.restoreBent t p lid new x) ((new.foldl (fun t b => t.zeroSpad b) s).loadSpads (s.launch lid) new)

theorem State.strands_restoredBents (s : State) (p lid : Nat) {new : List Nat} (hnd : new.Nodup) {n : Nat} (hn : n < new.length) :
    ((s.restoredBents p lid new).bent (new.getD n 0)).strands = (NMap.getD (s.launch lid).savedBents n {}).strands := by
  have hf (t : State) (x : Nat × Nat) (b : Nat) : (s.restoreBent t p lid new x).bent b =
      if b = x.1 then s.restoredBent p (t.bent b) (NMap.getD (s.launch lid).savedBents x.2 {}) (moveBent (s.launch lid).savedRegion new)
      else t.bent b := by
    rw [State.restoreBent, State.bent_updBent]
    split
    · next h => rw [h]
    · rfl
  obtain ⟨hin, -⟩ := State.bent_foldl_zipIdx (l := new.zipIdx)
    (g := fun x B => s.restoredBent p B (NMap.getD (s.launch lid).savedBents x.2 {}) (moveBent (s.launch lid).savedRegion new)) hf
    (by rw [List.zipIdx_map_fst]; exact hnd) ((new.foldl (fun t b => t.zeroSpad b) s).loadSpads (s.launch lid) new)
  have hone := hin (new.getD n 0, n) (getD_mem_zipIdx hn)
  exact (congrArg Bent.strands hone).trans rfl

/-- R347: the state as a launch resumes, before the partition is looked at anew. -/
def State.resuming (s : State) (p lid : Nat) (new : List Nat) : State :=
  (((s.restoredBents p lid new).setLaunch lid ((s.launch lid).resumed new s.dtime)).journalState p (s.launch lid).seq 0x04).updPart p
    (fun P => { P with selected := none })

theorem State.resuming_shows (s : State) (p lid : Nat) (new : List Nat) :
    (s.resuming p lid new).launch? lid = some ((s.launch lid).resumed new s.dtime) ∧
    ∀ b, (s.resuming p lid new).bent b = (s.restoredBents p lid new).bent b :=
  ⟨(NMap.get?_set ..).trans (if_pos rfl), fun _ => rfl⟩

theorem State.restore_eq (s : State) (p lid : Nat) :
    s.restore p lid = (s.resuming p lid (s.chooseBents p (s.launch lid).savedRegion.length [])).refresh p := rfl

theorem State.restore_shows (s : State) (p lid : Nat) :
    ∃ L, (s.restore p lid).launch? lid = some L ∧ L.phase = .running ∧
      L.region = s.chooseBents p (s.launch lid).savedRegion.length [] ∧
      ∀ n < L.region.length, ((s.restore p lid).bent (L.region.getD n 0)).strands =
        (NMap.getD (s.launch lid).savedBents n {}).strands := by
  rw [State.restore_eq]
  have hnd := nodup_chooseBents s p (s.launch lid).savedRegion.length []
  generalize s.chooseBents p (s.launch lid).savedRegion.length [] = new at hnd ⊢
  obtain ⟨hlaunch, hbent⟩ := s.resuming_shows p lid new
  have hr := (s.resuming p lid new).refreshes_refresh p
  refine ⟨_, (hr.launch? lid).trans hlaunch, rfl, rfl, fun n hn => ?_⟩
  rw [hr.bent, hbent]
  exact s.strands_restoredBents p lid hnd hn

end Sys2Proof.Machine

namespace Sys2Proof.Proofs

open Sys2Proof.Machine

/-- Settles O50: the first of the eligible candidates, the command placed or ended, and the launch restored. -/
theorem dispatchAndPlacement : Obligations.DispatchAndPlacement := by
  unfold Obligations.DispatchAndPlacement
  intro s p
  have hdispatch := exec_dispatchDecision_eq s p
  have hrefused := (s.refreshes_refresh p).refusedImage
  generalize s.refresh p = r at hdispatch hrefused ⊢
  intro r P l
  refine ⟨fun hp ho hd hs c hc hfirst => ?_, ?_⟩
  · obtain ⟨hdecision, hgood, hbad⟩ := State.decideNext_shows hp ho (hrefused.trans hd) hs (List.mem_of_mem_filter hc) (decision_eq hc hfirst)
    exact ⟨_, hdispatch, hdecision, hgood, hbad⟩
  · intro d c hc hp ho hd hn
    have hexec := exec_placement_of_selected hc hp ho hd hn
    refine ⟨?_, ?_, ?_⟩
    · intro seq tapp l2 h x r2 hsel hpend hheld cmd hbox hraw hfit lid region
      have hcand := State.cmdCand_of_selectedCand hc hsel
      have hplace := (State.placeHead_eq hpend hheld hcand hbox).trans ((if_neg (not_not.mpr hraw)).trans (if_neg (Nat.not_lt.mpr hfit)))
      rw [if_pos hsel, hplace] at hexec
      obtain ⟨K, hK, ⟨hphase, hregion, htext, hbufs, hweights, hhbm, hids⟩, hbents⟩ := r2.placed_shows p c.sel seq tapp c cmd x d.dtime
      have hdtime : d.dtime = s.dtime := (s.refreshes_deselect p).dtime
      rw [hdtime] at hids
      exact ⟨_, K, hexec, hK, hphase, hregion, htext, hbufs, hweights, hhbm, hids, fun n hn => (hbents n hn).1, fun n hn => (hbents n hn).2⟩
    · intro seq tapp l2 h f r2 hsel hpend hheld cmd fails
      have hcand := State.cmdCand_of_selectedCand hc hsel
      have hfails {o : Nat ⊕ Loaded} (hbox : d.loadBox p (Cmd.of cmd).ctx (Cmd.of cmd).cbase = (r2, o)) {code : Nat} (h0 : code ≠ 0)
          (hplace : d.placeHead p c.sel = r2.failCmd p c.sel code) : fails code := by
        rw [if_pos hsel, hplace] at hexec
        exact ⟨_, hexec, State.failCmd_of_rewrites (State.rewrites_of_loadBox hbox) hpend hheld hcand h0⟩
      refine ⟨fun hbox => ?_, fun x hbox => ⟨fun hraw => ?_, fun hraw hfit => ?_⟩⟩
      · exact hfails hbox (State.loadBox_fault_ne_zero hbox) (State.placeHead_eq hpend hheld hcand hbox)
      · exact hfails hbox (by decide) ((State.placeHead_eq hpend hheld hcand hbox).trans (if_pos hraw))
      · exact hfails hbox (by decide) ((State.placeHead_eq hpend hheld hcand hbox).trans ((if_neg (not_not.mpr hraw)).trans (if_pos hfit)))
    · intro hsel
      rw [if_neg (by omega)] at hexec
      obtain ⟨L, hL, hphase, hregion, hstrands⟩ := d.restore_shows p (c.sel - 256)
      exact ⟨_, L, hexec, hL, hphase, hregion, hstrands⟩

end Sys2Proof.Proofs
end
section
/-! PROOFS. The end of a launch: its completion, its record and what is left of it (R271, R330, R331, R348, R349, R379). -/

open Sys2Proof

namespace Sys2Proof.Machine

/-! ### The record of a launch in the journal (R331, R379) -/

theorem State.part_endPreempt (s : State) (p lid result : Nat) : ∃ v w, (s.endPreempt p lid result).part p =
    { s.part p with preempting := v, preempt := w } := by
  rw [State.endPreempt, State.part_updPart]
  generalize s.part p = P
  dsimp only
  split
  · split
    · exact ⟨_, _, rfl⟩
    · exact ⟨P.preempting, P.preempt, rfl⟩
  · exact ⟨P.preempting, P.preempt, rfl⟩

/-! ### The bents of a launch that is gone (R349) -/

theorem State.freeBents_shows (l : List Nat) (s : State) : (l.foldl (fun t b => t.updBent b Bent.freed) s).launches = s.launches ∧
    (l.foldl (fun t b => t.updBent b Bent.freed) s).mem = s.mem ∧ (l.foldl (fun t b => t.updBent b Bent.freed) s).parts = s.parts ∧
    (l.foldl (fun t b => t.updBent b Bent.freed) s).ctxs = s.ctxs ∧
    ∀ b, (b ∈ l ∨ ((s.bent b).launch = none ∧ (s.bent b).strands = [])) →
      ((l.foldl (fun t b => t.updBent b Bent.freed) s).bent b).launch = none ∧
      ((l.foldl (fun t b => t.updBent b Bent.freed) s).bent b).strands = [] := by
  induction l generalizing s with
  | nil => exact ⟨rfl, rfl, rfl, rfl, fun b h => h.resolve_left (fun h => nomatch h)⟩
  | cons c l ih =>
    obtain ⟨hl, hm, hp, hc, hb⟩ := ih (s.updBent c Bent.freed)
    refine ⟨hl, hm, hp, hc, fun b h => hb b ?_⟩
    rw [State.bent_updBent]
    by_cases hbc : b = c
    · rw [if_pos hbc]
      exact .inr ⟨rfl, rfl⟩
    · rw [if_neg hbc]
      exact h.imp (fun h => (List.mem_cons.mp h).resolve_left hbc) id

theorem State.eraseLaunch_shows {s : State} {lid : Nat} {L : Launch} (h : s.launch? lid = some L) :
    (s.eraseLaunch lid).launch? lid = none ∧ (s.eraseLaunch lid).mem = s.mem ∧ (s.eraseLaunch lid).ctxs = s.ctxs ∧
    (∀ b ∈ L.region, ((s.eraseLaunch lid).bent b).launch = none ∧ ((s.eraseLaunch lid).bent b).strands = []) ∧
    ∃ l, (s.eraseLaunch lid).part L.part = { s.part L.part with parked := l } := by
  obtain ⟨hl, hm, hp, hc, hb⟩ := State.freeBents_shows L.region s
  have hL := State.launch_of_launch? h
  have herase : s.eraseLaunch lid = { L.region.foldl (fun t b => t.updBent b Bent.freed) s with
      launches := NMap.erase (L.region.foldl (fun t b => t.updBent b Bent.freed) s).launches lid
      packets := (L.region.foldl (fun t b => t.updBent b Bent.freed) s).packets.filter (fun q => q.lid != lid)
      parts := NMap.modify (L.region.foldl (fun t b => t.updBent b Bent.freed) s).parts L.part {} (fun P =>
        { P with parked := P.parked.filter (fun q => !L.region.contains q.2.1) }) } := by
    rw [State.eraseLaunch, hL]
  rw [herase]
  refine ⟨?_, hm, hc, fun b h => hb b (.inl h),
    (s.part L.part).parked.filter (fun q => !L.region.contains q.2.1), ?_⟩
  · exact (NMap.get?_erase ..).trans (if_pos rfl)
  · rw [State.part]
    dsimp only
    rw [hp, NMap.getD_modify, if_pos rfl]
    rfl

/-- R330, R331, R344: the record of an ended launch written, its command's journal record and a request on it brought to an end. -/
def State.recorded (s : State) (lid : Nat) (L : Launch) : State :=
  ((s.writeRecord L.part L.ctx L.compl.toNat
    { status := statusWord (if L.fault = 0 then 1 else 2) (decide (L.deadline < if L.fault = 0 then s.dtime else L.tfault)) L.fault
        L.trapCause
      seq := L.seq, tdisp := L.tdisp, tdone := if L.fault = 0 then s.dtime else L.tfault, fpc := L.fpc.toNat
      fwho := L.fwho }).journalEnd L.part L.seq L.fault).endPreempt L.part lid (s.endedResult L.part L.fault)

/-- R330, R331: what is left of a launch. -/
def State.GoneFrom (s t : State) (lid : Nat) (L : Launch) : Prop :=
  t.launch? lid = none ∧ (∀ b ∈ L.region, (t.bent b).launch = none ∧ (t.bent b).strands = []) ∧
  ∀ j, NMap.get? (s.part L.part).journal (L.seq % 65536) = some j → j.seq = L.seq → ∃ k,
    NMap.get? (t.part L.part).journal (L.seq % 65536) = some k ∧
    (k.state, k.fault, k.tlast) = (if L.fault = 0 then 0x07 else 0x08, L.fault, s.dtime)

theorem State.journal_recorded {s : State} (L : Launch) (lid : Nat) {j : Journal}
    (hj : NMap.get? (s.part L.part).journal (L.seq % 65536) = some j) (hseq : j.seq = L.seq) :
    ∃ k, NMap.get? ((s.recorded lid L).part L.part).journal (L.seq % 65536) = some k ∧
      (k.state, k.fault, k.tlast) = (if L.fault = 0 then 0x07 else 0x08, L.fault, s.dtime) := by
  have hw := s.rewrites_writeRecord L.part L.ctx L.compl.toNat
    { status := statusWord (if L.fault = 0 then 1 else 2) (decide (L.deadline < if L.fault = 0 then s.dtime else L.tfault)) L.fault
        L.trapCause
      seq := L.seq, tdisp := L.tdisp, tdone := if L.fault = 0 then s.dtime else L.tfault, fpc := L.fpc.toNat, fwho := L.fwho }
  rw [State.recorded]
  generalize s.writeRecord _ _ _ _ = u at hw ⊢
  obtain ⟨v, w, hpart⟩ := (u.journalEnd L.part L.seq L.fault).part_endPreempt L.part lid (s.endedResult L.part L.fault)
  rw [hpart, State.journalEnd_eq]
  rw [← hw.part] at hj
  exact ⟨_, State.get?_journal hj hseq (Journal.endedWith L.fault), by rw [hw.dtime]; rfl⟩

section
variable {s : State} {lid : Nat} {L : Launch} (h : s.launch? lid = some L)
include h

theorem State.endLaunch_eq : s.endLaunch lid = ((s.recorded lid L).eraseLaunch lid).refresh L.part := by
  rw [State.endLaunch, State.launch_of_launch? h]
  rfl

theorem State.launch?_recorded : (s.recorded lid L).launch? lid = some L :=
  (congrArg (fun m : NMap Launch => NMap.get? m lid) (State.rewrites_writeRecord ..).launches).trans h

theorem State.goneFrom_endLaunch : s.GoneFrom (s.endLaunch lid) lid L := by
  obtain ⟨hnone, -, -, hbents, l, hpart⟩ := State.eraseLaunch_shows (State.launch?_recorded h)
  have hr := ((s.recorded lid L).eraseLaunch lid).refreshes_refresh L.part
  rw [State.endLaunch_eq h]
  refine ⟨(hr.launch? lid).trans hnone, fun b hb => ?_, fun j hj hseq => ?_⟩
  · rw [hr.bent]
    exact hbents b hb
  · rw [hr.journal, hpart]
    exact State.journal_recorded L lid hj hseq

end

end Sys2Proof.Machine
end
section
/-! PROOFS. The completion record of a launch in host memory (R330, R332 to R334). -/

open Sys2Proof

namespace Sys2Proof.Machine

/-! ### Writes outside HBM leave translations as they are -/

section
variable {s : State} (ho : s.Ordered) {a : Nat} (ha : hbmBytes ≤ a) (l : List Byte)
include ho ha

theorem State.bytesUnder_poke (key : List Byte) {pa n : Nat} (hn : pa + n ≤ hbmBytes) :
    (s.poke a l).bytesUnder key pa n = s.bytesUnder key pa n := by
  refine List.map_congr_left (fun k hk => ?_)
  have hk' := List.mem_range.mp hk
  have hbytes : hbmBytes = 768 * 2 ^ 30 := rfl
  have hget (b : Nat) (hb : b < hbmBytes) : Memory.get (s.poke a l).mem b = Memory.get s.mem b :=
    Memory.get_putBytes_of_outside l s.mem a b ho (.inl (hb.trans_le ha))
  have hblock : Memory.getBytes (s.poke a l).mem ((pa + k) / 64 * 64) 64 = Memory.getBytes s.mem ((pa + k) / 64 * 64) 64 := by
    refine List.map_congr_left (fun i hi => hget _ ?_)
    have hi' := List.mem_range.mp hi
    omega
  have hkeys : (s.poke a l).device = s.device := rfl
  unfold State.byteUnder
  rw [hget _ (by omega), hblock, hkeys]

theorem State.tableEntry_poke (ctx pa : Nat) : (s.poke a l).tableEntry ctx pa = s.tableEntry ctx pa := by
  unfold State.tableEntry
  split
  · next h =>
    have hkey : (s.poke a l).ctxKey ctx = s.ctxKey ctx := rfl
    rw [hkey, State.bytesUnder_poke ho ha l _ h]
  · rfl

theorem State.walkEntry_poke (ctx : Nat) (host : Bool) (vpn : Nat) : (s.poke a l).walkEntry ctx host vpn = s.walkEntry ctx host vpn := by
  have ht := State.tableEntry_poke ho ha l ctx
  have hctx : (s.poke a l).ctx ctx = s.ctx ctx := rfl
  simp only [State.walkEntry, State.walk1, State.walk2, State.walk3, ht, hctx]

theorem State.cpWalk_poke (part ctx : Nat) (host write : Bool) (va : Nat) :
    (s.poke a l).cpWalk part ctx host write va = s.cpWalk part ctx host write va := by
  have hctx : (s.poke a l).ctx ctx = s.ctx ctx := rfl
  rw [State.cpWalk, State.cpWalk, State.walkEntry_poke ho ha l, hctx]
  rfl

end

theorem State.cpWrite_of_walk {s : State} {part ctx va loc : Nat} {host : Bool} {i : Option Nat} {l : List Byte}
    (h : s.cpWalk part ctx host true va = .ok loc i) (hq : s.meetsQueue loc l.length = false) :
    s.cpWrite part ctx host va l = s.poke loc l := by
  unfold State.cpWrite State.cpTouch
  simp only [h, hq, Bool.false_eq_true, if_false]

/-- R333: a host access lies outside the device. -/
theorem State.host_of_cpWalk {s : State} {part ctx va loc : Nat} {write : Bool} {i : Option Nat}
    (h : s.cpWalk part ctx true write va = .ok loc i) : hbmBytes ≤ loc := by
  have hbytes : hbmBytes ≤ 2 ^ 60 := by decide
  unfold State.cpWalk at h
  split at h
  · exact nomatch h
  · split at h
    · next e he =>
      have hhost : e.host = true := by
        obtain ⟨x, -, rfl⟩ := Option.map_eq_some_iff.mp he
        rfl
      unfold State.useEntry at h
      simp only [hhost, if_true] at h
      split at h
      · exact nomatch h
      · split at h
        · split at h
          · exact nomatch h
          · rw [← (Tr.ok.inj h).1]
            exact hbytes.trans (Nat.le_add_right ..)
        · rw [← (Tr.ok.inj h).1]
          exact hbytes.trans (Nat.le_add_right ..)
    · exact nomatch h

theorem meetsQueue_of_within {s : State} {a n b m : Nat} (hb : a ≤ b) (hm : b + m ≤ a + n) (h : s.meetsQueue a n = false) :
    s.meetsQueue b m = false := by
  rw [Bool.eq_false_iff] at h ⊢
  refine fun hm' => h ?_
  simp only [State.meetsQueue, List.any_eq_true, Bool.and_eq_true, overlaps, decide_eq_true_eq] at hm' ⊢
  obtain ⟨p, hp, q, hq, hen, hlo, hhi⟩ := hm'
  exact ⟨p, hp, q, hq, hen, by omega, by omega⟩

theorem Memory.getBytes_putBytes_two {m : List Host.Cell} (hw : Memory.wf m = true) (a : Nat) (x y : List Byte) :
    Memory.getBytes (Memory.putBytes (Memory.putBytes m (a + x.length) y) a x) a (x.length + y.length) = x ++ y := by
  refine List.ext_getElem (by rw [Memory.getBytes_length, List.length_append]) (fun k h1 h2 => ?_)
  simp only [Memory.getBytes, List.getElem_map, List.getElem_range]
  have hw2 := Memory.putBytes_wf y m (a + x.length) hw
  by_cases hk : k < x.length
  · rw [Memory.get_putBytes x _ a k hw2 hk, List.getElem_append_left hk]
  · rw [List.length_append] at h2
    have ha : a + k = a + x.length + (k - x.length) := by omega
    rw [Memory.get_putBytes_of_outside x _ a _ hw2 (.inr (by omega)), ha, Memory.get_putBytes y m _ _ hw (by omega),
      List.getElem_append_right (Nat.not_lt.mp hk)]

/-- R330, R332: 56 bytes written in host memory, then the 8 before them. -/
theorem State.mem_cpWrite_two {s : State} (ho : s.Ordered) {part ctx loc va : Nat} {i j : Option Nat} {x y : List Byte}
    (hx : x.length = 8) (hy : y.length = 56) (h0 : s.cpWalk part ctx true true va = .ok loc i)
    (h8 : s.cpWalk part ctx true true (va + 8) = .ok (loc + 8) j) (hq : s.meetsQueue loc 64 = false) :
    Memory.getBytes ((s.cpWrite part ctx true (va + 8) y).cpWrite part ctx true va x).mem loc 64 = x ++ y := by
  have hhost := State.host_of_cpWalk h8
  have hq8 : s.meetsQueue (loc + 8) y.length = false := by
    rw [hy]
    exact meetsQueue_of_within (Nat.le_add_right loc 8) (by omega) hq
  have hq0 : (s.poke (loc + 8) y).meetsQueue loc x.length = false := by
    have hsame : (s.poke (loc + 8) y).meetsQueue loc x.length = s.meetsQueue loc x.length := rfl
    rw [hsame, hx]
    exact meetsQueue_of_within (Nat.le_refl loc) (by omega) hq
  rw [State.cpWrite_of_walk h8 hq8, State.cpWrite_of_walk ((State.cpWalk_poke ho hhost y ..).trans h0) hq0]
  have hmem := Memory.getBytes_putBytes_two ho.wf loc x y
  rw [hx, hy] at hmem
  exact hmem

/-- R330: a record written in host memory. -/
theorem State.mem_writeRecord_host {s : State} (ho : s.Ordered) {part ctx loc va : Nat} {compl : Nat} {i j : Option Nat} (r : Record)
    (hs : spaceOf 0 (BitVec.ofNat 64 compl) = .host va) (h0 : s.cpWalk part ctx true true va = .ok loc i)
    (h8 : s.cpWalk part ctx true true (va + 8) = .ok (loc + 8) j) (hq : s.meetsQueue loc 64 = false) :
    Memory.getBytes (s.writeRecord part ctx compl r).mem loc 64 = leBytes 8 r.status ++ r.tail := by
  have htail : r.tail.length = 56 := by simp [Record.tail]
  unfold State.writeRecord
  rw [hs]
  exact State.mem_cpWrite_two ho (leBytes_length ..) htail h0 h8 hq

/-! ### The record of an ended launch (R330) -/

/-- R399: with no command in a partition's queues no header is read. -/
theorem State.mem_refresh_of_no_command {s : State} {p : Nat} (h : ∀ q, ((s.part p).qcb q).pend = []) : (s.refresh p).mem = s.mem := by
  have hone (q : Nat) : s.holdHeader p q = s := by
    unfold State.holdHeader
    simp only [h q, List.head?_nil]
  have hfold (l : List Nat) : l.foldl (fun t q => t.holdHeader p q) s = s := by
    induction l with
    | nil => rfl
    | cons q l ih => rw [List.foldl_cons, hone, ih]
  rw [State.refresh, hfold]
  simp

theorem State.qcb_recorded (s : State) (L : Launch) (lid q : Nat) :
    ((s.recorded lid L).part L.part).qcb q = (s.part L.part).qcb q := by
  have hw := s.rewrites_writeRecord L.part L.ctx L.compl.toNat
    { status := statusWord (if L.fault = 0 then 1 else 2) (decide (L.deadline < if L.fault = 0 then s.dtime else L.tfault)) L.fault
        L.trapCause
      seq := L.seq, tdisp := L.tdisp, tdone := if L.fault = 0 then s.dtime else L.tfault, fpc := L.fpc.toNat, fwho := L.fwho }
  rw [State.recorded]
  generalize s.writeRecord _ _ _ _ = u at hw ⊢
  obtain ⟨v, w, hpart⟩ := (u.journalEnd L.part L.seq L.fault).part_endPreempt L.part lid (s.endedResult L.part L.fault)
  obtain ⟨J, hJ⟩ := u.part_journal L.part L.seq (Journal.endedWith L.fault)
  rw [hpart, State.journalEnd_eq, hJ, hw.part]
  rfl

/-- R330: the record that an ended launch leaves in host memory. -/
theorem State.record_endLaunch {s : State} {lid : Nat} {L : Launch} (h : s.launch? lid = some L) (ho : s.Ordered)
    (hidle : ∀ q, ((s.part L.part).qcb q).pend = []) {va loc : Nat} {i j : Option Nat} (hs : spaceOf 0 L.compl = .host va)
    (h0 : s.cpWalk L.part L.ctx true true va = .ok loc i) (h8 : s.cpWalk L.part L.ctx true true (va + 8) = .ok (loc + 8) j)
    (hq : s.meetsQueue loc 64 = false) : Memory.getBytes (s.endLaunch lid).mem loc 64 =
      leBytes 8 (statusWord (if L.fault = 0 then 1 else 2) (decide (L.deadline < if L.fault = 0 then s.dtime else L.tfault)) L.fault
        L.trapCause) ++
      leBytes 8 L.seq ++ leBytes 8 L.tdisp ++ leBytes 8 (if L.fault = 0 then s.dtime else L.tfault) ++ leBytes 8 L.fpc.toNat ++
      leBytes 2 L.fwho ++ List.replicate 22 0 := by
  obtain ⟨-, hmem, -, -, l, hpart⟩ := State.eraseLaunch_shows (State.launch?_recorded h)
  have hpend (q : Nat) : ((((s.recorded lid L).eraseLaunch lid).part L.part).qcb q).pend = [] := by
    rw [hpart]
    exact (congrArg Qcb.pend (s.qcb_recorded L lid q)).trans (hidle q)
  rw [State.endLaunch_eq h, State.mem_refresh_of_no_command hpend, hmem]
  have hcompl : spaceOf 0 (BitVec.ofNat 64 L.compl.toNat) = .host va := by rw [BitVec.ofNat_toNat, BitVec.setWidth_eq]; exact hs
  have hrec : (s.recorded lid L).mem = _ := rfl
  refine (congrArg (Memory.getBytes · loc 64) hrec).trans ((State.mem_writeRecord_host ho _ hcompl h0 h8 hq).trans ?_)
  simp only [Record.tail, List.append_assoc]

end Sys2Proof.Machine
end
section
/-! PROOFS. The drain of a region (R348, R349). -/

open Sys2Proof

namespace Sys2Proof.Machine

/-! ### What the words of drained walks leave (R176, R349) -/

/-- A state with the launches, the places of their bents, and the time that another has. -/
structure State.SamePlaces (s t : State) : Prop where
  launch : ∀ lid, (t.launch? lid).map (fun L => (L.fault, L.tfault, L.region)) = (s.launch? lid).map (fun L => (L.fault, L.tfault, L.region))
  bent : ∀ b, (t.bent b).launch = (s.bent b).launch
  dtime : t.dtime = s.dtime

theorem State.SamePlaces.refl (s : State) : s.SamePlaces s := ⟨fun _ => rfl, fun _ => rfl, rfl⟩

theorem State.SamePlaces.trans {s t u : State} (h : s.SamePlaces t) (h' : t.SamePlaces u) : s.SamePlaces u :=
  ⟨fun lid => (h'.launch lid).trans (h.launch lid), fun b => (h'.bent b).trans (h.bent b), h'.dtime.trans h.dtime⟩

theorem State.SamePlaces.foldl {α : Type} {f : State → α → State} (hf : ∀ (s : State) (x : α), s.SamePlaces (f s x)) (l : List α)
    (s : State) : s.SamePlaces (l.foldl f s) := by
  induction l generalizing s with
  | nil => exact .refl s
  | cons x l ih => exact (hf s x).trans (ih (f s x))

theorem State.Rewrites.samePlaces {s t : State} (h : s.Rewrites t) : s.SamePlaces t := by
  obtain ⟨_, _, _, _, rfl⟩ := h
  exact ⟨fun _ => rfl, fun _ => rfl, rfl⟩

theorem State.dtime_write (s : State) (w : Writer) (a : Nat) (l : List Byte) (q : Bool) : (s.write w a l q).dtime = s.dtime := by
  have hundo : (s.recordUndo w a l.length).dtime = s.dtime := by
    unfold State.recordUndo
    split
    · rfl
    · split <;> rfl
  rw [← hundo]
  unfold State.write
  dsimp only
  split
  · split <;> rfl
  · split <;> rfl

theorem State.samePlaces_write (s : State) (w : Writer) (a : Nat) (l : List Byte) (q : Bool) : s.SamePlaces (s.write w a l q) :=
  ⟨fun lid => State.launch?_write_keeps (fun L => (L.fault, L.tfault, L.region)) (fun _ _ => rfl) (fun _ _ => rfl) (fun _ _ _ => rfl)
      s w a l q lid, fun b => State.bent_write_keeps Bent.launch (fun _ _ => rfl) s w a l q b, s.dtime_write w a l q⟩

theorem State.samePlaces_ctxLoc (s : State) (lid : Nat) (write : Bool) (va n : Nat) : s.SamePlaces (s.ctxLoc lid write va n).1 := by
  unfold State.ctxLoc
  dsimp only
  split
  · exact .refl s
  · exact State.Rewrites.samePlaces (s.scrubs_cpTouch ..).rest

theorem State.samePlaces_drainWalk (s : State) (b : Nat) (w : Walk) : s.SamePlaces (s.drainWalk b w) := by
  unfold State.drainWalk
  dsimp only
  split
  · exact .refl s
  · split
    · split
      · exact s.samePlaces_write ..
      · exact .refl s
    · split
      · exact (s.samePlaces_ctxLoc ..).trans (State.samePlaces_write ..)
      · exact s.samePlaces_ctxLoc ..
    · exact .refl s

theorem State.samePlaces_drainSaved (s : State) (B : Bent) (w : Walk) : s.SamePlaces (s.drainSaved B w) := by
  unfold State.drainSaved
  dsimp only
  split
  · exact .refl s
  · split
    · split
      · exact (s.samePlaces_ctxLoc ..).trans (State.samePlaces_write ..)
      · exact s.samePlaces_ctxLoc ..
    · exact .refl s

/-- R176, R349: the state once the words of a launch's walks are written. -/
def State.walksDrained (s : State) (lid : Nat) : State :=
  (s.launch lid).savedWalks.foldl (fun t x => t.drainSaved x.1 x.2) ((s.walksOf lid).foldl (fun t w => t.drainWalk w.1 w.2.2) s)

theorem State.samePlaces_walksDrained (s : State) (lid : Nat) : s.SamePlaces (s.walksDrained lid) :=
  (State.SamePlaces.foldl (fun t w => t.samePlaces_drainWalk w.1 w.2.2) (s.walksOf lid) s).trans
    (State.SamePlaces.foldl (fun (t : State) (x : Bent × Walk) => t.samePlaces_drainSaved x.1 x.2) _ _)

/-! ### Bents drained and shadows dropped (R349) -/

/-- R349: a bent of a launch with no strand, cell or walk left. -/
def Bent.Emptied (B : Bent) (lid : Nat) : Prop := B.launch = some lid ∧ B.strands = [] ∧ B.cells = [] ∧ B.walks = []

theorem Bent.emptied_drained {B : Bent} {lid : Nat} (h : B.launch = some lid) : B.drained.Emptied lid := by
  unfold Bent.drained
  rw [h]
  exact ⟨rfl, rfl, rfl, rfl⟩

theorem State.drainBents_shows (lid : Nat) (l : List Nat) (s : State) :
    (l.foldl (fun t b => t.updBent b Bent.drained) s).launches = s.launches ∧
    (l.foldl (fun t b => t.updBent b Bent.drained) s).dtime = s.dtime ∧
    ∀ b, ((b ∈ l ∧ (s.bent b).launch = some lid) ∨ (s.bent b).Emptied lid) →
      ((l.foldl (fun t b => t.updBent b Bent.drained) s).bent b).Emptied lid := by
  induction l generalizing s with
  | nil => exact ⟨rfl, rfl, fun b h => h.resolve_left (fun h => nomatch h.1)⟩
  | cons c l ih =>
    obtain ⟨hl, ht, hb⟩ := ih (s.updBent c Bent.drained)
    refine ⟨hl, ht, fun b h => hb b ?_⟩
    rw [State.bent_updBent]
    by_cases hbc : b = c
    · rw [if_pos hbc, ← hbc]
      exact .inr (Bent.emptied_drained (h.elim And.right And.left))
    · rw [if_neg hbc]
      exact h.imp (fun h => ⟨(List.mem_cons.mp h.1).resolve_left hbc, h.2⟩) id

theorem State.dropShadows_keeps (lid : Nat) (l : NMap Buffer) (s : State) :
    (l.foldl (fun t p => t.dropShadow lid p) s).launches = s.launches ∧ (l.foldl (fun t p => t.dropShadow lid p) s).bents = s.bents ∧
    (l.foldl (fun t p => t.dropShadow lid p) s).dtime = s.dtime := by
  have hzero (f : Nat → Nat) (n : Nat) (l : List Nat) (t : State) : (l.foldl (fun t b => t.zero (f b) n) t).launches = t.launches ∧
      (l.foldl (fun t b => t.zero (f b) n) t).bents = t.bents ∧ (l.foldl (fun t b => t.zero (f b) n) t).dtime = t.dtime := by
    induction l generalizing t with
    | nil => exact ⟨rfl, rfl, rfl⟩
    | cons b l ih => exact ih (t.zero (f b) n)
  induction l generalizing s with
  | nil => exact ⟨rfl, rfl, rfl⟩
  | cons p l ih =>
    obtain ⟨h1, h2, h3⟩ := ih (s.dropShadow lid p)
    have hone : (s.dropShadow lid p).launches = s.launches ∧ (s.dropShadow lid p).bents = s.bents ∧
        (s.dropShadow lid p).dtime = s.dtime := by
      unfold State.dropShadow
      split
      · exact hzero (fun b => p.2.place lid b p.1 false 0) p.2.bytes _ s
      · exact ⟨rfl, rfl, rfl⟩
    exact ⟨h1.trans hone.1, h2.trans hone.2.1, h3.trans hone.2.2⟩

/-- R349: a launch whose closing marker is under way. -/
def Launch.closed (L : Launch) : Launch :=
  { L with conts := [], readyList := [], scarfs := [], pubAfter := [], pubWait := [], phase := .closing }

/-- R349: a region drained once the words of its walks are written. -/
def State.regionDrained (u : State) (lid : Nat) : State :=
  let v := (u.launch lid).region.foldl (fun t b => t.updBent b Bent.drained) u
  let w := (v.launch lid).bufs.foldl (fun t p => t.dropShadow lid p) v
  { w with packets := w.packets.filter (fun q => q.lid != lid) }.updLaunch lid Launch.closed

theorem State.drainRegion_eq (s : State) (lid : Nat) : s.drainRegion lid = (s.walksDrained lid).regionDrained lid := rfl

/-- R349: what the drain of a region leaves. -/
theorem State.drainRegion_shows {s : State} {lid : Nat} {L : Launch} (h : s.launch? lid = some L) :
    ∃ K : Launch, (s.drainRegion lid).launch? lid = some K.closed ∧ (K.fault, K.tfault, K.region) = (L.fault, L.tfault, L.region) ∧
      (∀ q ∈ (s.drainRegion lid).packets, q.lid ≠ lid) ∧ (s.drainRegion lid).dtime = s.dtime ∧
      ∀ b ∈ L.region, (s.bent b).launch = some lid → ((s.drainRegion lid).bent b).Emptied lid := by
  obtain ⟨hlaunch, hbent, hdtime⟩ := s.samePlaces_walksDrained lid
  obtain ⟨K, hK, hfields⟩ : ∃ K, (s.walksDrained lid).launch? lid = some K ∧
      (K.fault, K.tfault, K.region) = (L.fault, L.tfault, L.region) := by
    have hone := hlaunch lid
    rw [h] at hone
    exact Option.map_eq_some_iff.mp hone
  rw [s.drainRegion_eq lid]
  generalize s.walksDrained lid = u at hK hbent hdtime ⊢
  rw [State.regionDrained, State.launch_of_launch? hK]
  obtain ⟨hl1, ht1, hb1⟩ := State.drainBents_shows lid K.region u
  generalize K.region.foldl (fun t b => t.updBent b Bent.drained) u = v at hl1 ht1 hb1 ⊢
  obtain ⟨hl2, hb2, ht2⟩ := State.dropShadows_keeps lid (v.launch lid).bufs v
  generalize (v.launch lid).bufs.foldl (fun t p => t.dropShadow lid p) v = w at hl2 hb2 ht2 ⊢
  have hw : w.launch? lid = some K := by rw [State.launch?, hl2, hl1]; exact hK
  have hregion : K.region = L.region := congrArg (fun x : Nat × Nat × List Nat => x.2.2) hfields
  refine ⟨K, ?_, hfields, fun q hq => ?_, ?_, fun b hb hlid => ?_⟩
  · rw [State.launch?_updLaunch, if_pos rfl]
    exact congrArg (Option.map Launch.closed) hw
  · rw [State.updLaunch_packets] at hq
    simpa using (List.mem_filter.mp hq).2
  · rw [State.updLaunch_dtime]
    exact ht2.trans (ht1.trans hdtime)
  · rw [State.bent_updLaunch]
    have hemptied := hb1 b (.inl ⟨hregion ▸ hb, (hbent b).trans hlid⟩)
    have hwb : w.bent b = v.bent b := by rw [State.bent, hb2, State.bent]
    rw [← hwb] at hemptied
    exact hemptied

end Sys2Proof.Machine
end
section
/-! PROOFS. The rollback of a launch to its last cut (R369 to R371). -/

open Sys2Proof

namespace Sys2Proof.Machine

/-! ### Memory put back (R369) -/

theorem State.inQueueSlots_of_parts {s t : State} (h : t.parts = s.parts) (a : Nat) : t.inQueueSlots a = s.inQueueSlots a := by
  unfold State.inQueueSlots State.part
  rw [h]

theorem State.undoOne_shows (s : State) (u : Undo) : (s.undoOne u).launches = s.launches ∧ (s.undoOne u).parts = s.parts ∧
    (s.undoOne u).mem = if s.inQueueSlots u.base then s.mem else Memory.putBytes s.mem u.base u.old := by
  have hgranule (t : State) (a : Nat) (f : Granule → Granule) : (t.updGranule a f).launches = t.launches ∧
      (t.updGranule a f).parts = t.parts ∧ (t.updGranule a f).mem = t.mem := by
    unfold State.updGranule
    split <;> exact ⟨rfl, rfl, rfl⟩
  unfold State.undoOne
  by_cases hq : s.inQueueSlots u.base = true
  · rw [if_pos hq, if_pos hq]
    exact ⟨rfl, rfl, rfl⟩
  · rw [if_neg hq, if_neg hq]
    dsimp only
    split
    · exact hgranule ..
    · exact ⟨rfl, rfl, rfl⟩

theorem State.undoAll_shows (l : List Undo) (s : State) : (l.foldl State.undoOne s).launches = s.launches ∧
    (l.foldl State.undoOne s).mem =
      (l.filter (fun u => !s.inQueueSlots u.base)).foldl (fun m u => Memory.putBytes m u.base u.old) s.mem := by
  induction l generalizing s with
  | nil => exact ⟨rfl, rfl⟩
  | cons u l ih =>
    obtain ⟨hl, hp, hm⟩ := s.undoOne_shows u
    obtain ⟨hl', hm'⟩ := ih (s.undoOne u)
    simp only [State.inQueueSlots_of_parts hp, hm] at hm'
    refine ⟨hl'.trans hl, ?_⟩
    rw [List.foldl_cons, hm', List.filter_cons]
    by_cases hq : s.inQueueSlots u.base = true
    · rw [if_pos hq, if_neg (by rw [hq]; decide)]
    · rw [if_neg hq, if_pos (by rw [Bool.eq_false_iff.mpr hq]; rfl), List.foldl_cons]

/-- R369: what the undo log puts back. -/
theorem State.undoMemory_shows {s : State} {lid : Nat} {L : Launch} (h : s.launch? lid = some L) :
    (s.undoMemory lid).launches = s.launches ∧
    (s.undoMemory lid).mem = (L.undo.filter (fun u => L.afterCut u.round && !s.inQueueSlots u.base)).foldl
      (fun m u => Memory.putBytes m u.base u.old) s.mem := by
  have hall := State.undoAll_shows (L.undo.filter (fun u => L.afterCut u.round)) s
  rw [List.filter_filter] at hall
  simp only [Bool.and_comm (!s.inQueueSlots _)] at hall
  rw [State.undoMemory, State.launch_of_launch? h]
  exact hall

/-! ### Bents put back (R369) -/

/-- What every change of a bent gives, every bent of a list has once each is changed. -/
theorem State.foldl_updBent_all {P : Bent → Prop} {g : Nat × Nat → Bent → Bent} (hg : ∀ x B, P (g x B)) (l : List (Nat × Nat))
    (s : State) (b : Nat)
    (h : b ∈ l.map Prod.fst ∨ P (s.bent b)) : P ((l.foldl (fun t x => t.updBent x.1 (g x)) s).bent b) := by
  induction l generalizing s with
  | nil => exact h.resolve_left (fun h => nomatch h)
  | cons x l ih =>
    refine ih (s.updBent x.1 (g x)) ?_
    rw [State.bent_updBent]
    by_cases hbx : b = x.1
    · rw [if_pos hbx]
      exact .inr (hg x _)
    · rw [if_neg hbx]
      exact h.imp (fun h => (List.mem_cons.mp h).resolve_left hbx) id

theorem Launch.folds_unitAt {L : Launch} (h : ∀ m ∈ L.cutUnits, m.bent.cn.folds = []) (lid j : Nat) (B : Bent) (e : Nat) :
    (L.unitAt lid j B e).cn.folds = [] := by
  unfold Launch.unitAt
  split
  · next m hm => exact h m (List.mem_of_find?_eq_some hm)
  · rfl

/-- R369: the bents of a region put back to the cut. -/
def State.cutBents (s : State) (lid : Nat) (L : Launch) : State :=
  L.region.zipIdx.foldl (fun t x => t.updBent x.1 (fun B => L.cutBent lid x.2 B)) s

theorem State.cutBents_keeps (s : State) (lid : Nat) (L : Launch) : (s.cutBents lid L).launches = s.launches ∧
    (s.cutBents lid L).mem = s.mem := by
  have hfold (l : List (Nat × Nat)) (t : State) : (l.foldl (fun t x => t.updBent x.1 (fun B => L.cutBent lid x.2 B)) t).launches =
      t.launches ∧ (l.foldl (fun t x => t.updBent x.1 (fun B => L.cutBent lid x.2 B)) t).mem = t.mem := by
    induction l generalizing t with
    | nil => exact ⟨rfl, rfl⟩
    | cons x l ih => exact ih (t.updBent x.1 (fun B => L.cutBent lid x.2 B))
  exact hfold _ s

theorem State.cutBents_all {P : Bent → Prop} {lid : Nat} {L : Launch} (hP : ∀ j B, P (L.cutBent lid j B)) (s : State) {b : Nat}
    (hb : b ∈ L.region) : P ((s.cutBents lid L).bent b) :=
  State.foldl_updBent_all (g := fun x B => L.cutBent lid x.2 B) (fun x B => hP x.2 B) L.region.zipIdx s b
    (.inl (by rw [List.zipIdx_map_fst]; exact hb))

theorem State.bent_cutBents (s : State) (lid : Nat) {L : Launch} (hnd : L.region.Nodup) {j : Nat} (hj : j < L.region.length) :
    (s.cutBents lid L).bent (L.region.getD j 0) = L.cutBent lid j (s.bent (L.region.getD j 0)) := by
  refine (State.bent_foldl_zipIdx (g := fun x B => L.cutBent lid x.2 B) (fun t x b => ?_) ?_ s).1 _ (getD_mem_zipIdx hj)
  · rw [State.bent_updBent]
    split
    · next h => rw [h]
    · rfl
  · rw [List.zipIdx_map_fst]
    exact hnd

/-! ### Strands put back (R369) -/

/-- A state whose launch differs in channels and waiting continuations alone, and whose bents differ in strands alone. -/
structure State.PutsBack (s t : State) (lid : Nat) : Prop where
  launch : ∀ K, s.launch? lid = some K → ∃ cs rl, t.launch? lid = some { K with chans := cs, readyList := rl }
  bent : ∀ b, ∃ ss, t.bent b = { s.bent b with strands := ss }

theorem State.PutsBack.refl (s : State) (lid : Nat) : s.PutsBack s lid := ⟨fun _ h => ⟨_, _, h⟩, fun _ => ⟨_, rfl⟩⟩

theorem State.PutsBack.trans {s t u : State} {lid : Nat} (h : s.PutsBack t lid) (h' : t.PutsBack u lid) : s.PutsBack u lid := by
  refine ⟨fun K hK => ?_, fun b => ?_⟩
  · obtain ⟨_, _, hK1⟩ := h.launch K hK
    obtain ⟨_, _, hK2⟩ := h'.launch _ hK1
    exact ⟨_, _, hK2⟩
  · obtain ⟨_, h1⟩ := h.bent b
    obtain ⟨ss, h2⟩ := h'.bent b
    exact ⟨ss, by rw [h2, h1]⟩

theorem Launch.useSlot_shows (L : Launch) (h : Nat) (f : Nat → Nat) : ∃ cs, L.useSlot h f = { L with chans := cs } := by
  unfold Launch.useSlot
  split
  · exact ⟨_, rfl⟩
  · exact ⟨L.chans, rfl⟩

theorem State.resend_shows (s : State) (st : Strand) (lid : Nat) :
    s.PutsBack (s.resend st) lid ∧ ∀ b, (s.resend st).bent b = s.bent b := by
  unfold State.resend
  generalize st.requests = l
  induction l generalizing s with
  | nil => exact ⟨.refl s lid, fun _ => rfl⟩
  | cons r l ih =>
    let t := s.updLaunch st.lid (fun L => L.useSlot r.1 (· + 1))
    have hbent (b : Nat) : t.bent b = s.bent b := State.bent_updLaunch ..
    have hone : s.PutsBack { t with packets := s.packets ++ [r.2] } lid := by
      refine ⟨fun K hK => ?_, fun b => ⟨_, hbent b⟩⟩
      have hlaunch : t.launch? lid = _ := State.launch?_updLaunch ..
      rw [hK] at hlaunch
      split at hlaunch
      · obtain ⟨cs, hcs⟩ := K.useSlot_shows r.1 (· + 1)
        exact ⟨cs, K.readyList, by rw [← hcs]; exact hlaunch⟩
      · exact ⟨K.chans, K.readyList, hlaunch⟩
    obtain ⟨h, hb⟩ := ih { t with packets := s.packets ++ [r.2] }
    exact ⟨hone.trans h, fun b => (hb b).trans (hbent b)⟩

theorem State.putsBack_putBack (s : State) (lid : Nat) (m : StrandMark) : s.PutsBack (s.putBack lid m) lid := by
  obtain ⟨h, -⟩ := s.resend_shows m.st.replay lid
  refine h.trans ?_
  unfold State.putBack
  dsimp only
  generalize s.resend m.st.replay = t
  split
  · refine ⟨fun K hK => ⟨_, _, hK⟩, fun b => ?_⟩
    rw [State.bent_setStrand]
    split
    · next hb => exact ⟨_, by rw [hb]⟩
    · exact ⟨_, rfl⟩
  · refine ⟨fun K hK => ?_, fun b => ⟨_, State.bent_updLaunch ..⟩⟩
    rw [State.launch?_updLaunch, if_pos rfl, hK]
    exact ⟨K.chans, _, rfl⟩

/-- R369: the strands of a cut put back. -/
def State.putBacks (s : State) (lid : Nat) (l : List StrandMark) : State := l.foldl (fun t m => t.putBack lid m) s

theorem State.putsBack_putBacks (lid : Nat) (l : List StrandMark) (s : State) : s.PutsBack (s.putBacks lid l) lid := by
  induction l generalizing s with
  | nil => exact .refl s lid
  | cons m l ih => exact (s.putsBack_putBack lid m).trans (ih (s.putBack lid m))

theorem State.putBacks_mem (lid : Nat) (l : List StrandMark) (s : State) : (s.putBacks lid l).mem = s.mem := by
  induction l generalizing s with
  | nil => rfl
  | cons m l ih => exact (ih (s.putBack lid m)).trans (s.putBack_mem lid m)

/-- R369: a strand put back where its slot is free. -/
theorem State.strand?_putBack {s : State} {lid : Nat} {K : Launch} (h : s.launch? lid = some K) {m : StrandMark}
    (hfree : s.strand? (K.region.getD m.bent 0) m.slot = none) (b k : Nat) :
    (s.putBack lid m).strand? b k =
      if b = K.region.getD m.bent 0 ∧ k = m.slot then some m.st.replay else s.strand? b k := by
  obtain ⟨-, hb⟩ := s.resend_shows m.st.replay lid
  have hsame (b k : Nat) : (s.resend m.st.replay).strand? b k = s.strand? b k := by rw [State.strand?, hb, State.strand?]
  unfold State.putBack
  simp only [State.regionOf, State.launch_of_launch? h, hsame, hfree]
  rw [State.strand?_setStrand, hsame]

/-- R369: the strands of a cut, each in its slot of the region. -/
theorem State.strand?_putBacks (lid : Nat) (l : List StrandMark) (s : State) {K : Launch} (h : s.launch? lid = some K)
    (hnd : (l.map (fun m => (K.region.getD m.bent 0, m.slot))).Nodup)
    (hfree : ∀ m ∈ l, s.strand? (K.region.getD m.bent 0) m.slot = none) :
    (∀ m ∈ l, (s.putBacks lid l).strand? (K.region.getD m.bent 0) m.slot = some m.st.replay) ∧
    ∀ b k, (b, k) ∉ l.map (fun m => (K.region.getD m.bent 0, m.slot)) → (s.putBacks lid l).strand? b k = s.strand? b k := by
  induction l generalizing s K with
  | nil => exact ⟨fun m hm => (nomatch hm), fun _ _ _ => rfl⟩
  | cons y l ih =>
    obtain ⟨hy, hnd⟩ := List.nodup_cons.mp hnd
    obtain ⟨hfy, hfree⟩ := List.forall_mem_cons.mp hfree
    obtain ⟨cs, rl, hK⟩ := (s.putsBack_putBack lid y).launch K h
    have hone := State.strand?_putBack h hfy
    have hnot (m : StrandMark) (hm : m ∈ l) : ¬(K.region.getD m.bent 0 = K.region.getD y.bent 0 ∧ m.slot = y.slot) :=
      fun hh => hy (List.mem_map.mpr ⟨m, hm, Prod.ext hh.1 hh.2⟩)
    obtain ⟨hin, hout⟩ := ih (s.putBack lid y) hK hnd (fun m hm => by rw [hone, if_neg (hnot m hm)]; exact hfree m hm)
    refine ⟨List.forall_mem_cons.mpr ⟨?_, hin⟩, fun b k hbk => ?_⟩
    · refine (hout _ _ hy).trans ?_
      rw [hone, if_pos ⟨rfl, rfl⟩]
    · rw [List.map_cons, List.mem_cons, not_or] at hbk
      refine (hout b k hbk.2).trans ?_
      rw [hone, if_neg (fun hh => hbk.1 (Prod.ext hh.1 hh.2))]

/-- Marks of different slots lie in different slots of a region. -/
theorem nodup_slots {region : List Nat} {l : List StrandMark} (hr : region.Nodup) (hl : (l.map (fun m => (m.bent, m.slot))).Nodup)
    (hb : ∀ m ∈ l, m.bent < region.length) : (l.map (fun m => (region.getD m.bent 0, m.slot))).Nodup := by
  have hmap : l.map (fun m => (region.getD m.bent 0, m.slot)) =
      (l.map (fun m => (m.bent, m.slot))).map (fun x => (region.getD x.1 0, x.2)) := by
    rw [List.map_map]
    rfl
  rw [hmap]
  refine hl.map_on (fun x hx y hy hxy => ?_)
  obtain ⟨m, hm, rfl⟩ := List.mem_map.mp hx
  obtain ⟨n, hn, rfl⟩ := List.mem_map.mp hy
  obtain ⟨h1, h2⟩ := Prod.mk.inj hxy
  rw [List.getD_eq_getElem _ _ (hb m hm), List.getD_eq_getElem _ _ (hb n hn)] at h1
  exact Prod.ext ((hr.getElem_inj_iff).mp h1) h2

end Sys2Proof.Machine
end
section
/-! PROOFS. The end of a launch: completion, hang, drain, rollback and restart (R271, R330, R348, R349, R369 to R372). -/

open Sys2Proof

namespace Sys2Proof.Machine

/-! ### A cut restored (R369) -/

/-- R369: a launch as it runs again from its cut. -/
def Launch.rolled (L : Launch) (dtime : Nat) : Launch := { L.atCut with phase := .running, lastProgress := dtime }

theorem Launch.unpublish_shows (L : Launch) : ∃ bufs, L.unpublish = { L with bufs := bufs } := by
  unfold Launch.unpublish
  generalize L.publishes.filter (fun x => L.afterCut x.1) = l
  suffices hall : ∀ (M : Launch), (∃ bufs, M = { L with bufs := bufs }) → ∃ bufs, l.foldl (fun L x =>
      { L with bufs := NMap.modify L.bufs x.2 default (fun B => { B with swap := !B.swap }) }) M = { L with bufs := bufs } from
    hall L ⟨L.bufs, rfl⟩
  induction l with
  | nil => exact fun M hM => hM
  | cons x l ih =>
    rintro M ⟨bufs, rfl⟩
    exact ih _ ⟨_, rfl⟩

theorem Launch.rolled_shows (L : Launch) (dtime : Nat) :
    (L.rolled dtime).region = L.region ∧ (L.rolled dtime).cutRound = L.cutRound := by
  obtain ⟨bufs, hbufs⟩ := L.unpublish_shows
  rw [Launch.rolled, Launch.atCut, hbufs]
  exact ⟨rfl, rfl⟩

/-- R369: the state once memory, bents, launch and strands are those of the cut. -/
def State.cutBack (s : State) (lid : Nat) (L : Launch) : State :=
  let u := (s.undoMemory lid).cutBents lid L
  { u.setLaunch lid (L.rolled s.dtime) with packets := u.packets.filter (fun q => q.lid != lid) }.putBacks lid L.cutStrands

/-- R186, R369: the pools of a region's bents. -/
def State.pools (s : State) (lid : Nat) (region : List Nat) : State :=
  region.foldl (fun t b => t.updBent b (fun B => { B with pool := s.poolLeft lid b })) s

theorem State.pools_shows (s : State) (lid : Nat) (region : List Nat) : (s.pools lid region).launches = s.launches ∧
    (s.pools lid region).mem = s.mem ∧ ∀ b, ∃ n, (s.pools lid region).bent b = { s.bent b with pool := n } := by
  have hfold (l : List Nat) (f : Nat → Nat) (t : State) :
      (l.foldl (fun t b => t.updBent b (fun B => { B with pool := f b })) t).launches = t.launches ∧
      (l.foldl (fun t b => t.updBent b (fun B => { B with pool := f b })) t).mem = t.mem ∧
      ∀ b, ∃ n, (l.foldl (fun t b => t.updBent b (fun B => { B with pool := f b })) t).bent b = { t.bent b with pool := n } := by
    induction l generalizing t with
    | nil => exact ⟨rfl, rfl, fun b => ⟨_, rfl⟩⟩
    | cons c l ih =>
      obtain ⟨hl, hm, hb⟩ := ih (t.updBent c (fun B => { B with pool := f c }))
      refine ⟨hl, hm, fun b => ?_⟩
      obtain ⟨n, hn⟩ := hb b
      rw [State.bent_updBent] at hn
      by_cases hbc : b = c
      · subst hbc
        rw [if_pos rfl] at hn
        exact ⟨n, hn⟩
      · rw [if_neg hbc] at hn
        exact ⟨n, hn⟩
  exact hfold region (s.poolLeft lid) s

/-- R298: with no fold to carry out nothing is folded. -/
theorem State.foldsAll_of_none {region : List Nat} {s : State} (h : ∀ b ∈ region, (s.bent b).cn.folds = []) (l : NMap Buffer) :
    l.foldl (fun t p => t.foldsOf region p.1) s = s := by
  have hone (bt : Nat) : s.foldsOf region bt = s := by
    unfold State.foldsOf
    suffices hall : ∀ (l : List Nat), (∀ b ∈ l, (s.bent b).cn.folds = []) →
        l.foldl (fun t b => t.foldDue b bt (t.bent b).cn.folds.length) s = s from hall region h
    intro l
    induction l with
    | nil => exact fun _ => rfl
    | cons b l ih =>
      intro hl
      obtain ⟨hb, hl⟩ := List.forall_mem_cons.mp hl
      rw [List.foldl_cons, hb]
      exact ih hl
  induction l with
  | nil => rfl
  | cons p l ih => rw [List.foldl_cons, hone, ih]

section
variable {s : State} {lid : Nat} {L : Launch} (h : s.launch? lid = some L)
include h

theorem State.restoreCut_eq : s.restoreCut lid =
    (L.bufs.foldl (fun t p => t.foldsOf L.region p.1) ((s.cutBack lid L).pools lid L.region)).keepParked L.part := by
  have hundo : (s.undoMemory lid).launch lid = L :=
    State.launch_of_launch? ((congrArg (fun m : NMap Launch => NMap.get? m lid) (State.undoMemory_shows h).1).trans h)
  unfold State.restoreCut
  dsimp only
  rw [hundo]
  rfl

/-- R369: what a cut restored has: memory, launch, bents but for their strands, and strands. -/
theorem State.cutBack_shows :
    (s.cutBack lid L).mem = (L.undo.filter (fun u => L.afterCut u.round && !s.inQueueSlots u.base)).foldl
      (fun m u => Memory.putBytes m u.base u.old) s.mem ∧
    (∃ cs rl, (s.cutBack lid L).launch? lid = some { L.rolled s.dtime with chans := cs, readyList := rl }) ∧
    (∀ b, ∃ ss, (s.cutBack lid L).bent b = { ((s.undoMemory lid).cutBents lid L).bent b with strands := ss }) ∧
    (L.region.Nodup → (L.cutStrands.map (fun m => (m.bent, m.slot))).Nodup → (∀ m ∈ L.cutStrands, m.bent < L.region.length) →
      ∀ m ∈ L.cutStrands, (s.cutBack lid L).strand? (L.region.getD m.bent 0) m.slot = some m.st.replay) := by
  obtain ⟨-, hmem1⟩ := State.undoMemory_shows h
  obtain ⟨-, hmem2⟩ := (s.undoMemory lid).cutBents_keeps lid L
  obtain ⟨hregion, -⟩ := L.rolled_shows s.dtime
  let u := (s.undoMemory lid).cutBents lid L
  let v : State := { u.setLaunch lid (L.rolled s.dtime) with packets := u.packets.filter (fun q => q.lid != lid) }
  have hv : v.launch? lid = some (L.rolled s.dtime) := (NMap.get?_set ..).trans (if_pos rfl)
  have hback := v.putsBack_putBacks lid L.cutStrands
  refine ⟨(v.putBacks_mem lid L.cutStrands).trans (hmem2.trans hmem1), hback.launch _ hv, hback.bent, fun hr hm hb => ?_⟩
  have hstrands := State.strand?_putBacks lid L.cutStrands v hv (by rw [hregion]; exact nodup_slots hr hm hb) (fun m hm => ?_)
  · rw [hregion] at hstrands
    exact hstrands.1
  · have hlt := hb m hm
    rw [hregion, List.getD_eq_getElem _ _ hlt]
    have hempty : (u.bent L.region[m.bent]).strands = [] :=
      State.cutBents_all (P := fun B => B.strands = []) (fun _ _ => rfl) _ (List.getElem_mem _)
    exact congrArg (NMap.get? · m.slot) hempty

/-- R369: with no fold to carry out, restoring a cut changes nothing more than the pools. -/
theorem State.restoreCut_of_no_folds (hf : ∀ m ∈ L.cutUnits, m.bent.cn.folds = []) :
    s.restoreCut lid = ((s.cutBack lid L).pools lid L.region).keepParked L.part := by
  rw [State.restoreCut_eq h, State.foldsAll_of_none (fun b hb => ?_)]
  obtain ⟨-, -, hbent, -⟩ := State.cutBack_shows h
  obtain ⟨-, -, hpool⟩ := (s.cutBack lid L).pools_shows lid L.region
  obtain ⟨n, hn⟩ := hpool b
  obtain ⟨ss, hss⟩ := hbent b
  rw [hn, hss]
  exact State.cutBents_all (P := fun B => B.cn.folds = []) (fun j B => L.folds_unitAt hf lid j B egCN) _ hb

end

/-! ### A launch that fails (R348) -/

/-- R348: a launch once a fault drains it. -/
def Launch.failedAt (L : Launch) (code dtime : Nat) : Launch :=
  { L with fault := code, trapCause := 0, fpc := 0, fwho := 0, tfault := dtime, phase := .draining }

theorem State.launchFault_shows {s : State} {lid : Nat} {L : Launch} (code : Nat) (h : s.launch? lid = some L) (hf : L.fault = 0)
    (hp : L.phase ≠ .ended) : (s.launchFault lid code 0 0 0).mem = s.mem ∧
    (s.launchFault lid code 0 0 0).launch? lid = some (L.failedAt code s.dtime) := by
  have hs : s.launchFault lid code 0 0 0 = s.setLaunch lid (L.failedAt code s.dtime) := by
    unfold State.launchFault
    rw [h]
    exact if_neg (fun hh => hh.elim (fun hh => hh hf) hp)
  rw [hs]
  exact ⟨rfl, (NMap.get?_set ..).trans (if_pos rfl)⟩

theorem State.phase_of_finished {s : State} {lid : Nat} {L : Launch} (h : s.launch? lid = some L) (hfin : s.finished lid = true) :
    L.phase ≠ .ended := by
  intro hp
  simp [State.finished, State.launch_of_launch? h, hp] at hfin

/-! ### The acts on a launch -/

section
variable {s : State} {lid : Nat} {L : Launch} (h : s.launch? lid = some L)
include h

theorem exec_launchCompletion_eq (hfin : s.finished lid = true) : exec (.launchCompletion lid) s =
    .next (if s.sinkSum lid = L.sinks then s.endLaunch lid else if L.sinks < s.sinkSum lid then s.launchFault lid 0x0A 0 0 0
      else if s.maySink lid then s else s.launchFault lid 0x09 0 0 0) := by
  have hexec : exec (.launchCompletion lid) s = execLaunchCompletion lid s := rfl
  rw [hexec, execLaunchCompletion, if_pos (by rw [h, hfin]; rfl), State.launch_of_launch? h]
  dsimp only
  split
  · rfl
  · split
    · rfl
    · split <;> rfl

theorem exec_hangDetected_eq (hp : L.phase = .running) (hn : (s.part L.part).hangNs ≤ s.dtime - L.lastProgress) :
    exec (.hangDetected lid) s = .next (s.launchFault lid 0x0B 0 0 0) := by
  have hexec : exec (.hangDetected lid) s = execHangDetected lid s := rfl
  rw [hexec, execHangDetected, h]
  exact if_pos ⟨hp, hn⟩

theorem exec_regionDrain_draining (hp : L.phase = .draining) : exec (.regionDrain lid) s = .next (s.drainRegion lid) := by
  have hexec : exec (.regionDrain lid) s = execRegionDrain lid s := rfl
  rw [hexec, execRegionDrain, h]
  dsimp only
  rw [hp]

theorem exec_regionDrain_closing (hp : L.phase = .closing) : exec (.regionDrain lid) s = .next (s.endLaunch lid) := by
  have hexec : exec (.regionDrain lid) s = execRegionDrain lid s := rfl
  rw [hexec, execRegionDrain, h]
  dsimp only
  rw [hp]

theorem exec_regionRollback_eq (hp : L.phase = .rolling) : exec (.regionRollback lid) s =
    .next (if L.escalates then (if 1 ≤ L.restarts ∨ L.noRestart = true then s.launchFault lid 0x0C 0 0 0 else s.restart lid)
      else (s.restoreCut lid).journalRoll L.part L.seq 0x05) := by
  have hexec : exec (.regionRollback lid) s = execRegionRollback lid s := rfl
  rw [hexec, execRegionRollback, h]
  exact if_pos hp

/-! ### A restart (R370, R371) -/

/-- R371: a restart whose container is refused. -/
theorem State.restart_refused {t : State} {f : Nat} (hbox : (s.drainRegion lid).loadBox L.part L.ctx L.cbase.toNat = (t, .inl f)) :
    ∃ K, (s.restart lid).launch? lid = some K ∧ K.phase = .draining ∧ (K.fault, K.tfault) = (f, s.dtime) := by
  obtain ⟨K, hK, -, -, hdtime, -⟩ := State.drainRegion_shows h
  have hrw := State.rewrites_of_loadBox hbox
  have hrestart : s.restart lid = t.failRestart lid f := by
    unfold State.restart
    simp only [State.launch_of_launch? h, hbox]
  have ht : t.launch? lid = some K.closed := (congrArg (fun m : NMap Launch => NMap.get? m lid) hrw.launches).trans hK
  rw [hrestart, State.failRestart, State.launch?_updLaunch, if_pos rfl, ht]
  exact ⟨_, rfl, rfl, Prod.ext rfl (hrw.dtime.trans hdtime)⟩

/-- R370: the launch as it begins anew from its container. -/
def Launch.restarted (L : Launch) (x : Loaded) (region : List Nat) : Launch :=
  { launchFrom L.cmd L.tapp L.seq L.part L.queue x region with
    tier := L.tier, deadline := L.deadline, tdisp := L.tdisp, restarts := L.restarts + 1 }

/-- R370: a restart that finds its bents and memory. -/
theorem State.restart_placed {t : State} {x : Loaded} (hlid : lid = L.seq * 8 + L.part) (hr : L.restarts = 0)
    (hbox : (s.drainRegion lid).loadBox L.part L.ctx L.cbase.toNat = (t, .inr x))
    (hmem : (t.eraseLaunch lid).hbmUsed L.part + x.bytes ≤ partBytes)
    (hregion : ((t.eraseLaunch lid).chooseBents L.part x.head.region x.images).length = x.head.region) :
    ∃ K, (s.restart lid).launch? lid = some K ∧ K.phase = .running ∧ K.restarts = 1 ∧ K.text = x.text ∧
      (K.seq, K.part, K.deadline, K.tdisp) = (L.seq, L.part, L.deadline, L.tdisp) := by
  let region := (t.eraseLaunch lid).chooseBents L.part x.head.region x.images
  let u := ((t.eraseLaunch lid).begin_ (L.restarted x region) x).journalRoll L.part L.seq 0x06
  have hrestart : s.restart lid = u.refresh L.part := by
    unfold State.restart
    simp only [State.launch_of_launch? h, hbox]
    exact if_neg (fun hh => hh.elim (fun hh => absurd hregion hh.ne) (fun hh => absurd hmem hh.not_ge))
  obtain ⟨⟨nx, ol, marks, hlaunch⟩, -⟩ := State.begin_shows (s := t.eraseLaunch lid) (L := L.restarted x region) x
    (nodup_chooseBents ..) rfl rfl
  have hlidOf : lidOf (L.restarted x region).part (L.restarted x region).seq = lid := hlid.symm
  rw [hlidOf] at hlaunch
  have hu : u.launch? lid = _ := hlaunch
  rw [hrestart, (u.refreshes_refresh L.part).launch?, hu]
  exact ⟨_, rfl, rfl, congrArg (· + 1) hr, rfl, rfl⟩

end

end Sys2Proof.Machine

namespace Sys2Proof.Proofs

open Sys2Proof.Machine

/-- Settles O52: completion and its record, hang, drain, and the two ends of a rollback. -/
theorem launchesEnd : Obligations.LaunchesEnd := by
  unfold Obligations.LaunchesEnd
  intro s lid L h P gone drains tdone
  refine ⟨fun hfin => ?_, fun hp hn hf => ?_, fun hp => ?_, fun hp => ?_, fun hp => ?_⟩
  · have hexec := exec_launchCompletion_eq h hfin
    have hphase := State.phase_of_finished h hfin
    refine ⟨fun hsum => ?_, fun hlt hmay => ?_, fun hlt hmay hf => ?_, fun hlt hf => ?_⟩
    · rw [if_pos hsum] at hexec
      exact ⟨_, hexec, State.goneFrom_endLaunch h,
        fun ho hidle va loc i j hs h0 h8 hq => State.record_endLaunch h ho hidle hs h0 h8 hq⟩
    · rw [if_neg hlt.ne, if_neg hlt.le.not_gt, if_pos hmay] at hexec
      exact hexec
    · rw [if_neg hlt.ne, if_neg hlt.le.not_gt, if_neg (by rw [hmay]; decide)] at hexec
      exact ⟨_, hexec, State.launchFault_shows 0x09 h hf hphase⟩
    · rw [if_neg hlt.ne', if_pos hlt] at hexec
      exact ⟨_, hexec, State.launchFault_shows 0x0A h hf hphase⟩
  · exact ⟨_, exec_hangDetected_eq h hp hn, State.launchFault_shows 0x0B h hf (by rw [hp]; decide)⟩
  · obtain ⟨K, hK, hfields, hpackets, -, hbents⟩ := State.drainRegion_shows h
    exact ⟨_, K.closed, exec_regionDrain_draining h hp, hK, rfl, hfields, rfl, rfl, rfl, hpackets, hbents⟩
  · exact ⟨_, exec_regionDrain_closing h hp, State.goneFrom_endLaunch h⟩
  · have hexec := exec_regionRollback_eq h hp
    refine ⟨fun hesc hf => ?_, fun hesc hno hf => ?_, fun hesc hr hno hlid => ?_⟩
    · rw [if_neg (by rw [hesc]; decide), State.restoreCut_of_no_folds h hf] at hexec
      obtain ⟨hmem, ⟨cs, rl, hlaunch⟩, hbent, hstrands⟩ := State.cutBack_shows h
      obtain ⟨hl, hm, hpool⟩ := (s.cutBack lid L).pools_shows lid L.region
      have hsame (b k : Nat) : (((s.cutBack lid L).pools lid L.region).strand? b k) = (s.cutBack lid L).strand? b k := by
        obtain ⟨n, hn⟩ := hpool b
        rw [State.strand?, hn, State.strand?]
      refine ⟨_, _, hexec, (congrArg (fun m : NMap Launch => NMap.get? m lid) hl).trans hlaunch, rfl, (L.rolled_shows s.dtime).2, rfl, rfl,
        hm.trans hmem, fun hnd j hj => ?_, fun hnd hmarks hlt m hmem => (hsame ..).trans (hstrands hnd hmarks hlt m hmem)⟩
      obtain ⟨n, hn⟩ := hpool (L.region.getD j 0)
      obtain ⟨ss, hss⟩ := hbent (L.region.getD j 0)
      rw [State.bent_cutBents _ lid hnd hj] at hss
      rw [hss] at hn
      have hB : ((((s.cutBack lid L).pools lid L.region).keepParked L.part).journalRoll L.part L.seq 0x05).bent (L.region.getD j 0) = _ := hn
      rw [hB]
      exact ⟨rfl, rfl, rfl, rfl⟩
    · rw [if_pos hesc, if_pos hno] at hexec
      exact ⟨_, hexec, State.launchFault_shows 0x0C h hf (by rw [hp]; decide)⟩
    · rw [if_pos hesc, if_neg (by rw [hr, hno]; decide)] at hexec
      refine ⟨fun t f hbox => ?_, fun t x hbox hmem hregion => ?_⟩
      · obtain ⟨K, hK, hfields⟩ := State.restart_refused h hbox
        exact ⟨_, K, hexec, hK, hfields⟩
      · obtain ⟨K, hK, hfields⟩ := State.restart_placed h hlid hr hbox hmem hregion
        exact ⟨_, K, hexec, hK, hfields⟩

end Sys2Proof.Proofs
end
